-- ==== Sys2Proof/Word.lean ====
section
/-! DEFINITION. The word and byte types (01 R39: accesses are 32-bit words; R10: structures are little-endian). -/
namespace Sys2Proof

/-- A register or memory word. -/
abbrev Word := BitVec 32

/-- A byte of a frame or of a memory. -/
abbrev Byte := BitVec 8

/-- Word made of four bytes, byte 0 in the low bits (R10). -/
def wordOfBytes (b0 b1 b2 b3 : Byte) : Word := b3 ++ b2 ++ b1 ++ b0

/-- Byte `j` of a word (R10, R580). -/
def byteOfWord (w : Word) (j : Nat) : Byte := w.extractLsb' (8 * j) 8

end Sys2Proof
end

