-- ==== Sys2Proof/Syntax.lean ====
section
/-! DEFINITION. The commands of the block: one constructor for each row of spec/opcode_table.json, and the types
of their operands. A descriptor, a payload, a list or an image is an operand: it is what the device's own read
of host memory delivered (log 5). A frame, an error, a level or a pulse is an operand: it is what the bus, the
link or the pin showed the device. -/
namespace Sys2Proof

/-- Host function H0 or H1 (09 R369). -/
abbrev Fn := Fin 2
/-- Lane L0 to L127 (01, "Four levels"). -/
abbrev LaneId := Fin 128
/-- Quad Q0 to Q31. -/
abbrev QuadId := Fin 32
/-- Engine 0-31 PE0-PE31, 32-35 SE0-SE3 (R40). -/
abbrev EngId := Fin 36
/-- Ethernet port E0 to E3. -/
abbrev PortId := Fin 4
/-- I/O ring number (R372). -/
abbrev RingId := Fin 128
/-- Cirque source (R415). -/
abbrev SrcId := Fin 2048
/-- Cirque target; 36-63 do not exist (R419). -/
abbrev TargetId := Fin 96
/-- Time base TB0 to TB7. -/
abbrev TbId := Fin 8
/-- Col port P0 to P39 (R277). -/
abbrev ColPort := Fin 40
/-- Object number in a quad (R165). -/
abbrev ObjId := Fin 1024
/-- Firn cell (R323). -/
abbrev CellId := Fin 262144
/-- A 32-bit word of the BAR0 map, by number (R39, R40). -/
abbrev WordIx := Fin 0x800000

/-- The eight words of a ring entry (09, "Descriptors"). -/
structure Words8 where
  w0 : Word
  w1 : Word
  w2 : Word
  w3 : Word
  w4 : Word
  w5 : Word
  w6 : Word
  w7 : Word
deriving DecidableEq, Repr

/-- A 16-byte record: a filter element (R218), a route entry or a group descriptor (R303). -/
structure Rec4 where
  w0 : Word
  w1 : Word
  w2 : Word
  w3 : Word
deriving DecidableEq, Repr

/-- Frame formats, codes 1 to 5 of R138. -/
inductive Format where
  | cb | ce | fb | fe | xl
deriving DecidableEq, Repr

/-- A bus frame (R104 to R106). `len` is the DLC for a Classical frame, the payload bytes for FD and XL. -/
structure Frame where
  fmt : Format
  id : BitVec 29
  rtr : Bool
  brs : Bool
  esi : Bool
  sec : Bool
  sdt : Byte
  vcid : Byte
  af : Word
  len : Nat
  data : List Byte
deriving DecidableEq, Repr

/-- What a lane's time base showed of a frame: its value and its interval count (R465) at the SOF edge, and its value at the
end of the DLC field (R138). -/
structure Sof where
  val : Nat
  cnt : Nat
  dlc : Nat
deriving DecidableEq, Repr

/-- A SOF edge on TXD or RXD as the lane's time base showed it: its value and its interval count (R465, R740). -/
structure Edge where
  val : Nat
  cnt : Nat
deriving DecidableEq, Repr

/-- Error types of R120, codes 1 to 7 of R139. -/
inductive ErrKind where
  | bit | stuff | form | ack | crc | pcrc | xlFormat
deriving DecidableEq, Repr

/-- An error met by a transmitting lane (R120, R122): its type, where it was found, and what followed it. -/
structure TxErr where
  ty : ErrKind
  field : BitVec 5
  bitpos : Nat
  /-- base value in the lt of the detection (R138) -/
  seen : Nat
  /-- the format and the ID are known when the error is detected (R138) -/
  hdr : Bool
  /-- no dominant bit sampled during a passive flag (R122, first exception) -/
  quiet : Bool
  /-- stuff error in arbitration on a recessive stuff bit sampled dominant (R122, second exception) -/
  arbStuff : Bool
  /-- the bit errors found during the lane's own active error flag (R122): bit position, base value -/
  flagErrs : List (Nat × Nat)
  /-- runs of consecutive dominant bits after the flag, 14th or 8th and each further 8 (R122) -/
  domRuns : Nat
  /-- the loop delay was measured in this attempt (R62): none, or the edge found, if any -/
  loop : Option (Option Nat)
deriving DecidableEq, Repr

/-- An error met by a lane that is not transmitting, with what it had received. -/
structure RxErr where
  ty : ErrKind
  field : BitVec 5
  bitpos : Nat
  /-- base value in the lt of the detection (R138) -/
  seen : Nat
  /-- format, ID and whatever else had been received, if the format and ID are known (R138) -/
  hdr : Option Frame
  /-- a bit error during the lane's own active error flag or overload flag (R122) -/
  ownFlag : Bool
  /-- dominant sampled as the first bit after the lane's own error flag (R122) -/
  firstDom : Bool
  domRuns : Nat
  /-- the SOF of the frame -/
  sof : Sof
  /-- the error was detected after the check point of R311 -/
  afterCheck : Bool
deriving DecidableEq, Repr

/-- RXD sampled dominant for LANE_STUCK nominal bits (R149): the error, and whether VIO of the lane's bank has fallen below
1.0 V, so that the lane input reads dominant whatever the ball level (R715, R725). -/
structure StuckSeen where
  err : RxErr
  vioLow : Bool
  /-- what the attempt still on TXD, if any, had measured of its loop delay (R62) -/
  loop : Option (Option Nat)
deriving DecidableEq, Repr

/-- An overload frame (R113): who saw what of it. -/
structure Ovld where
  /-- the lane answers with its own overload flag -/
  sends : Bool
  /-- an overload flag of another node was seen (R162) -/
  seen : Bool
  /-- the lane was the transmitter of the frame before it -/
  asTx : Bool
  /-- the bit errors found during the lane's own overload flag (R122): bit position, base value -/
  flagErrs : List (Nat × Nat)
  domRuns : Nat
deriving DecidableEq, Repr

/-- The descriptor of a command that can end a reception, and the frame in reception, if it has passed its check point
(R311). -/
structure StopDesc where
  d : Words8
  past : Option Frame
deriving DecidableEq, Repr

/-- A TX descriptor, and the other SQs that name its bus and hold descriptors (R192). -/
structure TxFetch where
  d : Words8
  rivals : List RingId
deriving DecidableEq, Repr

/-- What a kill meets on lane `lane`: whether the copy is in arbitration (R312), what its attempt has measured of the loop
delay (R62), and what the lane meets in and after the error flag that it sends (R122): the bit errors, each a bit position
and the base value, and the runs of dominant bits. -/
structure KillSeen where
  lane : LaneId
  arb : Bool
  loop : Option (Option Nat)
  flagErrs : List (Nat × Nat)
  domRuns : Nat
deriving DecidableEq, Repr

/-- An open list to be looked at, of lane `lane`, and the interval count at the SOF edge of the reception in progress on the
partner lane, if any (R269). -/
structure DupSeen where
  lane : LaneId
  partner : Option Nat
deriving DecidableEq, Repr

/-- An Ethernet frame from the destination address to the byte before the FCS, the base value and the lane clock at its
SFD, and whether its FCS was good. -/
structure EthFrame where
  bytes : List Byte
  sfd : Nat
  lt : Nat
  fcsOk : Bool
deriving DecidableEq, Repr

/-- A PTP message that SE1 receives: its sequence number, the bytes of its frame, and the colour to which the port's policer has
metered the frame. -/
structure PtpIn where
  seq : Nat
  bytes : List Byte
  colour : Fin 3
deriving DecidableEq, Repr

/-- Who makes an access: a host function or an engine. -/
inductive Agent where
  | host (f : Fn)
  | engine (e : EngId)
deriving DecidableEq, Repr

/-- What stopped blocking an MSI-X vector (R429). -/
inductive Unblock where
  | entry | funcMask | enable | busMaster
deriving DecidableEq, Repr

/-- What happens at a pin engine between two of its instructions: a sample point, with the sample, and in the fixed stuffing
modes whether it is of a stuff bit (R642, R644); a bit that begins, with the level of the codec where it sends no data bit, and
whether it takes one for transmission (R645); a word that the protocol engine has written to TXQ becomes visible; the oldest
word or event on its way to the protocol engine reaches it; the protocol engine takes the oldest word, or event (R648, R650). -/
inductive PinSeen where
  | sample (recessive stuff : Bool)
  | bit (recessive take : Bool)
  | wrote (w : Word)
  | crossed
  | took
  | heard
deriving DecidableEq, Repr

/-- The delay of a pin-engine instruction, and what has happened at the engine since its last one, oldest first (log 105). -/
structure PinArg where
  dl : BitVec 4
  seen : List PinSeen
deriving DecidableEq, Repr

/-- A doorbell page of BAR2 (R43). -/
inductive Doorbell where
  | sqTail (n : RingId) | cqHead (n : RingId) | adminTail | adminHead
deriving DecidableEq, Repr

/-- Where a read falls: a word of BAR0 (R40), a doorbell of BAR2 (R44), or word `w + 1` of an object through BAR4 (R45): words 0
and 31 have rows of their own. -/
inductive ReadAt where
  | bar0 (a : WordIx)
  | doorbell (d : Doorbell)
  | object (q : QuadId) (o : ObjId) (w : Fin 30)
deriving DecidableEq, Repr

/-- What the release of the main reset meets: the straps (R667) and the VIO of banks 0 to 7 in mV (R716). -/
structure Straps where
  bootSrc : BitVec 2
  role : BitVec 2
  vio : List Nat
deriving DecidableEq, Repr

/-- What the scrubber's read found (R694, R695). -/
inductive ScrubKind where
  | clean | corrected | uncorrectable | passEnd
deriving DecidableEq, Repr

/-- One scrubber read: memory code and unit (R696, R707), word offset, syndrome, outcome. -/
structure ScrubRead where
  mem : Fin 10
  unit : Nat
  addr : Nat
  synd : BitVec 7
  kind : ScrubKind
  /-- found by the scrubber; else by another access to the word, which then meets the word as marked -/
  scrub : Bool
deriving DecidableEq, Repr

/-- What a filter decision met (R230, R238): a parity error of the element cache, and the uncorrectable ECC errors found in
elements that it read from filter memory, each a word offset within the list and its syndrome. -/
structure WalkErr where
  parity : Bool
  ecc : List (Nat × BitVec 7)
deriving DecidableEq, Repr

/-- The commit of a list: its logical bus, and whether a walk or a cached decision of a frame that is still arriving is in
progress on a lane of the bus outside OFF (R241 step 4). -/
structure FltCommit where
  bus : LaneId
  walks : Bool
deriving DecidableEq, Repr

/-- The commands. -/
inductive Instr where
  /-- ADMIN_NOP (R399): Admin NOP command taken from an admin SQ and completed DONE with no effect. -/
  | adminNop (f : Fn) (d : Words8)
  /-- ADMIN_OPCODE_UNKNOWN (R401): An admin command with an unlisted opcode completes REFUSED with cause OPCODE. -/
  | adminOpcodeUnknown (f : Fn) (d : Words8)
  /-- FUNC_ENABLE (R401): FUNC_ENABLE moves the host function block out of its set-up state, or is refused with cause STATE if the function is already enabled. -/
  | funcEnable (f : Fn) (d : Words8)
  /-- RING_CREATE_CQ (R402): Backs an I/O CQ with host memory, starts PHASE at 1 and begins completing held frames, or is refused with cause OWNED or STATE. -/
  | ringCreateCq (f : Fn) (d : Words8)
  /-- RING_CREATE_SQ (R402): Takes ownership of an I/O SQ bound to a CQ with head and tail 0, or is refused with cause OWNED, STATE or NOT_FOUND. -/
  | ringCreateSq (f : Fn) (d : Words8)
  /-- RING_DELETE_SQ (R402): Stops fetch from an SQ and aborts its uncommitted entries. -/
  | ringDeleteSq (f : Fn) (d : Words8)
  /-- RING_DELETE_SQ_COMMIT (R402): Once every entry fetched from the deleted SQ has completed, the SQ is freed and the command completes. -/
  | ringDeleteSqCommit (n : RingId)
  /-- RING_DELETE_CQ (R402): Frees a CQ, forgets its posted buffers and frees its held frames, or is refused while an SQ names it. -/
  | ringDeleteCq (f : Fn) (d : Words8)
  /-- ADOPT_RINGS (R406): Gives the issuing function every orphaned CQ in a range, with its quota, buffer size, held frames and drop count. -/
  | adoptRings (f : Fn) (d : Words8)
  /-- LANE_START (R101): Moves a lane from OFF to INIT, or is refused with cause STATE. -/
  | laneStart (f : Fn) (d : Words8)
  /-- LANE_STOP (R102): Returns a lane to OFF, at once or at the end of the frame on TXD, completing queued entries LANE_DOWN. -/
  | laneStop (f : Fn) (d : StopDesc)
  /-- LANE_SUSPEND (R101): Puts an ACTIVE or RESTRICTED lane into HOLD with cause HOST, committing at the frame end if the lane is transmitting. -/
  | laneSuspend (f : Fn) (d : Words8)
  /-- LANE_RESUME (R101): Ends a HOLD with cause HOST, or the LISTEN entered under R91, returning the lane to its recorded state. -/
  | laneResume (f : Fn) (d : Words8)
  /-- BUSOFF_RECOVER (R101): Moves a lane from HOLD with cause BUSOFF into RECOVERY. -/
  | busoffRecover (f : Fn) (d : Words8)
  /-- BUS_BIND (R400): Binds a lane to a time base and, with SEEK_BIND 1 in a permitted state, starts a rate seek. -/
  | busBind (f : Fn) (d : StopDesc)
  /-- TX_CANCEL (R198): Marks the named descriptor entry of an SQ as cancelled, or is refused with cause NOT_FOUND. -/
  | txCancel (f : Fn) (d : Words8)
  /-- TX_ABORT (R198): Marks every entry fetched from one SQ as aborted and reports how many entries it marked. -/
  | txAbort (f : Fn) (d : Words8)
  /-- FLT_LOAD (R240): Takes a filter list load for a logical bus, checks it for BUSY, LIST_SIZE and OVERLAP, and starts the transfer into the shadow half. -/
  | fltLoad (f : Fn) (d : Words8)
  /-- FLT_LOAD_TRANSFER_DONE (R241): The list has been transferred and clamped, a sorted list is checked, and a short list is copied to the shadow element cache. -/
  | fltLoadTransferDone (b : LaneId) (els : List Rec4)
  /-- FLT_LOAD_COMMIT (R241): Once no walk is in progress, the halves swap, the new list and default action take effect, and the command completes DONE. -/
  | fltLoadCommit (b : FltCommit)
  /-- RT_LOAD (R303): Takes a load of route entries or group descriptors, checks it for BUSY and RANGE, and starts the transfer to SE0 staging. -/
  | rtLoad (f : Fn) (d : Words8)
  /-- RT_LOAD_COMMIT (R304): SE0 pauses lookups, writes the whole staged run and resumes lookups. -/
  | rtLoadCommit (recs : List Rec4)
  /-- POL_LOAD (R338): Takes a load of policer records, checks it for BUSY and RANGE, and starts the transfer. -/
  | polLoad (f : Fn) (d : Words8)
  /-- POL_LOAD_COMMIT (R338): Every loaded policer takes its new record with both buckets full. -/
  | polLoadCommit (recs : List (BitVec 64))
  /-- POWER_MODE (R685): Starts a change of device power mode: judges R36 and sends the target voltage by PMBus or VID. -/
  | powerMode (f : Fn) (d : Words8)
  /-- POWER_MODE_SETTLE_END (R685): When SETTLE_US has elapsed, MODE takes the new value, source 887 is raised and the command completes. -/
  | powerModeSettleEnd
  /-- PMBUS_WRITE_NACK (R686): The regulator does not acknowledge a PMBus write; the write is retried, and after three failures VFAULT is set and the previous target is restored. -/
  | pmbusWriteNack
  /-- PWR_GOOD_FALL_DURING_MOVE (R686): PWR_GOOD falls while VCORE moves: VFAULT is set, the previous target is sent again and the command is refused. -/
  | pwrGoodFallDuringMove
  /-- TB_STEP (R469): Adds a signed step to a time base, or refuses it above STEP_LIMIT unless the FORCE key is given. -/
  | tbStep (f : Fn) (d : Words8)
  /-- PORT_ENABLE (R539): Starts the PCS of an Ethernet port, or is refused if the port is already enabled. -/
  | portEnable (f : Fn) (d : Words8)
  /-- PORT_DISABLE (R539): Disables an Ethernet port at the end of the frame on the wire, treating its frames as at hold expiry. -/
  | portDisable (f : Fn) (d : Words8)
  /-- BLOCK_START_MORAINE (R527): BLOCK_START with block 0 moves Moraine out of its set-up state and starts capture. -/
  | blockStartMoraine (f : Fn) (d : Words8)
  /-- BLOCK_STOP_MORAINE (R519): BLOCK_STOP with block 0 stops capture and writes the ring header. -/
  | blockStopMoraine (f : Fn) (d : Words8)
  /-- BLOCK_START_TIME_BASES (R463): BLOCK_START with block 1 ends the set-up state of the time bases and resumes time distribution and the transparent clock. -/
  | blockStartTimeBases (f : Fn) (d : Words8)
  /-- BLOCK_STOP_TIME_BASES (R464): BLOCK_STOP with block 1 stops time distribution onto buses and the transparent clock, without stopping the bases. -/
  | blockStopTimeBases (f : Fn) (d : Words8)
  /-- BLOCK_START_STACK (R538): BLOCK_START with block 2 starts the stack role, or is refused with cause STATE on inconsistent identities. -/
  | blockStartStack (f : Fn) (d : Words8)
  /-- BLOCK_STOP_STACK (R538): BLOCK_STOP with block 2 stops stack traffic, frees stack frames and returns the stack block to its set-up state. -/
  | blockStopStack (f : Fn) (d : Words8)
  /-- BLOCK_START_SNOWLINE (R441): BLOCK_START with block 3 arms Snowline and sets ARMED. -/
  | blockStartSnowline (f : Fn) (d : Words8)
  /-- BLOCK_STOP_SNOWLINE (R441): BLOCK_STOP with block 3 disarms Snowline and clears ARMED. -/
  | blockStopSnowline (f : Fn) (d : Words8)
  /-- ARM (R524): REC_CTRL ARM clears FROZEN and TRIGGERED, sets ARMED and continues recording. -/
  | arm (f : Fn) (d : Words8)
  /-- TRIGGER (R515): REC_CTRL TRIGGER acts as a trigger firing with no record, and is refused unless ARMED. -/
  | trigger (f : Fn) (d : Words8)
  /-- FREEZE (R524): REC_CTRL FREEZE freezes Moraine, and is refused if it is already frozen. -/
  | freeze (f : Fn) (d : Words8)
  /-- DUMP (R525): REC_CTRL DUMP starts copying part of the attached ring to host memory. -/
  | dump (f : Fn) (d : Words8)
  /-- DUMP_DONE (R525): The DUMP copy completes and reports the units copied. -/
  | dumpDone
  /-- HRING_RESTART (R522): REC_CTRL HRING_RESTART sets HEAD and WRITE of the host ring to 0 and clears HOST_LOST. -/
  | hringRestart (f : Fn) (d : Words8)
  /-- CLEAR (R525): REC_CTRL CLEAR empties a frozen ring, keeps SEQ and leaves Moraine frozen. -/
  | clear (f : Fn) (d : Words8)
  /-- REC_STATUS (R524): REC_CTRL STATUS returns WRITE, OLDEST, the next SEQ, the trigger offset and the status bits. -/
  | recStatus (f : Fn) (d : Words8)
  /-- ROUTE_PUSH (R558): STACK_CTRL ROUTE_PUSH sends a run of route entries for an epoch to one device or to all devices. -/
  | routePush (f : Fn) (d : Words8) (recs : List Rec4)
  /-- EPOCH_COMMIT (R559): STACK_CTRL EPOCH_COMMIT sends EPOCH_COMMIT frames with activation time TB0 plus lead. -/
  | epochCommit (f : Fn) (d : Words8)
  /-- EPOCH_COMMIT_DONE (R559): At A plus HB_MISS times HB_INTERVAL the command completes, counting applied, incomplete and silent devices. -/
  | epochCommitDone
  /-- HANDOVER (R556): STACK_CTRL HANDOVER makes the acting backup send HANDOVER to the configured master. -/
  | handover (f : Fn) (d : Words8)
  /-- STACK_STATUS (R557): STACK_CTRL STATUS returns STACK_STATE and STACK_CNT fields. -/
  | stackStatus (f : Fn) (d : Words8)
  /-- IMAGE_LOAD (R678): Reads an image from host memory for verification against the masks, or is refused with cause STATE. -/
  | imageLoad (f : Fn) (d : Words8)
  /-- IMAGE_LOAD_COMMIT (R678): After verification passes, the named engines are stopped, loaded and started; on failure the command is refused with cause IMAGE. -/
  | imageLoadCommit (img : List Byte)
  /-- SQ_TAIL_DOORBELL (R377): A write to an SQ tail doorbell sets the tail, reduced modulo the ring size. -/
  | sqTailDoorbell (f : Fn) (n : RingId) (v : Word)
  /-- CQ_HEAD_DOORBELL (R378): A write to a CQ head doorbell releases completion entries, reduced to the CQ's tail. -/
  | cqHeadDoorbell (f : Fn) (n : RingId) (v : Word)
  /-- ADMIN_SQ_TAIL_DOORBELL (R43): A write to the admin SQ tail doorbell publishes admin commands. -/
  | adminSqTailDoorbell (f : Fn) (v : Word)
  /-- ADMIN_CQ_HEAD_DOORBELL (R43): A write to the admin CQ head doorbell releases admin completions. -/
  | adminCqHeadDoorbell (f : Fn) (v : Word)
  /-- TX (R384): A TX descriptor is fetched, its fields are clamped, and its payload read is started. -/
  | tx (n : RingId) (d : TxFetch)
  /-- TX_PAYLOAD_READ_DONE (R191): The payload of a fetched descriptor is in the quad, and the entry enters the transmit order. -/
  | txPayloadReadDone (n : RingId) (data : List Byte)
  /-- WAITING_ADMISSION_GRANT (R331): A waiting admission of host or service-engine traffic fits at last and is admitted. -/
  | waitingAdmissionGrant (p : ColPort)
  /-- ETH_TX (R386): An ETH_TX descriptor is fetched to send one Ethernet frame on a port. -/
  | ethTx (n : RingId) (d : Words8)
  /-- ETH_TX_START (R387): An Ethernet port begins sending a frame's preamble, which is its commit point. -/
  | ethTxStart (e : PortId)
  /-- ETH_FRAME_TX_END (R539): The frame on an Ethernet port's wire ends and its completion and stamp are produced. -/
  | ethFrameTxEnd (e : PortId)
  /-- RXBUF (R388): An RXBUF descriptor posts receive buffers to a CQ. -/
  | rxbuf (n : RingId) (d : Words8)
  /-- IO_NOP (R383): A NOP descriptor, or one with an unknown opcode, completes DONE with KIND NOP. -/
  | ioNop (n : RingId) (d : Words8)
  /-- RX_COMPLETION_WRITE (R393): Once a free slot and enough buffers exist, a held frame's payload and completion are written to its CQ. -/
  | rxCompletionWrite (n : RingId)
  /-- FLR (R404): A function-level reset removes the function's rings, entries, claims and locks and orphans its CQs. -/
  | flr (f : Fn)
  /-- FUNC_LINK_LOSS (R404): Loss of a function's link, or assertion of its PERST#, runs the function reset sequence from step 2. -/
  | funcLinkLoss (f : Fn)
  /-- OBJECT_WORD0_READ (R178): A host read of word 0 of an object takes its lock, or reports LOCK_DENIED. -/
  | objectWord0Read (f : Fn) (q : QuadId) (o : ObjId)
  /-- OBJECT_RELEASE (R179): The holder's read of word 31 applies any shadow, publishes staging, and acts on TX_REQ and CANCEL. -/
  | objectRelease (f : Fn) (q : QuadId) (o : ObjId)
  /-- OBJECT_WRITE (R181): A host write to an object goes to the staging copy, or is ignored and counted. -/
  | objectWrite (f : Fn) (q : QuadId) (o : ObjId) (w : Fin 32) (v : Word) (be : BitVec 4)
  /-- OBJ_LOCK_TIMEOUT (R179): An object lock expires: the shadow is applied, staging is discarded and LOCK_EXPIRED is set. -/
  | objLockTimeout (q : QuadId) (o : ObjId)
  /-- PERIODIC_RELEASE (R184): A periodic send object releases an instance into the transmit order at T0 plus k times PERIOD. -/
  | periodicRelease (q : QuadId) (o : ObjId)
  /-- DEADLINE_EXPIRY (R194): The deadline of a transmit entry passes, and the entry leaves with EXPIRED unless it is in an attempt. -/
  | deadlineExpiry (dst : Fin 132) (ent : Nat)
  /-- HOLD_EXPIRY (R202): A lane's hold timer reaches HOLD_MS: held entries complete LANE_DOWN and source 256+4L+3 is raised. -/
  | holdExpiry (l : LaneId)
  /-- TRAIL_MS_EXPIRY (R258): A trailing copy without a deadline ends once TRAIL_MS has elapsed and counts in TRAIL_LOST. -/
  | trailMsExpiry (l : LaneId) (ent : Nat)
  /-- TX_SOF (R197): The lane decides to start the SOF of its lowest-keyed entry, which commits the transmission. -/
  | txSof (l : LaneId) (joined : Option Edge)
  /-- ARB_LOST (R118): An attempt loses arbitration; the entry stays queued, or completes ARB_LOST if one-shot. -/
  | arbLost (l : LaneId)
  /-- TX_SUCCESS (R111): The last EOF bit of a transmitted frame is sampled without error and the entry completes. -/
  | txSuccess (l : LaneId) (loop : Option Nat)
  /-- TX_ERROR (R121): A transmitting lane detects an error, sends its error flag and changes TEC. -/
  | txError (l : LaneId) (x : TxErr)
  /-- RX_ERROR (R120): A receiving lane detects an error, signals it by its state, changes REC and logs the violation. -/
  | rxError (l : LaneId) (x : RxErr)
  /-- PROTOCOL_EXCEPTION (R110): A recessive res or resXL, or a disabled format, stops reception without error signalling. -/
  | protocolException (l : LaneId) (x : RxErr)
  /-- OVERLOAD_FRAME (R113): The lane answers a dominant bit in intermission or at a frame end with an overload frame. -/
  | overloadFrame (l : LaneId) (x : Ovld)
  /-- FRAME_VALID (R111): A received frame is valid at the last-but-one EOF bit and is delivered, matched and acted on. -/
  | frameValid (l : LaneId) (fr : Frame) (sof : Sof) (h : Unit)
  /-- FILTER_DECISION (R233): The quad's walker, or the element cache, finishes deciding a frame's action between its S and D. -/
  | filterDecision (l : LaneId) (fr : Frame) (sof : Sof) (late : Bool) (err : WalkErr) (h : Unit)
  /-- CUT_THROUGH_LOOKUP (R306): At the end of the control field a ROUTE decision is read and the frame starts cut-through or falls back to store-and-forward. -/
  | cutThroughLookup (l : LaneId) (fr : Frame) (paused : Bool)
  /-- CT_KILL_ARRIVAL (R312): A kill reaches an egress copy, which is removed or ended with an error flag or a corrupted FCRC. -/
  | ctKillArrival (l : KillSeen)
  /-- CT_KILL_WINDOW_END (R316): At the end of a 1,000 ms window SE0 sets CT_FALLBACK for routes whose kills exceeded the limit. -/
  | ctKillWindowEnd
  /-- COL_SLOT (R284): Col runs a self-timed slot of request, grant and accept rounds and moves the matched cells. -/
  | colSlot
  /-- STUCK_DOMINANT (R149): RXD sampled dominant for LANE_STUCK bits puts the lane into HOLD with cause STUCK. -/
  | stuckDominant (l : LaneId) (x : StuckSeen)
  /-- LCTL_SETTLE_EXPIRY (R100): LCTL_SETTLE elapses after a transceiver mode change, and sampling or integration begins. -/
  | lctlSettleExpiry (l : LaneId)
  /-- SELF_TEST_FAULT_FOUND (R150): Eleven recessive samples during the standby self-test log STUCK_SELF and put the lane into ISOLATED. -/
  | selfTestFaultFound (l : LaneId)
  /-- SELF_TEST_WINDOW_END (R150): The 1,024 tb window ends without recessive samples; LCTL returns to normal and the fault is marked external. -/
  | selfTestWindowEnd (l : LaneId)
  /-- STUCK_FAULT_END (R152): Eleven recessive bits after an external stuck fault return the lane from HOLD with cause STUCK. -/
  | stuckFaultEnd (l : LaneId)
  /-- INTEGRATION_COMPLETE (R100): The eleventh recessive sample in INIT completes integration and the lane enters its operating state. -/
  | integrationComplete (l : LaneId)
  /-- REJOIN_AFTER_IDLE (R117): After an error or protocol exception, 11 recessive bits let the lane take part in the bus again. -/
  | rejoinAfterIdle (l : LaneId)
  /-- RECOVERY_COMPLETE (R132): The 128th sequence of 11 recessive bits clears TEC and REC and ends RECOVERY. -/
  | recoveryComplete (l : LaneId)
  /-- BO_COUNT_AGE (R89): A BUS_OFF entry ages out of the 10,000 ms window and BO_COUNT falls. -/
  | boCountAge (l : LaneId)
  /-- SEEK_FRAME_END (R82): A frame seen in RATE_SEEK is judged at the current candidate and counted, or moves the seek to the next candidate. -/
  | seekFrameEnd (l : LaneId) (fr : Frame) (good : Bool)
  /-- SEEK_DWELL_EXPIRY (R82): DWELL elapses and the seek moves to the next candidate. -/
  | seekDwellExpiry (l : LaneId)
  /-- SEEK_TIMEOUT (R82): TIMEOUT elapses without a declaration: TIMED_OUT is set, or the first member of the group is declared under R85. -/
  | seekTimeout (l : LaneId)
  /-- DECLARED_TIMING_APPLY (R87): After 11 recessive bits the declared timing takes effect and the lane joins, stays in LISTEN or returns to a hold. -/
  | declaredTimingApply (l : LaneId)
  /-- GUARD_WINDOW_END (R148): A rate-guard window ends; counts restart and a quarantine lifts if the window stayed within MAXCNT. -/
  | guardWindowEnd (l : LaneId) (g : Fin 16)
  /-- QUARANTINE_LIFT (R148): A host write of 1 to QUARANTINED lifts a guard's quarantine. -/
  | quarantineLift (f : Fn) (l : LaneId) (g : Fin 16)
  /-- VLOG_CLEAR (R143): A write of CLEAR empties the violation log except LOST. -/
  | vlogClear (f : Fn) (l : LaneId)
  /-- DUP_ENTRY_EXPIRY (R269): An open duplicate entry leaves unmatched after DUP_WIN and counts in SINGLE_A or SINGLE_B. -/
  | dupEntryExpiry (l : DupSeen)
  /-- QUAD_MODE_WRITE (R170): A write of MODE in QUAD_CTRL changes the quad mode and re-evaluates every enabled object of the quad. -/
  | quadModeWrite (f : Fn) (q : QuadId) (mode : BitVec 2)
  /-- QUAD_GATE_WRITE (R689): A write of GATE powers a quad's rims down or starts powering them up. -/
  | quadGateWrite (f : Fn) (q : QuadId) (gate : Bool)
  /-- QUAD_GATED_DONE (R690): GATED follows a write of GATE 1 once the quad's rims are powered down. -/
  | quadGatedDone (q : QuadId)
  /-- QUAD_UNGATE_DONE (R690): After the element caches have been reloaded, GATED clears and source 895 is raised. -/
  | quadUngateDone (q : QuadId)
  /-- SWEEP_COMPARE (R348): The Crevasse sweep compares one cell against its count, its free-list membership and its holds, and acts on leaks. -/
  | sweepCompare (c : CellId)
  /-- ETH_LINK_DOWN (R345): An Ethernet link goes down; its queue is held and routes move to ALT paths. -/
  | ethLinkDown (e : PortId)
  /-- ETH_LINK_UP (R346): An Ethernet link comes up; the hold timer stops and sending resumes by class. -/
  | ethLinkUp (e : PortId) (speed : BitVec 2)
  /-- PORT_HOLD_EXPIRY (R347): An Ethernet port hold reaches HOLD_MS: held frames are freed or complete LANE_DOWN. -/
  | portHoldExpiry (e : PortId)
  /-- ETH_FRAME_RX (R540): A non-stack Ethernet frame is received, stamped, forwarded as PTP if enabled, and completed as ETH_RX or dropped. -/
  | ethFrameRx (e : PortId) (fr : EthFrame)
  /-- STACK_DATA_RX (R547): A stack DATA frame is checked and then accepted into a transmit order or relayed. -/
  | stackDataRx (e : PortId) (fr : EthFrame)
  /-- HEARTBEAT_RX (R554): A received heartbeat updates CUR_MASTER and the epoch checks, and may end an acting role. -/
  | heartbeatRx (e : PortId) (fr : EthFrame)
  /-- ROUTE_PUSH_RX (R558): A ROUTE_PUSH frame's entries are staged by SE0 for its epoch. -/
  | routePushRx (e : PortId) (fr : EthFrame)
  /-- EPOCH_COMMIT_RX (R559): An EPOCH_COMMIT frame schedules the staged entries for activation, or discards them when incomplete. -/
  | epochCommitRx (e : PortId) (fr : EthFrame)
  /-- EPOCH_ACK_RX (R559): The master records an addressee's EPOCH_ACK. -/
  | epochAckRx (e : PortId) (fr : EthFrame)
  /-- NAK_RX (R552): A received NAK counts in NAK_RCVD and raises source 869. -/
  | nakRx (e : PortId) (fr : EthFrame)
  /-- HANDOVER_RX (R556): A standby configured master that receives HANDOVER becomes MASTER at once. -/
  | handoverRx (e : PortId) (fr : EthFrame)
  /-- EPOCH_ACTIVATION (R559): TB0 reaches the activation time and the staged routes are applied as one commit. -/
  | epochActivation
  /-- HEARTBEAT_TIMER (R553): The acting master sends a HEARTBEAT to all devices every HB_INTERVAL. -/
  | heartbeatTimer
  /-- MASTER_LISTEN_END (R553): The master's initial listen period ends and it becomes MASTER or STANDBY. -/
  | masterListenEnd
  /-- MASTER_LOST (R554): No master heartbeat is heard for HB_MISS intervals; MASTER_LOST is set and the backup promotes itself. -/
  | masterLost
  /-- BROADCAST_SEQ_FORGET (R549): The kept broadcast SEQ of an origin is forgotten after HB_MISS times HB_INTERVAL without an acceptance. -/
  | broadcastSeqForget (backup : Bool)
  /-- SYNC_TX_TIMER (R561): The acting master's SE1 sends two-step Sync and Follow_Up every 2^-SYNC_INT s. -/
  | syncTxTimer
  /-- SYNC_RX (R561): A member's SE1 takes a Sync from the master's port. -/
  | syncRx (e : PortId) (seq : PtpIn) (ingress : Nat)
  /-- FOLLOW_UP_RX (R561): A member's SE1 takes a Follow_Up and disciplines TB0 by rate, slew or step. -/
  | followUpRx (e : PortId) (seq : PtpIn) (origin : Nat) (corr : Int)
  /-- DELAY_REQ_RX (R561): The master's SE1 answers a Delay_Req with Delay_Resp. -/
  | delayReqRx (e : PortId) (src : Nat) (seq : PtpIn) (ingress : Nat)
  /-- DELAY_RESP_RX (R561): A member's SE1 takes a Delay_Resp to compute the path delay. -/
  | delayRespRx (e : PortId) (seq : PtpIn) (recv : Nat)
  /-- CIRQUE_DOORBELL (R417): A write to CIRQUE_DOORBELL adds one event to a source. -/
  | cirqueDoorbell (w : Agent) (v : Word)
  /-- CIRQUE_COMMIT (R423): When the target is ready, an offered source is committed as an MSI-X write or an engine claim. -/
  | cirqueCommit (t : TargetId)
  /-- MOD_TIME_EXPIRY (R430): MOD_TIME elapses since a target's last commit, which makes the target ready. -/
  | modTimeExpiry (t : TargetId)
  /-- CIRQUE_CLAIM (R425): A read of CIRQUE_CLAIM claims the delivered or selected source and zeroes its COUNT. -/
  | cirqueClaim (r : Agent) (t : TargetId)
  /-- CIRQUE_COMPLETE (R426): A write to CIRQUE_COMPLETE ends service of an active source, which may pend again. -/
  | cirqueComplete (w : Agent) (t : TargetId) (v : Word)
  /-- CIRQUE_SRC_WRITE (R429): A write of EN, PRIO or TARGET to a source reruns selection and may withdraw an offer. -/
  | cirqueSrcWrite (w : Agent) (n : SrcId) (v : Word)
  /-- SOURCE_CLR (R434): A write of CLR zeroes a source's COUNT unless it is active or delivered. -/
  | sourceClr (w : Agent) (n : SrcId)
  /-- IDLE_WRITE (R431): The driver writes IDLE 1 to a host target, making it ready at once. -/
  | idleWrite (f : Fn) (t : TargetId)
  /-- MSIX_VECTOR_UNBLOCK (R429): Unmasking or enabling an MSI-X vector lets a held offer commit and clears the pending bit. -/
  | msixVectorUnblock (f : Fn) (v : Fin 16) (how : Unblock)
  /-- TB_SLEW_WRITE (R467): A write of TB_SLEW starts a new slew, or with AMOUNT 0 ends the running one. -/
  | tbSlewWrite (w : Agent) (n : TbId) (v : BitVec 64)
  /-- SLEW_DONE (R467): The slew remainder reaches 0, which sets SLEW_DONE and raises source 840+n. -/
  | slewDone (n : TbId)
  /-- TB_TIME_CAPTURE (R474): A read of word 0 of TB_TIME captures the whole base for the reader. -/
  | tbTimeCapture (r : Agent) (n : TbId)
  /-- TB_SET (R499): A write of word 0 of TB_SET loads the base directly while the block is in its set-up state. -/
  | tbSet (w : Agent) (n : TbId) (v : Word)
  /-- SYNC_RELEASE (R487): A distribution channel releases a bus sync frame when its base passes a multiple of PERIOD. -/
  | syncRelease (c : Fin 16)
  /-- MOR_RECORD_WRITE (R510): Moraine writes an admitted candidate as a record to its ring, with any LOSS record before it. -/
  | morRecordWrite
  /-- POST_WINDOW_END (R516): Base TB reaches T plus POST_MS and Moraine freezes. -/
  | postWindowEnd
  /-- MOR_HEADER_WRITE (R519): The ring header is written every 1 ms. -/
  | morHeaderWrite
  /-- MOR_HHEAD_WRITE (R521): The host returns space in the host ring by writing MOR_HHEAD, reduced to WRITE. -/
  | morHheadWrite (f : Fn) (v : Word)
  /-- WUP_DETECTED (R442): A watched lane sees the ISO 11898-2 wake-up pattern and wakes the device. -/
  | wupDetected (n : Fin 16)
  /-- SW_FRAME_END (R444): A selective-wake decoder judges a frame for pattern match or error and may wake the device. -/
  | swFrameEnd (n : Fin 16) (fr : Frame) (good : Bool)
  /-- WAKE_PIN (R446): A filtered WAKE0_N or WAKE1_N low level sets its cause and wakes the device or raises its source. -/
  | wakePin (i : Fin 2)
  /-- GPIO_WAKE (R446): A filtered GPIO level selected by GPIO_POL sets its cause and wakes the device or raises its source. -/
  | gpioWake (i : Fin 4)
  /-- PERST_WAKE (R446): A deassertion edge of PERST# in standby wakes the device. -/
  | perstWake (f : Fn) (deassert : Bool)
  /-- RTC_ALARM (R447): TICKS reaches ALARM and the RTC cause is set. -/
  | rtcAlarm
  /-- VAON_POWER_UP (R448): VAON is applied; Snowline resets and runs the wake sequence with cause COLD. -/
  | vaonPowerUp
  /-- PWR_GOOD_RISE (R448): PWR_GOOD rises during a wake, and the RESET_DELAY wait begins. -/
  | pwrGoodRise
  /-- PG_TIMEOUT (R449): PWR_GOOD has not risen within PG_TIMEOUT; PWR_EN_N goes high, PG_FAIL is set and Snowline returns to standby. -/
  | pgTimeout
  /-- RESET_DELAY_END (R448): RESET_DELAY elapses and the main reset is released. -/
  | resetDelayEnd
  /-- MAIN_RESET_RELEASE (R674): Release of the main reset starts the boot: PLL lock, strap latch, PCIe training and image read. -/
  | mainResetRelease (p : Straps)
  /-- BOOT_MAILBOX_GO (R669): A write of GO 1 to the boot mailbox starts a DMA read of the image. -/
  | bootMailboxGo (f : Fn) (v : Word)
  /-- IMAGE_READ_DONE (R672): The image has been read and is verified, leading to success, fallback or FAILED. -/
  | imageReadDone (img : Option (List Byte))
  /-- BOOT_DONE (R674): Berzu has initialised the blocks and pin engines, sets BOOT_DONE and raises the wake sources. -/
  | bootDone
  /-- SYS_RESET (R682): SYS_RESET_N held low for at least 1 µs starts a device reset. -/
  | sysReset
  /-- DEVICE_RESET_KEY (R684): The reset key written to GLB_ACTION starts a device reset within 2 µs. -/
  | deviceResetKey (w : Agent)
  /-- STANDBY_KEY (R691): The standby key written to GLB_ACTION stops lanes and ports and prepares standby. -/
  | standbyKey (w : Agent)
  /-- STANDBY_RAILS_OFF (R691): Once frames have ended and attached memory is in self-refresh, Snowline drives PWR_EN_N high. -/
  | standbyRailsOff
  /-- THERMAL_STEP_DOWN (R34): TJ reaches TJ_STEP in SURGE and the device moves itself to BALANCED. -/
  | thermalStepDown (tj : BitVec 9)
  /-- TJ_ALARM_CROSS (R688): TJ rises through TJ_ALARM and source 888 is raised. -/
  | tjAlarmCross (tj : BitVec 9)
  /-- THERMAL_SHUTDOWN (R688): At 135 °C the device asserts its main reset and sets THERMAL. -/
  | thermalShutdown (tj : BitVec 9)
  /-- THERMAL_RELEASE (R688): TJ falls below 100 °C and the main reset is released. -/
  | thermalRelease (tj : BitVec 9)
  /-- SCRUB_READ (R695): The scrubber reads one SRAM word, corrects or logs errors, and counts passes. -/
  | scrubRead (x : ScrubRead)
  /-- TICK_HOOK_CALL (R623): Berzu calls the tick hook every TICK_PERIOD, or counts TICK_MISSED. -/
  | tickHookCall (q : QuadId) (h : Unit)
  /-- INTERRUPT_ENTRY (R609): An engine takes an offered source at a boundary: pushes ST and PC, claims the source and vectors. -/
  | interruptEntry (e : EngId)
  /-- LNOP (R596): Long no-operation. -/
  | lnop (e : EngId)
  /-- LIT (R596): Pushes a signed 24-bit literal. -/
  | lit (e : EngId) (v : BitVec 24)
  /-- LITU (R596): Pushes an unsigned 24-bit literal. -/
  | litu (e : EngId) (v : BitVec 24)
  /-- SETHI (R596): Sets the top byte of the top of stack. -/
  | sethi (e : EngId) (v : BitVec 8)
  /-- ADDI (R596): Adds a signed 24-bit immediate. -/
  | addi (e : EngId) (v : BitVec 24)
  /-- CMPI (R596): Sets the flags by comparing the top of stack with an immediate. -/
  | cmpi (e : EngId) (v : BitVec 24)
  /-- LDA (R596): Loads a word from an absolute word address. -/
  | lda (e : EngId) (v : BitVec 24)
  /-- STA (R596): Stores a word to an absolute word address. -/
  | sta (e : EngId) (v : BitVec 24)
  /-- JZ (R596): Jumps if the popped value is zero. -/
  | jz (e : EngId) (v : BitVec 24)
  /-- JNZ (R596): Jumps if the popped value is not zero. -/
  | jnz (e : EngId) (v : BitVec 24)
  /-- CALL (R596): Calls a word index, pushing the return address. -/
  | call (e : EngId) (v : BitVec 24)
  /-- REP_LONG (R599): Long REP repeats the next word n times. -/
  | repLong (e : EngId)
  /-- JCC (R598): Long jump if a flag condition holds. -/
  | jcc (e : EngId) (c : BitVec 4) (v : BitVec 24)
  /-- NOP (R597): Short engine no-operation. -/
  | nop (e : EngId)
  /-- DUP (R597): Duplicates the top of the operand stack. -/
  | dup (e : EngId)
  /-- DROP (R597): Drops the top of the operand stack. -/
  | drop (e : EngId)
  /-- SWAP (R597): Swaps the top two entries. -/
  | swap (e : EngId)
  /-- OVER (R597): Copies the second entry to the top. -/
  | over (e : EngId)
  /-- ROT (R597): Rotates the top three entries. -/
  | rot (e : EngId)
  /-- PICK (R597): Copies the n-th entry to the top. -/
  | pick (e : EngId) (n : BitVec 4)
  /-- SLIT (R597): Pushes a signed 9-bit literal. -/
  | slit (e : EngId) (v : BitVec 9)
  /-- ADD (R597): Adds the top two entries. -/
  | add (e : EngId)
  /-- SUB (R597): Subtracts the top two entries. -/
  | sub (e : EngId)
  /-- ADC (R597): Adds with carry. -/
  | adc (e : EngId)
  /-- SBC (R597): Subtracts with borrow. -/
  | sbc (e : EngId)
  /-- ADDS (R604): Signed saturating add. -/
  | adds (e : EngId)
  /-- SUBS (R604): Signed saturating subtract. -/
  | subs (e : EngId)
  /-- MUL (R597): Pushes the low 32 bits of the product. -/
  | mul (e : EngId)
  /-- MULH (R597): Pushes the high 32 bits of the signed or unsigned product. -/
  | mulh (e : EngId) (u : Bool)
  /-- DIV (R604): Signed divide giving quotient and remainder. -/
  | div (e : EngId)
  /-- DIVU (R604): Unsigned divide giving quotient and remainder. -/
  | divu (e : EngId)
  /-- NEG (R604): Negates the top of stack. -/
  | neg (e : EngId)
  /-- ABS (R604): Takes the absolute value of the top of stack. -/
  | abs (e : EngId)
  /-- AND (R597): Bitwise AND of the top two entries. -/
  | and (e : EngId)
  /-- OR (R597): Bitwise OR of the top two entries. -/
  | or (e : EngId)
  /-- XOR (R597): Bitwise XOR of the top two entries. -/
  | xor (e : EngId)
  /-- NOT (R597): Bitwise complement of the top of stack. -/
  | not (e : EngId)
  /-- SHL (R605): Shifts left by a stack count. -/
  | shl (e : EngId)
  /-- SHR (R605): Shifts right logically by a stack count. -/
  | shr (e : EngId)
  /-- SAR (R605): Shifts right arithmetically by a stack count. -/
  | sar (e : EngId)
  /-- ROL (R605): Rotates left by a stack count. -/
  | rol (e : EngId)
  /-- ROR (R605): Rotates right by a stack count. -/
  | ror (e : EngId)
  /-- SHI (R605): Shifts or rotates by an immediate count. -/
  | shi (e : EngId) (k : BitVec 2) (n : BitVec 6)
  /-- CMP (R597): Pops two entries and sets the flags of their difference. -/
  | cmp (e : EngId)
  /-- TST (R597): Sets N and Z from the top of stack. -/
  | tst (e : EngId)
  /-- LD (R597): Loads a word from the popped address. -/
  | ld (e : EngId)
  /-- ST (R597): Stores a word to the popped address. -/
  | st (e : EngId)
  /-- LDP (R597): Loads through PA or PB with optional post-increment and sign extension. -/
  | ldp (e : EngId) (sz : BitVec 2) (inc sx pb : Bool)
  /-- STP (R597): Stores through PA or PB with optional post-increment. -/
  | stp (e : EngId) (sz : BitVec 2) (inc sx pb : Bool)
  /-- POPX (R597): Pops into PA, PB, RC or ST. -/
  | popx (e : EngId) (k : BitVec 2)
  /-- PUSHX (R597): Pushes PA, PB, RC or ST. -/
  | pushx (e : EngId) (k : BitVec 2)
  /-- AMO (R584): Indivisible read-modify-write of a word. -/
  | amo (e : EngId) (k : BitVec 2)
  /-- REP (R599): Short REP repeats its target n times. -/
  | rep (e : EngId)
  /-- CLZ (R597): Counts leading zeros. -/
  | clz (e : EngId)
  /-- BSWAP (R597): Reverses the byte order. -/
  | bswap (e : EngId)
  /-- EXT (R597): Extracts a bit field. -/
  | ext (e : EngId) (lsb : BitVec 5) (w : BitVec 4)
  /-- CALLS (R597): Calls the word index taken from the stack. -/
  | calls (e : EngId)
  /-- JMPS (R597): Jumps to the word index taken from the stack. -/
  | jmps (e : EngId)
  /-- BZ (R597): Relative branch if the popped value is zero. -/
  | bz (e : EngId) (v : BitVec 9)
  /-- BNZ (R597): Relative branch if the popped value is not zero. -/
  | bnz (e : EngId) (v : BitVec 9)
  /-- ADDP (R597): Adds a signed offset to PA or PB. -/
  | addp (e : EngId) (pb : Bool) (v : BitVec 8)
  /-- SETRC (R600): Sets the repeat counter. -/
  | setrc (e : EngId) (v : BitVec 9)
  /-- FLAG (R597): Sets or clears masked bits of ST[6:0]. -/
  | flag (e : EngId) (set : Bool) (m : BitVec 7)
  /-- IEN (R597): Sets the interrupt enable. -/
  | ien (e : EngId) (v : Bool)
  /-- SETIL (R597): Sets the interrupt level. -/
  | setil (e : EngId) (v : BitVec 4)
  /-- BCC (R598): Short relative branch if a flag condition holds. -/
  | bcc (e : EngId) (c : BitVec 4) (v : BitVec 5)
  /-- RET (R591): Returns by popping the return stack. -/
  | ret (e : EngId)
  /-- RETI (R613): Returns from an interrupt or trap frame, completing the source or tail-chaining. -/
  | reti (e : EngId)
  /-- WAIT (R616): Idles the engine until a source above IL is offered. -/
  | wait (e : EngId)
  /-- FENCE (R582): Waits until every posted store has been acknowledged. -/
  | fence (e : EngId)
  /-- SWI (R606): Raises a software trap with a code. -/
  | swi (e : EngId) (code : BitVec 8)
  /-- ILLEGAL_OPCODE (R589): An undefined opcode or a nonzero reserved field traps ILLEGAL with no effect. -/
  | illegalOpcode (e : EngId)
  /-- BR (R643): Pin-engine branch on a condition. -/
  | br (l : LaneId) (x : PinArg) (c : BitVec 3) (a : BitVec 5)
  /-- AWAIT (R642): Stalls until a side-input pulse occurs or a level matches. -/
  | await (l : LaneId) (x : PinArg) (lv : Bool) (i : BitVec 4) (pulse : Bool)
  /-- SHIN (R644): Shifts bits into the in-shifter, with any automatic packing. -/
  | shin (l : LaneId) (x : PinArg) (k : BitVec 3) (n : BitVec 5)
  /-- SHOUT (R645): Shifts bits out of the out-shifter, with any automatic unpacking. -/
  | shout (l : LaneId) (x : PinArg) (k : BitVec 3) (n : BitVec 5)
  /-- PUSH (R648): Moves the in-shifter into RXQ, stalling while RXQ is full. -/
  | push (l : LaneId) (x : PinArg) (thr : Bool)
  /-- PUSH_N (R648): Non-blocking push that drops the word when RXQ is full. -/
  | pushN (l : LaneId) (x : PinArg) (thr : Bool)
  /-- PULL (R648): Loads the out-shifter from TXQ, stalling while TXQ is empty. -/
  | pull (l : LaneId) (x : PinArg) (thr : Bool)
  /-- PULL_N (R648): Non-blocking pull that records an underrun when TXQ is empty. -/
  | pullN (l : LaneId) (x : PinArg) (thr : Bool)
  /-- SETX (R641): Sets the X register. -/
  | setx (l : LaneId) (x : PinArg) (v : BitVec 8)
  /-- DRIVE (R647): Sets the TXD source and level. -/
  | drive (l : LaneId) (x : PinArg) (k : BitVec 2)
  /-- CRC_RESET (R646): Codec command that resets a CRC of the given kind. -/
  | crcReset (l : LaneId) (x : PinArg) (k : BitVec 3)
  /-- STUFF_DYN (R646): Codec command that selects dynamic stuffing. -/
  | stuffDyn (l : LaneId) (x : PinArg)
  /-- STUFF_FIXED_FD (R646): Codec command that selects FD fixed stuffing. -/
  | stuffFixedFd (l : LaneId) (x : PinArg)
  /-- STUFF_FIXED_XL (R646): Codec command that selects XL fixed stuffing. -/
  | stuffFixedXl (l : LaneId) (x : PinArg)
  /-- STUFF_OFF (R646): Codec command that turns stuffing off. -/
  | stuffOff (l : LaneId) (x : PinArg)
  /-- CRC_SEND (R646): Codec command that sends a CRC of the given kind. -/
  | crcSend (l : LaneId) (x : PinArg) (k : BitVec 3)
  /-- CRC_CHECK (R646): Codec command that compares a CRC and raises CODEC_ERR on mismatch. -/
  | crcCheck (l : LaneId) (x : PinArg) (k : BitVec 3) (h : Unit)
  /-- PHASE_DATA (R646): Codec command that switches to data-phase timing. -/
  | phaseData (l : LaneId) (x : PinArg)
  /-- PHASE_NOMINAL (R646): Codec command that switches to nominal timing. -/
  | phaseNominal (l : LaneId) (x : PinArg)
  /-- ERR_CLEAR (R646): Codec command that clears CODEC_ERR. -/
  | errClear (l : LaneId) (x : PinArg)
  /-- TDC_START (R646): Codec command that starts the loop-delay measurement. -/
  | tdcStart (l : LaneId) (x : PinArg)
  /-- SIG (R650): Raises an event to the protocol engine. -/
  | sig (l : LaneId) (x : PinArg) (v : BitVec 3)
  /-- COPY (R641): Copies between X, the shifters and IN_CNT, or clears a shifter. -/
  | copy (l : LaneId) (x : PinArg) (k : BitVec 4)
  /-- PIN_NOP (R641): Pin-engine no-operation. -/
  | pinNop (l : LaneId) (x : PinArg)
  /-- PIN_RESERVED_OP (R641): A reserved pin-engine operation or argument acts as NOP and sets ILLEGAL_OP. -/
  | pinReservedOp (l : LaneId)
  /-- SWITCH_AT_END (R654): A write of SWITCH 1 makes a bank switch pending at LOOP_END. -/
  | switchAtEnd (w : Agent) (l : LaneId)
  /-- SWITCH_NOW (R655): A write of SWITCH 2 abandons the current instruction and starts the idle bank at once. -/
  | switchNow (w : Agent) (l : LaneId)
  /-- SWITCH_WITHDRAW (R654): A write of SWITCH 3 withdraws a pending switch. -/
  | switchWithdraw (w : Agent) (l : LaneId)
  /-- PEPROG_WRITE (R652): A write to pin-engine program memory is accepted for the idle bank and discarded for the running bank. -/
  | peprogWrite (w : Agent) (l : LaneId) (k : Fin 32) (v : Word)
  /-- REGISTER_WRITE (R737): A write to a register with no row of its own is applied, clamped, or ignored and counted by set-up state and field type. -/
  | registerWrite (w : Agent) (a : WordIx) (v : Word) (be : BitVec 4)
  /-- RC_FIELD_READ (R11): A read of a register holding RC fields returns their values and clears them, with coincident events kept for the next read. -/
  | rcFieldRead (r : Agent) (a : ReadAt)
  /-- PCIE_LINK_UP (R675): A function's PCIe link completes training again after a link loss or PERST# and its configuration space answers. -/
  | pcieLinkUp (f : Fn)
  /-- TJ_ALARM_REARM (R688): Junction temperature falls below TJ_ALARM minus 5 °C, so that source 888 may be raised again on the next rise. -/
  | tjAlarmRearm (tj : BitVec 9)
  /-- PWR_EN_N_HOLD_END (R449): The minimum 1 ms of PWR_EN_N high after a power-down ends, and a wake that waited for it drives PWR_EN_N low. -/
  | pwrEnNHoldEnd
deriving DecidableEq, Repr

end Sys2Proof
end

