-- ==== Sys2Proof/Decode.lean ====
section
/-! DEFINITION. The command a word spells. spec/opcode_table.json gives no row of this block any bits (a command is
an event of a bus, a register access, a descriptor, or an instruction an engine issues), so no word spells a
command; the engines' own instruction words are decoded in Machine/Operands.lean from 14 R586 to R589 and the pin
engines' from 15 R639. -/
namespace Sys2Proof

/-- No row of the table has bits. -/
def decodeTableWord (_nbits _w : Nat) : Option Instr := none

end Sys2Proof
end

