-- ==== Sys2Proof/Config.lean ====
section
/-! DEFINITION. What an implementation fixes, and the free values: constants without a body, so that no proof
can lean on a value of them. -/
namespace Sys2Proof

/-- A 32-bit value the spec leaves open, fresh for each draw of the counter `State.free` (log 1): the content of a
shadow half after a LIST_FORM refusal (R240), the header bytes of a cell (R278 gives no bit layout). -/
opaque Config.freeWord : Nat → BitVec 32

/-- FIELD of a violation of a type of R139 for which the spec states none, by type (R138, R140, log 21). -/
opaque Config.violField : Nat → BitVec 5

/-- BITPOS of such a violation (R138, log 21). -/
opaque Config.violBit : Nat → BitVec 14

/-- A cell number the spec leaves open, fresh for each draw: which free cell an allocation takes (R323, log 8). -/
opaque Config.freeCell : Nat → BitVec 18

/-- The CRC sequence of a kind over sampled bits, each with whether it is a stuff bit, and whether the CRC sequence at their
end agrees with the bits before it: the polynomials are those of ISO 11898-1, not in the spec (R646, log 124). -/
opaque Config.crcBits : Nat → List (Bool × Bool) → List Bool
opaque Config.crcOk : Nat → List (Bool × Bool) → Bool

/-- The key hash in OTP slot 0 or 1 (R672 check 3, R736): its value is not in the spec (log 13). -/
opaque Config.otpHash : Bool → BitVec 256

/-- The die's UID and silicon revision (R698, R700): not in the spec (log 3). -/
opaque Config.uid : BitVec 64
opaque Config.siRev : BitVec 8

/-- Installed attached memory in MiB (R518: up to 16 GiB; the model takes 16 GiB, log 3). -/
def Config.dramMiB : Nat := 16384

/-- OTP: slot 0 programmed, none revoked, MIN_SECVER 0 (R736). -/
def Config.otpValid (slot : Bool) : Bool := !slot
def Config.otpRevoked (_slot : Bool) : Bool := false
def Config.otpMinSecver : Nat := 0

/-- Where in a PE's data memory Berzu keeps the 32-byte descriptor that it hands to a hook, as a word offset (R625 gives none,
log 94). -/
opaque Config.hookDesc : BitVec 12

end Sys2Proof
end

