-- ==== Sys2Proof/Machine/Regs.lean ====
section
/-! DEFINITION. The register map of BAR0 (R40) and the fields of every register, with the offsets, widths, types,
ranges and reset values of the register tables of the spec. Generated from those tables. -/
namespace Sys2Proof.Machine

/-- A field: the byte offset of the word that holds its lowest bit, that bit's number in the word, its width. -/
structure Fld where
  off : Nat
  lsb : Nat
  w : Nat
deriving DecidableEq, Repr

/-- Register field types (R11). -/
inductive FTy where
  | rw | ro | wo | w1c | rc | rwc
deriving DecidableEq, Repr

/-- What the set-up state of a register depends on (R48). -/
inductive Blk where
  | lane | quad | fabric | always | host | tb | mor | stack | port | eng | glb
deriving DecidableEq, Repr

/-- A field of a register: lowest bit in the register, width, type, reset value, range of a clamped field
(0 and 2^w - 1 where the whole width is permitted), writable at run time. -/
structure RegField where
  lsb : Nat
  w : Nat
  ty : FTy
  reset : Nat
  lo : Nat
  hi : Nat
  rt : Bool
deriving DecidableEq, Repr

/-- A register or an array of them with up to two indices: `base + i * s1 + j * s2`. -/
structure RegRow where
  base : Nat
  s1 : Nat
  n1 : Nat
  s2 : Nat
  n2 : Nat
  bytes : Nat
  blk : Blk
  fields : List RegField
deriving DecidableEq, Repr

namespace F

/-! LANE_CTRL (R156) -/
def LANE_CTRL.LANE_STUCK (L : Nat) : Fld := ⟨0x100000 + L * 0x800, 20, 12⟩
def LANE_CTRL.STUCK_TEST (L : Nat) : Fld := ⟨0x100000 + L * 0x800, 19, 1⟩
def LANE_CTRL.EWL (L : Nat) : Fld := ⟨0x100000 + L * 0x800, 8, 8⟩
def LANE_CTRL.RECOV_MANUAL (L : Nat) : Fld := ⟨0x100000 + L * 0x800, 7, 1⟩
def LANE_CTRL.LCTL_STBY_LVL (L : Nat) : Fld := ⟨0x100000 + L * 0x800, 6, 1⟩
def LANE_CTRL.LCTL_SETTLE (L : Nat) : Fld := ⟨0x100000 + L * 0x800, 0, 6⟩

/-! LANE_MODE (R157) -/
def LANE_MODE.XL_MAXLEN (L : Nat) : Fld := ⟨0x100004 + L * 0x800, 8, 11⟩
def LANE_MODE.DLC_LOG (L : Nat) : Fld := ⟨0x100004 + L * 0x800, 6, 1⟩
def LANE_MODE.PEX (L : Nat) : Fld := ⟨0x100004 + L * 0x800, 5, 1⟩
def LANE_MODE.XLES (L : Nat) : Fld := ⟨0x100004 + L * 0x800, 4, 1⟩
def LANE_MODE.XL_EN (L : Nat) : Fld := ⟨0x100004 + L * 0x800, 3, 1⟩
def LANE_MODE.FD_EN (L : Nat) : Fld := ⟨0x100004 + L * 0x800, 2, 1⟩
def LANE_MODE.OPMODE (L : Nat) : Fld := ⟨0x100004 + L * 0x800, 0, 2⟩

/-! LANE_STATE (R158) -/
def LANE_STATE.BO_TOTAL (L : Nat) : Fld := ⟨0x100008 + L * 0x800, 24, 8⟩
def LANE_STATE.STATE_CHG (L : Nat) : Fld := ⟨0x100008 + L * 0x800, 20, 1⟩
def LANE_STATE.EWARN (L : Nat) : Fld := ⟨0x100008 + L * 0x800, 19, 1⟩
def LANE_STATE.STUCK_EXT (L : Nat) : Fld := ⟨0x100008 + L * 0x800, 18, 1⟩
def LANE_STATE.HOLD_CAUSE (L : Nat) : Fld := ⟨0x100008 + L * 0x800, 16, 2⟩
def LANE_STATE.PREV_STATE (L : Nat) : Fld := ⟨0x100008 + L * 0x800, 12, 4⟩
def LANE_STATE.PREV_CAUSE (L : Nat) : Fld := ⟨0x100008 + L * 0x800, 10, 2⟩
def LANE_STATE.ESTATE (L : Nat) : Fld := ⟨0x100008 + L * 0x800, 8, 2⟩
def LANE_STATE.HOST_RET (L : Nat) : Fld := ⟨0x100008 + L * 0x800, 4, 4⟩
def LANE_STATE.STATE (L : Nat) : Fld := ⟨0x100008 + L * 0x800, 0, 4⟩

/-! LANE_ECNT (R160) -/
def LANE_ECNT.REC (L : Nat) : Fld := ⟨0x10000c + L * 0x800, 16, 8⟩
def LANE_ECNT.TEC (L : Nat) : Fld := ⟨0x10000c + L * 0x800, 0, 9⟩

/-! LANE_NBT (R75) -/
def LANE_NBT.NBRP (L : Nat) : Fld := ⟨0x100010 + L * 0x800, 24, 8⟩
def LANE_NBT.NSEG1 (L : Nat) : Fld := ⟨0x100010 + L * 0x800, 16, 8⟩
def LANE_NBT.NSEG2 (L : Nat) : Fld := ⟨0x100010 + L * 0x800, 8, 7⟩
def LANE_NBT.NSJW (L : Nat) : Fld := ⟨0x100010 + L * 0x800, 0, 7⟩

/-! LANE_DBT (R76) -/
def LANE_DBT.FD_DBRP (L : Nat) : Fld := ⟨0x100018 + L * 0x800, 24, 5⟩
def LANE_DBT.FD_DSEG1 (L : Nat) : Fld := ⟨0x100018 + L * 0x800, 16, 6⟩
def LANE_DBT.FD_DSEG2 (L : Nat) : Fld := ⟨0x100018 + L * 0x800, 8, 5⟩
def LANE_DBT.FD_DSJW (L : Nat) : Fld := ⟨0x100018 + L * 0x800, 0, 5⟩
def LANE_DBT.XL_DBRP (L : Nat) : Fld := ⟨0x10001c + L * 0x800, 24, 5⟩
def LANE_DBT.XL_DSEG1 (L : Nat) : Fld := ⟨0x10001c + L * 0x800, 16, 6⟩
def LANE_DBT.XL_DSEG2 (L : Nat) : Fld := ⟨0x10001c + L * 0x800, 8, 5⟩
def LANE_DBT.XL_DSJW (L : Nat) : Fld := ⟨0x10001c + L * 0x800, 0, 5⟩

/-! LANE_TDC (R77) -/
def LANE_TDC.TDC_FAIL (L : Nat) : Fld := ⟨0x100020 + L * 0x800, 31, 1⟩
def LANE_TDC.SSP_LIMITED (L : Nat) : Fld := ⟨0x100020 + L * 0x800, 30, 1⟩
def LANE_TDC.TDCV (L : Nat) : Fld := ⟨0x100020 + L * 0x800, 21, 9⟩
def LANE_TDC.TDC_WIN (L : Nat) : Fld := ⟨0x100020 + L * 0x800, 12, 9⟩
def LANE_TDC.TDC_EN (L : Nat) : Fld := ⟨0x100020 + L * 0x800, 10, 1⟩
def LANE_TDC.OFS_MODE (L : Nat) : Fld := ⟨0x100020 + L * 0x800, 9, 1⟩
def LANE_TDC.TDCO (L : Nat) : Fld := ⟨0x100020 + L * 0x800, 0, 9⟩

/-! LANE_XLCFG (R78) -/
def LANE_XLCFG.PWMO (L : Nat) : Fld := ⟨0x100024 + L * 0x800, 24, 6⟩
def LANE_XLCFG.PWML (L : Nat) : Fld := ⟨0x100024 + L * 0x800, 16, 6⟩
def LANE_XLCFG.PWMS (L : Nat) : Fld := ⟨0x100024 + L * 0x800, 8, 6⟩
def LANE_XLCFG.TMS_EN (L : Nat) : Fld := ⟨0x100024 + L * 0x800, 0, 1⟩

/-! LANE_RATE (R94) -/
def LANE_RATE.SEEK_COUNT (L : Nat) : Fld := ⟨0x10002c + L * 0x800, 16, 16⟩
def LANE_RATE.BO_COUNT (L : Nat) : Fld := ⟨0x10002c + L * 0x800, 14, 2⟩
def LANE_RATE.CUR_IDX (L : Nat) : Fld := ⟨0x10002c + L * 0x800, 8, 4⟩
def LANE_RATE.TIMED_OUT (L : Nat) : Fld := ⟨0x10002c + L * 0x800, 7, 1⟩
def LANE_RATE.MISMATCH (L : Nat) : Fld := ⟨0x10002c + L * 0x800, 6, 1⟩
def LANE_RATE.DATA_UNVERIFIED (L : Nat) : Fld := ⟨0x10002c + L * 0x800, 5, 1⟩
def LANE_RATE.DECLARED (L : Nat) : Fld := ⟨0x10002c + L * 0x800, 4, 1⟩
def LANE_RATE.DECL_IDX (L : Nat) : Fld := ⟨0x10002c + L * 0x800, 0, 4⟩
def LANE_RATE.TIMEOUT (L : Nat) : Fld := ⟨0x100028 + L * 0x800, 16, 16⟩
def LANE_RATE.DWELL (L : Nat) : Fld := ⟨0x100028 + L * 0x800, 8, 8⟩
def LANE_RATE.ADOPT (L : Nat) : Fld := ⟨0x100028 + L * 0x800, 7, 1⟩
def LANE_RATE.SEEK_BUSOFF (L : Nat) : Fld := ⟨0x100028 + L * 0x800, 6, 1⟩
def LANE_RATE.SEEK_BIND (L : Nat) : Fld := ⟨0x100028 + L * 0x800, 5, 1⟩
def LANE_RATE.SEEK_START (L : Nat) : Fld := ⟨0x100028 + L * 0x800, 4, 1⟩
def LANE_RATE.NCAND (L : Nat) : Fld := ⟨0x100028 + L * 0x800, 0, 4⟩

/-! LANE_HOLD (R211) -/
def LANE_HOLD.HELD (L : Nat) : Fld := ⟨0x100030 + L * 0x800, 31, 1⟩
def LANE_HOLD.EXPIRED (L : Nat) : Fld := ⟨0x100030 + L * 0x800, 30, 1⟩
def LANE_HOLD.TXO_DEPTH (L : Nat) : Fld := ⟨0x100030 + L * 0x800, 16, 7⟩
def LANE_HOLD.HOLD_MS (L : Nat) : Fld := ⟨0x100030 + L * 0x800, 0, 16⟩

/-! LANE_TS_ADJ (R506) -/
def LANE_TS_ADJ.TX_ADJ (L : Nat) : Fld := ⟨0x100034 + L * 0x800, 16, 16⟩
def LANE_TS_ADJ.RX_ADJ (L : Nat) : Fld := ⟨0x100034 + L * 0x800, 0, 16⟩

/-! LANE_TS_MODE (R507) -/
def LANE_TS_MODE.EST_NONE (L : Nat) : Fld := ⟨0x100038 + L * 0x800, 31, 1⟩
def LANE_TS_MODE.TB (L : Nat) : Fld := ⟨0x100038 + L * 0x800, 4, 3⟩
def LANE_TS_MODE.MODE (L : Nat) : Fld := ⟨0x100038 + L * 0x800, 0, 1⟩

/-! LANE_VLOG (R161) -/
def LANE_VLOG.LOST (L : Nat) : Fld := ⟨0x100044 + L * 0x800, 16, 16⟩
def LANE_VLOG.LOG_MASK (L : Nat) : Fld := ⟨0x100040 + L * 0x800, 16, 16⟩
def LANE_VLOG.FREEZE (L : Nat) : Fld := ⟨0x100040 + L * 0x800, 15, 1⟩
def LANE_VLOG.CLEAR (L : Nat) : Fld := ⟨0x100040 + L * 0x800, 14, 1⟩
def LANE_VLOG.WRAPPED (L : Nat) : Fld := ⟨0x100040 + L * 0x800, 13, 1⟩
def LANE_VLOG.COUNT (L : Nat) : Fld := ⟨0x100040 + L * 0x800, 6, 7⟩
def LANE_VLOG.HEAD (L : Nat) : Fld := ⟨0x100040 + L * 0x800, 0, 6⟩

/-! LANE_ETALLY (R162) -/
def LANE_ETALLY.RG_DROP (L : Nat) : Fld := ⟨0x10004c + L * 0x800, 16, 16⟩
def LANE_ETALLY.OVLD_RX (L : Nat) : Fld := ⟨0x10004c + L * 0x800, 0, 16⟩
def LANE_ETALLY.TX_ERR (L : Nat) : Fld := ⟨0x100048 + L * 0x800, 16, 16⟩
def LANE_ETALLY.RX_ERR (L : Nat) : Fld := ⟨0x100048 + L * 0x800, 0, 16⟩

/-! LANE_TXO (R212) -/
def LANE_TXO.N_EXPIRED (L : Nat) : Fld := ⟨0x10005c + L * 0x800, 16, 16⟩
def LANE_TXO.N_DOWN (L : Nat) : Fld := ⟨0x10005c + L * 0x800, 0, 16⟩
def LANE_TXO.N_CANCEL (L : Nat) : Fld := ⟨0x100058 + L * 0x800, 16, 16⟩
def LANE_TXO.PENDING (L : Nat) : Fld := ⟨0x100058 + L * 0x800, 0, 16⟩

/-! LANE_FLTCFG (R244) -/
def LANE_FLTCFG.DEF_ARG (L : Nat) : Fld := ⟨0x100064 + L * 0x800, 16, 16⟩
def LANE_FLTCFG.DEF_RECORD (L : Nat) : Fld := ⟨0x100064 + L * 0x800, 12, 1⟩
def LANE_FLTCFG.DEF_ACTION (L : Nat) : Fld := ⟨0x100064 + L * 0x800, 8, 4⟩
def LANE_FLTCFG.LIST_LEN (L : Nat) : Fld := ⟨0x100060 + L * 0x800, 24, 15⟩
def LANE_FLTCFG.CACHED (L : Nat) : Fld := ⟨0x100060 + L * 0x800, 22, 1⟩
def LANE_FLTCFG.SORTED (L : Nat) : Fld := ⟨0x100060 + L * 0x800, 21, 1⟩
def LANE_FLTCFG.ACTIVE_HALF (L : Nat) : Fld := ⟨0x100060 + L * 0x800, 20, 1⟩
def LANE_FLTCFG.FBLOCKS (L : Nat) : Fld := ⟨0x100060 + L * 0x800, 12, 8⟩
def LANE_FLTCFG.FBASE (L : Nat) : Fld := ⟨0x100060 + L * 0x800, 0, 11⟩

/-! LANE_FLTCNT (R245) -/
def LANE_FLTCNT.LATE (L : Nat) : Fld := ⟨0x10006c + L * 0x800, 16, 16⟩
def LANE_FLTCNT.NO_TARGET (L : Nat) : Fld := ⟨0x10006c + L * 0x800, 0, 16⟩
def LANE_FLTCNT.REJECTED (L : Nat) : Fld := ⟨0x100068 + L * 0x800, 16, 16⟩
def LANE_FLTCNT.NOMATCH (L : Nat) : Fld := ⟨0x100068 + L * 0x800, 0, 16⟩

/-! LANE_PAIRCFG (R274) -/
def LANE_PAIRCFG.PSTATE (L : Nat) : Fld := ⟨0x100070 + L * 0x800, 30, 2⟩
def LANE_PAIRCFG.PAIR_CHG (L : Nat) : Fld := ⟨0x100070 + L * 0x800, 29, 1⟩
def LANE_PAIRCFG.TRAIL_MS (L : Nat) : Fld := ⟨0x100070 + L * 0x800, 16, 12⟩
def LANE_PAIRCFG.DUP_WIN (L : Nat) : Fld := ⟨0x100070 + L * 0x800, 0, 14⟩

/-! LANE_PAIRRX (R275) -/
def LANE_PAIRRX.DUP_EVICT (L : Nat) : Fld := ⟨0x10007c + L * 0x800, 16, 16⟩
def LANE_PAIRRX.SINGLE_B (L : Nat) : Fld := ⟨0x10007c + L * 0x800, 0, 16⟩
def LANE_PAIRRX.SINGLE_A (L : Nat) : Fld := ⟨0x100078 + L * 0x800, 16, 16⟩
def LANE_PAIRRX.DUP_MATCHED (L : Nat) : Fld := ⟨0x100078 + L * 0x800, 0, 16⟩

/-! LANE_PAIRTX (R276) -/
def LANE_PAIRTX.VIA_PARTNER (L : Nat) : Fld := ⟨0x100084 + L * 0x800, 16, 16⟩
def LANE_PAIRTX.TRAIL_OK (L : Nat) : Fld := ⟨0x100084 + L * 0x800, 0, 16⟩
def LANE_PAIRTX.TRAIL_LOST (L : Nat) : Fld := ⟨0x100080 + L * 0x800, 16, 16⟩
def LANE_PAIRTX.PCHANGES (L : Nat) : Fld := ⟨0x100080 + L * 0x800, 0, 16⟩

/-! LANE_PECTRL (R660) -/
def LANE_PECTRL.TAP_FREEZE (L : Nat) : Fld := ⟨0x100280 + L * 0x800, 31, 1⟩
def LANE_PECTRL.TAP_FROZEN (L : Nat) : Fld := ⟨0x100280 + L * 0x800, 30, 1⟩
def LANE_PECTRL.PACK_THR (L : Nat) : Fld := ⟨0x100280 + L * 0x800, 24, 5⟩
def LANE_PECTRL.PACK_MODE (L : Nat) : Fld := ⟨0x100280 + L * 0x800, 22, 2⟩
def LANE_PECTRL.UNPACK_THR (L : Nat) : Fld := ⟨0x100280 + L * 0x800, 17, 5⟩
def LANE_PECTRL.UNPACK_MODE (L : Nat) : Fld := ⟨0x100280 + L * 0x800, 15, 2⟩

/-! LANE_PEBANK (R661) -/
def LANE_PEBANK.PROG_WR_ACTIVE (L : Nat) : Fld := ⟨0x100284 + L * 0x800, 31, 1⟩
def LANE_PEBANK.SW_PEND (L : Nat) : Fld := ⟨0x100284 + L * 0x800, 30, 1⟩
def LANE_PEBANK.RUN_BANK (L : Nat) : Fld := ⟨0x100284 + L * 0x800, 29, 1⟩
def LANE_PEBANK.SWITCH (L : Nat) : Fld := ⟨0x100284 + L * 0x800, 24, 2⟩
def LANE_PEBANK.START_BANK (L : Nat) : Fld := ⟨0x100284 + L * 0x800, 16, 1⟩

/-! LANE_PELOOP (R662) -/
def LANE_PELOOP.END1 (L : Nat) : Fld := ⟨0x100288 + L * 0x800, 24, 5⟩
def LANE_PELOOP.START1 (L : Nat) : Fld := ⟨0x100288 + L * 0x800, 16, 5⟩
def LANE_PELOOP.END0 (L : Nat) : Fld := ⟨0x100288 + L * 0x800, 8, 5⟩
def LANE_PELOOP.START0 (L : Nat) : Fld := ⟨0x100288 + L * 0x800, 0, 5⟩

/-! LANE_PESTAT (R663) -/
def LANE_PESTAT.TXQ_UNDERRUN (L : Nat) : Fld := ⟨0x100294 + L * 0x800, 31, 1⟩
def LANE_PESTAT.RXQ_OVERFLOW (L : Nat) : Fld := ⟨0x100294 + L * 0x800, 30, 1⟩
def LANE_PESTAT.ILLEGAL_OP (L : Nat) : Fld := ⟨0x100294 + L * 0x800, 29, 1⟩
def LANE_PESTAT.BIT_LATE (L : Nat) : Fld := ⟨0x100294 + L * 0x800, 28, 1⟩
def LANE_PESTAT.RUNNING (L : Nat) : Fld := ⟨0x100294 + L * 0x800, 27, 1⟩
def LANE_PESTAT.STALLED (L : Nat) : Fld := ⟨0x100294 + L * 0x800, 26, 1⟩
def LANE_PESTAT.TXQ_LVL (L : Nat) : Fld := ⟨0x100294 + L * 0x800, 20, 4⟩
def LANE_PESTAT.RXQ_LVL (L : Nat) : Fld := ⟨0x100294 + L * 0x800, 16, 4⟩
def LANE_PESTAT.IN_CNT (L : Nat) : Fld := ⟨0x100294 + L * 0x800, 8, 6⟩
def LANE_PESTAT.OUT_CNT (L : Nat) : Fld := ⟨0x100294 + L * 0x800, 0, 6⟩
def LANE_PESTAT.X (L : Nat) : Fld := ⟨0x100290 + L * 0x800, 24, 8⟩
def LANE_PESTAT.PC (L : Nat) : Fld := ⟨0x100290 + L * 0x800, 16, 5⟩
def LANE_PESTAT.N_UNDERRUN (L : Nat) : Fld := ⟨0x100290 + L * 0x800, 8, 8⟩
def LANE_PESTAT.N_OVERFLOW (L : Nat) : Fld := ⟨0x100290 + L * 0x800, 0, 8⟩

/-! LANE_PESHIFT (R664) -/
def LANE_PESHIFT.INSHIFT (L : Nat) : Fld := ⟨0x10029c + L * 0x800, 0, 32⟩
def LANE_PESHIFT.OUTSHIFT (L : Nat) : Fld := ⟨0x100298 + L * 0x800, 0, 32⟩

/-! LANE_PETAP (R665) -/
def LANE_PETAP.RX_TAP (L : Nat) : Fld := ⟨0x1002a4 + L * 0x800, 0, 32⟩
def LANE_PETAP.TX_TAP (L : Nat) : Fld := ⟨0x1002a0 + L * 0x800, 0, 32⟩

/-! LANE_RCAND (R95) -/
def LANE_RCAND.XL_DATA (L : Nat) (n : Nat) : Fld := ⟨0x100108 + L * 0x800 + n * 0x10, 0, 32⟩
def LANE_RCAND.FD_DATA (L : Nat) (n : Nat) : Fld := ⟨0x100104 + L * 0x800 + n * 0x10, 0, 32⟩
def LANE_RCAND.NOMINAL (L : Nat) (n : Nat) : Fld := ⟨0x100100 + L * 0x800 + n * 0x10, 0, 32⟩

/-! LANE_RGUARD (R163) -/
def LANE_RGUARD.EXCEEDED (L : Nat) (n : Nat) : Fld := ⟨0x100204 + L * 0x800 + n * 0x8, 29, 1⟩
def LANE_RGUARD.QUARANTINED (L : Nat) (n : Nat) : Fld := ⟨0x100204 + L * 0x800 + n * 0x8, 28, 1⟩
def LANE_RGUARD.WINDOW (L : Nat) (n : Nat) : Fld := ⟨0x100204 + L * 0x800 + n * 0x8, 16, 12⟩
def LANE_RGUARD.MAXCNT (L : Nat) (n : Nat) : Fld := ⟨0x100204 + L * 0x800 + n * 0x8, 0, 16⟩
def LANE_RGUARD.QUAR_EN (L : Nat) (n : Nat) : Fld := ⟨0x100200 + L * 0x800 + n * 0x8, 31, 1⟩
def LANE_RGUARD.KIND (L : Nat) (n : Nat) : Fld := ⟨0x100200 + L * 0x800 + n * 0x8, 29, 2⟩
def LANE_RGUARD.ID (L : Nat) (n : Nat) : Fld := ⟨0x100200 + L * 0x800 + n * 0x8, 0, 29⟩

/-! LANE_PEPROG (R666) -/
def LANE_PEPROG.INSTR_HI (L : Nat) (k : Nat) : Fld := ⟨0x100300 + L * 0x800 + k * 0x4, 16, 16⟩
def LANE_PEPROG.INSTR_LO (L : Nat) (k : Nat) : Fld := ⟨0x100300 + L * 0x800 + k * 0x4, 0, 16⟩

/-! LANE_VLENT (R164) -/
def LANE_VLENT.SECONDS (L : Nat) (e : Nat) : Fld := ⟨0x100400 + L * 0x800 + e * 0x10, 0, 32⟩
def LANE_VLENT.NANOSECONDS (L : Nat) (e : Nat) : Fld := ⟨0x100404 + L * 0x800 + e * 0x10, 0, 32⟩
def LANE_VLENT.ID (L : Nat) (e : Nat) : Fld := ⟨0x100408 + L * 0x800 + e * 0x10, 0, 29⟩
def LANE_VLENT.FORMAT (L : Nat) (e : Nat) : Fld := ⟨0x100408 + L * 0x800 + e * 0x10, 29, 3⟩
def LANE_VLENT.REPEAT (L : Nat) (e : Nat) : Fld := ⟨0x10040c + L * 0x800 + e * 0x10, 0, 7⟩
def LANE_VLENT.ROLE (L : Nat) (e : Nat) : Fld := ⟨0x10040c + L * 0x800 + e * 0x10, 7, 1⟩
def LANE_VLENT.BITPOS (L : Nat) (e : Nat) : Fld := ⟨0x10040c + L * 0x800 + e * 0x10, 8, 14⟩
def LANE_VLENT.FIELD (L : Nat) (e : Nat) : Fld := ⟨0x10040c + L * 0x800 + e * 0x10, 22, 5⟩
def LANE_VLENT.TYPE (L : Nat) (e : Nat) : Fld := ⟨0x10040c + L * 0x800 + e * 0x10, 27, 5⟩

/-! QUAD_CTRL (R711) -/
def QUAD_CTRL.GATED (q : Nat) : Fld := ⟨0x180000 + q * 0x1000, 31, 1⟩
def QUAD_CTRL.GATE (q : Nat) : Fld := ⟨0x180000 + q * 0x1000, 2, 1⟩
def QUAD_CTRL.MODE (q : Nat) : Fld := ⟨0x180000 + q * 0x1000, 0, 2⟩

/-! QUAD_OBJCFG (R208) -/
def QUAD_OBJCFG.OBJ_LOCK_TIMEOUT (q : Nat) : Fld := ⟨0x180010 + q * 0x1000, 0, 14⟩

/-! QUAD_OBJCNT (R209) -/
def QUAD_OBJCNT.CNT3 (q : Nat) : Fld := ⟨0x180018 + q * 0x1000, 27, 9⟩
def QUAD_OBJCNT.CNT2 (q : Nat) : Fld := ⟨0x180018 + q * 0x1000, 18, 9⟩
def QUAD_OBJCNT.CNT1 (q : Nat) : Fld := ⟨0x180018 + q * 0x1000, 9, 9⟩
def QUAD_OBJCNT.CNT0 (q : Nat) : Fld := ⟨0x180018 + q * 0x1000, 0, 9⟩

/-! QUAD_WALK (R246) -/
def QUAD_WALK.LATE_TOTAL (q : Nat) : Fld := ⟨0x180024 + q * 0x1000, 16, 16⟩
def QUAD_WALK.PEAK_COST (q : Nat) : Fld := ⟨0x180024 + q * 0x1000, 0, 16⟩
def QUAD_WALK.CACHE_ERR (q : Nat) : Fld := ⟨0x180020 + q * 0x1000, 0, 4⟩

/-! QUAD_OBJEVT (R210) -/
def QUAD_OBJEVT.EVT (q : Nat) (n : Nat) : Fld := ⟨0x180100 + q * 0x1000 + n * 0x4, 0, 32⟩

/-! COL_CTRL (R319) -/
def COL_CTRL.CT_KILL_LIMIT : Fld := ⟨0x50000, 16, 16⟩
def COL_CTRL.CT_MIN : Fld := ⟨0x50000, 4, 12⟩
def COL_CTRL.ROUNDS : Fld := ⟨0x50000, 0, 2⟩

/-! COL_CTSTAT (R320) -/
def COL_CTSTAT.CT_LATE_ERR : Fld := ⟨0x50014, 16, 16⟩
def COL_CTSTAT.CT_CLAMPED : Fld := ⟨0x50014, 0, 16⟩
def COL_CTSTAT.CT_KILLED : Fld := ⟨0x50010, 16, 16⟩
def COL_CTSTAT.CT_STARTED : Fld := ⟨0x50010, 0, 16⟩

/-! COL_PORTSTAT (R321) -/
def COL_PORTSTAT.HOOK_DROP (p : Nat) : Fld := ⟨0x5010c + p * 0x10, 16, 16⟩
def COL_PORTSTAT.EG_DROP (p : Nat) : Fld := ⟨0x5010c + p * 0x10, 0, 16⟩
def COL_PORTSTAT.LOOP (p : Nat) : Fld := ⟨0x50108 + p * 0x10, 16, 16⟩
def COL_PORTSTAT.NO_ROUTE (p : Nat) : Fld := ⟨0x50108 + p * 0x10, 0, 16⟩
def COL_PORTSTAT.CELLS_OUT (p : Nat) : Fld := ⟨0x50104 + p * 0x10, 0, 32⟩
def COL_PORTSTAT.CELLS_IN (p : Nat) : Fld := ⟨0x50100 + p * 0x10, 0, 32⟩

/-! COL_GROUP (R322) -/
def COL_GROUP.VALID (g : Nat) : Fld := ⟨0x58000 + g * 0x4, 31, 1⟩
def COL_GROUP.COUNT (g : Nat) : Fld := ⟨0x58000 + g * 0x4, 16, 6⟩
def COL_GROUP.BASE (g : Nat) : Fld := ⟨0x58000 + g * 0x4, 0, 16⟩

/-! FIRN_CTRL (R356) -/
def FIRN_CTRL.SWEEP_EN : Fld := ⟨0x60000, 31, 1⟩
def FIRN_CTRL.AUTO_RECLAIM : Fld := ⟨0x60000, 30, 1⟩
def FIRN_CTRL.LOW_WATER : Fld := ⟨0x60000, 16, 14⟩
def FIRN_CTRL.PASS_MS : Fld := ⟨0x60000, 0, 16⟩

/-! FIRN_STAT (R357) -/
def FIRN_STAT.LOW : Fld := ⟨0x6000c, 31, 1⟩
def FIRN_STAT.SHARED_FREE : Fld := ⟨0x6000c, 0, 19⟩
def FIRN_STAT.FREE_CELLS : Fld := ⟨0x60008, 0, 19⟩

/-! FIRN_SWEEP (R359) -/
def FIRN_SWEEP.PASS : Fld := ⟨0x60014, 10, 22⟩
def FIRN_SWEEP.LOG_HEAD : Fld := ⟨0x60014, 0, 4⟩
def FIRN_SWEEP.RECLAIMED : Fld := ⟨0x60010, 16, 16⟩
def FIRN_SWEEP.LEAKS : Fld := ⟨0x60010, 0, 16⟩

/-! FIRN_DROPSTAT (R358) -/
def FIRN_DROPSTAT.ECC_DROP : Fld := ⟨0x60018, 16, 16⟩
def FIRN_DROPSTAT.NOSPACE : Fld := ⟨0x60018, 0, 16⟩

/-! FIRN_PORTRES (R360) -/
def FIRN_PORTRES.RESERVE (p : Nat) : Fld := ⟨0x60104 + p * 0x8, 0, 15⟩
def FIRN_PORTRES.CHARGED (p : Nat) : Fld := ⟨0x60100 + p * 0x8, 0, 19⟩

/-! FIRN_WBIND (R361) -/
def FIRN_WBIND.PROF3 (p : Nat) : Fld := ⟨0x60300 + p * 0x4, 24, 5⟩
def FIRN_WBIND.PROF2 (p : Nat) : Fld := ⟨0x60300 + p * 0x4, 16, 5⟩
def FIRN_WBIND.PROF1 (p : Nat) : Fld := ⟨0x60300 + p * 0x4, 8, 5⟩
def FIRN_WBIND.PROF0 (p : Nat) : Fld := ⟨0x60300 + p * 0x4, 0, 5⟩

/-! FIRN_RQUOTA (R362) -/
def FIRN_RQUOTA.QUOTA_DROP (n : Nat) : Fld := ⟨0x60404 + n * 0x8, 16, 16⟩
def FIRN_RQUOTA.QUOTA (n : Nat) : Fld := ⟨0x60404 + n * 0x8, 0, 16⟩
def FIRN_RQUOTA.HELD (n : Nat) : Fld := ⟨0x60400 + n * 0x8, 0, 19⟩

/-! FIRN_IPOL (R363) -/
def FIRN_IPOL.EN (i : Nat) : Fld := ⟨0x60800 + i * 0x4, 31, 1⟩
def FIRN_IPOL.POLICER (i : Nat) : Fld := ⟨0x60800 + i * 0x4, 0, 12⟩

/-! FIRN_PHOLD (R364) -/
def FIRN_PHOLD.PH_DROP (e : Nat) : Fld := ⟨0x60a84 + e * 0x8, 16, 16⟩
def FIRN_PHOLD.PH_FREED (e : Nat) : Fld := ⟨0x60a84 + e * 0x8, 0, 16⟩
def FIRN_PHOLD.HELD (e : Nat) : Fld := ⟨0x60a80 + e * 0x8, 31, 1⟩
def FIRN_PHOLD.EXPIRED (e : Nat) : Fld := ⟨0x60a80 + e * 0x8, 30, 1⟩
def FIRN_PHOLD.HOLD_MS (e : Nat) : Fld := ⟨0x60a80 + e * 0x8, 0, 16⟩

/-! FIRN_WPROF (R365) -/
def FIRN_WPROF.W_EXP (w : Nat) : Fld := ⟨0x6100c + w * 0x10, 24, 4⟩
def FIRN_WPROF.G_MAXP (w : Nat) : Fld := ⟨0x6100c + w * 0x10, 16, 8⟩
def FIRN_WPROF.Y_MAXP (w : Nat) : Fld := ⟨0x6100c + w * 0x10, 8, 8⟩
def FIRN_WPROF.R_MAXP (w : Nat) : Fld := ⟨0x6100c + w * 0x10, 0, 8⟩
def FIRN_WPROF.G_MAX (w : Nat) : Fld := ⟨0x61008 + w * 0x10, 16, 16⟩
def FIRN_WPROF.G_MIN (w : Nat) : Fld := ⟨0x61008 + w * 0x10, 0, 16⟩
def FIRN_WPROF.Y_MAX (w : Nat) : Fld := ⟨0x61004 + w * 0x10, 16, 16⟩
def FIRN_WPROF.Y_MIN (w : Nat) : Fld := ⟨0x61004 + w * 0x10, 0, 16⟩
def FIRN_WPROF.R_MAX (w : Nat) : Fld := ⟨0x61000 + w * 0x10, 16, 16⟩
def FIRN_WPROF.R_MIN (w : Nat) : Fld := ⟨0x61000 + w * 0x10, 0, 16⟩

/-! FIRN_DROP (R366) -/
def FIRN_DROP.DROPS (i : Nat) : Fld := ⟨0x62000 + i * 0x4, 0, 32⟩

/-! FIRN_LEAKLOG (R367) -/
def FIRN_LEAKLOG.PASSNO (i : Nat) : Fld := ⟨0x63004 + i * 0x8, 10, 22⟩
def FIRN_LEAKLOG.ACTED (i : Nat) : Fld := ⟨0x63004 + i * 0x8, 9, 1⟩
def FIRN_LEAKLOG.KIND (i : Nat) : Fld := ⟨0x63004 + i * 0x8, 6, 3⟩
def FIRN_LEAKLOG.HOLDS (i : Nat) : Fld := ⟨0x63004 + i * 0x8, 0, 6⟩
def FIRN_LEAKLOG.COUNT (i : Nat) : Fld := ⟨0x63000 + i * 0x8, 26, 6⟩
def FIRN_LEAKLOG.OWNER_TC (i : Nat) : Fld := ⟨0x63000 + i * 0x8, 24, 2⟩
def FIRN_LEAKLOG.OWNER (i : Nat) : Fld := ⟨0x63000 + i * 0x8, 18, 6⟩
def FIRN_LEAKLOG.CELL (i : Nat) : Fld := ⟨0x63000 + i * 0x8, 0, 18⟩

/-! FIRN_POL (R368) -/
def FIRN_POL.EN (i : Nat) : Fld := ⟨0x68004 + i * 0x8, 31, 1⟩
def FIRN_POL.AWARE (i : Nat) : Fld := ⟨0x68004 + i * 0x8, 30, 1⟩
def FIRN_POL.PIR (i : Nat) : Fld := ⟨0x68004 + i * 0x8, 10, 20⟩
def FIRN_POL.CIR (i : Nat) : Fld := ⟨0x68000 + i * 0x8, 22, 20⟩
def FIRN_POL.PBS (i : Nat) : Fld := ⟨0x68000 + i * 0x8, 11, 11⟩
def FIRN_POL.CBS (i : Nat) : Fld := ⟨0x68000 + i * 0x8, 0, 11⟩

/-! HOST_CTRL (R408) -/
def HOST_CTRL.ENABLED (f : Nat) : Fld := ⟨0x90000 + f * 0x10000, 31, 1⟩
def HOST_CTRL.PARTNER_ENABLED (f : Nat) : Fld := ⟨0x90000 + f * 0x10000, 30, 1⟩
def HOST_CTRL.ADMIN_EN (f : Nat) : Fld := ⟨0x90000 + f * 0x10000, 0, 1⟩

/-! HOST_ASQ (R409) -/
def HOST_ASQ.BASE (f : Nat) : Fld := ⟨0x90008 + f * 0x10000, 12, 52⟩
def HOST_ASQ.SIZE_LOG2 (f : Nat) : Fld := ⟨0x90008 + f * 0x10000, 0, 5⟩

/-! HOST_ACQ (R409) -/
def HOST_ACQ.BASE (f : Nat) : Fld := ⟨0x90010 + f * 0x10000, 12, 52⟩
def HOST_ACQ.SIZE_LOG2 (f : Nat) : Fld := ⟨0x90010 + f * 0x10000, 0, 5⟩

/-! HOST_CLAMP (R410) -/
def HOST_CLAMP.CLAMP_COUNT (f : Nat) : Fld := ⟨0x90018 + f * 0x10000, 0, 32⟩

/-! HOST_FUNCCNT (R411) -/
def HOST_FUNCCNT.RESETS (f : Nat) : Fld := ⟨0x90024 + f * 0x10000, 16, 16⟩
def HOST_FUNCCNT.CQ_FREED (f : Nat) : Fld := ⟨0x90020 + f * 0x10000, 16, 16⟩
def HOST_FUNCCNT.FLR_DROPPED (f : Nat) : Fld := ⟨0x90020 + f * 0x10000, 0, 16⟩

/-! HOST_SQOWN (R412) -/
def HOST_SQOWN.BITS (f : Nat) (i : Nat) : Fld := ⟨0x90040 + f * 0x10000 + i * 0x4, 0, 32⟩

/-! HOST_CQOWN (R412) -/
def HOST_CQOWN.BITS (f : Nat) (i : Nat) : Fld := ⟨0x90050 + f * 0x10000 + i * 0x4, 0, 32⟩

/-! HOST_CQORPH (R412) -/
def HOST_CQORPH.BITS (f : Nat) (i : Nat) : Fld := ⟨0x90060 + f * 0x10000 + i * 0x4, 0, 32⟩

/-! HOST_SQSTAT (R413) -/
def HOST_SQSTAT.BASE (f : Nat) (n : Nat) : Fld := ⟨0x91008 + f * 0x10000 + n * 0x10, 12, 52⟩
def HOST_SQSTAT.TAIL (f : Nat) (n : Nat) : Fld := ⟨0x91004 + f * 0x10000 + n * 0x10, 16, 16⟩
def HOST_SQSTAT.HEAD (f : Nat) (n : Nat) : Fld := ⟨0x91004 + f * 0x10000 + n * 0x10, 0, 16⟩
def HOST_SQSTAT.VALID (f : Nat) (n : Nat) : Fld := ⟨0x91000 + f * 0x10000 + n * 0x10, 31, 1⟩
def HOST_SQSTAT.SIZE_LOG2 (f : Nat) (n : Nat) : Fld := ⟨0x91000 + f * 0x10000 + n * 0x10, 23, 5⟩
def HOST_SQSTAT.CQ (f : Nat) (n : Nat) : Fld := ⟨0x91000 + f * 0x10000 + n * 0x10, 16, 7⟩
def HOST_SQSTAT.LOWWATER (f : Nat) (n : Nat) : Fld := ⟨0x91000 + f * 0x10000 + n * 0x10, 0, 16⟩

/-! HOST_CQSTAT (R414) -/
def HOST_CQSTAT.BASE (f : Nat) (n : Nat) : Fld := ⟨0x92008 + f * 0x10000 + n * 0x10, 12, 52⟩
def HOST_CQSTAT.POSTED (f : Nat) (n : Nat) : Fld := ⟨0x92008 + f * 0x10000 + n * 0x10, 0, 12⟩
def HOST_CQSTAT.HEAD (f : Nat) (n : Nat) : Fld := ⟨0x92004 + f * 0x10000 + n * 0x10, 16, 16⟩
def HOST_CQSTAT.TAIL (f : Nat) (n : Nat) : Fld := ⟨0x92004 + f * 0x10000 + n * 0x10, 0, 16⟩
def HOST_CQSTAT.VALID (f : Nat) (n : Nat) : Fld := ⟨0x92000 + f * 0x10000 + n * 0x10, 31, 1⟩
def HOST_CQSTAT.PHASE (f : Nat) (n : Nat) : Fld := ⟨0x92000 + f * 0x10000 + n * 0x10, 30, 1⟩
def HOST_CQSTAT.SIZE_LOG2 (f : Nat) (n : Nat) : Fld := ⟨0x92000 + f * 0x10000 + n * 0x10, 23, 5⟩
def HOST_CQSTAT.BUFSZ (f : Nat) (n : Nat) : Fld := ⟨0x92000 + f * 0x10000 + n * 0x10, 20, 3⟩
def HOST_CQSTAT.RESERVED (f : Nat) (n : Nat) : Fld := ⟨0x92000 + f * 0x10000 + n * 0x10, 0, 16⟩

/-! CIRQUE_DOORBELL (R433) -/
def CIRQUE_DOORBELL.SOURCE : Fld := ⟨0x20000, 0, 11⟩

/-! CIRQUE_SRC (R434) -/
def CIRQUE_SRC.EN (n : Nat) : Fld := ⟨0x22000 + n * 0x4, 31, 1⟩
def CIRQUE_SRC.ACTIVE (n : Nat) : Fld := ⟨0x22000 + n * 0x4, 30, 1⟩
def CIRQUE_SRC.DELIVERED (n : Nat) : Fld := ⟨0x22000 + n * 0x4, 29, 1⟩
def CIRQUE_SRC.SAT (n : Nat) : Fld := ⟨0x22000 + n * 0x4, 28, 1⟩
def CIRQUE_SRC.CLR (n : Nat) : Fld := ⟨0x22000 + n * 0x4, 27, 1⟩
def CIRQUE_SRC.COUNT (n : Nat) : Fld := ⟨0x22000 + n * 0x4, 16, 8⟩
def CIRQUE_SRC.PRIO (n : Nat) : Fld := ⟨0x22000 + n * 0x4, 12, 4⟩
def CIRQUE_SRC.TARGET (n : Nat) : Fld := ⟨0x22000 + n * 0x4, 0, 7⟩

/-! CIRQUE_CLAIM (R435) -/
def CIRQUE_CLAIM.VALID (t : Nat) : Fld := ⟨0x20400 + t * 0x20, 31, 1⟩
def CIRQUE_CLAIM.COUNT (t : Nat) : Fld := ⟨0x20400 + t * 0x20, 16, 8⟩
def CIRQUE_CLAIM.SOURCE (t : Nat) : Fld := ⟨0x20400 + t * 0x20, 0, 11⟩

/-! CIRQUE_COMPLETE (R436) -/
def CIRQUE_COMPLETE.SOURCE (t : Nat) : Fld := ⟨0x20404 + t * 0x20, 0, 11⟩

/-! CIRQUE_MOD (R437) -/
def CIRQUE_MOD.MOD_TIME (t : Nat) : Fld := ⟨0x20408 + t * 0x20, 16, 16⟩
def CIRQUE_MOD.BYPASS_PRIO (t : Nat) : Fld := ⟨0x20408 + t * 0x20, 12, 4⟩
def CIRQUE_MOD.MOD_COUNT (t : Nat) : Fld := ⟨0x20408 + t * 0x20, 0, 8⟩

/-! CIRQUE_TSTAT (R438) -/
def CIRQUE_TSTAT.IDLE (t : Nat) : Fld := ⟨0x2040c + t * 0x20, 31, 1⟩
def CIRQUE_TSTAT.OFFERED (t : Nat) : Fld := ⟨0x2040c + t * 0x20, 30, 1⟩
def CIRQUE_TSTAT.HOLDING (t : Nat) : Fld := ⟨0x2040c + t * 0x20, 29, 1⟩
def CIRQUE_TSTAT.VEC_MASKED (t : Nat) : Fld := ⟨0x2040c + t * 0x20, 28, 1⟩
def CIRQUE_TSTAT.MOD_EVT (t : Nat) : Fld := ⟨0x2040c + t * 0x20, 11, 9⟩
def CIRQUE_TSTAT.SRC (t : Nat) : Fld := ⟨0x2040c + t * 0x20, 0, 11⟩

/-! CIRQUE_TCNT (R439) -/
def CIRQUE_TCNT.DELIVERIES (t : Nat) : Fld := ⟨0x20410 + t * 0x20, 16, 16⟩
def CIRQUE_TCNT.BAD_COMPLETE (t : Nat) : Fld := ⟨0x20410 + t * 0x20, 0, 16⟩

/-! SNOW_CTRL (R453) -/
def SNOW_CTRL.LANE_WATCH : Fld := ⟨0xc0000, 16, 16⟩
def SNOW_CTRL.WAKE0_EN : Fld := ⟨0xc0000, 15, 1⟩
def SNOW_CTRL.WAKE1_EN : Fld := ⟨0xc0000, 14, 1⟩
def SNOW_CTRL.PERST0_EN : Fld := ⟨0xc0000, 13, 1⟩
def SNOW_CTRL.PERST1_EN : Fld := ⟨0xc0000, 12, 1⟩
def SNOW_CTRL.RTC_EN : Fld := ⟨0xc0000, 11, 1⟩
def SNOW_CTRL.GPIO_EN : Fld := ⟨0xc0000, 7, 4⟩
def SNOW_CTRL.GPIO_POL : Fld := ⟨0xc0000, 3, 4⟩
def SNOW_CTRL.PERST_ANY : Fld := ⟨0xc0000, 2, 1⟩
def SNOW_CTRL.ARMED : Fld := ⟨0xc0000, 1, 1⟩

/-! SNOW_SEQ (R454) -/
def SNOW_SEQ.PG_TIMEOUT : Fld := ⟨0xc0004, 8, 8⟩
def SNOW_SEQ.RESET_DELAY : Fld := ⟨0xc0004, 0, 6⟩

/-! SNOW_CAUSE (R455) -/
def SNOW_CAUSE.FIRST : Fld := ⟨0xc0008, 27, 5⟩
def SNOW_CAUSE.PG_FAIL : Fld := ⟨0xc0008, 26, 1⟩
def SNOW_CAUSE.COLD : Fld := ⟨0xc0008, 25, 1⟩
def SNOW_CAUSE.GPIO : Fld := ⟨0xc0008, 21, 4⟩
def SNOW_CAUSE.RTC : Fld := ⟨0xc0008, 20, 1⟩
def SNOW_CAUSE.PERST1 : Fld := ⟨0xc0008, 19, 1⟩
def SNOW_CAUSE.PERST0 : Fld := ⟨0xc0008, 18, 1⟩
def SNOW_CAUSE.WAKE1 : Fld := ⟨0xc0008, 17, 1⟩
def SNOW_CAUSE.WAKE0 : Fld := ⟨0xc0008, 16, 1⟩
def SNOW_CAUSE.LANE : Fld := ⟨0xc0008, 0, 16⟩

/-! SNOW_LCAUSE (R456) -/
def SNOW_LCAUSE.LCODE0 : Fld := ⟨0xc0010, 0, 4⟩
def SNOW_LCAUSE.LCODE1 : Fld := ⟨0xc0010, 4, 4⟩
def SNOW_LCAUSE.LCODE2 : Fld := ⟨0xc0010, 8, 4⟩
def SNOW_LCAUSE.LCODE3 : Fld := ⟨0xc0010, 12, 4⟩
def SNOW_LCAUSE.LCODE4 : Fld := ⟨0xc0010, 16, 4⟩
def SNOW_LCAUSE.LCODE5 : Fld := ⟨0xc0010, 20, 4⟩
def SNOW_LCAUSE.LCODE6 : Fld := ⟨0xc0010, 24, 4⟩
def SNOW_LCAUSE.LCODE7 : Fld := ⟨0xc0010, 28, 4⟩
def SNOW_LCAUSE.LCODE8 : Fld := ⟨0xc0014, 0, 4⟩
def SNOW_LCAUSE.LCODE9 : Fld := ⟨0xc0014, 4, 4⟩
def SNOW_LCAUSE.LCODE10 : Fld := ⟨0xc0014, 8, 4⟩
def SNOW_LCAUSE.LCODE11 : Fld := ⟨0xc0014, 12, 4⟩
def SNOW_LCAUSE.LCODE12 : Fld := ⟨0xc0014, 16, 4⟩
def SNOW_LCAUSE.LCODE13 : Fld := ⟨0xc0014, 20, 4⟩
def SNOW_LCAUSE.LCODE14 : Fld := ⟨0xc0014, 24, 4⟩
def SNOW_LCAUSE.LCODE15 : Fld := ⟨0xc0014, 28, 4⟩

/-! SNOW_STAT (R457) -/
def SNOW_STAT.GPIO_LVL : Fld := ⟨0xc0018, 28, 4⟩
def SNOW_STAT.WAKE1_LVL : Fld := ⟨0xc0018, 27, 1⟩
def SNOW_STAT.WAKE0_LVL : Fld := ⟨0xc0018, 26, 1⟩
def SNOW_STAT.PG_LVL : Fld := ⟨0xc0018, 25, 1⟩
def SNOW_STAT.PG_FAILS : Fld := ⟨0xc0018, 0, 8⟩

/-! SNOW_RTC (R458) -/
def SNOW_RTC.TICKS : Fld := ⟨0xc0020, 0, 48⟩

/-! SNOW_ALARM (R458) -/
def SNOW_ALARM.ALARM : Fld := ⟨0xc0028, 0, 48⟩

/-! SNOW_LANE (R459) -/
def SNOW_LANE.WUP_EN (n : Nat) : Fld := ⟨0xc0100 + n * 0x4, 31, 1⟩
def SNOW_LANE.SW_EN (n : Nat) : Fld := ⟨0xc0100 + n * 0x4, 30, 1⟩
def SNOW_LANE.SW_RATE (n : Nat) : Fld := ⟨0xc0100 + n * 0x4, 28, 2⟩
def SNOW_LANE.FD_PASSIVE (n : Nat) : Fld := ⟨0xc0100 + n * 0x4, 27, 1⟩
def SNOW_LANE.ERRLIM (n : Nat) : Fld := ⟨0xc0100 + n * 0x4, 22, 5⟩
def SNOW_LANE.WUP_FILT (n : Nat) : Fld := ⟨0xc0100 + n * 0x4, 16, 6⟩
def SNOW_LANE.WUP_TO (n : Nat) : Fld := ⟨0xc0100 + n * 0x4, 8, 7⟩
def SNOW_LANE.PAT_EN (n : Nat) : Fld := ⟨0xc0100 + n * 0x4, 0, 8⟩

/-! SNOW_SWPAT (R460) -/
def SNOW_SWPAT.DATA_MASK (n : Nat) (p : Nat) : Fld := ⟨0xc1010 + n * 0x100 + p * 0x20, 0, 64⟩
def SNOW_SWPAT.DATA_EN (n : Nat) (p : Nat) : Fld := ⟨0xc1008 + n * 0x100 + p * 0x20, 5, 1⟩
def SNOW_SWPAT.DLC_EN (n : Nat) (p : Nat) : Fld := ⟨0xc1008 + n * 0x100 + p * 0x20, 4, 1⟩
def SNOW_SWPAT.DLC (n : Nat) (p : Nat) : Fld := ⟨0xc1008 + n * 0x100 + p * 0x20, 0, 4⟩
def SNOW_SWPAT.ID_MASK (n : Nat) (p : Nat) : Fld := ⟨0xc1004 + n * 0x100 + p * 0x20, 0, 29⟩
def SNOW_SWPAT.IDE (n : Nat) (p : Nat) : Fld := ⟨0xc1000 + n * 0x100 + p * 0x20, 29, 1⟩
def SNOW_SWPAT.ID (n : Nat) (p : Nat) : Fld := ⟨0xc1000 + n * 0x100 + p * 0x20, 0, 29⟩

/-! TB_CTRL (R492) -/
def TB_CTRL.DOM_EN (n : Nat) : Fld := ⟨0x40000 + n * 0x100, 8, 1⟩
def TB_CTRL.DOMAIN (n : Nat) : Fld := ⟨0x40000 + n * 0x100, 0, 8⟩

/-! TB_INCR (R493) -/
def TB_INCR.INCR (n : Nat) : Fld := ⟨0x40004 + n * 0x100, 0, 32⟩

/-! TB_SLEW (R494) -/
def TB_SLEW.ACTIVE (n : Nat) : Fld := ⟨0x4000c + n * 0x100, 31, 1⟩
def TB_SLEW.RATE (n : Nat) : Fld := ⟨0x4000c + n * 0x100, 0, 11⟩
def TB_SLEW.AMOUNT (n : Nat) : Fld := ⟨0x40008 + n * 0x100, 0, 32⟩

/-! TB_STEPLIM (R495) -/
def TB_STEPLIM.STEP_LIMIT (n : Nat) : Fld := ⟨0x40010 + n * 0x100, 0, 32⟩

/-! TB_STAT (R496) -/
def TB_STAT.STEP_REFUSED (n : Nat) : Fld := ⟨0x40014 + n * 0x100, 31, 1⟩
def TB_STAT.FORCED (n : Nat) : Fld := ⟨0x40014 + n * 0x100, 30, 1⟩
def TB_STAT.SLEW_DONE (n : Nat) : Fld := ⟨0x40014 + n * 0x100, 29, 1⟩
def TB_STAT.STEPS (n : Nat) : Fld := ⟨0x40014 + n * 0x100, 0, 16⟩

/-! TB_LASTSTEP (R497) -/
def TB_LASTSTEP.LAST_STEP (n : Nat) : Fld := ⟨0x40018 + n * 0x100, 0, 64⟩

/-! TB_TIME (R498) -/
def TB_TIME.SECONDS (n : Nat) : Fld := ⟨0x40024 + n * 0x100, 16, 48⟩
def TB_TIME.NANOSECONDS (n : Nat) : Fld := ⟨0x40020 + n * 0x100, 16, 32⟩
def TB_TIME.FRAC (n : Nat) : Fld := ⟨0x40020 + n * 0x100, 0, 16⟩

/-! TB_SET (R499) -/
def TB_SET.SECONDS (n : Nat) : Fld := ⟨0x40034 + n * 0x100, 16, 48⟩
def TB_SET.NANOSECONDS (n : Nat) : Fld := ⟨0x40030 + n * 0x100, 16, 32⟩
def TB_SET.FRAC (n : Nat) : Fld := ⟨0x40030 + n * 0x100, 0, 16⟩

/-! TB_ETHBIND (R500) -/
def TB_ETHBIND.TB0 : Fld := ⟨0x40800, 0, 3⟩
def TB_ETHBIND.TB1 : Fld := ⟨0x40800, 3, 3⟩
def TB_ETHBIND.TB2 : Fld := ⟨0x40800, 6, 3⟩
def TB_ETHBIND.TB3 : Fld := ⟨0x40800, 9, 3⟩

/-! TB_ETHADJ (R501) -/
def TB_ETHADJ.TX_ADJ (e : Nat) : Fld := ⟨0x40810 + e * 0x8, 16, 16⟩
def TB_ETHADJ.RX_ADJ (e : Nat) : Fld := ⟨0x40810 + e * 0x8, 0, 16⟩

/-! TB_TCCFG (R502) -/
def TB_TCCFG.TC_EN (e : Nat) : Fld := ⟨0x40840 + e * 0x4, 31, 1⟩
def TB_TCCFG.CLASS (e : Nat) : Fld := ⟨0x40840 + e * 0x4, 8, 2⟩
def TB_TCCFG.FWD (e : Nat) : Fld := ⟨0x40840 + e * 0x4, 0, 4⟩

/-! TB_TCSTAT (R503) -/
def TB_TCSTAT.TC_DROP : Fld := ⟨0x40864, 0, 16⟩
def TB_TCSTAT.TC_NOFIX : Fld := ⟨0x40860, 16, 16⟩
def TB_TCSTAT.TC_FWD : Fld := ⟨0x40860, 0, 16⟩

/-! TB_BDIST (R504) -/
def TB_BDIST.FUP_ID (c : Nat) : Fld := ⟨0x40908 + c * 0x20, 0, 29⟩
def TB_BDIST.FORMAT (c : Nat) : Fld := ⟨0x40904 + c * 0x20, 29, 3⟩
def TB_BDIST.SYNC_ID (c : Nat) : Fld := ⟨0x40904 + c * 0x20, 0, 29⟩
def TB_BDIST.EN (c : Nat) : Fld := ⟨0x40900 + c * 0x20, 31, 1⟩
def TB_BDIST.LAYOUT (c : Nat) : Fld := ⟨0x40900 + c * 0x20, 30, 1⟩
def TB_BDIST.TB (c : Nat) : Fld := ⟨0x40900 + c * 0x20, 24, 3⟩
def TB_BDIST.LANE (c : Nat) : Fld := ⟨0x40900 + c * 0x20, 16, 7⟩
def TB_BDIST.PERIOD (c : Nat) : Fld := ⟨0x40900 + c * 0x20, 0, 16⟩

/-! TB_BDSTAT (R505) -/
def TB_BDSTAT.SEQ (c : Nat) : Fld := ⟨0x40914 + c * 0x20, 16, 8⟩
def TB_BDSTAT.SYNC_LOST (c : Nat) : Fld := ⟨0x40914 + c * 0x20, 0, 16⟩
def TB_BDSTAT.FUP_SENT (c : Nat) : Fld := ⟨0x40910 + c * 0x20, 16, 16⟩
def TB_BDSTAT.SYNC_SENT (c : Nat) : Fld := ⟨0x40910 + c * 0x20, 0, 16⟩

/-! MOR_CTRL (R528) -/
def MOR_CTRL.DEST : Fld := ⟨0x70000, 31, 1⟩
def MOR_CTRL.MODE : Fld := ⟨0x70000, 30, 1⟩
def MOR_CTRL.DROP_CAP : Fld := ⟨0x70000, 29, 1⟩
def MOR_CTRL.TB : Fld := ⟨0x70000, 26, 3⟩
def MOR_CTRL.HFUNC : Fld := ⟨0x70000, 25, 1⟩
def MOR_CTRL.ETHCAP : Fld := ⟨0x70000, 0, 16⟩

/-! MOR_DRING (R529) -/
def MOR_DRING.SIZE : Fld := ⟨0x7000c, 0, 15⟩
def MOR_DRING.BASE : Fld := ⟨0x70008, 0, 14⟩

/-! MOR_HRING (R530) -/
def MOR_HRING.BASE : Fld := ⟨0x70010, 12, 52⟩
def MOR_HRING.SIZE_LOG2 : Fld := ⟨0x70010, 0, 5⟩

/-! MOR_HTADDR (R530) -/
def MOR_HTADDR.ADDR : Fld := ⟨0x70018, 3, 61⟩

/-! MOR_HHEAD (R531) -/
def MOR_HHEAD.HEAD : Fld := ⟨0x70020, 0, 25⟩

/-! MOR_WIN (R532) -/
def MOR_WIN.POST_MS : Fld := ⟨0x7002c, 0, 22⟩
def MOR_WIN.PRE_MS : Fld := ⟨0x70028, 0, 22⟩

/-! MOR_STAT (R533) -/
def MOR_STAT.FROZEN : Fld := ⟨0x70034, 31, 1⟩
def MOR_STAT.ARMED : Fld := ⟨0x70034, 30, 1⟩
def MOR_STAT.TRIGGERED : Fld := ⟨0x70034, 29, 1⟩
def MOR_STAT.PRE_SHORT : Fld := ⟨0x70034, 28, 1⟩
def MOR_STAT.POST_SHORT : Fld := ⟨0x70034, 27, 1⟩
def MOR_STAT.HOST_LOST : Fld := ⟨0x70034, 26, 1⟩
def MOR_STAT.WRAPPED : Fld := ⟨0x70034, 25, 1⟩
def MOR_STAT.NEXT_SEQ : Fld := ⟨0x70030, 0, 32⟩

/-! MOR_LOSS (R534) -/
def MOR_LOSS.LOST_FULL : Fld := ⟨0x70044, 16, 16⟩
def MOR_LOSS.LOST_ADMIT : Fld := ⟨0x70044, 0, 16⟩
def MOR_LOSS.RECORDS : Fld := ⟨0x70040, 0, 32⟩

/-! MOR_LCAP (R535) -/
def MOR_LCAP.SAMPLE_N (L : Nat) : Fld := ⟨0x70100 + L * 0x4, 16, 16⟩
def MOR_LCAP.PAY (L : Nat) : Fld := ⟨0x70100 + L * 0x4, 4, 2⟩
def MOR_LCAP.TX (L : Nat) : Fld := ⟨0x70100 + L * 0x4, 3, 1⟩
def MOR_LCAP.ERR (L : Nat) : Fld := ⟨0x70100 + L * 0x4, 2, 1⟩
def MOR_LCAP.RX (L : Nat) : Fld := ⟨0x70100 + L * 0x4, 0, 2⟩

/-! MOR_TRIG (R536) -/
def MOR_TRIG.EN (t : Nat) : Fld := ⟨0x70408 + t * 0x10, 20, 1⟩
def MOR_TRIG.ANY_STATUS (t : Nat) : Fld := ⟨0x70408 + t * 0x10, 19, 1⟩
def MOR_TRIG.ANY_NUM (t : Nat) : Fld := ⟨0x70408 + t * 0x10, 18, 1⟩
def MOR_TRIG.SKIND (t : Nat) : Fld := ⟨0x70408 + t * 0x10, 15, 3⟩
def MOR_TRIG.SNUM (t : Nat) : Fld := ⟨0x70408 + t * 0x10, 8, 7⟩
def MOR_TRIG.STATUS (t : Nat) : Fld := ⟨0x70408 + t * 0x10, 0, 8⟩
def MOR_TRIG.IDMASK (t : Nat) : Fld := ⟨0x70404 + t * 0x10, 0, 29⟩
def MOR_TRIG.ID (t : Nat) : Fld := ⟨0x70400 + t * 0x10, 0, 29⟩

/-! STACK_ID (R564) -/
def STACK_ID.STRAP_ROLE : Fld := ⟨0x80004, 30, 2⟩
def STACK_ID.BACKUP_ID : Fld := ⟨0x80004, 0, 14⟩
def STACK_ID.MASTER_ID : Fld := ⟨0x80000, 16, 14⟩
def STACK_ID.DEV_ID : Fld := ⟨0x80000, 0, 14⟩

/-! STACK_CFG (R565) -/
def STACK_CFG.HOP_INIT : Fld := ⟨0x80008, 24, 8⟩
def STACK_CFG.HB_MISS : Fld := ⟨0x80008, 20, 4⟩
def STACK_CFG.HB_INTERVAL : Fld := ⟨0x80008, 0, 16⟩

/-! STACK_STATE (R566) -/
def STACK_STATE.ROLE : Fld := ⟨0x80014, 30, 2⟩
def STACK_STATE.STANDBY : Fld := ⟨0x80014, 29, 1⟩
def STACK_STATE.MASTER_LOST : Fld := ⟨0x80014, 28, 1⟩
def STACK_STATE.EPOCH_BEHIND : Fld := ⟨0x80014, 27, 1⟩
def STACK_STATE.CUR_MASTER : Fld := ⟨0x80014, 0, 14⟩
def STACK_STATE.EPOCH : Fld := ⟨0x80010, 0, 32⟩

/-! STACK_TIMECFG (R567) -/
def STACK_TIMECFG.TIME_EN : Fld := ⟨0x80018, 31, 1⟩
def STACK_TIMECFG.LOCKED : Fld := ⟨0x80018, 30, 1⟩
def STACK_TIMECFG.SYNC_INT : Fld := ⟨0x80018, 8, 4⟩
def STACK_TIMECFG.DOMAIN : Fld := ⟨0x80018, 0, 8⟩

/-! STACK_PORTCFG (R568) -/
def STACK_PORTCFG.VID (e : Nat) : Fld := ⟨0x80044 + e * 0x8, 8, 12⟩
def STACK_PORTCFG.VLAN_EN (e : Nat) : Fld := ⟨0x80044 + e * 0x8, 7, 1⟩
def STACK_PORTCFG.PCPMAP (e : Nat) : Fld := ⟨0x80040 + e * 0x8, 24, 12⟩
def STACK_PORTCFG.RELAY (e : Nat) : Fld := ⟨0x80040 + e * 0x8, 1, 1⟩
def STACK_PORTCFG.STACK_EN (e : Nat) : Fld := ⟨0x80040 + e * 0x8, 0, 1⟩

/-! STACK_MAC (R569) -/
def STACK_MAC.PREFIX : Fld := ⟨0x80060, 16, 32⟩

/-! STACK_BCMAC (R569) -/
def STACK_BCMAC.BCMAC : Fld := ⟨0x80068, 0, 48⟩

/-! STACK_CNT (R570) -/
def STACK_CNT.RELAYED : Fld := ⟨0x8007c, 0, 32⟩
def STACK_CNT.NO_PATH : Fld := ⟨0x80078, 16, 16⟩
def STACK_CNT.HOP_DROP : Fld := ⟨0x80078, 0, 16⟩
def STACK_CNT.NAK_SENT : Fld := ⟨0x80074, 16, 16⟩
def STACK_CNT.NAK_RCVD : Fld := ⟨0x80074, 0, 16⟩
def STACK_CNT.NAK_SUPPRESSED : Fld := ⟨0x80070, 16, 16⟩
def STACK_CNT.HB_MISSED : Fld := ⟨0x80070, 0, 16⟩

/-! STACK_VLOGSTAT (R571) -/
def STACK_VLOGSTAT.LOST : Fld := ⟨0x800f0, 16, 16⟩
def STACK_VLOGSTAT.COUNT : Fld := ⟨0x800f0, 4, 5⟩
def STACK_VLOGSTAT.HEAD : Fld := ⟨0x800f0, 0, 4⟩

/-! STACK_VLOG (R571) -/
def STACK_VLOG.SEQ (i : Nat) : Fld := ⟨0x8010c + i * 0x10, 0, 32⟩
def STACK_VLOG.TYPE (i : Nat) : Fld := ⟨0x80108 + i * 0x10, 20, 4⟩
def STACK_VLOG.CAUSE (i : Nat) : Fld := ⟨0x80108 + i * 0x10, 16, 4⟩
def STACK_VLOG.PORT (i : Nat) : Fld := ⟨0x80108 + i * 0x10, 14, 2⟩
def STACK_VLOG.SRC_DEV (i : Nat) : Fld := ⟨0x80108 + i * 0x10, 0, 14⟩
def STACK_VLOG.STAMP (i : Nat) : Fld := ⟨0x80100 + i * 0x10, 0, 64⟩

/-! STACK_PATH (R572) -/
def STACK_PATH.VALID (d : Nat) : Fld := ⟨0x88000 + d / 2 * 4, 15 + 16 * (d % 2), 1⟩
def STACK_PATH.ALT_VALID (d : Nat) : Fld := ⟨0x88000 + d / 2 * 4, 14 + 16 * (d % 2), 1⟩
def STACK_PATH.ALT (d : Nat) : Fld := ⟨0x88000 + d / 2 * 4, 10 + 16 * (d % 2), 2⟩
def STACK_PATH.PRIMARY (d : Nat) : Fld := ⟨0x88000 + d / 2 * 4, 8 + 16 * (d % 2), 2⟩
def STACK_PATH.ON_ALT (d : Nat) : Fld := ⟨0x88000 + d / 2 * 4, 1 + 16 * (d % 2), 1⟩

/-! ETH_CFG (R573) -/
def ETH_CFG.MODE (e : Nat) : Fld := ⟨0xb0000 + e * 0x100, 30, 2⟩
def ETH_CFG.AN_EN (e : Nat) : Fld := ⟨0xb0000 + e * 0x100, 29, 1⟩
def ETH_CFG.RX_CQ (e : Nat) : Fld := ⟨0xb0000 + e * 0x100, 16, 7⟩
def ETH_CFG.RX_EN (e : Nat) : Fld := ⟨0xb0000 + e * 0x100, 15, 1⟩
def ETH_CFG.PROMISC (e : Nat) : Fld := ⟨0xb0000 + e * 0x100, 14, 1⟩
def ETH_CFG.MCAST (e : Nat) : Fld := ⟨0xb0000 + e * 0x100, 13, 1⟩

/-! ETH_STAT (R574) -/
def ETH_STAT.LINK (e : Nat) : Fld := ⟨0xb000c + e * 0x100, 31, 1⟩
def ETH_STAT.SPEED (e : Nat) : Fld := ⟨0xb000c + e * 0x100, 29, 2⟩
def ETH_STAT.ENABLED (e : Nat) : Fld := ⟨0xb000c + e * 0x100, 28, 1⟩
def ETH_STAT.RX_FILT (e : Nat) : Fld := ⟨0xb000c + e * 0x100, 0, 16⟩
def ETH_STAT.RX_BADFCS (e : Nat) : Fld := ⟨0xb0008 + e * 0x100, 16, 16⟩
def ETH_STAT.LINKCHG (e : Nat) : Fld := ⟨0xb0008 + e * 0x100, 0, 16⟩

/-! ENG_CTRL (R627) -/
def ENG_CTRL.RSMODE (e : Nat) : Fld := ⟨0x20c000 + e * 0x10000, 0, 2⟩

/-! ENG_DRAM_WIN (R628) -/
def ENG_DRAM_WIN.WIN (e : Nat) : Fld := ⟨0x20c004 + e * 0x10000, 0, 4⟩

/-! ENG_MSP (R629) -/
def ENG_MSP.MSP (e : Nat) : Fld := ⟨0x20c008 + e * 0x10000, 2, 13⟩

/-! ENG_MSLIM (R629) -/
def ENG_MSLIM.MSLIM (e : Nat) : Fld := ⟨0x20c00c + e * 0x10000, 2, 13⟩

/-! ENG_STAT (R630) -/
def ENG_STAT.HALTED (e : Nat) : Fld := ⟨0x20c010 + e * 0x10000, 31, 1⟩
def ENG_STAT.WAITING (e : Nat) : Fld := ⟨0x20c010 + e * 0x10000, 30, 1⟩
def ENG_STAT.STOPPED (e : Nat) : Fld := ⟨0x20c010 + e * 0x10000, 29, 1⟩
def ENG_STAT.HALT_CAUSE (e : Nat) : Fld := ⟨0x20c010 + e * 0x10000, 24, 5⟩
def ENG_STAT.OSD (e : Nat) : Fld := ⟨0x20c010 + e * 0x10000, 16, 5⟩
def ENG_STAT.RSD (e : Nat) : Fld := ⟨0x20c010 + e * 0x10000, 12, 4⟩
def ENG_STAT.NEST (e : Nat) : Fld := ⟨0x20c010 + e * 0x10000, 0, 5⟩

/-! ENG_RSS (R631) -/
def ENG_RSS.RSS (e : Nat) : Fld := ⟨0x20c014 + e * 0x10000, 0, 16⟩

/-! ENG_ST (R631) -/
def ENG_ST.ST (e : Nat) : Fld := ⟨0x20c018 + e * 0x10000, 0, 32⟩

/-! ENG_PC (R631) -/
def ENG_PC.PC (e : Nat) : Fld := ⟨0x20c01c + e * 0x10000, 0, 32⟩

/-! ENG_TRAPINFO (R632) -/
def ENG_TRAPINFO.TRAPS (e : Nat) : Fld := ⟨0x20c024 + e * 0x10000, 16, 16⟩
def ENG_TRAPINFO.SWI_CODE (e : Nat) : Fld := ⟨0x20c024 + e * 0x10000, 5, 8⟩
def ENG_TRAPINFO.CAUSE (e : Nat) : Fld := ⟨0x20c024 + e * 0x10000, 0, 5⟩
def ENG_TRAPINFO.PC (e : Nat) : Fld := ⟨0x20c020 + e * 0x10000, 0, 32⟩

/-! ENG_PERF (R633) -/
def ENG_PERF.SERIAL (e : Nat) : Fld := ⟨0x20c02c + e * 0x10000, 0, 32⟩
def ENG_PERF.STEPS (e : Nat) : Fld := ⟨0x20c028 + e * 0x10000, 0, 32⟩

/-! ENG_IRQCNT (R634) -/
def ENG_IRQCNT.TAILCHAIN (e : Nat) : Fld := ⟨0x20c030 + e * 0x10000, 16, 16⟩
def ENG_IRQCNT.SPURIOUS (e : Nat) : Fld := ⟨0x20c030 + e * 0x10000, 0, 16⟩

/-! ENG_HOOKCNT (R636) -/
def ENG_HOOKCNT.FAULT (e : Nat) : Fld := ⟨0x20c084 + e * 0x10000, 16, 16⟩
def ENG_HOOKCNT.NOHOOK (e : Nat) : Fld := ⟨0x20c084 + e * 0x10000, 0, 16⟩
def ENG_HOOKCNT.TICK_MISSED (e : Nat) : Fld := ⟨0x20c080 + e * 0x10000, 16, 16⟩
def ENG_HOOKCNT.CALLS (e : Nat) : Fld := ⟨0x20c080 + e * 0x10000, 0, 16⟩

/-! ENG_CLAIM (R635) -/
def ENG_CLAIM.VALID (e : Nat) (p : Nat) : Fld := ⟨0x20c040 + e * 0x10000 + p * 0x4, 31, 1⟩
def ENG_CLAIM.COUNT (e : Nat) (p : Nat) : Fld := ⟨0x20c040 + e * 0x10000 + p * 0x4, 16, 8⟩
def ENG_CLAIM.SOURCE (e : Nat) (p : Nat) : Fld := ⟨0x20c040 + e * 0x10000 + p * 0x4, 0, 11⟩

/-! GLB_ID (R698) -/
def GLB_ID.MIN_SECVER : Fld := ⟨0x4, 20, 6⟩
def GLB_ID.KEY_REVOKED : Fld := ⟨0x4, 18, 2⟩
def GLB_ID.KEY_VALID : Fld := ⟨0x4, 16, 2⟩
def GLB_ID.PART : Fld := ⟨0x0, 16, 16⟩
def GLB_ID.SIREV : Fld := ⟨0x0, 0, 8⟩

/-! GLB_FWREV (R699) -/
def GLB_FWREV.SECVER : Fld := ⟨0xc, 0, 6⟩
def GLB_FWREV.MAJOR : Fld := ⟨0x8, 24, 8⟩
def GLB_FWREV.MINOR : Fld := ⟨0x8, 16, 8⟩
def GLB_FWREV.BUILD : Fld := ⟨0x8, 0, 16⟩

/-! GLB_UID (R700) -/
def GLB_UID.UID : Fld := ⟨0x10, 0, 64⟩

/-! GLB_BOOT (R701) -/
def GLB_BOOT.BOOT_DONE : Fld := ⟨0x18, 31, 1⟩
def GLB_BOOT.FALLBACK : Fld := ⟨0x18, 30, 1⟩
def GLB_BOOT.STRAP_SRC : Fld := ⟨0x18, 28, 2⟩
def GLB_BOOT.USED_SRC : Fld := ⟨0x18, 26, 2⟩
def GLB_BOOT.STATE : Fld := ⟨0x18, 20, 4⟩
def GLB_BOOT.FAIL_CAUSE : Fld := ⟨0x18, 16, 4⟩

/-! GLB_BOOTADDR (R702) -/
def GLB_BOOTADDR.ADDR : Fld := ⟨0x20, 2, 62⟩

/-! GLB_BOOTLEN (R702) -/
def GLB_BOOTLEN.GO : Fld := ⟨0x28, 31, 1⟩
def GLB_BOOTLEN.LEN : Fld := ⟨0x28, 0, 22⟩

/-! GLB_RSTCAUSE (R703) -/
def GLB_RSTCAUSE.THERMAL : Fld := ⟨0x30, 4, 1⟩
def GLB_RSTCAUSE.WAKE : Fld := ⟨0x30, 3, 1⟩
def GLB_RSTCAUSE.SOFTWARE : Fld := ⟨0x30, 2, 1⟩
def GLB_RSTCAUSE.PIN : Fld := ⟨0x30, 1, 1⟩
def GLB_RSTCAUSE.POWER_ON : Fld := ⟨0x30, 0, 1⟩

/-! GLB_ACTION (R704) -/
def GLB_ACTION.KEY : Fld := ⟨0x38, 0, 32⟩

/-! GLB_ECCCTRL (R705) -/
def GLB_ECCCTRL.SCRUB_EN : Fld := ⟨0x40, 31, 1⟩
def GLB_ECCCTRL.CE_LIMIT : Fld := ⟨0x40, 16, 8⟩
def GLB_ECCCTRL.SCRUB_MS : Fld := ⟨0x40, 0, 16⟩

/-! GLB_ECCSTAT (R706) -/
def GLB_ECCSTAT.SCRUB_PASS : Fld := ⟨0x4c, 16, 16⟩
def GLB_ECCSTAT.LOG_HEAD : Fld := ⟨0x4c, 0, 4⟩
def GLB_ECCSTAT.UE : Fld := ⟨0x48, 16, 16⟩
def GLB_ECCSTAT.CE : Fld := ⟨0x48, 0, 16⟩

/-! GLB_RESUME (R712) -/
def GLB_RESUME.RESUME_EN : Fld := ⟨0x50, 0, 1⟩

/-! GLB_IOSTAT (R717) -/
def GLB_IOSTAT.BANK0 : Fld := ⟨0x58, 0, 2⟩
def GLB_IOSTAT.BANK1 : Fld := ⟨0x58, 2, 2⟩
def GLB_IOSTAT.BANK2 : Fld := ⟨0x58, 4, 2⟩
def GLB_IOSTAT.BANK3 : Fld := ⟨0x58, 6, 2⟩
def GLB_IOSTAT.BANK4 : Fld := ⟨0x58, 8, 2⟩
def GLB_IOSTAT.BANK5 : Fld := ⟨0x58, 10, 2⟩
def GLB_IOSTAT.BANK6 : Fld := ⟨0x58, 12, 2⟩
def GLB_IOSTAT.BANK7 : Fld := ⟨0x58, 14, 2⟩

/-! GLB_ECCLOG (R707) -/
def GLB_ECCLOG.STAMP (i : Nat) : Fld := ⟨0x108 + i * 0x10, 0, 64⟩
def GLB_ECCLOG.MEM (i : Nat) : Fld := ⟨0x104 + i * 0x10, 24, 8⟩
def GLB_ECCLOG.UNCORR (i : Nat) : Fld := ⟨0x104 + i * 0x10, 23, 1⟩
def GLB_ECCLOG.BY_SCRUB (i : Nat) : Fld := ⟨0x104 + i * 0x10, 22, 1⟩
def GLB_ECCLOG.SYNDROME (i : Nat) : Fld := ⟨0x104 + i * 0x10, 8, 7⟩
def GLB_ECCLOG.UNIT (i : Nat) : Fld := ⟨0x104 + i * 0x10, 0, 8⟩
def GLB_ECCLOG.ADDR (i : Nat) : Fld := ⟨0x100 + i * 0x10, 0, 32⟩

/-! PWR_CTRL (R708) -/
def PWR_CTRL.VCTRL : Fld := ⟨0x10000, 31, 1⟩
def PWR_CTRL.PMBUS_ADDR : Fld := ⟨0x10000, 24, 7⟩
def PWR_CTRL.TJ_STEP : Fld := ⟨0x10000, 17, 7⟩
def PWR_CTRL.TJ_ALARM : Fld := ⟨0x10000, 10, 7⟩
def PWR_CTRL.SETTLE_US : Fld := ⟨0x10000, 0, 10⟩

/-! PWR_LEVEL (R709) -/
def PWR_LEVEL.VID_SURGE : Fld := ⟨0x1000c, 24, 6⟩
def PWR_LEVEL.VID_BAL : Fld := ⟨0x1000c, 18, 6⟩
def PWR_LEVEL.VOUT_SURGE : Fld := ⟨0x1000c, 0, 16⟩
def PWR_LEVEL.VOUT_BAL : Fld := ⟨0x10008, 16, 16⟩
def PWR_LEVEL.VOUT_ECO : Fld := ⟨0x10008, 0, 16⟩

/-! PWR_STAT (R710) -/
def PWR_STAT.MODE : Fld := ⟨0x10010, 30, 2⟩
def PWR_STAT.TARGET : Fld := ⟨0x10010, 28, 2⟩
def PWR_STAT.MOVING : Fld := ⟨0x10010, 27, 1⟩
def PWR_STAT.STEPPED_DOWN : Fld := ⟨0x10010, 26, 1⟩
def PWR_STAT.VFAULT : Fld := ⟨0x10010, 25, 1⟩
def PWR_STAT.TJ_MAX : Fld := ⟨0x10010, 9, 9⟩
def PWR_STAT.TJ : Fld := ⟨0x10010, 0, 9⟩

/-! MSIX (R370) -/
def MSIX.ADDR (f : Nat) (v : Nat) : Fld := ⟨0x98000 + f * 0x10000 + v * 0x10, 2, 62⟩
def MSIX.DATA (f : Nat) (v : Nat) : Fld := ⟨0x98008 + f * 0x10000 + v * 0x10, 0, 32⟩
def MSIX.MASK (f : Nat) (v : Nat) : Fld := ⟨0x9800c + f * 0x10000 + v * 0x10, 0, 1⟩

end F

/-- Registers of the lane region, part 1. -/
def regsLane0 : List RegRow := [
  -- LANE_CTRL (R156)
  ⟨0x100000, 0x800, 128, 0x100000000, 1, 4, .lane, [
    ⟨20, 12, .rwc, 256, 32, 4095, false⟩,
    ⟨19, 1, .rw, 1, 0, 1, false⟩,
    ⟨8, 8, .rwc, 96, 1, 255, false⟩,
    ⟨7, 1, .rw, 0, 0, 1, false⟩,
    ⟨6, 1, .rw, 1, 0, 1, false⟩,
    ⟨0, 6, .rw, 20, 0, 63, false⟩]⟩,
  -- LANE_MODE (R157)
  ⟨0x100004, 0x800, 128, 0x100000000, 1, 4, .lane, [
    ⟨8, 11, .rw, 2047, 0, 2047, false⟩,
    ⟨6, 1, .rw, 0, 0, 1, false⟩,
    ⟨5, 1, .rw, 1, 0, 1, false⟩,
    ⟨4, 1, .rw, 1, 0, 1, false⟩,
    ⟨3, 1, .rw, 1, 0, 1, false⟩,
    ⟨2, 1, .rw, 1, 0, 1, false⟩,
    ⟨0, 2, .rwc, 0, 0, 2, false⟩]⟩,
  -- LANE_STATE (R158)
  ⟨0x100008, 0x800, 128, 0x100000000, 1, 4, .lane, [
    ⟨24, 8, .ro, 0, 0, 255, false⟩,
    ⟨20, 1, .w1c, 0, 0, 1, true⟩,
    ⟨19, 1, .ro, 0, 0, 1, false⟩,
    ⟨18, 1, .w1c, 0, 0, 1, true⟩,
    ⟨16, 2, .ro, 0, 0, 3, false⟩,
    ⟨12, 4, .ro, 0, 0, 15, false⟩,
    ⟨10, 2, .ro, 0, 0, 3, false⟩,
    ⟨8, 2, .ro, 0, 0, 3, false⟩,
    ⟨4, 4, .ro, 0, 0, 15, false⟩,
    ⟨0, 4, .ro, 0, 0, 15, false⟩]⟩,
  -- LANE_ECNT (R160)
  ⟨0x10000c, 0x800, 128, 0x100000000, 1, 4, .lane, [
    ⟨16, 8, .ro, 0, 0, 255, false⟩,
    ⟨0, 9, .ro, 0, 0, 511, false⟩]⟩,
  -- LANE_NBT (R75)
  ⟨0x100010, 0x800, 128, 0x100000000, 1, 4, .lane, [
    ⟨24, 8, .rwc, 7, 0, 255, false⟩,
    ⟨16, 8, .rwc, 62, 1, 255, false⟩,
    ⟨8, 7, .rwc, 15, 0, 127, false⟩,
    ⟨0, 7, .rwc, 15, 0, 127, false⟩]⟩,
  -- LANE_DBT (R76)
  ⟨0x100018, 0x800, 128, 0x100000000, 1, 8, .lane, [
    ⟨24, 5, .rwc, 1, 0, 31, false⟩,
    ⟨16, 6, .rwc, 58, 0, 63, false⟩,
    ⟨8, 5, .rwc, 19, 0, 31, false⟩,
    ⟨0, 5, .rwc, 19, 0, 31, false⟩,
    ⟨56, 5, .rwc, 0, 0, 31, false⟩,
    ⟨48, 6, .rwc, 22, 0, 63, false⟩,
    ⟨40, 5, .rwc, 7, 0, 31, false⟩,
    ⟨32, 5, .rwc, 7, 0, 31, false⟩]⟩,
  -- LANE_TDC (R77)
  ⟨0x100020, 0x800, 128, 0x100000000, 1, 4, .lane, [
    ⟨31, 1, .w1c, 0, 0, 1, true⟩,
    ⟨30, 1, .w1c, 0, 0, 1, true⟩,
    ⟨21, 9, .ro, 0, 0, 511, false⟩,
    ⟨12, 9, .rwc, 160, 16, 511, false⟩,
    ⟨10, 1, .rw, 1, 0, 1, false⟩,
    ⟨9, 1, .rw, 1, 0, 1, false⟩,
    ⟨0, 9, .rwc, 0, 0, 511, false⟩]⟩,
  -- LANE_XLCFG (R78)
  ⟨0x100024, 0x800, 128, 0x100000000, 1, 4, .lane, [
    ⟨24, 6, .rwc, 0, 0, 63, false⟩,
    ⟨16, 6, .rwc, 22, 1, 63, false⟩,
    ⟨8, 6, .rwc, 10, 1, 63, false⟩,
    ⟨0, 1, .rwc, 0, 0, 1, false⟩]⟩,
  -- LANE_RATE (R94)
  ⟨0x100028, 0x800, 128, 0x100000000, 1, 8, .lane, [
    ⟨48, 16, .ro, 0, 0, 65535, false⟩,
    ⟨46, 2, .ro, 0, 0, 3, false⟩,
    ⟨40, 4, .ro, 0, 0, 15, false⟩,
    ⟨39, 1, .w1c, 0, 0, 1, true⟩,
    ⟨38, 1, .ro, 0, 0, 1, false⟩,
    ⟨37, 1, .ro, 0, 0, 1, false⟩,
    ⟨36, 1, .ro, 0, 0, 1, false⟩,
    ⟨32, 4, .ro, 0, 0, 15, false⟩,
    ⟨16, 16, .rwc, 2000, 10, 65535, false⟩,
    ⟨8, 8, .rwc, 20, 1, 255, false⟩,
    ⟨7, 1, .rw, 0, 0, 1, false⟩,
    ⟨6, 1, .rw, 1, 0, 1, false⟩,
    ⟨5, 1, .rw, 1, 0, 1, false⟩,
    ⟨4, 1, .rw, 0, 0, 1, false⟩,
    ⟨0, 4, .rw, 0, 0, 15, false⟩]⟩,
  -- LANE_HOLD (R211)
  ⟨0x100030, 0x800, 128, 0x100000000, 1, 4, .lane, [
    ⟨31, 1, .ro, 0, 0, 1, false⟩,
    ⟨30, 1, .w1c, 0, 0, 1, true⟩,
    ⟨16, 7, .rwc, 32, 4, 64, false⟩,
    ⟨0, 16, .rwc, 200, 0, 65535, true⟩]⟩,
  -- LANE_TS_ADJ (R506)
  ⟨0x100034, 0x800, 128, 0x100000000, 1, 4, .lane, [
    ⟨16, 16, .rw, 0, 0, 65535, true⟩,
    ⟨0, 16, .rw, 0, 0, 65535, true⟩]⟩,
  -- LANE_TS_MODE (R507)
  ⟨0x100038, 0x800, 128, 0x100000000, 1, 4, .lane, [
    ⟨31, 1, .w1c, 0, 0, 1, true⟩,
    ⟨4, 3, .ro, 0, 0, 7, false⟩,
    ⟨0, 1, .rw, 0, 0, 1, true⟩]⟩]

/-- Registers of the lane region, part 2. -/
def regsLane1 : List RegRow := [
  -- LANE_VLOG (R161)
  ⟨0x100040, 0x800, 128, 0x100000000, 1, 8, .lane, [
    ⟨48, 16, .rc, 0, 0, 65535, true⟩,
    ⟨16, 16, .rw, 8190, 0, 65535, true⟩,
    ⟨15, 1, .rw, 0, 0, 1, true⟩,
    ⟨14, 1, .wo, 0, 0, 1, true⟩,
    ⟨13, 1, .ro, 0, 0, 1, true⟩,
    ⟨6, 7, .ro, 0, 0, 127, true⟩,
    ⟨0, 6, .ro, 0, 0, 63, true⟩]⟩,
  -- LANE_ETALLY (R162)
  ⟨0x100048, 0x800, 128, 0x100000000, 1, 8, .lane, [
    ⟨48, 16, .rc, 0, 0, 65535, true⟩,
    ⟨32, 16, .rc, 0, 0, 65535, true⟩,
    ⟨16, 16, .rc, 0, 0, 65535, true⟩,
    ⟨0, 16, .rc, 0, 0, 65535, true⟩]⟩,
  -- LANE_TXO (R212)
  ⟨0x100058, 0x800, 128, 0x100000000, 1, 8, .lane, [
    ⟨48, 16, .rc, 0, 0, 65535, true⟩,
    ⟨32, 16, .rc, 0, 0, 65535, true⟩,
    ⟨16, 16, .rc, 0, 0, 65535, true⟩,
    ⟨0, 16, .ro, 0, 0, 65535, false⟩]⟩,
  -- LANE_FLTCFG (R244)
  ⟨0x100060, 0x800, 128, 0x100000000, 1, 8, .lane, [
    ⟨48, 16, .ro, 0, 0, 65535, false⟩,
    ⟨44, 1, .ro, 0, 0, 1, false⟩,
    ⟨40, 4, .ro, 3, 0, 15, false⟩,
    ⟨24, 15, .ro, 0, 0, 32767, false⟩,
    ⟨22, 1, .ro, 0, 0, 1, false⟩,
    ⟨21, 1, .ro, 0, 0, 1, false⟩,
    ⟨20, 1, .ro, 0, 0, 1, false⟩,
    ⟨12, 8, .rwc, 7, 0, 255, false⟩,
    ⟨0, 11, .rwc, 0, 0, 2046, false⟩]⟩,
  -- LANE_FLTCNT (R245)
  ⟨0x100068, 0x800, 128, 0x100000000, 1, 8, .lane, [
    ⟨48, 16, .rc, 0, 0, 65535, true⟩,
    ⟨32, 16, .rc, 0, 0, 65535, true⟩,
    ⟨16, 16, .rc, 0, 0, 65535, true⟩,
    ⟨0, 16, .rc, 0, 0, 65535, true⟩]⟩,
  -- LANE_PAIRCFG (R274)
  ⟨0x100070, 0x800, 128, 0x100000000, 1, 4, .lane, [
    ⟨30, 2, .ro, 3, 0, 3, false⟩,
    ⟨29, 1, .w1c, 0, 0, 1, true⟩,
    ⟨16, 12, .rwc, 1000, 1, 4095, false⟩,
    ⟨0, 14, .rwc, 200, 10, 10000, false⟩]⟩,
  -- LANE_PAIRRX (R275)
  ⟨0x100078, 0x800, 128, 0x100000000, 1, 8, .lane, [
    ⟨48, 16, .rc, 0, 0, 65535, true⟩,
    ⟨32, 16, .rc, 0, 0, 65535, true⟩,
    ⟨16, 16, .rc, 0, 0, 65535, true⟩,
    ⟨0, 16, .rc, 0, 0, 65535, true⟩]⟩,
  -- LANE_PAIRTX (R276)
  ⟨0x100080, 0x800, 128, 0x100000000, 1, 8, .lane, [
    ⟨48, 16, .rc, 0, 0, 65535, true⟩,
    ⟨32, 16, .rc, 0, 0, 65535, true⟩,
    ⟨16, 16, .rc, 0, 0, 65535, true⟩,
    ⟨0, 16, .rc, 0, 0, 65535, true⟩]⟩,
  -- LANE_PECTRL (R660)
  ⟨0x100280, 0x800, 128, 0x100000000, 1, 4, .lane, [
    ⟨31, 1, .rw, 0, 0, 1, false⟩,
    ⟨30, 1, .w1c, 0, 0, 1, true⟩,
    ⟨24, 5, .rw, 31, 0, 31, false⟩,
    ⟨22, 2, .rwc, 0, 0, 2, false⟩,
    ⟨17, 5, .rw, 31, 0, 31, false⟩,
    ⟨15, 2, .rwc, 0, 0, 2, false⟩]⟩,
  -- LANE_PEBANK (R661)
  ⟨0x100284, 0x800, 128, 0x100000000, 1, 4, .lane, [
    ⟨31, 1, .w1c, 0, 0, 1, true⟩,
    ⟨30, 1, .ro, 0, 0, 1, false⟩,
    ⟨29, 1, .ro, 0, 0, 1, false⟩,
    ⟨24, 2, .wo, 0, 0, 3, false⟩,
    ⟨16, 1, .rw, 0, 0, 1, false⟩]⟩,
  -- LANE_PELOOP (R662)
  ⟨0x100288, 0x800, 128, 0x100000000, 1, 4, .lane, [
    ⟨24, 5, .rw, 31, 0, 31, false⟩,
    ⟨16, 5, .rw, 0, 0, 31, false⟩,
    ⟨8, 5, .rw, 31, 0, 31, false⟩,
    ⟨0, 5, .rw, 0, 0, 31, false⟩]⟩,
  -- LANE_PESTAT (R663)
  ⟨0x100290, 0x800, 128, 0x100000000, 1, 8, .lane, [
    ⟨63, 1, .w1c, 0, 0, 1, true⟩,
    ⟨62, 1, .w1c, 0, 0, 1, true⟩,
    ⟨61, 1, .w1c, 0, 0, 1, true⟩,
    ⟨60, 1, .w1c, 0, 0, 1, true⟩,
    ⟨59, 1, .ro, 0, 0, 1, false⟩,
    ⟨58, 1, .ro, 0, 0, 1, false⟩,
    ⟨52, 4, .ro, 0, 0, 15, false⟩,
    ⟨48, 4, .ro, 0, 0, 15, false⟩,
    ⟨40, 6, .ro, 0, 0, 63, false⟩,
    ⟨32, 6, .ro, 0, 0, 63, false⟩,
    ⟨24, 8, .ro, 0, 0, 255, false⟩,
    ⟨16, 5, .ro, 0, 0, 31, false⟩,
    ⟨8, 8, .rc, 0, 0, 255, true⟩,
    ⟨0, 8, .rc, 0, 0, 255, true⟩]⟩]

/-- Registers of the lane region, part 3. -/
def regsLane2 : List RegRow := [
  -- LANE_PESHIFT (R664)
  ⟨0x100298, 0x800, 128, 0x100000000, 1, 8, .lane, [
    ⟨32, 32, .ro, 0, 0, 4294967295, false⟩,
    ⟨0, 32, .ro, 0, 0, 4294967295, false⟩]⟩,
  -- LANE_PETAP (R665)
  ⟨0x1002a0, 0x800, 128, 0x100000000, 1, 8, .lane, [
    ⟨32, 32, .ro, 0, 0, 4294967295, false⟩,
    ⟨0, 32, .ro, 0, 0, 4294967295, false⟩]⟩,
  -- LANE_RCAND (R95)
  ⟨0x100100, 0x800, 128, 0x10, 16, 16, .lane, [
    ⟨64, 32, .rwc, 1443591, 0, 4294967295, false⟩,
    ⟨32, 32, .rwc, 20583187, 0, 4294967295, false⟩,
    ⟨0, 32, .rwc, 121507599, 0, 4294967295, false⟩]⟩,
  -- LANE_RGUARD (R163)
  ⟨0x100200, 0x800, 128, 0x8, 16, 8, .lane, [
    ⟨61, 1, .w1c, 0, 0, 1, true⟩,
    ⟨60, 1, .w1c, 0, 0, 1, true⟩,
    ⟨48, 12, .rwc, 1000, 1, 4095, false⟩,
    ⟨32, 16, .rwc, 100, 1, 65535, false⟩,
    ⟨31, 1, .rw, 0, 0, 1, false⟩,
    ⟨29, 2, .rwc, 0, 0, 2, false⟩,
    ⟨0, 29, .rw, 0, 0, 536870911, false⟩]⟩,
  -- LANE_PEPROG (R666)
  ⟨0x100300, 0x800, 128, 0x4, 32, 4, .lane, [
    ⟨16, 16, .rw, 61440, 0, 65535, false⟩,
    ⟨0, 16, .rw, 61440, 0, 65535, false⟩]⟩,
  -- LANE_VLENT (R164)
  ⟨0x100400, 0x800, 128, 0x10, 64, 16, .lane, [
    ⟨0, 32, .ro, 0, 0, 4294967295, false⟩,
    ⟨32, 32, .ro, 0, 0, 4294967295, false⟩,
    ⟨64, 29, .ro, 0, 0, 536870911, false⟩,
    ⟨93, 3, .ro, 0, 0, 7, false⟩,
    ⟨96, 7, .ro, 0, 0, 127, false⟩,
    ⟨103, 1, .ro, 0, 0, 1, false⟩,
    ⟨104, 14, .ro, 0, 0, 16383, false⟩,
    ⟨118, 5, .ro, 0, 0, 31, false⟩,
    ⟨123, 5, .ro, 0, 0, 31, false⟩]⟩]

/-- Registers of the lane region. -/
def regsLane : List RegRow := regsLane0 ++ regsLane1 ++ regsLane2

/-- Registers of the quad region. -/
def regsQuad : List RegRow := [
  -- QUAD_CTRL (R711)
  ⟨0x180000, 0x1000, 32, 0x100000000, 1, 4, .quad, [
    ⟨31, 1, .ro, 0, 0, 1, false⟩,
    ⟨2, 1, .rw, 0, 0, 1, false⟩,
    ⟨0, 2, .rwc, 0, 0, 2, false⟩]⟩,
  -- QUAD_OBJCFG (R208)
  ⟨0x180010, 0x1000, 32, 0x100000000, 1, 4, .quad, [
    ⟨0, 14, .rwc, 100, 10, 10000, false⟩]⟩,
  -- QUAD_OBJCNT (R209)
  ⟨0x180018, 0x1000, 32, 0x100000000, 1, 8, .quad, [
    ⟨27, 9, .ro, 0, 0, 511, false⟩,
    ⟨18, 9, .ro, 0, 0, 511, false⟩,
    ⟨9, 9, .ro, 0, 0, 511, false⟩,
    ⟨0, 9, .ro, 0, 0, 511, false⟩]⟩,
  -- QUAD_WALK (R246)
  ⟨0x180020, 0x1000, 32, 0x100000000, 1, 8, .quad, [
    ⟨48, 16, .rc, 0, 0, 65535, true⟩,
    ⟨32, 16, .rc, 0, 0, 65535, true⟩,
    ⟨0, 4, .w1c, 0, 0, 15, true⟩]⟩,
  -- QUAD_OBJEVT (R210)
  ⟨0x180100, 0x1000, 32, 0x4, 32, 4, .quad, [
    ⟨0, 32, .w1c, 0, 0, 4294967295, true⟩]⟩]

/-- Registers of the col region. -/
def regsCol : List RegRow := [
  -- COL_CTRL (R319)
  ⟨0x50000, 0x100000000, 1, 0x100000000, 1, 4, .fabric, [
    ⟨16, 16, .rwc, 10, 1, 65535, false⟩,
    ⟨4, 12, .rwc, 256, 64, 2048, false⟩,
    ⟨0, 2, .rw, 2, 0, 3, false⟩]⟩,
  -- COL_CTSTAT (R320)
  ⟨0x50010, 0x100000000, 1, 0x100000000, 1, 8, .always, [
    ⟨48, 16, .rc, 0, 0, 65535, true⟩,
    ⟨32, 16, .rc, 0, 0, 65535, true⟩,
    ⟨16, 16, .rc, 0, 0, 65535, true⟩,
    ⟨0, 16, .rc, 0, 0, 65535, true⟩]⟩,
  -- COL_PORTSTAT (R321)
  ⟨0x50100, 0x10, 40, 0x100000000, 1, 16, .always, [
    ⟨112, 16, .rc, 0, 0, 65535, true⟩,
    ⟨96, 16, .rc, 0, 0, 65535, true⟩,
    ⟨80, 16, .rc, 0, 0, 65535, true⟩,
    ⟨64, 16, .rc, 0, 0, 65535, true⟩,
    ⟨32, 32, .rc, 0, 0, 4294967295, true⟩,
    ⟨0, 32, .rc, 0, 0, 4294967295, true⟩]⟩,
  -- COL_GROUP (R322)
  ⟨0x58000, 0x4, 4096, 0x100000000, 1, 4, .always, [
    ⟨31, 1, .ro, 0, 0, 1, true⟩,
    ⟨16, 6, .ro, 0, 0, 63, true⟩,
    ⟨0, 16, .ro, 0, 0, 65535, true⟩]⟩]

/-- Registers of the firn region, part 1. -/
def regsFirn0 : List RegRow := [
  -- FIRN_CTRL (R356)
  ⟨0x60000, 0x100000000, 1, 0x100000000, 1, 4, .always, [
    ⟨31, 1, .rw, 1, 0, 1, true⟩,
    ⟨30, 1, .rw, 1, 0, 1, true⟩,
    ⟨16, 14, .rwc, 1024, 0, 14335, true⟩,
    ⟨0, 16, .rwc, 2000, 100, 60000, true⟩]⟩,
  -- FIRN_STAT (R357)
  ⟨0x60008, 0x100000000, 1, 0x100000000, 1, 8, .always, [
    ⟨63, 1, .w1c, 0, 0, 1, true⟩,
    ⟨32, 19, .ro, 227328, 0, 524287, true⟩,
    ⟨0, 19, .ro, 262144, 0, 524287, true⟩]⟩,
  -- FIRN_SWEEP (R359)
  ⟨0x60010, 0x100000000, 1, 0x100000000, 1, 8, .always, [
    ⟨42, 22, .ro, 0, 0, 4194303, true⟩,
    ⟨32, 4, .ro, 0, 0, 15, true⟩,
    ⟨16, 16, .rc, 0, 0, 65535, true⟩,
    ⟨0, 16, .rc, 0, 0, 65535, true⟩]⟩,
  -- FIRN_DROPSTAT (R358)
  ⟨0x60018, 0x100000000, 1, 0x100000000, 1, 4, .always, [
    ⟨16, 16, .rc, 0, 0, 65535, true⟩,
    ⟨0, 16, .rc, 0, 0, 65535, true⟩]⟩,
  -- FIRN_PORTRES (R360)
  ⟨0x60100, 0x8, 40, 0x100000000, 1, 8, .fabric, [
    ⟨32, 15, .rwc, 512, 33, 8192, false⟩,
    ⟨0, 19, .ro, 0, 0, 524287, false⟩]⟩,
  -- FIRN_WBIND (R361)
  ⟨0x60300, 0x4, 40, 0x100000000, 1, 4, .fabric, [
    ⟨24, 5, .rw, 0, 0, 31, false⟩,
    ⟨16, 5, .rw, 0, 0, 31, false⟩,
    ⟨8, 5, .rw, 0, 0, 31, false⟩,
    ⟨0, 5, .rw, 0, 0, 31, false⟩]⟩,
  -- FIRN_RQUOTA (R362)
  ⟨0x60400, 0x8, 128, 0x100000000, 1, 8, .fabric, [
    ⟨48, 16, .rc, 0, 0, 65535, true⟩,
    ⟨32, 16, .rwc, 4096, 33, 65535, false⟩,
    ⟨0, 19, .ro, 0, 0, 524287, false⟩]⟩,
  -- FIRN_IPOL (R363)
  ⟨0x60800, 0x4, 132, 0x100000000, 1, 4, .fabric, [
    ⟨31, 1, .rw, 0, 0, 1, false⟩,
    ⟨0, 12, .rw, 0, 0, 4095, false⟩]⟩,
  -- FIRN_PHOLD (R364)
  ⟨0x60a80, 0x8, 4, 0x100000000, 1, 8, .always, [
    ⟨48, 16, .rc, 0, 0, 65535, true⟩,
    ⟨32, 16, .rc, 0, 0, 65535, true⟩,
    ⟨31, 1, .ro, 0, 0, 1, true⟩,
    ⟨30, 1, .w1c, 0, 0, 1, true⟩,
    ⟨0, 16, .rwc, 200, 0, 65535, true⟩]⟩,
  -- FIRN_WPROF (R365)
  ⟨0x61000, 0x10, 32, 0x100000000, 1, 16, .fabric, [
    ⟨120, 4, .rwc, 4, 1, 12, false⟩,
    ⟨112, 8, .rwc, 255, 0, 255, false⟩,
    ⟨104, 8, .rwc, 32, 0, 255, false⟩,
    ⟨96, 8, .rwc, 64, 0, 255, false⟩,
    ⟨80, 16, .rwc, 2048, 9, 65535, false⟩,
    ⟨64, 16, .rwc, 2048, 0, 65535, false⟩,
    ⟨48, 16, .rwc, 1024, 0, 65535, false⟩,
    ⟨32, 16, .rwc, 512, 0, 65535, false⟩,
    ⟨16, 16, .rwc, 512, 0, 65535, false⟩,
    ⟨0, 16, .rwc, 256, 0, 65535, false⟩]⟩,
  -- FIRN_DROP (R366)
  ⟨0x62000, 0x4, 480, 0x100000000, 1, 4, .always, [
    ⟨0, 32, .rc, 0, 0, 4294967295, true⟩]⟩,
  -- FIRN_LEAKLOG (R367)
  ⟨0x63000, 0x8, 16, 0x100000000, 1, 8, .always, [
    ⟨42, 22, .ro, 0, 0, 4194303, true⟩,
    ⟨41, 1, .ro, 0, 0, 1, true⟩,
    ⟨38, 3, .ro, 0, 0, 7, true⟩,
    ⟨32, 6, .ro, 0, 0, 63, true⟩,
    ⟨26, 6, .ro, 0, 0, 63, true⟩,
    ⟨24, 2, .ro, 0, 0, 3, true⟩,
    ⟨18, 6, .ro, 0, 0, 63, true⟩,
    ⟨0, 18, .ro, 0, 0, 262143, true⟩]⟩]

/-- Registers of the firn region, part 2. -/
def regsFirn1 : List RegRow := [
  -- FIRN_POL (R368)
  ⟨0x68000, 0x8, 4096, 0x100000000, 1, 8, .always, [
    ⟨63, 1, .ro, 0, 0, 1, true⟩,
    ⟨62, 1, .ro, 0, 0, 1, true⟩,
    ⟨42, 20, .ro, 0, 0, 1048575, true⟩,
    ⟨22, 20, .ro, 0, 0, 1048575, true⟩,
    ⟨11, 11, .ro, 0, 0, 2047, true⟩,
    ⟨0, 11, .ro, 0, 0, 2047, true⟩]⟩]

/-- Registers of the firn region. -/
def regsFirn : List RegRow := regsFirn0 ++ regsFirn1

/-- Registers of the host region. -/
def regsHost : List RegRow := [
  -- HOST_CTRL (R408)
  ⟨0x90000, 0x10000, 2, 0x100000000, 1, 4, .host, [
    ⟨31, 1, .ro, 0, 0, 1, false⟩,
    ⟨30, 1, .ro, 0, 0, 1, false⟩,
    ⟨0, 1, .rw, 0, 0, 1, false⟩]⟩,
  -- HOST_ASQ (R409)
  ⟨0x90008, 0x10000, 2, 0x100000000, 1, 8, .host, [
    ⟨12, 52, .rw, 0, 0, 4503599627370495, false⟩,
    ⟨0, 5, .rwc, 4, 4, 12, false⟩]⟩,
  -- HOST_ACQ (R409)
  ⟨0x90010, 0x10000, 2, 0x100000000, 1, 8, .host, [
    ⟨12, 52, .rw, 0, 0, 4503599627370495, false⟩,
    ⟨0, 5, .rwc, 4, 4, 12, false⟩]⟩,
  -- HOST_CLAMP (R410)
  ⟨0x90018, 0x10000, 2, 0x100000000, 1, 4, .host, [
    ⟨0, 32, .rc, 0, 0, 4294967295, true⟩]⟩,
  -- HOST_FUNCCNT (R411)
  ⟨0x90020, 0x10000, 2, 0x100000000, 1, 8, .host, [
    ⟨48, 16, .ro, 0, 0, 65535, false⟩,
    ⟨16, 16, .rc, 0, 0, 65535, true⟩,
    ⟨0, 16, .rc, 0, 0, 65535, true⟩]⟩,
  -- HOST_SQOWN (R412)
  ⟨0x90040, 0x10000, 2, 0x4, 4, 4, .host, [
    ⟨0, 32, .ro, 0, 0, 4294967295, false⟩]⟩,
  -- HOST_CQOWN (R412)
  ⟨0x90050, 0x10000, 2, 0x4, 4, 4, .host, [
    ⟨0, 32, .ro, 0, 0, 4294967295, false⟩]⟩,
  -- HOST_CQORPH (R412)
  ⟨0x90060, 0x10000, 2, 0x4, 4, 4, .host, [
    ⟨0, 32, .ro, 0, 0, 4294967295, false⟩]⟩,
  -- HOST_SQSTAT (R413)
  ⟨0x91000, 0x10000, 2, 0x10, 128, 16, .host, [
    ⟨76, 52, .ro, 0, 0, 4503599627370495, false⟩,
    ⟨48, 16, .ro, 0, 0, 65535, false⟩,
    ⟨32, 16, .ro, 0, 0, 65535, false⟩,
    ⟨31, 1, .ro, 0, 0, 1, false⟩,
    ⟨23, 5, .ro, 0, 0, 31, false⟩,
    ⟨16, 7, .ro, 0, 0, 127, false⟩,
    ⟨0, 16, .ro, 0, 0, 65535, false⟩]⟩,
  -- HOST_CQSTAT (R414)
  ⟨0x92000, 0x10000, 2, 0x10, 128, 16, .host, [
    ⟨76, 52, .ro, 0, 0, 4503599627370495, false⟩,
    ⟨64, 12, .ro, 0, 0, 4095, false⟩,
    ⟨48, 16, .ro, 0, 0, 65535, false⟩,
    ⟨32, 16, .ro, 0, 0, 65535, false⟩,
    ⟨31, 1, .ro, 0, 0, 1, false⟩,
    ⟨30, 1, .ro, 0, 0, 1, false⟩,
    ⟨23, 5, .ro, 0, 0, 31, false⟩,
    ⟨20, 3, .ro, 0, 0, 7, false⟩,
    ⟨0, 16, .ro, 0, 0, 65535, false⟩]⟩,
  -- MSIX (R370)
  ⟨0x98000, 0x10000, 2, 0x10, 16, 16, .always, [
    ⟨2, 62, .rw, 0, 0, 4611686018427387903, true⟩,
    ⟨64, 32, .rw, 0, 0, 4294967295, true⟩,
    ⟨96, 1, .rw, 1, 0, 1, true⟩]⟩]

/-- Registers of the cirque region. -/
def regsCirque : List RegRow := [
  -- CIRQUE_DOORBELL (R433)
  ⟨0x20000, 0x100000000, 1, 0x100000000, 1, 4, .always, [
    ⟨0, 11, .wo, 0, 0, 2047, true⟩]⟩,
  -- CIRQUE_SRC (R434)
  ⟨0x22000, 0x4, 2048, 0x100000000, 1, 4, .always, [
    ⟨31, 1, .rw, 0, 0, 1, true⟩,
    ⟨30, 1, .ro, 0, 0, 1, true⟩,
    ⟨29, 1, .ro, 0, 0, 1, true⟩,
    ⟨28, 1, .w1c, 0, 0, 1, true⟩,
    ⟨27, 1, .wo, 0, 0, 1, true⟩,
    ⟨16, 8, .ro, 0, 0, 255, true⟩,
    ⟨12, 4, .rw, 0, 0, 15, true⟩,
    ⟨0, 7, .rwc, 0, 0, 127, true⟩]⟩,
  -- CIRQUE_CLAIM (R435)
  ⟨0x20400, 0x20, 96, 0x100000000, 1, 4, .always, [
    ⟨31, 1, .ro, 0, 0, 1, true⟩,
    ⟨16, 8, .ro, 0, 0, 255, true⟩,
    ⟨0, 11, .ro, 0, 0, 2047, true⟩]⟩,
  -- CIRQUE_COMPLETE (R436)
  ⟨0x20404, 0x20, 96, 0x100000000, 1, 4, .always, [
    ⟨0, 11, .wo, 0, 0, 2047, true⟩]⟩,
  -- CIRQUE_MOD (R437)
  ⟨0x20408, 0x20, 96, 0x100000000, 1, 4, .always, [
    ⟨16, 16, .rw, 0, 0, 65535, true⟩,
    ⟨12, 4, .rw, 15, 0, 15, true⟩,
    ⟨0, 8, .rw, 0, 0, 255, true⟩]⟩,
  -- CIRQUE_TSTAT (R438)
  ⟨0x2040c, 0x20, 96, 0x100000000, 1, 4, .always, [
    ⟨31, 1, .rw, 0, 0, 1, true⟩,
    ⟨30, 1, .ro, 0, 0, 1, true⟩,
    ⟨29, 1, .ro, 0, 0, 1, true⟩,
    ⟨28, 1, .ro, 0, 0, 1, true⟩,
    ⟨11, 9, .ro, 0, 0, 511, true⟩,
    ⟨0, 11, .ro, 0, 0, 2047, true⟩]⟩,
  -- CIRQUE_TCNT (R439)
  ⟨0x20410, 0x20, 96, 0x100000000, 1, 4, .always, [
    ⟨16, 16, .rc, 0, 0, 65535, true⟩,
    ⟨0, 16, .rc, 0, 0, 65535, true⟩]⟩]

/-- Registers of the snow region. -/
def regsSnow : List RegRow := [
  -- SNOW_CTRL (R453)
  ⟨0xc0000, 0x100000000, 1, 0x100000000, 1, 4, .always, [
    ⟨16, 16, .rw, 0, 0, 65535, true⟩,
    ⟨15, 1, .rw, 0, 0, 1, true⟩,
    ⟨14, 1, .rw, 0, 0, 1, true⟩,
    ⟨13, 1, .rw, 0, 0, 1, true⟩,
    ⟨12, 1, .rw, 0, 0, 1, true⟩,
    ⟨11, 1, .rw, 0, 0, 1, true⟩,
    ⟨7, 4, .rw, 0, 0, 15, true⟩,
    ⟨3, 4, .rw, 0, 0, 15, true⟩,
    ⟨2, 1, .rw, 0, 0, 1, true⟩,
    ⟨1, 1, .ro, 0, 0, 1, true⟩]⟩,
  -- SNOW_SEQ (R454)
  ⟨0xc0004, 0x100000000, 1, 0x100000000, 1, 4, .always, [
    ⟨8, 8, .rwc, 20, 1, 255, true⟩,
    ⟨0, 6, .rwc, 2, 1, 63, true⟩]⟩,
  -- SNOW_CAUSE (R455)
  ⟨0xc0008, 0x100000000, 1, 0x100000000, 1, 4, .always, [
    ⟨27, 5, .ro, 25, 0, 31, true⟩,
    ⟨26, 1, .w1c, 0, 0, 1, true⟩,
    ⟨25, 1, .w1c, 1, 0, 1, true⟩,
    ⟨21, 4, .w1c, 0, 0, 15, true⟩,
    ⟨20, 1, .w1c, 0, 0, 1, true⟩,
    ⟨19, 1, .w1c, 0, 0, 1, true⟩,
    ⟨18, 1, .w1c, 0, 0, 1, true⟩,
    ⟨17, 1, .w1c, 0, 0, 1, true⟩,
    ⟨16, 1, .w1c, 0, 0, 1, true⟩,
    ⟨0, 16, .w1c, 0, 0, 65535, true⟩]⟩,
  -- SNOW_LCAUSE (R456)
  ⟨0xc0010, 0x100000000, 1, 0x100000000, 1, 8, .always, [
    ⟨0, 4, .ro, 0, 0, 15, true⟩,
    ⟨4, 4, .ro, 0, 0, 15, true⟩,
    ⟨8, 4, .ro, 0, 0, 15, true⟩,
    ⟨12, 4, .ro, 0, 0, 15, true⟩,
    ⟨16, 4, .ro, 0, 0, 15, true⟩,
    ⟨20, 4, .ro, 0, 0, 15, true⟩,
    ⟨24, 4, .ro, 0, 0, 15, true⟩,
    ⟨28, 4, .ro, 0, 0, 15, true⟩,
    ⟨32, 4, .ro, 0, 0, 15, true⟩,
    ⟨36, 4, .ro, 0, 0, 15, true⟩,
    ⟨40, 4, .ro, 0, 0, 15, true⟩,
    ⟨44, 4, .ro, 0, 0, 15, true⟩,
    ⟨48, 4, .ro, 0, 0, 15, true⟩,
    ⟨52, 4, .ro, 0, 0, 15, true⟩,
    ⟨56, 4, .ro, 0, 0, 15, true⟩,
    ⟨60, 4, .ro, 0, 0, 15, true⟩]⟩,
  -- SNOW_STAT (R457)
  ⟨0xc0018, 0x100000000, 1, 0x100000000, 1, 4, .always, [
    ⟨28, 4, .ro, 0, 0, 15, true⟩,
    ⟨27, 1, .ro, 0, 0, 1, true⟩,
    ⟨26, 1, .ro, 0, 0, 1, true⟩,
    ⟨25, 1, .ro, 0, 0, 1, true⟩,
    ⟨0, 8, .ro, 0, 0, 255, true⟩]⟩,
  -- SNOW_RTC (R458)
  ⟨0xc0020, 0x100000000, 1, 0x100000000, 1, 8, .always, [
    ⟨0, 48, .ro, 0, 0, 281474976710655, true⟩]⟩,
  -- SNOW_ALARM (R458)
  ⟨0xc0028, 0x100000000, 1, 0x100000000, 1, 8, .always, [
    ⟨0, 48, .rw, 0, 0, 281474976710655, true⟩]⟩,
  -- SNOW_LANE (R459)
  ⟨0xc0100, 0x4, 16, 0x100000000, 1, 4, .always, [
    ⟨31, 1, .rw, 0, 0, 1, true⟩,
    ⟨30, 1, .rw, 0, 0, 1, true⟩,
    ⟨28, 2, .rwc, 2, 0, 2, true⟩,
    ⟨27, 1, .rw, 1, 0, 1, true⟩,
    ⟨22, 5, .rw, 31, 0, 31, true⟩,
    ⟨16, 6, .rwc, 10, 5, 50, true⟩,
    ⟨8, 7, .rwc, 10, 8, 100, true⟩,
    ⟨0, 8, .rw, 0, 0, 255, true⟩]⟩,
  -- SNOW_SWPAT (R460)
  ⟨0xc1000, 0x100, 16, 0x20, 8, 32, .always, [
    ⟨128, 64, .rw, 0, 0, 18446744073709551615, true⟩,
    ⟨69, 1, .rw, 0, 0, 1, true⟩,
    ⟨68, 1, .rw, 0, 0, 1, true⟩,
    ⟨64, 4, .rw, 0, 0, 15, true⟩,
    ⟨32, 29, .rw, 0, 0, 536870911, true⟩,
    ⟨29, 1, .rw, 0, 0, 1, true⟩,
    ⟨0, 29, .rw, 0, 0, 536870911, true⟩]⟩]

/-- Registers of the tb region, part 1. -/
def regsTb0 : List RegRow := [
  -- TB_CTRL (R492)
  ⟨0x40000, 0x100, 8, 0x100000000, 1, 4, .tb, [
    ⟨8, 1, .rw, 0, 0, 1, false⟩,
    ⟨0, 8, .rw, 0, 0, 255, false⟩]⟩,
  -- TB_INCR (R493)
  ⟨0x40004, 0x100, 8, 0x100000000, 1, 4, .tb, [
    ⟨0, 32, .rwc, 52428800, 52323943, 52533657, true⟩]⟩,
  -- TB_SLEW (R494)
  ⟨0x40008, 0x100, 8, 0x100000000, 1, 8, .tb, [
    ⟨63, 1, .ro, 0, 0, 1, true⟩,
    ⟨32, 11, .rwc, 100, 1, 2000, true⟩,
    ⟨0, 32, .rw, 0, 0, 4294967295, true⟩]⟩,
  -- TB_STEPLIM (R495)
  ⟨0x40010, 0x100, 8, 0x100000000, 1, 4, .tb, [
    ⟨0, 32, .rw, 1000000, 0, 4294967295, false⟩]⟩,
  -- TB_STAT (R496)
  ⟨0x40014, 0x100, 8, 0x100000000, 1, 4, .tb, [
    ⟨31, 1, .w1c, 0, 0, 1, true⟩,
    ⟨30, 1, .w1c, 0, 0, 1, true⟩,
    ⟨29, 1, .w1c, 0, 0, 1, true⟩,
    ⟨0, 16, .ro, 0, 0, 65535, false⟩]⟩,
  -- TB_LASTSTEP (R497)
  ⟨0x40018, 0x100, 8, 0x100000000, 1, 8, .tb, [
    ⟨0, 64, .ro, 0, 0, 18446744073709551615, false⟩]⟩,
  -- TB_TIME (R498)
  ⟨0x40020, 0x100, 8, 0x100000000, 1, 16, .tb, [
    ⟨48, 48, .ro, 0, 0, 281474976710655, false⟩,
    ⟨16, 32, .ro, 0, 0, 4294967295, false⟩,
    ⟨0, 16, .ro, 0, 0, 65535, false⟩]⟩,
  -- TB_SET (R499)
  ⟨0x40030, 0x100, 8, 0x100000000, 1, 16, .tb, [
    ⟨48, 48, .rw, 0, 0, 281474976710655, false⟩,
    ⟨16, 32, .rwc, 0, 0, 4294967295, false⟩,
    ⟨0, 16, .rw, 0, 0, 65535, false⟩]⟩,
  -- TB_ETHBIND (R500)
  ⟨0x40800, 0x100000000, 1, 0x100000000, 1, 4, .tb, [
    ⟨0, 3, .rw, 0, 0, 7, false⟩,
    ⟨3, 3, .rw, 0, 0, 7, false⟩,
    ⟨6, 3, .rw, 0, 0, 7, false⟩,
    ⟨9, 3, .rw, 0, 0, 7, false⟩]⟩,
  -- TB_ETHADJ (R501)
  ⟨0x40810, 0x8, 4, 0x100000000, 1, 8, .tb, [
    ⟨16, 16, .rw, 0, 0, 65535, true⟩,
    ⟨0, 16, .rw, 0, 0, 65535, true⟩]⟩,
  -- TB_TCCFG (R502)
  ⟨0x40840, 0x4, 4, 0x100000000, 1, 4, .tb, [
    ⟨31, 1, .rw, 0, 0, 1, false⟩,
    ⟨8, 2, .rw, 3, 0, 3, false⟩,
    ⟨0, 4, .rw, 0, 0, 15, false⟩]⟩,
  -- TB_TCSTAT (R503)
  ⟨0x40860, 0x100000000, 1, 0x100000000, 1, 8, .tb, [
    ⟨32, 16, .rc, 0, 0, 65535, true⟩,
    ⟨16, 16, .rc, 0, 0, 65535, true⟩,
    ⟨0, 16, .rc, 0, 0, 65535, true⟩]⟩]

/-- Registers of the tb region, part 2. -/
def regsTb1 : List RegRow := [
  -- TB_BDIST (R504)
  ⟨0x40900, 0x20, 16, 0x100000000, 1, 16, .tb, [
    ⟨64, 29, .rw, 0, 0, 536870911, false⟩,
    ⟨61, 3, .rwc, 1, 0, 7, false⟩,
    ⟨32, 29, .rw, 0, 0, 536870911, false⟩,
    ⟨31, 1, .rw, 0, 0, 1, true⟩,
    ⟨30, 1, .rwc, 0, 0, 1, false⟩,
    ⟨24, 3, .rw, 0, 0, 7, false⟩,
    ⟨16, 7, .rw, 0, 0, 127, false⟩,
    ⟨0, 16, .rwc, 1000, 10, 10000, false⟩]⟩,
  -- TB_BDSTAT (R505)
  ⟨0x40910, 0x20, 16, 0x100000000, 1, 8, .tb, [
    ⟨48, 8, .ro, 0, 0, 255, false⟩,
    ⟨32, 16, .rc, 0, 0, 65535, true⟩,
    ⟨16, 16, .rc, 0, 0, 65535, true⟩,
    ⟨0, 16, .rc, 0, 0, 65535, true⟩]⟩]

/-- Registers of the tb region. -/
def regsTb : List RegRow := regsTb0 ++ regsTb1

/-- Registers of the mor region. -/
def regsMor : List RegRow := [
  -- MOR_CTRL (R528)
  ⟨0x70000, 0x100000000, 1, 0x100000000, 1, 4, .mor, [
    ⟨31, 1, .rw, 0, 0, 1, false⟩,
    ⟨30, 1, .rw, 0, 0, 1, false⟩,
    ⟨29, 1, .rw, 0, 0, 1, true⟩,
    ⟨26, 3, .rw, 0, 0, 7, false⟩,
    ⟨25, 1, .rw, 0, 0, 1, false⟩,
    ⟨0, 16, .rwc, 0, 0, 65535, true⟩]⟩,
  -- MOR_DRING (R529)
  ⟨0x70008, 0x100000000, 1, 0x100000000, 1, 8, .mor, [
    ⟨32, 15, .rwc, 16, 16, 16384, false⟩,
    ⟨0, 14, .rwc, 0, 0, 16368, false⟩]⟩,
  -- MOR_HRING (R530)
  ⟨0x70010, 0x100000000, 1, 0x100000000, 1, 8, .mor, [
    ⟨12, 52, .rw, 0, 0, 4503599627370495, false⟩,
    ⟨0, 5, .rwc, 16, 16, 30, false⟩]⟩,
  -- MOR_HTADDR (R530)
  ⟨0x70018, 0x100000000, 1, 0x100000000, 1, 8, .mor, [
    ⟨3, 61, .rw, 0, 0, 2305843009213693951, false⟩]⟩,
  -- MOR_HHEAD (R531)
  ⟨0x70020, 0x100000000, 1, 0x100000000, 1, 4, .mor, [
    ⟨0, 25, .rwc, 0, 0, 33554431, true⟩]⟩,
  -- MOR_WIN (R532)
  ⟨0x70028, 0x100000000, 1, 0x100000000, 1, 8, .mor, [
    ⟨32, 22, .rw, 10000, 0, 4194303, false⟩,
    ⟨0, 22, .rw, 10000, 0, 4194303, false⟩]⟩,
  -- MOR_STAT (R533)
  ⟨0x70030, 0x100000000, 1, 0x100000000, 1, 8, .mor, [
    ⟨63, 1, .ro, 0, 0, 1, false⟩,
    ⟨62, 1, .ro, 0, 0, 1, false⟩,
    ⟨61, 1, .ro, 0, 0, 1, false⟩,
    ⟨60, 1, .w1c, 0, 0, 1, true⟩,
    ⟨59, 1, .w1c, 0, 0, 1, true⟩,
    ⟨58, 1, .ro, 0, 0, 1, false⟩,
    ⟨57, 1, .ro, 0, 0, 1, false⟩,
    ⟨0, 32, .ro, 0, 0, 4294967295, false⟩]⟩,
  -- MOR_LOSS (R534)
  ⟨0x70040, 0x100000000, 1, 0x100000000, 1, 8, .mor, [
    ⟨48, 16, .rc, 0, 0, 65535, true⟩,
    ⟨32, 16, .rc, 0, 0, 65535, true⟩,
    ⟨0, 32, .rc, 0, 0, 4294967295, true⟩]⟩,
  -- MOR_LCAP (R535)
  ⟨0x70100, 0x4, 128, 0x100000000, 1, 4, .mor, [
    ⟨16, 16, .rwc, 0, 0, 65535, true⟩,
    ⟨4, 2, .rw, 0, 0, 3, true⟩,
    ⟨3, 1, .rw, 0, 0, 1, true⟩,
    ⟨2, 1, .rw, 0, 0, 1, true⟩,
    ⟨0, 2, .rwc, 0, 0, 2, true⟩]⟩,
  -- MOR_TRIG (R536)
  ⟨0x70400, 0x10, 4, 0x100000000, 1, 16, .mor, [
    ⟨84, 1, .rw, 0, 0, 1, true⟩,
    ⟨83, 1, .rw, 0, 0, 1, true⟩,
    ⟨82, 1, .rw, 0, 0, 1, true⟩,
    ⟨79, 3, .rw, 0, 0, 7, true⟩,
    ⟨72, 7, .rw, 0, 0, 127, true⟩,
    ⟨64, 8, .rw, 0, 0, 255, true⟩,
    ⟨32, 29, .rw, 0, 0, 536870911, true⟩,
    ⟨0, 29, .rw, 0, 0, 536870911, true⟩]⟩]

/-- Registers of the stack region. -/
def regsStack : List RegRow := [
  -- STACK_ID (R564)
  ⟨0x80000, 0x100000000, 1, 0x100000000, 1, 8, .stack, [
    ⟨62, 2, .ro, 0, 0, 3, false⟩,
    ⟨32, 14, .rw, 1, 0, 16383, false⟩,
    ⟨16, 14, .rw, 0, 0, 16383, false⟩,
    ⟨0, 14, .rw, 0, 0, 16383, false⟩]⟩,
  -- STACK_CFG (R565)
  ⟨0x80008, 0x100000000, 1, 0x100000000, 1, 4, .stack, [
    ⟨24, 8, .rwc, 16, 1, 255, false⟩,
    ⟨20, 4, .rwc, 3, 2, 15, false⟩,
    ⟨0, 16, .rwc, 1000, 100, 65535, false⟩]⟩,
  -- STACK_STATE (R566)
  ⟨0x80010, 0x100000000, 1, 0x100000000, 1, 8, .stack, [
    ⟨62, 2, .ro, 0, 0, 3, false⟩,
    ⟨61, 1, .ro, 0, 0, 1, false⟩,
    ⟨60, 1, .w1c, 0, 0, 1, true⟩,
    ⟨59, 1, .w1c, 0, 0, 1, true⟩,
    ⟨32, 14, .ro, 0, 0, 16383, false⟩,
    ⟨0, 32, .ro, 0, 0, 4294967295, false⟩]⟩,
  -- STACK_TIMECFG (R567)
  ⟨0x80018, 0x100000000, 1, 0x100000000, 1, 4, .stack, [
    ⟨31, 1, .rw, 0, 0, 1, false⟩,
    ⟨30, 1, .ro, 0, 0, 1, false⟩,
    ⟨8, 4, .rwc, 3, 0, 7, false⟩,
    ⟨0, 8, .rw, 0, 0, 255, false⟩]⟩,
  -- STACK_PORTCFG (R568)
  ⟨0x80040, 0x8, 4, 0x100000000, 1, 8, .port, [
    ⟨40, 12, .rwc, 1, 1, 4094, false⟩,
    ⟨39, 1, .rw, 0, 0, 1, false⟩,
    ⟨24, 12, .rw, 3344, 0, 4095, false⟩,
    ⟨1, 1, .rw, 1, 0, 1, false⟩,
    ⟨0, 1, .rw, 0, 0, 1, false⟩]⟩,
  -- STACK_MAC (R569)
  ⟨0x80060, 0x100000000, 1, 0x100000000, 1, 8, .stack, [
    ⟨16, 32, .rw, 33554432, 0, 4294967295, false⟩]⟩,
  -- STACK_BCMAC (R569)
  ⟨0x80068, 0x100000000, 1, 0x100000000, 1, 8, .stack, [
    ⟨0, 48, .rw, 281474976710655, 0, 281474976710655, false⟩]⟩,
  -- STACK_CNT (R570)
  ⟨0x80070, 0x100000000, 1, 0x100000000, 1, 16, .stack, [
    ⟨96, 32, .rc, 0, 0, 4294967295, true⟩,
    ⟨80, 16, .rc, 0, 0, 65535, true⟩,
    ⟨64, 16, .rc, 0, 0, 65535, true⟩,
    ⟨48, 16, .rc, 0, 0, 65535, true⟩,
    ⟨32, 16, .rc, 0, 0, 65535, true⟩,
    ⟨16, 16, .rc, 0, 0, 65535, true⟩,
    ⟨0, 16, .rc, 0, 0, 65535, true⟩]⟩,
  -- STACK_VLOGSTAT (R571)
  ⟨0x800f0, 0x100000000, 1, 0x100000000, 1, 4, .stack, [
    ⟨16, 16, .rc, 0, 0, 65535, true⟩,
    ⟨4, 5, .ro, 0, 0, 31, false⟩,
    ⟨0, 4, .ro, 0, 0, 15, false⟩]⟩,
  -- STACK_VLOG (R571)
  ⟨0x80100, 0x10, 16, 0x100000000, 1, 16, .stack, [
    ⟨96, 32, .ro, 0, 0, 4294967295, false⟩,
    ⟨84, 4, .ro, 0, 0, 15, false⟩,
    ⟨80, 4, .ro, 0, 0, 15, false⟩,
    ⟨78, 2, .ro, 0, 0, 3, false⟩,
    ⟨64, 14, .ro, 0, 0, 16383, false⟩,
    ⟨0, 64, .ro, 0, 0, 18446744073709551615, false⟩]⟩,
  -- STACK_PATH (R572)
  ⟨0x88000, 0x4, 8192, 0x100000000, 1, 4, .always, [
    ⟨15, 1, .rw, 0, 0, 1, true⟩,
    ⟨14, 1, .rw, 0, 0, 1, true⟩,
    ⟨10, 2, .rw, 0, 0, 3, true⟩,
    ⟨8, 2, .rw, 0, 0, 3, true⟩,
    ⟨1, 1, .ro, 0, 0, 1, true⟩,
    ⟨31, 1, .rw, 0, 0, 1, true⟩,
    ⟨30, 1, .rw, 0, 0, 1, true⟩,
    ⟨26, 2, .rw, 0, 0, 3, true⟩,
    ⟨24, 2, .rw, 0, 0, 3, true⟩,
    ⟨17, 1, .ro, 0, 0, 1, true⟩]⟩]

/-- Registers of the eth region. -/
def regsEth : List RegRow := [
  -- ETH_CFG (R573)
  ⟨0xb0000, 0x100, 4, 0x100000000, 1, 4, .port, [
    ⟨30, 2, .rwc, 0, 0, 2, false⟩,
    ⟨29, 1, .rw, 1, 0, 1, false⟩,
    ⟨16, 7, .rw, 0, 0, 127, false⟩,
    ⟨15, 1, .rw, 0, 0, 1, false⟩,
    ⟨14, 1, .rw, 0, 0, 1, false⟩,
    ⟨13, 1, .rw, 0, 0, 1, false⟩]⟩,
  -- ETH_STAT (R574)
  ⟨0xb0008, 0x100, 4, 0x100000000, 1, 8, .port, [
    ⟨63, 1, .ro, 0, 0, 1, false⟩,
    ⟨61, 2, .ro, 0, 0, 3, false⟩,
    ⟨60, 1, .ro, 0, 0, 1, false⟩,
    ⟨32, 16, .rc, 0, 0, 65535, true⟩,
    ⟨16, 16, .rc, 0, 0, 65535, true⟩,
    ⟨0, 16, .rc, 0, 0, 65535, true⟩]⟩]

/-- Registers of the eng region, part 1. -/
def regsEng0 : List RegRow := [
  -- ENG_CTRL (R627)
  ⟨0x20c000, 0x10000, 36, 0x100000000, 1, 4, .eng, [
    ⟨0, 2, .rwc, 0, 0, 3, false⟩]⟩,
  -- ENG_DRAM_WIN (R628)
  ⟨0x20c004, 0x10000, 36, 0x100000000, 1, 4, .eng, [
    ⟨0, 4, .rwc, 0, 0, 15, false⟩]⟩,
  -- ENG_MSP (R629)
  ⟨0x20c008, 0x10000, 36, 0x100000000, 1, 4, .eng, [
    ⟨2, 13, .rwc, 4096, 0, 4096, false⟩]⟩,
  -- ENG_MSLIM (R629)
  ⟨0x20c00c, 0x10000, 36, 0x100000000, 1, 4, .eng, [
    ⟨2, 13, .rwc, 8, 0, 4096, false⟩]⟩,
  -- ENG_STAT (R630)
  ⟨0x20c010, 0x10000, 36, 0x100000000, 1, 4, .eng, [
    ⟨31, 1, .ro, 0, 0, 1, false⟩,
    ⟨30, 1, .ro, 0, 0, 1, false⟩,
    ⟨29, 1, .ro, 1, 0, 1, false⟩,
    ⟨24, 5, .ro, 0, 0, 31, false⟩,
    ⟨16, 5, .ro, 0, 0, 31, false⟩,
    ⟨12, 4, .ro, 0, 0, 15, false⟩,
    ⟨0, 5, .ro, 0, 0, 31, false⟩]⟩,
  -- ENG_RSS (R631)
  ⟨0x20c014, 0x10000, 36, 0x100000000, 1, 4, .eng, [
    ⟨0, 16, .ro, 0, 0, 65535, false⟩]⟩,
  -- ENG_ST (R631)
  ⟨0x20c018, 0x10000, 36, 0x100000000, 1, 4, .eng, [
    ⟨0, 32, .ro, 0, 0, 4294967295, false⟩]⟩,
  -- ENG_PC (R631)
  ⟨0x20c01c, 0x10000, 36, 0x100000000, 1, 4, .eng, [
    ⟨0, 32, .ro, 0, 0, 4294967295, false⟩]⟩,
  -- ENG_TRAPINFO (R632)
  ⟨0x20c020, 0x10000, 36, 0x100000000, 1, 8, .eng, [
    ⟨48, 16, .rc, 0, 0, 65535, true⟩,
    ⟨37, 8, .ro, 0, 0, 255, false⟩,
    ⟨32, 5, .ro, 0, 0, 31, false⟩,
    ⟨0, 32, .ro, 0, 0, 4294967295, false⟩]⟩,
  -- ENG_PERF (R633)
  ⟨0x20c028, 0x10000, 36, 0x100000000, 1, 8, .eng, [
    ⟨32, 32, .rc, 0, 0, 4294967295, true⟩,
    ⟨0, 32, .rc, 0, 0, 4294967295, true⟩]⟩,
  -- ENG_IRQCNT (R634)
  ⟨0x20c030, 0x10000, 36, 0x100000000, 1, 4, .eng, [
    ⟨16, 16, .rc, 0, 0, 65535, true⟩,
    ⟨0, 16, .rc, 0, 0, 65535, true⟩]⟩,
  -- ENG_HOOKCNT (R636)
  ⟨0x20c080, 0x10000, 36, 0x100000000, 1, 8, .eng, [
    ⟨48, 16, .rc, 0, 0, 65535, true⟩,
    ⟨32, 16, .rc, 0, 0, 65535, true⟩,
    ⟨16, 16, .rc, 0, 0, 65535, true⟩,
    ⟨0, 16, .rc, 0, 0, 65535, true⟩]⟩]

/-- Registers of the eng region, part 2. -/
def regsEng1 : List RegRow := [
  -- ENG_CLAIM (R635)
  ⟨0x20c040, 0x10000, 36, 0x4, 16, 4, .eng, [
    ⟨31, 1, .ro, 0, 0, 1, false⟩,
    ⟨16, 8, .ro, 0, 0, 255, false⟩,
    ⟨0, 11, .ro, 0, 0, 2047, false⟩]⟩]

/-- Registers of the eng region. -/
def regsEng : List RegRow := regsEng0 ++ regsEng1

/-- Registers of the glb region, part 1. -/
def regsGlb0 : List RegRow := [
  -- GLB_ID (R698)
  ⟨0x0, 0x100000000, 1, 0x100000000, 1, 8, .glb, [
    ⟨52, 6, .ro, 0, 0, 63, false⟩,
    ⟨50, 2, .ro, 0, 0, 3, false⟩,
    ⟨48, 2, .ro, 1, 0, 3, false⟩,
    ⟨16, 16, .ro, 61736, 0, 65535, false⟩,
    ⟨0, 8, .ro, 0, 0, 255, false⟩]⟩,
  -- GLB_FWREV (R699)
  ⟨0x8, 0x100000000, 1, 0x100000000, 1, 8, .glb, [
    ⟨32, 6, .ro, 0, 0, 63, false⟩,
    ⟨24, 8, .ro, 0, 0, 255, false⟩,
    ⟨16, 8, .ro, 0, 0, 255, false⟩,
    ⟨0, 16, .ro, 0, 0, 65535, false⟩]⟩,
  -- GLB_UID (R700)
  ⟨0x10, 0x100000000, 1, 0x100000000, 1, 8, .glb, [
    ⟨0, 64, .ro, 0, 0, 18446744073709551615, false⟩]⟩,
  -- GLB_BOOT (R701)
  ⟨0x18, 0x100000000, 1, 0x100000000, 1, 4, .glb, [
    ⟨31, 1, .ro, 0, 0, 1, false⟩,
    ⟨30, 1, .ro, 0, 0, 1, false⟩,
    ⟨28, 2, .ro, 0, 0, 3, false⟩,
    ⟨26, 2, .ro, 0, 0, 3, false⟩,
    ⟨20, 4, .ro, 0, 0, 15, false⟩,
    ⟨16, 4, .ro, 0, 0, 15, false⟩]⟩,
  -- GLB_BOOTADDR (R702)
  ⟨0x20, 0x100000000, 1, 0x100000000, 1, 8, .glb, [
    ⟨2, 62, .rw, 0, 0, 4611686018427387903, false⟩]⟩,
  -- GLB_BOOTLEN (R702)
  ⟨0x28, 0x100000000, 1, 0x100000000, 1, 4, .glb, [
    ⟨31, 1, .wo, 0, 0, 1, false⟩,
    ⟨0, 22, .rwc, 208, 208, 2097152, false⟩]⟩,
  -- GLB_RSTCAUSE (R703)
  ⟨0x30, 0x100000000, 1, 0x100000000, 1, 4, .glb, [
    ⟨4, 1, .w1c, 0, 0, 1, true⟩,
    ⟨3, 1, .w1c, 0, 0, 1, true⟩,
    ⟨2, 1, .w1c, 0, 0, 1, true⟩,
    ⟨1, 1, .w1c, 0, 0, 1, true⟩,
    ⟨0, 1, .w1c, 1, 0, 1, true⟩]⟩,
  -- GLB_ACTION (R704)
  ⟨0x38, 0x100000000, 1, 0x100000000, 1, 4, .glb, [
    ⟨0, 32, .wo, 0, 0, 4294967295, false⟩]⟩,
  -- GLB_ECCCTRL (R705)
  ⟨0x40, 0x100000000, 1, 0x100000000, 1, 4, .glb, [
    ⟨31, 1, .rw, 1, 0, 1, false⟩,
    ⟨16, 8, .rwc, 16, 1, 255, false⟩,
    ⟨0, 16, .rwc, 1000, 100, 60000, false⟩]⟩,
  -- GLB_ECCSTAT (R706)
  ⟨0x48, 0x100000000, 1, 0x100000000, 1, 8, .glb, [
    ⟨48, 16, .ro, 0, 0, 65535, false⟩,
    ⟨32, 4, .ro, 0, 0, 15, false⟩,
    ⟨16, 16, .rc, 0, 0, 65535, true⟩,
    ⟨0, 16, .rc, 0, 0, 65535, true⟩]⟩,
  -- GLB_RESUME (R712)
  ⟨0x50, 0x100000000, 1, 0x100000000, 1, 4, .glb, [
    ⟨0, 1, .rw, 0, 0, 1, false⟩]⟩,
  -- GLB_IOSTAT (R717)
  ⟨0x58, 0x100000000, 1, 0x100000000, 1, 4, .glb, [
    ⟨0, 2, .ro, 0, 0, 3, false⟩,
    ⟨2, 2, .ro, 0, 0, 3, false⟩,
    ⟨4, 2, .ro, 0, 0, 3, false⟩,
    ⟨6, 2, .ro, 0, 0, 3, false⟩,
    ⟨8, 2, .ro, 0, 0, 3, false⟩,
    ⟨10, 2, .ro, 0, 0, 3, false⟩,
    ⟨12, 2, .ro, 0, 0, 3, false⟩,
    ⟨14, 2, .ro, 0, 0, 3, false⟩]⟩]

/-- Registers of the glb region, part 2. -/
def regsGlb1 : List RegRow := [
  -- GLB_ECCLOG (R707)
  ⟨0x100, 0x10, 16, 0x100000000, 1, 16, .glb, [
    ⟨64, 64, .ro, 0, 0, 18446744073709551615, false⟩,
    ⟨56, 8, .ro, 0, 0, 255, false⟩,
    ⟨55, 1, .ro, 0, 0, 1, false⟩,
    ⟨54, 1, .ro, 0, 0, 1, false⟩,
    ⟨40, 7, .ro, 0, 0, 127, false⟩,
    ⟨32, 8, .ro, 0, 0, 255, false⟩,
    ⟨0, 32, .ro, 0, 0, 4294967295, false⟩]⟩,
  -- PWR_CTRL (R708)
  ⟨0x10000, 0x100000000, 1, 0x100000000, 1, 4, .glb, [
    ⟨31, 1, .rw, 0, 0, 1, false⟩,
    ⟨24, 7, .rw, 64, 0, 127, false⟩,
    ⟨17, 7, .rwc, 120, 85, 125, false⟩,
    ⟨10, 7, .rwc, 110, 60, 125, false⟩,
    ⟨0, 10, .rwc, 200, 10, 1000, false⟩]⟩,
  -- PWR_LEVEL (R709)
  ⟨0x10008, 0x100000000, 1, 0x100000000, 1, 8, .glb, [
    ⟨56, 6, .rw, 0, 0, 63, false⟩,
    ⟨50, 6, .rw, 0, 0, 63, false⟩,
    ⟨32, 16, .rw, 0, 0, 65535, false⟩,
    ⟨16, 16, .rw, 0, 0, 65535, false⟩,
    ⟨0, 16, .rw, 0, 0, 65535, false⟩]⟩,
  -- PWR_STAT (R710)
  ⟨0x10010, 0x100000000, 1, 0x100000000, 1, 4, .glb, [
    ⟨30, 2, .ro, 0, 0, 3, false⟩,
    ⟨28, 2, .ro, 0, 0, 3, false⟩,
    ⟨27, 1, .ro, 0, 0, 1, false⟩,
    ⟨26, 1, .w1c, 0, 0, 1, true⟩,
    ⟨25, 1, .w1c, 0, 0, 1, true⟩,
    ⟨9, 9, .rc, 0, 0, 511, true⟩,
    ⟨0, 9, .ro, 0, 0, 511, false⟩]⟩]

/-- Registers of the glb region. -/
def regsGlb : List RegRow := regsGlb0 ++ regsGlb1

/-- The rows to search for byte offset `a`, by the blocks of R40. -/
def regRows (a : Nat) : List RegRow :=
  if a < 0x20000 then regsGlb
  else if a < 0x40000 then regsCirque
  else if a < 0x50000 then regsTb
  else if a < 0x60000 then regsCol
  else if a < 0x70000 then regsFirn
  else if a < 0x80000 then regsMor
  else if a < 0x90000 then regsStack
  else if a < 0xB0000 then regsHost
  else if a < 0xC0000 then regsEth
  else if a < 0x100000 then regsSnow
  else if a < 0x140000 then regsLane
  else if a < 0x1A0000 then regsQuad
  else if a < 0x200000 then []
  else if a < 0x440000 then regsEng
  else []

/-- First index of offset `a` in the array of row `r`. -/
def RegRow.i (r : RegRow) (a : Nat) : Nat := (a - r.base) / r.s1

/-- Second index. -/
def RegRow.j (r : RegRow) (a : Nat) : Nat := (a - r.base) % r.s1 / r.s2

/-- Byte offset inside the register. -/
def RegRow.rest (r : RegRow) (a : Nat) : Nat := (a - r.base) % r.s1 % r.s2

/-- Offset `a` lies in a register of row `r`. -/
def RegRow.hits (r : RegRow) (a : Nat) : Bool :=
  decide (r.base ≤ a) && decide (r.i a < r.n1) && decide (r.j a < r.n2) && decide (r.rest a < r.bytes)

/-- The register that occupies offset `a`, if any (R14: none reads 0). -/
def regRow (a : Nat) : Option RegRow := (regRows a).find? fun r => r.hits a

/-- The reset value of a whole register by its table. -/
def RegRow.resetNat (r : RegRow) : Nat := r.fields.foldl (fun n f => n + f.reset * 2 ^ f.lsb) 0

/-- The reset value of the word at byte offset `a`: the tables, and the three fields whose reset value depends
on the index (FBASE 16 x lane, R244; RESERVE 4,096 for P0-P3, R360). -/
def regReset (a : Nat) : Word :=
  match regRow a with
  | none => 0
  | some r =>
    let base := BitVec.ofNat 32 (r.resetNat / 2 ^ (8 * (r.rest a / 4 * 4)))
    if r.base = 0x100060 ∧ r.rest a < 4 then base + BitVec.ofNat 32 (16 * r.i a)
    else if r.base = 0x60100 ∧ 4 ≤ r.rest a ∧ r.i a < 4 then BitVec.ofNat 32 4096
    else base

end Sys2Proof.Machine
end

