-- ==== Sys2Proof/Machine/State.lean ====
section
/-! DEFINITION. The state of the F128 as plain data. Registers whose fields hold plain values live in `regs`,
keyed by BAR0 byte offset; RAM bytes live in `mem`, keyed by engine address (R46, with attached memory from
0x1_0000_0000). What has more structure than a register has a field of its own, and the register map shows it
through `viewReg` (Machine/Access.lean). -/
namespace Sys2Proof.Machine

/-- No command faults: every error the spec describes is an effect on the state. -/
inductive Fault where
  /-- Raised by nobody; the host's interface asks for a type of faults. Safe. -/
  | none_
deriving DecidableEq, Repr

/-- Why a command has no meaning. -/
inductive Refusal where
  /-- The arm of a command whose meaning is not written yet. Safe: nothing is claimed of it. -/
  | notModelled (mnemonic : String)
deriving DecidableEq, Repr

/-- An instant on a clock: time base `base` (its interval count, in 2^-24 ns, R465), or the lane clock (lt). -/
structure Timer where
  base : Option Nat
  due : Nat
deriving DecidableEq, Repr

/-- A time base (R461): the value and the interval count in 2^-24 ns, the interval count one lt ago, what a slew has still to
add, and the lt of the last step with the value before the first step of that lt (R20). -/
structure TimeBase where
  val : Nat := 0
  elapsed : Nat := 0
  before : Nat := 0
  slewRem : Int := 0
  stepped : Option (Nat × Nat) := none
deriving DecidableEq, Repr

/-- A stamp: full seconds and nanoseconds (R478). -/
structure Stamp where
  sec : Nat
  ns : Nat
deriving DecidableEq, Repr

/-- An admin command that has been taken and not completed: its function and HOST_TAG. -/
structure AdminRef where
  f : Nat
  tag : Word
deriving DecidableEq, Repr

/-- Late mark on an entry: the first to become visible (R199). `delete`: its SQ is being deleted (R402). -/
inductive Mark where
  | none | cancel | abort | delete
deriving DecidableEq, Repr

/-- Where an entry of a transmit order came from (04, "The transmit order"; R488). -/
inductive TxSrc where
  | desc (sq : Nat) (f : Nat) (tag : Word) (tsReq : Bool)
  | obj (o : Nat)
  | routed (fid : Nat)
  | sync (ch : Nat)
  | fup (ch : Nat)
  /-- a descriptor whose function has been reset: its completion is discarded (R404 step 3) -/
  | dead
deriving DecidableEq, Repr

/-- A lane's copy of an entry (R253, R257). -/
structure Copy where
  lane : Nat
  inFlight : Bool := false
  tried : Bool := false
  erred : Bool := false
  trail : Bool := false
  trailDue : Option Timer := none
  /-- when it became trailing: its entry's place among the completions (R258) -/
  trailSeq : Nat := 0
  /-- counted in CT_STARTED or, waiting under R130, in CT_CLAMPED -/
  ctCounted : Bool := false
  /-- an XL attempt goes on under a kill (R312) -/
  xlKill : Bool := false
  /-- a trailing copy that has ended by R258 while its attempt goes on: it is not attempted again (log 90) -/
  ended : Bool := false
deriving DecidableEq, Repr

/-- Cut-through data of an entry: the route entry, when its content is loaded anew, the ingress lane, whether the
frame has arrived whole, and whether a kill has reached it (R307, R312). -/
structure CtTx where
  route : Nat
  gen : Nat
  ingress : Nat
  whole : Bool
  /-- B_req of each egress lane (R308, R310) -/
  breq : Tab Nat
  /-- a kill has been sent and has not reached every copy (R311) -/
  kill : Bool := false
deriving DecidableEq, Repr

/-- An entry of a transmit order. `done`: completed, only trailing copies remain (R257). -/
structure Entry where
  id : Nat
  src : TxSrc
  fr : Frame
  oneShot : Bool := false
  deadline : Option Timer := none
  /-- of a send object: the IRQ_EN it was released with, while the release has cleared or set it since (R187) -/
  irq : Option Bool := none
  /-- of a send object: TX_REQ asked for this instance, or for one that it has replaced (R168) -/
  req : Bool := false
  /-- the interval count of the lane's base from which the deadline runs: at entry, or at the release that entered it
  (R186, R194) -/
  entered : Nat := 0
  /-- the lt of entry (R191) -/
  enteredLt : Nat := 0
  /-- the lanes PAIRSEL names (R254) -/
  sel : List Nat := []
  mark : Mark := .none
  expired : Bool := false
  attempts : Nat := 0
  copies : List Copy := []
  done : Bool := false
  /-- the lt in which it completed (R256) -/
  doneAt : Nat := 0
  fid : Option Nat := none
  ct : Option CtTx := none
deriving DecidableEq, Repr

/-- A descriptor fetched whose payload is being read, waits for admission (R198, R331), or crosses Col as Firn frame `fid`
(R282). -/
structure Fetched where
  sq : Nat
  f : Nat
  eth : Option Nat
  bus : Nat
  fr : Frame
  tag : Word
  tsReq : Bool
  oneShot : Bool
  lanes : List Nat
  dl : Option Nat
  len : Nat
  data : Option (List Byte) := none
  fid : Option Nat := none
deriving DecidableEq, Repr

/-- A list as a decision uses it (R222, R229 to R231): its first element's place in filter memory, its elements (none: one
with an uncorrectable word), and the default action. -/
structure FltList where
  base : Nat
  elems : List (Option Rec4)
  sorted : Bool
  cached : Bool
  defAction : Nat
  defArg : Nat
  defRecord : Bool
deriving DecidableEq, Repr

/-- The element cache of a logical bus: its active and its shadow copy (R231, R241). -/
structure FltCache where
  active : List Rec4 := []
  shadow : List Rec4 := []
deriving DecidableEq, Repr

/-- A route entry as a frame's lookup read it (R291, R305): the entry, the colour to which the frame was metered (R335), the
member words of its group if the group is valid, and the CQs it names that a function has or had, each with that function
and its generation (R297). -/
structure Looked where
  ent : Rec4
  colour : Nat
  words : Option (List Word) := none
  rings : List (Nat × Nat × Nat) := []
deriving DecidableEq, Repr

/-- What the device does with a received frame (R224): element index for the hook descriptor (R625). -/
structure Decision where
  action : Nat
  arg : Nat
  record : Bool
  colour : Nat
  noMatch : Bool
  index : Nat
  custom : Bool
  cachedWalk : Bool
  late : Bool
  /-- what a frame considered for cut-through read at its lookup (R291, R335) -/
  looked : Option Looked := none
  /-- the colour to which the frame was metered at its validity, where the decision came later (R335) -/
  metered : Option Nat := none
deriving DecidableEq, Repr

/-- A cut-through reception (R306): the route, its load count, the egress bus and the entry, the Firn frame, and the frame
as received once it has passed its check point (R311). -/
structure CtRx where
  route : Nat
  gen : Nat
  bus : Nat
  ent : Nat
  fid : Nat
  checked : Option Frame := none
deriving DecidableEq, Repr

/-- A frame that is valid and not yet decided (R236), or a copy judged to be acted on (R266). -/
structure Awaiting where
  fr : Frame
  stamp : Stamp
  /-- a duplicate: its decision is discarded when it comes (R266) -/
  dup : Bool
  /-- the colour to which it was metered at its validity (R335) -/
  colour : Nat := 0
  /-- its place among the frames that have become valid (R393) -/
  seq : Nat := 0
  /-- the list it is decided under, where a commit has replaced it since (R242) -/
  old : Option FltList := none
deriving DecidableEq, Repr

/-- An attempt on TXD (R196): the entry, the corrected stamp of its SOF, and the ESI bit it carries (R108). -/
structure Attempt where
  bus : Nat
  ent : Nat
  stamp : Stamp
  esi : Bool := false
deriving DecidableEq, Repr

/-- Why a seek runs (R88). -/
inductive SeekCause where
  | start | bind | busoff
deriving DecidableEq, Repr

/-- A seek (R82): timers on the lane clock, whether the candidate's 11 recessive bits have been seen, the frame
count and whether one of those frames was switched, the wait for a switched frame (R85), whether TIMEOUT has expired,
and a declaration that waits for its 11 recessive bits (R87), with its lt (R93). -/
structure Seek where
  cause : SeekCause
  ready : Bool := false
  count : Nat := 0
  switched : Bool := false
  group : Bool := false
  dwell : Nat
  timeout : Nat
  timedOut : Bool := false
  declared : Option Nat := none
  declaredAt : Nat := 0
deriving DecidableEq, Repr

/-- An entry of an open list (R268): the match key, the SOF stamp on the base's interval count, and the expiry. -/
structure OpenEnt where
  fmt : Format
  id : BitVec 29
  rtr : Bool
  len : Nat
  sdt : Byte
  sec : Bool
  vcid : Byte
  af : Word
  check : Word
  sof : Int
  due : Timer
deriving DecidableEq, Repr

/-- A rate guard's running window (R145). `next`: frames whose EOF ends after the window. -/
structure Guard where
  count : Nat := 0
  next : Nat := 0
  due : Option Timer := none
deriving DecidableEq, Repr

/-- A command that commits when the frame on TXD ends: LANE_STOP, LANE_SUSPEND (R102), or a BUS_BIND to a base that starts a
seek (R200, R400, log 87). -/
inductive PendKind where
  | stop | suspend | bind (n : Nat)
deriving DecidableEq, Repr

/-- A pending lane command. -/
structure LanePend where
  what : PendKind
  ref : Option AdminRef
deriving DecidableEq, Repr

/-- Steps of the stuck-dominant sequence that waits (R150, R152). -/
inductive StuckStep where
  | none | standby | window | normal | external
deriving DecidableEq, Repr

/-- What a lane holds beside its registers. -/
structure Lane where
  pend : Option LanePend := none
  lctlNormal : Bool := false
  settle : Option Nat := none
  stuck : StuckStep := .none
  window : Nat := 0
  waitIdle : Bool := false
  /-- a stuck fault has ended in a HOLD that has not been left since (R152) -/
  noDetect : Bool := false
  /-- the lt in which source 256 + 4 x lane + 0 was last raised for a change of state (R155, R272) -/
  told : Option Nat := none
  dec : Option Decision := none
  ct : Option CtRx := none
  wait : List Awaiting := []
  att : Option Attempt := none
  lastTx : Bool := false
  hold : Option Timer := none
  holdOver : Bool := false
  listen91 : Bool := false
  busoffs : List Nat := []
  seek : Option Seek := none
  seekDue : Bool := false
  tdcvValid : Bool := false
  guards : Tab Guard := []
  open_ : List OpenEnt := []
  smpRx : Nat := 0
  smpTx : Nat := 0
  /-- the function that last wrote a timing register, by its offset (R57) -/
  timingBy : Tab Nat := []
  /-- the lt of the entry to BUS_OFF, and the decision on the reception that it ended (R19) -/
  boAt : Option (Nat × Option Decision) := none
  /-- LANE_TS_ADJ and LANE_TS_MODE as they were before each write since the last reception ended, with the interval count
  of the lane's base at the write, oldest first (R479) -/
  corrs : List (Nat × Word × Word) := []
deriving DecidableEq, Repr

/-- What drives TXD (R647). -/
inductive Drive where
  | recessive | dominant | codec | pin (level : Bool)
deriving DecidableEq, Repr

/-- A command that the codec carries out at the next bit boundary (R646). -/
inductive CodecCmd where
  | crcReset (k : Nat) | stuff (m : Nat) | crcSend (k : Nat) | crcCheck (k : Nat) | data (on : Bool) | errClear | tdcStart
deriving DecidableEq, Repr

/-- The lane codec (R646): `crcs`: for each CRC kind the bits sampled since its reset, with whether they are stuff bits; the
stuffing mode, and the equal bits in a row that dynamic stuffing counts; `crcOut`: what is left of a CRC being sent; the data
timing is in force; CODEC_ERR; the transmit bit (R645); the commands that wait for the bit boundary. -/
structure Codec where
  crcs : Tab (List (Bool × Bool)) := []
  stuff : Nat := 4
  run : Nat := 0
  crcOut : List Bool := []
  data : Bool := false
  err : Bool := false
  tdc : Bool := false
  txBit : Option Bool := none
  cmds : List CodecCmd := []
deriving DecidableEq, Repr

/-- A pin engine (15). `busyUntil`: the lt at which the next instruction can execute (R637); `ended`: the last instruction
that completed stood at LOOP_END, and the next has not executed (R654); `crossing`: what is on its way to the protocol engine,
oldest first, an event or (none) a word of RXQ; `arrived`: words at the front of RXQ that have reached it; `events`: events that
have (R650); `rxd`, `dbit`: the last SAMPLE and the last DBIT (R642, R644); `idle`: recessive samples in a row, up to 11. -/
structure PinEng where
  running : Bool := false
  pc : Nat := 0
  x : Byte := 0
  inSh : Word := 0
  outSh : Word := 0
  inCnt : Nat := 0
  outCnt : Nat := 0
  txq : List Word := []
  rxq : List Word := []
  drive : Drive := .codec
  codec : Codec := {}
  busyUntil : Nat := 0
  stalled : Bool := false
  ended : Bool := false
  crossing : List (Option Nat) := []
  arrived : Nat := 0
  events : List Nat := []
  rxd : Bool := true
  dbit : Bool := true
  idle : Nat := 0
deriving DecidableEq, Repr

/-- A lock on an object (R178): holder, end on the lane clock, the words as published when it was taken (the staging copy
starts as these, R182), and the words written since. -/
structure ObjLock where
  f : Nat
  due : Nat
  words : List Word
  staged : Tab Word := []
deriving DecidableEq, Repr

/-- A received frame waiting in an object's shadow (R178). -/
structure Shadow where
  fr : Frame
  stamp : Stamp
deriving DecidableEq, Repr

/-- What an object holds beside its words. -/
structure Obj where
  lock : Option ObjLock := none
  shadow : Option Shadow := none
  /-- next periodic release on the interval count of the lane's base (R184) -/
  next : Option Timer := none
  /-- an instance waits for the attempt in progress to end (R184, R185): the interval count of the lane's base at its
  release (R194), and whether TX_REQ asked for it (R168) -/
  waiting : Option (Nat × Bool) := none
deriving DecidableEq, Repr

/-- A posted receive buffer (R388). -/
structure Buf where
  addr : Nat
  tag : Word
deriving DecidableEq, Repr

/-- A receive completion waiting in a CQ (R392): words 0 (BUS and LANE_B), 1 to 5, LEN, inline or not. -/
structure RxItem where
  fid : Nat
  eth : Bool
  bus : Nat
  laneB : Bool
  w1 : Word
  w2 : Word
  af : Word
  stamp : Stamp
  xl : Bool
  inl : Bool
  data : List Byte
  /-- sent by a route, not by a filter action (R402) -/
  routed : Bool := false
  /-- the generation of the CQ at the frame's lookup (R297) -/
  gen : Nat := 0
  /-- the lt of its admission (R407) -/
  at_ : Nat := 0
  /-- its place among the frames that have become valid (R393) -/
  seq : Nat := 0
deriving DecidableEq, Repr

/-- An I/O completion queue (R372 to R406). -/
structure Cq where
  owner : Option Nat := none
  orphan : Option Nat := none
  backed : Bool := false
  base : Nat := 0
  size : Nat := 0
  head : Nat := 0
  tail : Nat := 0
  phase : Bool := true
  bufsz : Nat := 0
  reserved : Nat := 0
  posted : List Buf := []
  held : List RxItem := []
  drops : Nat := 0
  db : Word := 0
  /-- it was deleted and has not been created again (R395, R402) -/
  deleted : Bool := false
  /-- times it has been deleted (R297, R407) -/
  gen : Nat := 0
  /-- its last deletion: the lt and the function whose it was (R407) -/
  lastDel : Option (Nat × Nat) := none
  /-- the lt in which the head doorbell last released entries (R407) -/
  freed : Option Nat := none
deriving DecidableEq, Repr

/-- An I/O submission queue. -/
structure Sq where
  owner : Option Nat := none
  base : Nat := 0
  size : Nat := 0
  cq : Nat := 0
  low : Nat := 0
  head : Nat := 0
  tail : Nat := 0
  deleting : Option AdminRef := none
  aborted : Nat := 0
  db : Word := 0
deriving DecidableEq, Repr

/-- A host function beside its register block: its admin rings and the PCIe configuration the device reads. -/
structure Func where
  link : Bool := false
  aHead : Nat := 0
  aTail : Nat := 0
  cHead : Nat := 0
  cTail : Nat := 0
  phase : Bool := true
  reserved : Nat := 0
  aDb : Word := 0
  cDb : Word := 0
  msixEn : Bool := false
  msixMask : Bool := false
  busMaster : Bool := false
deriving DecidableEq, Repr

/-- A command that waits behind an earlier one on the same object (R743). -/
structure Held where
  f : Nat
  d : Words8
deriving DecidableEq, Repr

/-- A Cirque source (R415, R434). `at_`: the target it is delivered or active at. -/
structure Src where
  en : Bool := false
  active : Bool := false
  delivered : Bool := false
  sat : Bool := false
  count : Nat := 0
  prio : Nat := 0
  target : Nat := 0
  at_ : Nat := 0
deriving DecidableEq, Repr

/-- A Cirque target (R419 to R431). Times in lt. -/
structure Tgt where
  last : Option Nat := none
  commit : Option Nat := none
  modEvt : Nat := 0
  idle : Bool := false
  /-- of an engine: the WAIT that it executed last with IE 0 has ended (R616) -/
  woke : Bool := false
deriving DecidableEq, Repr

/-- A Firn cell (R323): count, on the free list, last owner port and class, the mismatch seen on the last pass,
the pass in which it was last allocated or freed. -/
structure Cell where
  cnt : Nat := 0
  free : Bool := true
  owner : Nat := 0
  ownerTc : Nat := 0
  seen : Option (Nat × Nat) := none
  touched : Option Nat := none
deriving DecidableEq, Repr

/-- A frame in Firn: its cells, and the holds on it, each an output port and a class (R324, R325), and the
CQs it is bound for, each as `128 * port + CQ` (R330). -/
structure FirnFrame where
  cells : List Nat := []
  holds : List (Nat × Nat) := []
  cqs : List Nat := []
  /-- its colour, which the cell 0 header carries (R278, R334) -/
  colour : Nat := 0
deriving DecidableEq, Repr

/-- A policer's buckets, in 1/160,000 byte (a rate unit of 16 kbit/s adds 1/160,000 byte per lt), and the lt of its
last event (R337). -/
structure Policer where
  tc : Nat := 0
  tp : Nat := 0
  last : Nat := 0
deriving DecidableEq, Repr

/-- A candidate record of Moraine (R508 to R512). `time`: its stamp on base TB, in the units of a base's value (R516). -/
structure Cand where
  skind : Nat
  snum : Nat
  status : Nat
  stamp : Stamp
  time : Nat
  w4 : Word
  len : Nat
  pay : List Byte
  flags : Word
  detail : Word
  id : BitVec 29
deriving DecidableEq, Repr

/-- A stack frame of this device to be sent (R541, R542), without addresses and tag. -/
structure StackOut where
  dst : Nat
  all : Bool
  ty : Nat
  /-- the origin is the acting master (R542) -/
  master : Bool
  src : Nat
  tc : Nat
  colour : Nat
  hop : Nat
  seq : Nat
  epoch : Nat
  payload : List Byte
deriving DecidableEq, Repr

/-- What waits in an Ethernet port's egress queue. `relay`: a stack frame in transit, as it goes out (R548, R549).
`ptp`: a forwarded message, the lt of its ingress SFD, its ingress port, whether it is an event message (R483, R484).
`sync`, `delayReq`: messages of SE1 whose egress stamp counts (R561). -/
inductive EgKind where
  | desc (x : Fetched)
  | stack (x : StackOut)
  | relay (dst : Nat) (all : Bool) (bytes : List Byte)
  | ptp (bytes : List Byte) (ingress : Nat) (port : Nat) (event : Bool)
  | sync (seq : Nat) (bytes : List Byte)
  | delayReq (seq : Nat) (bytes : List Byte)
  | other (bytes : List Byte)
deriving DecidableEq, Repr

/-- An egress queue entry: class, Firn frame, deadline, mark, and what is sent. -/
structure Egress where
  tc : Nat
  fid : Option Nat
  deadline : Option Timer
  mark : Mark
  attempts : Nat
  kind : EgKind
deriving DecidableEq, Repr

/-- Work of the service engines that waits for admission (R331): a frame for an Ethernet port with its length, or a run of
route entries to be staged for an epoch (R558). -/
inductive SeWait where
  | frame (e : Nat) (g : Egress) (len : Nat)
  | stage (epoch : Nat) (group : Bool) (first : Nat) (recs : List Rec4)
deriving DecidableEq, Repr

/-- A frame on the wire of an Ethernet port: its SFD instants (R480, R484). -/
structure OnWire where
  eg : Egress
  stamp : Stamp
  bytes : List Byte
deriving DecidableEq, Repr

/-- An Ethernet port beside its registers. -/
structure EthPort where
  queue : List Egress := []
  wire : Option OnWire := none
  hold : Option Timer := none
  holdOver : Bool := false
  pendDis : Option (Option AdminRef) := none
deriving DecidableEq, Repr

/-- What a frame that has crossed Col becomes at the output (R301). -/
inductive Deliver where
  | buses (bs : List Nat) (fr : Frame) (stamp : Stamp)
  | rings (items : List (Nat × RxItem))
  | eth (xs : List Egress)
  /-- a candidate on its way to Moraine at P38 (R281) -/
  | mor (c : Cand)
  /-- the payload of a descriptor, which `fetched` lists with its Firn frame -/
  | desc
  /-- a frame for the service engines at P39; `keep`: what is staged, whose cells stay held there (R558) -/
  | engine (keep : Bool)
deriving DecidableEq, Repr

/-- A frame in a virtual output queue: cells still to move (R282). -/
structure VoqItem where
  fid : Nat
  left : Nat
  tc : Nat
  what : Deliver
deriving DecidableEq, Repr

/-- Pointers of an output or input sub-port (R285, R286). -/
structure ColPtr where
  grant : List Nat := [0, 0, 0, 0, 0]
  accept : Nat := 0
deriving DecidableEq, Repr

/-- A record in Moraine's ring: offset and length in 32-byte units, its stamp on base TB. -/
structure RingRec where
  off : Nat
  units : Nat
  time : Nat
deriving DecidableEq, Repr

/-- Moraine beside its registers (12). -/
structure Moraine where
  /-- the block has left its set-up state (R527); capture runs (R524) -/
  started : Bool := false
  capture : Bool := false
  /-- candidates admitted to Firn at P38, oldest first -/
  queue : List (Nat × Cand) := []
  recs : List RingRec := []
  write : Nat := 0
  trigOff : Nat := 0
  /-- value of base TB at which the post window ends (R516) -/
  postDue : Option Nat := none
  /-- T on base TB (R516) -/
  trigTime : Option Nat := none
  lost : Nat := 0
  /-- DUMP commands not completed: command, host address, ring offset, length (R525) -/
  dump : List (AdminRef × Nat × Nat × Nat) := []
  headerDue : Option Nat := none
  /-- BASE and SIZE of the attached ring kept through a device reset (R520) -/
  kept : Option (Nat × Nat) := none
deriving DecidableEq, Repr

/-- A commit that waits for its activation at a device (R559). -/
structure Activation where
  epoch : Nat
  count : Nat
  sec : Nat
  ns : Nat
  from_ : Option Nat
deriving DecidableEq, Repr

/-- A running EPOCH_COMMIT of this device's host (R559); `due`: the value of TB0 at which it completes. -/
structure EpochCmd where
  ref : AdminRef
  epoch : Nat
  due : Nat
  addressees : List Nat
  applied : List Nat := []
  incomplete : List Nat := []
deriving DecidableEq, Repr

/-- The stack block beside its registers (13). -/
structure Stack where
  started : Bool := false
  /-- start of the master's listening time (R553) -/
  listenDue : Option Timer := none
  hbDue : Option Timer := none
  missDue : Option Timer := none
  /-- until when the configured master counts as heard with STANDBY 0, and whether its last heartbeat had STANDBY 1
  (R554, R556) -/
  masterDue : Option Timer := none
  masterStandby : Bool := false
  keptM : Option (Nat × Timer) := none
  keptB : Option (Nat × Timer) := none
  seq : Nat := 0
  stagedEpoch : Nat := 0
  staged : List (Bool × Nat × Rec4) := []
  /-- Firn frames that hold the staged entries at P39 (R558) -/
  stagedFids : List Nat := []
  /-- entries pushed as acting master: for which epoch, to every device, and to each device beyond that (R558, R559) -/
  pushEpoch : Nat := 0
  pushedAll : Nat := 0
  pushed : Tab Nat := []
  act : Option Activation := none
  cmd : Option EpochCmd := none
  nakDue : Option Timer := none
  promotedHeard : Bool := false
  /-- SE1's servo (R561): when the next Sync is due, good Syncs in a row, the sequence numbers of Sync and Delay_Req, and
  in 2^-16 ns: the ingress stamp of the Sync taken, its difference to the master's stamp, the path delay, and the egress
  stamp of the Delay_Req sent -/
  syncDue : Option Timer := none
  good : Nat := 0
  syncSeq : Nat := 0
  syncIn : Option (Nat × Int) := none
  diff : Option Int := none
  delay : Int := 0
  reqSeq : Nat := 0
  reqOut : Option Int := none
deriving DecidableEq, Repr

/-- Snowline's phase (R448 to R450). -/
inductive SnowPhase where
  | standby | waitPg | waitReset | main | powerDown | holdOff
deriving DecidableEq, Repr

/-- Snowline beside its registers. `due`: the lt at which the wait of the phase ends; `wakeWaits`: a wake waits for the
end of the power-down (R449, R450); `woken`: the device is, or was when the sequence started, in standby
(R693); `frameErr`: the frame error counters of R445; `rtcPhase`: part of an RTC period gone; `alarm`: the alarm has fired
(R447); `firstAt`, `codeAt`: the lt at which FIRST, and a lane's LCODE, were recorded (R450); `keyAt`: the lt of the last
standby key taken (R697); `lvls`: the level that a pin of SNOW_STAT, by its bit, showed last, with its lt (R457, log 109). -/
structure Snow where
  phase : SnowPhase := .standby
  due : Nat := 0
  frameErr : Tab Nat := []
  wakeWaits : Bool := false
  woken : Bool := false
  rtcPhase : Nat := 0
  alarm : Bool := false
  firstAt : Option Nat := none
  codeAt : Tab Nat := []
  keyAt : Option Nat := none
  lvls : Tab (Bool × Nat) := []
deriving DecidableEq, Repr

/-- A change of power mode in progress (R685 steps 2 and 3): the command that waits for it (none for a thermal
step-down), the lt at which SETTLE_US ends, PMBus writes not acknowledged in a row, whether it goes back to MODE
because TJ reached TJ_STEP (R687), whether it serves as a thermal step-down as well (R34), and the clamps that the command
counts when it completes DONE (R8). -/
structure Move where
  ref : Option AdminRef
  settle : Nat
  nacks : Nat := 0
  back : Bool := false
  stepDown : Bool := false
  clamps : Nat := 0
deriving DecidableEq, Repr

/-- The power block beside its registers (R685 to R688): the move, whether source 888 has been raised and TJ has not
fallen since (R688), the last VOUT_COMMAND word sent, and what VID[5:0] drives. `vioLow`: the I/O banks whose VIO is below
1.0 V, so that their lanes' inputs read dominant and their outputs are high impedance (R715, R725, log 103). `tjSeen`: TJ
has been measured since the reset (R710). -/
structure Power where
  move : Option Move := none
  alarmed : Bool := false
  vout : Nat := 0
  vid : Nat := 0
  vioLow : List Nat := []
  tjSeen : Bool := false
deriving DecidableEq, Repr

/-- An image transfer in progress: IMAGE_LOAD with its masks, the address and the length in bytes (R399, R678). -/
structure ImageCmd where
  ref : AdminRef
  peMask : Word
  seMask : Nat
  addr : Nat
  len : Nat
deriving DecidableEq, Repr

/-- A pending FLT_LOAD (R239 to R243). -/
structure FltLoad where
  ref : Option AdminRef
  count : Nat
  sorted : Bool
  defRecord : Bool
  defAction : Nat
  defArg : Nat
  transferred : Bool := false
  /-- FBASE or FBLOCKS was written while it was pending (R243) -/
  broken : Bool := false
  /-- fields clamped so far, which count at the commit (R7, R403) -/
  clamps : Nat := 0
deriving DecidableEq, Repr

/-- A pending RT_LOAD or POL_LOAD. -/
structure RunLoad where
  ref : AdminRef
  first : Nat
  count : Nat
  group : Bool
deriving DecidableEq, Repr

/-- The stacks of an engine at one moment, to go back to: operand stack, return stack, RSS and MSP in bytes. -/
structure EngStacks where
  os : List Word := []
  rsSlots : Tab Nat := []
  rsPtr : Nat := 0
  rsd : Nat := 0
  rss : Nat := 0
  msp : Nat := 0
deriving DecidableEq, Repr

/-- A frame of entries of an engine: kind and RSS at entry (R615), whether Berzu's own WAIT was interrupted (R738), and what
Berzu unwinds an interrupt hook to: the level entered and the stacks after the entry (R626). -/
structure EFrame where
  trap : Bool
  rss : Nat
  home : Bool := false
  level : Nat := 0
  save : EngStacks := {}
deriving DecidableEq, Repr

/-- One destination that is served (R292). -/
inductive Hop where
  | bus (b : Nat)
  | remote (port addr : Nat)
  | ring (q f gen : Nat)
deriving DecidableEq, Repr

/-- The frame at its lookup: where it comes from, what it is, its colour, and the class of its route. -/
structure Look where
  inp : Nat
  lane : Nat
  bus : Nat
  fr : Frame
  stamp : Stamp
  colour : Nat
  tc : Nat
  /-- by a route, not by a filter action -/
  routed : Bool := false
  /-- its place among the frames that have become valid (R393) -/
  seq : Nat := 0
deriving DecidableEq, Repr

/-- A call of a hook that Berzu is to make, or makes (R620): the filter hook for the copy acted on, with whether it came from
the B lane and its decision (R621); the route hook for a frame after its rewrite, with route entry, HOOK_ARG and
destinations (R622); a tick (R623). -/
inductive HookCall where
  | filter (k : Look) (laneB : Bool) (d : Decision)
  | route (k : Look) (laneB : Bool) (n harg : Nat) (hops : List Hop)
  | tick (t : Nat)
deriving DecidableEq, Repr

/-- An engine (14) beside ENG_CTRL, ENG_DRAM_WIN, ENG_MSP, ENG_MSLIM, ENG_TRAPINFO, ENG_CLAIMp and its counters. `pc` in
the form of R593. `os`: the operand stack, top first. The return stack is a ring of eight slots (R591): `rsPtr` is the slot
that the next push writes, `rsd` the entries held. -/
structure Eng where
  halted : Bool := false
  waiting : Bool := false
  stopped : Bool := true
  haltCause : Nat := 0
  os : List Word := []
  rsSlots : Tab Nat := []
  rsPtr : Nat := 0
  rsd : Nat := 0
  rss : Nat := 0
  pa : Word := 0
  pb : Word := 0
  rc : BitVec 16 := 0
  rpt : Bool := false
  trp : Bool := false
  ie : Bool := false
  il : BitVec 4 := 0
  dzt : Bool := false
  sv : Bool := false
  dz : Bool := false
  n : Bool := false
  z : Bool := false
  c : Bool := false
  v : Bool := false
  pc : Nat := 0
  frames : List EFrame := []
  /-- where the target of the repeat in progress starts (R599), and whether its first iteration has not begun (R602) -/
  target : Nat := 0
  first : Bool := false
  /-- the iteration in progress has written RC (R600), or has trapped DIVIDE (R603) -/
  rcWritten : Bool := false
  divPend : Bool := false
  /-- program words stored by the engine itself and not yet followed by FENCE, as fetches still see them (R583) -/
  stale : Tab Word := []
  /-- slot A of the word in progress has executed: its steps (R588) -/
  slotA : Option Nat := none
  /-- the hook header as Berzu read it when the image started (R619) -/
  hook : Word := 0
  /-- Berzu has no work and stands in its own WAIT (R738, log 123) -/
  home : Bool := false
  /-- the hook calls not ended, oldest first; the first is running where `back` holds what Berzu goes back to: its PC and its
  stacks (R620) -/
  calls : List HookCall := []
  back : Option (Nat × EngStacks) := none
deriving DecidableEq, Repr

/-- Boot, image and scrubber state (16): the main reset has been released and the lane clock runs; the reset is held;
sources tried in this boot (R668); the image read and being verified (R672, R701); the verified running image (R691 step 3);
LENGTH in the descriptor of the resume image, if one has been written (R691); the IMAGE_LOAD in progress; the lt at which the
scrubber's pass started, its corrected errors and whether source 890 has been raised for it (R695); ticks since the image of
a PE started, and the lt at which the next falls due (R623); the word whose uncorrectable error an access has found and reported,
until that access (log 95). -/
structure Boot where
  mainOn : Bool := false
  resetting : Bool := true
  attempt : Nat := 0
  verifying : Option (List Byte) := none
  running : List Byte := []
  resume : Option Nat := none
  image : Option ImageCmd := none
  passAt : Nat := 0
  ceDone : Bool := false
  cePass : Nat := 0
  tick : Tab Nat := []
  tickDue : Tab Nat := []
  found : Option (Nat × Nat) := none
deriving DecidableEq, Repr

/-- The machine. -/
structure State where
  /-- commands waiting, first in, first out (the model's own) -/
  pending : List Instr := []
  /-- draws of free values made so far (the model's own, log 1) -/
  free : Nat := 0
  /-- the value the last read returned (the model's own, log 3) -/
  readData : Word := 0
  /-- lane clock ticks since power-up (R17, log 2) -/
  now : Nat := 0
  regs : Tab Word := []
  mem : List Host.Cell := []
  hostMem0 : List Host.Cell := []
  hostMem1 : List Host.Cell := []
  tbs : Tab TimeBase := []
  tbCap : Tab (Nat × Nat) := []
  /-- the time-base block has left its set-up state (R463); time distribution and the transparent clock run (R464) -/
  timeUp : Bool := false
  timeDist : Bool := false
  /-- the multiple of PERIOD last passed, for each distribution channel (R487, R490) -/
  bdq : Tab Nat := []
  lanes : Tab Lane := []
  pins : Tab PinEng := []
  buses : Tab (List Entry) := []
  /-- the SQ from which a descriptor of bus n was fetched last, plus 1 (R192) -/
  txTurn : Tab Nat := []
  nextEnt : Nat := 0
  /-- completions of entries so far, to order trailing copies (R258) -/
  nextDone : Nat := 0
  fetched : List Fetched := []
  seWait : List SeWait := []
  objs : Tab Obj := []
  fltLoads : Tab (Option FltLoad) := []
  /-- the element cache of each logical bus (R231) -/
  caches : Tab FltCache := []
  rtLoad : Option RunLoad := none
  polLoad : Option RunLoad := none
  /-- times route entry n has been loaded (R305, R317) -/
  routeGen : Tab Nat := []
  kills : Tab Nat := []
  killDue : Option Nat := none
  voqs : Tab (List VoqItem) := []
  ctqs : Tab (List (Nat × Nat)) := []
  ptrs : Tab ColPtr := []
  cells : Tab Cell := []
  frames : Tab FirnFrame := []
  nextFid : Nat := 0
  /-- received frames that have become valid so far, to order completions (R393) -/
  nextValid : Nat := 0
  charged : Tab Nat := []
  avg : Tab Nat := []
  lfsr : Tab (BitVec 16) := []
  buckets : Tab Policer := []
  cqHeld : Tab Nat := []
  lowCond : Bool := false
  chargeSeen : Tab Nat := []
  /-- the cell that the sweep compares next (R348) -/
  sweepAt : Nat := 0
  sqs : Tab Sq := []
  cqs : Tab Cq := []
  funcs : Tab Func := []
  held : List Held := []
  srcs : Tab Src := []
  tgts : Tab Tgt := []
  mor : Moraine := {}
  stack : Stack := {}
  eths : Tab EthPort := []
  snow : Snow := {}
  power : Power := {}
  boot : Boot := {}
  poison : List (Nat × Nat) := []
  engs : Tab Eng := []
deriving DecidableEq, Repr

/-- Right after VAON is applied (R448, R682): nothing has run, Snowline is about to start the wake sequence with
cause COLD, every register at its reset value (log 3), every memory byte as an unlisted byte reads (log 4), the
queue empty. -/
def State.reset : State := {}

end Sys2Proof.Machine
end

