-- ==== Sys2Proof/Machine/Ops.lean ====
section
/-! DEFINITION. The named operations over registers, memories and tables that every meaning uses. -/
namespace Sys2Proof.Machine

/-! Words and fields of the register map -/

/-- The stored word at byte offset `a` of BAR0. -/
def State.reg (s : State) (a : Nat) : Word := Tab.get regReset s.regs a

/-- Store a word of the register map. -/
def State.setReg (s : State) (a : Nat) (v : Word) : State := { s with regs := Tab.put regReset s.regs a v }

/-- Bits `[lsb, lsb + w)` of a word. -/
def bitsOf (v : Word) (lsb w : Nat) : Nat := (v.extractLsb' lsb w).toNat

/-- A word with bits `[lsb, lsb + w)` replaced. -/
def putBits (v : Word) (lsb w x : Nat) : Word :=
  let m : Word := BitVec.ofNat 32 ((2 ^ w - 1) * 2 ^ lsb)
  (v &&& ~~~m) ||| (BitVec.ofNat 32 (x * 2 ^ lsb) &&& m)

/-- The value of a field. A field that crosses a word boundary goes on in the next word. -/
def State.f (s : State) (x : Fld) : Nat :=
  if x.lsb + x.w ≤ 32 then bitsOf (s.reg x.off) x.lsb x.w
  else ((s.reg (x.off + 4) ++ s.reg x.off : BitVec 64).extractLsb' x.lsb x.w).toNat

/-- A one-bit field as a Bool. -/
def State.fb (s : State) (x : Fld) : Bool := s.f x == 1

/-- Set a field; bits of the value above the field's width are dropped. -/
def State.setF (s : State) (x : Fld) (v : Nat) : State :=
  if x.lsb + x.w ≤ 32 then s.setReg x.off (putBits (s.reg x.off) x.lsb x.w v)
  else
    let lo := 32 - x.lsb
    let s1 := s.setReg x.off (putBits (s.reg x.off) x.lsb lo v)
    s1.setReg (x.off + 4) (putBits (s1.reg (x.off + 4)) 0 (x.w - lo) (v / 2 ^ lo))

/-- Set a one-bit field. -/
def State.setB (s : State) (x : Fld) (b : Bool) : State := s.setF x b.toNat

/-- Add to a counter that holds at its greatest value. -/
def State.satAdd (s : State) (x : Fld) (n : Nat) : State := s.setF x (min (s.f x + n) (2 ^ x.w - 1))

/-- Add 1 to a counter that wraps. -/
def State.wrapInc (s : State) (x : Fld) : State := s.setF x ((s.f x + 1) % 2 ^ x.w)

/-- CLAMP_COUNT of function `f` grows by `n` (R7, R410). -/
def State.clamp (s : State) (f n : Nat) : State := s.satAdd (F.HOST_CLAMP.CLAMP_COUNT f) n

/-- One clamp or ignored write of the agent; engines have no CLAMP_COUNT (14, "Registers"). -/
def State.clampBy (s : State) (w : Agent) : State :=
  match w with
  | .host f => s.clamp f 1
  | .engine _ => s

/-! Fields of the state set whole -/

/-- Set `kills`. -/
def State.withKills (s : State) (v : Tab Nat) : State := { s with kills := v }

/-- Set `nextDone`. -/
def State.withNextDone (s : State) (v : Nat) : State := { s with nextDone := v }

/-- Set `timeUp`. -/
def State.withTimeUp (s : State) (v : Bool) : State := { s with timeUp := v }

/-- Set `timeDist`. -/
def State.withTimeDist (s : State) (v : Bool) : State := { s with timeDist := v }

/-- Set `free`. -/
def State.withFree (s : State) (v : Nat) : State := { s with free := v }

/-- Set `readData`. -/
def State.withReadData (s : State) (v : Word) : State := { s with readData := v }

/-- Set `now`. -/
def State.withNow (s : State) (v : Nat) : State := { s with now := v }

/-- Set `mem`. -/
def State.withMem (s : State) (v : List Host.Cell) : State := { s with mem := v }

/-- Set `hostMem0`. -/
def State.withHostMem0 (s : State) (v : List Host.Cell) : State := { s with hostMem0 := v }

/-- Set `hostMem1`. -/
def State.withHostMem1 (s : State) (v : List Host.Cell) : State := { s with hostMem1 := v }

/-- Set `nextEnt`. -/
def State.withNextEnt (s : State) (v : Nat) : State := { s with nextEnt := v }

/-- Set `fetched`. -/
def State.withFetched (s : State) (v : List Fetched) : State := { s with fetched := v }

/-- Set `seWait`. -/
def State.withSeWait (s : State) (v : List SeWait) : State := { s with seWait := v }

/-- Set `rtLoad`. -/
def State.withRtLoad (s : State) (v : Option RunLoad) : State := { s with rtLoad := v }

/-- Set `polLoad`. -/
def State.withPolLoad (s : State) (v : Option RunLoad) : State := { s with polLoad := v }

/-- Set `killDue`. -/
def State.withKillDue (s : State) (v : Option Nat) : State := { s with killDue := v }

/-- Set `nextFid`. -/
def State.withNextFid (s : State) (v : Nat) : State := { s with nextFid := v }

/-- Set `lowCond`. -/
def State.withLowCond (s : State) (v : Bool) : State := { s with lowCond := v }

/-- Set `nextValid`. -/
def State.withNextValid (s : State) (v : Nat) : State := { s with nextValid := v }

/-- Set `sweepAt`. -/
def State.withSweepAt (s : State) (v : Nat) : State := { s with sweepAt := v }

/-- Set `held`. -/
def State.withHeld (s : State) (v : List Held) : State := { s with held := v }

/-- Set `mor`. -/
def State.withMor (s : State) (v : Moraine) : State := { s with mor := v }

/-- Set `stack`. -/
def State.withStack (s : State) (v : Stack) : State := { s with stack := v }

/-- Set `snow`. -/
def State.withSnow (s : State) (v : Snow) : State := { s with snow := v }

/-- Set `power`. -/
def State.withPower (s : State) (v : Power) : State := { s with power := v }

/-- Set `boot`. -/
def State.withBoot (s : State) (v : Boot) : State := { s with boot := v }

/-- Set `poison`. -/
def State.withPoison (s : State) (v : List (Nat × Nat)) : State := { s with poison := v }

/-! Tables -/

/-- Time base `k`. -/
def State.tb (s : State) (k : Nat) : TimeBase := Tab.get (fun _ => {}) s.tbs k

/-- Store it. -/
def State.setTb (s : State) (k : Nat) (v : TimeBase) : State :=
  { s with tbs := Tab.put (fun _ => {}) s.tbs k v }

/-- Change it. -/
def State.modTb (s : State) (k : Nat) (g : TimeBase → TimeBase) : State := s.setTb k (g (s.tb k))

/-- Lane `k` beside its registers. -/
def State.lane (s : State) (k : Nat) : Lane := Tab.get (fun _ => {}) s.lanes k

/-- Store it. -/
def State.setLane (s : State) (k : Nat) (v : Lane) : State :=
  { s with lanes := Tab.put (fun _ => {}) s.lanes k v }

/-- Change it. -/
def State.modLane (s : State) (k : Nat) (g : Lane → Lane) : State := s.setLane k (g (s.lane k))

/-- Pin engine of lane `k`. -/
def State.pin (s : State) (k : Nat) : PinEng := Tab.get (fun _ => {}) s.pins k

/-- Store it. -/
def State.setPin (s : State) (k : Nat) (v : PinEng) : State :=
  { s with pins := Tab.put (fun _ => {}) s.pins k v }

/-- Change it. -/
def State.modPin (s : State) (k : Nat) (g : PinEng → PinEng) : State := s.setPin k (g (s.pin k))

/-- The transmit order of logical bus `k`, in order of entry (R190). -/
def State.bus (s : State) (k : Nat) : List Entry := Tab.get (fun _ => []) s.buses k

/-- Store it. -/
def State.setBus (s : State) (k : Nat) (v : List Entry) : State :=
  { s with buses := Tab.put (fun _ => []) s.buses k v }

/-- Change it. -/
def State.modBus (s : State) (k : Nat) (g : List Entry → List Entry) : State := s.setBus k (g (s.bus k))

/-- The SQ whose descriptor of bus `k` was fetched last, plus 1 (R192). -/
def State.turn (s : State) (k : Nat) : Nat := Tab.get (fun _ => 0) s.txTurn k

/-- Store it. -/
def State.setTurn (s : State) (k : Nat) (v : Nat) : State :=
  { s with txTurn := Tab.put (fun _ => 0) s.txTurn k v }

/-- Change it. -/
def State.modTurn (s : State) (k : Nat) (g : Nat → Nat) : State := s.setTurn k (g (s.turn k))

/-- Object `q * 1024 + o` beside its words. -/
def State.obj (s : State) (k : Nat) : Obj := Tab.get (fun _ => {}) s.objs k

/-- Store it. -/
def State.setObj (s : State) (k : Nat) (v : Obj) : State :=
  { s with objs := Tab.put (fun _ => {}) s.objs k v }

/-- Change it. -/
def State.modObj (s : State) (k : Nat) (g : Obj → Obj) : State := s.setObj k (g (s.obj k))

/-- The pending FLT_LOAD of logical bus `k`. -/
def State.flt (s : State) (k : Nat) : Option FltLoad := Tab.get (fun _ => none) s.fltLoads k

/-- Store it. -/
def State.setFlt (s : State) (k : Nat) (v : Option FltLoad) : State :=
  { s with fltLoads := Tab.put (fun _ => none) s.fltLoads k v }

/-- Change it. -/
def State.modFlt (s : State) (k : Nat) (g : Option FltLoad → Option FltLoad) : State := s.setFlt k (g (s.flt k))

/-- The element cache of logical bus `k`. -/
def State.cache (s : State) (k : Nat) : FltCache := Tab.get (fun _ => {}) s.caches k

/-- Store it. -/
def State.setCache (s : State) (k : Nat) (v : FltCache) : State :=
  { s with caches := Tab.put (fun _ => {}) s.caches k v }

/-- Change it. -/
def State.modCache (s : State) (k : Nat) (g : FltCache → FltCache) : State := s.setCache k (g (s.cache k))

/-- How often route entry `k` has been loaded. -/
def State.gen (s : State) (k : Nat) : Nat := Tab.get (fun _ => 0) s.routeGen k

/-- Store it. -/
def State.setGen (s : State) (k : Nat) (v : Nat) : State :=
  { s with routeGen := Tab.put (fun _ => 0) s.routeGen k v }

/-- Change it. -/
def State.modGen (s : State) (k : Nat) (g : Nat → Nat) : State := s.setGen k (g (s.gen k))

/-- Kills of route `k` in the running window (R316). -/
def State.killsOf (s : State) (k : Nat) : Nat := Tab.get (fun _ => 0) s.kills k

/-- Store it. -/
def State.setKillsOf (s : State) (k : Nat) (v : Nat) : State :=
  { s with kills := Tab.put (fun _ => 0) s.kills k v }

/-- Change it. -/
def State.modKillsOf (s : State) (k : Nat) (g : Nat → Nat) : State := s.setKillsOf k (g (s.killsOf k))

/-- VOQ `(input * 40 + output) * 4 + class` (R282). -/
def State.voq (s : State) (k : Nat) : List VoqItem := Tab.get (fun _ => []) s.voqs k

/-- Store it. -/
def State.setVoq (s : State) (k : Nat) (v : List VoqItem) : State :=
  { s with voqs := Tab.put (fun _ => []) s.voqs k v }

/-- Change it. -/
def State.modVoq (s : State) (k : Nat) (g : List VoqItem → List VoqItem) : State := s.setVoq k (g (s.voq k))

/-- Cut-through queue `input * 40 + output` (R283): frames and the cells each has still to move. -/
def State.ctq (s : State) (k : Nat) : List (Nat × Nat) := Tab.get (fun _ => []) s.ctqs k

/-- Store it. -/
def State.setCtq (s : State) (k : Nat) (v : List (Nat × Nat)) : State :=
  { s with ctqs := Tab.put (fun _ => []) s.ctqs k v }

/-- Change it. -/
def State.modCtq (s : State) (k : Nat) (g : List (Nat × Nat) → List (Nat × Nat)) : State := s.setCtq k (g (s.ctq k))

/-- Pointers of sub-port `2 * port + x` (R285, R286). -/
def State.ptr (s : State) (k : Nat) : ColPtr := Tab.get (fun _ => {}) s.ptrs k

/-- Store it. -/
def State.setPtr (s : State) (k : Nat) (v : ColPtr) : State :=
  { s with ptrs := Tab.put (fun _ => {}) s.ptrs k v }

/-- Change it. -/
def State.modPtr (s : State) (k : Nat) (g : ColPtr → ColPtr) : State := s.setPtr k (g (s.ptr k))

/-- Firn cell `k`. -/
def State.cell (s : State) (k : Nat) : Cell := Tab.get (fun _ => {}) s.cells k

/-- Store it. -/
def State.setCell (s : State) (k : Nat) (v : Cell) : State :=
  { s with cells := Tab.put (fun _ => {}) s.cells k v }

/-- Change it. -/
def State.modCell (s : State) (k : Nat) (g : Cell → Cell) : State := s.setCell k (g (s.cell k))

/-- Firn frame `k`. -/
def State.frame (s : State) (k : Nat) : FirnFrame := Tab.get (fun _ => {}) s.frames k

/-- Store it. -/
def State.setFrame (s : State) (k : Nat) (v : FirnFrame) : State :=
  { s with frames := Tab.put (fun _ => {}) s.frames k v }

/-- Change it. -/
def State.modFrame (s : State) (k : Nat) (g : FirnFrame → FirnFrame) : State := s.setFrame k (g (s.frame k))

/-- CHARGED(p, c) at `p * 4 + c` (R327). -/
def State.chg (s : State) (k : Nat) : Nat := Tab.get (fun _ => 0) s.charged k

/-- Store it. -/
def State.setChg (s : State) (k : Nat) (v : Nat) : State :=
  { s with charged := Tab.put (fun _ => 0) s.charged k v }

/-- Change it. -/
def State.modChg (s : State) (k : Nat) (g : Nat → Nat) : State := s.setChg k (g (s.chg k))

/-- avg(p, c) in 1/256 cell at `p * 4 + c` (R341). -/
def State.avgOf (s : State) (k : Nat) : Nat := Tab.get (fun _ => 0) s.avg k

/-- Store it. -/
def State.setAvgOf (s : State) (k : Nat) (v : Nat) : State :=
  { s with avg := Tab.put (fun _ => 0) s.avg k v }

/-- Change it. -/
def State.modAvgOf (s : State) (k : Nat) (g : Nat → Nat) : State := s.setAvgOf k (g (s.avgOf k))

/-- The LFSR of output `k` (R342). -/
def State.lfsrOf (s : State) (k : Nat) : BitVec 16 := Tab.get (fun _ => 0xACE1#16) s.lfsr k

/-- Store it. -/
def State.setLfsrOf (s : State) (k : Nat) (v : BitVec 16) : State :=
  { s with lfsr := Tab.put (fun _ => 0xACE1#16) s.lfsr k v }

/-- Change it. -/
def State.modLfsrOf (s : State) (k : Nat) (g : BitVec 16 → BitVec 16) : State := s.setLfsrOf k (g (s.lfsrOf k))

/-- The buckets of policer `k` (R337). -/
def State.bucket (s : State) (k : Nat) : Policer := Tab.get (fun _ => {}) s.buckets k

/-- Store it. -/
def State.setBucket (s : State) (k : Nat) (v : Policer) : State :=
  { s with buckets := Tab.put (fun _ => {}) s.buckets k v }

/-- Change it. -/
def State.modBucket (s : State) (k : Nat) (g : Policer → Policer) : State := s.setBucket k (g (s.bucket k))

/-- HELD(n) of CQ `k` (R330). -/
def State.heldOf (s : State) (k : Nat) : Nat := Tab.get (fun _ => 0) s.cqHeld k

/-- Store it. -/
def State.setHeldOf (s : State) (k : Nat) (v : Nat) : State :=
  { s with cqHeld := Tab.put (fun _ => 0) s.cqHeld k v }

/-- Change it. -/
def State.modHeldOf (s : State) (k : Nat) (g : Nat → Nat) : State := s.setHeldOf k (g (s.heldOf k))

/-- CHARGED mismatch seen on the last pass, as pass + 1. -/
def State.chgSeen (s : State) (k : Nat) : Nat := Tab.get (fun _ => 0) s.chargeSeen k

/-- Store it. -/
def State.setChgSeen (s : State) (k : Nat) (v : Nat) : State :=
  { s with chargeSeen := Tab.put (fun _ => 0) s.chargeSeen k v }

/-- Change it. -/
def State.modChgSeen (s : State) (k : Nat) (g : Nat → Nat) : State := s.setChgSeen k (g (s.chgSeen k))

/-- SQ `k`. -/
def State.sq (s : State) (k : Nat) : Sq := Tab.get (fun _ => {}) s.sqs k

/-- Store it. -/
def State.setSq (s : State) (k : Nat) (v : Sq) : State :=
  { s with sqs := Tab.put (fun _ => {}) s.sqs k v }

/-- Change it. -/
def State.modSq (s : State) (k : Nat) (g : Sq → Sq) : State := s.setSq k (g (s.sq k))

/-- CQ `k`. -/
def State.cq (s : State) (k : Nat) : Cq := Tab.get (fun _ => {}) s.cqs k

/-- Store it. -/
def State.setCq (s : State) (k : Nat) (v : Cq) : State :=
  { s with cqs := Tab.put (fun _ => {}) s.cqs k v }

/-- Change it. -/
def State.modCq (s : State) (k : Nat) (g : Cq → Cq) : State := s.setCq k (g (s.cq k))

/-- Host function `k` beside its register block. -/
def State.func (s : State) (k : Nat) : Func := Tab.get (fun _ => {}) s.funcs k

/-- Store it. -/
def State.setFunc (s : State) (k : Nat) (v : Func) : State :=
  { s with funcs := Tab.put (fun _ => {}) s.funcs k v }

/-- Change it. -/
def State.modFunc (s : State) (k : Nat) (g : Func → Func) : State := s.setFunc k (g (s.func k))

/-- Cirque source `k`. -/
def State.src (s : State) (k : Nat) : Src := Tab.get (fun _ => {}) s.srcs k

/-- Store it. -/
def State.setSrc (s : State) (k : Nat) (v : Src) : State :=
  { s with srcs := Tab.put (fun _ => {}) s.srcs k v }

/-- Change it. -/
def State.modSrc (s : State) (k : Nat) (g : Src → Src) : State := s.setSrc k (g (s.src k))

/-- Cirque target `k`. -/
def State.tgt (s : State) (k : Nat) : Tgt := Tab.get (fun _ => {}) s.tgts k

/-- Store it. -/
def State.setTgt (s : State) (k : Nat) (v : Tgt) : State :=
  { s with tgts := Tab.put (fun _ => {}) s.tgts k v }

/-- Change it. -/
def State.modTgt (s : State) (k : Nat) (g : Tgt → Tgt) : State := s.setTgt k (g (s.tgt k))

/-- Ethernet port `k` beside its registers. -/
def State.eth (s : State) (k : Nat) : EthPort := Tab.get (fun _ => {}) s.eths k

/-- Store it. -/
def State.setEth (s : State) (k : Nat) (v : EthPort) : State :=
  { s with eths := Tab.put (fun _ => {}) s.eths k v }

/-- Change it. -/
def State.modEth (s : State) (k : Nat) (g : EthPort → EthPort) : State := s.setEth k (g (s.eth k))

/-- Engine `k`. -/
def State.eng (s : State) (k : Nat) : Eng := Tab.get (fun _ => {}) s.engs k

/-- Store it. -/
def State.setEng (s : State) (k : Nat) (v : Eng) : State :=
  { s with engs := Tab.put (fun _ => {}) s.engs k v }

/-- Change it. -/
def State.modEng (s : State) (k : Nat) (g : Eng → Eng) : State := s.setEng k (g (s.eng k))

/-- Multiples of PERIOD passed by distribution channel `k`. -/
def State.bd (s : State) (k : Nat) : Nat := Tab.get (fun _ => 0) s.bdq k

/-- Store it. -/
def State.setBd (s : State) (k : Nat) (v : Nat) : State :=
  { s with bdq := Tab.put (fun _ => 0) s.bdq k v }

/-- Change it. -/
def State.modBd (s : State) (k : Nat) (g : Nat → Nat) : State := s.setBd k (g (s.bd k))

/-- The TB_TIME capture of reader `k` (R474): low and high 64 bits. -/
def State.cap (s : State) (k : Nat) : Nat × Nat := Tab.get (fun _ => (0, 0)) s.tbCap k

/-- Store it. -/
def State.setCap (s : State) (k : Nat) (v : Nat × Nat) : State :=
  { s with tbCap := Tab.put (fun _ => (0, 0)) s.tbCap k v }

/-- Change it. -/
def State.modCap (s : State) (k : Nat) (g : Nat × Nat → Nat × Nat) : State := s.setCap k (g (s.cap k))

/-! Memory: engine addresses (R46), attached memory from `dramBase` (log 4) -/

/-- Where attached memory lies among the keys of `State.mem`. -/
def dramBase : Nat := 0x100000000

/-- Every byte reads 0 until written (log 4). -/
def memReset (_ : Nat) : Byte := 0

/-- A byte of RAM. -/
def State.rd8 (s : State) (a : Nat) : Byte := Tab.get memReset s.mem a

/-- Write a byte of RAM. -/
def State.wr8 (s : State) (a : Nat) (v : Byte) : State := s.withMem (Tab.put memReset s.mem a v)

/-- A 32-bit word of RAM, little-endian (R10, R580). -/
def State.rd32 (s : State) (a : Nat) : Word :=
  wordOfBytes (s.rd8 a) (s.rd8 (a + 1)) (s.rd8 (a + 2)) (s.rd8 (a + 3))

/-- Write a word of RAM. -/
def State.wr32 (s : State) (a : Nat) (v : Word) : State :=
  (((s.wr8 a (byteOfWord v 0)).wr8 (a + 1) (byteOfWord v 1)).wr8 (a + 2) (byteOfWord v 2)).wr8 (a + 3) (byteOfWord v 3)

/-- Write consecutive bytes. -/
def State.wrBytes (s : State) (a : Nat) : List Byte → State
  | [] => s
  | b :: bs => (s.wr8 a b).wrBytes (a + 1) bs

/-- Read `n` consecutive bytes. -/
def State.rdBytes (s : State) (a n : Nat) : List Byte := (List.range n).map fun i => s.rd8 (a + i)

/-- The canonical form of memory. -/
def Memory.wf (m : List Host.Cell) : Bool := Tab.wf memReset m

/-- Bytes of a word, byte 0 first. -/
def wordBytes (w : Word) : List Byte := [byteOfWord w 0, byteOfWord w 1, byteOfWord w 2, byteOfWord w 3]

/-- Consecutive words as bytes, little-endian (R10). -/
def wordsBytes (ws : List Word) : List Byte := ws.flatMap wordBytes

/-- Post bytes to the memory of function `f` (R371). -/
def State.post (s : State) (f a : Nat) (bs : List Byte) : State :=
  let ins (m : List Host.Cell) : List Host.Cell :=
    (bs.zipIdx).foldl (fun m b => Tab.ins m (a + b.2) b.1) m
  if f = 0 then s.withHostMem0 (ins s.hostMem0) else s.withHostMem1 (ins s.hostMem1)

/-! Poisoned words (R694): memory code and unit as `256 * code + unit`, and the word offset -/

/-- The pin of bit `b` of SNOW_STAT has level `v` now (R457). -/
def State.setLevel (s : State) (b : Nat) (v : Bool) : State :=
  s.withSnow { s.snow with lvls := Tab.ins s.snow.lvls b (v, s.now) }

/-- The word is poisoned. -/
def State.poisoned (s : State) (m u a : Nat) : Bool := s.poison.contains (256 * m + u, a)

/-- A write clears the mark (R694). -/
def State.heal (s : State) (m u a : Nat) : State :=
  s.withPoison (s.poison.filter fun x => !(decide (x = (256 * m + u, a))))

/-- A write of `n` words from word `a` on clears their marks. -/
def State.healRun (s : State) (m u a n : Nat) : State :=
  s.withPoison (s.poison.filter fun x => !(decide (x.1 = 256 * m + u) && decide (a ≤ x.2) && decide (x.2 < a + n)))

/-! Free values -/

/-- Draw a fresh word the spec leaves open (log 1). -/
def State.drawWord (s : State) : Word × State := (Config.freeWord s.free, s.withFree (s.free + 1))

/-- Draw a fresh cell number the spec leaves open (log 8). -/
def State.drawCell (s : State) : Nat × State := ((Config.freeCell s.free).toNat, s.withFree (s.free + 1))

/-! Time -/

/-- Units of a base's value in one nanosecond (R461). -/
def nsUnit : Nat := 16777216

/-- Units in a second. -/
def secUnit : Nat := 1000000000 * nsUnit

/-- Where a base's value wraps (R461). -/
def tbWrap : Nat := 281474976710656 * secUnit

/-- Lane clock ticks in a millisecond and in a microsecond (00, "Notation"). -/
def ltMs : Nat := 320000
def ltUs : Nat := 320

/-- What a clock shows: the interval count of a base (R465), or the lane clock. -/
def State.clock (s : State) : Option Nat → Nat
  | some b => (s.tb b).elapsed
  | none => s.now

/-- A timer of `units` on a clock. -/
def State.after (s : State) (base : Option Nat) (units : Nat) : Timer := ⟨base, s.clock base + units⟩

/-- Whether a timer has run out. -/
def State.ranOut (s : State) (t : Timer) : Bool := decide (t.due ≤ s.clock t.base)

/-- Whether a timer had run out before this lt: an expiry that a table of coincidences puts after another event of its lt
takes effect once that lt is over (R207, R563, log 7). -/
def State.overrun (s : State) (t : Timer) : Bool :=
  match t.base with
  | some b => decide (t.due ≤ (s.tb b).before)
  | none => decide (t.due < s.now)

/-- The same of an optional timer that runs. -/
def State.overrun? (s : State) : Option Timer → Bool
  | some t => s.overrun t
  | none => false

/-- Whether an optional timer is running and has run out. -/
def State.ranOut? (s : State) : Option Timer → Bool
  | some t => s.ranOut t
  | none => false

/-- Milliseconds and microseconds on a time base, in its units. -/
def tbMs (n : Nat) : Nat := n * 1000000 * nsUnit
def tbUs (n : Nat) : Nat := n * 1000 * nsUnit

/-- Seconds and nanoseconds of a value, truncated (R478). -/
def stampOf (v : Nat) : Stamp := ⟨v / secUnit % 281474976710656, v % secUnit / nsUnit⟩

/-- The two words of a short stamp (R478). -/
def Stamp.secWord (t : Stamp) : Word := BitVec.ofNat 32 t.sec
def Stamp.nsWord (t : Stamp) : Word := BitVec.ofNat 32 t.ns

/-- A correction in 1/160 ns in units of a base, taken at the fraction of R461 and rounded to 1/65,536 ns (R478, log 11). -/
def corrUnits (c160 : Int) : Int := (c160 * 4096 + 5) / 10 * 256

/-- A value moved by a correction in 1/160 ns. -/
def corrected (v : Nat) (c160 : Int) : Nat := (((v : Int) + corrUnits c160) % (tbWrap : Int)).toNat

/-- What a slew adds in `n` ticks (R466): at most what remains. -/
def TimeBase.slewAdds (t : TimeBase) (incr rate n : Nat) : Int :=
  let mag : Int := (52428800 * rate / 1000000 : Nat)
  let sgn : Int := if 0 ≤ t.slewRem then 1 else -1
  let sum : Int := max 52323943 (min 52533657 ((incr : Int) + sgn * mag))
  let extra : Int := (sum - incr) * n
  if sgn * t.slewRem < sgn * extra then t.slewRem else extra

/-- One lane clock tick of base `n`: TB_INCR and the slew (R461, R466). -/
def TimeBase.tick (t : TimeBase) (incr rate : Nat) (active : Bool) : TimeBase :=
  if active && !(decide (t.slewRem = 0)) then
    let extra := t.slewAdds incr rate 1
    let step := ((incr : Int) + extra).toNat
    { t with val := (t.val + step) % tbWrap, elapsed := t.elapsed + step, before := t.elapsed, slewRem := t.slewRem - extra }
  else { t with val := (t.val + incr) % tbWrap, elapsed := t.elapsed + incr, before := t.elapsed }

/-- The interval count of base `n` in `k` ticks, if nothing changes its rate or its slew (R465, R466). -/
def State.countIn (s : State) (n k : Nat) : Nat :=
  let t := s.tb n
  let incr := s.f (F.TB_INCR.INCR n)
  let adds : Int := if s.fb (F.TB_SLEW.ACTIVE n) then t.slewAdds incr (s.f (F.TB_SLEW.RATE n)) k else 0
  (((t.elapsed + k * incr : Nat) : Int) + adds).toNat

/-- A lane clock tick of every base from `n` down. -/
def State.tickBases (s : State) : Nat → State
  | 0 => s
  | n + 1 =>
    let s := s.modTb n fun t =>
      t.tick (s.f (F.TB_INCR.INCR n)) (s.f (F.TB_SLEW.RATE n)) (s.fb (F.TB_SLEW.ACTIVE n))
    s.tickBases n

/-- One RTC period: TICKS counts, and with RTC_EN 1 the alarm fires where TICKS becomes equal to ALARM (R447). -/
def State.rtcTick (s : State) : State :=
  let s := s.wrapInc F.SNOW_RTC.TICKS
  if s.fb F.SNOW_CTRL.RTC_EN && s.f F.SNOW_RTC.TICKS == s.f F.SNOW_ALARM.ALARM then
    s.withSnow { s.snow with alarm := true }
  else s

/-- One tick of the lane clock: what a step does on an empty queue (log 2). The lane clock and the bases run
while the main domain is on; the RTC always runs, one period every 9,765.625 lt (R17, R447). -/
def State.tick (s : State) : State :=
  let s := if s.boot.mainOn then s.tickBases 8 else s
  let p := s.snow.rtcPhase + 8
  let s := (s.withNow (s.now + 1)).withSnow { s.snow with rtcPhase := p % 78125 }
  if p < 78125 then s else s.rtcTick

/-! Quads, lanes and logical buses -/

/-- QUAD4, QUAD2D or QUADPAIR (R25). -/
def State.quadMode (s : State) (q : Nat) : Nat := s.f (F.QUAD_CTRL.MODE q)

/-- `n` names a logical bus (R2, R3). -/
def State.isBus (s : State) (n : Nat) : Bool := decide (s.quadMode (n / 4) = 0) || n % 2 == 0

/-- The logical bus of a lane: the A lane's number for a pair (00, "Words used throughout"). -/
def State.busOf (s : State) (l : Nat) : Nat := if s.quadMode (l / 4) = 2 then l / 2 * 2 else l

/-- The clamp of R3 and R169. -/
def State.clampBus (s : State) (n : Nat) : Nat := if s.isBus n then n else n / 2 * 2

/-- Bus `b` is a pair. -/
def State.isPair (s : State) (b : Nat) : Bool := s.quadMode (b / 4) == 2

/-- The lanes that serve a logical bus. -/
def State.lanesOf (s : State) (b : Nat) : List Nat := if s.isPair b then [b, b + 1] else [b]

/-- The time base bound to a lane (R400); a pair's is the A lane's (R249). -/
def State.baseOf (s : State) (l : Nat) : Nat := s.f (F.LANE_TS_MODE.TB (s.busOf l))

/-- Lane is active in its quad's mode (R25, R26). -/
def State.laneActive (s : State) (l : Nat) : Bool := !(s.quadMode (l / 4) == 1 && l % 2 == 1)

/-- Every lane of the quad is in OFF (R25). -/
def State.quadOff (s : State) (q : Nat) : Bool := (List.range 4).all fun k => s.f (F.LANE_STATE.STATE (4 * q + k)) == 0

/-- Line buffers of 2,176 bytes that lane `l` has each way in its quad's mode: `n` receive and `n` transmit (R25, R28). -/
def State.lineBuffers (s : State) (l : Nat) : Nat :=
  if !(s.laneActive l) then 0 else if s.quadMode (l / 4) = 1 ∨ l < 16 then 4 else 2

/-- The lanes whose line buffers serve lane `l`: in QUAD2D an inactive lane's serve its neighbour (R26). -/
def State.lbUnits (s : State) (l : Nat) : List Nat :=
  if s.lineBuffers l = 0 then [] else if s.quadMode (l / 4) = 1 then [l, l + 1] else [l]

/-- A word of the line buffers that serve lane `l` is poisoned; the spec does not say which buffer a word belongs to, and
the next frame that the lane reads from them meets it (log 14). -/
def State.lbPoisoned (s : State) (l : Nat) : Bool :=
  s.poison.any fun x => (s.lbUnits l).any fun u => decide (x.1 = 768 + u)

/-- The frame is gone and the next one is written over it. -/
def State.lbHeal (s : State) (l : Nat) : State :=
  s.withPoison (s.poison.filter fun x => !((s.lbUnits l).any fun u => decide (x.1 = 768 + u)))

/-- Bitwise helper: bits `[lo, lo + w)` of a word as a number. -/
def fieldOf (v : Word) (lo w : Nat) : Nat := bitsOf v lo w

end Sys2Proof.Machine

namespace Sys2Proof

/-- Opcode of a descriptor or an admin command: word 0 [7:0] (09, "Descriptors"). -/
def Words8.op (d : Words8) : Nat := (d.w0.extractLsb' 0 8).toNat

/-- Format code of R138. -/
def Format.code : Format → Nat
  | .cb => 1 | .ce => 2 | .fb => 3 | .fe => 4 | .xl => 5

/-- The format of a code of R138; 0, 6 and 7 give none. -/
def Format.ofCode : Nat → Option Format
  | 1 => some .cb | 2 => some .ce | 3 => some .fb | 4 => some .fe | 5 => some .xl | _ => none

/-- An extended format. -/
def Format.ext : Format → Bool
  | .ce | .fe => true | _ => false

/-- A Classical format; an FD format. -/
def Format.classical : Format → Bool
  | .cb | .ce => true | _ => false
def Format.fd : Format → Bool
  | .fb | .fe => true | _ => false

/-- The ID as the format's width has it: 29 bits for extended formats, 11 for the others. -/
def Format.idMask (f : Format) (id : Nat) : Nat := if f.ext then id % 536870912 else id % 2048

/-- Type code of R139 of an error of R120. -/
def ErrKind.code : ErrKind → Nat
  | .bit => 1 | .stuff => 2 | .form => 3 | .ack => 4 | .crc => 5 | .pcrc => 6 | .xlFormat => 7

/-- Payload bytes an FD frame of at least `n` bytes has (R105, R172). -/
def fdSize (n : Nat) : Nat :=
  if n ≤ 8 then n else if n ≤ 12 then 12 else if n ≤ 16 then 16 else if n ≤ 20 then 20 else if n ≤ 24 then 24
  else if n ≤ 32 then 32 else if n ≤ 48 then 48 else 64

/-- Payload bytes of a frame. -/
def Frame.bytes (fr : Frame) : Nat :=
  if fr.fmt.classical then (if fr.rtr then 0 else min fr.len 8) else fr.len

/-- The arbitration key (R190). -/
def Frame.key (fr : Frame) : Nat :=
  let id := fr.id.toNat
  let r := if fr.fmt.classical && fr.rtr then 1 else 0
  if fr.fmt.ext then
    (id / 262144 % 2048) * 2097152 + 1048576 + 524288 + (id % 262144) * 2 + r
  else (id % 2048) * 2097152 + r * 1048576

/-- A frame's word 1 of an object, a descriptor or a completion: FORMAT and ID (R171). -/
def Frame.fmtId (fr : Frame) : Word := BitVec.ofNat 32 (fr.fmt.code * 536870912 + fr.fmt.idMask fr.id.toNat)

end Sys2Proof

namespace Sys2Proof.Machine

/-- The bytes of a list from `i`, `n` of them, zeros beyond its end. -/
def bytesFrom (bs : List Byte) (i n : Nat) : List Byte := (List.range n).map fun k => bs.getD (i + k) 0

/-- Word `k` of a payload, byte 0 in the low bits. -/
def payWord (bs : List Byte) (k : Nat) : Word :=
  wordOfBytes (bs.getD (4 * k) 0) (bs.getD (4 * k + 1) 0) (bs.getD (4 * k + 2) 0) (bs.getD (4 * k + 3) 0)

/-- A little-endian number from bytes. -/
def leNat (bs : List Byte) : Nat := bs.foldr (fun b n => b.toNat + 256 * n) 0

/-- A big-endian number from bytes. -/
def beNat (bs : List Byte) : Nat := bs.foldl (fun n b => 256 * n + b.toNat) 0

/-- `n` big-endian bytes of a number. -/
def beBytes (n v : Nat) : List Byte := (List.range n).map fun i => BitVec.ofNat 8 (v / 256 ^ (n - 1 - i))

/-- `n` little-endian bytes of a number. -/
def leBytes (n v : Nat) : List Byte := (List.range n).map fun i => BitVec.ofNat 8 (v / 256 ^ i)

/-- The words of a descriptor in order. -/
def wordsOf (d : Words8) : List Word := [d.w0, d.w1, d.w2, d.w3, d.w4, d.w5, d.w6, d.w7]

/-- The 64-bit value of two words. -/
def pair64 (lo hi : Word) : Nat := lo.toNat + 4294967296 * hi.toNat

/-- Clamp to a range, with the count of R7. -/
def clampTo (lo hi v : Nat) : Nat × Nat := if v < lo then (lo, 1) else if hi < v then (hi, 1) else (v, 0)

/-- A signed 32-bit or 64-bit number. -/
def signed (w v : Nat) : Int := if v < 2 ^ (w - 1) then (v : Int) else (v : Int) - 2 ^ w

/-- Two's complement of a signed number in `w` bits. -/
def unsigned (w : Nat) (v : Int) : Nat := (v % (2 ^ w : Int)).toNat

end Sys2Proof.Machine
end

