-- ==== Sys2Proof/Machine/Flags.lean ====
section
/-! DEFINITION. The status word of an engine and every flag computation of its instruction set (R594, R595, R597,
R604, R605). -/
namespace Sys2Proof.Machine

/-- ST (R594). -/
def Eng.st (g : Eng) : Word :=
  BitVec.ofNat 32 (g.rc.toNat * 65536 + g.rpt.toNat * 32768 + g.trp.toNat * 16384 + g.ie.toNat * 8192 + g.il.toNat * 512 +
    g.dzt.toNat * 64 + g.sv.toNat * 32 + g.dz.toNat * 16 + g.n.toNat * 8 + g.z.toNat * 4 + g.c.toNat * 2 + g.v.toNat)

/-- ST[6:0] takes the bits of a word (POPX ST, R597). -/
def Eng.setLow (g : Eng) (w : Word) : Eng :=
  { g with dzt := w.getLsbD 6, sv := w.getLsbD 5, dz := w.getLsbD 4, n := w.getLsbD 3, z := w.getLsbD 2, c := w.getLsbD 1,
           v := w.getLsbD 0 }

/-- The whole of ST takes the bits of a word (R613 X3). -/
def Eng.setSt (g : Eng) (w : Word) : Eng :=
  { g.setLow w with rc := w.extractLsb' 16 16, rpt := w.getLsbD 15, trp := w.getLsbD 14, ie := w.getLsbD 13,
                    il := w.extractLsb' 9 4 }

/-- N and Z of a result. -/
def Eng.nz (g : Eng) (r : Word) : Eng := { g with n := r.msb, z := decide (r = 0) }

/-- V takes a value; SV is set whenever V is set to 1 (R594). -/
def Eng.setV (g : Eng) (v : Bool) : Eng := { g with v := v, sv := g.sv || v }

/-- N, Z and V. -/
def Eng.nzv (g : Eng) (r : Word) (v : Bool) : Eng := (g.nz r).setV v

/-- N, Z, C and V. -/
def Eng.nzcv (g : Eng) (r : Word) (c v : Bool) : Eng := { (g.nz r).setV v with c := c }

/-- a + b + carry: the result, C, V. -/
def addOp (a b : Word) (cin : Bool) : Word × Bool × Bool :=
  let r := a + b + BitVec.ofNat 32 cin.toNat
  (r, decide (2 ^ 32 ≤ a.toNat + b.toNat + cin.toNat), !(decide (r.toInt = a.toInt + b.toInt + (cin.toNat : Int))))

/-- a - b - borrow: the result, C as R595 has it, V. -/
def subOp (a b : Word) (bin : Bool) : Word × Bool × Bool :=
  let r := a - b - BitVec.ofNat 32 bin.toNat
  (r, decide (b.toNat + bin.toNat ≤ a.toNat), !(decide (r.toInt = a.toInt - b.toInt - (bin.toNat : Int))))

/-- An exact signed result brought into the signed range, and whether it was beyond it (R604). -/
def satOp (x : Int) : Word × Bool :=
  if x < -2147483648 then (0x80000000#32, true) else if 2147483647 < x then (0x7FFFFFFF#32, true) else (BitVec.ofInt 32 x, false)

/-- The shifts and rotates of R605. -/
inductive Shift where
  | shl | shr | sar | rol | ror
deriving DecidableEq, Repr

/-- Result and C (none: unchanged) of a shift or rotate by the count `n` (R605). -/
def shiftOp (k : Shift) (a : Word) (n : Nat) : Word × Option Bool :=
  match k with
  | .shl =>
    if n = 0 then (a, none)
    else if n ≤ 32 then (if n = 32 then 0 else a <<< n, some (a.getLsbD (32 - n))) else (0, some false)
  | .shr =>
    if n = 0 then (a, none)
    else if n ≤ 32 then (if n = 32 then 0 else a >>> n, some (a.getLsbD (n - 1))) else (0, some false)
  | .sar =>
    if n = 0 then (a, none)
    else if n < 32 then (a.sshiftRight n, some (a.getLsbD (n - 1)))
    else (if a.msb then 0xFFFFFFFF#32 else 0, some a.msb)
  | .rol =>
    let m := n % 32
    if m = 0 then (a, none) else let r := a.rotateLeft m; (r, some (r.getLsbD 0))
  | .ror =>
    let m := n % 32
    if m = 0 then (a, none) else let r := a.rotateRight m; (r, some r.msb)

/-- Flags of a shift or rotate. -/
def Eng.shiftFlags (g : Eng) (r : Word) (c : Option Bool) : Eng := { g.nz r with c := c.getD g.c }

/-- Quotient and remainder of DIV and DIVU (R597, R604); V. Division by zero is told by the caller from `b`. -/
def divOp (sgn : Bool) (a b : Word) : Word × Word × Bool :=
  if b = 0 then (0, a, false)
  else if !sgn then (a / b, a % b, false)
  else if a = 0x80000000#32 ∧ b = 0xFFFFFFFF#32 then (0x80000000#32, 0, true)
  else (BitVec.ofInt 32 (a.toInt.tdiv b.toInt), BitVec.ofInt 32 (a.toInt.tmod b.toInt), false)

/-- Leading zeros of a word (CLZ): those above the highest one among the lowest `n` bits. -/
def clzFrom (a : Word) : Nat → Nat
  | 0 => 32
  | n + 1 => if a.getLsbD n then 31 - n else clzFrom a n

/-- The bytes of a word in reverse order (BSWAP). -/
def bswapOp (a : Word) : Word := wordOfBytes (byteOfWord a 3) (byteOfWord a 2) (byteOfWord a 1) (byteOfWord a 0)

/-- Whether a condition code holds (R598). -/
def Eng.cond (g : Eng) (k : Nat) : Bool :=
  match k with
  | 0 => g.z
  | 1 => !g.z
  | 2 => g.c
  | 3 => !g.c
  | 4 => g.n
  | 5 => !g.n
  | 6 => g.v
  | 7 => !g.v
  | 8 => g.c && !g.z
  | 9 => !g.c || g.z
  | 10 => g.n == g.v
  | 11 => !(g.n == g.v)
  | 12 => !g.z && (g.n == g.v)
  | 13 => g.z || !(g.n == g.v)
  | 14 => true
  | _ => false

end Sys2Proof.Machine
end

