-- ==== Sys2Proof/Machine/Crypto.lean ====
section
/-! DEFINITION. What the verification of an image computes (16 R672): SHA-256 (FIPS 180-4) and the verification of an ECDSA
signature over the curve P-256 (FIPS 186-5). The spec names the standards; their constants are the standards' (log 13). -/
namespace Sys2Proof.Machine

/-! SHA-256 -/

/-- The round constants, eight to a row. -/
def shaK : List Word :=
  [0x428a2f98, 0x71374491, 0xb5c0fbcf, 0xe9b5dba5, 0x3956c25b, 0x59f111f1, 0x923f82a4, 0xab1c5ed5] ++
  [0xd807aa98, 0x12835b01, 0x243185be, 0x550c7dc3, 0x72be5d74, 0x80deb1fe, 0x9bdc06a7, 0xc19bf174] ++
  [0xe49b69c1, 0xefbe4786, 0x0fc19dc6, 0x240ca1cc, 0x2de92c6f, 0x4a7484aa, 0x5cb0a9dc, 0x76f988da] ++
  [0x983e5152, 0xa831c66d, 0xb00327c8, 0xbf597fc7, 0xc6e00bf3, 0xd5a79147, 0x06ca6351, 0x14292967] ++
  [0x27b70a85, 0x2e1b2138, 0x4d2c6dfc, 0x53380d13, 0x650a7354, 0x766a0abb, 0x81c2c92e, 0x92722c85] ++
  [0xa2bfe8a1, 0xa81a664b, 0xc24b8b70, 0xc76c51a3, 0xd192e819, 0xd6990624, 0xf40e3585, 0x106aa070] ++
  [0x19a4c116, 0x1e376c08, 0x2748774c, 0x34b0bcb5, 0x391c0cb3, 0x4ed8aa4a, 0x5b9cca4f, 0x682e6ff3] ++
  [0x748f82ee, 0x78a5636f, 0x84c87814, 0x8cc70208, 0x90befffa, 0xa4506ceb, 0xbef9a3f7, 0xc67178f2]

/-- The eight words of the hash in progress. -/
structure ShaState where
  a : Word
  b : Word
  c : Word
  d : Word
  e : Word
  f : Word
  g : Word
  h : Word
deriving DecidableEq, Repr

/-- The initial hash value. -/
def shaInit : ShaState :=
  ⟨0x6a09e667, 0xbb67ae85, 0x3c6ef372, 0xa54ff53a, 0x510e527f, 0x9b05688c, 0x1f83d9ab, 0x5be0cd19⟩

/-- The message schedule, newest word first: `n` words more. -/
def shaExpand (ws : List Word) : Nat → List Word
  | 0 => ws
  | n + 1 =>
    let w2 := ws.getD 1 0
    let w15 := ws.getD 14 0
    let s1 := w2.rotateRight 17 ^^^ w2.rotateRight 19 ^^^ w2 >>> 10
    let s0 := w15.rotateRight 7 ^^^ w15.rotateRight 18 ^^^ w15 >>> 3
    shaExpand ((s1 + ws.getD 6 0 + s0 + ws.getD 15 0) :: ws) n

/-- One round, with its constant and word. -/
def shaRound (x : ShaState) (kw : Word × Word) : ShaState :=
  let s1 := x.e.rotateRight 6 ^^^ x.e.rotateRight 11 ^^^ x.e.rotateRight 25
  let ch := (x.e &&& x.f) ^^^ (~~~x.e &&& x.g)
  let t1 := x.h + s1 + ch + kw.1 + kw.2
  let s0 := x.a.rotateRight 2 ^^^ x.a.rotateRight 13 ^^^ x.a.rotateRight 22
  let maj := (x.a &&& x.b) ^^^ (x.a &&& x.c) ^^^ (x.b &&& x.c)
  ⟨t1 + (s0 + maj), x.a, x.b, x.c, x.d + t1, x.e, x.f, x.g⟩

/-- The words of a block of 64 bytes, most significant byte first. -/
def shaWords (bs : List Byte) : List Word := (List.range 16).map fun i => BitVec.ofNat 32 (beNat ((bs.drop (4 * i)).take 4))

/-- One block. -/
def shaBlock (x : ShaState) (bs : List Byte) : ShaState :=
  let y := (shaK.zip (shaExpand (shaWords bs).reverse 48).reverse).foldl shaRound x
  ⟨x.a + y.a, x.b + y.b, x.c + y.c, x.d + y.d, x.e + y.e, x.f + y.f, x.g + y.g, x.h + y.h⟩

/-- `n` blocks of 64 bytes. -/
def shaBlocks (x : ShaState) (bs : List Byte) : Nat → ShaState
  | 0 => x
  | n + 1 => shaBlocks (shaBlock x (bs.take 64)) (bs.drop 64) n

/-- The message with its padding: a 1, zeros, and the length in bits. -/
def shaPad (bs : List Byte) : List Byte :=
  let n := bs.length
  bs ++ 0x80 :: List.replicate ((119 - n % 64) % 64) 0 ++ (List.range 8).map fun i => BitVec.ofNat 8 (8 * n / 256 ^ (7 - i))

/-- SHA-256 of a byte string. -/
def sha256 (bs : List Byte) : BitVec 256 :=
  let m := shaPad bs
  let x := shaBlocks shaInit m (m.length / 64)
  x.a ++ x.b ++ x.c ++ x.d ++ x.e ++ x.f ++ x.g ++ x.h

/-! ECDSA over P-256 -/

/-- The field, the constant b (a is -3), the order of the base point, and its coordinates. -/
def p256P : Nat := 0xffffffff00000001000000000000000000000000ffffffffffffffffffffffff
def p256B : Nat := 0x5ac635d8aa3a93e7b3ebbd55769886bc651d06b0cc53b0f63bce3c3e27d2604b
def p256N : Nat := 0xffffffff00000000ffffffffffffffffbce6faada7179e84f3b9cac2fc632551
def p256Gx : Nat := 0x6b17d1f2e12c4247f8bce6e563a440f277037d812deb33a0f4a13945d898c296
def p256Gy : Nat := 0x4fe342e2fe1a7f9b8ee7eb4a7c0f9e162bce33576b315ececbb6406837bf51f5

/-- `b` to the power of the low `k` bits of `e`, modulo `m`. -/
def powMod (m b : Nat) : Nat → Nat → Nat
  | 0, _ => 1 % m
  | k + 1, e =>
    let r := powMod m b k (e / 2)
    let r := r * r % m
    if e % 2 = 1 then r * b % m else r

/-- The inverse modulo a prime below 2^256. -/
def invMod (m a : Nat) : Nat := powMod m (a % m) 256 (m - 2)

/-- A point of the curve; none at infinity. -/
abbrev EcPoint := Option (Nat × Nat)

/-- On the chord or tangent of slope `l` through (`x1`, `y1`) and a point at `x2`. -/
def ecThird (l x1 y1 x2 : Nat) : EcPoint :=
  let x := (l * l + 2 * p256P - x1 - x2) % p256P
  some (x, (l * (x1 + p256P - x) + p256P - y1) % p256P)

/-- The sum of two points. -/
def ecAdd (a b : EcPoint) : EcPoint :=
  match a, b with
  | none, b => b
  | a, none => a
  | some (x1, y1), some (x2, y2) =>
    if x1 = x2 then
      if (y1 + y2) % p256P = 0 then none
      else ecThird ((3 * x1 * x1 + p256P - 3) * invMod p256P (2 * y1) % p256P) x1 y1 x2
    else ecThird ((y2 + p256P - y1) * invMod p256P (x2 + p256P - x1) % p256P) x1 y1 x2

/-- `k` times a point, by the low `n` bits of `k`. -/
def ecMul (a : EcPoint) : Nat → Nat → EcPoint
  | 0, _ => none
  | n + 1, k =>
    let h := ecMul a n (k / 2)
    let d := ecAdd h h
    if k % 2 = 1 then ecAdd d a else d

/-- A public key: coordinates in the field, on the curve. -/
def ecValid (x y : Nat) : Bool :=
  decide (x < p256P) && decide (y < p256P) && decide (y * y % p256P = (x * x * x + (p256P - 3) * x + p256B) % p256P)

/-- A public key and a signature of 64 bytes each verify over a digest (FIPS 186-5, 6.4.2). -/
def ecdsaOk (key sig : List Byte) (digest : BitVec 256) : Bool :=
  let x := beNat (key.take 32)
  let y := beNat (key.drop 32)
  let r := beNat (sig.take 32)
  let v := beNat (sig.drop 32)
  let w := invMod p256N v
  let u := ecAdd (ecMul (some (p256Gx, p256Gy)) 256 (digest.toNat * w % p256N)) (ecMul (some (x, y)) 256 (r * w % p256N))
  ecValid x y && decide (0 < r) && decide (r < p256N) && decide (0 < v) && decide (v < p256N) &&
    match u with
    | some z => decide (z.1 % p256N = r)
    | none => false

end Sys2Proof.Machine
end

