-- ==== Sys2Proof/Machine/Irq.lean ====
section
/-! DEFINITION. Cirque's shared operations (10): raising, selection, offers, commits at host targets, claims and
completes. -/
namespace Sys2Proof.Machine

/-! Who may act -/

/-- A PE or an SE runs (R608, R630). -/
def State.engUp (s : State) (e : Nat) : Bool := !(s.eng e).stopped && !(s.eng e).halted

/-- A function's accesses reach the device: its link is up, and boot has ended (R674 step 3: before that, BAR2 and BAR4
ignore writes and BAR0 is only readable; log 37). -/
def State.hostOpen (s : State) (f : Nat) : Bool := (s.func f).link && s.fb F.GLB_BOOT.BOOT_DONE

/-- An agent's write reaches a register. -/
def State.mayWrite (s : State) (w : Agent) : Bool :=
  match w with
  | .host f => s.hostOpen f.val
  | .engine e => s.engUp e.val

/-- An agent's read reaches a register: BAR0 is readable from the release of the main reset (R674 step 3). -/
def State.mayRead (s : State) (w : Agent) : Bool :=
  match w with
  | .host f => (s.func f.val).link && s.boot.mainOn
  | .engine e => s.engUp e.val

/-- Target `t` exists (R419). -/
def isTarget (t : Nat) : Bool := decide (t < 36) || (decide (64 ≤ t) && decide (t < 96))

/-- Target `t` is an MSI-X vector. -/
def isHostTarget (t : Nat) : Bool := decide (64 ≤ t) && decide (t < 96)

/-- Function and vector of a host target (R370). -/
def tgtFn (t : Nat) : Nat := (t - 64) / 16
def tgtVec (t : Nat) : Nat := (t - 64) % 16

/-- TARGET clamps: 36-63 to 35, 96-127 to 95 (R434). -/
def clampTarget (t : Nat) : Nat := if 36 ≤ t ∧ t < 64 then 35 else min t 95

/-- A pending source (10, "Selection and delivery"). -/
def Src.pending (x : Src) : Bool :=
  decide (0 < x.count) && x.en && decide (0 < x.prio) && !x.active && !x.delivered

/-- Distance of source `n` after the source last claimed, wrapping from 2047 to 0 (R421). -/
def wrapDist (last : Option Nat) (n : Nat) : Nat :=
  match last with
  | some l => (n + 2047 - l) % 2048
  | none => n

/-- Whether source `n` beats the best so far at a target (R421). -/
def beats (last : Option Nat) (best : Option (Nat × Nat)) (n prio : Nat) : Bool :=
  match best with
  | none => true
  | some (m, p) => decide (p < prio) || (decide (p = prio) && decide (wrapDist last n < wrapDist last m))

/-- The source a target's selection takes (R421), with its PRIO. -/
def State.select (s : State) (t : Nat) : Option (Nat × Nat) :=
  let last := (s.tgt t).last
  s.srcs.foldl (fun best e =>
    if e.2.pending && decide (e.2.target = t) && beats last best e.1 e.2.prio then some (e.1, e.2.prio) else best) none

/-- The source delivered at a host target and not claimed (R422). -/
def State.deliveredAt (s : State) (t : Nat) : Option Nat :=
  (s.srcs.find? fun e => e.2.delivered && decide (e.2.at_ = t)).map Prod.fst

/-- The offer a target holds: a host target receives none while a delivered source awaits its claim (R422). -/
def State.offer (s : State) (t : Nat) : Option (Nat × Nat) :=
  if isHostTarget t && (s.deliveredAt t).isSome then none else s.select t

/-- The target a source is aimed at: while it is delivered or active, the one that holds it; a new target applies from the
complete (R429). -/
def Src.aim (x : Src) : Nat := if x.active || x.delivered then x.at_ else x.target

/-- The source on offer to engine `e` above its level (R420). -/
def State.offered (s : State) (e : Nat) : Option (Nat × Nat) :=
  (s.offer e).filter fun x => decide ((s.eng e).il.toNat < x.2)

/-- Engine `e` is in WAIT: with IE 0, until a source above its level has been on offer (R616). -/
def State.engWaiting (s : State) (e : Nat) : Bool := (s.eng e).waiting && ((s.eng e).ie || !(s.tgt e).woke)

/-- What target `t` is offered may have changed: a source above its level ends the WAIT of an engine with IE 0 (R616). -/
def State.wakeEng (s : State) (t : Nat) : State :=
  if decide (t < 36) && (s.eng t).waiting && !(s.eng t).ie && (s.offered t).isSome then s.modTgt t fun x => { x with woke := true }
  else s

/-- One event on source `n` (R418); it counts toward MOD_COUNT of the target the source is aimed at (R429, R430). -/
def State.raise (s : State) (n : Nat) : State :=
  if n < 2048 then
    let x := s.src n
    let x' := if x.count < 255 then { x with count := x.count + 1 } else { x with sat := true }
    let s := s.setSrc n x'
    if x.en && decide (0 < x.prio) then
      (s.modTgt x.aim fun t => { t with modEvt := min 256 (t.modEvt + 1) }).wakeEng x.aim
    else s
  else s

/-- Raise source `n` if `b`. -/
def State.raiseIf (s : State) (b : Bool) (n : Nat) : State := if b then s.raise n else s

/-- The MSI-X message of a host target cannot be sent (R429). -/
def State.vecBlocked (s : State) (t : Nat) : Bool :=
  let f := tgtFn t
  let x := s.func f
  !x.msixEn || x.msixMask || !x.busMaster || s.fb (F.MSIX.MASK f (tgtVec t))

/-- The pending bit of the target's vector: an offer is held uncommitted because the vector is blocked (R429). -/
def State.pendingBit (s : State) (t : Nat) : Bool := s.vecBlocked t && (s.offer t).isSome

/-- The target is idle (R419). -/
def State.tgtIdle (s : State) (t : Nat) : Bool :=
  if t < 36 then s.engWaiting t else (s.tgt t).idle

/-- The MOD_TIME condition of R430. No commit since reset counts as elapsed. -/
def State.modTimeOver (s : State) (t : Nat) : Bool :=
  match (s.tgt t).commit with
  | none => true
  | some c => decide (c + s.f (F.CIRQUE_MOD.MOD_TIME t) * ltUs ≤ s.now)

/-- The target is ready to commit source `n` of priority `p` (R430). MOD_COUNT holds the count minus 1. -/
def State.modReady (s : State) (t p : Nat) : Bool :=
  s.tgtIdle t || s.modTimeOver t ||
    (s.f (F.CIRQUE_MOD.MOD_COUNT t) == 0) || decide (s.f (F.CIRQUE_MOD.MOD_COUNT t) + 1 ≤ (s.tgt t).modEvt) ||
    decide (s.f (F.CIRQUE_MOD.BYPASS_PRIO t) ≤ p)

/-- What a commit does at its target: the count toward MOD_COUNT and MOD_TIME start again, IDLE clears,
DELIVERIES counts (R430, R431, R439). -/
def State.commitAt (s : State) (t : Nat) : State :=
  (s.modTgt t fun x => { x with modEvt := 0, commit := some s.now, idle := false }).satAdd (F.CIRQUE_TCNT.DELIVERIES t) 1

/-- The MSI-X message of host target `t`: the data of its table entry, written at the entry's address (R370, R371). -/
def State.msixPost (s : State) (t : Nat) : State :=
  let f := tgtFn t
  let v := tgtVec t
  s.post f (4 * s.f (F.MSIX.ADDR f v)) (wordBytes (s.reg (F.MSIX.DATA f v).off))

/-- Commit at a host target: the MSI-X write is posted and the source is delivered (R423 step 5). -/
def State.commitHost (s : State) (t : Nat) : State :=
  match s.offer t with
  | some (n, p) =>
    if !(s.vecBlocked t) && s.modReady t p then
      ((s.msixPost t).modSrc n fun x => { x with delivered := true, at_ := t }).commitAt t
    else s
  | none => s

/-- Claim source `n` at target `t` (R425): COUNT is returned and zeroed, the source is active there. -/
def State.claimSrc (s : State) (t n : Nat) : Nat × State :=
  let c := (s.src n).count
  (c, (s.modSrc n fun x => { x with count := 0, active := true, delivered := false, at_ := t }).modTgt t
        fun x => { x with last := some n })

/-- The claim word of R435. -/
def claimWord (count n : Nat) : Word := BitVec.ofNat 32 (2147483648 + count * 65536 + n)

/-- Read of CIRQUE_CLAIM (R425): the delivered source, else the selection's. -/
def State.claim (s : State) (t : Nat) : Word × State :=
  match (s.deliveredAt t).orElse (fun _ => (s.select t).map Prod.fst) with
  | some n => let r := s.claimSrc t n; (claimWord r.1 n, r.2)
  | none => (0, s)

/-- Write of `n` to CIRQUE_COMPLETE of target `t` (R426); true if it ended service. -/
def State.complete (s : State) (t n : Nat) : Bool × State :=
  let x := s.src n
  if x.active && decide (x.at_ = t) then (true, (s.setSrc n { x with active := false, at_ := 0 }).wakeEng x.target)
  else (false, s.satAdd (F.CIRQUE_TCNT.BAD_COMPLETE t) 1)

/-- An agent may read CIRQUE_CLAIM of target `t` and write its registers: a function at its own vectors (R427);
engine code at any target that exists (the rule binds the code, not the device). -/
def mayUse (w : Agent) (t : Nat) : Bool :=
  match w with
  | .host f => isHostTarget t && decide (tgtFn t = f.val)
  | .engine _ => isTarget t

/-- A write to a CIRQUE_SRC entry as one whole (R432, R434): EN, PRIO and TARGET take their values, a 1 in SAT
clears it, a 1 in CLR zeroes COUNT unless active or delivered. Changes reach a claim or a delivery only after it
ends (R429): `at_` keeps the old target. -/
def State.srcWrite (s : State) (w : Agent) (n : Nat) (v : Word) : State :=
  let x := s.src n
  let t := fieldOf v 0 7
  let s := if clampTarget t = t then s else s.clampBy w
  (s.setSrc n { x with
    en := v.getLsbD 31, prio := fieldOf v 12 4, target := clampTarget t,
    sat := x.sat && !(v.getLsbD 28),
    count := if v.getLsbD 27 && !x.active && !x.delivered then 0 else x.count }).wakeEng (clampTarget t)

/-- The word CIRQUE_SRC reads (R434). -/
def Src.word (x : Src) : Word :=
  BitVec.ofNat 32 (x.en.toNat * 2147483648 + x.active.toNat * 1073741824 + x.delivered.toNat * 536870912 +
    x.sat.toNat * 268435456 + x.count * 65536 + x.prio * 4096 + x.target)

/-- The word CIRQUE_TSTAT reads (R438): VEC_MASKED is the pending bit of R429, an offer held at a blocked vector (log 101). -/
def State.tstatWord (s : State) (t : Nat) : Word :=
  let d := s.deliveredAt t
  let o := s.offer t
  let src := match d with
    | some n => if isHostTarget t then n else (o.map Prod.fst).getD 0
    | none => (o.map Prod.fst).getD 0
  BitVec.ofNat 32 ((s.tgtIdle t).toNat * 2147483648 + o.isSome.toNat * 1073741824 + d.isSome.toNat * 536870912 +
    (isHostTarget t && s.pendingBit t).toNat * 268435456 + (s.tgt t).modEvt * 2048 + src)

/-- At a function-level reset of `f`: claims and deliveries at its targets are released, and their IDLE bits,
counts and offers return to reset (R428). -/
def State.cirqueFlr (s : State) (f : Nat) : State :=
  let mine (t : Nat) : Bool := isHostTarget t && decide (tgtFn t = f)
  let s := s.srcs.foldl (fun st e =>
    if (e.2.active || e.2.delivered) && mine e.2.at_ then
      (st.setSrc e.1 { e.2 with active := false, delivered := false, at_ := 0 }).wakeEng e.2.target
    else st) s
  (List.range 16).foldl (fun st v => st.modTgt (64 + 16 * f + v) fun x => { x with commit := none, modEvt := 0, idle := false }) s

end Sys2Proof.Machine
end

