-- ==== Sys2Proof/Machine/Hook.lean ====
section
/-! DEFINITION. Hooks of the protocol engines (14 R577, R619 to R626): the header, the frame window and the descriptor, and how
Berzu calls a hook. How a call ends is in Machine/Eng.lean, what it does for its frame in Machine/Recv.lean. -/
namespace Sys2Proof.Machine

/-! Engine memory -/

/-- Byte offsets of an engine's region (R40, R41). -/
def engBase (e : Nat) : Nat := 0x200000 + e * 0x10000

/-- Key of a byte of an engine's data memory. -/
def dataAt (e o : Nat) : Nat := engBase e + 0x8000 + o

/-- MSP and MSLIM in bytes (R629). -/
def State.msp (s : State) (e : Nat) : Nat := 4 * s.f (F.ENG_MSP.MSP e)
def State.mslim (s : State) (e : Nat) : Nat := 4 * s.f (F.ENG_MSLIM.MSLIM e)
def State.setMsp (s : State) (e v : Nat) : State := s.setF (F.ENG_MSP.MSP e) (min v 0x4000 / 4)

/-- Slot `i` of the return stack's ring. -/
def Eng.rs (g : Eng) (i : Nat) : Nat := Tab.get (fun _ => 0) g.rsSlots (i % 8)

/-- Write the slot at the pointer and move it on. -/
def Eng.rsPut (g : Eng) (v : Nat) : Eng :=
  { g with rsSlots := Tab.put (fun _ => 0) g.rsSlots (g.rsPtr % 8) v, rsPtr := (g.rsPtr + 1) % 8, rsd := min 8 (g.rsd + 1) }

/-- The stacks as they are. -/
def State.stacks (s : State) (e : Nat) : EngStacks :=
  let g := s.eng e
  { os := g.os, rsSlots := g.rsSlots, rsPtr := g.rsPtr, rsd := g.rsd, rss := g.rss, msp := s.msp e }

/-- Back to stacks kept earlier. -/
def State.unwind (s : State) (e : Nat) (x : EngStacks) : State :=
  (s.modEng e fun g => { g with os := x.os, rsSlots := x.rsSlots, rsPtr := x.rsPtr, rsd := x.rsd, rss := x.rss }).setMsp e x.msp

/-! What a hook is shown (R621, R622, R625) -/

/-- The hook header as Berzu read it when the image started (R619). -/
def State.hookHdr (s : State) (e : Nat) : Word := (s.eng e).hook

/-- TICK_PERIOD of a header in lt: units of 100 µs, 0 taken as 1 (R619). -/
def tickPeriod (hdr : Word) : Nat := max 1 (bitsOf hdr 16 16) * (100 * ltUs)

/-- Where the frame window of PE `e` lies among the keys of `State.mem` (R578; the engine sees it at 0x0201_0000). -/
def frameWin (e : Nat) : Nat := 0x03000000 + e * 0x1000

/-- Byte offset of a hook's descriptor in data memory: somewhere in Berzu's part, 0x0000 to 0x1FFF (R577, R625, log 94). -/
def hookDescAt : Nat := 4 * (Config.hookDesc.toNat % 2041)

/-- Where the descriptor stands among the keys of `State.mem`. -/
def hookDesc (e : Nat) : Nat := dataAt e hookDescAt

/-- The same place as the hook's argument: an address in the engine's own map (R578). -/
def hookDescArg : Word := BitVec.ofNat 32 (0x02008000 + hookDescAt)

/-- The descriptor of R625. -/
def descWords (k : Look) (laneB : Bool) (index : Nat) : List Word :=
  let fr := k.fr
  [fr.fmtId,
   BitVec.ofNat 32 (fr.sdt.toNat * 16777216 + fr.vcid.toNat * 65536 + fr.sec.toNat * 32768 + fr.brs.toNat * 16384 +
     fr.rtr.toNat * 8192 + fr.esi.toNat * 4096 + fr.len % 4096),
   if fr.fmt = .xl then fr.af else 0, k.stamp.nsWord, k.stamp.secWord,
   BitVec.ofNat 32 (k.bus % 128 + laneB.toNat * 128 + k.colour % 4 * 256 + k.tc % 4 * 1024), 0x02010000,
   BitVec.ofNat 32 (index % 65536)]

/-- The frame handed to a hook: its payload in the window, where bytes beyond it keep what they held (log 44), and its
descriptor in data memory (R625). The words written are poisoned no longer (R694). -/
def State.showFrame (s : State) (e : Nat) (k : Look) (laneB : Bool) (index : Nat) : State :=
  ((s.wrBytes (frameWin e) (k.fr.data.take 2176)).wrBytes (hookDesc e) (wordsBytes (descWords k laneB index))).healRun 1 e
    (hookDescAt / 4) 8

/-- A frame as the route hook left it (R295, R622): ID within the format, the XL fields of an XL frame, a payload no
longer than it was. A length the format does not have becomes the next it has (log 18). -/
def hookFrame (fr x : Frame) : Frame :=
  let xl := decide (fr.fmt = .xl)
  let n := min x.len fr.len
  let len := if fr.fmt.fd then fdSize n else if xl then max n 1 else n
  let k := if fr.fmt.classical then (if fr.rtr then 0 else min len 8) else len
  { fr with id := BitVec.ofNat 29 (fr.fmt.idMask x.id.toNat), sdt := if xl then x.sdt else fr.sdt,
            vcid := if xl then x.vcid else fr.vcid, sec := if xl then x.sec else fr.sec, af := if xl then x.af else fr.af,
            len := len, data := bytesFrom (x.data.take n) 0 k }

/-- The frame as the descriptor and the window have it now (R622, R625). -/
def State.hookRead (s : State) (e : Nat) (fr : Frame) : Frame :=
  let w0 := s.rd32 (hookDesc e)
  let w1 := s.rd32 (hookDesc e + 4)
  hookFrame fr { fr with id := w0.extractLsb' 0 29, sdt := w1.extractLsb' 24 8, vcid := w1.extractLsb' 16 8,
                         sec := w1.getLsbD 15, af := s.rd32 (hookDesc e + 8), len := bitsOf w1 0 12,
                         data := s.rdBytes (frameWin e) fr.data.length }

/-- Bits of the word at key `k` that a store of engine `e` changes: a filter hook changes neither the frame window nor the
descriptor (R621), a route hook of the descriptor only ID, SDT, VCID, SEC, LEN and AF (R622). -/
def State.hookKeep (s : State) (e k : Nat) : Word :=
  let g := s.eng e
  let w := (k - hookDesc e) / 4
  let inDesc := decide (hookDesc e ≤ k) && decide (k < hookDesc e + 32)
  let inWin := decide (frameWin e ≤ k) && decide (k < frameWin e + 0x1000)
  match g.back, g.calls with
  | some _, .filter _ _ _ :: _ => if inDesc || inWin then 0 else 0xFFFFFFFF
  | some _, .route _ _ _ _ _ :: _ =>
    if inDesc then (if w = 0 then 0x1FFFFFFF else if w = 1 then 0xFFFF8FFF else if w = 2 then 0xFFFFFFFF else 0)
    else 0xFFFFFFFF
  | _, _ => 0xFFFFFFFF

/-! Calls (R620 to R623) -/

/-- Word of program memory at which a call enters (R619). -/
def HookCall.entry : HookCall → Nat
  | .filter _ _ _ => 4097
  | .route _ _ _ _ _ => 4098
  | .tick _ => 4099

/-- Its arguments, top first (R621 to R623). -/
def HookCall.args : HookCall → List Word
  | .filter _ _ d => [BitVec.ofNat 32 d.arg, hookDescArg]
  | .route _ _ _ harg _ => [BitVec.ofNat 32 harg, hookDescArg]
  | .tick t => [BitVec.ofNat 32 t]

/-- How many results it leaves. -/
def HookCall.results : HookCall → Nat
  | .filter _ _ _ => 2
  | .route _ _ _ _ _ => 1
  | .tick _ => 0

/-- The call is for a frame, and hands it to the hook. -/
def State.hookShow (s : State) (e : Nat) : HookCall → State
  | .filter k laneB d => s.showFrame e k laneB d.index
  | .route k laneB n _ _ => s.showFrame e k laneB n
  | .tick _ => s

/-- Berzu, where it has no other work, calls the hook whose turn it is (R620, R738): the arguments alone on the operand stack,
the return address alone on the return stack, CALLS counted. -/
def State.hookBegin (s : State) (e : Nat) : State :=
  let g := s.eng e
  match g.calls, g.back with
  | c :: _, none =>
    if s.engUp e && g.home && g.frames.isEmpty then
      let b := s.stacks e
      ((s.hookShow e c).modEng e fun g =>
        let g : Eng := { g with rsd := 0 }
        { g.rsPut g.pc with back := some (g.pc, b), home := false, waiting := false, os := c.args, pc := 4 * c.entry,
                            slotA := none, rpt := false, rcWritten := false, first := false }).satAdd (F.ENG_HOOKCNT.CALLS e) 1
    else s
  | _, _ => s

/-- A hook is to be called: after the calls that wait already. -/
def State.hookCall (s : State) (e : Nat) (c : HookCall) : State :=
  (s.modEng e fun g => { g with calls := g.calls ++ [c] }).hookBegin e

/-- Berzu is back from the call `c` that it has made: its stacks and PC as they were, at IL 0 with IE 1, in its WAIT. -/
def State.hookBack (s : State) (e : Nat) (b : Nat × EngStacks) : State :=
  (s.unwind e b.2).modEng e fun g =>
    { g with pc := b.1, calls := g.calls.drop 1, back := none, home := true, waiting := true, ie := true, il := 0, trp := false,
             rpt := false, frames := [], slotA := none, rcWritten := false, first := false, divPend := false }

end Sys2Proof.Machine
end

