-- ==== Sys2Proof/Machine/Admin.lean ====
section
/-! DEFINITION. Rings (09): doorbells, fetch, completions, and the taking of admin commands. -/
namespace Sys2Proof.Machine

/-- Status codes (R396). -/
inductive Status where
  | done | doneAbortLate | doneCancelLate | doneViaPartner | arbLost | txError | cancelled | expired | laneDown
  | aborted | rxDropNotice | refused | busy
deriving DecidableEq, Repr

/-- The code of a status (R396). -/
def Status.code : Status → Nat
  | .done => 0x00 | .doneAbortLate => 0x01 | .doneCancelLate => 0x02 | .doneViaPartner => 0x03
  | .arbLost => 0x10 | .txError => 0x11 | .cancelled => 0x12 | .expired => 0x13 | .laneDown => 0x14
  | .aborted => 0x15 | .rxDropNotice => 0x20 | .refused => 0x30 | .busy => 0x31

/-- A status of the DONE kind (R391). -/
def Status.isDone : Status → Bool
  | .done | .doneAbortLate | .doneCancelLate | .doneViaPartner => true
  | _ => false

/-- Causes of a refusal (R397). -/
inductive Cause where
  | state | notFound | listSize | overlap | listForm | range | thermal | stepLimit | owned | opcode | image
deriving DecidableEq, Repr

/-- The code of a cause (R397). -/
def Cause.code : Cause → Nat
  | .state => 1 | .notFound => 2 | .listSize => 3 | .overlap => 4 | .listForm => 5 | .range => 6 | .thermal => 7
  | .stepLimit => 8 | .owned => 9 | .opcode => 10 | .image => 11

/-- Word 0 of a completion (R390). -/
def cplWord0 (st : Status) (kind : Nat) (phase inl laneB tsv : Bool) (bus : Nat) : Word :=
  BitVec.ofNat 32 (st.code + kind * 256 + phase.toNat * 2048 + inl.toNat * 4096 + laneB.toNat * 8192 +
    tsv.toNat * 16384 + bus % 128 * 65536)

/-- Word 1 of a completion of kinds TX, ETH_TX, RXBUF, ADMIN and NOP (R391). -/
def cplWord1 (head sqid cause : Nat) : Word := BitVec.ofNat 32 (head % 65536 + sqid * 65536 + cause * 16777216)

/-! Admin rings -/

/-- Entries of the admin rings of `f` (R373). -/
def State.asqSize (s : State) (f : Nat) : Nat := 2 ^ s.f (F.HOST_ASQ.SIZE_LOG2 f)
def State.acqSize (s : State) (f : Nat) : Nat := 2 ^ s.f (F.HOST_ACQ.SIZE_LOG2 f)

/-- Free slots of the admin CQ that a command can reserve (R374, R380). -/
def State.acqFree (s : State) (f : Nat) : Nat :=
  let x := s.func f
  let n := s.acqSize f
  n - 1 - (x.cTail + n - x.cHead) % n - x.reserved

/-- SE3 can take the next command of `f`: boot has ended and SE3 runs (R674 step 6, R681), the rings run, a tail write has
published it, and its completion finds a slot (R376, R379, R380). -/
def State.adminReady (s : State) (f : Nat) : Bool :=
  let x := s.func f
  s.hostOpen f && s.engUp 35 && s.fb (F.HOST_CTRL.ADMIN_EN f) && !(decide (x.aHead = x.aTail)) && decide (0 < s.acqFree f)

/-- Take the command: the head advances and a slot is reserved. -/
def State.adminTake (s : State) (f : Nat) : State :=
  let n := s.asqSize f
  s.modFunc f fun x => { x with aHead := (x.aHead + 1) % n, reserved := x.reserved + 1 }

/-- Write an admin completion and raise source 1012 + f (R371, R391). -/
def State.adminCpl (s : State) (r : AdminRef) (st : Status) (cause : Nat) (w2 w3 w4 w5 w6 : Word) : State :=
  let x := s.func r.f
  let n := s.acqSize r.f
  let ws := [cplWord0 st 5 x.phase false false false 0, cplWord1 x.aHead 0x80 cause, w2, w3, w4, w5, w6, r.tag]
  let s := s.post r.f (s.f (F.HOST_ACQ.BASE r.f) * 4096 + x.cTail * 32) (wordsBytes ws)
  let t := (x.cTail + 1) % n
  let s := s.setFunc r.f { x with cTail := t, reserved := x.reserved - 1, phase := if t = 0 then !x.phase else x.phase }
  s.raise (1012 + r.f)

/-- DONE with no result. -/
def State.adminDone (s : State) (r : AdminRef) : State := s.adminCpl r .done 0 0 0 0 0 0

/-- DONE with a result in word 2. -/
def State.adminDone2 (s : State) (r : AdminRef) (w2 : Word) : State := s.adminCpl r .done 0 w2 0 0 0 0

/-- REFUSED with a cause; the command has no effect (R8). -/
def State.adminRefuse (s : State) (r : AdminRef) (c : Cause) : State := s.adminCpl r .refused c.code 0 0 0 0 0

/-- BUSY (R396). -/
def State.adminBusy (s : State) (r : AdminRef) : State := s.adminCpl r .busy 0 0 0 0 0 0

/-- Complete for the command if one waits. -/
def State.adminDone? (s : State) : Option AdminRef → State
  | some r => s.adminDone r
  | none => s

/-- Take an admin command whose opcode is `op` and run its body; where SE3 cannot take it now, nothing happens
(log 6). -/
def adminCmd (s : State) (f : Fn) (d : Words8) (op : Nat) (body : State → AdminRef → State) :
    Host.Outcome State Fault Refusal :=
  if s.adminReady f.val && decide (d.op = op) then .next (body (s.adminTake f.val) ⟨f.val, d.w7⟩) else .next s

/-- The same for a command with an operation code in word 1 [3:0] (REC_CTRL, STACK_CTRL). -/
def adminSub (s : State) (f : Fn) (d : Words8) (op sub : Nat) (body : State → AdminRef → State) :
    Host.Outcome State Fault Refusal :=
  if decide (fieldOf d.w1 0 4 = sub) then adminCmd s f d op body else .next s

/-- The block a BLOCK_START or BLOCK_STOP names: reserved codes are clamped to 0 (R399); true if clamped. -/
def blockOf (d : Words8) : Nat × Bool :=
  let b := fieldOf d.w1 0 4
  if b < 4 then (b, false) else (0, true)

/-- BLOCK_START or BLOCK_STOP of block `b`. -/
def blockCmd (s : State) (f : Fn) (d : Words8) (op b : Nat) (body : State → AdminRef → State) :
    Host.Outcome State Fault Refusal :=
  let x := blockOf d
  if x.1 = b then adminCmd s f d op fun s r => body (if x.2 then s.clamp f.val 1 else s) r else .next s

/-! I/O rings -/

/-- Entries of a ring. -/
def Cq.entries (c : Cq) : Nat := 2 ^ c.size
def Sq.entries (c : Sq) : Nat := 2 ^ c.size

/-- Free slots of a CQ that are not reserved (R374, R380, R381). -/
def Cq.freeSlots (c : Cq) : Nat := c.entries - 1 - (c.tail + c.entries - c.head) % c.entries - c.reserved

/-- Published and unfetched descriptors. -/
def Sq.waiting (q : Sq) : Nat := (q.tail + q.entries - q.head) % q.entries

/-- Post a completion of eight words to CQ `n`, the PHASE of the entry put into word 0, and raise source `n`
(R371, R375). -/
def State.cqWrite (s : State) (n : Nat) (w0 : Bool → Word) (ws : List Word) : State :=
  let c := s.cq n
  match c.owner with
  | some f =>
    let s := s.post f (c.base + c.tail * 32) (wordsBytes (w0 c.phase :: ws))
    let t := (c.tail + 1) % c.entries
    (s.setCq n { c with tail := t, phase := if t = 0 then !c.phase else c.phase }).raise n
  | none => s

/-- Complete a fetched descriptor of SQ `n` in its reserved slot (R380, R381, R391); while the SQ is being deleted the
aborted entries are counted (R399). -/
def State.sqComplete (s : State) (n : Nat) (st : Status) (kind : Nat) (laneB : Bool) (bus : Nat) (w2 : Word)
    (stamp : Option Stamp) (tag : Word) : State :=
  let q := s.sq n
  let s := if q.deleting.isSome && decide (st = .aborted) then s.setSq n { q with aborted := q.aborted + 1 } else s
  let s := s.modCq q.cq fun c => { c with reserved := c.reserved - 1 }
  let ns := match stamp with | some t => t.nsWord | none => 0
  let sec := match stamp with | some t => t.secWord | none => 0
  s.cqWrite q.cq (fun ph => cplWord0 st kind ph false laneB stamp.isSome bus)
    [cplWord1 q.head n 0, w2, 0, ns, sec, 0, tag]

/-- A descriptor of SQ `n` can be fetched as far as its rings go (R379, R380). -/
def State.sqReady (s : State) (n : Nat) : Bool :=
  let q := s.sq n
  q.owner.isSome && q.deleting.isNone && !(decide (q.head = q.tail)) && decide (0 < (s.cq q.cq).freeSlots)

/-- Fetch: the head advances, a slot is reserved, and the low-water event is raised (R380, R382). -/
def State.sqFetch (s : State) (n : Nat) : State :=
  let q := s.sq n
  let q' := { q with head := (q.head + 1) % q.entries }
  let s := (s.setSq n q').modCq q.cq fun c => { c with reserved := c.reserved + 1 }
  s.raiseIf (decide (0 < q.low) && decide (q.low < q.waiting) && decide (q'.waiting ≤ q.low)) (128 + n)

/-- The function of an SQ. -/
def State.sqFn (s : State) (n : Nat) : Nat := ((s.sq n).owner).getD 0

/-- Reduce a doorbell value modulo the ring size (R377); 1 if that counts as a clamp. -/
def reduceIx (size v : Nat) : Nat × Nat := if v < size then (v, 0) else (v % size, 1)

/-- New head of a CQ after a head write of `v` (R377, R378): the released entries, reduced to what has been written; a
value that is reduced, for either reason or both, counts once (R7). -/
def cqHeadWrite (size head tail v : Nat) : Nat × Nat :=
  let r := reduceIx size v
  let written := (tail + size - head) % size
  let asked := (r.1 + size - head) % size
  if written < asked then (tail, 1) else r

end Sys2Proof.Machine
end

