-- ==== Sys2Proof/Machine/Time.lean ====
section
/-! DEFINITION. Time bases and stamps (11). -/
namespace Sys2Proof.Machine

/-- Signed 16-bit correction in 1/16 ns, as 1/160 ns. -/
def adj160 (v : Nat) : Int := signed 16 v * 10

/-- RX_PATH and TX_PATH of a bank in 1/160 ns (R476). `code` of GLB_IOSTAT: 1 is 1.8 V (R717). -/
def rxPath160 (v33 : Bool) : Int := if v33 then 1312 else 1392
def txPath160 (v33 : Bool) : Int := if v33 then 592 else 672

/-- The I/O bank of a lane: sixteen lanes each (R717). -/
def bankOf (l : Nat) : Nat := l / 16

/-- The bank of a lane runs at 3.3 V (R716, R717). -/
def State.bank33 (s : State) (l : Nat) : Bool := fieldOf (s.reg 0x58) (2 * bankOf l) 2 == 2

/-- Offsets of LANE_TS_ADJ and LANE_TS_MODE (R506, R507). -/
def tsAdjOff (l : Nat) : Nat := 0x100034 + l * 0x800
def tsModeOff (l : Nat) : Nat := 0x100038 + l * 0x800

/-- The correction of a lane stamp in 1/160 ns under the words `adj` and `mode` of R506 and R507, and whether BUS_EST
found no estimate (R475 to R477). -/
def State.corrWith (s : State) (l : Nat) (adj mode : Word) (tx : Bool) : Int × Bool :=
  let v33 := s.bank33 l
  let rx := rxPath160 v33
  let tp := txPath160 v33
  let path := if tx then tp else -rx
  let pin := adj160 (if tx then bitsOf adj 16 16 else bitsOf adj 0 16)
  let tdcv := s.f (F.LANE_TDC.TDCV l)
  if mode.getLsbD 0 then
    if tdcv = 0 then (path + pin, true)
    else
      let d : Int := tdcv * 500 - rx - tp
      -- half of a 1/160 ns number: both path sums are even, so the division is exact
      (path + (if tx then d / 2 else -(d / 2)), false)
  else (path + pin, false)

/-- The correction as the registers stand. -/
def State.laneCorr (s : State) (l : Nat) (tx : Bool) : Int × Bool :=
  s.corrWith l (s.reg (tsAdjOff l)) (s.reg (tsModeOff l)) tx

/-- A stamp with its correction; EST_NONE is set where BUS_EST had no TDCV (R477). -/
def State.stampWith (s : State) (l v : Nat) (c : Int × Bool) : Stamp × State :=
  (stampOf (corrected v c.1), if c.2 then s.setB (F.LANE_TS_MODE.EST_NONE l) true else s)

/-- The stamp of a SOF edge that comes now, at base value `v` (R475, R479). -/
def State.laneStamp (s : State) (l v : Nat) (tx : Bool) : Stamp × State := s.stampWith l v (s.laneCorr l tx)

/-- The correction in force at a SOF edge at interval count `n` of the lane's base (R479). -/
def State.corrAt (s : State) (l n : Nat) (tx : Bool) : Int × Bool :=
  match (s.lane l).corrs.find? fun c => decide (n < c.1) with
  | some c => s.corrWith l c.2.1 c.2.2 tx
  | none => s.laneCorr l tx

/-- The same of a received frame. -/
def State.rxCorr (s : State) (l n : Nat) : Int × Bool := s.corrAt l n false

/-- The stamp of a reception that ends now, of the SOF edge `x` (R475, R479). -/
def State.rxStamp (s : State) (l : Nat) (x : Sof) : Stamp × State :=
  let t := s.stampWith l x.val (s.rxCorr l x.cnt)
  (t.1, t.2.modLane l fun y => { y with corrs := [] })

/-- Keep what LANE_TS_ADJ and LANE_TS_MODE hold before a write of one of them (R479). -/
def State.keepCorr (s : State) (l : Nat) : State :=
  let e := (s.tb (s.baseOf l)).elapsed
  let c := (e, s.reg (tsAdjOff l), s.reg (tsModeOff l))
  s.modLane l fun y => { y with corrs := y.corrs ++ [c] }

/-- The present value of base `n`. -/
def State.baseVal (s : State) (n : Nat) : Nat := (s.tb n).val

/-- The value of base `n` that a read captures or a stamp takes: a step that takes effect in the same lt is not yet
visible (R20, R491). -/
def State.readVal (s : State) (n : Nat) : Nat :=
  match (s.tb n).stepped with
  | some x => if x.1 = s.now then x.2 else s.baseVal n
  | none => s.baseVal n

/-- The present stamp of the base a lane is bound to, without lane corrections (R138, R174). -/
def State.nowStamp (s : State) (n : Nat) : Stamp := stampOf (s.readVal n)

/-- Multiples of PERIOD ms in a base's value (R487). -/
def State.bdMultiple (s : State) (c : Nat) : Nat :=
  s.baseVal (s.f (F.TB_BDIST.TB c)) / tbMs (max 1 (s.f (F.TB_BDIST.PERIOD c)))

/-- Every channel of base `n` starts counting multiples from the base's present value. -/
def State.bdMark (s : State) (n : Nat) : Nat → State
  | 0 => s
  | c + 1 =>
    let s := if s.f (F.TB_BDIST.TB c) = n then s.setBd c (s.bdMultiple c) else s
    s.bdMark n c

/-- Every channel. -/
def State.bdMarkAll (s : State) : State := (List.range 8).foldl (fun st n => st.bdMark n 16) s

/-- Apply a step of `ns` to base `n` (R469, R471): the value moves, the interval count and the slew remainder do not
(R465, R468); a step backward leaves the next release to the next multiple (R490). -/
def State.stepBase (s : State) (n : Nat) (ns : Int) : State :=
  let v := (((s.tb n).val : Int) + ns * (nsUnit : Int)) % (tbWrap : Int)
  let s := s.modTb n fun t =>
    { t with val := v.toNat, stepped := some (s.now, match t.stepped with
      | some x => if x.1 = s.now then x.2 else t.val
      | none => t.val) }
  let s := s.setF (F.TB_LASTSTEP.LAST_STEP n) (unsigned 64 ns)
  let s := s.wrapInc (F.TB_STAT.STEPS n)
  if ns < 0 then s.bdMark n 16 else s

/-- Judge a step (R470, R471, R472): the state, whether it was applied, and whether FORCE was what allowed it. -/
def State.judgeStep (s : State) (n : Nat) (ns : Int) (force : Bool) : State × Bool × Bool :=
  let above := decide (s.f (F.TB_STEPLIM.STEP_LIMIT n) < ns.natAbs)
  if above && !force then ((s.setB (F.TB_STAT.STEP_REFUSED n) true).raise (840 + n), false, false)
  else if above then (((s.stepBase n ns).setB (F.TB_STAT.FORCED n) true).raise (840 + n), true, true)
  else (s.stepBase n ns, true, false)

/-- TB_STEP (R469 to R472). -/
def execTbStep (f : Fn) (d : Words8) (s : State) : Host.Outcome State Fault Refusal :=
  adminCmd s f d 0x51 fun s r =>
    let n := fieldOf d.w1 0 3
    let x := s.judgeStep n (signed 64 (pair64 d.w2 d.w3)) (d.w4 == 0x464F5243)
    if x.2.1 then x.1.adminDone2 r (if x.2.2 then 1 else 0) else x.1.adminRefuse r .stepLimit

/-- BLOCK_START with block 1: the set-up state ends, distribution and the transparent clock run (R463, R464). -/
def execBlockStartTimeBases (f : Fn) (d : Words8) (s : State) : Host.Outcome State Fault Refusal :=
  blockCmd s f d 0x54 1 fun s r =>
    let s := if s.timeDist then s else s.bdMarkAll
    ((s.withTimeUp true).withTimeDist true).adminDone r

/-- BLOCK_STOP with block 1: distribution and the transparent clock stop; no base stops and the block stays outside
its set-up state (R464, R48). -/
def execBlockStopTimeBases (f : Fn) (d : Words8) (s : State) : Host.Outcome State Fault Refusal :=
  blockCmd s f d 0x55 1 fun s r => (s.withTimeDist false).adminDone r

/-- Start or end a slew of base `n` by a write of TB_SLEW (R466, R467, R494). -/
def State.slewWrite (s : State) (w : Agent) (n : Nat) (v : BitVec 64) : State :=
  let rate := (v.extractLsb' 32 11).toNat
  let amount := signed 32 (v.extractLsb' 0 32).toNat
  let c := clampTo 1 2000 rate
  let s := if c.2 = 0 then s else s.clampBy w
  let s := s.setF (F.TB_SLEW.RATE n) c.1
  let s := s.modTb n fun t => { t with slewRem := amount * (nsUnit : Int) }
  s.setB (F.TB_SLEW.ACTIVE n) (!(decide (amount = 0)))

/-- What AMOUNT reads: the remainder in ns, toward zero (R494). -/
def State.slewAmount (s : State) (n : Nat) : Nat :=
  let r := (s.tb n).slewRem
  unsigned 32 (if r < 0 then -(((-r) / (nsUnit : Int))) else r / (nsUnit : Int))

/-- TB_SLEW_WRITE (R467). -/
def execTbSlewWrite (w : Agent) (n : TbId) (v : BitVec 64) (s : State) : Host.Outcome State Fault Refusal :=
  if s.mayWrite w then .next (s.slewWrite w n.val v) else .next s

/-- SLEW_DONE (R467): the remainder of a running slew has reached 0. -/
def execSlewDone (n : TbId) (s : State) : Host.Outcome State Fault Refusal :=
  if s.fb (F.TB_SLEW.ACTIVE n.val) && decide ((s.tb n.val).slewRem = 0) then
    .next (((s.setB (F.TB_SLEW.ACTIVE n.val) false).setB (F.TB_STAT.SLEW_DONE n.val) true).raise (840 + n.val))
  else .next s

/-- The reader's number among the captures of R474: H0, H1, then the engines. -/
def readerIx (r : Agent) : Nat :=
  match r with
  | .host f => f.val
  | .engine e => 2 + e.val

/-- Capture base `n` for a reader (R474): low half {NANOSECONDS, FRAC and the low seconds}, as TB_TIME lays it out
(R498). -/
def State.tbCapture (s : State) (r : Agent) (n : Nat) : State :=
  let v := s.readVal n
  let t := stampOf v
  let frac := v % nsUnit / 256
  let all := frac + t.ns * 65536 + t.sec * 281474976710656
  s.setCap (readerIx r) (all % 18446744073709551616, all / 18446744073709551616)

/-- Word `k` of the reader's capture. -/
def State.capWord (s : State) (r : Agent) (k : Nat) : Word :=
  let c := s.cap (readerIx r)
  BitVec.ofNat 32 ((c.1 + c.2 * 18446744073709551616) / 2 ^ (32 * k))

/-- TB_TIME_CAPTURE (R474): word 0 of TB_TIME is read. -/
def execTbTimeCapture (r : Agent) (n : TbId) (s : State) : Host.Outcome State Fault Refusal :=
  if s.mayRead r then
    let s := s.tbCapture r n.val
    .next (s.withReadData (s.capWord r 0))
  else .next s

/-- Load base `n` from TB_SET (R499): the words as written, with NANOSECONDS clamped. -/
def State.tbSetLoad (s : State) (w : Agent) (n : Nat) : State :=
  let ns := clampTo 0 999999999 (s.f (F.TB_SET.NANOSECONDS n))
  let s := if ns.2 = 0 then s else (s.setF (F.TB_SET.NANOSECONDS n) ns.1).clampBy w
  let v := s.f (F.TB_SET.SECONDS n) * secUnit + ns.1 * nsUnit + s.f (F.TB_SET.FRAC n) * 256
  s.modTb n fun t => { t with val := v % tbWrap }

/-- TB_SET (R463, R499): word 0 is written; outside the set-up state the write is ignored and counts (R48). -/
def State.tbSetWrite (s : State) (w : Agent) (n : Nat) (v : Word) : State :=
  if s.timeUp then s.clampBy w
  else ((s.setReg (0x40030 + n * 0x100) v).tbSetLoad w n)

/-- TB_SET (R499). -/
def execTbSet (w : Agent) (n : TbId) (v : Word) (s : State) : Host.Outcome State Fault Refusal :=
  if s.mayWrite w then .next (s.tbSetWrite w n.val v) else .next s

/-- A lane timer of `ms` on the base bound to the lane. -/
def State.laneMs (s : State) (l ms : Nat) : Timer := s.after (some (s.baseOf l)) (tbMs ms)

end Sys2Proof.Machine
end

