-- ==== Sys2Proof/Machine/Ecc.lean ====
section
/-! DEFINITION. ECC and the scrubber (16 R694 to R696, R705 to R707). -/
namespace Sys2Proof.Machine

/-- Update the boot state. -/
def State.modBoot (s : State) (g : Boot → Boot) : State := s.withBoot (g s.boot)

/-- A new entry of the ECC log, over the oldest (R707). -/
def State.eccLog (s : State) (x : ScrubRead) (uncorr : Bool) : State :=
  let i := s.f F.GLB_ECCSTAT.LOG_HEAD
  let t := s.nowStamp 0
  let a := 0x100 + 16 * i
  let w1 := x.mem.val * 16777216 + uncorr.toNat * 8388608 + x.scrub.toNat * 4194304 + x.synd.toNat * 256 + x.unit % 256
  let s := (s.setReg a (BitVec.ofNat 32 x.addr)).setReg (a + 4) (BitVec.ofNat 32 w1)
  ((s.setReg (a + 8) t.secWord).setReg (a + 12) t.nsWord).wrapInc F.GLB_ECCSTAT.LOG_HEAD

/-- A corrected error (R694, R695): above CE_LIMIT, source 890 once in the pass. -/
def State.eccCorrected (s : State) (x : ScrubRead) : State :=
  let s := (s.eccLog x false).satAdd F.GLB_ECCSTAT.CE 1
  let n := s.boot.cePass + 1
  let above := decide (s.f F.GLB_ECCCTRL.CE_LIMIT < n) && !(s.boot.ceDone)
  (s.modBoot fun b => { b with cePass := n, ceDone := b.ceDone || above }).raiseIf above 890

/-- An uncorrectable error (R694): the word is poisoned until its next write. -/
def State.eccUncorrectable (s : State) (x : ScrubRead) : State :=
  let s := ((s.eccLog x true).satAdd F.GLB_ECCSTAT.UE 1).raise 891
  let k := (256 * x.mem.val + x.unit, x.addr)
  let s := if x.scrub then s else s.modBoot fun b => { b with found := some k }
  if s.poison.contains k then s else s.withPoison (s.poison ++ [k])

/-- A fetch or a load of an engine meets an uncorrectable error at word `w` of unit `u` of memory `m` (R606): it is reported as
R694 says, its syndrome free, unless the command that gave it has done so (log 95). -/
def State.eccMet (s : State) (m : Fin 10) (u w : Nat) : State :=
  if s.boot.found = some (256 * m.val + u, w) then s.modBoot fun b => { b with found := none }
  else
    let d := s.drawWord
    d.2.eccUncorrectable { scrub := true, kind := .uncorrectable, mem := m, unit := u, addr := w, synd := d.1.extractLsb' 0 7 }

/-- The pass of the scrubber has lasted SCRUB_MS (R695). -/
def State.passOver (s : State) : Bool := decide (s.boot.passAt + s.f F.GLB_ECCCTRL.SCRUB_MS * ltMs ≤ s.now)

/-- The end of a pass (R695): the next one starts. -/
def State.scrubPass (s : State) : State :=
  let s := (s.wrapInc F.GLB_ECCSTAT.SCRUB_PASS).raise 893
  s.modBoot fun b => { b with cePass := 0, ceDone := false, passAt := s.now }

end Sys2Proof.Machine
end

