-- ==== Sys2Proof/Machine/Firn.lean ====
section
/-! DEFINITION. Firn (08): cells, holds, charges, policers, WRED, admission, the Crevasse sweep. -/
namespace Sys2Proof.Machine

/-- Cells of a frame of `l` payload bytes (R278). -/
def cellsFor (l : Nat) : Nat := (l + 16 + 63) / 64

/-- CHARGED(p) (R327). -/
def State.portCharged (s : State) (p : Nat) : Nat :=
  s.chg (4 * p) + s.chg (4 * p + 1) + s.chg (4 * p + 2) + s.chg (4 * p + 3)

/-- RESERVE(p) (R328). -/
def State.reserve (s : State) (p : Nat) : Nat := s.f (F.FIRN_PORTRES.RESERVE p)

/-- Sum over the 40 ports. -/
def sumPorts (g : Nat → Nat) : Nat := (List.range 40).foldl (fun a p => a + g p) 0

/-- Cells of the shared pool that port `p` uses with `c` cells charged (R328). -/
def State.sharedUse (s : State) (p c : Nat) : Nat := c - s.reserve p

/-- Free cells of the shared pool (R328, R357). -/
def State.sharedFree (s : State) : Nat :=
  262144 - sumPorts s.reserve - sumPorts (fun p => s.sharedUse p (s.portCharged p))

/-- Cells on the free list (R357). -/
def State.freeCells (s : State) : Nat := 262144 - (s.cells.filter fun e => !e.2.free).length

/-- A copy of `n` cells for port `p` fits (R328). -/
def State.fits (s : State) (p n : Nat) : Bool :=
  let c := s.portCharged p
  decide (s.sharedUse p (c + n) - s.sharedUse p c ≤ s.sharedFree)

/-- The alarm of R354: raised when its condition becomes true while LOW is 0. -/
def State.checkLow (s : State) : State :=
  let c := decide (s.sharedFree < 16 * s.f F.FIRN_CTRL.LOW_WATER)
  if c && !s.lowCond && !(s.fb F.FIRN_STAT.LOW) then
    ((s.setB F.FIRN_STAT.LOW true).withLowCond c).raise 1017
  else s.withLowCond c

/-- The profile bound to port `p` and class `c` (R361). -/
def State.profOf (s : State) (p c : Nat) : Nat := fieldOf (s.reg (0x60300 + 4 * p)) (8 * c) 5

/-- 4 x G_MAX of a port and class, in cells. -/
def State.gLimit (s : State) (p c : Nat) : Nat := 4 * s.f (F.FIRN_WPROF.G_MAX (s.profOf p c))

/-- One step of the LFSR of x^16 + x^14 + x^13 + x^11 + 1 (R342, log 12: it shifts right). -/
def lfsrNext (l : BitVec 16) : BitVec 16 :=
  let b := (l.getLsbD 0 ^^ l.getLsbD 2 ^^ l.getLsbD 3 ^^ l.getLsbD 5)
  (l >>> 1) ||| (if b then 0x8000#16 else 0#16)

/-- Count a drop at port, class and colour (R366). -/
def State.countDrop (s : State) (p c k : Nat) : State := s.satAdd (F.FIRN_DROP.DROPS (12 * p + 3 * c + k)) 1

/-- avg(p, c) after one more copy (R341): the difference is shifted arithmetically. -/
def avgNext (avg q wexp : Nat) : Nat := ((avg : Int) + ((256 * q : Nat) - (avg : Int)) / (2 ^ wexp : Int)).toNat

/-- The WRED test of R341 and R342 on a copy of `n` cells: avg and, if compared, the LFSR advance. True: admitted. -/
def State.wred (s : State) (p c k n : Nat) : Bool × State :=
  let w := s.profOf p c
  let q := s.chg (4 * p + c)
  let a := avgNext (s.avgOf (4 * p + c)) q (s.f (F.FIRN_WPROF.W_EXP w))
  let s := s.setAvgOf (4 * p + c) a
  if s.gLimit p c < q + n then (false, s)
  else if k = 0 then (true, s)
  else
    let lo := 4 * 256 * (if k = 1 then s.f (F.FIRN_WPROF.Y_MIN w) else s.f (F.FIRN_WPROF.R_MIN w))
    let hi := 4 * 256 * (if k = 1 then s.f (F.FIRN_WPROF.Y_MAX w) else s.f (F.FIRN_WPROF.R_MAX w))
    let p8 := if k = 1 then s.f (F.FIRN_WPROF.Y_MAXP w) else s.f (F.FIRN_WPROF.R_MAXP w)
    if a < lo then (true, s)
    else if hi ≤ a then (false, s)
    else
      let pb := p8 * (a - lo) / (hi - lo)
      let l := s.lfsrOf p
      (!(decide ((l.toNat % 256) < pb)), s.setLfsrOf p (lfsrNext l))

/-- One output of a frame that is offered to Firn: port, class, and the CQs a host port's copy is bound for. -/
structure OutReq where
  port : Nat
  tc : Nat
  cqs : List Nat := []
  /-- a copy of a message that the transparent clock forwards: a drop by WRED or the port hold counts in TC_DROP too (R486) -/
  ptp : Bool := false
deriving DecidableEq, Repr

/-- Test 1 of R332 for each CQ of the output: those over quota are dropped and counted (R330, R395). -/
def State.quotaTest (s : State) (n : Nat) : List Nat → List Nat × State
  | [] => ([], s)
  | q :: qs =>
    if s.f (F.FIRN_RQUOTA.QUOTA q) < s.heldOf q + n then
      ((s.satAdd (F.FIRN_RQUOTA.QUOTA_DROP q) 1).modCq q fun c => { c with drops := c.drops + 1 }).quotaTest n qs
    else
      let r := s.quotaTest n qs
      (q :: r.1, r.2)

/-- A copy for CQs dropped under tests 2 and 3 counts for each of them (R395). -/
def State.cqDrops (s : State) (qs : List Nat) : State :=
  qs.foldl (fun st q => st.modCq q fun c => { c with drops := c.drops + 1 }) s

/-- Charge a copy (R327, R330): a CQ named twice holds the frame's cells once (log 55). -/
def State.charge (s : State) (o : OutReq) (n : Nat) : State :=
  let s := s.modChg (4 * o.port + o.tc) (· + n)
  o.cqs.eraseDups.foldl (fun st q => st.modHeldOf q (· + n)) s

/-- A forwarded PTP message is lost to WRED or the port hold (R486). -/
def State.ptpDrop (s : State) (o : OutReq) : State := if o.ptp then s.satAdd F.TB_TCSTAT.TC_DROP 1 else s

/-- Judge one output of a dropping admission (R332, R347): the output as admitted, charged. -/
def State.judgeOut (s : State) (o : OutReq) (k n : Nat) : Option OutReq × State :=
  if decide (32 ≤ o.port) && decide (o.port < 36) && (s.eth (o.port - 32)).holdOver then
    (none, (s.satAdd (F.FIRN_PHOLD.PH_DROP (o.port - 32)) 1).ptpDrop o)
  else
    let q := s.quotaTest n o.cqs
    if q.1.isEmpty && !o.cqs.isEmpty then (none, q.2)
    else
      let o := { o with cqs := q.1 }
      let w := q.2.wred o.port o.tc k n
      if !w.1 then (none, ((w.2.countDrop o.port o.tc k).cqDrops o.cqs).ptpDrop o)
      else if !(w.2.fits o.port n) then
        (none, ((w.2.countDrop o.port o.tc k).satAdd F.FIRN_DROPSTAT.NOSPACE 1).cqDrops o.cqs)
      else (some o, w.2.charge o n)

/-- Judge the outputs one after another; the caller gives them in ascending port number (R332). -/
def State.judgeOuts (s : State) (k n : Nat) : List OutReq → List OutReq × State
  | [] => ([], s)
  | o :: os =>
    let r := s.judgeOut o k n
    let t := r.2.judgeOuts k n os
    (match r.1 with | some o => o :: t.1 | none => t.1, t.2)

/-- The first free cell at or after `k`, wrapping; `fuel` cells are looked at beyond it. -/
def State.freeCellFrom (s : State) (k : Nat) : Nat → Nat
  | 0 => k % 262144
  | n + 1 => if (s.cell (k % 262144)).free then k % 262144 else s.freeCellFrom (k + 1) n

/-- Allocate `n` cells of count `cnt`, each a free cell the spec does not choose (R323, log 8). -/
def State.allocCells (s : State) (cnt owner tc pass : Nat) : Nat → List Nat × State
  | 0 => ([], s)
  | n + 1 =>
    let d := s.drawCell
    let c := d.2.freeCellFrom d.1 (d.2.cells.length + 1)
    let s := d.2.setCell c { cnt := cnt, free := false, owner := owner, ownerTc := tc, seen := none, touched := some pass }
    let r := s.allocCells cnt owner tc pass n
    (c :: r.1, r.2)

/-- Four words of the cell 0 header, whose bit layout the spec does not give (R278): free values. -/
def State.drawHeader (s : State) : List Byte × State :=
  let a := s.drawWord
  let b := a.2.drawWord
  let c := b.2.drawWord
  let d := c.2.drawWord
  (wordsBytes [a.1, b.1, c.1, d.1], d.2)

/-- Write bytes into the cells that follow the first of a chain, 64 to a cell (R278). -/
def State.fillRest (s : State) (bytes : List Byte) : List Nat → State
  | [] => s
  | c :: cs => (s.wrBytes (0x08000000 + 64 * c) (bytes.take 64)).fillRest (bytes.drop 64) cs

/-- Write a frame's payload into its chain: bytes 0-47 in cell 0 after the header, 64 in each later cell (R278). -/
def State.fillCells (s : State) (bytes : List Byte) : List Nat → State
  | [] => s
  | c :: cs => (s.wrBytes (0x08000000 + 64 * c + 16) (bytes.take 48)).fillRest (bytes.drop 48) cs

/-- Cells that are written lose their poison marks (R694). -/
def State.healCells (s : State) (cs : List Nat) : State :=
  s.withPoison (s.poison.filter fun x => !(decide (x.1 = 2048) && cs.contains (x.2 / 16)))

/-- A cell of frame `fid` holds a poisoned word (R353). -/
def State.framePoisoned (s : State) (fid : Nat) : Bool :=
  s.poison.any fun x => decide (x.1 = 2048) && (s.frame fid).cells.contains (x.2 / 16)

/-- Allocate a frame of `l` payload bytes for the outputs that admitted it: every cell carries their number (R324,
R332). -/
def State.newFrame (s : State) (outs : List OutReq) (colour l : Nat) (payload : List Byte) : Nat × State :=
  let o := outs.getLast?.getD { port := 0, tc := 0 }
  let r := s.allocCells outs.length o.port o.tc (s.f F.FIRN_SWEEP.PASS) (cellsFor l)
  let h := r.2.drawHeader
  let s := ((h.2.wrBytes (0x08000000 + 64 * r.1.headD 0) h.1).fillCells payload r.1).healCells r.1
  let fid := s.nextFid
  let fr : FirnFrame :=
    { cells := r.1, holds := outs.map fun x => (x.port, x.tc), cqs := outs.flatMap fun x => x.cqs.map (x.port * 128 + ·),
      colour := colour }
  (fid, (s.setFrame fid fr).withNextFid (fid + 1))

/-- A dropping admission of a frame of `l` payload bytes (R331, R332): the frame and the outputs that took it. -/
def State.takeIn (s : State) (outs : List OutReq) (k l : Nat) (payload : List Byte) :
    Option (Nat × List OutReq) × State :=
  let r := s.judgeOuts k (cellsFor l) outs
  if r.1.isEmpty then (none, r.2.checkLow)
  else
    let a := r.2.newFrame r.1 k l payload
    (some (a.1, r.1), a.2.checkLow)

/-- A waiting admission fits (R331). -/
def State.fitsWaiting (s : State) (p c n : Nat) : Bool :=
  s.fits p n && decide (s.chg (4 * p + c) + n ≤ s.gLimit p c)

/-- A waiting admission that fits is admitted. -/
def State.admitWaiting (s : State) (p c : Nat) (payload : List Byte) : Nat × State :=
  let o : OutReq := { port := p, tc := c }
  let a := (s.charge o (cellsFor payload.length)).newFrame [o] 0 payload.length payload
  (a.1, a.2.checkLow)

/-- One hold less on a cell; it returns to the free list at count 0 (R324). -/
def State.releaseCell (s : State) (p tc c : Nat) : State :=
  let x := s.cell c
  let n := x.cnt - 1
  s.setCell c { x with cnt := n, free := decide (n = 0), owner := p, ownerTc := tc,
                       seen := if n = 0 then none else x.seen,
                       touched := if n = 0 then some (s.f F.FIRN_SWEEP.PASS) else x.touched }

/-- Set CHARGED(p, c), index `4p + c`; avg is cleared when the charge is 0 (R341). -/
def State.putCharge (s : State) (i q : Nat) : State :=
  let s := s.setChg i q
  if q = 0 then s.setAvgOf i 0 else s

/-- Remove a charge (R327). -/
def State.uncharge (s : State) (p c n : Nat) : State := s.putCharge (4 * p + c) (s.chg (4 * p + c) - n)

/-- Output `p` releases its hold on frame `fid` in class `c` (R301, R324, R327). -/
def State.release (s : State) (fid p c : Nat) : State :=
  let x := s.frame fid
  if x.holds.contains (p, c) then
    let s := x.cells.foldl (fun st k => st.releaseCell p c k) s
    let hs := x.holds.erase (p, c)
    let s := if hs.isEmpty then s.setFrame fid {} else s.setFrame fid { x with holds := hs }
    (s.uncharge p c x.cells.length).checkLow
  else s

/-- A frame for CQ `q` is no longer held: HELD(q) falls (R330). -/
def State.unheld (s : State) (q n : Nat) : State := s.modHeldOf q (· - n)

/-- Meter `b` bytes with policer `i` (R336, R337). -/
def State.meter (s : State) (i colour b : Nat) : Nat × State :=
  if s.fb (F.FIRN_POL.EN i) then
    let x := s.bucket i
    let dt := s.now - x.last
    let cbs := s.f (F.FIRN_POL.CBS i) * 64 * 160000
    let pbs := s.f (F.FIRN_POL.PBS i) * 64 * 160000
    let tc := min cbs (x.tc + s.f (F.FIRN_POL.CIR i) * dt)
    let tp := min pbs (x.tp + s.f (F.FIRN_POL.PIR i) * dt)
    let aware := s.fb (F.FIRN_POL.AWARE i)
    let b := b * 160000
    if (aware && decide (colour = 2)) || decide (tp < b) then (2, s.setBucket i { tc := tc, tp := tp, last := s.now })
    else if (aware && decide (colour = 1)) || decide (tc < b) then
      (1, s.setBucket i { tc := tc, tp := tp - b, last := s.now })
    else (0, s.setBucket i { tc := tc - b, tp := tp - b, last := s.now })
  else (colour, s)

/-- The ingress policer of a logical bus or an Ethernet port (128 + e) meters (R334, R363). -/
def State.ingressMeter (s : State) (i colour l : Nat) : Nat × State :=
  if s.fb (F.FIRN_IPOL.EN i) then s.meter (s.f (F.FIRN_IPOL.POLICER i)) colour (l + 16) else (colour, s)

/-! Loading policers (R336, R338) -/

/-- Take POL_LOAD (R338, R399). -/
def State.polLoadTake (s : State) (r : AdminRef) (d : Words8) : State :=
  let first := fieldOf d.w1 0 12
  let c := clampTo 1 4096 (fieldOf d.w4 0 13)
  if s.polLoad.isSome then s.adminBusy r
  else if 4096 < first + c.1 then s.adminRefuse r .range
  else (s.clamp r.f c.2).withPolLoad (some ⟨r, first, c.1, false⟩)

/-- The clamps of R336 on a record: its words and how many fields were clamped. EN and AWARE are single bits. -/
def polClamp (v : BitVec 64) : Nat × Nat × Nat × Nat × Nat :=
  let pir := clampTo 1 1048575 (v.extractLsb' 42 20).toNat
  let cir := clampTo 0 pir.1 (v.extractLsb' 22 20).toNat
  let pbs := clampTo 33 2047 (v.extractLsb' 11 11).toNat
  let cbs := clampTo 33 2047 (v.extractLsb' 0 11).toNat
  (pir.1, cir.1, pbs.1, cbs.1, pir.2 + cir.2 + pbs.2 + cbs.2)

/-- Load policer `i` with a record, both buckets full. -/
def State.polSet (s : State) (f i : Nat) (v : BitVec 64) : State :=
  let c := polClamp v
  let word : Nat := (v.extractLsb' 62 2).toNat * 2 ^ 62 + c.1 * 2 ^ 42 + c.2.1 * 2 ^ 22 + c.2.2.1 * 2 ^ 11 + c.2.2.2.1
  let s := (s.setReg (0x68000 + 8 * i) (BitVec.ofNat 32 word)).setReg (0x68004 + 8 * i) (BitVec.ofNat 32 (word / 2 ^ 32))
  (s.setBucket i { tc := c.2.2.2.1 * 64 * 160000, tp := c.2.2.1 * 64 * 160000, last := s.now }).clamp f c.2.2.2.2

/-- Load a run of policers. -/
def State.polRun (s : State) (f i : Nat) : List (BitVec 64) → State
  | [] => s
  | v :: vs => (s.polSet f i v).polRun f (i + 1) vs

/-- POL_LOAD (R338). -/
def execPolLoad (f : Fn) (d : Words8) (s : State) : Host.Outcome State Fault Refusal :=
  adminCmd s f d 0x4F fun s r => s.polLoadTake r d

/-- POL_LOAD_COMMIT (R338): the transferred records take effect. -/
def execPolLoadCommit (recs : List (BitVec 64)) (s : State) : Host.Outcome State Fault Refusal :=
  match s.polLoad with
  | some l =>
    if recs.length = l.count then
      .next (((s.withPolLoad none).polRun l.ref.f l.first recs).adminDone l.ref)
    else .next s
  | none => .next s

/-! The Crevasse sweep (R348 to R352) -/

/-- HOLDS(x): hold records that name the frame of cell `c` (R348). -/
def State.holdsOf (s : State) (c : Nat) : Nat :=
  s.frames.foldl (fun n e => if e.2.cells.contains c then n + e.2.holds.length else n) 0

/-- The kind of mismatch of a cell, if any (R351); with count 0 and HOLDS above 0 it is COUNT_LOW (log 121). -/
def leakKind (x : Cell) (holds : Nat) : Option Nat :=
  if x.free then (if 0 < x.cnt ∨ 0 < holds then some 4 else none)
  else if x.cnt = 0 then (if 0 < holds then some 3 else some 0)
  else if holds = 0 then some 1
  else if holds < x.cnt then some 2
  else if x.cnt < holds then some 3
  else none

/-- Write a leak log entry (R351, R352, R367). -/
def State.leakLog (s : State) (acted : Bool) (kind holds cnt ownerTc owner cell : Nat) : State :=
  let i := s.f F.FIRN_SWEEP.LOG_HEAD
  let lo := cell + owner * 2 ^ 18 + ownerTc * 2 ^ 24 + cnt * 2 ^ 26
  let hi := holds + kind * 2 ^ 6 + acted.toNat * 2 ^ 9 + s.f F.FIRN_SWEEP.PASS * 2 ^ 10
  let s := (s.setReg (0x63000 + 8 * i) (BitVec.ofNat 32 lo)).setReg (0x63004 + 8 * i) (BitVec.ofNat 32 hi)
  ((s.setF F.FIRN_SWEEP.LOG_HEAD ((i + 1) % 16)).satAdd F.FIRN_SWEEP.LEAKS 1).raise 1016

/-- The cell after the action of R351, and whether the action freed it. -/
def leakAct (x : Cell) (kind holds pass : Nat) : Cell × Bool :=
  if kind = 0 then ({ x with free := true, touched := some pass }, true)
  else if kind = 1 then ({ x with cnt := 0, free := true, touched := some pass }, true)
  else if kind = 2 ∨ kind = 3 then ({ x with cnt := holds }, false)
  else if holds = 0 then ({ x with cnt := 0, free := true, touched := some pass }, true)
  else ({ x with cnt := holds, free := false, touched := some pass }, false)

/-- Compare one cell (R348, R350, R351). -/
def State.sweepCell (s : State) (c : Nat) : State :=
  let x := s.cell c
  let pass := s.f F.FIRN_SWEEP.PASS
  if x.touched = some pass then s.setCell c { x with seen := none }
  else
    let x := { x with touched := none }
    let holds := s.holdsOf c
    match leakKind x holds with
    | none => s.setCell c { x with seen := none }
    | some k =>
      if x.seen = some (k, (pass + 4194303) % 4194304) then
        let acted := s.fb F.FIRN_CTRL.AUTO_RECLAIM
        let s := s.leakLog acted k holds x.cnt x.ownerTc x.owner c
        if acted then
          let a := leakAct x k holds pass
          let s := s.setCell c { a.1 with seen := none }
          if a.2 then s.satAdd F.FIRN_SWEEP.RECLAIMED 1 else s
        else s.setCell c { x with seen := some (k, pass) }
      else s.setCell c { x with seen := some (k, pass) }

/-- What CHARGED(p, c) should be: the cells of the frames that `p` holds in class `c` (R349). -/
def State.chargedSum (s : State) (p c : Nat) : Nat :=
  s.frames.foldl (fun n e => n + (e.2.holds.filter (· = (p, c))).length * e.2.cells.length) 0

/-- Compare CHARGED(p, c) of index `4p + c` once a pass (R349, R350, R351). -/
def State.sweepCharge (s : State) (i : Nat) : State :=
  let pass := s.f F.FIRN_SWEEP.PASS
  let right := s.chargedSum (i / 4) (i % 4)
  if s.chg i = right then s.setChgSeen i 0
  else if s.chgSeen i ≠ 0 ∧ s.chgSeen i % 4194304 = pass then
    let acted := s.fb F.FIRN_CTRL.AUTO_RECLAIM
    let s := s.leakLog acted 5 0 0 (i % 4) (i / 4) 0
    if acted then (s.putCharge i right).setChgSeen i 0 else s.setChgSeen i (pass + 1)
  else s.setChgSeen i (pass + 1)

/-- SWEEP_COMPARE (R348): the cell that is next on the walk; with the last cell of a pass the charges are compared too and
PASS counts. -/
def execSweepCompare (c : CellId) (s : State) : Host.Outcome State Fault Refusal :=
  if s.fb F.FIRN_CTRL.SWEEP_EN && decide (c.val = s.sweepAt) then
    let s := (s.sweepCell c.val).withSweepAt ((c.val + 1) % 262144)
    let s := if c.val = 262143 then ((List.range 160).foldl State.sweepCharge s).wrapInc F.FIRN_SWEEP.PASS else s
    .next s.checkLow
  else .next s

/-! Towards Col -/

/-- A frame enters the virtual output queue of an output (R282). -/
def State.enqueue (s : State) (inp out tc fid : Nat) (what : Deliver) : State :=
  s.modVoq ((inp * 40 + out) * 4 + tc) fun q => q ++ [{ fid := fid, left := (s.frame fid).cells.length, tc := tc, what := what }]

end Sys2Proof.Machine
end

