-- ==== Sys2Proof/Machine/Mor.lean ====
section
/-! DEFINITION. Moraine, the traffic recorder (12): candidates, records, rings, triggers, control. -/
namespace Sys2Proof.Machine

/-! Bytes of an Ethernet frame -/

/-- Byte `i`, and two bytes most significant first. -/
def byteAt (bs : List Byte) (i : Nat) : Nat := (bs.getD i 0).toNat
def be16At (bs : List Byte) (i : Nat) : Nat := byteAt bs i * 256 + byteAt bs (i + 1)

/-- Where the EtherType stands, after at most one IEEE 802.1Q tag. -/
def typeOff (bs : List Byte) : Nat := if be16At bs 12 = 0x8100 then 16 else 12

/-- The EtherType of a frame (R511). -/
def etherType (bs : List Byte) : Nat := be16At bs (typeOff bs)

/-! Candidates -/

/-- STATUS codes of a record (R512). -/
abbrev Ms.ok : Nat := 0
abbrev Ms.rxError : Nat := 1
abbrev Ms.txError : Nat := 2
abbrev Ms.quarantined : Nat := 3
abbrev Ms.killed : Nat := 4
abbrev Ms.drop : Nat := 5
abbrev Ms.loss : Nat := 6
abbrev Ms.fill : Nat := 255

/-- A stamp of base `n` as a value of base TB: moved by what the two bases differ by now (R516, log 96). -/
def State.onTb (s : State) (n : Nat) (t : Stamp) : Nat :=
  ((t.sec * secUnit + t.ns * nsUnit : Nat) + (s.baseVal (s.f F.MOR_CTRL.TB) : Int) - (s.baseVal n : Int)).toNat

/-- Payload bytes stored under option PAY (R510). -/
def payLen (pay len : Nat) : Nat :=
  if pay = 0 then 0 else if pay = 1 then min len 8 else if pay = 2 then min len 64 else len

/-- Word 6 of a frame's record: STATUS is added when it is written (R511). -/
def frameFlags (fr : Frame) (colour tc : Nat) : Word :=
  BitVec.ofNat 32 (colour % 4 * 256 + tc % 4 * 1024 + fr.esi.toNat * 4096 + fr.brs.toNat * 8192 + fr.rtr.toNat * 16384 +
    fr.sec.toNat * 32768 + fr.sdt.toNat * 65536 + fr.vcid.toNat * 16777216)

/-- DETAIL of an error record (R512). -/
def errDetail (ty field bitpos : Nat) : Word := BitVec.ofNat 32 (ty % 32 + field % 32 * 32 + min bitpos 16383 * 1024)

/-- The candidate of a bus frame at a lane, with the payload bytes that it stores (R508, R511). -/
def State.laneCand (s : State) (tx : Bool) (l status : Nat) (t : Stamp) (fr : Frame) (pay : List Byte) (colour tc : Nat)
    (detail : Word) : Cand :=
  { skind := if tx then 1 else 0, snum := l, status := status, stamp := t, time := s.onTb (s.baseOf l) t, w4 := fr.fmtId,
    len := fr.bytes, pay := pay, flags := frameFlags fr colour tc,
    detail := if status = Ms.ok then (if fr.fmt = .xl then fr.af else 0) else detail,
    id := BitVec.ofNat 29 (fr.fmt.idMask fr.id.toNat) }

/-- Col port at which a candidate is made (R277). -/
def Cand.port (c : Cand) : Nat := if c.skind < 2 then c.snum / 4 else if c.skind < 4 then 32 + c.snum else c.snum

/-- Offer a candidate: it enters Firn and its input's queue towards P38 in TC0, or counts in LOST_ADMIT (R281, R517, R523,
R343). The copy is a frame of its own, with its own cells, judged before the other outputs of the frame it was made of (R332,
log 122). -/
def State.morOffer (s : State) (c : Cand) : State :=
  if !s.mor.capture || s.fb F.MOR_STAT.FROZEN then s
  else
    let r := s.takeIn [{ port := 38, tc := 0 }] (fieldOf c.flags 8 2) c.pay.length c.pay
    match r.1 with
    | some x => r.2.enqueue c.port 38 0 x.1 (.mor c)
    | none =>
      let s := r.2.satAdd F.MOR_LOSS.LOST_ADMIT 1
      s.withMor { s.mor with lost := min 4294967295 (s.mor.lost + 1) }

/-- A lane makes no candidate in OFF or RATE_SEEK (R509). -/
def State.morLane (s : State) (l : Nat) (c : Cand) : State :=
  let st := s.f (F.LANE_STATE.STATE l)
  if st = 0 ∨ st = 3 then s else s.morOffer c

/-- PAY of a lane. -/
def State.lanePay (s : State) (l : Nat) : Nat := s.f (F.MOR_LCAP.PAY l)

/-- Payload bytes of `fr` that a lane's records store (R510). -/
def State.lanePayOf (s : State) (l : Nat) (fr : Frame) : List Byte := fr.data.take (payLen (s.lanePay l) fr.bytes)

/-- A valid frame received by a lane (R508, R509, R147). `recorded`: the decision offers it. -/
def State.morRx (s : State) (l : Nat) (t : Stamp) (fr : Frame) (colour tc : Nat) (recorded quar : Bool) : State :=
  let rx := s.f (F.MOR_LCAP.RX l)
  if quar then s.morLane l (s.laneCand false l Ms.quarantined t fr (s.lanePayOf l fr) 0 0 0)
  else if rx = 2 ∨ (rx = 1 ∧ recorded) then s.morLane l (s.laneCand false l Ms.ok t fr (s.lanePayOf l fr) colour tc 0)
  else s

/-- A frame of which only the header may be known. -/
def unknownFrame : Frame :=
  { fmt := .cb, id := 0, rtr := false, brs := false, esi := false, sec := false, sdt := 0, vcid := 0, af := 0, len := 0,
    data := [] }

/-- `n` bytes that no command tells (log 1). -/
def State.drawBytes (s : State) : Nat → List Byte × State
  | 0 => ([], s)
  | n + 1 =>
    let w := s.drawWord
    let r := w.2.drawBytes n
    (w.1.setWidth 8 :: r.1, r.2)

/-- A reception that an error ended, when ERR is 1 (R508). Payload bytes up to CAPLEN that had not arrived are free (R510). -/
def State.morRxErr (s : State) (l : Nat) (t : Stamp) (hdr : Option Frame) (ty field bitpos : Nat) : State :=
  if s.fb (F.MOR_LCAP.ERR l) then
    let fr := hdr.getD unknownFrame
    let n := payLen (s.lanePay l) fr.bytes
    let d := s.drawBytes (n - fr.data.length)
    let c := d.2.laneCand false l Ms.rxError t fr ((fr.data ++ d.1).take n) 0 0 (errDetail ty field bitpos)
    d.2.morLane l (if hdr.isSome then c else { c with w4 := 0, len := 0, pay := [], flags := 0, id := 0 })
  else s

/-- An attempt that ended in success, in an error or in a kill, when TX is 1 (R508). Payload bytes of a cut-through frame
that had not arrived whole are in its line buffer, but no command has told them: free (R510). -/
def State.morTx (s : State) (l status : Nat) (t : Stamp) (fr : Frame) (colour tc : Nat) (detail : Word) : State :=
  if s.fb (F.MOR_LCAP.TX l) then
    let n := payLen (s.lanePay l) fr.bytes
    let d := s.drawBytes (n - fr.data.length)
    d.2.morLane l (d.2.laneCand true l status t fr ((fr.data ++ d.1).take n) colour tc detail)
  else s

/-- What a drop record says of the frame: word 4, the ID that trigger units test, and word 6 but its STATUS (R511). -/
structure DropHdr where
  w4 : Word
  id : BitVec 29
  flags : Word
deriving DecidableEq, Repr

/-- Of a bus frame. -/
def busDropHdr (fr : Frame) (colour tc : Nat) : DropHdr :=
  { w4 := fr.fmtId, id := BitVec.ofNat 29 (fr.fmt.idMask fr.id.toNat), flags := frameFlags fr colour tc }

/-- Of an Ethernet frame. -/
def ethDropHdr (bs : List Byte) (colour tc : Nat) : DropHdr :=
  { w4 := BitVec.ofNat 32 (etherType bs), id := BitVec.ofNat 29 (etherType bs),
    flags := BitVec.ofNat 32 (colour % 4 * 256 + tc % 4 * 1024) }

/-- Of a frame that stands as a receive completion. -/
def RxItem.dropHdr (x : RxItem) (colour tc : Nat) : DropHdr :=
  if x.eth then ethDropHdr x.data colour tc
  else { w4 := x.w1, id := x.w1.setWidth 29,
         flags := BitVec.ofNat 32 (colour % 4 * 256 + tc % 4 * 1024 + fieldOf x.w2 12 4 % 16 * 4096 +
           fieldOf x.w2 24 8 * 65536 + fieldOf x.w2 16 8 * 16777216) }

/-- A Col drop at output `out`: kind 0 WRED or space, 1 quota, 2 route, loop or egress (R508, R512). -/
def State.morDrop (s : State) (input out kind cq : Nat) (h : DropHdr) (len : Nat) : State :=
  if s.fb F.MOR_CTRL.DROP_CAP && !(decide (out = 38)) then
    let v := s.baseVal (s.f F.MOR_CTRL.TB)
    s.morOffer { skind := 4, snum := input, status := Ms.drop, stamp := stampOf v, time := v,
                 w4 := h.w4, len := len, pay := [], flags := h.flags,
                 detail := BitVec.ofNat 32 (out % 64 + kind * 64 + cq % 128 * 256), id := h.id }
  else s

/-- Setting of a port in ETHCAP: 0 RX, 1 TX, [3:2] PAY (R528). -/
def State.ethCap (s : State) (e : Nat) : Nat := s.f F.MOR_CTRL.ETHCAP / 16 ^ e % 16

/-- The time base bound to port `e` (R500). -/
def State.ethBase (s : State) (e : Nat) : Nat := bitsOf (s.reg 0x40800) (3 * e) 3

/-- A frame received or sent by an Ethernet port, with its colour and class where known (R334, R508, R511). -/
def State.morEth (s : State) (tx : Bool) (e : Nat) (t : Stamp) (bytes : List Byte) (colour tc : Nat) : State :=
  let cap := s.ethCap e
  if cap / (if tx then 2 else 1) % 2 = 1 then
    s.morOffer { skind := if tx then 3 else 2, snum := e, status := Ms.ok, stamp := t, time := s.onTb (s.ethBase e) t,
                 w4 := (ethDropHdr bytes colour tc).w4, len := bytes.length,
                 pay := bytes.take (payLen (cap / 4) bytes.length), flags := (ethDropHdr bytes colour tc).flags, detail := 0,
                 id := (ethDropHdr bytes colour tc).id }
  else s

/-! Rings -/

/-- Units of 32 bytes that records may use: the region after its header of 4 KiB, or the host ring (R518, R521). -/
def State.morUnits (s : State) : Nat :=
  if s.fb F.MOR_CTRL.DEST then 2 ^ (s.f F.MOR_HRING.SIZE_LOG2 - 5) else s.f F.MOR_DRING.SIZE * 32768 - 128

/-- OLDEST: the offset of the oldest record, WRITE in an empty ring (R519). -/
def State.morOldest (s : State) : Nat :=
  match s.mor.recs with
  | [] => s.mor.write
  | r :: _ => r.off

/-- Put bytes at a ring offset: attached memory, or the memory of HFUNC (R518, R521). -/
def State.morPut (s : State) (off : Nat) (bs : List Byte) : State :=
  if s.fb F.MOR_CTRL.DEST then
    s.post (s.f F.MOR_CTRL.HFUNC) (s.f F.MOR_HRING.BASE * 4096 + off * 32) bs
  else s.wrBytes (dramBase + s.f F.MOR_DRING.BASE * 1048576 + 4096 + off * 32) bs

/-- MOR_STAT[63:57]. -/
def State.morBits (s : State) : Nat := bitsOf (s.reg 0x70034) 25 7

/-- Write the ring header of an attached ring (R519). -/
def State.morHeader (s : State) : State :=
  if s.fb F.MOR_CTRL.DEST then s
  else s.wrBytes (dramBase + s.f F.MOR_DRING.BASE * 1048576)
    (wordsBytes [BitVec.ofNat 32 s.mor.write, BitVec.ofNat 32 s.morOldest, BitVec.ofNat 32 (s.f F.MOR_STAT.NEXT_SEQ),
      BitVec.ofNat 32 s.mor.trigOff, BitVec.ofNat 32 s.morBits])

/-- A stamp on base TB is protected: MODE 1 with the attached ring, T - PRE_MS onward, until the freeze (R516). -/
def State.morProtected (s : State) (t : Nat) : Bool :=
  match s.mor.trigTime with
  | some x => decide (x ≤ t + tbMs (s.f F.MOR_WIN.PRE_MS))
  | none => false

/-- The records that `n` units from `off` would overwrite. -/
def State.morHit (s : State) (off n : Nat) : List RingRec :=
  s.mor.recs.filter fun r => decide (r.off < off + n) && decide (off < r.off + r.units)

/-- The runs of units, each an offset and a length, that records of these lengths take from offset `w` on in a ring of `u`
units, with the fill record before one that does not fit (R510). -/
def ringRuns (u : Nat) : Nat → List Nat → List (Nat × Nat)
  | _, [] => []
  | w, n :: ns => if w + n ≤ u then (w, n) :: ringRuns u ((w + n) % u) ns else (w, u - w) :: (0, n) :: ringRuns u (n % u) ns

/-- Whether writing records of these lengths from WRITE overwrites a protected record (R516). -/
def State.morBlocked (s : State) (ns : List Nat) : Bool :=
  !(s.fb F.MOR_CTRL.DEST) &&
    (ringRuns s.morUnits s.mor.write ns).any fun x => (s.morHit x.1 x.2).any fun r => s.morProtected r.time

/-- Whether records of these lengths fit before HEAD in a host ring (R521); WRITE = HEAD means an empty ring. -/
def State.morHostFits (s : State) (ns : List Nat) : Bool :=
  let u := s.morUnits
  let w := s.mor.write
  decide (((ringRuns u w ns).map Prod.snd).sum < u - (w + u - s.f F.MOR_HHEAD.HEAD % u) % u)

/-- Store bytes of a whole number of units at WRITE: what lies there is overwritten, WRITE advances, SEQ and RECORDS
count (R510, R518, R534). -/
def State.morStore (s : State) (bs : List Byte) (t : Nat) : State :=
  let n := bs.length / 32
  let w := s.mor.write
  let above := !(s.morHit w n).isEmpty && !(s.fb F.MOR_CTRL.DEST)
  let keep := s.mor.recs.filter fun r => !(decide (r.off < w + n) && decide (w < r.off + r.units))
  let s := s.morPut w bs
  let s := if above then s.setB F.MOR_STAT.WRAPPED true else s
  let s := s.withMor { s.mor with recs := keep ++ [RingRec.mk w n t], write := (w + n) % s.morUnits }
  (s.wrapInc F.MOR_STAT.NEXT_SEQ).satAdd F.MOR_LOSS.RECORDS 1

/-- The header of R511. -/
def morHead (seq : Nat) (t : Stamp) (w3 w4 : Word) (len caplen : Nat) (w6 detail : Word) : List Byte :=
  wordsBytes [BitVec.ofNat 32 seq, t.nsWord, t.secWord, w3, w4, BitVec.ofNat 32 (len % 16384 + caplen % 16384 * 65536), w6,
    detail]

/-- A stamp the spec does not give (a LOSS or FILL record's), free (log 1). -/
def State.drawStamp (s : State) : Stamp × State :=
  let a := s.drawWord
  let b := a.2.drawWord
  (⟨a.1.toNat, b.1.toNat⟩, b.2)

/-- The fill record, where a record of `n` units does not fit before the ring's end (R510). Its stamp, SKIND and
SNUM are not stated: free. -/
def State.morFill (s : State) (n : Nat) : State :=
  let u := s.morUnits
  let w := s.mor.write
  if w + n ≤ u then s
  else
    let t := s.drawStamp
    let x := t.2.drawWord
    let space := (u - w) * 32
    let h := morHead (x.2.f F.MOR_STAT.NEXT_SEQ) t.1 (x.1 &&& 0x3FFFFFF#32) 0 space 0 (BitVec.ofNat 32 Ms.fill) 0
    x.2.morStore (h ++ List.replicate (space - 32) 0) (t.1.sec * secUnit + t.1.ns * nsUnit)

/-- Units of a record with `n` payload bytes. -/
def morRecUnits (n : Nat) : Nat := 1 + (n + 31) / 32

/-- The tail word and source 851 after a record in a host ring (R521). -/
def State.morTail (s : State) : State :=
  if s.fb F.MOR_CTRL.DEST then
    (s.post (s.f F.MOR_CTRL.HFUNC) (s.f F.MOR_HTADDR.ADDR * 8) (leBytes 8 s.mor.write)).raise 851
  else s

/-- The LOSS record that comes before the next record after any loss (R523). -/
def State.morLossRec (s : State) : State :=
  if s.mor.lost = 0 then s
  else
    let s := s.morFill 1
    let t := s.drawStamp
    let x := t.2.drawWord
    let h := morHead (x.2.f F.MOR_STAT.NEXT_SEQ) t.1 (x.1 &&& 0x3FFFFFF#32) 0 0 0 (BitVec.ofNat 32 Ms.loss)
      (BitVec.ofNat 32 x.2.mor.lost)
    let s := x.2.morStore h (t.1.sec * secUnit + t.1.ns * nsUnit)
    (s.withMor { s.mor with lost := 0 }).raise 850

/-- A candidate is lost because the host ring has no room or is lost (R521, R522). -/
def State.morLost (s : State) : State :=
  let s := s.satAdd F.MOR_LOSS.LOST_FULL 1
  s.withMor { s.mor with lost := min 4294967295 (s.mor.lost + 1) }

/-- Units of the next record, behind those of the LOSS record before it. -/
def State.morNeed (s : State) (c : Cand) : List Nat := (if s.mor.lost = 0 then [] else [1]) ++ [morRecUnits c.pay.length]

/-- Write a candidate's record, with any LOSS record before it (R510, R511, R523). -/
def State.morRecord (s : State) (c : Cand) (trig : Bool) : State :=
  if s.fb F.MOR_CTRL.DEST && (s.fb F.MOR_STAT.HOST_LOST || !(s.morHostFits (s.morNeed c))) then s.morLost
  else
    let s := s.morLossRec
    let n := morRecUnits c.pay.length
    let s := s.morFill n
    let w3 := BitVec.ofNat 32 (c.stamp.sec / 4294967296 % 65536 + c.skind % 8 * 65536 + c.snum % 128 * 524288 +
      trig.toNat * 67108864)
    let h := morHead (s.f F.MOR_STAT.NEXT_SEQ) c.stamp w3 c.w4 c.len c.pay.length (c.flags ||| BitVec.ofNat 32 c.status)
      c.detail
    let off := s.mor.write
    let s := s.morStore (h ++ bytesFrom c.pay 0 ((n - 1) * 32)) c.time
    let s := if trig then s.withMor { s.mor with trigOff := off } else s
    s.morTail

/-! Triggers -/

/-- Unit `t` fires on the candidate (R515). -/
def State.morFires (s : State) (c : Cand) (t : Nat) : Bool :=
  s.fb (F.MOR_TRIG.EN t) && (s.f (F.MOR_TRIG.SKIND t) == c.skind) &&
    (s.fb (F.MOR_TRIG.ANY_NUM t) || s.f (F.MOR_TRIG.SNUM t) == c.snum) &&
    (s.fb (F.MOR_TRIG.ANY_STATUS t) || s.f (F.MOR_TRIG.STATUS t) == c.status) &&
    ((c.id ^^^ BitVec.ofNat 29 (s.f (F.MOR_TRIG.ID t))) &&& BitVec.ofNat 29 (s.f (F.MOR_TRIG.IDMASK t))) == 0

/-- The trigger at `t` on base TB (R515, R516): MODE 1 opens the post window. -/
def State.morTrigger (s : State) (t : Nat) : State :=
  let s := (s.setB F.MOR_STAT.TRIGGERED true).setB F.MOR_STAT.ARMED false
  let s :=
    if s.fb F.MOR_CTRL.MODE then
      let att := !(s.fb F.MOR_CTRL.DEST)
      let short := match s.mor.recs with
        | [] => true
        | r :: _ => decide (t < r.time + tbMs (s.f F.MOR_WIN.PRE_MS))
      let s := if att && short then s.setB F.MOR_STAT.PRE_SHORT true else s
      s.withMor { s.mor with postDue := some (t + tbMs (s.f F.MOR_WIN.POST_MS)), trigTime := if att then some t else none }
    else s
  s.raise 848

/-- The sample counter of R514: whether a candidate of a lane is kept. -/
def State.morSample (s : State) (c : Cand) : Bool × State :=
  if 1 < c.skind ∨ (c.status ≠ Ms.ok ∧ c.status ≠ Ms.quarantined) then (true, s)
  else
    let x := s.lane c.snum
    let k := (if c.skind = 0 then x.smpRx else x.smpTx) + 1
    let n := s.f (F.MOR_LCAP.SAMPLE_N c.snum)
    let keep := decide (n < k)
    let k' := if keep then 0 else k
    (keep, s.modLane c.snum fun y => if c.skind = 0 then { y with smpRx := k' } else { y with smpTx := k' })

/-- Take the oldest admitted candidate that has reached Moraine: trigger test, sampling, record. The Bool: the next record
would overwrite a protected record, and it is not written (R516), but at a freeze, when what is admitted is written whatever
it overwrites (`force`, R517, log 112). -/
def State.morStep (s : State) (force : Bool) : Bool × State :=
  match s.mor.queue with
  | [] => (false, s)
  | (fid, c) :: rest =>
    let t := (s.withMor { s.mor with queue := rest }).release fid 38 0
    let fire := t.fb F.MOR_STAT.ARMED && (List.range 4).any fun u => t.morFires c u
    let k := if fire then (true, t) else t.morSample c
    if k.1 then
      if !force && k.2.morBlocked (k.2.morNeed c) then (true, s)
      else
        let t := if fire then k.2.morTrigger c.time else k.2
        (false, t.morRecord c fire)
    else (false, k.2)

/-- Write what has reached Moraine before a freeze. -/
def State.morDrain (s : State) : Nat → State
  | 0 => s
  | n + 1 => (s.morStep true).2.morDrain n

/-- What has reached Moraine is given up, uncounted (R517). -/
def State.morDiscard (s : State) : State :=
  s.mor.queue.foldl (fun st x => st.release x.1 38 0) (s.withMor { s.mor with queue := [] })

/-- Candidates that were admitted and are still on their way reach Moraine, input by input. -/
def State.morGather (s : State) : State :=
  (List.range 40).foldl (fun st i =>
    let k := (i * 40 + 38) * 4
    let xs := st.voq k
    if xs.isEmpty then st
    else
      let n := (xs.map VoqItem.left).sum
      let st := ((st.setVoq k []).satAdd (F.COL_PORTSTAT.CELLS_IN i) n).satAdd (F.COL_PORTSTAT.CELLS_OUT 38) n
      st.withMor { st.mor with queue := st.mor.queue ++ xs.filterMap fun x =>
        match x.what with | .mor c => some (x.fid, c) | _ => none }) s

/-- A freeze (R517): what has been admitted is written first, but where the freeze comes because the next record would
overwrite a protected one (`short`, R516, log 112). It is SE2 that writes (R681). -/
def State.morFreeze (s : State) (short : Bool) : State :=
  let up := s.engUp 34
  let s := s.morGather
  let s := if short then s.morDiscard else if up then s.morDrain s.mor.queue.length else s
  let s := s.setB F.MOR_STAT.FROZEN true
  let s := s.withMor { s.mor with postDue := none, trigTime := none }
  (if up then s.morHeader else s).raise 849

/-- Base TB has reached T + POST_MS (R516). -/
def State.postOver (s : State) : Bool :=
  match s.mor.postDue with
  | some d => decide (d ≤ s.baseVal (s.f F.MOR_CTRL.TB))
  | none => false

/-- MOR_RECORD_WRITE (R510 to R516; SE2, R681). A record that would overwrite a protected one freezes the ring; POST_SHORT
stays as it is where the window ends in the same lt (R526). -/
def execMorRecordWrite (s : State) : Host.Outcome State Fault Refusal :=
  if s.fb F.MOR_STAT.FROZEN || s.mor.queue.isEmpty || !(s.engUp 34) then .next s
  else
    let r := s.morStep false
    .next (if !r.1 then r.2
      else if s.postOver then s.morFreeze false else (s.setB F.MOR_STAT.POST_SHORT true).morFreeze true)

/-- POST_WINDOW_END (R516; SE2, R681): base TB has reached T + POST_MS. -/
def execPostWindowEnd (s : State) : Host.Outcome State Fault Refusal :=
  .next (if s.postOver && s.engUp 34 then s.morFreeze false else s)

/-- MOR_HEADER_WRITE (R519): every 1 ms. -/
def execMorHeaderWrite (s : State) : Host.Outcome State Fault Refusal :=
  match s.mor.headerDue with
  | some d =>
    .next (if d ≤ s.now ∧ s.engUp 34 = true then s.morHeader.withMor { s.mor with headerDue := some (d + ltMs) } else s)
  | none => .next s

/-- A write of MOR_HHEAD (R521): what would pass WRITE is reduced to it. -/
def State.hheadWrite (s : State) (w : Agent) (v : Word) : State :=
  let u := s.morUnits
  let h := s.f F.MOR_HHEAD.HEAD
  let x := fieldOf v 0 25
  let written := (s.mor.write + u - h % u) % u
  let asked := (x + u - h % u) % u
  if x < u ∧ asked ≤ written then s.setF F.MOR_HHEAD.HEAD x else (s.setF F.MOR_HHEAD.HEAD s.mor.write).clampBy w

/-- MOR_HHEAD_WRITE (R521). -/
def execMorHheadWrite (f : Fn) (v : Word) (s : State) : Host.Outcome State Fault Refusal :=
  if s.hostOpen f.val then .next (s.hheadWrite (.host f) v) else .next s

/-! Control -/

/-- Whether the ring that a device reset kept is the one the registers name (R520). -/
def State.morKept (s : State) : Bool :=
  !(s.fb F.MOR_CTRL.DEST) && s.mor.kept == some (s.f F.MOR_DRING.BASE, s.f F.MOR_DRING.SIZE)

/-- Drop the records written after the ring header was, in a ring of `u` units (R520). -/
def recsUpTo (u w : Nat) (rs : List RingRec) : List RingRec :=
  (rs.reverse.dropWhile fun r => !(decide ((r.off + r.units) % u = w))).reverse

/-- Installed attached memory that Moraine may use, in MiB (R529, R692). -/
def State.dramLimit (s : State) : Nat := if s.fb F.GLB_RESUME.RESUME_EN then Config.dramMiB - 2 else Config.dramMiB

/-- The attached region ends above it. -/
def State.dringOver (s : State) : Bool := decide (s.dramLimit < s.f F.MOR_DRING.BASE + s.f F.MOR_DRING.SIZE)

/-- A ring cut short: what lies beyond its end is no record any more, and a WRITE beyond it starts again at 0. -/
def State.dringCut (s : State) : State :=
  let u := s.morUnits
  s.withMor { s.mor with recs := s.mor.recs.filter fun r => decide (r.off + r.units ≤ u)
                         write := if s.mor.write < u then s.mor.write else 0 }

/-- The attached region is reduced to end within it (R529), also while Moraine runs (R692). -/
def State.dringFit (s : State) : State :=
  if s.dringOver then
    let s := s.setF F.MOR_DRING.SIZE (s.dramLimit - s.f F.MOR_DRING.BASE)
    if s.mor.started && !(s.fb F.MOR_CTRL.DEST) then s.dringCut else s
  else s

/-- BLOCK_START with block 0 (R527, R520, R692). -/
def execBlockStartMoraine (f : Fn) (d : Words8) (s : State) : Host.Outcome State Fault Refusal :=
  blockCmd s f d 0x54 0 fun s r =>
    let s := if s.mor.started then s else s.dringFit
    let s :=
      if s.mor.started then s
      else if s.morKept then
        let a := dramBase + s.f F.MOR_DRING.BASE * 1048576
        let w := (s.rd32 a).toNat
        (s.withMor { s.mor with write := w, recs := recsUpTo s.morUnits w s.mor.recs,
                                      trigOff := (s.rd32 (a + 12)).toNat }).setF F.MOR_STAT.NEXT_SEQ (s.rd32 (a + 8)).toNat
      else s.withMor { s.mor with write := 0, recs := [] }
    (s.withMor { s.mor with started := true, capture := true, kept := none,
                                  headerDue := some (s.now + ltMs) }).adminDone r

/-- BLOCK_STOP with block 0 (R519, R526): capture stops, the header is written; a post window ends without a freeze. -/
def execBlockStopMoraine (f : Fn) (d : Words8) (s : State) : Host.Outcome State Fault Refusal :=
  blockCmd s f d 0x55 0 fun s r =>
    let s := s.morHeader
    (s.withMor { s.mor with capture := false, postDue := none, trigTime := none, headerDue := none }).adminDone r

/-- ARM (R517, R524). -/
def execArm (f : Fn) (d : Words8) (s : State) : Host.Outcome State Fault Refusal :=
  adminSub s f d 0x56 0 fun s r =>
    if !(s.fb F.MOR_CTRL.MODE) ||
        (s.mor.postDue.isSome && s.fb F.MOR_STAT.TRIGGERED && !(s.fb F.MOR_STAT.FROZEN)) then s.adminRefuse r .state
    else (((s.setB F.MOR_STAT.FROZEN false).setB F.MOR_STAT.TRIGGERED false).setB F.MOR_STAT.ARMED true).adminDone r

/-- TRIGGER (R515, R524): a firing with no record, at the present value of base TB. -/
def execTrigger (f : Fn) (d : Words8) (s : State) : Host.Outcome State Fault Refusal :=
  adminSub s f d 0x56 1 fun s r =>
    if s.fb F.MOR_STAT.ARMED then
      ((s.withMor { s.mor with trigOff := s.mor.write }).morTrigger (s.baseVal (s.f F.MOR_CTRL.TB))).adminDone r
    else s.adminRefuse r .state

/-- FREEZE (R524). -/
def execFreeze (f : Fn) (d : Words8) (s : State) : Host.Outcome State Fault Refusal :=
  adminSub s f d 0x56 2 fun s r =>
    if s.fb F.MOR_STAT.FROZEN then s.adminRefuse r .state else (s.morFreeze false).adminDone r

/-- DUMP (R524, R525): taken; the copy runs until DUMP_DONE. -/
def execDump (f : Fn) (d : Words8) (s : State) : Host.Outcome State Fault Refusal :=
  adminSub s f d 0x56 3 fun s r =>
    let c := clampTo 1 524288 d.w5.toNat
    if s.fb F.MOR_CTRL.DEST then s.adminRefuse r .state
    else if s.morUnits < d.w4.toNat + c.1 then s.adminRefuse r .range
    else
      let s := s.clamp r.f c.2
      s.withMor { s.mor with dump := s.mor.dump ++ [(r, pair64 d.w2 d.w3, d.w4.toNat, c.1)] }

/-- DUMP_DONE (R525): the units copied are reported. -/
def execDumpDone (s : State) : Host.Outcome State Fault Refusal :=
  match s.mor.dump with
  | [] => .next s
  | (r, a, off, n) :: rest =>
    let s := s.withMor { s.mor with dump := rest }
    let bs := s.rdBytes (dramBase + s.f F.MOR_DRING.BASE * 1048576 + 4096 + off * 32) (n * 32)
    .next ((s.post r.f a bs).adminDone2 r (BitVec.ofNat 32 n))

/-- HRING_RESTART (R522, R524). -/
def execHringRestart (f : Fn) (d : Words8) (s : State) : Host.Outcome State Fault Refusal :=
  adminSub s f d 0x56 4 fun s r =>
    if s.f F.MOR_CTRL.HFUNC = r.f then
      let s := (s.setF F.MOR_HHEAD.HEAD 0).setB F.MOR_STAT.HOST_LOST false
      (s.withMor { s.mor with write := 0, recs := [] }).adminDone r
    else s.adminRefuse r .state

/-- CLEAR (R524, R525). -/
def execClear (f : Fn) (d : Words8) (s : State) : Host.Outcome State Fault Refusal :=
  adminSub s f d 0x56 5 fun s r =>
    if s.fb F.MOR_STAT.FROZEN then (s.withMor { s.mor with recs := [] }).adminDone r
    else s.adminRefuse r .state

/-- STATUS (R524): codes 7 to 15 are clamped to it. -/
def execRecStatus (f : Fn) (d : Words8) (s : State) : Host.Outcome State Fault Refusal :=
  let code := fieldOf d.w1 0 4
  if 6 ≤ code then
    adminCmd s f d 0x56 fun s r =>
      let s := if code = 6 then s else s.clamp r.f 1
      s.adminCpl r .done 0 (BitVec.ofNat 32 s.mor.write) (BitVec.ofNat 32 s.morOldest)
        (BitVec.ofNat 32 (s.f F.MOR_STAT.NEXT_SEQ)) (BitVec.ofNat 32 s.mor.trigOff) (BitVec.ofNat 32 s.morBits)
  else .next s

end Sys2Proof.Machine
end

