-- ==== Sys2Proof/Machine/Tx.lean ====
section
/-! DEFINITION. The transmit order (04, 06): lane conditions, entries, copies, completion, trailing copies, marks,
deadlines. -/
namespace Sys2Proof.Machine

/-! Lane states (R96) and hold causes (R97) -/
abbrev St.off : Nat := 0
abbrev St.init : Nat := 1
abbrev St.listen : Nat := 2
abbrev St.seek : Nat := 3
abbrev St.restricted : Nat := 4
abbrev St.active : Nat := 5
abbrev St.hold : Nat := 6
abbrev St.recovery : Nat := 7
abbrev St.isolated : Nat := 8
abbrev Hc.none : Nat := 0
abbrev Hc.host : Nat := 1
abbrev Hc.busoff : Nat := 2
abbrev Hc.stuck : Nat := 3

/-- STATE, HOLD_CAUSE, ESTATE, OPMODE of a lane. -/
def State.laneSt (s : State) (l : Nat) : Nat := s.f (F.LANE_STATE.STATE l)
def State.holdCause (s : State) (l : Nat) : Nat := s.f (F.LANE_STATE.HOLD_CAUSE l)
def State.estate (s : State) (l : Nat) : Nat := s.f (F.LANE_STATE.ESTATE l)
def State.opmode (s : State) (l : Nat) : Nat := s.f (F.LANE_MODE.OPMODE l)

/-- The conditions of R251; R201 gives the same three to an unpaired lane. -/
inductive LCond where
  | carrying | held | down
deriving DecidableEq, Repr

/-- A held state of R201, whether or not the hold has expired; only a lane with OPMODE NORMAL holds (R203). -/
def State.inHeldState (s : State) (l : Nat) : Bool :=
  let st := s.laneSt l
  (s.opmode l == 0) && ((st == St.hold) || (st == St.recovery) || (st == St.init) || (st == St.seek) ||
    ((st == St.listen) && (s.lane l).listen91))

/-- The condition of a lane (R251). -/
def State.cond (s : State) (l : Nat) : LCond :=
  if s.laneSt l = St.active then .carrying
  else if s.inHeldState l && !(s.lane l).holdOver then .held
  else .down

/-- PSTATE of the pair whose A lane is `a` (R252). -/
def State.pstate (s : State) (a : Nat) : Nat :=
  match decide (s.cond a = .carrying), decide (s.cond (a + 1) = .carrying) with
  | true, true => 0
  | true, false => 1
  | false, true => 2
  | false, false => 3

/-! Objects as the transmit order sees them (R165 to R168) -/

/-- Engine address of word `w` of object `o` of quad `q` (R45, R46). -/
def objAddr (q o w : Nat) : Nat := 0x04000000 + q * 0x20000 + o * 0x80 + w * 4

/-- A published word of an object. -/
def State.objWord (s : State) (q o w : Nat) : Word := s.rd32 (objAddr q o w)
def State.setObjWord (s : State) (q o w : Nat) (v : Word) : State := (s.wr32 (objAddr q o w) v).heal 2 q (32 * o + w)

/-- The bits of word `w` of an object that a write can hold: not the reserved words and bits, nor of word 0 the status that
the lock and the transmit order give (R14, R167, R168, R171). -/
def objKeep (w : Nat) : Word :=
  if w = 0 then 0xFFD1FF00 else if w = 2 then 0xFFFFE07F else if 24 ≤ w ∧ w < 31 then 0 else 0xFFFFFFFF

/-- Replace bits of a published word. -/
def State.setObjBits (s : State) (q o w lsb n v : Nat) : State := s.setObjWord q o w (putBits (s.objWord q o w) lsb n v)

/-- One bit of word 0. -/
def State.objBit (s : State) (q o b : Nat) : Bool := (s.objWord q o 0).getLsbD b

/-- Object number among all objects of the device. -/
def objIx (q o : Nat) : Nat := q * 1024 + o

/-- Raise the object event of R188 if IRQ_EN is (was) set: the object's bit of QUAD_OBJEVT and source
256 + 4 x lane + 2. -/
def State.objEvent (s : State) (q o bus : Nat) (irq : Bool) : State :=
  if irq then
    let x := F.QUAD_OBJEVT.EVT q (o / 32)
    (s.setF x (s.f x ||| 2 ^ (o % 32))).raise (256 + 4 * bus + 2)
  else s

/-- Count on a saturating 8-bit counter of word 7: OVERWRITES at 24, MISSED at 16 (R173). -/
def State.objCount (s : State) (q o lsb : Nat) : State :=
  s.setObjBits q o 7 lsb 8 (min 255 (fieldOf (s.objWord q o 7) lsb 8 + 1))

/-- FRAMES wraps (R173). -/
def State.objFrames (s : State) (q o : Nat) : State :=
  s.setObjBits q o 7 0 16 (fieldOf (s.objWord q o 7) 0 16 + 1)

/-- The words of a stamp into words 4 and 5 (R174). -/
def State.objStamp (s : State) (q o : Nat) (t : Stamp) : State :=
  (s.setObjWord q o 4 t.nsWord).setObjWord q o 5 t.secWord

/-! Entries -/

/-- Change the order of a bus. -/
def State.modEntry (s : State) (b id : Nat) (g : Entry → Entry) : State :=
  s.modBus b fun es => es.map fun e => if e.id = id then g e else e

/-- The entry `id` of a bus. -/
def State.entry (s : State) (b id : Nat) : Option Entry := (s.bus b).find? fun e => decide (e.id = id)

/-- Release the quad port's hold on frame `fid` when no entry of the quad carries it any more (R262, R301). -/
def State.releaseEntry (s : State) (b : Nat) (fid : Option Nat) : State :=
  match fid with
  | none => s
  | some k =>
    let q := b / 4
    if (List.range 4).any fun i => (s.bus (4 * q + i)).any fun e => e.fid == some k then s
    else
      match (s.frame k).holds.find? fun h => decide (h.1 = q) with
      | some h => s.release k h.1 h.2
      | none => s

/-- Take an entry off its order and drop its cells. -/
def State.dropEntry (s : State) (b : Nat) (e : Entry) : State :=
  (s.modBus b fun es => es.filter fun x => !(decide (x.id = e.id))).releaseEntry b e.fid

/-- The completion of a TX descriptor (R391). -/
def State.txCpl (s : State) (sq : Nat) (tag : Word) (tsReq : Bool) (b attempts : Nat) (st : Status) (laneB : Bool)
    (stamp : Option Stamp) : State :=
  s.sqComplete sq st 0 laneB b (BitVec.ofNat 32 (min attempts 65535)) (if tsReq && st.isDone then stamp else none) tag

/-- Count a status in LANE_TXO of the bus (R212). -/
def State.countTxo (s : State) (b : Nat) (st : Status) : State :=
  match st with
  | .expired => s.satAdd (F.LANE_TXO.N_EXPIRED b) 1
  | .laneDown => s.satAdd (F.LANE_TXO.N_DOWN b) 1
  | .cancelled | .aborted => s.satAdd (F.LANE_TXO.N_CANCEL b) 1
  | _ => s

/-- The bus an object is assigned to. -/
def State.objBus (s : State) (q o : Nat) : Nat := 4 * q + fieldOf (s.objWord q o 0) 28 2

/-- The uncompleted entry of an object, with its bus; one that a release has ended (R187) is not the object's instance
any more. -/
def State.objEntry (s : State) (q o : Nat) : Option (Nat × Entry) :=
  (List.range 4).findSome? fun i =>
    ((s.bus (4 * q + i)).find? fun e => decide (e.src = .obj o) && !e.done && e.irq.isNone).map fun e => (4 * q + i, e)

/-- A send object's instance leaves the order (R173, R174, R188, R189); `keep`: TX_REQ has asked for another instance that is
in the order, or one that waits, so it stays. -/
def State.objDone (s : State) (q o bus : Nat) (st : Status) (stamp : Option Stamp) (irq keep : Bool) : State :=
  let s := s.setObjBits q o 0 8 8 st.code
  let s := if keep || ((s.obj (objIx q o)).waiting.map Prod.snd).getD false then s else s.setObjBits q o 0 24 1 0
  let s := match stamp with
    | some t => if st.isDone then (s.objFrames q o).objStamp q o t else s
    | none => s
  s.objEvent q o bus irq

/-- An entry completes: what its source learns of it (R391, R189, R204, R489). -/
def State.tell (s : State) (b : Nat) (e : Entry) (st : Status) (laneB : Bool) (stamp : Option Stamp) : State :=
  let s := s.countTxo b st
  match e.src with
  | .desc sq _ tag tsReq => s.txCpl sq tag tsReq b e.attempts st laneB stamp
  | .obj o => s.objDone (b / 4) o b st stamp (e.irq.getD (s.objBit (b / 4) o 25))
      (e.irq.isSome && ((s.objEntry (b / 4) o).map fun x => x.2.req).getD false)
  | .routed _ => s
  | .sync c => if st.isDone then s.satAdd (F.TB_BDSTAT.SYNC_SENT c) 1 else s.satAdd (F.TB_BDSTAT.SYNC_LOST c) 1
  | .fup c => if st.isDone then s.satAdd (F.TB_BDSTAT.FUP_SENT c) 1 else s.satAdd (F.TB_BDSTAT.SYNC_LOST c) 1
  | .dead => s

/-- Complete an entry without success and take it off the order. -/
def State.fail (s : State) (b : Nat) (e : Entry) (st : Status) : State := (s.tell b e st false none).dropEntry b e

/-- A trailing copy ends without success (R258, R276). -/
def State.trailLost (s : State) (b : Nat) : State := s.satAdd (F.LANE_PAIRTX.TRAIL_LOST b) 1

/-- Remove the copy of an entry on a lane; a completed entry with no copy left goes (R262). -/
def State.dropCopy (s : State) (b id lane : Nat) : State :=
  let s := s.modEntry b id fun e => { e with copies := e.copies.filter fun c => !(decide (c.lane = lane)) }
  match s.entry b id with
  | some e => if e.done && e.copies.isEmpty then s.dropEntry b e else s
  | none => s

/-- End the trailing copy of an entry on a lane without success. -/
def State.endTrail (s : State) (b id lane : Nat) : State := (s.trailLost b).dropCopy b id lane

/-- The copy of an entry on a lane. -/
def Entry.copyOn (e : Entry) (l : Nat) : Option Copy := e.copies.find? fun c => decide (c.lane = l)

/-- The entry has a copy in flight (R264). -/
def Entry.inFlight (e : Entry) : Bool := e.copies.any fun c => c.inFlight

/-- Only the copies in flight. -/
def Entry.keepFlight (e : Entry) : Entry := { e with copies := e.copies.filter fun c => c.inFlight }

/-- Status of a one-shot entry of which every copy has made its attempt (R118, R260). -/
def Entry.oneShotStatus (e : Entry) : Status := if e.copies.any fun c => c.erred then .txError else .arbLost

/-- A one-shot copy that has made its attempt. -/
def Copy.spent (e : Entry) (c : Copy) : Bool := e.oneShot && c.tried && !c.inFlight

/-- Status given by a late mark on failure (R199, R264). -/
def Mark.failed : Mark → Option Status
  | .none => Option.none
  | .cancel => some .cancelled
  | .abort => some .aborted
  | .delete => some .aborted

/-- Copies for an entry that enters: one on each lane it selects that is carrying or held (R253, R254, R201). -/
def State.copiesFor (s : State) (sel : List Nat) : List Copy :=
  (sel.filter fun l => !(decide (s.cond l = .down))).map fun l => { lane := l }

/-- The order of the sources among entries of one lt: SQ number, then objects by number, then routed frames (R191); frames
of time distribution come last (log 91). -/
def TxSrc.rank : TxSrc → Nat
  | .desc sq _ _ _ => sq
  | .obj o => 128 + o
  | .routed _ => 2000
  | .sync _ | .fup _ => 2001
  | .dead => 0

/-- An entry takes its place after those that entered before it, and among those of its own lt by its source (R191). -/
def Entry.placeIn (e : Entry) : List Entry → List Entry
  | [] => [e]
  | x :: xs => if x.enteredLt = e.enteredLt ∧ e.src.rank < x.src.rank then e :: x :: xs else x :: e.placeIn xs

/-- An entry enters the transmit order of bus `b` with the lanes of `e.sel`; with no lane to carry or hold it, it
completes LANE_DOWN on entry (R191, R201, R261). `e.entered` says from when its deadline runs. -/
def State.enter (s : State) (b : Nat) (e : Entry) : State :=
  let e := { e with id := s.nextEnt, copies := s.copiesFor e.sel, enteredLt := s.now }
  let s := s.withNextEnt (s.nextEnt + 1)
  let s := s.modBus b e.placeIn
  if e.copies.isEmpty then s.fail b e .laneDown else s

/-- The lanes PAIRSEL names on a bus: 0 BOTH, 1 A_ONLY, 2 B_ONLY (R254). -/
def State.selLanes (s : State) (b pairsel : Nat) : List Nat :=
  if s.isPair b then (if pairsel = 1 then [b] else if pairsel = 2 then [b + 1] else [b, b + 1]) else [b]

/-- A lane of an entry becomes down: its copy ends; the entry completes LANE_DOWN when none is left, or with the
status of its attempts when every copy left has made its one attempt (R258, R260, R261, R265). -/
def State.laneDownCopy (s : State) (b l id : Nat) : State :=
  match s.entry b id with
  | none => s
  | some e =>
    match e.copyOn l with
    | none => s
    | some c =>
      if c.trail then s.endTrail b id l
      else if c.spent e then
        (if e.copies.all fun x => x.spent e || decide (x.lane = l) then s.fail b e e.oneShotStatus else s)
      else
        let e' := { e with copies := e.copies.filter fun x => !(decide (x.lane = l)) }
        let s := s.modEntry b id fun _ => e'
        if e'.copies.isEmpty then s.fail b e' .laneDown
        else if e'.copies.all fun x => x.spent e' then s.fail b e' e'.oneShotStatus
        else s

/-- Every copy on a lane that becomes down. -/
def State.laneDownCopies (s : State) (b l : Nat) : State :=
  ((s.bus b).map Entry.id).foldl (fun st id => st.laneDownCopy b l id) s

/-- A lane of a pair becomes carrying or held from down: it receives copies of every entry not completed whose
selection names it (R253). -/
def State.laneUpCopies (s : State) (b l : Nat) : State :=
  s.modBus b fun es => es.map fun e =>
    if e.done || !(e.sel.contains l) || (e.copyOn l).isSome || !(decide (e.mark = .none)) || e.expired then e
    else { e with copies := e.copies ++ [{ lane := l }] }

/-! The next frame of a lane -/

/-- The lane transmits frames of this format (FD_EN, XL_EN of R157). -/
def State.fmtOn (s : State) (l : Nat) (f : Format) : Bool :=
  if f = .xl then s.fb (F.LANE_MODE.XL_EN l) else !f.fd || s.fb (F.LANE_MODE.FD_EN l)

/-- Payload bytes of cut-through frame `fid` of `len` bytes that have crossed Col from port `i` to port `o`: 48 in cell
0 and 64 in each later cell (R278, R308). -/
def State.ctBytes (s : State) (i o fid len : Nat) : Nat :=
  match (s.ctq (i * 40 + o)).find? fun e => decide (e.1 = fid) with
  | none => len
  | some e =>
    let moved := (s.frame fid).cells.length - e.2
    if moved = 0 then 0 else min len (48 + 64 * (moved - 1))

/-- A copy that may be offered on lane `l`: not in flight, not a one-shot copy that was tried, of a format the lane
transmits (log 16); a cut-through copy is whole, or has B_req bytes on a lane that is not ERROR_PASSIVE (R118, R130,
R308); one whose B_req is above its length starts once it is whole (log 119). -/
def State.offerable (s : State) (l : Nat) (e : Entry) : Bool :=
  match e.copyOn l with
  | none => false
  | some c =>
    !c.inFlight && !(c.spent e) && s.fmtOn l e.fr.fmt &&
      (match e.ct with
       | some x =>
         !x.kill && (x.whole || (!(decide (s.estate l = 1)) &&
           decide (Tab.get (fun _ => 0) x.breq l ≤ s.ctBytes (x.ingress / 4) (l / 4) (e.fid.getD 0) e.fr.len)))
       | none => true)

/-- The lowest-keyed copy of a lane, the earliest entered among equal keys (R190, R255). -/
def State.headOf (s : State) (l : Nat) : Option Entry :=
  (s.bus (s.busOf l)).foldl (fun best e =>
    if s.offerable l e then
      match best with
      | some m => if e.fr.key < m.fr.key then some e else best
      | none => some e
    else best) none

/-! Trailing copies -/

/-- The trailing copies on a lane, as entry number and place among the completions. -/
def State.trailsOn (s : State) (b l : Nat) : List (Nat × Nat) :=
  (s.bus b).filterMap fun e =>
    match e.copyOn l with
    | some c => if c.trail && !c.ended then some (e.id, c.trailSeq) else none
    | none => none

/-- The oldest of them. -/
def oldestTrail : List (Nat × Nat) → Option (Nat × Nat)
  | [] => none
  | x :: xs =>
    match oldestTrail xs with
    | some y => if x.2 ≤ y.2 then some x else some y
    | none => some x

/-- A trailing copy ends by R258: at once, or, in an attempt, with that attempt, which is not followed by another (R200,
log 90). -/
def State.stopTrail (s : State) (b id l : Nat) : State :=
  match (s.entry b id).bind fun e => e.copyOn l with
  | none => s
  | some c =>
    if c.inFlight then
      s.modEntry b id fun e => { e with copies := e.copies.map fun c => if c.lane = l then { c with ended := true } else c }
    else s.endTrail b id l

/-- Make the copy of entry `e` on lane `l` trailing (R257): it replaces the trailing copy of an earlier instance of
the same object there, and pushes the oldest of 64 out (R258). -/
def State.makeTrail (s : State) (b : Nat) (e : Entry) (l : Nat) : State :=
  let same (x : Entry) : Bool :=
    match e.src, x.src with
    | .obj o, .obj p => decide (o = p) && !(decide (x.id = e.id)) &&
        (match x.copyOn l with | some c => c.trail | none => false)
    | _, _ => false
  let s := ((s.bus b).filter same).foldl (fun st x => st.stopTrail b x.id l) s
  let ts := s.trailsOn b l
  let s := if 64 ≤ ts.length then
      match oldestTrail ts with
      | some x => s.stopTrail b x.1 l
      | none => s
    else s
  let due : Option Timer :=
    if e.deadline.isSome then none
    else some (s.after (some (s.baseOf b)) (tbMs (s.f (F.LANE_PAIRCFG.TRAIL_MS b))))
  s.modEntry b e.id fun x => { x with copies := x.copies.map fun c =>
    if c.lane = l then { c with trail := true, trailDue := due, trailSeq := s.nextDone } else c }

/-- Status of a success (R199, R256): late marks first, then the partner's condition. -/
def State.successStatus (s : State) (b l : Nat) (e : Entry) : Status :=
  match e.mark with
  | .cancel => .doneCancelLate
  | .abort => .doneAbortLate
  | _ =>
    if s.isPair b && decide (1 < e.sel.length) then
      (if s.cond (if l = b then b + 1 else b) = .carrying then .done else .doneViaPartner)
    else .done

/-- The copy of entry `id` on lane `l` succeeds at SOF stamp `t` (R111, R256, R257). Of two copies that succeed in one lt
the second neither completes the entry nor trails; the A lane's event comes first (R256, R271, log 6). -/
def State.copySuccess (s : State) (b l id : Nat) (t : Stamp) : State :=
  match s.entry b id with
  | none => s
  | some e =>
    if e.done then (if e.doneAt = s.now then s else s.satAdd (F.LANE_PAIRTX.TRAIL_OK b) 1).dropCopy b id l
    else
      let st := s.successStatus b l e
      let s := if st = .doneViaPartner then s.satAdd (F.LANE_PAIRTX.VIA_PARTNER b) 1 else s
      let s := s.tell b e st (s.isPair b && !(decide (l = b))) (some t)
      let rest := e.copies.filter fun c => !(decide (c.lane = l)) && !(c.spent e)
      let s := s.withNextDone (s.nextDone + 1)
      if rest.isEmpty then s.dropEntry b e
      else
        let s := s.modEntry b id fun x => { x with done := true, doneAt := s.now, copies := rest }
        rest.foldl (fun st c => st.makeTrail b e c.lane) s

/-- The attempt of the copy of entry `id` on lane `l` ends without success (R118, R119, R194, R199, R260, R264). Where a late
mark and the deadline both fall in the attempt, the mark sets the status (log 85). -/
def State.copyFailed (s : State) (b l id : Nat) (erred : Bool) : State :=
  let s := s.modEntry b id fun e => { e with copies := e.copies.map fun c =>
    if c.lane = l then { c with inFlight := false, tried := true, erred := c.erred || erred } else c }
  let s := s.modEntry b id fun e =>
    if s.ranOut? e.deadline then { e with expired := true, deadline := none } else e
  match s.entry b id with
  | none => s
  | some e =>
    if e.done then
      (if e.oneShot || e.expired || !(decide (e.mark = .none)) || ((e.copyOn l).map Copy.ended).getD false then
        s.endTrail b id l
       else s)
    else
      match e.mark.failed with
      | some st => if e.inFlight then s.modEntry b id Entry.keepFlight else s.fail b e st
      | none =>
        if e.expired then (if e.inFlight then s.modEntry b id Entry.keepFlight else s.fail b e .expired)
        else if e.copies.all fun c => c.spent e then s.fail b e e.oneShotStatus
        else s

/-- Mark an entry cancelled or aborted (R199, R264): with no copy in flight it goes at once, else only the flights
finish and the first mark stands. -/
def State.markEntry (s : State) (b : Nat) (e : Entry) (m : Mark) : State :=
  if e.inFlight then
    s.modEntry b e.id fun x => { x.keepFlight with mark := if x.mark = .none then m else x.mark }
  else
    match m.failed with
    | some st => s.fail b e st
    | none => s

/-- The deadline of an entry has passed (R194, R258, R264). -/
def State.expireEntry (s : State) (b : Nat) (e : Entry) : State :=
  if e.done then
    let s := s.modEntry b e.id fun x => { x with expired := true, deadline := none }
    (e.copies.filter fun c => !c.inFlight).foldl (fun st c => st.endTrail b e.id c.lane) s
  else if e.inFlight then s.modEntry b e.id fun x => { x.keepFlight with expired := true, deadline := none }
  else s.fail b e .expired

/-- Entries of bus `b` whose deadline has passed leave before anything else happens to them in this lt (R194, R199,
R207). -/
def State.expireDue (s : State) (b : Nat) : State :=
  ((s.bus b).filter fun e => s.ranOut? e.deadline).foldl (fun st e => st.expireEntry b e) s

/-! Send-object instances -/

/-- The frame a send object's published content gives (R171, R172): an FD frame is padded with zeros to a DLC size,
a remote frame carries nothing. -/
def State.objFrame (s : State) (q o : Nat) : Frame :=
  let w1 := s.objWord q o 1
  let w2 := s.objWord q o 2
  let fmt := (Format.ofCode (fieldOf w1 29 3)).getD .cb
  let len := fieldOf w2 0 7
  let bytes := (List.range 64).map fun i => s.rd8 (objAddr q o 8 + i)
  let rtr := fmt.classical && w2.getLsbD 13
  let n := if fmt.fd then fdSize len else len
  { fmt := fmt, id := BitVec.ofNat 29 (fmt.idMask (fieldOf w1 0 29)), rtr := rtr, brs := fmt.fd && w2.getLsbD 14,
    esi := false, sec := decide (fmt = .xl) && w2.getLsbD 15,
    sdt := if fmt = .xl then BitVec.ofNat 8 (fieldOf w2 24 8) else 0,
    vcid := if fmt = .xl then BitVec.ofNat 8 (fieldOf w2 16 8) else 0,
    af := if fmt = .xl then s.objWord q o 3 else 0, len := n,
    data := if rtr then [] else bytesFrom (bytes.take len) 0 n }

/-- The deadline of an object's instance that entered at `entered` (R171, R194). -/
def State.objDeadline (s : State) (q o b entered : Nat) : Option Timer :=
  let d := fieldOf (s.objWord q o 6) 0 12
  if d = 0 then none else some ⟨some (s.baseOf b), entered + tbUs (10 * d)⟩

/-- The words an instance is made of hold a poisoned word (R696). -/
def State.objPoisoned (s : State) (q o : Nat) : Bool :=
  s.poison.any fun x => decide (x.1 = 512 + q) && decide (x.2 / 32 = o) &&
    (decide (1 ≤ x.2 % 32) && decide (x.2 % 32 ≤ 3) || decide (x.2 % 32 = 6) || decide (8 ≤ x.2 % 32) && decide (x.2 % 32 < 24))

/-- A new instance enters the transmit order with the published content (R186), or completes ABORTED where that content
cannot be read (R696); `rel`: the interval count at the release that entered it, from which its deadline runs (R194);
`req`: TX_REQ asked for it (R168). -/
def State.objEnter (s : State) (q o rel : Nat) (req : Bool) : State :=
  let b := s.objBus q o
  if s.objPoisoned q o then (s.countTxo b .aborted).objDone q o b .aborted none (s.objBit q o 25) false
  else
    let dl := s.objDeadline q o b rel
    let e : Entry := { id := 0, src := .obj o, fr := s.objFrame q o, oneShot := s.objBit q o 26, entered := rel,
                       req := req, deadline := dl, sel := s.lanesOf b }
    let s := s.enter b e
    if s.ranOut? dl then s.expireDue b else s

/-- Release an instance (R184, R185): it waits for an attempt in progress, replaces a pending instance, or enters.
`periodic`: MISSED counts a replacement. -/
def State.objInstance (s : State) (q o : Nat) (periodic : Bool) : State :=
  let rel := s.clock (some (s.baseOf (s.objBus q o)))
  match s.objEntry q o with
  | some (b, e) =>
    if e.inFlight then
      let s := if periodic && (s.obj (objIx q o)).waiting.isSome then s.objCount q o 16 else s
      s.modObj (objIx q o) fun x => { x with waiting := some (rel, !periodic || (x.waiting.map Prod.snd).getD false) }
    else
      let s := if periodic then s.objCount q o 16 else s
      (s.dropEntry b e).objEnter q o rel (!periodic || e.req)
  | none => s.objEnter q o rel (!periodic)

/-- An attempt of an object's instance has ended: an instance that waited enters, in place of the one that failed, which
MISSED does not count (R184, log 84). -/
def State.objAfter (s : State) (q o : Nat) : State :=
  match (s.obj (objIx q o)).waiting with
  | none => s
  | some (rel, req) =>
    let t := s.modObj (objIx q o) fun x => { x with waiting := none }
    match s.objEntry q o with
    | some (b, e) => if e.inFlight then s else (t.dropEntry b e).objEnter q o rel (req || e.req)
    | none => t.objEnter q o rel req

/-- The source of an entry learns that an attempt has ended. -/
def State.afterAttempt (s : State) (b : Nat) (src : TxSrc) : State :=
  match src with
  | .obj o => s.objAfter (b / 4) o
  | _ => s

end Sys2Proof.Machine
end

