-- ==== Sys2Proof/Machine/Timing.lean ====
section
/-! DEFINITION. Bit timing (02): segments, clamps of R53 to R55 and R72, bit lengths. -/
namespace Sys2Proof.Machine

/-- A timing set: prescaler, segments and SJW as counts, not minus 1 (R50, R51). -/
structure Tim where
  brp : Nat
  seg1 : Nat
  seg2 : Nat
  sjw : Nat
deriving DecidableEq, Repr

/-- Nominal set from the layout of LANE_NBT (R75). -/
def nomOf (v : Word) : Tim := ⟨fieldOf v 24 8 + 1, fieldOf v 16 8 + 1, fieldOf v 8 7 + 1, fieldOf v 0 7 + 1⟩

/-- Data set from the layout of a half of LANE_DBT (R76). -/
def datOf (v : Word) : Tim := ⟨fieldOf v 24 5 + 1, fieldOf v 16 6 + 1, fieldOf v 8 5 + 1, fieldOf v 0 5 + 1⟩

/-- Bit length in lt (R50, R51). -/
def Tim.bit (t : Tim) : Nat := (1 + t.seg1 + t.seg2) * t.brp

/-- The word of a set: the same places serve both layouts (R75, R76). -/
def Tim.word (t : Tim) : Word :=
  BitVec.ofNat 32 ((t.brp - 1) * 16777216 + (t.seg1 - 1) * 65536 + (t.seg2 - 1) * 256 + (t.sjw - 1))

/-- R53 to R55 on a set: the greatest SEG1 and SEG2, the least SEG1, the least bit length in lt and in tq. -/
def Tim.clamp (t : Tim) (max1 max2 min1 minLt minTq : Nat) : Tim :=
  let need := max minTq ((minLt + t.brp - 1) / t.brp)
  let s1 := max t.seg1 min1
  let s1 := min max1 (max s1 (need - 1 - t.seg2))
  let s2 := min max2 (max t.seg2 (need - 1 - s1))
  ⟨t.brp, s1, s2, min t.sjw (min s1 s2)⟩

/-- Fields that differ (R56). -/
def Tim.changes (a b : Tim) : Nat :=
  (decide (a.seg1 ≠ b.seg1)).toNat + (decide (a.seg2 ≠ b.seg2)).toNat + (decide (a.sjw ≠ b.sjw)).toNat

/-- Nominal, FD data and XL data words as clamped, with the number of fields changed (R53 to R56). `fast`: the XL
minimum is 16 lt. -/
def clampNom (v : Word) : Word × Nat :=
  let t := nomOf v
  let c := t.clamp 256 128 2 320 8
  if t = c then (v, 0) else (c.word, t.changes c)
def clampFd (v : Word) : Word × Nat :=
  let t := datOf v
  let c := t.clamp 64 32 1 32 4
  if t = c then (v, 0) else (c.word, t.changes c)
def clampXl (fast : Bool) (v : Word) : Word × Nat :=
  let t := datOf v
  let c := t.clamp 64 32 1 (if fast then 16 else 32) 4
  if t = c then (v, 0) else (c.word, t.changes c)

/-- XL bits of 16 lt are permitted: a quad in QUAD2D, or Q0 to Q3 (R54). -/
def State.fastXl (s : State) (l : Nat) : Bool := decide (l < 16) || s.quadMode (l / 4) == 1

/-! Registers -/
def nbtOff (l : Nat) : Nat := 0x100010 + l * 0x800
def dbtFdOff (l : Nat) : Nat := 0x100018 + l * 0x800
def dbtXlOff (l : Nat) : Nat := 0x10001C + l * 0x800
def xlcfgOff (l : Nat) : Nat := 0x100024 + l * 0x800
def rcandOff (l n : Nat) : Nat := 0x100100 + l * 0x800 + n * 0x10

/-- Nominal, FD and XL sets in force on a lane. -/
def State.nominal (s : State) (l : Nat) : Tim := nomOf (s.reg (nbtOff l))
def State.fdData (s : State) (l : Nat) : Tim := datOf (s.reg (dbtFdOff l))
def State.xlData (s : State) (l : Nat) : Tim := datOf (s.reg (dbtXlOff l))

/-- A nominal bit time in lt (tb). -/
def State.tbLt (s : State) (l : Nat) : Nat := (s.nominal l).bit

/-- Store a word through a clamp; the count of changed fields. -/
def State.clampReg (s : State) (a : Nat) (c : Word → Word × Nat) : State × Nat :=
  let r := c (s.reg a)
  (if r.2 = 0 then s else s.setReg a r.1, r.2)

/-- A PWM length of R72 that the spec does not state: any of 1 to 63 lt. -/
def freePwm (x : Word) (lsb : Nat) : Nat := 1 + fieldOf x lsb 8 % 63

/-- R72 on LANE_XLCFG against an XL bit of `b` lt: the fields and how many changed. PWMS is at least 1 also where PWML - 1 is
not (log 15). For a bit of 126 lt, or one for which
TMS_EN is clamped to 0 (longer than 126 lt, shorter than 3 lt), no lengths of 1 to 63 lt meet the rule, and the lengths are
not stated: free (log 15). A bit between 64 and 126 lt keeps the sum with PWML at its greatest (log 15). -/
def State.pwmClamp (s : State) (l : Nat) : State × Nat :=
  let b := (s.xlData l).bit
  let ms := s.f (F.LANE_XLCFG.PWMS l)
  let ml := s.f (F.LANE_XLCFG.PWML l)
  let tms := s.fb (F.LANE_XLCFG.TMS_EN l)
  let set (s : State) (a z : Nat) (t : Bool) : State × Nat :=
    (((s.setF (F.LANE_XLCFG.PWMS l) a).setF (F.LANE_XLCFG.PWML l) z).setB (F.LANE_XLCFG.TMS_EN l) t,
      (decide (a ≠ ms)).toNat + (decide (z ≠ ml)).toNat + (decide (t ≠ tms)).toNat)
  if b < 3 ∨ 126 ≤ b then
    let x := s.drawWord
    set x.2 (freePwm x.1 0) (freePwm x.1 8) (tms && decide (b = 126))
  else
    let a0 := max 1 ms
    let a := if a0 < b - a0 then a0 else max 1 (b - a0 - 1)
    if 63 < b - a then set s (b - 63) 63 tms else set s a (b - a) tms

/-- The register that a timing word belongs to: LANE_DBT has two words, LANE_RCANDn three. -/
def timingReg (a : Nat) : Nat := if a % 0x800 < 0x100 then a / 8 * 8 else a / 16 * 16

/-- `n` clamps of the timing word at offset `a` count against the function that last wrote its register (R57). -/
def State.timingClamp (s : State) (l a n : Nat) : State := s.clamp (Tab.get (fun _ => 0) (s.lane l).timingBy (timingReg a)) n

/-- Evaluate one timing word again; a changed field counts. -/
def State.reclamp (s : State) (l a : Nat) (c : Word → Word × Nat) : State :=
  let r := s.clampReg a c
  r.1.timingClamp l a r.2

/-- The evaluation of R53 to R55 and R72 when lane `l` leaves OFF (R57, R72). -/
def State.leaveOffClamps (s : State) (l : Nat) : State :=
  let fast := s.fastXl l
  let s := ((s.reclamp l (nbtOff l) clampNom).reclamp l (dbtFdOff l) clampFd).reclamp l (dbtXlOff l) (clampXl fast)
  let s := (List.range 16).foldl (fun s n =>
    ((s.reclamp l (rcandOff l n) clampNom).reclamp l (rcandOff l n + 4) clampFd).reclamp l (rcandOff l n + 8) (clampXl fast)) s
  let p := s.pwmClamp l
  p.1.timingClamp l (xlcfgOff l) p.2

/-! Candidates (R80) -/

/-- Bit lengths of candidate `n`: nominal, FD, XL. -/
def State.candBits (s : State) (l n : Nat) : Nat × Nat × Nat :=
  ((nomOf (s.reg (rcandOff l n))).bit, (datOf (s.reg (rcandOff l n + 4))).bit, (datOf (s.reg (rcandOff l n + 8))).bit)

/-- Data timings of candidate `n`, whole: FD and XL (R80, R86). -/
def State.candData (s : State) (l n : Nat) : Tim × Tim := (datOf (s.reg (rcandOff l n + 4)), datOf (s.reg (rcandOff l n + 8)))

/-- Bit lengths in force. -/
def State.forceBits (s : State) (l : Nat) : Nat × Nat × Nat := ((s.nominal l).bit, (s.fdData l).bit, (s.xlData l).bit)

/-- The members of the rate group of candidate `n`, in table order (R80). -/
def State.rateGroup (s : State) (l n : Nat) : List Nat :=
  (List.range (s.f (F.LANE_RATE.NCAND l) + 1)).filter fun m => decide ((s.candBits l m).1 = (s.candBits l n).1)

/-- Copy candidate `n` into the timing registers, clamped without a count (R90 to R92). -/
def State.copyCand (s : State) (l n : Nat) : State :=
  let fast := s.fastXl l
  let s := s.setReg (nbtOff l) (clampNom (s.reg (rcandOff l n))).1
  let s := s.setReg (dbtFdOff l) (clampFd (s.reg (rcandOff l n + 4))).1
  let s := s.setReg (dbtXlOff l) (clampXl fast (s.reg (rcandOff l n + 8))).1
  (s.pwmClamp l).1

/-! Delay compensation (R62 to R65) -/

/-- The measurement at the end of an attempt that reached it: `edge` is the lt of the first dominant RXD (R63). -/
def State.tdcMeasure (s : State) (l : Nat) (edge : Option Nat) : State :=
  match edge with
  | some n =>
    if n ≤ s.f (F.LANE_TDC.TDC_WIN l) then
      (s.setF (F.LANE_TDC.TDCV l) (min n 511)).modLane l fun x => { x with tdcvValid := true }
    else s.setB (F.LANE_TDC.TDC_FAIL l) true
  | none => s.setB (F.LANE_TDC.TDC_FAIL l) true

/-- SSP_LIMITED (R64, R65): TDCV and the offset of the data phase of the frame's format, against 511 lt and 15 data
bits. -/
def State.sspCheck (s : State) (l : Nat) (fmt : Format) : State :=
  if (s.lane l).tdcvValid then
    let t := if fmt = .xl then s.xlData l else s.fdData l
    let ofs := if s.fb (F.LANE_TDC.OFS_MODE l) then (1 + t.seg1) * t.brp else s.f (F.LANE_TDC.TDCO l)
    let p := s.f (F.LANE_TDC.TDCV l) + ofs
    if 511 < p ∨ 15 * t.bit < p then s.setB (F.LANE_TDC.SSP_LIMITED l) true else s
  else s

/-- What an attempt's loop-delay measurement leaves (R62, R63, R65): only with TDC_EN, an FD frame with BRS or XL. The SSP
counts as placed as soon as the loop delay is measured, also where an error ends the attempt before its first data bit
(log 79). -/
def State.loopDelay (s : State) (l : Nat) (fr : Frame) (loop : Option (Option Nat)) : State :=
  if s.fb (F.LANE_TDC.TDC_EN l) && ((fr.fmt.fd && fr.brs) || fr.fmt = .xl) then
    match loop with
    | some e => (s.tdcMeasure l e).sspCheck l fr.fmt
    | none => s
  else s

end Sys2Proof.Machine
end

