-- ==== Sys2Proof/Machine/Lane.lean ====
section
/-! DEFINITION. Lane states, error confinement, the violation log, holds, bus-off and seeks as shared operations (02, 03,
04): everything that changes a lane's state goes through `laneStep`. -/
namespace Sys2Proof.Machine

/-! Pin engine of a lane (R656) -/

/-- LOOP_START and LOOP_END of a bank (R639, R662). -/
def State.loopStart (s : State) (l bank : Nat) : Nat := if bank = 0 then s.f (F.LANE_PELOOP.START0 l) else s.f (F.LANE_PELOOP.START1 l)
def State.loopEnd (s : State) (l bank : Nat) : Nat := if bank = 0 then s.f (F.LANE_PELOOP.END0 l) else s.f (F.LANE_PELOOP.END1 l)

/-- The pin engine starts at LOOP_START of START_BANK (R656). -/
def State.pinStart (s : State) (l : Nat) : State :=
  let b := s.f (F.LANE_PEBANK.START_BANK l)
  let s := (s.setF (F.LANE_PEBANK.RUN_BANK l) b).setB (F.LANE_PEBANK.SW_PEND l) false
  s.modPin l fun p => { p with running := true, pc := s.loopStart l b, x := 0, inSh := 0, outSh := 0, inCnt := 0,
                               outCnt := 0, txq := [], rxq := [], codec := { p.codec with data := false },
                               crossing := p.crossing.filter Option.isSome, arrived := 0, busyUntil := s.now,
                               stalled := false, ended := false }

/-- The pin engine and the tap stop on entry to OFF (R656, R658). -/
def State.pinStop (s : State) (l : Nat) : State :=
  let b := s.f (F.LANE_PEBANK.START_BANK l)
  let s := (s.setF (F.LANE_PEBANK.RUN_BANK l) b).setB (F.LANE_PEBANK.SW_PEND l) false
  s.modPin l fun p => { p with running := false, x := 0, inSh := 0, outSh := 0, inCnt := 0, outCnt := 0, txq := [],
                               rxq := [], codec := { p.codec with data := false }, stalled := false,
                               crossing := p.crossing.filter Option.isSome, arrived := 0 }

/-- The lane goes back to nominal timing: at every end of a frame, by an error or otherwise (R61, R121). -/
def State.nominalPhase (s : State) (l : Nat) : State :=
  s.modPin l fun p => { p with codec := { p.codec with data := false } }

/-- An error that the codec finds: stuffing, form, a CRC, the stuff bit count (R642, log 124). -/
def codecFinds : ErrKind → Bool
  | .bit | .ack => false
  | .stuff | .form | .crc | .pcrc | .xlFormat => true

/-- CODEC_ERR for an error of the codec (R642). -/
def State.codecErr (s : State) (l : Nat) (k : ErrKind) : State :=
  if codecFinds k then s.modPin l fun p => { p with codec := { p.codec with err := true } } else s

/-- Berzu handles frames on the lane only while bank 0 runs (R659). -/
def State.bank0 (s : State) (l : Nat) : Bool := s.f (F.LANE_PEBANK.RUN_BANK l) == 0

/-! What a lane does in its state (R96, R97, R115) -/

/-- HOLD with cause HOST. -/
def State.hostHold (s : State) (l : Nat) : Bool := (s.laneSt l == St.hold) && (s.holdCause l == Hc.host)

/-- The state a lane acts as: HOLD with cause HOST acts as its PREV_STATE (R97). -/
def State.actsAs (s : State) (l : Nat) : Nat := if s.hostHold l then s.f (F.LANE_STATE.PREV_STATE l) else s.laneSt l

/-- The lane takes part as ACTIVE: it signals errors, sends overload frames and counts (R115). -/
def State.signals (s : State) (l : Nat) : Bool := s.actsAs l == St.active

/-- The lane receives and delivers (R115, R659). -/
def State.receives (s : State) (l : Nat) : Bool :=
  let a := s.actsAs l
  ((a == St.active) || (a == St.restricted) || (a == St.listen)) && s.bank0 l

/-- XL error signalling is off: XLES 0, or mode switching (R128, R73). -/
def State.xlQuiet (s : State) (l : Nat) : Bool := !(s.fb (F.LANE_MODE.XLES l)) || s.fb (F.LANE_XLCFG.TMS_EN l)

/-! Counters -/

def State.tec (s : State) (l : Nat) : Nat := s.f (F.LANE_ECNT.TEC l)
def State.recCnt (s : State) (l : Nat) : Nat := s.f (F.LANE_ECNT.REC l)

/-- TEC grows and holds at 256 (R122, R123). -/
def State.addTec (s : State) (l n : Nat) : State := s.setF (F.LANE_ECNT.TEC l) (min 256 (s.tec l + n))

/-- REC grows and holds at 255 (R122, R123). -/
def State.addRec (s : State) (l n : Nat) : State := s.setF (F.LANE_ECNT.REC l) (min 255 (s.recCnt l + n))

/-- A successful transmission takes 1 from TEC above 0; at 256 it holds (R122, R123). -/
def State.subTec (s : State) (l : Nat) : State :=
  if s.tec l = 256 then s else s.setF (F.LANE_ECNT.TEC l) (s.tec l - 1)

/-- A valid reception that was acknowledged (R122). -/
def State.goodRec (s : State) (l : Nat) : State :=
  if 127 < s.recCnt l then s.setF (F.LANE_ECNT.REC l) 120 else s.setF (F.LANE_ECNT.REC l) (s.recCnt l - 1)

/-- ESTATE and EWARN as the counters give them (R124, R125). -/
def estateOf (tec rec : Nat) : Nat := if 256 ≤ tec then 2 else if 128 ≤ tec ∨ 128 ≤ rec then 1 else 0
def State.judgeErr (s : State) (l : Nat) : State :=
  let w := decide (s.f (F.LANE_CTRL.EWL l) ≤ s.tec l) || decide (s.f (F.LANE_CTRL.EWL l) ≤ s.recCnt l)
  (s.setF (F.LANE_STATE.ESTATE l) (estateOf (s.tec l) (s.recCnt l))).setB (F.LANE_STATE.EWARN l) w

/-! Set STATE and the return points (R158) -/

def State.setSt (s : State) (l st cause : Nat) : State :=
  (s.setF (F.LANE_STATE.STATE l) st).setF (F.LANE_STATE.HOLD_CAUSE l) cause
def State.setPrev (s : State) (l st cause : Nat) : State :=
  (s.setF (F.LANE_STATE.PREV_STATE l) st).setF (F.LANE_STATE.PREV_CAUSE l) cause
def State.hostRet (s : State) (l : Nat) : Nat := s.f (F.LANE_STATE.HOST_RET l)
def State.setHostRet (s : State) (l st : Nat) : State := s.setF (F.LANE_STATE.HOST_RET l) st

/-- Back to HOLD with cause HOST from beneath a bus-off or a seek (R99, R739). -/
def State.toHostHold (s : State) (l : Nat) : State :=
  (((s.setSt l St.hold Hc.host).setPrev l (s.hostRet l) 0)).setHostRet l 0

/-- The state OPMODE selects. -/
def opState (opmode : Nat) : Nat := if opmode = 0 then St.active else if opmode = 1 then St.listen else St.restricted

/-! The step of a lane -/

/-- The hold of a lane expires (R202, R265): entries whose deadline has passed expire first (R207), and the others lose this
lane's copies when its condition becomes down. -/
def State.holdExpire (s : State) (l : Nat) : State :=
  let s := s.expireDue (s.busOf l)
  let s := s.modLane l fun x => { x with hold := none, holdOver := true }
  let s := ((s.setB (F.LANE_HOLD.HELD l) false).setB (F.LANE_HOLD.EXPIRED l) true).raise (256 + 4 * l + 3)
  s.laneDownCopies (s.busOf l) l

/-- Start or end the hold of a lane whose held state went from `h0` to what it is now (R202, R205). -/
def State.holdMove (s : State) (l : Nat) (h0 : Bool) : State :=
  let h1 := s.inHeldState l
  if h1 && !h0 then
    let ms := s.f (F.LANE_HOLD.HOLD_MS l)
    let s := (s.setB (F.LANE_HOLD.HELD l) true).modLane l fun x => { x with hold := some (s.laneMs l ms), holdOver := false }
    if ms = 0 then s.holdExpire l else s
  else if h0 && !h1 then
    (s.setB (F.LANE_HOLD.HELD l) false).modLane l fun x => { x with hold := none, holdOver := false }
  else s

/-- What R155 watches: STATE, HOLD_CAUSE, ESTATE and EWARN. -/
def State.laneView (s : State) (l : Nat) : Nat × Nat × Nat × Nat :=
  (s.laneSt l, s.holdCause l, s.estate l, s.f (F.LANE_STATE.EWARN l))

/-- The A lane of a lane's pair, if its quad is paired. -/
def State.pairOf (s : State) (l : Nat) : Option Nat := if s.isPair l then some (l / 2 * 2) else none

/-- PSTATE of a lane's pair; 4 without one. -/
def State.pstateOf (s : State) (l : Nat) : Nat :=
  match s.pairOf l with
  | some a => s.pstate a
  | none => 4

/-- Raise source 256 + 4 x lane + 0 for a change, once in a lt (R155, R272). -/
def State.tellState (s : State) (l : Nat) : State :=
  if (s.lane l).told = some s.now then s else (s.modLane l fun x => { x with told := some s.now }).raise (256 + 4 * l)

/-- Report the changes of one lt: STATE_CHG and PAIR_CHG are each set, and a source is raised once (R155, R272). -/
def State.laneNotify (s : State) (l : Nat) (v0 : Nat × Nat × Nat × Nat) (p0 : Nat) : State :=
  let own := !(decide (s.laneView l = v0))
  let pair := !(decide (s.pstateOf l = p0))
  let a := l / 2 * 2
  let s := if own then s.setB (F.LANE_STATE.STATE_CHG l) true else s
  let s := if pair then (s.setB (F.LANE_PAIRCFG.PAIR_CHG a) true).satAdd (F.LANE_PAIRTX.PCHANGES a) 1 else s
  let s := if own || (pair && decide (l = a)) then s.tellState l else s
  if pair && !(decide (l = a)) then s.tellState a else s

/-- A change of lane `l` by `g` with all that follows in the same lt: a hold that ran out before this lt, or runs out in the
lt in which the lane leaves its held states, expires first (R207), then ESTATE and EWARN, the hold timer, the copies of
entries, the reports (R124, R125, R155, R202, R253, R261, R272). -/
def State.laneStep (s : State) (l : Nat) (g : State → State) : State :=
  let v0 := s.laneView l
  let p0 := s.pstateOf l
  let s := if s.overrun? (s.lane l).hold || (s.ranOut? (s.lane l).hold && !((g s).inHeldState l)) then s.holdExpire l else s
  let h0 := s.inHeldState l
  let c0 := s.cond l
  let s := ((g s).judgeErr l).holdMove l h0
  let s := if s.laneSt l = St.hold then s else s.modLane l fun x => { x with noDetect := false }
  let c1 := s.cond l
  let s :=
    if c0 = .down ∧ c1 ≠ .down then s.laneUpCopies (s.busOf l) l
    else if c0 ≠ .down ∧ c1 = .down then s.laneDownCopies (s.busOf l) l
    else s
  s.laneNotify l v0 p0

/-! Violation log (R137 to R144, R658) -/

/-- TYPE codes beyond those of R120 (R139). -/
abbrev Vt.protocolException : Nat := 8
abbrev Vt.dlcRange : Nat := 9
abbrev Vt.rateGuard : Nat := 10
abbrev Vt.stuckDominant : Nat := 11
abbrev Vt.stuckSelf : Nat := 12

/-- Offset of violation log entry `e` (R164). -/
def vlogOff (l e : Nat) : Nat := 0x100400 + l * 0x800 + e * 0x10

/-- Words 2 and 3 of an entry without REPEAT and BITPOS (R138). -/
def vlogKey (ty field fmt id : Nat) (role : Bool) : Word × Word :=
  (BitVec.ofNat 32 (id + fmt * 536870912), BitVec.ofNat 32 (role.toNat * 128 + field % 32 * 4194304 + ty % 32 * 134217728))

/-- Log a violation of lane `l` (R137 to R144), detected at value `v` of the lane's base (R138); `fr`: format and ID, if
known. A type that LOG_MASK masks is no violation for the log and does not count in LOST either (R137, log 83). -/
def State.violate (s : State) (l ty field bitpos v : Nat) (fr : Option Frame) (role : Bool) : State :=
  let st := s.laneSt l
  if st = St.off ∨ st = St.seek ∨ !((s.reg (0x100040 + l * 0x800)).getLsbD (16 + ty)) then s
  else if s.fb (F.LANE_VLOG.FREEZE l) then s.satAdd (F.LANE_VLOG.LOST l) 1
  else
    let known := if field = 2 then none else fr
    let fmt := match known with | some x => x.fmt.code | none => 0
    let id := match known with | some x => x.fmt.idMask x.id.toNat | none => 0
    let k := vlogKey ty field fmt id role
    let h := s.f (F.LANE_VLOG.HEAD l)
    let n := s.f (F.LANE_VLOG.COUNT l)
    let last := vlogOff l ((h + 63) % 64)
    let w3 := s.reg (last + 12)
    if decide (0 < n) && decide (s.reg (last + 8) = k.1) && decide (w3 &&& 0xFFC00080#32 = k.2) then
      s.setReg (last + 12) (putBits w3 0 7 (min 127 (fieldOf w3 0 7 + 1)))
    else
      let t := stampOf v
      let a := vlogOff l h
      let s := (((s.setReg a t.secWord).setReg (a + 4) t.nsWord).setReg (a + 8) k.1).setReg (a + 12)
        (k.2 ||| BitVec.ofNat 32 (min bitpos 16383 * 256))
      let s := (((s.heal 4 l (4 * h)).heal 4 l (4 * h + 1)).heal 4 l (4 * h + 2)).heal 4 l (4 * h + 3)
      let s := s.setF (F.LANE_VLOG.HEAD l) ((h + 1) % 64)
      let s := if n = 64 then (s.setB (F.LANE_VLOG.WRAPPED l) true).satAdd (F.LANE_VLOG.LOST l) 1
               else s.setF (F.LANE_VLOG.COUNT l) (n + 1)
      let s := if s.fb (F.LANE_PECTRL.TAP_FREEZE l) then s.setB (F.LANE_PECTRL.TAP_FROZEN l) true else s
      s.raise (256 + 4 * l + 1)

/-- Log a violation that is found now. -/
def State.violateNow (s : State) (l ty field bitpos : Nat) (fr : Option Frame) (role : Bool) : State :=
  s.violate l ty field bitpos (s.readVal (s.baseOf l)) fr role

/-- Bit errors found during the lane's own flag: each is logged and counted (R120, R126, R138). -/
def State.flagErrors (s : State) (l field : Nat) (fr : Option Frame) (tx : Bool) : List (Nat × Nat) → State
  | [] => s
  | p :: ps =>
    let s := s.violate l (ErrKind.bit).code field p.1 p.2 fr tx
    let s := s.satAdd (if tx then F.LANE_ETALLY.TX_ERR l else F.LANE_ETALLY.RX_ERR l) 1
    s.flagErrors l field fr tx ps

/-! Cut-through kills (R311, R312, R316) -/

/-- Word 3 of route entry `n` (R288, R46). -/
def routeWord (n k : Nat) : Nat := 0xC00000 + n * 16 + k * 4

/-- Word 3 of route `n` is written: it is poisoned no longer (R694). -/
def State.setRouteState (s : State) (n : Nat) (v : Word) : State := (s.wr32 (routeWord n 3) v).heal 7 0 (4 * n + 3)

/-- Route `n` towards bus `b` loses cut-through, once, when its kills of the window exceed CT_KILL_LIMIT (R316, R317; SE0,
R681). -/
def State.fallBack (s : State) (n b : Nat) : State :=
  let w := s.rd32 (routeWord n 3)
  if s.f F.COL_CTRL.CT_KILL_LIMIT < s.killsOf n ∧ w.getLsbD 31 = false ∧ s.engUp 32 = true then
    (s.setRouteState n (putBits w 31 1 1)).raise (800 + b / 4)
  else s

/-- A kill of route `x.route` (R311, R316, R317). -/
def State.countKill (s : State) (x : CtRx) : State :=
  let s := s.satAdd F.COL_CTSTAT.CT_KILLED 1
  if s.gen x.route = x.gen then
    let w := s.rd32 (routeWord x.route 3)
    let s := s.setRouteState x.route (putBits w 0 16 (min 65535 (fieldOf w 0 16 + 1)))
    (s.modKillsOf x.route (· + 1)).fallBack x.route x.bus
  else s

/-- The frame of a cut-through reception is whole (R307, R314): its content is stored, and a copy that waits under R130
counts in CT_CLAMPED (R310), once also where both copies of a pair wait (log 120). -/
def State.ctWhole (s : State) (l : Nat) (fr : Frame) : State :=
  match (s.lane l).ct with
  | none => s
  | some x =>
    let s := s.modLane l fun y => { y with ct := none }
    let s := s.fillCells fr.data (s.frame x.fid).cells
    match s.entry x.bus x.ent with
    | none => s
    | some e =>
      let waits (c : Copy) : Bool := !c.ctCounted && !c.inFlight && s.estate c.lane == 1
      let s := if e.copies.any waits then s.satAdd F.COL_CTSTAT.CT_CLAMPED 1 else s
      s.modEntry x.bus x.ent fun e => { e with fr := { e.fr with data := fr.data },
                                               ct := e.ct.map fun c => { c with whole := true } }

/-- The reception of a cut-through frame on lane `l` ends (R311): before its check point the lane sends a kill, the cells
leave the cut-through queue and the egress entry waits for CT_KILL_ARRIVAL; after it the egress frame stands (R314). -/
def State.killSend (s : State) (l : Nat) : State :=
  match (s.lane l).ct with
  | none => s
  | some x =>
    match x.checked with
    | some fr => s.ctWhole l fr
    | none =>
      let s := (s.countKill x).modLane l fun y => { y with ct := none }
      let s := s.modCtq ((l / 4) * 40 + x.bus / 4) fun q => q.filter fun e => !(decide (e.1 = x.fid))
      s.modEntry x.bus x.ent fun e => { e with ct := e.ct.map fun c => { c with kill := true } }

/-- The reception in progress has passed its check point with this frame. -/
def State.ctChecked (s : State) (l : Nat) (past : Option Frame) : State :=
  if past.isSome then s.modLane l fun x => { x with ct := x.ct.map fun c => { c with checked := past } } else s

/-! Rate seeking (R82, R88) -/

/-- A seek starts (R82 step 1, R89, R94, R99). One that BUS_BIND starts in LISTEN ends in the state OPMODE selects, whatever
an earlier seek kept (R99). -/
def State.seekStart (s : State) (l : Nat) (cause : SeekCause) : State :=
  let i := if s.fb (F.LANE_RATE.DECLARED l) then s.f (F.LANE_RATE.DECL_IDX l) else 0
  let s := if s.hostHold l then s.setHostRet l (s.f (F.LANE_STATE.PREV_STATE l))
    else if s.laneSt l = St.listen then s.setHostRet l 0 else s
  let s := (s.setSt l St.seek 0).setPrev l 0 0
  let s := s.setF (F.LANE_RATE.CUR_IDX l) i
  let s := ((s.setB (F.LANE_RATE.DECLARED l) false).setB (F.LANE_RATE.MISMATCH l) false).setB (F.LANE_RATE.DATA_UNVERIFIED l) false
  let s := (s.wrapInc (F.LANE_RATE.SEEK_COUNT l)).setF (F.LANE_RATE.BO_COUNT l) 0
  let k : Seek := { cause := cause, dwell := s.now + s.f (F.LANE_RATE.DWELL l) * ltMs,
                    timeout := s.now + s.f (F.LANE_RATE.TIMEOUT l) * ltMs }
  (s.modLane l fun x => { x with busoffs := [], seekDue := false, listen91 := false, waitIdle := false, dec := none,
                                 seek := some k }).nominalPhase l

/-! Bus-off (R131, R739) -/

/-- Entries to BUS_OFF that lie in the window of R89. -/
def State.recentBusoffs (s : State) (l : Nat) : List Nat :=
  (s.lane l).busoffs.filter fun t => decide (s.now < t + 3200000000)

/-- BO_COUNT as the window gives it. -/
def State.setBo (s : State) (l : Nat) (ts : List Nat) : State :=
  (s.setF (F.LANE_RATE.BO_COUNT l) (min 3 ts.length)).modLane l fun x => { x with busoffs := ts }

/-- TEC has reached 256 (R88, R89, R131, R739). -/
def State.busOff (s : State) (l : Nat) : State :=
  let s := s.wrapInc (F.LANE_STATE.BO_TOTAL l)
  let ts := s.now :: s.recentBusoffs l
  let s := s.setBo l ts
  let s := if 3 ≤ ts.length ∧ s.fb (F.LANE_RATE.SEEK_BUSOFF l) then s.modLane l fun x => { x with seekDue := true } else s
  let s := if s.hostHold l then (s.setHostRet l (s.f (F.LANE_STATE.PREV_STATE l))).setPrev l 0 0 else s
  let s := s.modLane l fun x => { x with waitIdle := false, dec := none, boAt := some (s.now, x.dec) }
  if s.fb (F.LANE_CTRL.RECOV_MANUAL l) then s.setSt l St.hold Hc.busoff else s.setSt l St.recovery Hc.none

/-- Bus-off if TEC is 256 and the lane is not in it yet. -/
def State.busOffIf (s : State) (l : Nat) : State := if s.tec l = 256 ∧ s.estate l ≠ 2 then s.busOff l else s

/-! Entry to OFF (R102, R103) -/

/-- The rate guards of a lane as after LANE_STOP: every quarantine is lifted (R103). -/
def State.liftAll (s : State) (l : Nat) : State :=
  (List.range 16).foldl (fun st g => st.setB (F.LANE_RGUARD.QUARANTINED l g) false) s

/-- A declaration of this lt under SEEK_START is applied before the lane enters OFF (R93); one of an earlier lt that still waits
for its 11 recessive bits is dropped with the seek (log 107). CUR_IDX, which the spec gives only for RATE_SEEK, keeps its last
value elsewhere (R94, log 81). -/
def State.declaredFirst (s : State) (l : Nat) : State :=
  match (s.lane l).seek with
  | none => s
  | some k =>
    match k.declared with
    | none => s
    | some i => if k.cause = .start ∧ k.declaredAt = s.now then s.copyCand l i else s

/-- A lane enters OFF. -/
def State.laneOff (s : State) (l : Nat) : State :=
  let s := s.killSend l
  s.laneStep l fun s =>
    let s := s.declaredFirst l
    let s := ((s.setSt l St.off 0).setPrev l 0 0).setHostRet l 0
    let s := (s.setF (F.LANE_ECNT.TEC l) 0).setF (F.LANE_ECNT.REC l) 0
    let s := (s.liftAll l).setF (F.LANE_TDC.TDCV l) 0
    let s := ((s.setB (F.LANE_RATE.DECLARED l) false).setB (F.LANE_RATE.MISMATCH l) false).setB (F.LANE_RATE.DATA_UNVERIFIED l) false
    let s := s.setF (F.LANE_RATE.BO_COUNT l) 0
    let s := s.modLane l fun x => { x with pend := none, lctlNormal := false, settle := none, stuck := .none, waitIdle := false,
                                           dec := none, att := none, lastTx := false, listen91 := false, busoffs := [], seek := none, seekDue := false, boAt := none,
                                           tdcvValid := false, guards := [], corrs := [] }
    s.pinStop l

/-- VIO of the lane's bank is below 1.0 V: the lane input reads dominant whatever the ball level (R715, R725). -/
def State.dark (s : State) (l : Nat) : Bool := s.power.vioLow.contains (bankOf l)

/-- VIO of a bank has fallen below 1.0 V, or has risen again (R715, R725, log 103). -/
def State.setVioLow (s : State) (b : Nat) (low : Bool) : State :=
  let rest := s.power.vioLow.filter fun x => !(decide (x = b))
  s.withPower { s.power with vioLow := if low then b :: rest else rest }

/-- The lane has sampled recessive bits: VIO of its bank is not below 1.0 V (R725, log 103). -/
def State.sawRecessive (s : State) (l : Nat) : State := if s.dark l then s.setVioLow (bankOf l) false else s

/-! LANE_START (R101, R57, R100) -/

/-- LANE_START is refused on an inactive lane (R26, R101), before BOOT_DONE (R676), while the quad's engine is halted or
not loaded (R677), while the quad is gated (R690) and in a bank without I/O voltage (R716). -/
def State.startRefused (s : State) (l : Nat) : Bool :=
  let q := l / 4
  !(s.laneActive l) || !(s.fb F.GLB_BOOT.BOOT_DONE) || (s.eng q).halted || (s.eng q).stopped ||
    s.fb (F.QUAD_CTRL.GATE q) || s.fb (F.QUAD_CTRL.GATED q) || fieldOf (s.reg 0x58) (2 * bankOf l) 2 == 0

/-- The lane leaves OFF for INIT: its timing is evaluated again, counting against the function that last wrote it. -/
def State.laneToInit (s : State) (l : Nat) : State :=
  let s := s.leaveOffClamps l
  s.laneStep l fun s =>
    let s := (s.setSt l St.init 0).setF (F.LANE_STATE.BO_TOTAL l) 0
    let s := s.setF (F.LANE_RATE.SEEK_COUNT l) 0
    let s := s.modLane l fun x => { x with lctlNormal := true, settle := some (s.now + s.f (F.LANE_CTRL.LCTL_SETTLE l) * ltUs) }
    s.pinStart l

/-! Leaving INIT (R98, R100, R145) -/

/-- The windows of the rate guards begin (R145). -/
def State.guardsStart (s : State) (l : Nat) : State :=
  let base := s.baseOf l
  (List.range 16).foldl (fun st g =>
    let due : Option Timer := if st.f (F.LANE_RGUARD.KIND l g) = 0 then none
      else some (st.after (some base) (tbMs (st.f (F.LANE_RGUARD.WINDOW l g))))
    st.modLane l fun x => { x with guards := Tab.put (fun _ => {}) x.guards g { count := 0, due := due } }) s

/-- Integration is complete. -/
def State.leaveInit (s : State) (l : Nat) : State :=
  let s := s.guardsStart l
  if s.fb (F.LANE_RATE.SEEK_START l) then s.seekStart l .start else s.setSt l (opState (s.opmode l)) 0

/-! Commands on a lane (R101, R102, R400, R743) -/

/-- The lane a lane command names (R399). -/
def laneOf (d : Words8) : Nat := fieldOf d.w1 0 7

/-- Opcodes of the commands whose object is a lane (R743). -/
def isLaneOp (op : Nat) : Bool := decide (0x45 ≤ op) && decide (op ≤ 0x4A)

/-- Leave the LISTEN of R91, or the hold of the host (R98, R99). -/
def State.laneResumed (s : State) (l : Nat) : State :=
  if s.hostHold l then
    let p := s.f (F.LANE_STATE.PREV_STATE l)
    (s.setSt l p 0).setPrev l 0 0
  else
    let s := s.modLane l fun x => { x with listen91 := false }
    if s.hostRet l = 0 then s.setSt l (opState (s.opmode l)) 0 else s.toHostHold l

/-! Running timers on another base (R400, R465, log 88) -/

/-- A timer of base `b` goes on with what is left of it on base `n`, whose interval count is `d` ahead. -/
def Timer.rebase (b n : Nat) (d : Int) (t : Timer) : Timer :=
  if t.base = some b then ⟨some n, ((t.due : Int) + d).toNat⟩ else t

/-- The timers of a lane. -/
def Lane.rebase (b n : Nat) (d : Int) (x : Lane) : Lane :=
  { x with hold := x.hold.map (Timer.rebase b n d),
           guards := x.guards.map fun g => (g.1, { g.2 with due := g.2.due.map (Timer.rebase b n d) }),
           open_ := x.open_.map fun e => { e with sof := e.sof + d, due := e.due.rebase b n d },
           corrs := x.corrs.map fun c => (((c.1 : Int) + d).toNat, c.2) }

/-- The timers of an entry. -/
def Entry.rebase (b n : Nat) (d : Int) (e : Entry) : Entry :=
  { e with deadline := e.deadline.map (Timer.rebase b n d), entered := ((e.entered : Int) + d).toNat,
           copies := e.copies.map fun c => { c with trailDue := c.trailDue.map (Timer.rebase b n d) } }

/-- The schedule of an object, and the release that waits. -/
def Obj.rebase (b n : Nat) (d : Int) (x : Obj) : Obj :=
  { x with next := x.next.map (Timer.rebase b n d), waiting := x.waiting.map fun w => (((w.1 : Int) + d).toNat, w.2) }

/-- How far the interval count of base `n` is ahead of base `b`. -/
def State.ahead (s : State) (b n : Nat) : Int := ((s.tb n).elapsed : Int) - ((s.tb b).elapsed : Int)

/-- Lane `l` is bound to base `n`: its running timers and those of its logical bus, its entries and its objects go on there.
A B lane's own binding is ignored (R249). -/
def State.rebind (s : State) (l n : Nat) : State :=
  if s.busOf l ≠ l then s
  else
    let b := s.baseOf l
    let d := s.ahead b n
    let s := (s.lanesOf l).foldl (fun st k => st.modLane k (Lane.rebase b n d)) s
    let s := s.modBus l fun es => es.map (Entry.rebase b n d)
    (s.objs.map Prod.fst).foldl (fun st k =>
      if st.objBus (k / 1024) (k % 1024) = l then st.modObj k (Obj.rebase b n d) else st) s

/-- The attempt on TXD has ended without success: the copy, the source, and what waits for the frame's end. -/
def State.attemptFailed (s : State) (l : Nat) (a : Attempt) (erred : Bool) : State :=
  let src := (s.entry a.bus a.ent).map Entry.src
  let s := (s.modLane l fun x => { x with att := none }).copyFailed a.bus l a.ent erred
  match src with
  | some x => s.afterAttempt a.bus x
  | none => s

/-- What a lane is doing on the bus ends without a trace of its own: an attempt fails, with what it had measured of its loop
delay, and a cut-through reception is killed (R62, R150 step 1). -/
def State.dropOut (s : State) (l : Nat) (loop : Option (Option Nat)) : State :=
  let s := s.killSend l
  match (s.lane l).att with
  | some a =>
    let s := match s.entry a.bus a.ent with
      | some e => s.loopDelay l e.fr loop
      | none => s
    s.attemptFailed l a true
  | none => s

/-- BUS_BIND starts a seek: SEEK_BIND is 1 in a state that permits it (R88, R400). -/
def State.bindSeeks (s : State) (l : Nat) : Bool :=
  let st := s.laneSt l
  ((st == St.init) || (st == St.listen) || (st == St.restricted) || (st == St.active) || s.hostHold l) &&
    s.fb (F.LANE_RATE.SEEK_BIND l)

/-- BUS_BIND takes effect (R400): the binding, and a seek where it starts one; a reception in progress is abandoned (R79). -/
def State.busBind (s : State) (l n : Nat) : State :=
  let s := (s.rebind l n).setF (F.LANE_TS_MODE.TB l) n
  let st := s.laneSt l
  if s.bindSeeks l then
    (s.killSend l).laneStep l fun s =>
      let s := if st = St.init then s.guardsStart l else s
      s.seekStart l .bind
  else s

/-- Judge and apply a command on lane `l` that no earlier one holds back. A BUS_BIND that starts a seek lets the frame on TXD
end first: it commits then (R79, R200, log 87). -/
def State.laneDo (s : State) (r : AdminRef) (d : Words8) : State :=
  let l := laneOf d
  let st := s.laneSt l
  if d.op = 0x45 then
    if st ≠ St.off ∨ s.startRefused l then s.adminRefuse r .state else (s.laneToInit l).adminDone r
  else if d.op = 0x46 then
    if st = St.off then s.adminRefuse r .state
    else if (s.lane l).att.isSome then s.modLane l fun x => { x with pend := some ⟨.stop, some r⟩ }
    else (s.laneOff l).adminDone r
  else if d.op = 0x47 then
    if st ≠ St.active ∧ st ≠ St.restricted then s.adminRefuse r .state
    else if (s.lane l).att.isSome then s.modLane l fun x => { x with pend := some ⟨.suspend, some r⟩ }
    else (s.laneStep l fun s => (s.setSt l St.hold Hc.host).setPrev l st 0).adminDone r
  else if d.op = 0x48 then
    if s.hostHold l || (decide (st = St.listen) && (s.lane l).listen91) then
      (s.laneStep l fun s => s.laneResumed l).adminDone r
    else s.adminRefuse r .state
  else if d.op = 0x49 then
    if st = St.hold ∧ s.holdCause l = Hc.busoff then (s.laneStep l fun s => s.setSt l St.recovery 0).adminDone r
    else s.adminRefuse r .state
  else
    let n := fieldOf d.w1 8 3
    if (s.lane l).att.isSome && s.bindSeeks l then s.modLane l fun x => { x with pend := some ⟨.bind n, some r⟩ }
    else (s.busBind l n).adminDone r

/-- A command on a lane: held behind one that has not committed (R743). -/
def State.laneCmd (s : State) (r : AdminRef) (d : Words8) : State :=
  if (s.lane (laneOf d)).pend.isSome then s.withHeld (s.held ++ [⟨r.f, d⟩]) else s.laneDo r d

/-- The commands held behind lane `l` are judged, in the order in which they were taken (R743). -/
def State.laneRejudge (s : State) (l : Nat) : State :=
  let mine (h : Held) : Bool := isLaneOp h.d.op && decide (laneOf h.d = l)
  (s.held.filter mine).foldl (fun st h => st.laneCmd ⟨h.f, h.d.w7⟩ h.d)
    (s.withHeld (s.held.filter fun h => !(mine h)))

/-- The frame on TXD has ended: a pending LANE_STOP, LANE_SUSPEND or BUS_BIND commits, a LANE_SUSPEND whose lane has left
ACTIVE and RESTRICTED is refused (R102, R154), and what they held back is judged. -/
def State.frameEnd (s : State) (l : Nat) : State :=
  match (s.lane l).pend with
  | none => s
  | some p =>
    let s := s.modLane l fun x => { x with pend := none }
    let st := s.laneSt l
    let s :=
      match p.what with
      | .stop => (s.laneOff l).adminDone? p.ref
      | .bind n => (s.busBind l n).adminDone? p.ref
      | .suspend =>
        if st = St.active ∨ st = St.restricted then
          (s.laneStep l fun s => (s.setSt l St.hold Hc.host).setPrev l st 0).adminDone? p.ref
        else
          match p.ref with
          | some r => s.adminRefuse r .state
          | none => s
    s.laneRejudge l

end Sys2Proof.Machine
end

