-- ==== Sys2Proof/Machine/Dist.lean ====
section
/-! DEFINITION. Time distribution onto buses (11 R487 to R491). -/
namespace Sys2Proof.Machine

/-- A frame of a distribution channel: FORMAT and ID as the channel has them. What else the format carries (BRS, ESI
is the lane's, SEC, SDT, VCID, AF) is not stated: free (log 1). -/
def State.bdFrame (s : State) (c id : Nat) (data : List Byte) : Frame × State :=
  let fmt := (Format.ofCode (s.f (F.TB_BDIST.FORMAT c))).getD .cb
  let x := s.drawWord
  let y := x.2.drawWord
  let xl := decide (fmt = .xl)
  ({ fmt := fmt, id := BitVec.ofNat 29 (fmt.idMask id), rtr := false, brs := fmt.fd && x.1.getLsbD 0, esi := false,
     sec := xl && x.1.getLsbD 1, sdt := if xl then x.1.extractLsb' 8 8 else 0,
     vcid := if xl then x.1.extractLsb' 16 8 else 0, af := if xl then y.1 else 0, len := data.length, data := data }, y.2)

/-- The lane of a channel. -/
def State.bdLane (s : State) (c : Nat) : Nat := s.f (F.TB_BDIST.LANE c)

/-- The follow-up of sync `sync` of channel `c` that succeeded with stamp `t`: it carries that sync's SEQ (R488). -/
def State.fupEnter (s : State) (c : Nat) (sync : Frame) (t : Stamp) : State :=
  let l := s.bdLane c
  let b := s.busOf l
  let seq := sync.data.getD 0 0
  let data := if s.fb (F.TB_BDIST.LAYOUT c) then
      seq :: BitVec.ofNat 8 (s.f (F.TB_BDIST.TB c)) :: beBytes 6 t.sec ++ beBytes 4 t.ns
    else seq :: beBytes 3 t.sec ++ beBytes 4 t.ns
  let x := s.bdFrame c (s.f (F.TB_BDIST.FUP_ID c)) data
  x.2.enter b { id := 0, src := .fup c, fr := x.1, sel := [l],
                deadline := some (x.2.laneMs l (x.2.f (F.TB_BDIST.PERIOD c))) }

/-- A sync released by channel `c` (R487, R488): the previous one, pending and uncommitted, is replaced. -/
def State.syncEnter (s : State) (c : Nat) : State :=
  let l := s.bdLane c
  let b := s.busOf l
  let s := match ((s.bus b).filter fun e => decide (e.src = .sync c) && !e.done && !e.inFlight).getLast? with
    | some e => (s.dropEntry b e).satAdd (F.TB_BDSTAT.SYNC_LOST c) 1
    | none => s
  let s := s.wrapInc (F.TB_BDSTAT.SEQ c)
  let x := s.bdFrame c (s.f (F.TB_BDIST.SYNC_ID c)) [BitVec.ofNat 8 (s.f (F.TB_BDSTAT.SEQ c))]
  x.2.enter b { id := 0, src := .sync c, fr := x.1, sel := [l] }

/-- SYNC_RELEASE (R487, R490): the base has passed a whole multiple of PERIOD ms. -/
def execSyncRelease (c : Fin 16) (s : State) : Host.Outcome State Fault Refusal :=
  let m := s.bdMultiple c.val
  if s.timeDist && s.fb (F.TB_BDIST.EN c.val) && !(decide (m = s.bd c.val)) then
    .next ((s.setBd c.val m).syncEnter c.val)
  else .next s

/-- The source of a successful attempt at frame `fr` learns its stamp: a sync's follow-up enters (R488). -/
def State.afterSuccess (s : State) (src : TxSrc) (fr : Frame) (t : Stamp) : State :=
  match src with
  | .sync c => s.fupEnter c fr t
  | _ => s

end Sys2Proof.Machine
end

