-- ==== Sys2Proof/Machine/LaneCmd.lean ====
section
/-! DEFINITION. Admin commands on lanes, and the events of a lane's own state: settling, integration, recovery, stuck
bus, rate seeking, rate guards, holds (02, 03, 04, 06). -/
namespace Sys2Proof.Machine

/-- LANE_START (R101). -/
def execLaneStart (f : Fn) (d : Words8) (s : State) : Host.Outcome State Fault Refusal :=
  adminCmd s f d 0x45 fun s r => s.laneCmd r d

/-- LANE_STOP (R101, R102). -/
def execLaneStop (f : Fn) (d : StopDesc) (s : State) : Host.Outcome State Fault Refusal :=
  adminCmd s f d.d 0x46 fun s r => (s.ctChecked (laneOf d.d) d.past).laneCmd r d.d

/-- LANE_SUSPEND (R101, R102). -/
def execLaneSuspend (f : Fn) (d : Words8) (s : State) : Host.Outcome State Fault Refusal :=
  adminCmd s f d 0x47 fun s r => s.laneCmd r d

/-- LANE_RESUME (R101). -/
def execLaneResume (f : Fn) (d : Words8) (s : State) : Host.Outcome State Fault Refusal :=
  adminCmd s f d 0x48 fun s r => s.laneCmd r d

/-- BUSOFF_RECOVER (R101). -/
def execBusoffRecover (f : Fn) (d : Words8) (s : State) : Host.Outcome State Fault Refusal :=
  adminCmd s f d 0x49 fun s r => s.laneCmd r d

/-- BUS_BIND (R400). -/
def execBusBind (f : Fn) (d : StopDesc) (s : State) : Host.Outcome State Fault Refusal :=
  adminCmd s f d.d 0x4A fun s r => (s.ctChecked (laneOf d.d) d.past).laneCmd r d.d

/-- LCTL_SETTLE_EXPIRY (R100, R150): in INIT sampling begins; the self-test opens its window or finds the fault
external. -/
def execLctlSettleExpiry (l : LaneId) (s : State) : Host.Outcome State Fault Refusal :=
  let l := l.val
  match (s.lane l).settle with
  | none => .next s
  | some t =>
    if s.now < t then .next s
    else
      let s := s.modLane l fun x => { x with settle := none }
      .next <| match (s.lane l).stuck with
        | .standby => s.modLane l fun x => { x with stuck := .window, window := s.now + 1024 * s.tbLt l }
        | .normal => (s.setB (F.LANE_STATE.STUCK_EXT l) true).modLane l fun x => { x with stuck := .external }
        | _ => s

/-- INTEGRATION_COMPLETE (R98, R100): the eleventh recessive sample in INIT, after the transceiver has settled. -/
def execIntegrationComplete (l : LaneId) (s : State) : Host.Outcome State Fault Refusal :=
  let l := l.val
  if s.laneSt l = St.init ∧ (s.lane l).settle = none then .next ((s.sawRecessive l).laneStep l fun s => s.leaveInit l)
  else .next s

/-- REJOIN_AFTER_IDLE (R110, R117, R128, R82 step 2): 11 consecutive recessive bits. -/
def execRejoinAfterIdle (l : LaneId) (s : State) : Host.Outcome State Fault Refusal :=
  .next ((s.sawRecessive l.val).modLane l.val fun x =>
    { x with waitIdle := false, seek := x.seek.map fun k => { k with ready := true } })

/-- RECOVERY_COMPLETE (R132, R98, R739). -/
def execRecoveryComplete (l : LaneId) (s : State) : Host.Outcome State Fault Refusal :=
  let l := l.val
  if s.laneSt l = St.recovery then
    .next ((s.sawRecessive l).laneStep l fun s =>
      let s := (s.setF (F.LANE_ECNT.TEC l) 0).setF (F.LANE_ECNT.REC l) 0
      if (s.lane l).seekDue then s.seekStart l .busoff
      else if s.hostRet l = 0 then s.setSt l St.active 0
      else s.toHostHold l)
  else .next s

/-- BO_COUNT_AGE (R89): entries to BUS_OFF made 10,000 ms ago or more no longer count. -/
def execBoCountAge (l : LaneId) (s : State) : Host.Outcome State Fault Refusal :=
  .next (s.setBo l.val (s.recentBusoffs l.val))

/-! Stuck dominant (R149 to R153) -/

/-- States in which a stuck bus is detected (R98), not again in a HOLD that a stuck fault has ended in (R152). -/
def State.detectsStuck (s : State) (l : Nat) : Bool :=
  let st := s.laneSt l
  !(s.lane l).noDetect &&
    ((st == St.init) || (st == St.listen) || (st == St.restricted) || (st == St.active) || (st == St.recovery) ||
    ((st == St.hold) && !(s.holdCause l == Hc.stuck)))

/-- Entry to HOLD with cause STUCK, with its return points (R98, R159). -/
def State.stuckHold (s : State) (l : Nat) : State :=
  let st := s.laneSt l
  let c := s.holdCause l
  let s := if st = St.hold ∧ c = Hc.host then s.setHostRet l (s.f (F.LANE_STATE.PREV_STATE l)) else s
  (s.setPrev l st (if st = St.hold then c else 0)).setSt l St.hold Hc.stuck

/-- STUCK_DOMINANT (R149, R150 steps 1 and 2, R715). -/
def execStuckDominant (l : LaneId) (x : StuckSeen) (s : State) : Host.Outcome State Fault Refusal :=
  let l := l.val
  let low := x.vioLow
  let loop := x.loop
  let x := x.err
  let s := if low then s.setVioLow (bankOf l) true else s
  if s.detectsStuck l then
    let s := s.violate l Vt.stuckDominant x.field.toNat x.bitpos x.seen x.hdr (s.lane l).att.isSome
    let s := ((s.ctChecked l (if x.afterCheck then x.hdr else none)).dropOut l loop).nominalPhase l
    let settle := s.now + s.f (F.LANE_CTRL.LCTL_SETTLE l) * ltUs
    let test := s.fb (F.LANE_CTRL.STUCK_TEST l)
    let s := s.laneStep l fun s =>
      (s.stuckHold l).modLane l fun y =>
        { y with settle := some settle, stuck := if test then .standby else .normal, lctlNormal := !test, waitIdle := false,
                 dec := none }
    .next (s.frameEnd l)
  else .next s

/-- SELF_TEST_FAULT_FOUND (R150 step 4). -/
def execSelfTestFaultFound (l : LaneId) (s : State) : Host.Outcome State Fault Refusal :=
  let l := l.val
  if (s.lane l).stuck = .window then
    let s := (s.sawRecessive l).violateNow l Vt.stuckSelf (Config.violField Vt.stuckSelf).toNat (Config.violBit Vt.stuckSelf).toNat none false
    .next (s.laneStep l fun s =>
      (((s.setSt l St.isolated 0).setPrev l 0 0).setHostRet l 0).modLane l fun x =>
        { x with stuck := .none, settle := none, lctlNormal := false })
  else .next s

/-- SELF_TEST_WINDOW_END (R150 step 5). -/
def execSelfTestWindowEnd (l : LaneId) (s : State) : Host.Outcome State Fault Refusal :=
  let l := l.val
  if (s.lane l).stuck = .window ∧ (s.lane l).window ≤ s.now then
    .next (s.modLane l fun x => { x with stuck := .normal, lctlNormal := true,
                                         settle := some (s.now + s.f (F.LANE_CTRL.LCTL_SETTLE l) * ltUs) })
  else .next s

/-- STUCK_FAULT_END (R152, R159): 11 recessive bits end an external fault. -/
def execStuckFaultEnd (l : LaneId) (s : State) : Host.Outcome State Fault Refusal :=
  let l := l.val
  if (s.lane l).stuck = .external then
    .next ((s.sawRecessive l).laneStep l fun s =>
      let s := s.modLane l fun x => { x with stuck := .none, noDetect := true }
      let p := s.f (F.LANE_STATE.PREV_STATE l)
      let c := s.f (F.LANE_STATE.PREV_CAUSE l)
      if p = St.hold ∧ c = Hc.host then s.toHostHold l
      else
        let s := (s.setSt l p (if p = St.hold then c else 0)).setPrev l 0 0
        if p = St.init then s.leaveInit l else s)
  else .next s

/-! Rate seeking (R82 to R93) -/

/-- The next candidate in table order (R82 step 3). -/
def State.seekNext (s : State) (l : Nat) (k : Seek) : State :=
  let i := s.f (F.LANE_RATE.CUR_IDX l)
  let s := s.setF (F.LANE_RATE.CUR_IDX l) (if i < s.f (F.LANE_RATE.NCAND l) then i + 1 else 0)
  let k' : Seek := { k with ready := false, count := 0, switched := false, group := false,
                            dwell := s.now + s.f (F.LANE_RATE.DWELL l) * ltMs }
  s.modLane l fun x => { x with seek := some k' }

/-- The next member of the rate group in table order, wrapping (R85). The trying begins with the candidate in use, whatever
its place in the table (log 78). -/
def State.seekMember (s : State) (l : Nat) (k : Seek) : State :=
  let i := s.f (F.LANE_RATE.CUR_IDX l)
  let g := s.rateGroup l i
  let n := ((g.filter fun m => decide (i < m)).head?).getD (g.headD i)
  (s.setF (F.LANE_RATE.CUR_IDX l) n).modLane l fun x => { x with seek := some { k with ready := false } }

/-- Declaration of candidate `i` (R87). -/
def State.declare (s : State) (l i : Nat) (k : Seek) (unver : Bool) : State :=
  let s := (s.setB (F.LANE_RATE.DECLARED l) true).setF (F.LANE_RATE.DECL_IDX l) i
  let s := if unver then s.setB (F.LANE_RATE.DATA_UNVERIFIED l) true else s
  (s.modLane l fun x => { x with seek := some { k with declared := some i, declaredAt := s.now } }).raise (256 + 4 * l)

/-- A switched frame: FD with BRS recessive, or XL (R81). -/
def isSwitched (fr : Frame) : Bool := (fr.fmt.fd && fr.brs) || decide (fr.fmt = .xl)

/-- The group holds another candidate whose FD or XL data bit length differs (R85). -/
def State.groupDiffers (s : State) (l i : Nat) : Bool :=
  (s.rateGroup l i).any fun m => !(decide ((s.candBits l m).2 = (s.candBits l i).2))

/-- Another member has the same data timing for the frame's format but another for the other format (R86). -/
def State.groupUnverified (s : State) (l i : Nat) (fmt : Format) : Bool :=
  (s.rateGroup l i).any fun m =>
    let a := s.candData l m
    let b := s.candData l i
    if fmt = .xl then decide (a.2 = b.2) && !(decide (a.1 = b.1)) else decide (a.1 = b.1) && !(decide (a.2 = b.2))

/-- SEEK_FRAME_END (R61, R81 to R86): the lane is in nominal timing again, and the frame is judged. In the wait of R85 only
switched frames count (log 17). No rate guard counts a frame judged in RATE_SEEK (log 82). -/
def execSeekFrameEnd (l : LaneId) (fr : Frame) (good : Bool) (s : State) : Host.Outcome State Fault Refusal :=
  let l := l.val
  match (s.lane l).seek with
  | none => .next s
  | some k =>
    let s := if s.laneSt l = St.seek then s.nominalPhase l else s
    if s.laneSt l ≠ St.seek ∨ !k.ready ∨ k.declared.isSome then .next s
    else
      let i := s.f (F.LANE_RATE.CUR_IDX l)
      let sw := isSwitched fr
      if k.group then
        if !sw then .next s
        else if good then .next (s.declare l i k (s.groupUnverified l i fr.fmt))
        else .next (s.seekMember l k)
      else if !good then .next (s.seekNext l k)
      else
        let k' : Seek := { k with count := k.count + 1, switched := k.switched || sw,
                                  dwell := s.now + s.f (F.LANE_RATE.DWELL l) * ltMs }
        if k'.count < 2 then .next (s.modLane l fun x => { x with seek := some k' })
        else if !k'.switched && s.groupDiffers l i then
          .next (s.modLane l fun x => { x with seek := some { k' with group := true } })
        else .next (s.declare l i k' false)

/-- SEEK_DWELL_EXPIRY (R82, R83): no frame is in progress, or the frame that was has been judged. -/
def execSeekDwellExpiry (l : LaneId) (s : State) : Host.Outcome State Fault Refusal :=
  let l := l.val
  match (s.lane l).seek with
  | none => .next s
  | some k =>
    if s.laneSt l = St.seek ∧ !k.group ∧ k.declared = none ∧ k.dwell ≤ s.now then .next (s.seekNext l k) else .next s

/-- SEEK_TIMEOUT (R82 step 6, R85, R93): TIMEOUT runs again from each expiry (log 80); only the first one sets TIMED_OUT and
raises the source, and in the wait of R85 any one declares. -/
def execSeekTimeout (l : LaneId) (s : State) : Host.Outcome State Fault Refusal :=
  let l := l.val
  match (s.lane l).seek with
  | none => .next s
  | some k =>
    if s.laneSt l = St.seek ∧ k.declared = none ∧ k.timeout ≤ s.now then
      let i := s.f (F.LANE_RATE.CUR_IDX l)
      let k' : Seek := { k with timedOut := true, timeout := k.timeout + s.f (F.LANE_RATE.TIMEOUT l) * ltMs }
      if k.group then .next (s.declare l ((s.rateGroup l i).headD i) k' true)
      else
        let s := s.modLane l fun x => { x with seek := some k' }
        if k.timedOut then .next s
        else .next ((s.setB (F.LANE_RATE.TIMED_OUT l) true).raise (256 + 4 * l))
    else .next s

/-- Rejoin after a seek: the host's hold, or the state OPMODE selects (R91, R99). -/
def State.seekRejoin (s : State) (l : Nat) : State :=
  if s.hostRet l = 0 then s.setSt l (opState (s.opmode l)) 0 else s.toHostHold l

/-- DECLARED_TIMING_APPLY (R87, R90 to R92, R99): the next 11 recessive bits after a declaration. -/
def execDeclaredTimingApply (l : LaneId) (s : State) : Host.Outcome State Fault Refusal :=
  let l := l.val
  match (s.lane l).seek with
  | none => .next s
  | some k =>
    match k.declared with
    | none => .next s
    | some i =>
      if s.laneSt l ≠ St.seek then .next s
      else
        let s1 := s.modLane l fun x => { x with seek := none }
        if k.cause = .start then .next (s1.laneStep l fun s => (s.copyCand l i).seekRejoin l)
        else if s.candBits l i = s.forceBits l then .next (s1.laneStep l fun s => s.seekRejoin l)
        else if s.fb (F.LANE_RATE.ADOPT l) then
          .next (s1.laneStep l fun s => ((s.copyCand l i).setB (F.LANE_RATE.MISMATCH l) true).seekRejoin l)
        else
          .next (s1.laneStep l fun s =>
            ((s.setSt l St.listen 0).setB (F.LANE_RATE.MISMATCH l) true).modLane l fun x => { x with listen91 := true })

/-! Rate guards (R145 to R148) -/

/-- GUARD_WINDOW_END (R148). -/
def execGuardWindowEnd (l : LaneId) (g : Fin 16) (s : State) : Host.Outcome State Fault Refusal :=
  let l := l.val
  let g := g.val
  let x := Tab.get (fun _ => {}) (s.lane l).guards g
  match x.due with
  | none => .next s
  | some t =>
    if s.ranOut t then
      let m := s.f (F.LANE_RGUARD.MAXCNT l g)
      let s := if x.count ≤ m ∧ x.next ≤ m then s.setB (F.LANE_RGUARD.QUARANTINED l g) false else s
      let y : Guard := { count := x.next, due := some { t with due := t.due + tbMs (s.f (F.LANE_RGUARD.WINDOW l g)) } }
      .next (s.modLane l fun z => { z with guards := Tab.put (fun _ => {}) z.guards g y })
    else .next s

/-- QUARANTINE_LIFT (R148): a host write of 1 to QUARANTINED. -/
def execQuarantineLift (f : Fn) (l : LaneId) (g : Fin 16) (s : State) : Host.Outcome State Fault Refusal :=
  if s.hostOpen f.val then .next (s.setB (F.LANE_RGUARD.QUARANTINED l.val g.val) false) else .next s

/-- The violation log is emptied (R143). -/
def State.vlogClear (s : State) (l : Nat) : State :=
  let s := (List.range 256).foldl (fun st k => st.setReg (vlogOff l 0 + 4 * k) 0) s
  let s := s.withPoison (s.poison.filter fun x => !(decide (x.1 = 1024 + l)))
  ((s.setF (F.LANE_VLOG.HEAD l) 0).setF (F.LANE_VLOG.COUNT l) 0).setB (F.LANE_VLOG.WRAPPED l) false

/-- VLOG_CLEAR (R143). -/
def execVlogClear (f : Fn) (l : LaneId) (s : State) : Host.Outcome State Fault Refusal :=
  if s.hostOpen f.val then .next (s.vlogClear l.val) else .next s

/-! Holds and trailing copies (R202, R258) -/

/-- HOLD_EXPIRY (R202, R207): the lane's step ends a hold that has run out. Deadlines, cancels and aborts of the lt in which
it runs out come first, so the expiry takes effect when that lt is over (log 7). -/
def execHoldExpiry (l : LaneId) (s : State) : Host.Outcome State Fault Refusal :=
  if s.overrun? (s.lane l.val).hold then .next (s.laneStep l.val fun s => s) else .next s

/-- TRAIL_MS_EXPIRY (R258): a copy in an attempt ends with that attempt (log 90). -/
def execTrailMsExpiry (l : LaneId) (ent : Nat) (s : State) : Host.Outcome State Fault Refusal :=
  let b := s.busOf l.val
  match (s.entry b ent).bind fun e => e.copyOn l.val with
  | none => .next s
  | some c => if c.trail && s.ranOut? c.trailDue then .next (s.stopTrail b ent l.val) else .next s

/-- A SOF edge at interval count `n` of the base of lane `l`, with the receive correction (R268, R465, R475). -/
def State.sofAt (s : State) (l n : Nat) : Int := (n : Int) + corrUnits (s.rxCorr l n).1

/-- The entry stays open: DUP_WIN is not over, or a reception on the partner lane lies within it (R269). -/
def State.staysOpen (s : State) (l : Nat) (partner : Option Nat) (e : OpenEnt) : Bool :=
  let a := l / 2 * 2
  let p := if l = a then a + 1 else a
  !(s.ranOut e.due) ||
    (match partner with
     | some n => decide ((s.sofAt p n - e.sof).natAbs ≤ tbUs (s.f (F.LANE_PAIRCFG.DUP_WIN a)))
     | none => false)

/-- DUP_ENTRY_EXPIRY (R269, R273): the oldest open entry of the lane whose DUP_WIN is over, with no reception in progress on
the partner lane that could still match it. -/
def execDupEntryExpiry (l : DupSeen) (s : State) : Host.Outcome State Fault Refusal :=
  let partner := l.partner
  let l := l.lane.val
  let os := (s.lane l).open_
  match os.findIdx? fun e => !(s.staysOpen l partner e) with
  | none => .next s
  | some i =>
    let a := l / 2 * 2
    let s := s.modLane l fun x => { x with open_ := os.eraseIdx i }
    .next (s.satAdd (if l = a then F.LANE_PAIRRX.SINGLE_A a else F.LANE_PAIRRX.SINGLE_B a) 1)

end Sys2Proof.Machine
end

