-- ==== Sys2Proof/Machine/LaneBus.lean ====
section
/-! DEFINITION. Events on the bus of a lane, except valid frames: SOF, arbitration, success, errors, overload frames,
kills (03, 04, 07). -/
namespace Sys2Proof.Machine

/-- A copy that cannot be sent goes: an entry with no copy left, or only copies that have made their one attempt, completes
TX_ERROR, a completed one goes (R260, R353, R696, log 14). -/
def State.copyGone (s : State) (b id l : Nat) : State :=
  match s.entry b id with
  | none => s
  | some e =>
    if e.done then s.endTrail b id l
    else
      let e' := { e with copies := e.copies.filter fun c => !(decide (c.lane = l)) }
      let s := s.modEntry b id fun _ => e'
      if e'.copies.all fun c => c.spent e' then s.fail b e' .txError else s

/-- The SOF of entry `e` on lane `l` (R196, R197, R475, R740, R310). -/
def State.sof (s : State) (l : Nat) (e : Entry) (joined : Option Edge) : State :=
  let b := s.busOf l
  let t := match joined with
    | some x => s.stampWith l x.val (s.corrAt l x.cnt false)
    | none => s.laneStamp l (s.readVal (s.baseOf l)) true
  let s := t.2
  let early := match e.ct with
    | some x => !x.whole
    | none => false
  let counted := match e.copyOn l with
    | some c => c.ctCounted
    | none => true
  let s := if early && !counted then s.satAdd F.COL_CTSTAT.CT_STARTED 1 else s
  let s := s.modEntry b e.id fun x => { x with attempts := x.attempts + 1, copies := x.copies.map fun c =>
    if c.lane = l then { c with inFlight := true, ctCounted := c.ctCounted || early } else c }
  s.modLane l fun x => { x with att := some ⟨b, e.id, t.1, e.fr.fmt.fd && (s.estate l == 1)⟩ }

/-- The frame as the attempt sends it: an FD frame carries ESI by the error state of the lane, which does not change
between the SOF and the ESI bit (R108, log 89). -/
def Attempt.sent (a : Attempt) (fr : Frame) : Frame := { fr with esi := a.esi }

/-- Whether the lane can start a frame (R115, R127, R659, R725, R740). -/
def State.canStart (s : State) (l : Nat) (joined : Option Edge) : Bool :=
  let x := s.lane l
  (s.laneSt l == St.active) && x.att.isNone && !x.waitIdle && s.bank0 l && !(s.dark l) &&
    !(joined.isSome && (s.estate l == 1) && x.lastTx)

/-- TX_SOF (R194, R197, R740): the lowest-keyed entry of the lane, once entries past their deadline have left; a poisoned
cell or line buffer ends the copy before its SOF (R353, R696). -/
def execTxSof (l : LaneId) (joined : Option Edge) (s : State) : Host.Outcome State Fault Refusal :=
  let l := l.val
  let s := s.expireDue (s.busOf l)
  if s.canStart l joined then
    match s.headOf l with
    | none => .next s
    | some e =>
      let b := s.busOf l
      if (e.fid.map s.framePoisoned).getD false then .next ((s.satAdd F.FIRN_DROPSTAT.ECC_DROP 1).copyGone b e.id l)
      else if s.lbPoisoned l then .next ((s.lbHeal l).copyGone b e.id l)
      else .next (s.sof l e joined)
  else .next s

/-- A killed copy is removed; an entry with none left goes without a completion (R312, R313). -/
def State.killCopy (s : State) (b id l : Nat) : State :=
  let s := s.modEntry b id fun e => { e with copies := e.copies.filter fun c => !(decide (c.lane = l)) }
  match s.entry b id with
  | some e => if e.copies.isEmpty then s.dropEntry b e else s
  | none => s

/-- The entry of the attempt on lane `l` has a kill pending (R312). -/
def State.killPending (s : State) (a : Attempt) : Bool :=
  match s.entry a.bus a.ent with
  | some e => match e.ct with
    | some x => x.kill
    | none => false
  | none => false

/-- ARB_LOST (R118, R119, R312): the attempt ends without a counter change; a copy under a kill is removed. A LANE_STOP,
LANE_SUSPEND or BUS_BIND that waits for the frame on TXD commits here, since nothing of the lane is on TXD any more
(log 108). -/
def execArbLost (l : LaneId) (s : State) : Host.Outcome State Fault Refusal :=
  let l := l.val
  match (s.lane l).att with
  | none => .next s
  | some a =>
    let s := s.modLane l fun x => { x with lastTx := false }
    let s :=
      if s.killPending a then (s.modLane l fun x => { x with att := none }).killCopy a.bus a.ent l
      else s.attemptFailed l a false
    .next (s.frameEnd l)

/-- Colour and class of an entry's frame: what its cells and its port's hold carry (R278, R281, R327, R511). -/
def State.entryMark (s : State) (b : Nat) (e : Entry) : Nat × Nat :=
  match e.fid with
  | some k =>
    let x := s.frame k
    (x.colour, ((x.holds.find? fun h => decide (h.1 = b / 4)).map Prod.snd).getD 0)
  | none => (0, 0)

/-- Moraine's candidate of an attempt of entry `e` that has ended (R508). -/
def State.morAttempt (s : State) (l status : Nat) (a : Attempt) (e : Entry) (detail : Word) : State :=
  let m := s.entryMark a.bus e
  s.morTx l status a.stamp (a.sent e.fr) m.1 m.2 detail

/-- TX_SUCCESS (R111, R122, R256): the last EOF bit has been sampled without error. -/
def execTxSuccess (l : LaneId) (loop : Option Nat) (s : State) : Host.Outcome State Fault Refusal :=
  let l := l.val
  match (s.lane l).att with
  | none => .next s
  | some a =>
    match s.entry a.bus a.ent with
    | none => .next s
    | some e =>
      let s := s.loopDelay l e.fr (some loop)
      let s := (s.morAttempt l Ms.ok a e 0).nominalPhase l
      let s := s.laneStep l fun s =>
        let s := (s.subTec l).modLane l fun x => { x with att := none, lastTx := true }
        s.copySuccess a.bus l a.ent a.stamp
      let s := (s.afterAttempt a.bus e.src).afterSuccess e.src e.fr a.stamp
      .next (s.frameEnd l)

/-- TEC and what follows from an error of a transmitting lane that signals (R122). -/
def State.txErrCount (s : State) (l : Nat) (x : TxErr) : State :=
  let passive := s.estate l == 1
  let free := (decide (x.ty = .ack) && passive && x.quiet) || (decide (x.ty = .stuff) && x.arbStuff)
  let s := if free then s else s.addTec l 8
  let s := if passive then s else s.addTec l (8 * x.flagErrs.length)
  s.addTec l (8 * x.domRuns)

/-- The copy of an attempt that a kill has ended is removed; one that an uncorrectable line buffer word has ended, with no
kill under way, completes TX_ERROR instead (R312, R696). -/
def State.killedCopy (s : State) (b id l : Nat) : State :=
  match s.entry b id with
  | some e => if (e.ct.map CtTx.kill).getD false then s.killCopy b id l else s.copyGone b id l
  | none => s

/-- An error of an XL attempt that goes on under a kill (R312, R313): the copy is removed and not retried. Of its errors only
the ACK error, part of the kill, is neither logged nor counted in TEC. -/
def State.killedXl (s : State) (l : Nat) (a : Attempt) (e : Entry) (x : TxErr) : State :=
  let ack := decide (x.ty = .ack)
  let s := if ack then s else s.violate l x.ty.code x.field.toNat x.bitpos x.seen (if x.hdr then some e.fr else none) true
  let s := s.satAdd (F.LANE_ETALLY.TX_ERR l) 1
  let s := s.morAttempt l Ms.killed a e 0
  let s := (s.modLane l fun y => { y with att := none, waitIdle := true }).killedCopy a.bus a.ent l
  s.laneStep l fun s => (if ack then s else s.addTec l 8).busOffIf l

/-- TX_ERROR (R118 to R136, R313). -/
def execTxError (l : LaneId) (x : TxErr) (s : State) : Host.Outcome State Fault Refusal :=
  let l := l.val
  match (s.lane l).att with
  | none => .next s
  | some a =>
    match s.entry a.bus a.ent with
    | none => .next s
    | some e =>
      let s := ((s.loopDelay l e.fr x.loop).nominalPhase l).codecErr l x.ty
      let s := s.modLane l fun y => { y with lastTx := true }
      let killed := match e.copyOn l with
        | some c => c.xlKill
        | none => false
      if killed then .next ((s.killedXl l a e x).frameEnd l)
      else
        let quietXl := decide (e.fr.fmt = .xl) && s.xlQuiet l
        let fr := if x.hdr then some e.fr else none
        let s := s.violate l x.ty.code x.field.toNat x.bitpos x.seen fr true
        let s := s.satAdd (F.LANE_ETALLY.TX_ERR l) 1
        let s := s.morAttempt l Ms.txError a e (errDetail x.ty.code x.field.toNat x.bitpos)
        let s := if quietXl || s.estate l == 1 then s else s.flagErrors l 24 fr true x.flagErrs
        let s := s.attemptFailed l a true
        let s := s.laneStep l fun s =>
          let s := if quietXl then (s.addTec l 8).modLane l fun y => { y with waitIdle := true } else s.txErrCount l x
          s.busOffIf l
        .next (s.frameEnd l)

/-- REC for an error of a receiving lane that signals (R122). -/
def State.rxErrCount (s : State) (l : Nat) (x : RxErr) : State :=
  let s := s.addRec l (if x.ownFlag then 8 else 1)
  let s := if x.firstDom then s.addRec l 8 else s
  s.addRec l (8 * x.domRuns)

/-- A reception ends without a valid frame: a kill before the check point, CT_LATE_ERR after it (R311, R314). -/
def State.receptionLost (s : State) (l : Nat) (x : RxErr) : State :=
  let s :=
    if (s.lane l).ct.isSome then
      (if x.afterCheck then (s.satAdd F.COL_CTSTAT.CT_LATE_ERR 1).ctWhole l (x.hdr.getD unknownFrame) else s.killSend l)
    else s
  s.modLane l fun y => { y with dec := none, lastTx := false }

/-- RX_ERROR (R115 to R128, R311, R314). -/
def execRxError (l : LaneId) (x : RxErr) (s : State) : Host.Outcome State Fault Refusal :=
  let l := l.val
  if s.receives l && (s.lane l).att.isNone && !(s.lane l).waitIdle then
    let quietXl := (match x.hdr with | some fr => decide (fr.fmt = .xl) | none => false) && s.xlQuiet l
    let sig := s.signals l
    let s := ((s.violate l x.ty.code x.field.toNat x.bitpos x.seen x.hdr false).nominalPhase l).codecErr l x.ty
    let s := s.satAdd (F.LANE_ETALLY.RX_ERR l) 1
    let t := s.rxStamp l x.sof
    let s := t.2.morRxErr l t.1 x.hdr x.ty.code x.field.toNat x.bitpos
    let s := s.receptionLost l x
    .next (s.laneStep l fun s =>
      if !sig then s.modLane l fun y => { y with waitIdle := true }
      else if quietXl then (s.addRec l 1).modLane l fun y => { y with waitIdle := true }
      else s.rxErrCount l x)
  else .next s

/-- PROTOCOL_EXCEPTION (R109, R110): PEX is 1; nothing is signalled or counted. -/
def execProtocolException (l : LaneId) (x : RxErr) (s : State) : Host.Outcome State Fault Refusal :=
  let l := l.val
  if s.receives l && (s.lane l).att.isNone && !(s.lane l).waitIdle && s.fb (F.LANE_MODE.PEX l) then
    let s := (s.violate l Vt.protocolException x.field.toNat x.bitpos x.seen x.hdr false).nominalPhase l
    .next ((s.receptionLost l x).modLane l fun y => { y with waitIdle := true })
  else .next s

/-- OVERLOAD_FRAME (R113, R115, R122, R162). -/
def execOverloadFrame (l : LaneId) (x : Ovld) (s : State) : Host.Outcome State Fault Refusal :=
  let l := l.val
  if s.receives l && (s.lane l).att.isNone && !(s.lane l).waitIdle then
    let s := if x.seen then s.satAdd (F.LANE_ETALLY.OVLD_RX l) 1 else s
    if x.sends && s.signals l then
      let s := s.flagErrors l 25 none x.asTx x.flagErrs
      let n := 8 * x.flagErrs.length + 8 * x.domRuns
      .next (s.laneStep l fun s => (if x.asTx then s.addTec l n else s.addRec l n).busOffIf l)
    else .next s
  else .next s

/-- A kill meets the attempt of entry `e` on lane `l` (R312): it ends, or, without error signalling, an XL attempt goes on
unless the kill brings TEC to 256, where all transmission stops (R131). `x`: what the attempt that ends has measured of the
loop delay, and what the lane meets in the error flag that it then sends (R62, R120, R122). -/
def State.killAttempt (s : State) (l : Nat) (a : Attempt) (e : Entry) (x : KillSeen) : State :=
  if e.fr.fmt = .xl ∧ s.xlQuiet l ∧ s.tec l < 248 then
    s.laneStep l fun s =>
      (s.addTec l 8).modEntry a.bus e.id fun y => { y with copies := y.copies.map fun c =>
        if c.lane = l then { c with xlKill := true } else c }
  else
    let s := (s.loopDelay l e.fr x.loop).nominalPhase l
    let s := s.morAttempt l Ms.killed a e 0
    let flag := !(decide (e.fr.fmt = .xl) && s.xlQuiet l)
    let active := flag && !(s.estate l == 1)
    let s := if active then s.flagErrors l 24 (some e.fr) true x.flagErrs else s
    let more := (if active then 8 * x.flagErrs.length else 0) + (if flag then 8 * x.domRuns else 0)
    let s := (s.modLane l fun x => { x with att := none, lastTx := true }).killedCopy a.bus e.id l
    (s.laneStep l fun s => (s.addTec l (8 + more)).busOffIf l).frameEnd l

/-- What the attempt on lane `l` reads is spoilt after its SOF: a word of its line buffer, or of a cell of a cut-through
frame that is still arriving (R353, R696). The Bool: the cell. -/
def State.spoilt (s : State) (l : Nat) (a : Attempt) : Option (Entry × Bool) :=
  match s.entry a.bus a.ent with
  | none => none
  | some e =>
    let early := match e.ct with | some x => !x.whole && !x.kill | none => false
    let sent := match e.copyOn l with | some c => c.xlKill | none => false
    if sent then none
    else if early && (e.fid.map s.framePoisoned).getD false then some (e, true)
    else if s.lbPoisoned l then some (e, false)
    else none

/-- CT_KILL_ARRIVAL (R312): the kill reaches the lane's copy of the first entry it concerns. A copy in arbitration waits for
the outcome: it is removed at a loss (ARB_LOST), and else meets the kill once it has won. With no kill under way, an
uncorrectable word that the attempt in progress reads ends it in the same way: of a Firn cell it counts in CT_KILLED, of
the line buffer the entry completes TX_ERROR (R353, R696, log 98). -/
def execCtKillArrival (l : KillSeen) (s : State) : Host.Outcome State Fault Refusal :=
  let x := l
  let l := l.lane.val
  let b := s.busOf l
  let due (e : Entry) : Bool := (match e.ct with | some x => x.kill | none => false) &&
    (match e.copyOn l with | some c => !c.xlKill | none => false)
  match (s.bus b).find? due, (s.lane l).att with
  | some e, some a =>
    if a.ent = e.id then (if x.arb then .next s else .next (s.killAttempt l a e x)) else .next (s.killCopy b e.id l)
  | some e, none => .next (s.killCopy b e.id l)
  | none, some a =>
    match s.spoilt l a with
    | some (e, true) =>
      let s := (s.satAdd F.COL_CTSTAT.CT_KILLED 1).modEntry a.bus e.id fun y =>
        { y with ct := y.ct.map fun c => { c with kill := true } }
      .next (s.killAttempt l a e x)
    | some (e, false) => .next ((s.killAttempt l a e x).lbHeal l)
    | none => .next s
  | none, none => .next s

end Sys2Proof.Machine
end

