-- ==== Sys2Proof/Machine/Filter.lean ====
section
/-! DEFINITION. Acceptance filters (05): elements, the walk and the search, FLT_LOAD. -/
namespace Sys2Proof.Machine

/-! Elements (R218 to R220) -/

/-- Engine address of filter element `e` (R213). -/
def elemAddr (e : Nat) : Nat := 0x800000 + e * 16

/-- Four words of RAM as a record. -/
def State.rec4 (s : State) (a : Nat) : Rec4 := ⟨s.rd32 a, s.rd32 (a + 4), s.rd32 (a + 8), s.rd32 (a + 12)⟩

/-- Store a record. -/
def State.setRec4 (s : State) (a : Nat) (r : Rec4) : State :=
  (((s.wr32 a r.w0).wr32 (a + 4) r.w1).wr32 (a + 8) r.w2).wr32 (a + 12) r.w3

/-- Clear the poison marks of a record's words in memory `m`, unit 0. -/
def State.healRec (s : State) (m n : Nat) : State :=
  (((s.heal m 0 (4 * n)).heal m 0 (4 * n + 1)).heal m 0 (4 * n + 2)).heal m 0 (4 * n + 3)

/-- A word of the record is poisoned. -/
def State.badRec (s : State) (m n : Nat) : Bool :=
  s.poisoned m 0 (4 * n) || s.poisoned m 0 (4 * n + 1) || s.poisoned m 0 (4 * n + 2) || s.poisoned m 0 (4 * n + 3)

/-- KIND, ACTION and ARG of an element (R218). -/
def elemKind (x : Rec4) : Nat := fieldOf x.w0 29 3
def elemAction (x : Rec4) : Nat := fieldOf x.w0 16 4
def elemArg (x : Rec4) : Nat := fieldOf x.w0 0 16

/-- Only a Classical frame with RTR recessive is a remote frame (R220). -/
def isRemote (fr : Frame) : Bool := fr.fmt.classical && fr.rtr

/-- The tests of R220 other than the kind's. -/
def elemAdmits (x : Rec4) (fr : Frame) : Bool :=
  let k := elemKind x
  let rtr := fieldOf x.w0 22 2
  (decide (3 < k) || x.w0.getLsbD (23 + fr.fmt.code)) &&
  ((rtr == 0) || ((rtr == 1) && !(isRemote fr)) || ((rtr == 2) && isRemote fr)) &&
  (!(x.w0.getLsbD 21) || (decide (fr.fmt = .xl) && decide (fieldOf x.w1 24 8 = fr.sdt.toNat))) &&
  (!(x.w0.getLsbD 20) || (decide (fr.fmt = .xl) && decide (fieldOf x.w1 16 8 = fr.vcid.toNat)))

/-- The kind's test in a linear list (R219): kinds 1 to 3 on the ID's width, kinds 4 to 6 on the AF. -/
def elemTest (x : Rec4) (fr : Frame) : Bool :=
  let k := elemKind x
  let id := fr.fmt.idMask fr.id.toNat
  let a := fr.fmt.idMask x.w2.toNat
  let b := fr.fmt.idMask x.w3.toNat
  if k = 1 then decide (a ≤ id) && decide (id ≤ b)
  else if k = 2 then (id == a) || (id == b)
  else if k = 3 then (id ^^^ a) &&& b == 0
  else if fr.fmt = .xl then
    (if k = 4 then decide (x.w2 ≤ fr.af) && decide (fr.af ≤ x.w3)
     else if k = 5 then (fr.af == x.w2) || (fr.af == x.w3)
     else if k = 6 then (fr.af ^^^ x.w2) &&& x.w3 == 0
     else false)
  else false

/-- The key of a sorted list's search lies within the stored 32-bit bounds of an element (R229). -/
def elemHolds (x : Rec4) (fr : Frame) : Bool :=
  if elemKind x = 1 then
    let id := BitVec.ofNat 32 (fr.fmt.idMask fr.id.toNat)
    decide (x.w2 ≤ id) && decide (id ≤ x.w3)
  else decide (fr.fmt = .xl) && decide (x.w2 ≤ fr.af) && decide (fr.af ≤ x.w3)

/-! Evaluation (R222, R223, R229, R230) -/

/-- What a walk or a search finds: the deciding element with its index, the colour of the first MARK, and how many elements
from the first on it has read. -/
structure Found where
  hit : Option (Nat × Rec4)
  colour : Option Nat
  read : Nat
deriving DecidableEq, Repr

/-- The linear walk of a list whose first element has index `i`: an element with an uncorrectable word does not match. -/
def walk (fr : Frame) : List (Option Rec4) → Nat → Option Nat → Found
  | [], i, c => ⟨none, c, i⟩
  | none :: xs, i, c => walk fr xs (i + 1) c
  | some x :: xs, i, c =>
    if elemKind x = 7 then ⟨none, c, i + 1⟩
    else if elemTest x fr && elemAdmits x fr then
      if elemAction x = 5 then walk fr xs (i + 1) (c.or (some (elemArg x % 4))) else ⟨some (i, x), c, i + 1⟩
    else walk fr xs (i + 1) c

/-- The search of a sorted list. -/
def search (fr : Frame) (xs : List (Option Rec4)) : Found :=
  let holds (x : Option Rec4) : Bool := match x with | some y => elemHolds y fr | none => false
  let hit : Option (Nat × Rec4) :=
    match xs.findIdx? holds with
    | some i => (xs[i]?.join.filter fun x => elemAdmits x fr).map fun x => (i, x)
    | none => none
  ⟨hit, none, xs.length⟩

/-- What a list finds for a frame (R222, R223, R229). -/
def FltList.find (x : FltList) (fr : Frame) : Found := if x.sorted then search fr x.elems else walk fr x.elems 0 none

/-- First element of half `h` of a bus's region (R214). -/
def State.halfBase (s : State) (b h : Nat) : Nat :=
  64 * (s.f (F.LANE_FLTCFG.FBASE b) + h * (s.f (F.LANE_FLTCFG.FBLOCKS b) + 1))

/-- Filter memory from element `base` on, `len` elements of it. -/
def State.memElems (s : State) (base len : Nat) : List (Option Rec4) :=
  (List.range len).map fun i => if s.badRec 6 (base + i) then none else some (s.rec4 (elemAddr (base + i)))

/-- The list in force on logical bus `b`: the element cache's active copy while CACHED is 1, else filter memory (R231,
R238). -/
def State.fltList (s : State) (b : Nat) : FltList :=
  let base := s.halfBase b (s.f (F.LANE_FLTCFG.ACTIVE_HALF b))
  let c := s.fb (F.LANE_FLTCFG.CACHED b)
  { base := base,
    elems := if c then (s.cache b).active.map some else s.memElems base (s.f (F.LANE_FLTCFG.LIST_LEN b)),
    sorted := s.fb (F.LANE_FLTCFG.SORTED b), cached := c, defAction := s.f (F.LANE_FLTCFG.DEF_ACTION b),
    defArg := s.f (F.LANE_FLTCFG.DEF_ARG b), defRecord := s.fb (F.LANE_FLTCFG.DEF_RECORD b) }

/-- What a list decides for a frame. The element index of a default is 0xFFFF (R625). -/
def FltList.judge (x : FltList) (fr : Frame) (late : Bool) : Decision :=
  let r := x.find fr
  match r.hit with
  | some (i, y) =>
    { action := elemAction y, arg := elemArg y, record := y.w1.getLsbD 15, colour := r.colour.getD 0, noMatch := false,
      index := i, custom := elemAction y == 6, cachedWalk := x.cached, late := late }
  | none =>
    { action := x.defAction, arg := x.defArg, record := x.defRecord, colour := r.colour.getD 0, noMatch := true,
      index := 0xFFFF, custom := x.defAction == 6, cachedWalk := x.cached, late := late }

/-- Walk cost of a list (R232). -/
def FltList.cost (x : FltList) : Nat := if x.cached then 0 else if x.sorted then 128 else x.elems.length

/-- The active copy of bus `b`'s element cache is loaded from filter memory again (R690); an element with an uncorrectable
word matches nothing (R230). -/
def State.cacheReload (s : State) (b : Nat) : State :=
  if s.fb (F.LANE_FLTCFG.CACHED b) then
    let els := s.memElems (s.halfBase b (s.f (F.LANE_FLTCFG.ACTIVE_HALF b))) (s.f (F.LANE_FLTCFG.LIST_LEN b))
    s.modCache b fun c => { c with active := els.map fun x => x.getD ⟨0, 0, 0, 0⟩ }
  else s

/-- Walk cost of a bus's list (R232). -/
def State.walkCost (s : State) (b : Nat) : Nat :=
  if s.fb (F.LANE_FLTCFG.CACHED b) then 0
  else if s.fb (F.LANE_FLTCFG.SORTED b) then 128
  else s.f (F.LANE_FLTCFG.LIST_LEN b)

/-- A parity error of the element cache (R238). A list that a commit has replaced since leaves the new list's cache in use
(R243). -/
def State.cacheParity (s : State) (b l : Nat) (current : Bool) : State :=
  let q := l / 4
  let x := F.QUAD_WALK.CACHE_ERR q
  let s := s.setF x (s.f x ||| 2 ^ (l % 4))
  (if current then s.setB (F.LANE_FLTCFG.CACHED b) false else s).raise (768 + q)

/-- Walk costs of the lists that the other active lanes of the quad use (R232). -/
def State.otherCosts (s : State) (l : Nat) : Nat :=
  ((List.range 4).map fun k =>
    let m := l / 4 * 4 + k
    if m = l ∨ s.laneActive m = false then 0 else s.walkCost (s.busOf m)).sum

/-- An uncached walk of cost `c` reaches the backlog that PEAK_COST keeps: its own cost and that of the walks ahead of it,
at most one of each other active lane; how much of theirs is left depends on the walker's rate and is free (R234, R236,
R246, log 1). -/
def State.walkBacklog (s : State) (l c : Nat) : State :=
  let q := l / 4
  let x := s.drawWord
  let n := min 65535 (c + x.1.toNat % (s.otherCosts l + 1))
  x.2.setF (F.QUAD_WALK.PEAK_COST q) (max (s.f (F.QUAD_WALK.PEAK_COST q)) n)

/-- The list with the elements named by a decision's own ECC errors not matching (R230). -/
def FltList.spoil (x : FltList) (ecc : List (Nat × BitVec 7)) : FltList :=
  { x with elems := x.elems.zipIdx.map fun y => if ecc.any fun e => Nat.beq (e.1 / 4) y.2 then none else y.1 }

/-- Report the errors found in the first `n` elements of a list, each once: a word that is already marked has been reported
(R230, R694). -/
def State.walkErrs (s : State) (base n : Nat) (ecc : List (Nat × BitVec 7)) : State :=
  ecc.foldl (fun st e =>
    let a := 4 * base + e.1
    if e.1 / 4 < n ∧ st.poisoned 6 0 a = false then
      st.eccUncorrectable { mem := 6, unit := 0, addr := a, synd := e.2, kind := .uncorrectable, scrub := false }
    else st) s

/-- The decision for a frame on lane `l`, with what the walk leaves (R230, R231, R238, R242, R246): under the list `old` that
a commit has replaced, or else under the one in force. -/
def State.walkFrame (s : State) (l : Nat) (fr : Frame) (late : Bool) (err : WalkErr) (old : Option FltList) :
    Decision × State :=
  let b := s.busOf l
  let cached := (old.map FltList.cached).getD (s.fb (F.LANE_FLTCFG.CACHED b))
  let bad := cached && err.parity
  let s := if bad then s.cacheParity b l old.isNone else s
  let x : FltList := { old.getD (s.fltList b) with cached := cached && !bad }
  let s := if x.cost = 0 then s else s.walkBacklog l x.cost
  if x.cached then (x.judge fr late, s)
  else
    let x := x.spoil err.ecc
    (x.judge fr late, s.walkErrs x.base (x.find fr).read err.ecc)

/-! FLT_LOAD (R239 to R243) -/

/-- Blocks of a bus's region: the first and the one after the last (R214). -/
def State.region (s : State) (b : Nat) : Nat × Nat :=
  let x := s.f (F.LANE_FLTCFG.FBASE b)
  (x, x + 2 * (s.f (F.LANE_FLTCFG.FBLOCKS b) + 1))

/-- The shadow half of `b` shares a block with another logical bus's region (R240). -/
def State.fltOverlaps (s : State) (b : Nat) : Bool :=
  let n := s.f (F.LANE_FLTCFG.FBLOCKS b) + 1
  let lo := s.f (F.LANE_FLTCFG.FBASE b) + (1 - s.f (F.LANE_FLTCFG.ACTIVE_HALF b)) * n
  (List.range 128).any fun k => !(decide (k = b)) && s.isBus k &&
    decide (lo < (s.region k).2) && decide ((s.region k).1 < lo + n)

/-- The clamp of R225. -/
def clampDefAction (a : Nat) : Nat × Nat := if a = 5 ∨ 7 ≤ a then (3, 1) else (a, 0)

/-- Take FLT_LOAD (R239, R240). -/
def State.fltLoadTake (s : State) (r : AdminRef) (d : Words8) : State :=
  let n := fieldOf d.w1 0 7
  let b := s.clampBus n
  let c0 := if b = n then 0 else 1
  let sorted := d.w1.getLsbD 7
  let a := clampDefAction (fieldOf d.w1 12 4)
  let count := fieldOf d.w4 0 15
  if (s.flt b).isSome then s.adminBusy r
  else if 64 * (s.f (F.LANE_FLTCFG.FBLOCKS b) + 1) < count ∨ (!sorted ∧ 2048 < count) then s.adminRefuse r .listSize
  else if s.fltOverlaps b then s.adminRefuse r .overlap
  else s.setFlt b (some { ref := some r, count := count, sorted := sorted, defRecord := d.w1.getLsbD 8,
                          defAction := a.1, defArg := fieldOf d.w1 16 16, clamps := c0 + a.2 })

/-- FLT_LOAD (R239 to R241). -/
def execFltLoad (f : Fn) (d : Words8) (s : State) : Host.Outcome State Fault Refusal :=
  adminCmd s f d 0x4D fun s r => s.fltLoadTake r d

/-- The clamps of R218 and R221 on an element, and their number. -/
def elemClamp (x : Rec4) : Rec4 × Nat :=
  let r := fieldOf x.w0 22 2
  let w := if r = 3 then putBits x.w0 22 2 0 else x.w0
  let a := fieldOf x.w0 16 4
  let w := if 7 ≤ a then putBits w 16 4 3 else w
  let m := decide (a = 5) && decide (fieldOf x.w0 0 2 = 3)
  let w := if m then putBits w 0 2 2 else w
  ({ x with w0 := w, w1 := x.w1 &&& 0xFFFF8000#32 }, (r == 3).toNat + (decide (7 ≤ a)).toNat + m.toNat)

/-- Each element's low lies above the high of the one before (R229). -/
def sortedFrom (prev : Option Word) : List Rec4 → Bool
  | [] => true
  | x :: xs => decide (x.w2 ≤ x.w3) && (match prev with | some p => decide (p < x.w2) | none => true) &&
      sortedFrom (some x.w3) xs

/-- The conditions of R229 on a list. -/
def sortedOk (els : List Rec4) : Bool :=
  let k := match els with | x :: _ => elemKind x | [] => 1
  ((k == 1) || (k == 4)) && (els.all fun x => decide (elemKind x = k) && !(decide (elemAction x = 5))) && sortedFrom none els

/-- Write a list into filter memory from element `e`. -/
def State.writeElems (s : State) (e : Nat) : List Rec4 → State
  | [] => s
  | x :: xs => ((s.setRec4 (elemAddr e) x).healRec 6 e).writeElems (e + 1) xs

/-- Fill `n` elements from `e` with words the spec leaves undefined (R240, log 1). -/
def State.smearElems (s : State) (e : Nat) : Nat → State
  | 0 => s
  | n + 1 =>
    let a := s.drawWord
    let b := a.2.drawWord
    let c := b.2.drawWord
    let d := c.2.drawWord
    ((d.2.setRec4 (elemAddr e) ⟨a.1, b.1, c.1, d.1⟩).healRec 6 e).smearElems (e + 1) n

/-- End a load with a refusal. -/
def State.fltRefuse (s : State) (b : Nat) (x : FltLoad) (c : Cause) : State :=
  let s := s.setFlt b none
  match x.ref with
  | some r => s.adminRefuse r c
  | none => s

/-- FLT_LOAD_TRANSFER_DONE (R241 steps 2 and 3). -/
def execFltLoadTransferDone (b : LaneId) (els : List Rec4) (s : State) : Host.Outcome State Fault Refusal :=
  let b := b.val
  match s.flt b with
  | none => .next s
  | some x =>
    if x.transferred || !(decide (els.length = x.count)) then .next s
    else if x.broken then .next (s.fltRefuse b x .state)
    else
      let cs := els.map elemClamp
      let els := cs.map Prod.fst
      let n := (cs.map Prod.snd).sum
      let e := s.halfBase b (1 - s.f (F.LANE_FLTCFG.ACTIVE_HALF b))
      if x.sorted && !(sortedOk els) then
        .next ((s.smearElems e (64 * (s.f (F.LANE_FLTCFG.FBLOCKS b) + 1))).fltRefuse b x .listForm)
      else
        let s := if x.sorted || decide (256 < els.length) then s else s.modCache b fun c => { c with shadow := els }
        .next ((s.writeElems e els).setFlt b (some { x with transferred := true, clamps := x.clamps + n }))

/-- A valid frame waits for its decision on a lane of the bus outside OFF (R236, R241 step 4). -/
def State.walkRuns (s : State) (b : Nat) : Bool :=
  (s.lanesOf b).any fun l => !(decide (s.laneSt l = St.off)) && !((s.lane l).wait.isEmpty)

/-- Frames that wait for their decision on a lane that has been stopped keep the list in force (R242, R243). -/
def State.keepList (s : State) (b : Nat) : State :=
  let x := s.fltList b
  (s.lanesOf b).foldl (fun st l =>
    if (st.lane l).wait.isEmpty then st
    else st.modLane l fun y => { y with wait := y.wait.map fun w => { w with old := w.old.or (some x) } }) s

/-- FLT_LOAD_COMMIT (R241 steps 4 to 6, R242, R243). -/
def execFltLoadCommit (b : FltCommit) (s : State) : Host.Outcome State Fault Refusal :=
  let walks := b.walks
  let b := b.bus.val
  match s.flt b with
  | none => .next s
  | some x =>
    if !x.transferred || walks || s.walkRuns b then .next s
    else if x.broken then .next (s.fltRefuse b x .state)
    else
      let s := s.keepList b
      let s := s.setF (F.LANE_FLTCFG.ACTIVE_HALF b) (1 - s.f (F.LANE_FLTCFG.ACTIVE_HALF b))
      let s := (s.setF (F.LANE_FLTCFG.LIST_LEN b) x.count).setB (F.LANE_FLTCFG.SORTED b) x.sorted
      let s := s.setB (F.LANE_FLTCFG.CACHED b) (!x.sorted && decide (x.count ≤ 256))
      let s := s.modCache b fun c => { active := c.shadow, shadow := c.active }
      let s := (s.setF (F.LANE_FLTCFG.DEF_ACTION b) x.defAction).setF (F.LANE_FLTCFG.DEF_ARG b) x.defArg
      let s := (s.setB (F.LANE_FLTCFG.DEF_RECORD b) x.defRecord).setFlt b none
      match x.ref with
      | some r => .next ((s.clamp r.f x.clamps).adminDone r)
      | none => .next s

/-- A write that changes FBASE or FBLOCKS empties both halves (R215) and breaks a load in progress (R243). A frame whose walk
has started keeps its list, as at a commit (R242). -/
def State.fltEmpty (s : State) (b : Nat) : State :=
  let s := s.keepList b
  let s := (s.setF (F.LANE_FLTCFG.LIST_LEN b) 0).setB (F.LANE_FLTCFG.SORTED b) false
  let s := (s.setB (F.LANE_FLTCFG.CACHED b) false).setF (F.LANE_FLTCFG.DEF_ACTION b) 3
  let s := (s.setF (F.LANE_FLTCFG.DEF_ARG b) 0).setB (F.LANE_FLTCFG.DEF_RECORD b) false
  s.modFlt b fun x => x.map fun y => { y with broken := true }

end Sys2Proof.Machine
end

