-- ==== Sys2Proof/Machine/Obj.lean ====
section
/-! DEFINITION. Message objects (04 R165 to R189): receive updates, locks, staging and publish, periodic sends, and the
quad mode that binds them to logical buses. -/
namespace Sys2Proof.Machine

/-! Receive objects -/

/-- LEN of a received frame in an object: the DLC size (R172). -/
def objLen (fr : Frame) : Nat := if fr.fmt.classical then min fr.len 8 else fr.len

/-- Word 2 of a frame as an object holds it (R171). -/
def objWord2 (fr : Frame) (len : Nat) : Word :=
  BitVec.ofNat 32 (len + fr.rtr.toNat * 8192 + fr.brs.toNat * 16384 + fr.sec.toNat * 32768 + fr.vcid.toNat * 65536 +
    fr.sdt.toNat * 16777216)

/-- Write the sixteen payload words of an object, zeros beyond the frame's bytes (R176). -/
def State.objPayload (s : State) (q o : Nat) (bs : List Byte) : State :=
  (List.range 16).foldl (fun st k => st.setObjWord q o (8 + k) (payWord bs k)) s

/-- The seal counts a content made visible (R183). -/
def State.objSeal (s : State) (q o : Nat) : State := s.setObjWord q o 31 (s.objWord q o 31 + 1)

/-- Apply a receive update (R176, R177); `count`: a frame not yet read that is replaced counts in OVERWRITES. -/
def State.objApply (s : State) (q o : Nat) (x : Shadow) (count : Bool) : State :=
  let fr := x.fr
  let s := (s.setObjWord q o 1 fr.fmtId).setObjWord q o 2 (objWord2 fr (objLen fr))
  let s := (s.setObjWord q o 3 (if fr.fmt = .xl then fr.af else 0)).objStamp q o x.stamp
  let s := (s.objPayload q o (fr.data.take fr.bytes)).setObjBits q o 0 16 1 fr.esi.toNat
  let s := s.objSeal q o
  let s := if count && s.objBit q o 22 then s.objCount q o 24 else s
  s.setObjBits q o 0 22 1 1

/-- A frame accepted for object `o` on logical bus `b` (R175 to R178, R188); false where the object cannot take it
(R228). -/
def State.objReceive (s : State) (b o : Nat) (fr : Frame) (t : Stamp) : Bool × State :=
  let q := b / 4
  if !(s.objBit q o 31) || s.objBit q o 30 || !(decide (s.objBus q o = b)) then (false, s)
  else if fr.fmt = .xl ∧ 64 < fr.len then (true, s.objCount q o 16)
  else
    let s := s.objFrames q o
    let x := s.obj (objIx q o)
    let s :=
      if x.lock.isSome then
        (if x.shadow.isSome then s.objCount q o 24 else s).setObj (objIx q o) { x with shadow := some ⟨fr, t⟩ }
      else s.objApply q o ⟨fr, t⟩ true
    (true, s.objEvent q o b (s.objBit q o 25))

/-! Locks (R178 to R183) -/

/-- PENDING: an instance of the object is in a transmit order (R168). -/
def State.objPending (s : State) (q o : Nat) : Bool :=
  (List.range 4).any fun i => (s.bus (4 * q + i)).any fun e => decide (e.src = .obj o) && !e.done

/-- Word 0 with the status that the lock and the transmit order give (R168). -/
def State.objView0 (s : State) (q o : Nat) : Word :=
  let w := putBits (s.objWord q o 0) 21 1 (s.objPending q o).toNat
  match (s.obj (objIx q o)).lock with
  | some k => putBits (putBits w 19 1 1) 18 1 k.f
  | none => putBits w 18 2 0

/-- Word `w` as published when the lock was taken (R182). -/
def ObjLock.copy (k : ObjLock) (w : Nat) : Word := k.words.getD w 0

/-- Word 0 as the holder reads it: control and W1S bits from the staging copy (R182). -/
def State.objHolder0 (s : State) (q o : Nat) (k : ObjLock) : Word :=
  let c := match k.staged.lookup 0 with
    | some v => v ||| (k.copy 0 &&& 0x01800000#32)
    | none => k.copy 0
  (s.objView0 q o &&& 0x007FFFFF#32) ||| (c &&& 0xFF800000#32)

/-- Word `w` of the staging copy: as written, or as published when the lock was taken (R182). -/
def ObjLock.stage (k : ObjLock) (w : Nat) : Word := (k.staged.lookup w).getD (k.copy w)

/-- What a read of word `w` by function `f` shows through BAR4 (R45, R178 to R182, R694): the holder sees its staging copy in
words 0 to 3, 6 and 8 to 23, reserved words read 0, a poisoned word reads all ones. -/
def State.objView (s : State) (f q o w : Nat) : Word :=
  if s.poisoned 2 q (32 * o + w) then 0xFFFFFFFF
  else if 24 ≤ w ∧ w < 31 then 0
  else
    match (s.obj (objIx q o)).lock with
    | none => if w = 0 then s.objView0 q o else s.objWord q o w
    | some k =>
      if w = 0 then (if k.f = f then s.objHolder0 q o k else putBits (s.objView0 q o) 17 1 1)
      else if k.f = f ∧ w ≠ 4 ∧ w ≠ 5 ∧ w ≠ 7 ∧ w ≠ 31 then k.stage w
      else s.objWord q o w

/-- OBJECT_WORD0_READ (R178, R180, R696): takes the lock, or finds it held. -/
def execObjectWord0Read (f : Fn) (q : QuadId) (o : ObjId) (s : State) : Host.Outcome State Fault Refusal :=
  let q := q.val
  let o := o.val
  let x := s.obj (objIx q o)
  if !(s.hostOpen f.val) then .next (s.withReadData 0)
  else match x.lock with
  | none =>
    let due := s.now + s.f (F.QUAD_OBJCFG.OBJ_LOCK_TIMEOUT q) * ltUs
    let k : ObjLock := { f := f.val, due := due, words := (List.range 24).map (s.objWord q o) }
    let t := s.setObj (objIx q o) { x with lock := some k }
    .next (t.withReadData (t.objView f.val q o 0))
  | some _ => .next (s.withReadData (s.objView f.val q o 0))

/-- A lock ends without its holder's release (R179): by timeout or by a reset. -/
def State.objLockEnd (s : State) (q o : Nat) : State :=
  let x := s.obj (objIx q o)
  let s := s.setObj (objIx q o) { x with lock := none, shadow := none }
  let s := match x.shadow with
    | some u => s.objApply q o u true
    | none => s
  s.setObjBits q o 0 20 1 1

/-- OBJ_LOCK_TIMEOUT (R179, R183). -/
def execObjLockTimeout (q : QuadId) (o : ObjId) (s : State) : Host.Outcome State Fault Refusal :=
  match (s.obj (objIx q.val o.val)).lock with
  | some k => if k.due ≤ s.now then .next (s.objLockEnd q.val o.val) else .next s
  | none => .next s

/-- A word of an object that no host write reaches (R181): stamps, counters, reserved words and the seal, and the
payload of an object whose staged DIR is receive. -/
def ObjLock.shut (k : ObjLock) (w : Nat) : Bool :=
  decide (24 ≤ w) || (w == 4) || (w == 5) || (w == 7) || (decide (8 ≤ w) && !((k.stage 0).getLsbD 30))

/-- What a write leaves staged: in word 0 the W1S bits ask, and an asking bit stays; of word 2 not the reserved bits (R14,
R171). -/
def stagedWord (w : Nat) (old v : Word) (first : Bool) : Word :=
  if w = 0 ∧ !first then v ||| (old &&& 0x01800000#32) else v &&& objKeep w

/-- OBJECT_WRITE (R181, R182, R39). -/
def execObjectWrite (f : Fn) (q : QuadId) (o : ObjId) (w : Fin 32) (v : Word) (be : BitVec 4) (s : State) :
    Host.Outcome State Fault Refusal :=
  let q := q.val
  let o := o.val
  let x := s.obj (objIx q o)
  if !(s.hostOpen f.val) then .next s
  else match x.lock with
  | none => .next (s.clamp f.val 1)
  | some k =>
    if !(decide (be = 15)) || !(decide (k.f = f.val)) || k.shut w.val then .next (s.clamp f.val 1)
    else
      let v' := stagedWord w.val (k.stage w.val) v ((k.staged.lookup w.val).isNone)
      .next (s.setObj (objIx q o) { x with lock := some { k with staged := Tab.ins k.staged w.val v' } })

/-! Publish (R166, R169, R171, R172, R182) -/

/-- Enabled objects of logical bus `b`, object `o` apart (R166). -/
def State.objsOn (s : State) (b o : Nat) : Nat :=
  ((List.range 1024).filter fun k => !(decide (k = o)) && s.objBit (b / 4) k 31 && decide (s.objBus (b / 4) k = b)).length

/-- The LANE field that R169 gives for `v` in quad `q`. -/
def State.clampObjLane (s : State) (q v : Nat) : Nat := s.clampBus (4 * q + v) - 4 * q

/-- The staged words take their places: of word 0 only the control fields (R182). -/
def State.objPutStaged (s : State) (q o : Nat) (k : ObjLock) : State :=
  k.staged.foldl (fun st e =>
    if e.1 = 0 then st.setObjBits q o 0 25 7 (fieldOf e.2 25 7)
    else st.setObjWord q o e.1 e.2) s

/-- LEN of an object's format (R172). -/
def objLenClamp (fmt len : Nat) : Nat × Nat :=
  if fmt ≤ 2 then clampTo 0 8 len else if fmt ≤ 4 then clampTo 0 64 len else clampTo 1 64 len

/-- The clamps of R166, R169, R171 and R172 on the published words, and how many of them changed a field of a word that was
written (R7). -/
def State.objClamp (s : State) (q o : Nat) (k : ObjLock) (en0 : Bool) (bus0 : Nat) : State × Nat :=
  let has (w : Nat) : Bool := (k.staged.lookup w).isSome
  let fm := fieldOf (s.objWord q o 1) 29 3
  let b1 := (fm == 0) || decide (5 < fm)
  let s := if b1 then s.setObjBits q o 1 29 3 1 else s
  let w2 := objLenClamp (fieldOf (s.objWord q o 1) 29 3) (fieldOf (s.objWord q o 2) 0 7)
  let s := if w2.2 = 1 then s.setObjBits q o 2 0 7 w2.1 else s
  let b6 := decide (fieldOf (s.objWord q o 6) 12 20 < 100)
  let s := if b6 then s.setObjBits q o 6 12 20 100 else s
  let c1 := has 1 && b1
  let c2 := (has 1 || has 2) && (w2.2 == 1)
  let c6 := has 6 && b6
  let ln := fieldOf (s.objWord q o 0) 28 2
  let b0 := !(decide (s.clampObjLane q ln = ln))
  let c0 := has 0 && b0
  let s := if b0 then s.setObjBits q o 0 28 2 (s.clampObjLane q ln) else s
  let b := s.objBus q o
  let full := s.objBit q o 31 && (!en0 || !(decide (b = bus0))) && decide (256 ≤ s.objsOn b o)
  let s := if full then s.setObjBits q o 0 31 1 0 else s
  (s, c1.toNat + c2.toNat + c6.toNat + c0.toNat + full.toNat)

/-- The object's instance ends in its old order (R187); `irq`: IRQ_EN before the release. -/
def State.objEnd (s : State) (q o : Nat) (irq : Bool) : State :=
  let s := s.modObj (objIx q o) fun x => { x with waiting := none }
  match s.objEntry q o with
  | none => s
  | some (b, e) =>
    let e' := { e with irq := some irq }
    (s.modEntry b e.id fun x => { x with irq := some irq }).markEntry b e' .cancel

/-- A pending and uncommitted instance takes the published content, with its time of entry (R186). One that was not one-shot
and has failed is attempted once more where it becomes one-shot: it stays in the order. -/
def State.objRenew (s : State) (q o : Nat) : State :=
  match s.objEntry q o with
  | none => s
  | some (b, e) =>
    if e.inFlight then s
    else if s.objPoisoned q o then s.fail b e .aborted
    else
      let dl := s.objDeadline q o b e.entered
      let one := s.objBit q o 26
      let e' := { e with fr := s.objFrame q o, oneShot := one, deadline := dl,
                         copies := if one && !e.oneShot then e.copies.map fun c => { c with tried := false } else e.copies }
      let s := s.modEntry b e.id fun _ => e'
      if s.ranOut? dl then s.expireEntry b e' else s

/-- A periodic object: enabled, send, PERIODIC (R184). -/
def objCycles (w0 : Word) : Bool := w0.getLsbD 31 && w0.getLsbD 30 && w0.getLsbD 27

/-- PERIOD of an object in units of a base. -/
def State.objPeriod (s : State) (q o : Nat) : Nat := tbUs (fieldOf (s.objWord q o 6) 12 20)

/-- The schedule starts afresh: an instance now, the next one a period later (R184). -/
def State.objStart (s : State) (q o : Nat) : State :=
  let t := s.after (some (s.baseOf (s.objBus q o))) (s.objPeriod q o)
  (s.modObj (objIx q o) fun x => { x with next := some t }).objInstance q o true

/-- CANCEL at a release: as a cancel of the instance in the order; a deadline of this lt comes first (R199). -/
def State.objCancel (s : State) (q o : Nat) : State :=
  let s := s.expireDue (s.objBus q o)
  match s.objEntry q o with
  | some (b, e) => s.markEntry b e .cancel
  | none => s

/-- The object's schedule goes on with what is left of it on the base of its new logical bus (R187, log 88). -/
def State.objMove (s : State) (q o b : Nat) : State :=
  let n := s.baseOf (s.objBus q o)
  s.modObj (objIx q o) (Obj.rebase b n (s.ahead b n))

/-- Publish what function `f` staged (R166, R173, R182, R184 to R187). -/
def State.objPublish (s : State) (q o f : Nat) (k : ObjLock) : State :=
  let w0 := s.objWord q o 0
  let p0 := fieldOf (s.objWord q o 6) 12 20
  let bus0 := s.objBus q o
  let c := (s.objPutStaged q o k).objClamp q o k (w0.getLsbD 31) bus0
  let s := (c.1.clamp f c.2).objSeal q o
  let n0 := s.objWord q o 0
  let s := if n0.getLsbD 31 && !(w0.getLsbD 31) then s.setObjWord q o 7 0 else s
  let sends := n0.getLsbD 31 && n0.getLsbD 30
  let s := if sends && decide (s.objBus q o = bus0) then s.objRenew q o
    else (s.objEnd q o (w0.getLsbD 25)).objMove q o (s.baseOf bus0)
  let ask := (k.staged.lookup 0).getD 0
  let s := if sends && ask.getLsbD 23 then s.objCancel q o else s
  let s :=
    if objCycles n0 then
      (if !(objCycles w0) || !(decide (fieldOf (s.objWord q o 6) 12 20 = p0)) then s.objStart q o else s)
    else s.modObj (objIx q o) fun x => { x with next := none }
  if ask.getLsbD 24 then
    (if sends then (s.setObjBits q o 0 24 1 1).objInstance q o false
     else (s.setObjBits q o 0 24 1 0).clamp f 1)
  else s

/-- The holder's release (R179, R182): the shadow first, then what was staged. -/
def State.objRelease (s : State) (q o f : Nat) (k : ObjLock) : State :=
  let x := s.obj (objIx q o)
  let s := s.setObj (objIx q o) { x with lock := none, shadow := none }
  let s := match x.shadow with
    | some u => s.objApply q o u false
    | none => if s.objBit q o 30 then s else s.setObjBits q o 0 22 1 0
  let s := s.setObjBits q o 0 20 1 0
  if k.staged.isEmpty then s else s.objPublish q o f k

/-- OBJECT_RELEASE (R179, R180, R696): a host read of word 31. -/
def execObjectRelease (f : Fn) (q : QuadId) (o : ObjId) (s : State) : Host.Outcome State Fault Refusal :=
  let q := q.val
  let o := o.val
  let v := s.objView f.val q o 31
  if !(s.hostOpen f.val) then .next (s.withReadData 0) else
  let s := s.withReadData v
  match (s.obj (objIx q o)).lock with
  | some k => if k.f = f.val then .next (s.objRelease q o f.val k) else .next s
  | none => .next s

/-- PERIODIC_RELEASE (R184, R206): the base bound to the object's lane has reached the next multiple of PERIOD. -/
def execPeriodicRelease (q : QuadId) (o : ObjId) (s : State) : Host.Outcome State Fault Refusal :=
  let q := q.val
  let o := o.val
  match (s.obj (objIx q o)).next with
  | some t =>
    if s.ranOut t then
      .next ((s.modObj (objIx q o) fun x => { x with next := some { t with due := t.due + s.objPeriod q o } }).objInstance q o true)
    else .next s
  | none => .next s

/-! Quad mode (R25, R170, R248) -/

/-- Re-evaluate one object against the mode (R170). -/
def State.objRebind (s : State) (q o : Nat) : State :=
  if s.objBit q o 31 then
    let ln := fieldOf (s.objWord q o 0) 28 2
    let c := s.clampObjLane q ln
    if c = ln then s
    else if 256 ≤ s.objsOn (4 * q + c) o then
      (s.setObjBits q o 0 31 1 0).modObj (objIx q o) fun x => { x with next := none }
    else (s.setObjBits q o 0 28 2 c).objMove q o (s.f (F.LANE_TS_MODE.TB (4 * q + ln)))
  else s

/-- The fields of a list of registers return to their reset values. -/
def State.resetRegs (s : State) : List Nat → State
  | [] => s
  | a :: as => (s.setReg a (regReset a)).resetRegs as

/-- Offsets of LANE_TXO, LANE_FLTCFG and LANE_FLTCNT of a lane. -/
def busRegs (l : Nat) : List Nat :=
  [0x100058 + l * 0x800, 0x10005C + l * 0x800, 0x100060 + l * 0x800, 0x100064 + l * 0x800, 0x100068 + l * 0x800,
   0x10006C + l * 0x800]

/-- Offsets of LANE_PAIRCFG, LANE_PAIRRX and LANE_PAIRTX of a lane. -/
def pairRegs (l : Nat) : List Nat :=
  [0x100070 + l * 0x800, 0x100078 + l * 0x800, 0x10007C + l * 0x800, 0x100080 + l * 0x800, 0x100084 + l * 0x800]

/-- A quad enters QUADPAIR (R248): the B lanes' bus registers and the A lanes' pair registers return to reset. -/
def State.enterPair (s : State) (q : Nat) : State :=
  [4 * q, 4 * q + 2].foldl (fun st a =>
    let st := (st.resetRegs (busRegs (a + 1))).resetRegs (pairRegs a)
    let st := st.setF (F.LANE_HOLD.TXO_DEPTH (a + 1)) 32
    st.modFlt (a + 1) fun x => x.map fun y => { y with broken := true }) s

/-- A write of MODE by a function (R25, R170, R248); 3 is clamped to 2. -/
def State.modeWrite (s : State) (w : Agent) (q mode : Nat) : State :=
  if s.quadOff q then
    let s := if mode = 3 then s.clampBy w else s
    let m := min mode 2
    let was := s.quadMode q
    let s := s.setF (F.QUAD_CTRL.MODE q) m
    if m = was then s
    else
      let s := if m = 2 then s.enterPair q else s
      (List.range 1024).foldl (fun st o => st.objRebind q o) s
  else s.clampBy w

/-- QUAD_MODE_WRITE (R25, R170). -/
def execQuadModeWrite (f : Fn) (q : QuadId) (mode : BitVec 2) (s : State) : Host.Outcome State Fault Refusal :=
  if s.hostOpen f.val then .next (s.modeWrite (.host f) q.val mode.toNat) else .next s

/-- A write of GATE (R689, R690): a set-up field of the quad. -/
def State.gateWrite (s : State) (w : Agent) (q : Nat) (gate : Bool) : State :=
  if s.quadOff q then s.setB (F.QUAD_CTRL.GATE q) gate
  else s.clampBy w

/-- QUAD_GATE_WRITE (R689). -/
def execQuadGateWrite (f : Fn) (q : QuadId) (gate : Bool) (s : State) : Host.Outcome State Fault Refusal :=
  if s.hostOpen f.val then .next (s.gateWrite (.host f) q.val gate) else .next s

/-- QUAD_GATED_DONE (R690). -/
def execQuadGatedDone (q : QuadId) (s : State) : Host.Outcome State Fault Refusal :=
  if s.fb (F.QUAD_CTRL.GATE q.val) then .next (s.setB (F.QUAD_CTRL.GATED q.val) true) else .next s

/-- QUAD_UNGATE_DONE (R689, R690): the element caches lost their power and hold the active lists again. A cache that R238 took out of use stays
so until its list is loaded anew. -/
def execQuadUngateDone (q : QuadId) (s : State) : Host.Outcome State Fault Refusal :=
  if s.fb (F.QUAD_CTRL.GATED q.val) && !(s.fb (F.QUAD_CTRL.GATE q.val)) then
    let s := (List.range 4).foldl (fun st k => st.cacheReload (4 * q.val + k)) s
    .next ((s.setB (F.QUAD_CTRL.GATED q.val) false).raise 895)
  else .next s

end Sys2Proof.Machine
end

