-- ==== Sys2Proof/Machine/Route.lean ====
section
/-! DEFINITION. Routes (07 R287 to R302): entries, paths to other devices, destinations, rewrite, hook, replication, and
the way of a frame into Firn and the virtual output queues. -/
namespace Sys2Proof.Machine

/-! Entries (R288) -/

/-- A route entry as a lookup reads it: one with a poisoned word is INVALID (R696). -/
def State.routeEnt (s : State) (n : Nat) : Rec4 :=
  if s.badRec 7 n then ⟨0, 0, 0, 0⟩ else s.rec4 (routeWord n 0)

def rtType (r : Rec4) : Nat := fieldOf r.w0 30 2
def rtKind (r : Rec4) : Nat := fieldOf r.w0 28 2
def rtTc (r : Rec4) : Nat := fieldOf r.w0 26 2
def rtCtEn (r : Rec4) : Bool := r.w0.getLsbD 25
def rtHook (r : Rec4) : Bool := r.w0.getLsbD 24
def rtRewr (r : Rec4) : Bool := r.w0.getLsbD 23
def rtPol (r : Rec4) : Bool := r.w0.getLsbD 22
def rtDest (r : Rec4) : Nat := fieldOf r.w0 0 21
def rtNewId (r : Rec4) : Nat := fieldOf r.w1 0 29
def rtHookArg (r : Rec4) : Nat := fieldOf r.w2 0 16
def rtPolicer (r : Rec4) : Nat := fieldOf r.w2 20 12
def rtFallback (r : Rec4) : Bool := r.w3.getLsbD 31

/-! Paths (R546, R550) -/

/-- Device of a global lane address (R16). -/
def devOf (a : Nat) : Nat := a / 128 % 16384

/-- This device's number. -/
def State.devId (s : State) : Nat := s.f F.STACK_ID.DEV_ID

/-- An egress entry is a stack frame bound for device `d`. -/
def Egress.boundFor (x : Egress) (d : Nat) : Bool :=
  match x.kind with
  | .stack o => !o.all && decide (devOf o.dst = d)
  | .relay a all _ => !all && decide (devOf a = d)
  | _ => false

/-- A frame that crosses Col takes a copy for device `d` to an Ethernet port. -/
def VoqItem.boundFor (x : VoqItem) (d : Nat) : Bool :=
  match x.what with
  | .eth xs => xs.any fun g => g.boundFor d
  | _ => false

/-- Port `e` holds a frame for device `d`: in its queue, on its wire, or on the way there (R325, R550). -/
def State.portHolds (s : State) (e d : Nat) : Bool :=
  (s.eth e).queue.any (fun x => x.boundFor d) ||
    (match (s.eth e).wire with | some w => w.eg.boundFor d | none => false) ||
    s.voqs.any fun v => decide (v.1 / 4 % 40 = 32 + e) && v.2.any fun x => x.boundFor d

/-- The port that reaches device `d`, ON_ALT cleared where its primary is back (R546, R550). -/
def State.pathPort (s : State) (d : Nat) : Option Nat × State :=
  if s.fb (F.STACK_PATH.VALID d) then
    let p := s.f (F.STACK_PATH.PRIMARY d)
    let a := s.f (F.STACK_PATH.ALT d)
    if s.fb (F.STACK_PATH.ON_ALT d) then
      if s.fb (F.ETH_STAT.LINK p) && !(s.portHolds a d) then
        (some p, (s.setB (F.STACK_PATH.ON_ALT d) false).raise 874)
      else (some a, s)
    else (some p, s)
  else (none, s)

/-! Destinations (R289, R292, R293, R297 to R299, R546) -/

/-- Function at whose port a CQ's frames are held: its owner, or the one it was orphaned from (R297). -/
def Cq.home (c : Cq) : Option Nat := c.owner.or c.orphan

/-- Function and generation under which a frame for CQ `q` is admitted now: in the lt in which the CQ is deleted a frame for it
is still admitted, to be freed (R407). -/
def State.cqHome (s : State) (q : Nat) : Option (Nat × Nat) :=
  let c := s.cq q
  match c.home, c.lastDel with
  | some f, _ => some (f, c.gen)
  | none, some (t, f) => if t = s.now then some (f, c.gen - 1) else none
  | none, none => none

/-- A Col drop record of the frame (R508, R512). -/
def State.dropRec (s : State) (k : Look) (out kind q : Nat) : State :=
  s.morDrop k.inp out kind q (busDropHdr k.fr k.colour k.tc) k.fr.bytes

/-- A destination that is not served counts in NO_ROUTE (R292, R297). The output port in the record of a drop without an
output is not stated: it is free, and the record is made whatever it is (R508, log 1). -/
def State.noRoute (s : State) (k : Look) (out : Option Nat) : State :=
  let s := s.satAdd (F.COL_PORTSTAT.NO_ROUTE k.inp) 1
  match out with
  | some p => s.dropRec k p 2 0
  | none => let x := s.drawWord; x.2.dropRec k (64 + fieldOf x.1 0 6) 2 0

/-! Lookup (R291, R298, R299, R305) -/

/-- Word of member `i` of the group at entry `base`, if its entry is a member list (R299). Members of a group that runs beyond
entry 65,535 are not served and count nothing (log 117). -/
def State.memberWord (s : State) (base i : Nat) : Option Word :=
  let n := base + i / 3
  if n < 65536 then
    let r := s.routeEnt n
    if rtType r = 2 then some (if i % 3 = 0 then r.w1 else if i % 3 = 1 then r.w2 else r.w3) else none
  else none

/-- Member words of the group that a route entry names, if it names one and its descriptor is valid (R292, R298). -/
def State.groupWords (s : State) (r : Rec4) : Option (List Word) :=
  let g := rtDest r % 4096
  if rtType r = 1 ∧ rtKind r = 2 ∧ s.fb (F.COL_GROUP.VALID g) = true then
    some ((List.range (s.f (F.COL_GROUP.COUNT g) + 1)).filterMap fun i => s.memberWord (s.f (F.COL_GROUP.BASE g)) i)
  else none

/-- CQs that an entry and its members name. -/
def ringsOf (r : Rec4) (ws : Option (List Word)) : List Nat :=
  let own := if rtType r = 1 ∧ rtKind r = 3 then [rtDest r % 128] else []
  own ++ (ws.getD []).filterMap fun w => if fieldOf w 29 3 = 3 then some (fieldOf w 0 7) else none

/-- A lookup reads the entry, its group and the CQs once; every later step for the frame uses what it read (R291, R297,
R305). -/
def State.lookUp (s : State) (r : Rec4) (colour : Nat) : Looked :=
  let ws := s.groupWords r
  { ent := r, colour := colour, words := ws,
    rings := (ringsOf r ws).filterMap fun q => s.cqHome q |>.map fun h => (q, h.1, h.2) }

/-- A frame for a CQ that has been deleted is one of its drops (R395, R402). -/
def State.deletedDrop (s : State) (q : Nat) : State :=
  if (s.cq q).deleted then s.modCq q fun c => { c with drops := c.drops + 1 } else s

/-- A logical bus of this device. -/
def State.hopLane (s : State) (k : Look) (b : Nat) : Option Hop × State :=
  if !(s.isBus b) then (none, s.noRoute k (some (b / 4)))
  else if b = k.bus then (none, (s.satAdd (F.COL_PORTSTAT.LOOP k.inp) 1).dropRec k k.inp 2 0)
  else (some (.bus b), s)

/-- A lane of some device. -/
def State.hopRemote (s : State) (k : Look) (a : Nat) : Option Hop × State :=
  if devOf a = s.devId then s.hopLane k (a % 128)
  else
    let p := s.pathPort (devOf a)
    match p.1 with
    | some e => (some (.remote e (a % 2097152)), p.2)
    | none => (none, p.2.satAdd F.STACK_CNT.NO_PATH 1)

/-- A CQ: one that the lookup found assigned to no function is not served (R297). -/
def State.hopRing (s : State) (k : Look) (rings : List (Nat × Nat × Nat)) (q : Nat) : Option Hop × State :=
  match rings.find? fun x => decide (x.1 = q) with
  | some x => (some (.ring q x.2.1 x.2.2), s)
  | none => (none, (s.deletedDrop q).noRoute k none)

/-- One member of a group, as its word has it (R298). -/
def State.hopMember (s : State) (k : Look) (rings : List (Nat × Nat × Nat)) (w : Word) : Option Hop × State :=
  let a := fieldOf w 0 21
  let kind := fieldOf w 29 3
  if kind = 1 then s.hopLane k (a % 128)
  else if kind = 2 then s.hopRemote k a
  else if kind = 3 then s.hopRing k rings (a % 128)
  else (none, s)

/-- The members that are served. -/
def State.hopMembers (s : State) (k : Look) (rings : List (Nat × Nat × Nat)) : List Word → List Hop × State
  | [] => ([], s)
  | w :: ws =>
    let h := s.hopMember k rings w
    let t := h.2.hopMembers k rings ws
    (match h.1 with | some x => x :: t.1 | none => t.1, t.2)

/-- The destinations of a route entry that are served. -/
def State.hopsOf (s : State) (k : Look) (r : Looked) : List Hop × State :=
  let one (x : Option Hop × State) : List Hop × State := (x.1.toList, x.2)
  let kind := rtKind r.ent
  if rtType r.ent ≠ 1 then ([], s.noRoute k none)
  else if kind = 0 then one (s.hopLane k (rtDest r.ent % 128))
  else if kind = 1 then one (s.hopRemote k (rtDest r.ent))
  else if kind = 2 then
    match r.words with
    | some ws => s.hopMembers k r.rings ws
    | none => ([], s.noRoute k none)
  else one (s.hopRing k r.rings (rtDest r.ent % 128))

/-! Into Firn -/

/-- Col port of a destination (R277). -/
def Hop.port : Hop → Nat
  | .bus b => b / 4
  | .remote e _ => 32 + e
  | .ring _ f _ => 36 + f

/-- One output for each distinct port, in ascending number (R300, R332). -/
def outsOf (hops : List Hop) (tc : Nat) : List OutReq :=
  (List.range 40).filterMap fun p =>
    let mine := hops.filter fun h => decide (h.port = p)
    if mine.isEmpty then none
    else some { port := p, tc := tc, cqs := mine.filterMap fun h => match h with | .ring q _ _ => some q | _ => none }

/-- The drops of a dropping admission as Moraine sees them: quota drops by CQ, and copies lost to WRED or space; a copy
lost to an expired port hold is none of R508's. `s0`: the state before the admission; `put` writes the record of a copy
by output, kind and CQ. -/
def State.admissionRecs (s : State) (s0 : State) (put : State → OutReq → Nat → Nat → State) (n : Nat)
    (asked got : List OutReq) : State :=
  asked.foldl (fun st o =>
    let above := o.cqs.filter fun q => decide (s0.f (F.FIRN_RQUOTA.QUOTA q) < s0.heldOf q + n)
    let st := above.foldl (fun st q => put st o 1 q) st
    let held := decide (32 ≤ o.port) && decide (o.port < 36) && (s0.eth (o.port - 32)).holdOver
    if (got.any fun g => decide (g.port = o.port)) || held || (!o.cqs.isEmpty && decide (above.length = o.cqs.length)) then st
    else put st o 0 0) s

/-- Offer a received frame to its outputs (R331, R332). -/
def State.offerFrame (s : State) (k : Look) (outs : List OutReq) : Option (Nat × List OutReq) × State :=
  let r := s.takeIn outs k.colour k.fr.bytes (k.fr.data.take k.fr.bytes)
  let got := match r.1 with | some x => x.2 | none => []
  (r.1, r.2.admissionRecs s (fun st o kind q => st.dropRec { k with tc := o.tc } o.port kind q) (cellsFor k.fr.bytes) outs got)

/-- The completion item of a bus frame for a CQ (R392). -/
def rxItemOf (fid : Nat) (k : Look) (laneB : Bool) (gen now : Nat) : RxItem :=
  let fr := k.fr
  { fid := fid, eth := false, bus := k.bus, laneB := laneB, w1 := fr.fmtId,
    w2 := BitVec.ofNat 32 (fr.len % 4096 + fr.esi.toNat * 4096 + fr.rtr.toNat * 8192 + fr.brs.toNat * 16384 +
      fr.sec.toNat * 32768 + fr.vcid.toNat * 65536 + fr.sdt.toNat * 16777216),
    af := if fr.fmt = .xl then fr.af else 0, stamp := k.stamp, xl := decide (fr.fmt = .xl),
    inl := decide (fr.bytes ≤ 8), data := fr.data.take fr.bytes, routed := k.routed, gen := gen, at_ := now, seq := k.seq }

/-- LEN and payload of a bus frame record (R544, log 20): at most 8 for a Classical frame, zeros for what a remote frame
does not carry. -/
def recLen (fr : Frame) : Nat := if fr.fmt.classical then min fr.len 8 else fr.len

/-- A bus frame record (R544). -/
def busRecord (fr : Frame) (t : Stamp) : List Byte :=
  let n := recLen fr
  let opts := fr.sec.toNat * 32768 + fr.brs.toNat * 16384 + fr.rtr.toNat * 8192 + fr.esi.toNat * 4096 + n % 4096
  beBytes 4 fr.fmtId.toNat ++ beBytes 2 opts ++ [fr.sdt, fr.vcid] ++ beBytes 4 (if fr.fmt = .xl then fr.af.toNat else 0) ++
    beBytes 4 t.sec ++ beBytes 4 t.ns ++ bytesFrom fr.data 0 n

/-- The next SEQ of this device (R542). -/
def State.nextSeq (s : State) : Nat × State :=
  (s.stack.seq, (s.withStack { s.stack with seq := (s.stack.seq + 1) % 4294967296 }))

/-- This device is the acting master: MASTER and not STANDBY, or ACTING (R553, R555). -/
def State.actingMaster (s : State) : Bool :=
  (s.f F.STACK_STATE.ROLE == 1) && !(s.fb F.STACK_STATE.STANDBY) || (s.f F.STACK_STATE.ROLE == 3)

/-- A DATA frame for a lane of another device (R541, R542, R545). -/
def State.stackData (s : State) (k : Look) (addr : Nat) : StackOut × State :=
  let q := s.nextSeq
  ({ dst := addr, all := false, ty := 1, master := s.actingMaster, src := s.devId * 128 + k.lane, tc := k.tc, colour := k.colour,
     hop := s.f F.STACK_CFG.HOP_INIT, seq := q.1, epoch := s.f F.STACK_STATE.EPOCH, payload := busRecord k.fr k.stamp }, q.2)

/-- The stack frames of one Ethernet output. -/
def State.stackCopies (s : State) (k : Look) (fid : Nat) : List Hop → List Egress × State
  | [] => ([], s)
  | .remote _ a :: hs =>
    let x := s.stackData k a
    let t := x.2.stackCopies k fid hs
    ({ tc := k.tc, fid := some fid, deadline := none, mark := .none, attempts := 0, kind := .stack x.1 } :: t.1, t.2)
  | _ :: hs => s.stackCopies k fid hs

/-- The queue entry of one admitted output (R300, R301). -/
def State.enqueueHops (s : State) (k : Look) (laneB : Bool) (fid : Nat) (hops : List Hop) (o : OutReq) : State :=
  let mine := hops.filter fun h => decide (h.port = o.port)
  if o.port < 32 then
    s.enqueue k.inp o.port o.tc fid (.buses (mine.filterMap fun h => match h with | .bus b => some b | _ => none) k.fr k.stamp)
  else if o.port < 36 then
    let x := s.stackCopies k fid mine
    x.2.enqueue k.inp o.port o.tc fid (.eth x.1)
  else
    let gen (q : Nat) : Nat := (mine.findSome? fun h => match h with
      | .ring q' _ g => if q' = q then some g else none
      | _ => none).getD 0
    s.enqueue k.inp o.port o.tc fid (.rings (o.cqs.map fun q => (q, rxItemOf fid k laneB (gen q) s.now)))

/-- Admit a frame for its destinations and queue it towards each output. -/
def State.sendHops (s : State) (k : Look) (laneB : Bool) (hops : List Hop) : State :=
  let r := s.offerFrame k (outsOf hops k.tc)
  match r.1 with
  | none => r.2
  | some (fid, got) => got.foldl (fun st o => st.enqueueHops k laneB fid hops o) r.2

/-- The rewrite of R294. -/
def rewrite (r : Rec4) (fr : Frame) : Frame :=
  if rtRewr r then { fr with id := BitVec.ofNat 29 (fr.fmt.idMask (rtNewId r)) } else fr

/-- Forward a frame as its lookup of route entry `n` found it (R291 to R301): with HOOK_EN 1 through the route hook of the
ingress PE (R295, R622), which is not called for a frame that has no destination served (log 116). -/
def State.forward (s : State) (k : Look) (laneB : Bool) (n : Nat) (r : Looked) : State :=
  let e := r.ent
  let k := { k with tc := rtTc e, colour := r.colour, routed := true }
  let d := s.hopsOf k r
  if d.1.isEmpty then d.2
  else
    let k := { k with fr := rewrite e k.fr }
    let q := k.lane / 4
    if !(rtHook e) then d.2.sendHops k laneB d.1
    else if (d.2.hookHdr q).getLsbD 1 then d.2.hookCall q (.route k laneB n (rtHookArg e) d.1)
    else (d.2.satAdd (F.ENG_HOOKCNT.NOHOOK q) 1).sendHops k laneB d.1

end Sys2Proof.Machine
end

