-- ==== Sys2Proof/Machine/Recv.lean ====
section
/-! DEFINITION. Valid frames (03 R111 to R115, R145 to R148; 05 R224 to R237; 06 R266 to R271; 07 R291, R306 to R310):
what the device does with what a lane receives. -/
namespace Sys2Proof.Machine

/-! Carrying out a decision -/

/-- A drop under R227 or R228. -/
def State.noTarget (s : State) (b : Nat) : State := s.satAdd (F.LANE_FLTCNT.NO_TARGET b) 1

/-- The lookup of a routed frame (R291): the entry as it was read at the frame's lookup. One that was not considered for
cut-through is looked up now, at its decision, also where that came after its validity (log 115): with CT_EN 1 it counts in
CT_CLAMPED, its destination served or not (R306, log 118); the route's policer meters it last (R334, R335). -/
def State.routeLook (s : State) (k : Look) (n : Nat) (looked : Option Looked) : Looked × State :=
  match looked with
  | some r => (r, s)
  | none =>
    let r := s.routeEnt n
    let s := if rtType r = 1 ∧ rtCtEn r = true then s.satAdd F.COL_CTSTAT.CT_CLAMPED 1 else s
    let m := if decide (rtType r = 1) && rtPol r then s.meter (rtPolicer r) k.colour (k.fr.bytes + 16) else (k.colour, s)
    (m.2.lookUp r m.1, m.2)

/-- Carry out an action other than ROUTE (R224, R228). -/
def State.act (s : State) (k : Look) (laneB : Bool) (a : Option (Nat × Nat)) : State :=
  match a with
  | none => s.noTarget k.bus
  | some (0, n) =>
    match s.cqHome (n % 128) with
    | none => (s.deletedDrop (n % 128)).noTarget k.bus
    | some h => s.sendHops { k with tc := 2 } laneB [.ring (n % 128) h.1 h.2]
  | some (1, n) =>
    let r := s.objReceive k.bus (n % 1024) k.fr k.stamp
    if r.1 then r.2 else r.2.noTarget k.bus
  | some (4, _) => s
  | some _ => s.satAdd (F.LANE_FLTCNT.REJECTED k.bus) 1

/-- Class of a frame that no route forwards (R281). -/
def actionTc (a : Option (Nat × Nat)) : Nat := if a.map Prod.fst = some 0 then 2 else 0

/-- The action on a valid frame and its copy for Moraine, which is judged with the colour after the last meter (R226, R334,
R343, R509). -/
def State.acted (s : State) (k : Look) (laneB : Bool) (a : Option (Nat × Nat)) (record : Bool) (looked : Option Looked) :
    State :=
  match a with
  | some (2, n) =>
    let r := s.routeLook k n looked
    (r.2.morRx k.lane k.stamp k.fr r.1.colour (rtTc r.1.ent) record false).forward k laneB n r.1
  | _ =>
    (s.morRx k.lane k.stamp k.fr k.colour (actionTc a) (record || decide (a.map Prod.fst = some 4)) false).act k laneB a

/-- The call `c` of a hook of PE `e` has ended (R621 to R623): with its results, top first, or under R626. -/
def State.hookDone (s : State) (e : Nat) (c : HookCall) (r : Option (List Word)) : State :=
  match c, r with
  | .filter k laneB d, some [action, aarg] =>
    s.acted k laneB (if action.toNat < 5 then some (action.toNat, fieldOf aarg 0 16) else none) d.record none
  | .filter k laneB d, _ => s.acted k laneB none d.record none
  | .route k laneB _ _ hops, some [result] =>
    if result = 0 then s.sendHops { k with fr := s.hookRead e k.fr } laneB hops
    else s.satAdd (F.COL_PORTSTAT.HOOK_DROP k.inp) 1
  | .route k _ _ _ _, _ => s.satAdd (F.COL_PORTSTAT.HOOK_DROP k.inp) 1
  | .tick _, _ => s

/-- The calls of an engine that stops end as under R626, none having faulted (log 123). -/
def State.hookDrop (s : State) (e : Nat) : State :=
  (s.eng e).calls.foldl (fun st c => st.hookDone e c none) (s.modEng e fun g => { g with calls := [], back := none })

/-- A valid frame's decision is carried out (R222 to R228, R334, R335): CUSTOM by the filter hook of the PE, and with FILTER_EN
0 it is dropped (R621). -/
def State.carryOut (s : State) (l : Nat) (fr : Frame) (t : Stamp) (seq : Nat) (d : Decision) : State :=
  let b := s.busOf l
  let laneB := !(decide (l = b))
  let s := if d.noMatch then s.satAdd (F.LANE_FLTCNT.NOMATCH b) 1 else s
  let m := match (d.looked.map Looked.colour).or d.metered with
    | some c => (c, s)
    | none => s.ingressMeter b d.colour fr.bytes
  let k : Look := { inp := l / 4, lane := l, bus := b, fr := fr, stamp := t, colour := m.1, tc := 0, seq := seq }
  let s := m.2
  if !d.custom then s.acted k laneB (some (d.action, d.arg)) d.record d.looked
  else if (s.hookHdr (l / 4)).getLsbD 0 then s.hookCall (l / 4) (.filter k laneB d)
  else (s.satAdd (F.ENG_HOOKCNT.NOHOOK (l / 4)) 1).acted k laneB none d.record none

/-! Rate guards (R145 to R147) -/

/-- Guard `g` of lane `l` watches the frame's ID. -/
def State.guardMatches (s : State) (l g : Nat) (fr : Frame) : Bool :=
  let k := s.f (F.LANE_RGUARD.KIND l g)
  let id := s.f (F.LANE_RGUARD.ID l g)
  (decide (k = 1) && !fr.fmt.ext && decide (id % 2048 = fr.fmt.idMask fr.id.toNat)) ||
  (decide (2 ≤ k) && fr.fmt.ext && decide (id = fr.fmt.idMask fr.id.toNat))

/-- The interval count of the lane's base when the EOF of a frame ends whose last but one EOF bit is sampled now: the rest
of that bit and one more, under the slew that runs (R145, R465). -/
def State.eofEnd (s : State) (l : Nat) : Nat :=
  let t := s.nominal l
  s.countIn (s.baseOf l) (t.seg2 * t.brp + t.bit)

/-- One guard sees a valid frame; true where the frame is quarantined. A frame counts in the window in which its EOF ends
(R145, R154). -/
def State.guardSees (s : State) (l g : Nat) (fr : Frame) : Bool × State :=
  if s.guardMatches l g fr then
    let x := Tab.get (fun _ => {}) (s.lane l).guards g
    let later := match x.due with
      | some t => decide (t.due < s.eofEnd l)
      | none => false
    let n := (if later then x.next else x.count) + 1
    let x' : Guard := if later then { x with next := n } else { x with count := n }
    let s := s.modLane l fun y => { y with guards := Tab.put (fun _ => {}) y.guards g x' }
    let quar := s.fb (F.LANE_RGUARD.QUARANTINED l g)
    if s.f (F.LANE_RGUARD.MAXCNT l g) < n then
      let s := s.setB (F.LANE_RGUARD.EXCEEDED l g) true
      let s := s.violateNow l Vt.rateGuard (Config.violField Vt.rateGuard).toNat (Config.violBit Vt.rateGuard).toNat (some fr) false
      if s.fb (F.LANE_RGUARD.QUAR_EN l g) then (true, s.setB (F.LANE_RGUARD.QUARANTINED l g) true) else (quar, s)
    else (quar, s)
  else (false, s)

/-- Every guard of the lane. -/
def State.guardsSee (s : State) (l : Nat) (fr : Frame) : Bool × State :=
  (List.range 16).foldl (fun r g => let x := r.2.guardSees l g fr; (r.1 || x.1, x.2)) (false, s)

/-! Duplicates of a pair (R266 to R271) -/

/-- One bit of the CRC-32 of IEEE 802.3, in the order in which the bits go out. -/
def crcBit (c : Word) : Word := if c.getLsbD 0 then (c >>> 1) ^^^ 0xEDB88320#32 else c >>> 1

/-- One byte. -/
def crcByte (c : Word) (b : Byte) : Word :=
  crcBit (crcBit (crcBit (crcBit (crcBit (crcBit (crcBit (crcBit (c ^^^ b.setWidth 32))))))))

/-- The payload check of R267: for an empty payload 0xFFFF_FFFF. -/
def payCheck (bs : List Byte) : Word := if bs.isEmpty then 0xFFFFFFFF else ~~~(bs.foldl crcByte 0xFFFFFFFF)

/-- The open entry of a frame whose corrected SOF lies at `sof` on the interval count of base `base` (R267, R269). -/
def openEntOf (fr : Frame) (sof : Int) (base win : Nat) : OpenEnt :=
  let xl := decide (fr.fmt = .xl)
  { fmt := fr.fmt, id := BitVec.ofNat 29 (fr.fmt.idMask fr.id.toNat), rtr := fr.fmt.classical && fr.rtr, len := fr.bytes,
    sdt := if xl then fr.sdt else 0, sec := xl && fr.sec, vcid := if xl then fr.vcid else 0,
    af := if xl then fr.af else 0, check := payCheck (fr.data.take fr.bytes), sof := sof,
    due := ⟨some base, (sof + (win : Int)).toNat⟩ }

/-- Equal match keys. -/
def OpenEnt.same (x y : OpenEnt) : Bool :=
  decide (x.fmt = y.fmt) && decide (x.id = y.id) && (x.rtr == y.rtr) && decide (x.len = y.len) && decide (x.sdt = y.sdt) &&
    (x.sec == y.sec) && decide (x.vcid = y.vcid) && decide (x.af = y.af) && decide (x.check = y.check)

/-- Enter a frame in the open list of its lane; a full list loses its oldest entry (R269). -/
def State.openEnter (s : State) (a l : Nat) (e : OpenEnt) : State :=
  let os := (s.lane l).open_
  let s := if 256 ≤ os.length then s.satAdd (F.LANE_PAIRRX.DUP_EVICT a) 1 else s
  let os := if 256 ≤ os.length then os.drop 1 else os
  s.modLane l fun x => { x with open_ := os ++ [e] }

/-- Judge a valid frame of a pair (R268): true for a duplicate. -/
def State.judgeDup (s : State) (l : Nat) (fr : Frame) (sof : Int) : Bool × State :=
  let a := s.busOf l
  let p := if l = a then a + 1 else a
  let win := tbUs (s.f (F.LANE_PAIRCFG.DUP_WIN a))
  let e := openEntOf fr sof (s.baseOf l) win
  let os := (s.lane p).open_
  match os.findIdx? fun x => x.same e && decide ((x.sof - e.sof).natAbs ≤ win) with
  | some i => (true, (s.modLane p fun x => { x with open_ := os.eraseIdx i }).satAdd (F.LANE_PAIRRX.DUP_MATCHED a) 1)
  | none => (false, s.openEnter a l e)

/-! FRAME_VALID -/

/-- A frame decided after its D counts (R236). -/
def State.countLate (s : State) (l : Nat) : State :=
  (s.satAdd (F.LANE_FLTCNT.LATE (s.busOf l)) 1).satAdd (F.QUAD_WALK.LATE_TOTAL (l / 4)) 1

/-- A frame that went cut-through is whole: its egress copy has it; only records are still due. -/
def State.ctValid (s : State) (l : Nat) (fr : Frame) (t : Stamp) (d : Option Decision) : State :=
  let s := s.ctWhole l fr
  match d with
  | none => s
  | some d =>
    let s := if d.noMatch then s.satAdd (F.LANE_FLTCNT.NOMATCH (s.busOf l)) 1 else s
    let c := match d.looked with | some x => x.colour | none => d.colour
    let tc := match d.looked with | some x => rtTc x.ent | none => 0
    s.morRx l t fr c tc d.record false

/-- The decision offers the frame to Moraine (R226, R509). -/
def Decision.recorded (d : Decision) : Bool := d.record || decide (d.action = 4)

/-- What follows for a frame that is filtered (R236, R266). The ingress policer meters the copy acted on at its validity,
though the decision may come later: the MARK that colours such a frame is then looked up in the list at once (R335, log
97). -/
def State.validFiltered (s : State) (l : Nat) (sof : Int) (fr : Frame) (t : Stamp) (d : Option Decision) : State :=
  let seq := s.nextValid
  let s := s.withNextValid (seq + 1)
  let s := match d with
    | some x => if x.late then s.countLate l else s
    | none => s.countLate l
  let j := if s.isPair (s.busOf l) then s.judgeDup l fr sof else (false, s)
  let s := j.2
  match d with
  | some x => if j.1 then s.morRx l t fr x.colour 0 x.recorded false else s.carryOut l fr t seq x
  | none =>
    let b := s.busOf l
    let m := if j.1 then (0, s) else s.ingressMeter b (((s.fltList b).find fr).colour.getD 0) fr.bytes
    m.2.modLane l fun y => { y with wait := y.wait ++ [{ fr := fr, stamp := t, dup := j.1, colour := m.1, seq := seq }] }

/-- Lengths out of range (R112): a Classical DLC above 8 with DLC_LOG, an XL payload above XL_MAXLEN. FIELD is 7, the DLC
(log 21), and the stamp is that of the DLC field (R138). -/
def State.lengthChecks (s : State) (l : Nat) (fr : Frame) (sof : Sof) : State :=
  if (fr.fmt = .xl ∧ s.f (F.LANE_MODE.XL_MAXLEN l) + 1 < fr.len) ∨
      (fr.fmt.classical ∧ 8 < fr.len ∧ s.fb (F.LANE_MODE.DLC_LOG l)) then
    s.violate l Vt.dlcRange 7 (Config.violBit Vt.dlcRange).toNat sof.dlc (some fr) false
  else s

/-- A frame is valid on lane `l` (R111, R112, R122, R145 to R147); `d`: the decision on it, if it has come. -/
def State.frameIsValid (s : State) (l : Nat) (fr : Frame) (sof : Sof) (d : Option Decision) : State :=
  let c := (s.rxCorr l sof.cnt).1
  let x := (s.nominalPhase l).rxStamp l sof
  let t := x.1
  let s := x.2.laneStep l fun s =>
    (if s.signals l then s.goodRec l else s).modLane l fun y => { y with dec := none, lastTx := false }
  if s.lbPoisoned l then ((s.killSend l).lbHeal l).satAdd (F.LANE_ETALLY.RX_ERR l) 1
  else
    let g := (s.lengthChecks l fr sof).guardsSee l fr
    let s := g.2
    if g.1 then (s.satAdd (F.LANE_ETALLY.RG_DROP l) 1).morRx l t fr 0 0 false true
    else if fr.fmt = .xl ∧ s.f (F.LANE_MODE.XL_MAXLEN l) + 1 < fr.len then s.morRx l t fr 0 0 false false
    else if (s.lane l).ct.isSome then s.ctValid l fr t d
    else s.validFiltered l ((sof.cnt : Int) + corrUnits c) fr t d

/-- The lane can take part in a reception now: its input does not read dominant for want of VIO (R725). -/
def State.hears (s : State) (l : Nat) : Bool :=
  s.receives l && (s.lane l).att.isNone && !(s.lane l).waitIdle && !(s.dark l)

/-- The decision on a frame that ends in the very lt in which the lane has entered BUS_OFF (R19, R154). -/
def State.lastHeard (s : State) (l : Nat) : Option (Option Decision) :=
  match (s.lane l).boAt with
  | some x => if x.1 = s.now then some x.2 else none
  | none => none

/-- FRAME_VALID (R111, R19): the last but one bit of EOF has been sampled without error. -/
def execFrameValid (l : LaneId) (fr : Frame) (sof : Sof) (_h : Unit) (s : State) : Host.Outcome State Fault Refusal :=
  let k := l.val
  if s.fmtOn k fr.fmt && !(s.dark k) then
    if s.hears k then .next (s.frameIsValid k fr sof (s.lane k).dec)
    else
      match s.lastHeard k with
      | some d => .next ((s.modLane k fun x => { x with boAt := none }).frameIsValid k fr sof d)
      | none => .next s
  else .next s

/-! FILTER_DECISION -/

/-- FILTER_DECISION (R233 to R238): a frame that is valid and waits is decided first and carried out, a duplicate's
decision is discarded; else the decision waits for the frame's validity. An XL frame that is too long is not filtered. -/
def execFilterDecision (l : LaneId) (fr : Frame) (_sof : Sof) (late : Bool) (err : WalkErr) (_h : Unit) (s : State) :
    Host.Outcome State Fault Refusal :=
  let l := l.val
  match (s.lane l).wait with
  | x :: xs =>
    let s := s.modLane l fun y => { y with wait := xs }
    let d := s.walkFrame l x.fr true err x.old
    .next (if x.dup then d.2.morRx l x.stamp x.fr d.1.colour 0 d.1.recorded false
      else d.2.carryOut l x.fr x.stamp x.seq { d.1 with metered := some x.colour })
  | [] =>
    if s.hears l && s.fmtOn l fr.fmt && (s.lane l).dec.isNone &&
        !(decide (fr.fmt = .xl) && decide (s.f (F.LANE_MODE.XL_MAXLEN l) + 1 < fr.len)) then
      let d := s.walkFrame l fr late err none
      .next (d.2.modLane l fun y => { y with dec := some d.1 })
    else .next s

/-! CUT_THROUGH_LOOKUP (R306 to R310, R333) -/

/-- Bit length in lt at which a lane sends or receives the payload of a frame (R308). -/
def State.payBit (s : State) (l : Nat) (fr : Frame) : Nat :=
  if fr.fmt = .xl then (s.xlData l).bit else if fr.brs then (s.fdData l).bit else (s.nominal l).bit

/-- B_req (R308). -/
def State.bReq (s : State) (inl out : Nat) (fr : Frame) : Nat :=
  let ti : Int := s.payBit inl fr
  let dst : Int := s.payBit out fr
  let n : Int := fr.len
  let h : Int := (if fr.fmt = .fe then 34 else 16) * (s.nominal out).bit
  let first : Int := if fr.fmt = .xl then -((-(n * (ti - dst))) / ti) else -((-(n * (5 * ti - 4 * dst))) / (5 * ti))
  let k : Int := if fr.fmt = .xl then 6 else 5
  let a : Int := if fr.fmt = .xl then (10 * h) / (88 * ti) else (4 * h) / (40 * ti)
  (max 0 first + 64 + k - a).toNat

/-- Lane `l` may be the ingress or egress of a cut-through route (R25, R28). -/
def State.ctQuad (s : State) (l : Nat) : Bool := decide (l < 16) || s.quadMode (l / 4) == 1

/-- The conditions of R306 other than Firn's for a frame on lane `l` towards bus `b`. -/
def State.ctAllowed (s : State) (l b : Nat) (fr : Frame) (r : Rec4) : Bool :=
  !(rtFallback r) && decide (rtKind r = 0) && !(rtHook r) &&
  (fr.fmt.fd || decide (fr.fmt = .xl)) && decide (s.f F.COL_CTRL.CT_MIN ≤ fr.len) && !(s.isPair (s.busOf l)) &&
  !((List.range 16).any fun g => s.guardMatches l g fr && s.fb (F.LANE_RGUARD.QUAR_EN l g)) &&
  s.ctQuad l && s.ctQuad b && ((s.lanesOf b).all fun x => s.opmode x == 0) &&
  ((s.lanesOf b).any fun x => (s.laneSt x == St.active) && (s.estate x == 0))

/-- The frame enters the egress order and the cut-through queue (R283, R307); one of a format that the egress lane does not
enable is dropped at the egress quad (R297). -/
def State.ctStart (s : State) (l b n fid : Nat) (fr : Frame) (tc : Nat) : State :=
  let id := s.nextEnt
  let p := b / 4
  if !(s.fmtOn b fr.fmt) then
    let h := busDropHdr fr (s.frame fid).colour tc
    let s := s.modLane l fun x => { x with ct := some { route := n, gen := s.gen n, bus := b, ent := id, fid := fid } }
    (((s.withNextEnt (id + 1)).satAdd (F.COL_PORTSTAT.EG_DROP p) 1).morDrop p p 2 0 h fr.bytes).releaseEntry b (some fid)
  else
  let need := (s.lanesOf b).foldl (fun t k => Tab.put (fun _ => 0) t k (s.bReq l k fr)) []
  let c : CtTx := { route := n, gen := s.gen n, ingress := l, whole := false, breq := need }
  let s := s.modCtq ((l / 4) * 40 + b / 4) fun q => q ++ [(fid, (s.frame fid).cells.length)]
  let s := s.modLane l fun x => { x with ct := some { route := n, gen := s.gen n, bus := b, ent := id, fid := fid } }
  s.enter b { id := id, src := .routed fid, fr := { fr with data := [] }, sel := s.lanesOf b, fid := some fid, ct := some c }

/-- A frame considered for cut-through (R291, R306, R333, R335); one whose lookup has waited for the end of a pause reads the
new content and is carried store-and-forward (R304). One whose destination is not served is no frame carried
store-and-forward and does not count in CT_CLAMPED here (log 118). -/
def State.ctConsider (s : State) (l n : Nat) (fr : Frame) (r : Rec4) (d : Decision) (paused : Bool) : State :=
  let b := rtDest r % 128
  let m := s.ingressMeter (s.busOf l) d.colour fr.bytes
  let p := if rtPol r then m.2.meter (rtPolicer r) m.1 (fr.bytes + 16) else m
  let k := p.2.lookUp r p.1
  let s := p.2.modLane l fun x => { x with dec := some { d with looked := some k } }
  let served := decide (rtKind r ≠ 0) || (s.isBus b && !(decide (b = s.busOf l)))
  if !served then s
  else if s.ctAllowed l b fr r && !paused then
    let a := s.takeIn [{ port := b / 4, tc := rtTc r }] p.1 fr.bytes []
    match a.1 with
    | some (fid, _) => a.2.ctStart l b n fid (rewrite r fr) (rtTc r)
    | none => s.satAdd F.COL_CTSTAT.CT_CLAMPED 1
  else s.satAdd F.COL_CTSTAT.CT_CLAMPED 1

/-- CUT_THROUGH_LOOKUP (R237, R306): only a ROUTE decision of a cached list of a route with CT_EN 1 is considered. A frame of
a pair is judged and metered when it is valid, since only the copy acted on is metered (R263, R335, log 97). `paused`: the
lookup fell in the pause of an RT_LOAD commit (R304). -/
def execCutThroughLookup (l : LaneId) (fr : Frame) (paused : Bool) (s : State) : Host.Outcome State Fault Refusal :=
  let l := l.val
  match (s.lane l).dec with
  | none => .next s
  | some d =>
    let r := s.routeEnt d.arg
    if s.hears l && decide (d.action = 2) && d.cachedWalk && d.looked.isNone && (s.lane l).ct.isNone &&
        decide (rtType r = 1) && rtCtEn r && !(s.isPair (s.busOf l)) && (fr.fmt.fd || decide (fr.fmt = .xl)) then
      .next (s.ctConsider l d.arg fr r d paused)
    else .next s

end Sys2Proof.Machine
end

