-- ==== Sys2Proof/Machine/Col.lean ====
section
/-! DEFINITION. What a frame becomes at its output port of Col (07 R297, R301), fallback (R316), and the loading of routes
(R290, R302 to R305). -/
namespace Sys2Proof.Machine

/-! Holds that move and end (R301, R325) -/

/-- Port `p` releases its hold on a frame. -/
def State.releaseAt (s : State) (p fid : Nat) : State :=
  match (s.frame fid).holds.find? fun h => decide (h.1 = p) with
  | some h => s.release fid h.1 h.2
  | none => s

/-- A frame bound for CQ `q` at host port `p` has ended there (R301, R330). -/
def State.cqRelease (s : State) (p q fid : Nat) : State :=
  let x := s.frame fid
  let key := 128 * p + q
  if x.cqs.contains key then
    let cqs := x.cqs.erase key
    let s := if cqs.contains key then s else s.unheld q x.cells.length
    let s := s.setFrame fid { x with cqs := cqs }
    if cqs.any fun k => decide (k / 128 = p) then s else s.releaseAt p fid
  else s

/-- One hold more on every cell of a frame, which names its port and class, and its charge (R327, R352, R354). -/
def State.holdAt (s : State) (p c fid : Nat) : State :=
  let x := s.frame fid
  let s := x.cells.foldl (fun st k => st.modCell k fun y => { y with cnt := y.cnt + 1, owner := p, ownerTc := c }) s
  ((s.setFrame fid { x with holds := x.holds ++ [(p, c)] }).modChg (4 * p + c) (· + x.cells.length)).checkLow

/-- The copy of a frame for CQ `q` moves from host port `p` to `p'` (R325, R406). -/
def State.rehome (s : State) (p p' q fid : Nat) : State :=
  let x := s.frame fid
  let key := 128 * p + q
  match x.holds.find? fun h => decide (h.1 = p) with
  | none => s
  | some h =>
    if p = p' || !(x.cqs.contains key) then s
    else
      let cqs := x.cqs.erase key ++ [128 * p' + q]
      let s := s.setFrame fid { x with cqs := cqs }
      let s := if x.holds.any fun y => decide (y.1 = p') then s else s.holdAt p' h.2 fid
      if cqs.any fun k => decide (k / 128 = p) then s else s.releaseAt p fid

/-- Port `e` has no copy of a frame any more: its hold ends (R301). -/
def State.ethRelease (s : State) (e : Nat) (fid : Option Nat) : State :=
  match fid with
  | none => s
  | some k =>
    let x := s.eth e
    if (x.queue.any fun y => y.fid == some k) || (match x.wire with | some w => w.eg.fid == some k | none => false) then s
    else s.releaseAt (32 + e) k

/-! Outputs (R301) -/

/-- A routed frame at an egress quad: one entry for each member bus, EG_DROP where the lane does not enable the format
(R191, R297, R301). A member that no lane can take ends at once; the port's hold stands until every member has been looked
at. -/
def State.deliverBuses (s : State) (p fid tc : Nat) (fr : Frame) (bs : List Nat) : State :=
  let h := busDropHdr fr (s.frame fid).colour tc
  let s := bs.foldl (fun st b =>
    if st.fmtOn b fr.fmt then
      let sel := st.lanesOf b
      st.enter b { id := 0, src := .routed fid, fr := fr, sel := sel, fid := if (st.copiesFor sel).isEmpty then none else some fid }
    else (st.satAdd (F.COL_PORTSTAT.EG_DROP p) 1).morDrop p p 2 0 h fr.bytes) s
  s.releaseEntry (4 * p) (some fid)

/-- A completion takes its place in a CQ by the order in which the frames became valid (R393). -/
def RxItem.placeIn (x : RxItem) (xs : List RxItem) : List RxItem :=
  xs.takeWhile (fun y => decide (y.seq ≤ x.seq)) ++ x :: xs.dropWhile fun y => decide (y.seq ≤ x.seq)

/-- The CQ was deleted in the lt in which the frame was admitted for it (R407). -/
def Cq.freesNew (c : Cq) (x : RxItem) : Bool :=
  match c.lastDel with
  | some d => decide (d.1 = x.at_) && decide (c.gen = x.gen + 1)
  | none => false

/-- A frame at a host port: one item for each CQ; one for a CQ that has been deleted since the lookup is dropped, be it
created again or not, and where it was admitted in the very lt of the deletion it is freed with the CQ's (R297, R395, R402,
R407); one for a CQ that has been adopted moves on (R325). -/
def State.deliverRings (s : State) (p fid tc : Nat) (items : List (Nat × RxItem)) : State :=
  let colour := (s.frame fid).colour
  items.foldl (fun st x =>
    let c := st.cq x.1
    match c.home.filter fun _ => decide (c.gen = x.2.gen) with
    | some f => (st.setCq x.1 { c with held := x.2.placeIn c.held }).rehome p (36 + f) x.1 fid
    | none =>
      let st := (st.deletedDrop x.1).cqRelease p x.1 fid
      if x.2.routed && !(c.freesNew x.2) then (st.satAdd (F.COL_PORTSTAT.EG_DROP p) 1).morDrop p p 2 0 (x.2.dropHdr colour tc) x.2.data.length
      else st.satAdd (F.HOST_FUNCCNT.CQ_FREED (p - 36)) 1) s

/-- An egress entry that its port cannot take: it goes, and the cells of the hold that ends with it count in PH_FREED (R347,
R538); a forwarded PTP message counts in TC_DROP too (R486). -/
def State.ethFree (s : State) (e : Nat) (x : Egress) : State :=
  let held (s : State) : Nat := match x.fid with
    | some k => if (s.frame k).holds.any fun h => decide (h.1 = 32 + e) then (s.frame k).cells.length else 0
    | none => 0
  let n := held s
  let s := match x.kind with | .ptp .. => s.satAdd F.TB_TCSTAT.TC_DROP 1 | _ => s
  let s := s.ethRelease e x.fid
  s.satAdd (F.FIRN_PHOLD.PH_FREED e) (if held s = 0 then n else 0)

/-- The port takes no more stack frames: its hold has expired, or the stack block has been stopped (R347, R538). -/
def State.ethShut (s : State) (e : Nat) (x : Egress) : Bool :=
  (s.eth e).holdOver || (match x.kind with | .stack _ | .relay .. => !s.stack.started | _ => false)

/-- Frames enter the egress queue of an Ethernet port. -/
def State.deliverEth (s : State) (e : Nat) (xs : List Egress) : State :=
  let ok := xs.filter fun x => !(s.ethShut e x)
  let s := s.modEth e fun y => { y with queue := y.queue ++ ok }
  (xs.filter fun x => s.ethShut e x).foldl (fun st x => st.ethFree e x) s

/-! Fallback (R316) -/

/-- CT_KILL_WINDOW_END (R316; SE0, R681): a new window begins; routes that went over the limit while SE0 stood still lose
cut-through now. -/
def execCtKillWindowEnd (s : State) : Host.Outcome State Fault Refusal :=
  match s.killDue with
  | none => .next s
  | some t =>
    if t ≤ s.now ∧ s.engUp 32 = true then
      let s' := s.kills.foldl (fun st e => st.fallBack e.1 (rtDest (st.rec4 (routeWord e.1 0)) % 128)) s
      .next ((s'.withKills []).withKillDue (some (t + 1000 * ltMs)))
    else .next s

/-! Loading (R290, R303, R304) -/

/-- A member word as loaded: reserved bits 0, kinds 4 to 7 clamped to EMPTY (R298). -/
def memberClamp (w : Word) : Word × Nat :=
  let v := w &&& 0xE01FFFFF#32
  if 4 ≤ fieldOf v 29 3 then (putBits v 29 3 0, 1) else (v, 0)

/-- A route memory record as loaded, and the fields clamped (R288, R290, R298). -/
def routeClamp (r : Rec4) : Rec4 × Nat :=
  if fieldOf r.w0 30 2 = 2 then
    let a := memberClamp r.w1
    let b := memberClamp r.w2
    let c := memberClamp r.w3
    (⟨r.w0 &&& 0xC0000000#32, a.1, b.1, c.1⟩, a.2 + b.2 + c.2)
  else
    let bad := fieldOf r.w0 30 2 == 3
    let w0 := (if bad then putBits r.w0 30 2 0 else r.w0) &&& 0xFFDFFFFF#32
    (⟨w0, r.w1 &&& 0x1FFFFFFF#32, r.w2 &&& 0xFFF0FFFF#32, 0⟩, bad.toNat)

/-- Write one item of a run: a route entry, or a group descriptor (R303, R305, R317). An item beyond its table, which only
a received push can carry, writes nothing (log 48). -/
def State.routeSet (s : State) (group : Bool) (n : Nat) (r : Rec4) : State × Nat :=
  if (if group then 4096 else 65536) ≤ n then (s, 0)
  else if group then (s.setReg (0x58000 + 4 * n) (r.w0 &&& 0x803FFFFF#32), 0)
  else
    let c := routeClamp r
    ((((s.setRec4 (routeWord n 0) c.1).healRec 7 n).modGen n (· + 1)).setKillsOf n 0, c.2)

/-- Write a run. -/
def State.routeRun (s : State) (group : Bool) (n : Nat) : List Rec4 → State × Nat
  | [] => (s, 0)
  | r :: rs =>
    let x := s.routeSet group n r
    let y := x.1.routeRun group (n + 1) rs
    (y.1, x.2 + y.2)

/-- Take RT_LOAD (R303). -/
def State.rtLoadTake (s : State) (r : AdminRef) (d : Words8) : State :=
  let first := fieldOf d.w1 0 16
  let group := d.w1.getLsbD 16
  let c := clampTo 1 4096 (fieldOf d.w4 0 13)
  if s.rtLoad.isSome then s.adminBusy r
  else if (if group then 4096 else 65536) < first + c.1 then s.adminRefuse r .range
  else (s.clamp r.f c.2).withRtLoad (some ⟨r, first, c.1, group⟩)

/-- RT_LOAD (R303). -/
def execRtLoad (f : Fn) (d : Words8) (s : State) : Host.Outcome State Fault Refusal :=
  adminCmd s f d 0x4E fun s r => s.rtLoadTake r d

/-- RT_LOAD_COMMIT (R304, R681): SE0 writes the whole run. -/
def execRtLoadCommit (recs : List Rec4) (s : State) : Host.Outcome State Fault Refusal :=
  match s.rtLoad with
  | some l =>
    if recs.length = l.count ∧ s.engUp 32 = true then
      let x := (s.withRtLoad none).routeRun l.group l.first recs
      .next ((x.1.clamp l.ref.f x.2).adminDone l.ref)
    else .next s
  | none => .next s

end Sys2Proof.Machine
end

