-- ==== Sys2Proof/Machine/Desc.lean ====
section
/-! DEFINITION. I/O descriptors (09 R380 to R395): TX, ETH_TX, RXBUF and NOP from fetch to entry, waiting admissions
(R331), and receive completions. -/
namespace Sys2Proof.Machine

/-! Ethernet entries -/

/-- The completion of an ETH_TX descriptor (R391). -/
def State.ethCpl (s : State) (x : Fetched) (st : Status) (attempts : Nat) (stamp : Option Stamp) : State :=
  s.sqComplete x.sq st 2 false (x.eth.getD 0) (BitVec.ofNat 32 (min attempts 65535))
    (if x.tsReq && st.isDone then stamp else none) x.tag

/-- The completion of a descriptor that has not entered an order (R391): it is no entry, and LANE_TXO does not count it
(R192, R212). -/
def State.fetchedCpl (s : State) (x : Fetched) (st : Status) : State :=
  match x.eth with
  | some _ => s.ethCpl x st 0 none
  | none => s.txCpl x.sq x.tag x.tsReq x.bus 0 st false none

/-- Col port that a descriptor's payload is admitted at. -/
def Fetched.port (x : Fetched) : Nat :=
  match x.eth with
  | some e => 32 + e
  | none => x.bus / 4

/-- A descriptor of function `f` waits for admission at port `p` (R331). -/
def State.admissionWaits (s : State) (f p : Nat) : Bool :=
  s.fetched.any fun x => x.data.isSome && x.fid.isNone && decide (x.f = f) && decide (x.port = p)

/-- A descriptor that has not entered an order leaves `fetched`: its cells are released, and it crosses Col no further
(R198). -/
def State.uncross (s : State) (x : Fetched) : State :=
  match x.fid with
  | none => s
  | some k =>
    (s.modVoq (((36 + x.f) * 40 + x.port) * 4 + 2) fun q => q.filter fun y => !(decide (y.fid = k))).releaseAt x.port k

/-- Entries of the egress queue of port `e` that satisfy a test leave it, one after another. -/
def State.ethDropWhere (s : State) (e : Nat) (out : Egress → Bool) (g : State → Egress → State) : State :=
  let gone := (s.eth e).queue.filter out
  let s := s.modEth e fun y => { y with queue := y.queue.filter fun x => !(out x) }
  gone.foldl (fun st x => (g st x).ethRelease e x.fid) s

/-- Descriptors in the egress queue of port `e` whose deadline has passed complete EXPIRED before anything else happens to
them in this lt (R194, R347, R353). -/
def State.ethExpireDue (s : State) (e : Nat) : State :=
  let due (g : Egress) : Bool := (match g.kind with | .desc _ => true | _ => false) && s.ranOut? g.deadline
  s.ethDropWhere e due fun st g =>
    match g.kind with
    | .desc x => st.ethCpl x .expired g.attempts none
    | _ => st

/-! Entry (R191) -/

/-- A payload of a descriptor is in its place, and the entry enters; `fid` is its Firn frame. -/
def State.descEnter (s : State) (x : Fetched) (fid : Nat) (data : List Byte) : State :=
  match x.eth with
  | none =>
    let fr := { x.fr with data := bytesFrom data 0 x.fr.bytes }
    s.enter x.bus { id := 0, src := .desc x.sq x.f x.tag x.tsReq, fr := fr, oneShot := x.oneShot,
                    deadline := x.dl.map fun d => s.after (some (s.baseOf x.bus)) (tbUs d),
                    sel := x.lanes, fid := some fid }
  | some e =>
    let g : Egress := { tc := 2, fid := some fid, deadline := x.dl.map fun d => s.after (some (s.ethBase e)) (tbUs d),
                        mark := .none, attempts := 0, kind := .desc { x with data := some data, fid := none } }
    if (s.eth e).holdOver then (s.ethCpl x .laneDown 0 none).ethRelease e (some fid)
    else s.modEth e fun y => { y with queue := y.queue ++ [g] }

/-- A payload that fits is admitted in class TC2 and crosses Col from the host port (R281, R282, R331). -/
def State.descAdmit (s : State) (x : Fetched) (data : List Byte) : State :=
  let a := s.admitWaiting x.port 2 data
  (a.2.withFetched (a.2.fetched ++ [{ x with data := some data, fid := some a.1 }])).enqueue (36 + x.f) x.port 2 a.1 .desc

/-- The payload of a descriptor is there: it is admitted, or waits behind the earlier ones of its function and output. -/
def State.descReady (s : State) (x : Fetched) (data : List Byte) : State :=
  if !(s.admissionWaits x.f x.port) && s.fitsWaiting x.port 2 (cellsFor data.length) then s.descAdmit x data
  else s.withFetched (s.fetched ++ [{ x with data := some data }])

/-- A fetched descriptor: its payload is read, unless it holds it. One for a bus of a quad whose engine has halted completes
LANE_DOWN at once (R680). -/
def State.descFetched (s : State) (x : Fetched) : State :=
  if x.eth.isNone && (s.eng (x.bus / 4)).halted then s.fetchedCpl x .laneDown
  else
    match x.data with
    | some d => s.descReady x d
    | none => s.withFetched (s.fetched ++ [x])

/-- Take the first element that satisfies a test out of a list. -/
def takeFirst {α : Type} (p : α → Bool) : List α → Option (α × List α)
  | [] => none
  | x :: xs => if p x then some (x, xs) else (takeFirst p xs).map fun r => (r.1, x :: r.2)

/-- TX_PAYLOAD_READ_DONE (R191, R331). -/
def execTxPayloadReadDone (n : RingId) (data : List Byte) (s : State) : Host.Outcome State Fault Refusal :=
  match takeFirst (fun (x : Fetched) => decide (x.sq = n.val) && x.data.isNone && decide (x.len = data.length)) s.fetched with
  | some (x, rest) => .next ((s.withFetched rest).descReady x data)
  | none => .next s

/-! Fetch -/

/-- Outstanding descriptors of a logical bus (R192, R380). -/
def State.outstanding (s : State) (b : Nat) : Nat :=
  ((s.bus b).filter fun e => !e.done && (match e.src with | .desc .. => true | .dead => true | _ => false)).length +
    (s.fetched.filter fun x => x.eth.isNone && decide (x.bus = b)).length

/-- FORMAT of a TX descriptor on lane `l` (R384, R385). -/
def State.txFormat (s : State) (l code : Nat) : Format :=
  match (Format.ofCode code).getD .cb with
  | .xl => if s.fmtOn l .xl then .xl else if s.fmtOn l .fb then .fb else .cb
  | .fb => if s.fmtOn l .fb then .fb else .cb
  | .fe => if s.fmtOn l .fe then .fe else .ce
  | x => x

/-- LEN of a TX descriptor (R385). -/
def txLen (fmt : Format) (inl : Bool) (len : Nat) : Nat × Nat :=
  let hi := if fmt.classical then 8 else if fmt = .xl then 2048 else 64
  clampTo (if fmt = .xl then 1 else 0) (if inl then min hi 8 else hi) len

/-- DEADLINE of a TX or ETH_TX descriptor: present or not, and the clamp of 0 (R384). -/
def descDeadline (d : Words8) : Option Nat × Nat :=
  if d.w0.getLsbD 11 then
    let v := fieldOf d.w6 0 24
    if v = 0 then (some 1, 1) else (some v, 0)
  else (none, 0)

/-- The logical bus that a TX descriptor names (R385). -/
def State.txBus (s : State) (d : Words8) : Nat := s.clampBus (fieldOf d.w0 16 7)

/-- PAIRSEL as it applies on a bus (R254). -/
def State.txPairsel (s : State) (b : Nat) (d : Words8) : Nat :=
  let v := fieldOf d.w0 12 2
  if s.isPair b && decide (v < 3) then v else 0

/-- The frame of a TX descriptor with its LEN as clamped, without its payload (R384, R385, R172). -/
def txFrame (d : Words8) (fmt : Format) (len : Nat) : Frame :=
  { fmt := fmt, id := BitVec.ofNat 29 (fmt.idMask (fieldOf d.w1 0 29)), rtr := fmt.classical && d.w2.getLsbD 13,
    brs := fmt.fd && d.w2.getLsbD 14, esi := false, sec := decide (fmt = .xl) && d.w2.getLsbD 15,
    sdt := if fmt = .xl then BitVec.ofNat 8 (fieldOf d.w2 24 8) else 0,
    vcid := if fmt = .xl then BitVec.ofNat 8 (fieldOf d.w2 16 8) else 0,
    af := if fmt = .xl then d.w3 else 0, len := if fmt.fd then fdSize len else len, data := [] }

/-- A TX descriptor as it is taken, and how many of its fields were clamped (R384, R385). -/
def State.txTake (s : State) (n : Nat) (d : Words8) : Fetched × Nat :=
  let b := s.txBus d
  let fmt := s.txFormat b (fieldOf d.w1 29 3)
  let inl := d.w0.getLsbD 10
  let len := txLen fmt inl (fieldOf d.w2 0 12)
  let ps := s.txPairsel b d
  let dl := descDeadline d
  let fr := txFrame d fmt len.1
  let clamps := (!(decide (b = fieldOf d.w0 16 7))).toNat + (!(decide (ps = fieldOf d.w0 12 2))).toNat +
    (!(decide (fmt.code = fieldOf d.w1 29 3))).toNat + len.2 + dl.2
  let k := if fr.rtr then 0 else len.1
  ({ sq := n, f := s.sqFn n, eth := none, bus := b, fr := fr, tag := d.w7, tsReq := d.w0.getLsbD 9,
     oneShot := d.w0.getLsbD 8, lanes := s.selLanes b ps, dl := dl.1, len := k,
     data := if k = 0 then some [] else if inl then some ((wordsBytes [d.w4, d.w5]).take k) else none }, clamps)

/-- SQ `n` is the next one in turn for bus `b` among those of `rivals` that hold descriptors (R192). -/
def State.isTurn (s : State) (b n : Nat) (rivals : List RingId) : Bool :=
  rivals.all fun r => !(s.sqReady r.val) || decide ((n + 128 - s.turn b) % 128 ≤ (r.val + 128 - s.turn b) % 128)

/-- TX (R380, R384, R385, R192): the SQs that hold descriptors for a bus are served round-robin, one descriptor at a
time. -/
def execTx (n : RingId) (d : TxFetch) (s : State) : Host.Outcome State Fault Refusal :=
  let n := n.val
  let rivals := d.rivals
  let d := d.d
  let b := s.txBus d
  if s.sqReady n && s.isTurn b n rivals && decide (d.op = 1) && decide (s.outstanding b < s.f (F.LANE_HOLD.TXO_DEPTH b)) &&
      !(s.admissionWaits (s.sqFn n) (b / 4)) then
    let x := s.txTake n d
    .next ((((s.sqFetch n).clamp x.1.f x.2).setTurn b ((n + 1) % 128)).descFetched x.1)
  else .next s

/-- ETH_TX entries of port `e` from their fetch until they are sent or completed (R380). -/
def State.ethQueued (s : State) (e : Nat) : Nat :=
  let isDesc (x : Egress) : Bool := match x.kind with | .desc _ => true | _ => false
  (s.fetched.filter fun x => decide (x.eth = some e)).length + ((s.eth e).queue.filter isDesc).length +
    (match (s.eth e).wire with | some w => (isDesc w.eg).toNat | none => 0)

/-- A frame of no bus: what the bus fields of an Ethernet descriptor hold. -/
def noFrame : Frame :=
  { fmt := .cb, id := 0, rtr := false, brs := false, esi := false, sec := false, sdt := 0, vcid := 0, af := 0, len := 0,
    data := [] }

/-- ETH_TX (R380, R386, R347). -/
def execEthTx (n : RingId) (d : Words8) (s : State) : Host.Outcome State Fault Refusal :=
  let n := n.val
  let e := fieldOf d.w0 16 2
  if s.sqReady n && decide (d.op = 2) && decide (s.ethQueued e < 64) && !(s.admissionWaits (s.sqFn n) (32 + e)) then
    let len := clampTo 14 9600 (fieldOf d.w2 0 14)
    let dl := descDeadline d
    let x : Fetched := { sq := n, f := s.sqFn n, eth := some e, bus := 0, fr := noFrame, tag := d.w7,
                         tsReq := d.w0.getLsbD 9, oneShot := false, lanes := [], dl := dl.1, len := len.1, data := none }
    let s := (s.sqFetch n).clamp x.f (len.2 + dl.2)
    if (s.eth e).holdOver then .next (s.ethCpl x .laneDown 0 none) else .next (s.descFetched x)
  else .next s

/-- Buffers of an RXBUF descriptor (R388). -/
def rxBufs (addr size : Nat) (tag : Word) (n : Nat) : List Buf :=
  (List.range n).map fun i => ⟨addr + i * size, tag + BitVec.ofNat 32 i⟩

/-- Buffer size of a CQ in bytes (R399). -/
def Cq.bufBytes (c : Cq) : Nat := 64 * 2 ^ c.bufsz

/-- RXBUF (R388, R389, R391). -/
def execRxbuf (n : RingId) (d : Words8) (s : State) : Host.Outcome State Fault Refusal :=
  let n := n.val
  if s.sqReady n && decide (d.op = 3) then
    let f := s.sqFn n
    let q := fieldOf d.w0 16 7
    let c := s.cq q
    let k := clampTo 1 256 (fieldOf d.w1 0 9)
    let ok := decide (c.owner = some f) && c.backed
    let m := if ok then min k.1 (4095 - c.posted.length) else 0
    let s := (s.sqFetch n).clamp f (k.2 + (decide (m < k.1)).toNat)
    let bufs := rxBufs (d.w4.toNat + d.w5.toNat * 2 ^ 32) c.bufBytes d.w7 m
    let s := s.modCq q fun c => { c with posted := c.posted ++ bufs }
    .next (s.sqComplete n .done 4 false q (BitVec.ofNat 32 m) none d.w7)
  else .next s

/-- IO_NOP (R383): an opcode that R383 does not list is taken as NOP and counts. -/
def execIoNop (n : RingId) (d : Words8) (s : State) : Host.Outcome State Fault Refusal :=
  let n := n.val
  if s.sqReady n && (decide (d.op = 0) || decide (3 < d.op)) then
    let s := (s.sqFetch n).clamp (s.sqFn n) (decide (d.op ≠ 0)).toNat
    .next (s.sqComplete n .done 6 false 0 0 none d.w7)
  else .next s

/-! Receive completions (R381, R392 to R395) -/

/-- Buffers that a frame needs (R393). -/
def Cq.need (c : Cq) (x : RxItem) : Nat := if x.inl then 0 else (x.data.length + c.bufBytes - 1) / c.bufBytes

/-- Write a payload into buffers, each filled before the next (R393). -/
def State.postBufs (s : State) (f size : Nat) (data : List Byte) : List Buf → State
  | [] => s
  | b :: bs => (s.post f b.addr (data.take size)).postBufs f size (data.drop size) bs

/-- Words of a receive completion after word 0 (R392). -/
def rxWords (x : RxItem) (nbuf drops : Nat) (tag : Word) : List Word :=
  let w3 := if x.eth then 0 else if x.xl then x.af else if x.inl then BitVec.ofNat 32 drops else 0
  let w67 := if x.inl then [payWord x.data 0, payWord x.data 1] else [BitVec.ofNat 32 (nbuf + drops * 65536), tag]
  [x.w1, x.w2, w3, x.stamp.nsWord, x.stamp.secWord] ++ w67

/-- A frame that became valid before the frame of place `seq` is still on its way to CQ `q`, or may yet be (R393): it crosses
Col, or waits for its decision or for a hook (log 99). -/
def State.cqBehind (s : State) (q seq : Nat) : Bool :=
  (s.voqs.any fun e => e.2.any fun x =>
    match x.what with
    | .rings items => items.any fun y => decide (y.1 = q) && decide (y.2.seq < seq)
    | _ => false) ||
    (s.lanes.any fun e => e.2.wait.any fun w => !w.dup && decide (w.seq < seq)) ||
    s.engs.any fun e => e.2.calls.any fun c =>
      match c with
      | .filter k _ _ => decide (k.seq < seq)
      | .route k _ _ _ _ => decide (k.seq < seq)
      | .tick _ => false

/-- In the lt in which the head doorbell releases slots of CQ `n`, those that fetches of its SQs need are theirs (R407). -/
def State.fetchFirst (s : State) (n : Nat) : Bool :=
  let c := s.cq n
  decide (c.freed = some s.now) &&
    decide (c.freeSlots ≤ ((List.range 128).filter fun m => decide ((s.sq m).cq = n) && s.sqReady m).length)

/-- RX_COMPLETION_WRITE (R381, R393, R395): the frame at the front of the CQ. One that holds a poisoned word is dropped
(R353, log 23). -/
def execRxCompletionWrite (n : RingId) (s : State) : Host.Outcome State Fault Refusal :=
  let n := n.val
  let c := s.cq n
  match c.held, c.owner with
  | x :: xs, some f =>
    let k := c.need x
    if s.framePoisoned x.fid then
      .next (((s.setCq n { c with held := xs }).satAdd F.FIRN_DROPSTAT.ECC_DROP 1).cqRelease (36 + f) n x.fid)
    else if !c.backed || (c.freeSlots == 0) || s.cqBehind n x.seq || s.fetchFirst n || decide (c.posted.length < k) then .next s
    else
      let bufs := c.posted.take k
      let told := !(x.inl && x.xl)
      let drops := if told then min c.drops 65535 else 0
      let s := s.postBufs f c.bufBytes (if x.inl then [] else x.data) bufs
      let s := s.setCq n { c with held := xs, posted := c.posted.drop k, drops := if told then 0 else c.drops }
      let st := if 0 < drops then Status.rxDropNotice else .done
      let s := s.cqWrite n (fun ph => cplWord0 st (if x.eth then 3 else 1) ph x.inl x.laneB true x.bus)
        (rxWords x k drops ((bufs.head?.map Buf.tag).getD 0))
      .next (s.cqRelease (36 + f) n x.fid)
  | _, _ => .next s

/-! Deadlines (R194, R347) -/

/-- DEADLINE_EXPIRY: `dst` below 128 names a transmit order and `ent` the entry; from 128 on it names an Ethernet port
and `ent` the place in its egress queue. -/
def execDeadlineExpiry (dst : Fin 132) (ent : Nat) (s : State) : Host.Outcome State Fault Refusal :=
  if dst.val < 128 then
    match s.entry dst.val ent with
    | some e => if s.ranOut? e.deadline then .next (s.expireEntry dst.val e) else .next s
    | none => .next s
  else
    let e := dst.val - 128
    match (s.eth e).queue[ent]? with
    | some g =>
      match g.kind with
      | .desc x =>
        if s.ranOut? g.deadline then
          let s := s.modEth e fun y => { y with queue := y.queue.eraseIdx ent }
          .next ((s.ethCpl x .expired g.attempts none).ethRelease e g.fid)
        else .next s
      | _ => .next s
    | none => .next s

end Sys2Proof.Machine
end

