-- ==== Sys2Proof/Machine/Slot.lean ====
section
/-! DEFINITION. Col's slots (07 R279 to R286): what a frame does at its output, and the matching that moves cells. -/
namespace Sys2Proof.Machine

/-! Outputs (R301) -/

/-- The payload of a descriptor has crossed Col, and its entry enters (R191). One that has been cancelled or aborted since is
not there any more (R198). -/
def State.descArrive (s : State) (p fid : Nat) : State :=
  match takeFirst (fun (x : Fetched) => x.fid == some fid) s.fetched with
  | some (x, rest) => (s.withFetched rest).descEnter x fid (x.data.getD [])
  | none => s.releaseAt p fid

/-- A frame has crossed Col whole. What has reached the service engines frees its cells, unless it is staged (R558). -/
def State.deliver (s : State) (p : Nat) (x : VoqItem) : State :=
  match x.what with
  | .buses bs fr _ => s.deliverBuses p x.fid x.tc fr bs
  | .rings items => s.deliverRings p x.fid x.tc items
  | .eth xs => s.deliverEth (p - 32) xs
  | .mor c => s.withMor { s.mor with queue := s.mor.queue ++ [(x.fid, c)] }
  | .desc => s.descArrive p x.fid
  | .engine keep => if keep then s else s.releaseAt p x.fid

/-! Slots (R284 to R286). A sub-port is `2 * port + x`; ports other than P0 to P3 have x = 0 only. -/

/-- The sub-ports in their order. -/
def subPorts : List Nat := (List.range 40).flatMap fun p => if p < 4 then [2 * p, 2 * p + 1] else [2 * p]

/-- A match of a slot: input sub-port, output sub-port, class (4: cut-through queue). -/
structure SlotMatch where
  i : Nat
  o : Nat
  c : Nat
deriving DecidableEq, Repr

/-- A frame in a cut-through queue is whole at its ingress. -/
def State.ctIsWhole (s : State) (out fid : Nat) : Bool :=
  (List.range 4).any fun i => (s.bus (4 * out + i)).any fun e =>
    e.fid == some fid && (match e.ct with | some x => x.whole | none => true)

/-- Cells that can move from a cut-through queue in this slot: of a frame still arriving the next cell may have filled or
not, which no command tells: a free bit (R307, log 22). -/
def State.ctReady (s : State) : List (Nat × Nat) × State :=
  s.ctqs.foldl (fun r e =>
    match e.2 with
    | [] => r
    | x :: _ =>
      if r.2.ctIsWhole (e.1 % 40) x.1 then ((e.1, x.2) :: r.1, r.2)
      else
        let w := r.2.drawWord
        (if w.1.getLsbD 0 then ((e.1, 1) :: r.1, w.2) else (r.1, w.2))) ([], s)

/-- Cells of input port `i` for output port `o` in class `c` that no match of this slot has taken. -/
def State.slotCells (s : State) (ready : List (Nat × Nat)) (ms : List SlotMatch) (i o c : Nat) : Nat :=
  let all := if c = 4 then (ready.lookup (i * 40 + o)).getD 0
    else ((s.voq ((i * 40 + o) * 4 + c)).map VoqItem.left).sum
  all - (ms.filter fun m => decide (m.i / 2 = i) && decide (m.o / 2 = o) && decide (m.c = c)).length

/-- The class an input requests an output in (step 1). A sub-port whose fellow an earlier round has matched to the same output
port goes on with the same queue (R286). -/
def State.request (s : State) (ready : List (Nat × Nat)) (ms : List SlotMatch) (i o : Nat) : Option Nat :=
  let has (c : Nat) : Bool := decide (0 < s.slotCells ready ms (i / 2) (o / 2) c)
  match ms.find? fun m => decide (m.i / 2 = i / 2) && decide (m.o / 2 = o / 2) with
  | some m => if has m.c then some m.c else none
  | none => [4, 3, 2, 1, 0].find? has

/-- The first of a list at or after a pointer, wrapping. -/
def firstFrom (ptr : Nat) : List Nat → Option Nat
  | [] => none
  | x :: xs =>
    match firstFrom ptr xs with
    | some y => if (x + 80 - ptr) % 80 ≤ (y + 80 - ptr) % 80 then some x else some y
    | none => some x

/-- Step 2: what output `o` grants. -/
def State.grant (s : State) (ready : List (Nat × Nat)) (ms : List SlotMatch) (ins : List Nat) (o : Nat) :
    Option SlotMatch :=
  let rs : List (Nat × Nat) := ins.filterMap fun i => (s.request ready ms i o).map fun c => (i, c)
  let c : Nat := rs.foldl (fun m x => max m x.2) 0
  let is := (rs.filter fun (x : Nat × Nat) => decide (x.2 = c)).map Prod.fst
  (firstFrom ((s.ptr o).grant.getD c 0) is).map fun i => ⟨i, o, c⟩

/-- Step 3: what input `i` accepts. -/
def State.acceptOne (s : State) (gs : List SlotMatch) (i : Nat) : Option SlotMatch :=
  let mine := gs.filter fun g => decide (g.i = i)
  match firstFrom (s.ptr i).accept (mine.map SlotMatch.o) with
  | some o => mine.find? fun g => decide (g.o = o)
  | none => none

/-- Pointers move on an accept of the first round (R285). -/
def State.movePtrs (s : State) (m : SlotMatch) : State :=
  let s := s.modPtr m.o fun p => { p with grant := p.grant.set m.c ((m.i + 1) % 80) }
  s.modPtr m.i fun p => { p with accept := (m.o + 1) % 80 }

/-- One round. -/
def State.slotRound (s : State) (ready : List (Nat × Nat)) (first : Bool) (ms : List SlotMatch) : List SlotMatch × State :=
  let ins := subPorts.filter fun i => !(ms.any fun m => decide (m.i = i))
  let outs := subPorts.filter fun o => !(ms.any fun m => decide (m.o = o))
  let gs := outs.filterMap fun o => s.grant ready ms ins o
  let as := ins.filterMap fun i => s.acceptOne gs i
  (ms ++ as, if first then as.foldl State.movePtrs s else s)

/-- Rounds until ROUNDS have run. -/
def State.slotRounds (s : State) (ready : List (Nat × Nat)) (first : Bool) (ms : List SlotMatch) : Nat → List SlotMatch × State
  | 0 => (ms, s)
  | n + 1 => let r := s.slotRound ready first ms; r.2.slotRounds ready false r.1 n

/-- Step 5: a matched pair moves one cell. -/
def State.moveCell (s : State) (m : SlotMatch) : State :=
  let i := m.i / 2
  let o := m.o / 2
  let count (s : State) : State := (s.satAdd (F.COL_PORTSTAT.CELLS_IN i) 1).satAdd (F.COL_PORTSTAT.CELLS_OUT o) 1
  if m.c = 4 then
    match s.ctq (i * 40 + o) with
    | [] => s
    | x :: xs => (count s).setCtq (i * 40 + o) (if x.2 ≤ 1 then xs else (x.1, x.2 - 1) :: xs)
  else
    let k := (i * 40 + o) * 4 + m.c
    match s.voq k with
    | [] => s
    | x :: xs =>
      if x.left ≤ 1 then ((count s).setVoq k xs).deliver o x
      else (count s).setVoq k ({ x with left := x.left - 1 } :: xs)

/-- A match moves a cell: the second of two sub-ports matched to one queue finds a second cell there (R286). -/
def State.movable (s : State) (ready : List (Nat × Nat)) (ms : List SlotMatch) (m : SlotMatch) : Bool :=
  let twin (x : SlotMatch) : Bool := decide (x.i / 2 = m.i / 2) && decide (x.o / 2 = m.o / 2) && decide (x.i < m.i)
  !(ms.any twin) || decide (1 < s.slotCells ready [] (m.i / 2) (m.o / 2) m.c)

/-- COL_SLOT (R279 to R286): a slot in which no input has a cell to move is not run. -/
def execColSlot (s : State) : Host.Outcome State Fault Refusal :=
  if s.voqs.isEmpty && s.ctqs.isEmpty then .next s
  else
    let c := s.ctReady
    let r := c.2.slotRounds c.1 true [] (s.f F.COL_CTRL.ROUNDS + 1)
    .next (subPorts.foldl (fun st i =>
      match r.1.find? fun m => decide (m.i = i) && c.2.movable c.1 r.1 m with
      | some m => st.moveCell m
      | none => st) r.2)

end Sys2Proof.Machine
end

