-- ==== Sys2Proof/Machine/Ring.lean ====
section
/-! DEFINITION. Ring commands (09 R372 to R407): doorbells, creation, deletion and adoption of I/O rings, TX_CANCEL and
TX_ABORT (R198, R199), and the reset of a function (R404). -/
namespace Sys2Proof.Machine

/-! Doorbells (R43, R44, R377, R378) -/

/-- SQ_TAIL_DOORBELL (R377, R44): a tail moved backwards may take the unfetched descriptors to LOWWATER (R378, R382). -/
def execSqTailDoorbell (f : Fn) (n : RingId) (v : Word) (s : State) : Host.Outcome State Fault Refusal :=
  let q := s.sq n.val
  if !(s.hostOpen f.val) then .next s
  else if q.owner = some f.val then
    let r := reduceIx q.entries v.toNat
    let q' : Sq := { q with tail := r.1, db := v }
    .next (((s.setSq n.val q').clamp f.val r.2).raiseIf
      (decide (0 < q.low) && decide (q.low < q.waiting) && decide (q'.waiting ≤ q.low)) (128 + n.val))
  else .next (s.clamp f.val 1)

/-- CQ_HEAD_DOORBELL (R377, R378, R44). A CQ that has been adopted and is not backed has no entries. -/
def execCqHeadDoorbell (f : Fn) (n : RingId) (v : Word) (s : State) : Host.Outcome State Fault Refusal :=
  let c := s.cq n.val
  if !(s.hostOpen f.val) then .next s
  else if c.owner = some f.val then
    if c.backed then
      let r := cqHeadWrite c.entries c.head c.tail v.toNat
      let freed := if r.1 = c.head then c.freed else some s.now
      .next ((s.setCq n.val { c with head := r.1, db := v, freed := freed }).clamp f.val r.2)
    else .next (s.setCq n.val { c with db := v })
  else .next (s.clamp f.val 1)

/-- ADMIN_SQ_TAIL_DOORBELL (R377, R398). -/
def execAdminSqTailDoorbell (f : Fn) (v : Word) (s : State) : Host.Outcome State Fault Refusal :=
  let r := reduceIx (s.asqSize f.val) v.toNat
  if !(s.hostOpen f.val) then .next s
  else .next ((s.modFunc f.val fun x => { x with aTail := r.1, aDb := v }).clamp f.val r.2)

/-- ADMIN_CQ_HEAD_DOORBELL (R377, R378). -/
def execAdminCqHeadDoorbell (f : Fn) (v : Word) (s : State) : Host.Outcome State Fault Refusal :=
  let x := s.func f.val
  let r := cqHeadWrite (s.acqSize f.val) x.cHead x.cTail v.toNat
  if !(s.hostOpen f.val) then .next s
  else .next ((s.setFunc f.val { x with cHead := r.1, cDb := v }).clamp f.val r.2)

/-! NOP, unknown opcodes, FUNC_ENABLE -/

/-- ADMIN_NOP (R399). -/
def execAdminNop (f : Fn) (d : Words8) (s : State) : Host.Outcome State Fault Refusal :=
  adminCmd s f d 0 State.adminDone

/-- ADMIN_OPCODE_UNKNOWN (R401). -/
def execAdminOpcodeUnknown (f : Fn) (d : Words8) (s : State) : Host.Outcome State Fault Refusal :=
  if d.op = 0 ∨ 0x40 ≤ d.op ∧ d.op ≤ 0x58 then .next s
  else adminCmd s f d d.op fun s r => s.adminRefuse r .opcode

/-- FUNC_ENABLE (R376, R401). -/
def execFuncEnable (f : Fn) (d : Words8) (s : State) : Host.Outcome State Fault Refusal :=
  adminCmd s f d 0x40 fun s r =>
    if s.fb (F.HOST_CTRL.ENABLED r.f) then s.adminRefuse r .state
    else ((s.setB (F.HOST_CTRL.ENABLED r.f) true).setB (F.HOST_CTRL.PARTNER_ENABLED (1 - r.f)) true).adminDone r

/-! Creation (R373, R382, R402, R406) -/

/-- The ring a command names, the address it gives, and SIZE_LOG2 with its clamp (R373, R399). -/
def ringOf (d : Words8) : Nat := fieldOf d.w1 0 7
def ringBase (d : Words8) : Nat := (d.w2.toNat + d.w3.toNat * 2 ^ 32) / 4096 * 4096
def ringSize (d : Words8) : Nat × Nat := clampTo 4 16 (fieldOf d.w1 16 5)

/-- The CQ is the other function's, or was orphaned from it (R402). -/
def Cq.others (c : Cq) (f : Nat) : Bool :=
  match c.home with
  | some g => !(decide (g = f))
  | none => false

/-- RING_CREATE_CQ. -/
def State.createCq (s : State) (r : AdminRef) (d : Words8) : State :=
  let n := ringOf d
  let c := s.cq n
  if c.others r.f then s.adminRefuse r .owned
  else if c.owner = some r.f ∧ c.backed = true then s.adminRefuse r .state
  else
    let size := ringSize d
    let k := clampTo 0 6 (fieldOf d.w1 24 3)
    let c' : Cq := { owner := some r.f, backed := true, base := ringBase d, size := size.1, bufsz := k.1, held := c.held,
                     drops := c.drops, db := c.db, gen := c.gen, lastDel := c.lastDel }
    ((s.clamp r.f (size.2 + k.2)).setCq n c').adminDone r

/-- RING_CREATE_CQ (R402). -/
def execRingCreateCq (f : Fn) (d : Words8) (s : State) : Host.Outcome State Fault Refusal :=
  adminCmd s f d 0x41 fun s r => s.createCq r d

/-- RING_CREATE_SQ. A ring created again has a doorbell that reads 0 until it is written: what it reads is not stated but for
step 8 of R404, and a deleted SQ keeps nothing (R44, log 113). -/
def State.createSq (s : State) (r : AdminRef) (d : Words8) : State :=
  let n := ringOf d
  let q := s.sq n
  let c := s.cq (fieldOf d.w1 8 7)
  if q.owner.isSome ∧ q.owner ≠ some r.f then s.adminRefuse r .owned
  else if q.owner = some r.f then s.adminRefuse r .state
  else if !(decide (c.owner = some r.f) && c.backed) then s.adminRefuse r .notFound
  else
    let size := ringSize d
    let low := clampTo 0 (2 ^ size.1 - 1) (fieldOf d.w4 0 16)
    let q' : Sq := { owner := some r.f, base := ringBase d, size := size.1, cq := fieldOf d.w1 8 7, low := low.1 }
    ((s.clamp r.f (size.2 + low.2)).setSq n q').adminDone r

/-! Entries of one SQ -/

/-- An uncompleted entry of SQ `n`. -/
def Entry.ofSq (e : Entry) (n : Nat) : Bool :=
  !e.done && (match e.src with | .desc m _ _ _ => decide (m = n) | _ => false)

/-- An Ethernet entry of SQ `n`. -/
def Egress.ofSq (g : Egress) (n : Nat) : Bool :=
  match g.kind with
  | .desc x => decide (x.sq = n)
  | _ => false

/-- The uncompleted entries of SQ `n`, with their buses. -/
def State.sqEntries (s : State) (n : Nat) : List (Nat × Entry) :=
  (List.range 128).flatMap fun b => ((s.bus b).filter fun e => e.ofSq n).map fun e => (b, e)

/-- Every entry of an SQ has completed. -/
def State.sqDrained (s : State) (n : Nat) : Bool :=
  (s.sqEntries n).isEmpty && !(s.fetched.any fun x => decide (x.sq = n)) &&
    !((List.range 4).any fun e => (s.eth e).queue.any (fun g => g.ofSq n) ||
        (match (s.eth e).wire with | some w => w.eg.ofSq n | none => false))

/-- Entries of SQ `n` whose deadline has passed expire before a cancel or an abort of the same lt reaches them (R199). -/
def State.sqExpireDue (s : State) (n : Nat) : State :=
  let s := (s.sqEntries n).foldl (fun st x => if st.ranOut? x.2.deadline then st.expireEntry x.1 x.2 else st) s
  (List.range 4).foldl (fun st e => if (st.eth e).queue.any fun g => g.ofSq n then st.ethExpireDue e else st) s

/-- Put a mark on the frame of port `e`'s wire; the first stands (R387, R199). -/
def State.markWire (s : State) (e : Nat) (m : Mark) : State :=
  s.modEth e fun y => { y with wire := y.wire.map fun w =>
    { w with eg := { w.eg with mark := if w.eg.mark = .none then m else w.eg.mark } } }

/-- Mark every entry of SQ `n`: those not committed complete ABORTED at once (R199, R402). -/
def State.markSq (s : State) (n : Nat) (m : Mark) : State :=
  let fs := s.fetched.filter fun x => decide (x.sq = n)
  let s := s.withFetched (s.fetched.filter fun x => !(decide (x.sq = n)))
  let s := fs.foldl (fun st x => (st.uncross x).fetchedCpl x .aborted) s
  let s := (s.sqEntries n).foldl (fun st x => st.markEntry x.1 x.2 m) s
  (List.range 4).foldl (fun st e =>
    let st := st.ethDropWhere e (fun g => g.ofSq n) fun st g =>
      match g.kind with
      | .desc x => st.ethCpl x .aborted g.attempts none
      | _ => st
    match (st.eth e).wire with
    | some w => if w.eg.ofSq n then st.markWire e m else st
    | none => st) s

/-- Entries of SQ `n` that have not completed, those with an earlier late mark among them: what TX_ABORT reports (R198,
log 86). -/
def State.sqCount (s : State) (n : Nat) : Nat :=
  (s.sqEntries n).length + (s.fetched.filter fun x => decide (x.sq = n)).length +
    ((List.range 4).map fun e => ((s.eth e).queue.filter fun g => g.ofSq n).length +
      (match (s.eth e).wire with | some w => (w.eg.ofSq n).toNat | none => 0)).sum

/-! Deletion (R402, R743) -/

/-- RING_DELETE of an SQ. -/
def State.deleteSq (s : State) (r : AdminRef) (d : Words8) : State :=
  let n := ringOf d
  if (s.sq n).owner ≠ some r.f then s.adminRefuse r .notFound
  else (s.sqExpireDue n |>.modSq n fun q => { q with deleting := some r }).markSq n .delete

/-- A command on SQ `n`: held while the SQ is being deleted (R743). -/
def State.sqCmd (s : State) (r : AdminRef) (d : Words8) : State :=
  if (s.sq (ringOf d)).deleting.isSome then s.withHeld (s.held ++ [⟨r.f, d⟩])
  else if d.op = 0x42 then s.createSq r d
  else s.deleteSq r d

/-- A command on an SQ: RING_CREATE_SQ, or RING_DELETE with bit 8 clear. -/
def isSqOp (d : Words8) : Bool := decide (d.op = 0x42) || (decide (d.op = 0x43) && !(d.w1.getLsbD 8))

/-- The commands held behind SQ `n` are judged in the order in which they were taken. -/
def State.sqRejudge (s : State) (n : Nat) : State :=
  let mine (h : Held) : Bool := isSqOp h.d && decide (ringOf h.d = n)
  (s.held.filter mine).foldl (fun st h => st.sqCmd ⟨h.f, h.d.w7⟩ h.d)
    (s.withHeld (s.held.filter fun h => !(mine h)))

/-- RING_CREATE_SQ (R382, R402). -/
def execRingCreateSq (f : Fn) (d : Words8) (s : State) : Host.Outcome State Fault Refusal :=
  adminCmd s f d 0x42 fun s r => s.sqCmd r d

/-- RING_DELETE_SQ (R402). -/
def execRingDeleteSq (f : Fn) (d : Words8) (s : State) : Host.Outcome State Fault Refusal :=
  if d.w1.getLsbD 8 then .next s else adminCmd s f d 0x43 fun s r => s.sqCmd r d

/-- RING_DELETE_SQ_COMMIT (R402): every entry fetched from the SQ has completed, and the SQ is free. -/
def execRingDeleteSqCommit (n : RingId) (s : State) : Host.Outcome State Fault Refusal :=
  let q := s.sq n.val
  match q.deleting with
  | some r =>
    if s.sqDrained n.val then
      .next (((s.setSq n.val {}).adminDone2 r (BitVec.ofNat 32 (q.aborted % 65536))).sqRejudge n.val)
    else .next s
  | none => .next s

/-- RING_DELETE of a CQ (R402, R395). -/
def State.deleteCq (s : State) (r : AdminRef) (d : Words8) : State :=
  let n := ringOf d
  let c := s.cq n
  if c.owner ≠ some r.f then s.adminRefuse r .notFound
  else if (List.range 128).any fun m => (s.sq m).owner.isSome && decide ((s.sq m).cq = n) then s.adminRefuse r .state
  else
    let s := s.setCq n { drops := c.drops + c.held.length, deleted := true, gen := c.gen + 1, lastDel := some (s.now, r.f) }
    let s := c.held.foldl (fun st x => st.cqRelease (36 + r.f) n x.fid) s
    (s.satAdd (F.HOST_FUNCCNT.CQ_FREED r.f) c.held.length).adminDone r

/-- RING_DELETE_CQ (R402). -/
def execRingDeleteCq (f : Fn) (d : Words8) (s : State) : Host.Outcome State Fault Refusal :=
  if d.w1.getLsbD 8 then adminCmd s f d 0x43 fun s r => s.deleteCq r d else .next s

/-! Adoption (R406) -/

/-- Function `f` adopts orphan `n`: the holds of its frames move to the adopter's port (R325). -/
def State.adoptCq (s : State) (f n : Nat) : State :=
  let c := s.cq n
  match c.orphan with
  | some g =>
    let s := s.setCq n { c with owner := some f, orphan := none }
    c.held.foldl (fun st x => st.rehome (36 + g) (36 + f) n x.fid) s
  | none => s

/-- ADOPT_RINGS: the range is reduced to CQ 127 (R399). -/
def State.adopt (s : State) (r : AdminRef) (d : Words8) : State :=
  let first := ringOf d
  let n := fieldOf d.w1 8 7 + 1
  let k := min n (128 - first)
  let qs := ((List.range k).map (first + ·)).filter fun q => (s.cq q).orphan.isSome
  if qs.isEmpty then s.adminRefuse r .notFound
  else
    let s := s.clamp r.f (decide (k < n)).toNat
    (qs.foldl (fun st q => st.adoptCq r.f q) s).adminDone2 r (BitVec.ofNat 32 qs.length)

/-- ADOPT_RINGS (R406, R407). -/
def execAdoptRings (f : Fn) (d : Words8) (s : State) : Host.Outcome State Fault Refusal :=
  adminCmd s f d 0x44 fun s r => s.adopt r d

/-! Cancel and abort (R198, R199, R264, R387) -/

/-- The descriptor entry of SQ `n` with a tag, in a transmit order. -/
def State.tagEntry (s : State) (n : Nat) (tag : Word) : Option (Nat × Entry) :=
  (s.sqEntries n).find? fun x => match x.2.src with | .desc _ _ t _ => decide (t = tag) | _ => false

/-- An Ethernet entry of SQ `n` with a tag. -/
def Egress.tagged (g : Egress) (n : Nat) (tag : Word) : Bool :=
  match g.kind with
  | .desc x => decide (x.sq = n) && decide (x.tag = tag)
  | _ => false

/-- Port whose queue, or wire, holds such an entry. -/
def State.tagQueued (s : State) (n : Nat) (tag : Word) : Option Nat :=
  (List.range 4).find? fun e => (s.eth e).queue.any fun g => g.tagged n tag
def State.tagWire (s : State) (n : Nat) (tag : Word) : Option Nat :=
  (List.range 4).find? fun e => match (s.eth e).wire with | some w => w.eg.tagged n tag | none => false

/-- Cancel the first entry of SQ `n` with a tag; none where there is none. Among entries of one tag the transmit orders
come first, then the Ethernet ports, then the descriptors not yet entered (log 24). -/
def State.cancelTag (s : State) (n : Nat) (tag : Word) : Option State :=
  match s.tagEntry n tag with
  | some (b, e) => some (s.markEntry b e .cancel)
  | none =>
    match s.tagWire n tag with
    | some e => some (s.markWire e .cancel)
    | none =>
      match s.tagQueued n tag with
      | some e =>
        match takeFirst (fun (g : Egress) => g.tagged n tag) (s.eth e).queue with
        | some (g, rest) =>
          let s := s.modEth e fun y => { y with queue := rest }
          match g.kind with
          | .desc x => some ((s.ethCpl x .cancelled g.attempts none).ethRelease e g.fid)
          | _ => some s
        | none => none
      | none =>
        (takeFirst (fun (x : Fetched) => decide (x.sq = n) && decide (x.tag = tag)) s.fetched).map fun r =>
          ((s.withFetched r.2).uncross r.1).fetchedCpl r.1 .cancelled

/-- TX_CANCEL (R198, R199, R259). -/
def execTxCancel (f : Fn) (d : Words8) (s : State) : Host.Outcome State Fault Refusal :=
  adminCmd s f d 0x4B fun s r =>
    if (s.sq (ringOf d)).owner ≠ some r.f then s.adminRefuse r .notFound
    else
      let s := s.sqExpireDue (ringOf d)
      match s.cancelTag (ringOf d) d.w2 with
      | some s => s.adminDone r
      | none => s.adminRefuse r .notFound

/-- TX_ABORT (R198, R199). An SQ that is not this function's is not found (R397). -/
def execTxAbort (f : Fn) (d : Words8) (s : State) : Host.Outcome State Fault Refusal :=
  adminCmd s f d 0x4C fun s r =>
    if (s.sq (ringOf d)).owner ≠ some r.f then s.adminRefuse r .notFound
    else
      let s := s.sqExpireDue (ringOf d)
      let n := s.sqCount (ringOf d)
      (s.markSq (ringOf d) .abort).adminDone2 r (BitVec.ofNat 32 (n % 65536))

end Sys2Proof.Machine
end

