-- ==== Sys2Proof/Machine/Eth.lean ====
section
/-! DEFINITION. Ethernet ports (13 R539 to R545, R550; 11 R480 to R486; 08 R345 to R347): bytes of a frame, stamps, the
transparent clock, link and hold, sending, and non-stack reception. -/
namespace Sys2Proof.Machine

/-! Bytes of a frame -/

/-- `n` bytes from `i` as a number, most significant first. -/
def beAt (bs : List Byte) (i n : Nat) : Nat := beNat ((List.range n).map fun k => bs.getD (i + k) 0)

/-- Overwrite bytes from `i` on. -/
def putAt (bs : List Byte) (i : Nat) (new : List Byte) : List Byte := bs.take i ++ new ++ bs.drop (i + new.length)

/-- Pad to 60 bytes (R386). -/
def pad60 (bs : List Byte) : List Byte := bytesFrom bs 0 (max 60 bs.length)

/-! Stack frames (R537, R541, R542, R545) -/

/-- The stack MAC address of device `d` (R537). -/
def State.stackMac (s : State) (d : Nat) : Nat := s.f F.STACK_MAC.PREFIX * 65536 + d % 16384

/-- A received frame is a stack frame at port `e` (R540). -/
def State.isStackFrame (s : State) (e : Nat) (bs : List Byte) : Bool :=
  let o := typeOff bs
  let tagOk := if s.fb (F.STACK_PORTCFG.VLAN_EN e) then decide (o = 16) && decide (be16At bs 14 % 4096 = s.f (F.STACK_PORTCFG.VID e))
    else decide (o = 12)
  decide (be16At bs o = 0x88B5) && s.fb (F.STACK_PORTCFG.STACK_EN e) && tagOk

/-- The 24-byte header (R542). -/
def stackHeader (x : StackOut) : List Byte :=
  [BitVec.ofNat 8 (16 + x.ty % 16), BitVec.ofNat 8 (2 * x.master.toNat)] ++ beBytes 3 (x.src % 2097152) ++
    beBytes 3 (x.all.toNat * 8388608 + x.dst % 2097152) ++
    [BitVec.ofNat 8 (x.tc % 4 * 64 + x.colour % 4 * 16), BitVec.ofNat 8 x.hop] ++ beBytes 2 x.payload.length ++
    beBytes 4 x.seq ++ beBytes 4 x.epoch ++ beBytes 4 0

/-- A stack frame of this device as port `e` sends it (R541, R545). -/
def State.stackBytes (s : State) (e : Nat) (x : StackOut) : List Byte :=
  let dst := if x.all then s.f F.STACK_BCMAC.BCMAC else s.stackMac (devOf x.dst)
  let pcp := s.f (F.STACK_PORTCFG.PCPMAP e) / 8 ^ x.tc % 8
  let dei := if x.colour = 0 then 0 else 1
  let tag := if s.fb (F.STACK_PORTCFG.VLAN_EN e) then
    beBytes 2 0x8100 ++ beBytes 2 (pcp * 8192 + dei * 4096 + s.f (F.STACK_PORTCFG.VID e)) else []
  pad60 (beBytes 6 dst ++ beBytes 6 (s.stackMac s.devId) ++ tag ++ beBytes 2 0x88B5 ++ stackHeader x ++ x.payload)

/-! Stamps (R480) -/

/-- Receive and transmit constants of a port's mode, in 1/160 ns. -/
def State.ethConst (s : State) (e : Nat) (tx : Bool) : Int :=
  let m := s.f (F.ETH_CFG.MODE e)
  if m = 0 then (if tx then 6192 else 8384)
  else if m = 1 then (if tx then 16640 else 30080)
  else
    let v := s.f (F.ETH_STAT.SPEED e)
    if v = 2 then (if tx then 140800 else 163200)
    else if v = 3 then (if tx then 1312000 else 1568000)
    else (if tx then 17920 else 31360)

/-- RX_ADJ and TX_ADJ, in 1/160 ns (R501). -/
def State.ethAdj (s : State) (e : Nat) (tx : Bool) : Int :=
  signed 16 (s.f (if tx then F.TB_ETHADJ.TX_ADJ e else F.TB_ETHADJ.RX_ADJ e)) * 10

/-- The correction of a stamp at port `e`, in 1/160 ns. -/
def State.ethCorr (s : State) (e : Nat) (tx : Bool) : Int :=
  (if tx then s.ethConst e true else -(s.ethConst e false)) + s.ethAdj e tx

/-- The stamp of an SFD at base value `v`. -/
def State.ethStamp (s : State) (e v : Nat) (tx : Bool) : Stamp := stampOf (corrected v (s.ethCorr e tx))

/-! PTP (R481 to R485) -/

/-- A PTP message in a frame: where it starts, its transport (0 Layer 2, 1 IPv4, 2 IPv6), where the UDP header stands. -/
structure PtpAt where
  off : Nat
  kind : Nat
  udp : Nat
deriving DecidableEq, Repr

/-- Find a PTP message (R481): EtherType 0x88F7, or UDP port 319 or 320. -/
def ptpAt (bs : List Byte) : Option PtpAt :=
  let o := typeOff bs
  let ty := be16At bs o
  let port (u : Nat) : Bool := (be16At bs (u + 2) == 319) || (be16At bs (u + 2) == 320)
  let r : Option PtpAt :=
    if ty = 0x88F7 then some ⟨o + 2, 0, 0⟩
    else if ty = 0x0800 then
      let u := o + 2 + byteAt bs (o + 2) % 16 * 4
      if byteAt bs (o + 11) = 17 ∧ be16At bs (o + 8) % 16384 = 0 ∧ port u = true then some ⟨u + 8, 1, u⟩ else none
    else if ty = 0x86DD then
      let u := o + 42
      if byteAt bs (o + 8) = 17 ∧ port u = true then some ⟨u + 8, 2, u⟩ else none
    else none
  r.filter fun p => decide (p.off + 34 ≤ bs.length)

/-- messageType and majorSdoId of the message. -/
def ptpType (bs : List Byte) (p : PtpAt) : Nat := byteAt bs p.off % 16
def ptpSdo (bs : List Byte) (p : PtpAt) : Nat := byteAt bs p.off / 16

/-- The transparent clock forwards the message (R482, R483): majorSdoId 0 and no Pdelay message. -/
def ptpForwards (bs : List Byte) (p : PtpAt) : Bool :=
  let t := ptpType bs p
  (ptpSdo bs p == 0) && !((t == 2) || (t == 3) || (t == 10))

/-- TB_INCR of the lowest base with DOM_EN whose DOMAIN is the message's, or nominal (R484). -/
def State.domainIncr (s : State) (dom : Nat) : Nat :=
  match (List.range 8).find? fun n => s.fb (F.TB_CTRL.DOM_EN n) && decide (s.f (F.TB_CTRL.DOMAIN n) = dom) with
  | some n => s.f (F.TB_INCR.INCR n)
  | none => 52428800

/-- The residence time in 2^-16 ns, rounded to nearest (R484): `n` lt from SFD to SFD, ports `i` to `e`. RX_ADJ counts as
it does in the ingress stamp (log 27). -/
def State.residence (s : State) (n incr i e : Nat) : Int :=
  let c : Int := s.ethCorr e true - s.ethCorr i false
  (((n * incr : Nat) : Int) * 10 + c * 4096 * 256 + 1280) / 2560

/-- One's complement sum of 16-bit words, an odd last byte padded with 0. -/
def sum16 : List Byte → Nat
  | [] => 0
  | [a] => a.toNat * 256 % 65535
  | a :: b :: r => (a.toNat * 256 + b.toNat + sum16 r) % 65535

/-- The last two bytes of a UDP payload that keep its sum (R485). -/
def fixLast (old new : List Byte) : List Byte :=
  let d := (sum16 old + 65535 - sum16 (new.take (new.length - 2))) % 65535
  let hi : Byte := BitVec.ofNat 8 (d / 256)
  let lo : Byte := BitVec.ofNat 8 d
  if new.length % 2 = 0 then [hi, lo] else [lo, hi]

/-- Add `r` to correctionField and see to the checksum (R484, R485); none where the message goes out unchanged. -/
def ptpCorrect (bs : List Byte) (p : PtpAt) (r : Int) : Option (List Byte) :=
  let corr := beBytes 8 (unsigned 64 (signed 64 (beAt bs (p.off + 8) 8) + r))
  let new := putAt bs (p.off + 8) corr
  if p.kind = 0 then some new
  else if p.kind = 1 then some (putAt new (p.udp + 6) [0, 0])
  else
    let n := be16At bs (p.udp + 4) - 8
    if be16At bs (p.off + 2) + 2 ≤ n ∧ p.off + n ≤ bs.length then
      some (putAt new (p.off + n - 2) (fixLast ((bs.drop p.off).take n) ((new.drop p.off).take n)))
    else none

/-- A forwarded message as port `e` sends it (R484, R485). -/
def State.ptpSend (s : State) (e : Nat) (bs : List Byte) (ingress port : Nat) (event : Bool) : List Byte × State :=
  if event then
    match ptpAt bs with
    | some p =>
      let r := s.residence (s.now - ingress) (s.domainIncr (byteAt bs (p.off + 4))) port e
      match ptpCorrect bs p r with
      | some new => (pad60 new, s.satAdd F.TB_TCSTAT.TC_FWD 1)
      | none => (pad60 bs, s.satAdd F.TB_TCSTAT.TC_NOFIX 1)
    | none => (pad60 bs, s)
  else (pad60 bs, s)

/-! Hold and link (R345 to R347, R539, R550) -/

/-- Every queued frame of port `e` is treated as at hold expiry (R347); a descriptor whose deadline has passed goes by it
(R353). -/
def State.portDrain (s : State) (e : Nat) : State :=
  let s := s.ethExpireDue e
  let q := (s.eth e).queue
  let s := s.modEth e fun y => { y with queue := [], hold := none, holdOver := true }
  let s := s.setB (F.FIRN_PHOLD.HELD e) false
  q.foldl (fun st g =>
    match g.kind with
    | .desc x => (st.ethCpl x .laneDown g.attempts none).ethRelease e g.fid
    | _ => st.ethFree e g) s

/-- The hold of port `e` expires, if it has run out (R347, R354). -/
def State.holdOut (s : State) (e : Nat) : State :=
  if s.ranOut? (s.eth e).hold then ((s.portDrain e).setB (F.FIRN_PHOLD.EXPIRED e) true).raise (1018 + e) else s

/-- PORT_HOLD_EXPIRY (R347, R354). -/
def execPortHoldExpiry (e : PortId) (s : State) : Host.Outcome State Fault Refusal := .next (s.holdOut e.val)

/-- LINK changes: it counts and raises source 870 + e (R539, R574). -/
def State.linkChange (s : State) (e : Nat) (up : Bool) : State :=
  ((s.setB (F.ETH_STAT.LINK e) up).satAdd (F.ETH_STAT.LINKCHG e) 1).raise (870 + e)

/-- The devices that STACK_PATH says anything of: an entry of zeros is its reset value and stands for none of them. -/
def State.pathDevices (s : State) : List Nat :=
  (s.regs.filter fun x => decide (0x88000 ≤ x.1) && decide (x.1 < 0x90000)).flatMap fun x =>
    [(x.1 - 0x88000) / 2, (x.1 - 0x88000) / 2 + 1]

/-- The device that a stack frame is bound for. -/
def Egress.device (g : Egress) : Option Nat :=
  match g.kind with
  | .stack o => if o.all then none else some (devOf o.dst)
  | .relay a all _ => if all then none else some (devOf a)
  | _ => none

/-- Device `d` leaves its primary port `e`, which is down, for a usable alternative (R550). -/
def State.leaves (s : State) (e d : Nat) : Bool :=
  let a := s.f (F.STACK_PATH.ALT d)
  decide (s.f (F.STACK_PATH.PRIMARY d) = e) && s.fb (F.STACK_PATH.ALT_VALID d) && s.fb (F.ETH_STAT.LINK a) && !(decide (a = e))

/-- An entry of port `e` moves to port `a`. -/
def State.movesTo (s : State) (e a : Nat) (g : Egress) : Bool :=
  match g.device with
  | some d => s.leaves e d && decide (s.f (F.STACK_PATH.ALT d) = a)
  | none => false

/-- One held stack frame moves from port `e` to the end of the queue of `a`, its hold with it (R325, R550). -/
def State.moveFrame (s : State) (e a : Nat) (g : Egress) : State :=
  let s := s.modEth a fun y => { y with queue := y.queue ++ [g] }
  match g.fid with
  | none => s
  | some k =>
    let s := if (s.frame k).holds.any fun h => decide (h.1 = 32 + a) then s else s.holdAt (32 + a) g.tc k
    s.ethRelease e g.fid

/-- The entries of port `e` that go to port `a` move in their order (R550). -/
def State.queueToAlt (s : State) (e a : Nat) : State :=
  let mine := (s.eth e).queue.filter fun g => s.movesTo e a g
  let s := s.modEth e fun y => { y with queue := y.queue.filter fun g => !(s.movesTo e a g) }
  mine.foldl (fun st g => st.moveFrame e a g) s

/-- One frame that crosses Col to port `e` by virtual output queue `k` crosses to port `a` instead, as far as its copies go
there: ahead of every copy admitted later (R282, R325, R550). -/
def State.itemToAlt (s : State) (e a k : Nat) (x : VoqItem) : State :=
  match x.what with
  | .eth gs =>
    let go := gs.filter fun g => s.movesTo e a g
    let stay := gs.filter fun g => !(s.movesTo e a g)
    if go.isEmpty then s
    else
      let s := s.modVoq k fun q => if stay.isEmpty then q.filter fun y => !(decide (y.fid = x.fid))
        else q.map fun y => if y.fid = x.fid then { y with what := .eth stay } else y
      let s := s.modVoq (k / 160 * 160 + (32 + a) * 4 + k % 4) fun q => q ++ [{ x with what := .eth go }]
      let s := if (s.frame x.fid).holds.any fun h => decide (h.1 = 32 + a) then s else s.holdAt (32 + a) x.tc x.fid
      if stay.isEmpty then s.ethRelease e (some x.fid) else s
  | _ => s

/-- The frames that cross Col to port `e` for a device that port `a` reaches now. -/
def State.voqsToAlt (s : State) (e a : Nat) : State :=
  (s.voqs.filter fun v => decide (v.1 / 4 % 40 = 32 + e)).foldl (fun st v =>
    v.2.foldl (fun st x => st.itemToAlt e a v.1 x) st) s

/-- Every device whose primary port is `e` and whose alternative can take over: ON_ALT is set, and the frames held for it move,
in their order within a class (R550). -/
def State.allToAlt (s : State) (e : Nat) : State :=
  let ds := s.pathDevices.filter fun d => s.leaves e d
  let s := ds.foldl (fun st d =>
    if st.fb (F.STACK_PATH.ON_ALT d) then st else (st.setB (F.STACK_PATH.ON_ALT d) true).raise 874) s
  (List.range 4).foldl (fun st a => (st.queueToAlt e a).voqsToAlt e a) s

/-- ETH_LINK_DOWN (R345, R539, R550). -/
def execEthLinkDown (e : PortId) (s : State) : Host.Outcome State Fault Refusal :=
  let e := e.val
  if s.fb (F.ETH_STAT.LINK e) then
    let t := s.after (some (s.ethBase e)) (tbMs (s.f (F.FIRN_PHOLD.HOLD_MS e)))
    let s := (s.linkChange e false).setB (F.FIRN_PHOLD.HELD e) true
    .next ((s.modEth e fun y => { y with hold := some t }).allToAlt e)
  else .next s

/-- SPEED of a port whose link comes up (R539, R574): the mode's, or for SGMII what auto-negotiation reports. -/
def linkSpeed (mode speed : Nat) : Nat := if mode = 0 then 0 else if mode = 1 then 1 else max 1 speed

/-- ETH_LINK_UP (R346, R539): a hold that has run out expires first (R353). -/
def execEthLinkUp (e : PortId) (speed : BitVec 2) (s : State) : Host.Outcome State Fault Refusal :=
  let e := e.val
  if s.fb (F.ETH_STAT.ENABLED e) && !(s.fb (F.ETH_STAT.LINK e)) then
    let s := ((s.holdOut e).linkChange e true).setF (F.ETH_STAT.SPEED e) (linkSpeed (s.f (F.ETH_CFG.MODE e)) speed.toNat)
    let s := s.setB (F.FIRN_PHOLD.HELD e) false
    .next (s.modEth e fun y => { y with hold := none, holdOver := false })
  else .next s

/-! PORT_ENABLE and PORT_DISABLE (R539, R743) -/

/-- The port a command names. -/
def portOf (d : Words8) : Nat := fieldOf d.w1 0 2

/-- PORT_DISABLE takes effect: the frames go as at hold expiry, the link is down, the port is in its set-up state. -/
def State.portOff (s : State) (e : Nat) : State :=
  let s := (s.portDrain e).setB (F.ETH_STAT.ENABLED e) false
  if s.fb (F.ETH_STAT.LINK e) then (s.linkChange e false).allToAlt e else s

/-- PORT_ENABLE or PORT_DISABLE, once no earlier command is pending on the port. -/
def State.portDo (s : State) (r : AdminRef) (d : Words8) : State :=
  let e := portOf d
  if d.op = 0x52 then
    if s.fb (F.ETH_STAT.ENABLED e) then s.adminRefuse r .state else (s.setB (F.ETH_STAT.ENABLED e) true).adminDone r
  else if (s.eth e).wire.isSome then s.modEth e fun y => { y with pendDis := some (some r) }
  else (s.portOff e).adminDone r

/-- A port command: held while a PORT_DISABLE waits for the frame on the wire (R743). -/
def State.portCmd (s : State) (r : AdminRef) (d : Words8) : State :=
  if (s.eth (portOf d)).pendDis.isSome then s.withHeld (s.held ++ [⟨r.f, d⟩]) else s.portDo r d

/-- The commands held behind port `e` are judged. -/
def State.portRejudge (s : State) (e : Nat) : State :=
  let mine (h : Held) : Bool := (decide (h.d.op = 0x52) || decide (h.d.op = 0x53)) && decide (portOf h.d = e)
  (s.held.filter mine).foldl (fun st h => st.portCmd ⟨h.f, h.d.w7⟩ h.d)
    (s.withHeld (s.held.filter fun h => !(mine h)))

/-- PORT_ENABLE (R539). -/
def execPortEnable (f : Fn) (d : Words8) (s : State) : Host.Outcome State Fault Refusal :=
  adminCmd s f d 0x52 fun s r => s.portCmd r d

/-- PORT_DISABLE (R539). -/
def execPortDisable (f : Fn) (d : Words8) (s : State) : Host.Outcome State Fault Refusal :=
  adminCmd s f d 0x53 fun s r => s.portCmd r d

/-! Sending (R346, R387, R391, R480) -/

/-- The entry that port `e` sends next: the highest class first, in order within a class (R346); one whose deadline has
passed leaves by it. -/
def State.egressHead (s : State) (e : Nat) : Option (Egress × List Egress) :=
  let ok (g : Egress) : Bool := !(s.ranOut? g.deadline)
  let top := ((s.eth e).queue.filter ok).foldl (fun m g => max m g.tc) 0
  takeFirst (fun (g : Egress) => ok g && decide (g.tc = top)) (s.eth e).queue

/-- The bytes an entry goes out with, without the FCS. -/
def State.egressBytes (s : State) (e : Nat) : EgKind → List Byte × State
  | .desc x => (pad60 (x.data.getD []), s)
  | .stack x => (s.stackBytes e x, s)
  | .relay _ _ bs => (pad60 bs, s)
  | .ptp bs ingress port event => s.ptpSend e bs ingress port event
  | .sync _ bs => (pad60 bs, s)
  | .delayReq _ bs => (pad60 bs, s)
  | .other bs => (pad60 bs, s)

/-- An entry whose frame holds a poisoned word goes (R353, log 14). -/
def State.egressPoisoned (s : State) (e : Nat) (g : Egress) : State :=
  let s := s.satAdd F.FIRN_DROPSTAT.ECC_DROP 1
  let s := match g.kind with | .desc x => s.ethCpl x .aborted g.attempts none | _ => s
  s.ethRelease e g.fid

/-- ETH_TX_START (R387): the port begins a frame; its SFD is taken in the same step (log 26). -/
def execEthTxStart (e : PortId) (s : State) : Host.Outcome State Fault Refusal :=
  let e := e.val
  if s.fb (F.ETH_STAT.ENABLED e) && s.fb (F.ETH_STAT.LINK e) && (s.eth e).wire.isNone then
    match s.egressHead e with
    | none => .next s
    | some (g, rest) =>
      let s := s.modEth e fun y => { y with queue := rest }
      if (g.fid.map s.framePoisoned).getD false then .next (s.egressPoisoned e g)
      else
        let g := { g with attempts := g.attempts + 1 }
        let b := s.egressBytes e g.kind
        let t := s.ethStamp e (s.readVal (s.ethBase e)) true
        .next (b.2.modEth e fun y => { y with wire := some ⟨g, t, b.1⟩ })
  else .next s

/-- Status of a sent descriptor (R199, R387). -/
def wireStatus : Mark → Status
  | .cancel => .doneCancelLate
  | .abort => .doneAbortLate
  | _ => .done

/-- The frame on the wire of port `e` has ended (R391, R301), and a PORT_DISABLE that waited commits (R539). -/
def State.wireEnd (s : State) (e : Nat) (w : OnWire) : State :=
  let colour := ((w.eg.fid.map s.frame).getD {}).colour
  let s := (s.modEth e fun y => { y with wire := none }).morEth true e w.stamp w.bytes colour w.eg.tc
  let s := match w.eg.kind with
    | .desc x => s.ethCpl x (wireStatus w.eg.mark) w.eg.attempts (some w.stamp)
    | _ => s
  let s := s.ethRelease e w.eg.fid
  match (s.eth e).pendDis with
  | some r => (((s.modEth e fun y => { y with pendDis := none }).portOff e).adminDone? r).portRejudge e
  | none => s

/-! Receiving (R540, R483) -/

/-- The frame may go to a CQ (R540). -/
def State.ethRxWanted (s : State) (e : Nat) (bs : List Byte) : Bool :=
  s.fb (F.ETH_CFG.RX_EN e) &&
    (decide (beAt bs 0 6 = s.stackMac s.devId) || (byteAt bs 0 % 2 == 1 && s.fb (F.ETH_CFG.MCAST e)) ||
      s.fb (F.ETH_CFG.PROMISC e))

/-- Ports that the transparent clock forwards the frame to (R483). -/
def State.ptpPorts (s : State) (e : Nat) (bs : List Byte) : List Nat :=
  match ptpAt bs with
  | some p =>
    if s.timeDist && s.fb (F.TB_TCCFG.TC_EN e) && ptpForwards bs p then
      (List.range 4).filter fun i => !(decide (i = e)) && decide (s.f (F.TB_TCCFG.FWD e) / 2 ^ i % 2 = 1)
    else []
  | none => []

/-- The ETH_RX item of a frame (R392). -/
def ethItem (fid e : Nat) (t : Stamp) (bs : List Byte) (gen now seq : Nat) : RxItem :=
  { fid := fid, eth := true, bus := e, laneB := false, w1 := 0, w2 := BitVec.ofNat 32 (bs.length % 16384), af := 0,
    stamp := t, xl := false, inl := false, data := bs, gen := gen, at_ := now, seq := seq }

/-- Drops of an Ethernet frame's copies as Moraine sees them (R508). -/
def ethDropRec (e : Nat) (bs : List Byte) (len colour : Nat) (s : State) (o : OutReq) (kind q : Nat) : State :=
  s.morDrop (32 + e) o.port kind q (ethDropHdr bs colour o.tc) len

/-- Admit a received frame, metered to `colour`, for the ports it is forwarded to and for its CQ, and queue it (R331, R483,
R486, R540). -/
def State.ethAdmit (s : State) (e : Nat) (fr : EthFrame) (t : Stamp) (colour : Nat) (ports : List Nat)
    (cq : Option (Nat × Nat × Nat)) : State :=
  let bs := fr.bytes
  let outs := ports.map (fun i => ({ port := 32 + i, tc := s.f (F.TB_TCCFG.CLASS e), ptp := true } : OutReq)) ++
    (cq.map fun c => ({ port := 36 + c.2.1, tc := 2, cqs := [c.1] } : OutReq)).toList
  let r := s.takeIn outs colour bs.length bs
  let got := match r.1 with | some x => x.2 | none => []
  let s := r.2.admissionRecs s (ethDropRec e bs bs.length colour) (cellsFor bs.length) outs got
  let seq := s.nextValid
  let s := s.withNextValid (seq + 1)
  match r.1 with
  | none => s
  | some (fid, got) =>
    let event := match ptpAt bs with | some p => decide (ptpType bs p < 2) | none => false
    got.foldl (fun st o =>
      if o.port < 36 then
        let g : Egress := { tc := o.tc, fid := some fid, deadline := none, mark := .none, attempts := 0,
                            kind := .ptp bs fr.lt e event }
        st.enqueue (32 + e) o.port o.tc fid (.eth [g])
      else st.enqueue (32 + e) o.port o.tc fid (.rings (o.cqs.map fun q =>
        (q, ethItem fid e t bs ((cq.map fun c => c.2.2).getD 0) s.now seq)))) s

/-- A frame with a bad FCS counts, whatever it holds (R574). -/
def State.ethBadFcs (s : State) (e : Nat) : State := s.satAdd (F.ETH_STAT.RX_BADFCS e) 1

/-- The port takes a frame of this length from the wire. -/
def State.ethTakes (s : State) (e : Nat) (fr : EthFrame) : Bool :=
  s.fb (F.ETH_STAT.ENABLED e) && s.fb (F.ETH_STAT.LINK e) && decide (14 ≤ fr.bytes.length) && decide (fr.bytes.length ≤ 9614)

/-- A frame that is no stack frame (R480, R483, R539, R540): the port's policer meters it (R334), Moraine may record it, and it
goes to the ports it is forwarded to and to the CQ of the port. One for a CQ that no function has is dropped (log 29). -/
def State.ethRx (s : State) (e : Nat) (fr : EthFrame) : State :=
  let bs := fr.bytes
  let t := s.ethStamp e fr.sfd false
  let m := s.ingressMeter (128 + e) 0 bs.length
  let ports := s.ptpPorts e bs
  let q := s.f (F.ETH_CFG.RX_CQ e)
  let want := s.ethRxWanted e bs
  let home := if want then s.cqHome q else none
  let tc := if home.isSome then 2 else if ports.isEmpty then 0 else s.f (F.TB_TCCFG.CLASS e)
  let s := m.2.morEth false e t bs m.1 tc
  let s := if !want then s.satAdd (F.ETH_STAT.RX_FILT e) 1 else if home.isNone then s.deletedDrop q else s
  if ports.isEmpty && home.isNone then s else s.ethAdmit e fr t m.1 ports (home.map fun h => (q, h))

/-- ETH_FRAME_RX (R480, R483, R539, R540, R574): a frame that is no stack frame, or one with a bad FCS. -/
def execEthFrameRx (e : PortId) (fr : EthFrame) (s : State) : Host.Outcome State Fault Refusal :=
  let e := e.val
  if !(s.ethTakes e fr) then .next s
  else if !fr.fcsOk then .next (s.ethBadFcs e)
  else if s.isStackFrame e fr.bytes then .next s
  else .next (s.ethRx e fr)

end Sys2Proof.Machine
end

