-- ==== Sys2Proof/Machine/Flr.lean ====
section
/-! DEFINITION. The reset of a host function (09 R404 to R407), its link, and the move of the core voltage that it may end. -/
namespace Sys2Proof.Machine

/-! Function reset (R404, R407) -/

/-- FLR_DROPPED counts. -/
def State.flrDropped (s : State) (f n : Nat) : State := s.satAdd (F.HOST_FUNCCNT.FLR_DROPPED f) n

/-- Step 3 for one entry of a transmit order: removed and counted, or left to end on the wire with its completion
discarded. The spec gives no status to an attempt that fails there: it is not tried again and ends ABORTED (log 114). -/
def State.flrEntry (s : State) (f b : Nat) (e : Entry) : State :=
  match e.src with
  | .desc _ g _ _ =>
    if g = f ∧ e.done = false then
      if e.inFlight then s.modEntry b e.id fun x => { x.keepFlight with src := .dead, mark := if x.mark = .none then .abort else x.mark }
      else (s.dropEntry b e).flrDropped f 1
    else s
  | _ => s

/-- Step 3 in the quads. -/
def State.flrBuses (s : State) (f : Nat) : State :=
  s.buses.foldl (fun st o => o.2.foldl (fun st e => st.flrEntry f o.1 e) st) s

/-- An Ethernet entry of a descriptor of function `f`. -/
def Egress.ofFn (g : Egress) (f : Nat) : Bool :=
  match g.kind with
  | .desc x => decide (x.f = f)
  | _ => false

/-- Step 3 at an Ethernet port. -/
def State.flrEth (s : State) (f e : Nat) : State :=
  let s := s.ethDropWhere e (fun g => g.ofFn f) fun st _ => st.flrDropped f 1
  let bare (w : OnWire) : OnWire := if w.eg.ofFn f then { w with eg := { w.eg with kind := .other w.bytes } } else w
  s.modEth e fun y => { y with wire := y.wire.map bare }

/-- Step 3. -/
def State.flrEntries (s : State) (f : Nat) : State :=
  let gone := s.fetched.filter fun x => decide (x.f = f)
  let s := gone.foldl (fun st x => st.uncross x) (s.withFetched (s.fetched.filter fun x => !(decide (x.f = f))))
  let s := (s.flrDropped f gone.length).flrBuses f
  (List.range 4).foldl (fun st e => st.flrEth f e) s

/-- A command of function `f`. -/
def AdminRef.isOf (r : Option AdminRef) (f : Nat) : Bool := (r.map AdminRef.f) == some f

/-- Step 4: a lane command of `f` that waits for a frame's end. -/
def State.flrLanes (s : State) (f : Nat) : State :=
  (List.range 128).foldl (fun st l =>
    match (st.lane l).pend with
    | some p => if AdminRef.isOf p.ref f then (st.modLane l fun x => { x with pend := none }).laneRejudge l else st
    | none => st) s

/-- Step 4: a FLT_LOAD of `f`. Where its transfer has not ended, the shadow half holds what the transfer left. -/
def State.flrLoads (s : State) (f : Nat) : State :=
  (List.range 128).foldl (fun st b =>
    match st.flt b with
    | some x =>
      if AdminRef.isOf x.ref f then
        let st := if x.transferred || x.broken then st
          else st.smearElems (st.halfBase b (1 - st.f (F.LANE_FLTCFG.ACTIVE_HALF b))) (64 * (st.f (F.LANE_FLTCFG.FBLOCKS b) + 1))
        st.setFlt b none
      else st
    | none => st) s

/-- The target voltage of a mode is sent (R685 step 2, R709): as VOUT_COMMAND with VCTRL 0, on VID[5:0] with VCTRL 1. -/
def State.sendVolt (s : State) (mode : Nat) : State :=
  let s := s.setF F.PWR_STAT.TARGET mode
  if s.fb F.PWR_CTRL.VCTRL then
    let v := if mode = 0 then 0 else if mode = 1 then s.f F.PWR_LEVEL.VID_BAL else s.f F.PWR_LEVEL.VID_SURGE
    s.withPower { s.power with vid := v }
  else
    let v := if mode = 0 then s.f F.PWR_LEVEL.VOUT_ECO else if mode = 1 then s.f F.PWR_LEVEL.VOUT_BAL
      else s.f F.PWR_LEVEL.VOUT_SURGE
    s.withPower { s.power with vout := v }

/-- The move of function `f` is abandoned: the target of MODE is sent again, and MODE keeps its value (log 25). -/
def State.moveDrop (s : State) (f : Nat) : State :=
  match s.power.move with
  | some m =>
    if AdminRef.isOf m.ref f then
      if m.stepDown then s.withPower { s.power with move := some { m with ref := none, clamps := 0 } }
      else ((s.withPower { s.power with move := none }).setB F.PWR_STAT.MOVING false).sendVolt (s.f F.PWR_STAT.MODE)
    else s
  | none => s

/-- Step 4: RT_LOAD, POL_LOAD, DUMP, EPOCH_COMMIT, IMAGE_LOAD, PORT_DISABLE and POWER_MODE of `f` that have not
committed. MODE keeps its value where a POWER_MODE is abandoned (R685 step 4, log 25). -/
def State.flrBlocks (s : State) (f : Nat) : State :=
  let mine (r : AdminRef) : Bool := decide (r.f = f)
  let s := (s.withRtLoad (s.rtLoad.filter fun x => !(mine x.ref))).withPolLoad (s.polLoad.filter fun x => !(mine x.ref))
  let s := s.withMor { s.mor with dump := s.mor.dump.filter fun x => !(mine x.1) }
  let s := s.withStack { s.stack with cmd := s.stack.cmd.filter fun x => !(mine x.ref) }
  let s := s.withBoot { s.boot with image := s.boot.image.filter fun x => !(mine x.ref) }
  let s := s.moveDrop f
  (List.range 4).foldl (fun st e => st.modEth e fun y =>
    match y.pendDis with
    | some r => if AdminRef.isOf r f then { y with pendDis := none } else y
    | none => y) s

/-- Step 4: the commands held behind a PORT_DISABLE that has been abandoned are judged (R743). -/
def State.flrPorts (s : State) (f : Nat) : State :=
  let freed (e : Nat) : Bool := match (s.eth e).pendDis with | some r => AdminRef.isOf r f | none => false
  ((List.range 4).filter freed).foldl (fun st e => st.portRejudge e) (s.flrBlocks f)

/-- Step 5. -/
def State.flrLocks (s : State) (f : Nat) : State :=
  s.objs.foldl (fun st o =>
    match o.2.lock with
    | some k => if k.f = f then st.objLockEnd (o.1 / 1024) (o.1 % 1024) else st
    | none => st) s

/-- Step 7. -/
def State.flrRings (s : State) (f : Nat) : State :=
  (List.range 128).foldl (fun st n =>
    let st := if (st.sq n).owner = some f then (st.setSq n {}).sqRejudge n else st
    let c := st.cq n
    if c.owner = some f then
      st.setCq n { orphan := some f, bufsz := c.bufsz, held := c.held, drops := c.drops, gen := c.gen, lastDel := c.lastDel }
    else st) s

/-- Offsets of the host function block of `f` that step 8 returns to reset: HOST_CTRL, HOST_ASQ, HOST_ACQ, HOST_CLAMP
and the MSI-X table. -/
def hostRegs (f : Nat) : List Nat :=
  ([0, 8, 12, 16, 20, 24].map (0x90000 + f * 0x10000 + ·)) ++ ((List.range 64).map fun k => 0x98000 + f * 0x10000 + 4 * k)

/-- Step 8, and what the reset means to the other function and to Moraine (R522). PARTNER_ENABLED of a block shows
the other function's ENABLED. -/
def State.flrBlock (s : State) (f : Nat) : State :=
  let s := (s.setFunc f { link := (s.func f).link }).resetRegs (hostRegs f)
  let s := s.setB (F.HOST_CTRL.PARTNER_ENABLED f) (s.fb (F.HOST_CTRL.ENABLED (1 - f)))
  let s := (s.setB (F.HOST_CTRL.PARTNER_ENABLED (1 - f)) false).wrapInc (F.HOST_FUNCCNT.RESETS f)
  let s := if s.f F.MOR_CTRL.HFUNC = f then s.setB F.MOR_STAT.HOST_LOST true else s
  s.raise (1022 + f)

/-- The reset of function `f` (R404): its steps are one command here. -/
def State.funcReset (s : State) (f : Nat) : State :=
  let s := s.withHeld (s.held.filter fun h => !(decide (h.f = f)))
  let s := (((s.flrEntries f).flrLanes f).flrLoads f).flrPorts f
  (((s.flrLocks f).cirqueFlr f).flrRings f).flrBlock f

/-- FLR (R404). -/
def execFlr (f : Fn) (s : State) : Host.Outcome State Fault Refusal := .next (s.funcReset f.val)

/-- FUNC_LINK_LOSS (R404): the link of `f` is lost, or its PERST# asserted. -/
def execFuncLinkLoss (f : Fn) (s : State) : Host.Outcome State Fault Refusal :=
  .next ((s.modFunc f.val fun x => { x with link := false }).funcReset f.val)

/-- PCIE_LINK_UP (R369). -/
def execPcieLinkUp (f : Fn) (s : State) : Host.Outcome State Fault Refusal :=
  if s.boot.mainOn then .next (s.modFunc f.val fun x => { x with link := true }) else .next s

end Sys2Proof.Machine
end

