-- ==== Sys2Proof/Machine/Stack.lean ====
section
/-! DEFINITION. The stack (13): service-engine frames and their admission, checks, acceptance and relay, roles and
heartbeat, route epochs. -/
namespace Sys2Proof.Machine

/-- Change the stack block. -/
def State.modStack (s : State) (g : Stack → Stack) : State := s.withStack (g s.stack)

/-! Service-engine traffic (R331) -/

/-- The bytes of an entry that lie in Firn: of a stack frame its payload (log 28). -/
def EgKind.payload : EgKind → List Byte
  | .desc x => x.data.getD []
  | .stack x => x.payload
  | .relay _ _ bs => bs.drop (typeOff bs + 26)
  | .ptp bs _ _ _ => bs
  | .sync _ bs => bs
  | .delayReq _ bs => bs
  | .other bs => bs

/-- Col port that a piece of work waits for. -/
def SeWait.port : SeWait → Nat
  | .frame e _ _ => 32 + e
  | .stage .. => 39

/-- Bytes of a record as host memory holds it (R303, R543). -/
def rec4Bytes (r : Rec4) : List Byte := wordsBytes [r.w0, r.w1, r.w2, r.w3]

/-- Class and bytes of it; control frames and staging are of class TC3 (R558, log 34). -/
def SeWait.tc : SeWait → Nat
  | .frame _ g _ => g.tc
  | .stage .. => 3
def SeWait.bytes : SeWait → List Byte
  | .frame _ g _ => g.kind.payload
  | .stage _ _ _ rs => rs.flatMap rec4Bytes

/-- Put run entries behind those staged. -/
def stageRun (group : Bool) (first : Nat) (rs : List Rec4) : List (Bool × Nat × Rec4) :=
  (rs.zipIdx first).map fun x => (group, x.2, x.1)

/-- The port that a piece of work is for takes nothing more: its hold has expired (R347). -/
def State.seShut (s : State) (w : SeWait) : Bool :=
  match w with
  | .frame e _ _ => (s.eth e).holdOver
  | .stage .. => false

/-- Admit a piece of work that fits: a frame enters the queue from P39 towards its port (R281, R282); what is staged crosses
to P39 and is held there (log 34). For a port whose hold has expired it is dropped at admission (R347). -/
def State.seAdmit (s : State) (w : SeWait) : State :=
  match w with
  | .frame e g _ =>
    if (s.eth e).holdOver then s.satAdd (F.FIRN_PHOLD.PH_DROP e) 1
    else
      let a := s.admitWaiting w.port w.tc w.bytes
      a.2.enqueue 39 (32 + e) w.tc a.1 (.eth [{ g with fid := some a.1 }])
  | .stage ep group first rs =>
    let a := s.admitWaiting w.port w.tc w.bytes
    let s := a.2.enqueue 39 39 w.tc a.1 (.engine true)
    if ep = s.stack.stagedEpoch then
      s.modStack fun x => { x with staged := x.staged ++ stageRun group first rs, stagedFids := x.stagedFids ++ [a.1] }
    else s.releaseAt 39 a.1

/-- A piece of work is admitted at once, or waits behind the earlier ones of its output. -/
def State.seOffer (s : State) (w : SeWait) : State :=
  let fits := !(s.seWait.any fun x => decide (x.port = w.port)) && s.fitsWaiting w.port w.tc (cellsFor w.bytes.length)
  if s.seShut w || fits then s.seAdmit w else s.withSeWait (s.seWait ++ [w])

/-- WAITING_ADMISSION_GRANT (R331): the first that waits at the output for its source and fits. -/
def execWaitingAdmissionGrant (p : ColPort) (s : State) : Host.Outcome State Fault Refusal :=
  let p := p.val
  let here (x : Fetched) : Bool := x.data.isSome && x.fid.isNone && decide (x.port = p)
  let first (x : Fetched) : Bool := (s.fetched.find? fun y => here y && decide (y.f = x.f)) == some x
  match takeFirst (fun (x : Fetched) => here x && first x && s.fitsWaiting p 2 (cellsFor (x.data.getD []).length)) s.fetched with
  | some (x, rest) => .next ((s.withFetched rest).descAdmit x (x.data.getD []))
  | none =>
    match takeFirst (fun (w : SeWait) => decide (w.port = p)) s.seWait with
    | some (w, rest) =>
      if s.seShut w || s.fitsWaiting p w.tc (cellsFor w.bytes.length) then .next ((s.withSeWait rest).seAdmit w)
      else .next s
    | none => .next s

/-- Send an entry of a service engine on port `e`. -/
def State.seSend (s : State) (e tc : Nat) (k : EgKind) : State :=
  let g : Egress := { tc := tc, fid := none, deadline := none, mark := .none, attempts := 0, kind := k }
  s.seOffer (.frame e g k.payload.length)

/-- A control frame of this device (R542). -/
def State.control (s : State) (all : Bool) (dst ty : Nat) (payload : List Byte) : StackOut × State :=
  let q := s.nextSeq
  ({ dst := dst * 128, all := all, ty := ty, master := s.actingMaster, src := s.devId * 128, tc := 3, colour := 0,
     hop := s.f F.STACK_CFG.HOP_INIT, seq := q.1, epoch := s.f F.STACK_STATE.EPOCH, payload := payload }, q.2)

/-- Send a control frame to device `d` on the port its path selects; nothing is sent where there is none. -/
def State.sendTo (s : State) (d ty : Nat) (payload : List Byte) : State :=
  let p := s.pathPort d
  match p.1 with
  | some e => let x := p.2.control false d ty payload; x.2.seSend e 3 (.stack x.1)
  | none => p.2

/-- Send a control frame to every device, on every port with STACK_EN 1. -/
def State.sendAll (s : State) (ty : Nat) (payload : List Byte) : State :=
  let x := s.control true 0 ty payload
  ((List.range 4).filter fun e => s.fb (F.STACK_PORTCFG.STACK_EN e)).foldl (fun st e => st.seSend e 3 (.stack x.1)) x.2

/-! Received frames (R542, R547, R551) -/

/-- A header as received, and the payload. -/
structure StackIn where
  ver : Nat
  ty : Nat
  src : Nat
  all : Bool
  dst : Nat
  tc : Nat
  colour : Nat
  hop : Nat
  len : Nat
  seq : Nat
  epoch : Nat
  room : Nat
  payload : List Byte
deriving DecidableEq, Repr

/-- Read the header of a frame (R541, R542). -/
def stackParse (bs : List Byte) : StackIn :=
  let h := typeOff bs + 2
  let len := be16At bs (h + 10)
  { ver := byteAt bs h / 16, ty := byteAt bs h % 16, src := beAt bs (h + 2) 3 % 2097152,
    all := decide (128 ≤ byteAt bs (h + 5)), dst := beAt bs (h + 5) 3 % 2097152, tc := byteAt bs (h + 8) / 64,
    colour := min 2 (byteAt bs (h + 8) / 16 % 4), hop := byteAt bs (h + 9), len := len, seq := beAt bs (h + 12) 4,
    epoch := beAt bs (h + 16) 4, room := bs.length - (h + 24), payload := (bs.drop (h + 24)).take len }

/-- LENGTH agrees with the frame: a frame that Ethernet padded may be longer (log 28). -/
def lengthFits (bs : List Byte) (x : StackIn) : Bool :=
  decide (x.len = x.room) || (decide (x.len < x.room) && decide (bs.length ≤ 60))

/-- LENGTH agrees with the payload's own fields (R543, R544). -/
def lengthAgrees (x : StackIn) : Bool :=
  match x.ty with
  | 1 => decide (x.len = 20 + be16At x.payload 4 % 4096)
  | 2 => decide (x.len = 8)
  | 3 =>
    let n := be16At x.payload 10
    decide (x.len = 12 + 16 * n) && decide (1 ≤ n) && decide (n ≤ 128)
  | 4 => decide (x.len = 18)
  | 5 => decide (x.len = 5)
  | 6 => decide (x.len = 8)
  | _ => decide (x.len = 4)

/-- Format of a bus frame record, if its FORMAT and LEN are ones it can have (R544, R551). -/
def recordFormat (p : List Byte) : Option Format :=
  match Format.ofCode (byteAt p 0 / 32) with
  | some f =>
    let n := be16At p 4 % 4096
    if (if f.classical then 8 else if f = .xl then 2048 else 64) < n then none else some f
  | none => none

/-- The frame is for this device (R547). -/
def State.forMe (s : State) (x : StackIn) : Bool := x.all || decide (devOf x.dst = s.devId)

/-- The device may send ALL frames and the master's types (R551). -/
def State.mayLead (s : State) (d : Nat) : Bool :=
  decide (d = s.f F.STACK_ID.MASTER_ID) || decide (d = s.f F.STACK_ID.BACKUP_ID)

/-- The first rule of R551 that a frame breaks, PATH and the relay's own HOP_LIMIT apart. -/
def State.stackFault (s : State) (bs : List Byte) (x : StackIn) : Option Nat :=
  if x.ver ≠ 1 then some 1
  else if x.ty = 0 ∨ 8 ≤ x.ty then some 2
  else if !(lengthFits bs x && lengthAgrees x) then some 3
  else if x.hop = 0 then some 4
  else if devOf x.src = s.devId then some 5
  else if x.ty = 1 ∧ s.forMe x = true ∧ s.isBus (x.dst % 128) = false then some 6
  else if x.ty = 1 ∧ recordFormat x.payload = none then some 7
  else if (x.all || (x.ty == 2) || (x.ty == 3) || (x.ty == 4) || (x.ty == 7)) && !(s.mayLead (devOf x.src)) then some 8
  else none

/-- A NAK answers the causes that R551 names (R551, R552). -/
def nakDueFor (cause : Nat) : Bool := (cause == 1) || (cause == 2) || (cause == 3) || (cause == 6) || (cause == 7) || (cause == 8)

/-- Send a NAK, at most one in 100 µs (R552); none leaves where no path leads to the device (R546). -/
def State.nak (s : State) (x : StackIn) (cause : Nat) : State :=
  if x.ty = 6 ∨ nakDueFor cause = false then s
  else
    let free := match s.stack.nakDue with | some t => s.ranOut t | none => true
    if free then
      let t := s.after none (100 * ltUs)
      let p : List Byte := [BitVec.ofNat 8 cause, BitVec.ofNat 8 x.ty, 0, 0] ++ beBytes 4 x.seq
      let k := s.pathPort (devOf x.src)
      match k.1 with
      | some _ =>
        ((k.2.modStack fun y => { y with nakDue := some t }).satAdd F.STACK_CNT.NAK_SENT 1).sendTo (devOf x.src) 6 p
      | none => k.2
    else s.satAdd F.STACK_CNT.NAK_SUPPRESSED 1

/-- A violation is logged and answered (R551, R571). -/
def State.stackViolation (s : State) (e : Nat) (x : StackIn) (cause : Nat) : State :=
  let i := s.f F.STACK_VLOGSTAT.HEAD
  let n := s.f F.STACK_VLOGSTAT.COUNT
  let t := s.nowStamp 0
  let s := (s.setF (F.STACK_VLOG.SEQ i) x.seq).setF (F.STACK_VLOG.TYPE i) x.ty
  let s := (s.setF (F.STACK_VLOG.CAUSE i) cause).setF (F.STACK_VLOG.PORT i) e
  let s := s.setF (F.STACK_VLOG.SRC_DEV i) (devOf x.src)
  let s := (s.setReg (0x80100 + 16 * i) t.secWord).setReg (0x80104 + 16 * i) t.nsWord
  let s := (s.setF F.STACK_VLOGSTAT.HEAD ((i + 1) % 16)).setF F.STACK_VLOGSTAT.COUNT (min 16 (n + 1))
  let s := if n = 16 then s.satAdd F.STACK_VLOGSTAT.LOST 1 else s
  let s := if cause = 4 then s.satAdd F.STACK_CNT.HOP_DROP 1 else s
  (s.raise 868).nak x cause

/-! Relay (R548, R549) -/

/-- The frame as a relay sends it: RELAYED set, one hop less. -/
def relayBytes (bs : List Byte) : List Byte :=
  let h := typeOff bs + 2
  let b1 : Byte := BitVec.ofNat 8 (byteAt bs (h + 1)) ||| 1
  putAt (putAt bs (h + 1) [b1]) (h + 9) [BitVec.ofNat 8 (byteAt bs (h + 9) - 1)]

/-- A received stack frame is offered to ports and, with `mine`, to the service engines at P39 in class TC3, as one frame whose
outputs are judged in order; the copies that are admitted cross Col (R281, R282, R331, R332, R549). The Bool: the one for the
service engines is. -/
def State.stackCopiesTo (s : State) (e : Nat) (bs : List Byte) (x : StackIn) (colour : Nat) (ports : List Nat) (mine : Bool) :
    Bool × State :=
  let outs := ports.map (fun i => ({ port := 32 + i, tc := x.tc } : OutReq)) ++
    if mine then [({ port := 39, tc := 3 } : OutReq)] else []
  let r := s.takeIn outs colour x.len x.payload
  let got := match r.1 with | some y => y.2 | none => []
  let s := r.2.admissionRecs s (ethDropRec e bs x.len colour) (cellsFor x.len) outs got
  match r.1 with
  | none => (false, s)
  | some (fid, got) =>
    let s := if got.any fun o => decide (o.port < 36) then s.satAdd F.STACK_CNT.RELAYED 1 else s
    let g : Egress := { tc := x.tc, fid := some fid, deadline := none, mark := .none, attempts := 0,
                        kind := .relay x.dst x.all (relayBytes bs) }
    (got.any fun o => decide (o.port = 39),
     got.foldl (fun st o => st.enqueue (32 + e) o.port o.tc fid (if o.port < 36 then .eth [g] else .engine false)) s)

/-- Relay a frame for another device (R548). -/
def State.relayOne (s : State) (e : Nat) (bs : List Byte) (x : StackIn) (colour : Nat) : State :=
  if x.hop = 1 then s.stackViolation e x 4
  else
    let p := s.pathPort (devOf x.dst)
    match p.1 with
    | some i =>
      if i = e ∨ p.2.fb (F.STACK_PORTCFG.RELAY i) = false ∨ p.2.fb (F.STACK_PORTCFG.RELAY e) = false then
        p.2.stackViolation e x 9
      else (p.2.stackCopiesTo e bs x colour [i] false).2
    | none => p.2.stackViolation e x 9

/-- Ports on which a frame for all devices is relayed (R549). -/
def State.relayPorts (s : State) (e : Nat) : List Nat :=
  (List.range 4).filter fun i => !(decide (i = e)) && s.fb (F.STACK_PORTCFG.STACK_EN i) && s.fb (F.STACK_PORTCFG.RELAY i)

/-- HB_MISS × HB_INTERVAL and HB_INTERVAL, in lt (R553, R565). -/
def State.hbInterval (s : State) : Nat := s.f F.STACK_CFG.HB_INTERVAL * ltUs
def State.hbMiss (s : State) : Nat := s.f F.STACK_CFG.HB_MISS * s.hbInterval

/-- `a` is later than `b` modulo 2^32. -/
def seqLater (a b : Nat) : Bool :=
  let d := (a + 4294967296 - b) % 4294967296
  decide (0 < d) && decide (d < 2147483648)

/-- A broadcast of the master or the backup is accepted unless its SEQ is not later than the last (R549). -/
def State.acceptAll (s : State) (x : StackIn) : Bool × State :=
  let m := decide (devOf x.src = s.f F.STACK_ID.MASTER_ID)
  let kept := if m then s.stack.keptM else s.stack.keptB
  let ok := match kept with | some k => seqLater x.seq k.1 | none => true
  if ok then
    let k := some (x.seq, s.after none s.hbMiss)
    (true, s.modStack fun y => if m then { y with keptM := k } else { y with keptB := k })
  else (false, s)

/-- A frame is accepted, and relayed to `ports`: DATA goes on to its bus, a control frame to the service engines, which act on
it where its copy is admitted (log 32). -/
def State.stackAccept (s : State) (e : Nat) (bs : List Byte) (x : StackIn) (colour : Nat) (ports : List Nat)
    (act : State → StackIn → Nat → State) : State :=
  if x.ty = 1 then
    let s := act s x colour
    if ports.isEmpty then s else (s.stackCopiesTo e bs x colour ports false).2
  else
    let k := s.stackCopiesTo e bs x colour ports true
    if k.1 then act k.2 x colour else k.2

/-- A stack frame that passes the checks is accepted and relayed (R547 to R549). -/
def State.stackTake (s : State) (e : Nat) (bs : List Byte) (x : StackIn) (colour : Nat)
    (act : State → StackIn → Nat → State) : State :=
  if x.all then
    let k := s.acceptAll x
    let ports := k.2.relayPorts e
    if !k.1 then k.2
    else if x.hop = 1 ∧ ports.isEmpty = false then (k.2.stackAccept e bs x colour [] act).stackViolation e x 4
    else k.2.stackAccept e bs x colour ports act
  else if s.forMe x then s.stackAccept e bs x colour [] act
  else s.relayOne e bs x colour

/-- A stack frame is checked, accepted and relayed (R547 to R549, R551); `act` carries out one that is accepted. Every
frame that passes the check meets the port's policer (R334); Moraine may record each (R508). -/
def State.stackRx (s : State) (e : Nat) (fr : EthFrame) (act : State → StackIn → Nat → State) : State :=
  let bs := fr.bytes
  let x := stackParse bs
  let t := s.ethStamp e fr.sfd false
  if !s.stack.started then s.morEth false e t bs 0 0
  else
    match s.stackFault bs x with
    | some c => (s.morEth false e t bs 0 0).stackViolation e x c
    | none =>
      let m := s.ingressMeter (128 + e) x.colour x.len
      (m.2.morEth false e t bs m.1 x.tc).stackTake e bs x m.1 act

/-- A stack frame of some types has arrived at port `e`. -/
def stackFrame (e : PortId) (fr : EthFrame) (ty : Nat → Bool) (s : State) (act : State → StackIn → Nat → State) :
    Host.Outcome State Fault Refusal :=
  let e := e.val
  if s.ethTakes e fr && s.isStackFrame e fr.bytes && ty (stackParse fr.bytes).ty then
    .next (if fr.fcsOk then s.stackRx e fr act else s.ethBadFcs e)
  else .next s

/-! DATA -/

/-- The bus frame and the SOF stamp of a record (R544). -/
def recordFrame (p : List Byte) (f : Format) : Frame × Stamp :=
  let o := be16At p 4
  let n := o % 4096
  let len := if f.fd then fdSize n else n
  let xl := decide (f = .xl)
  let rtr := f.classical && decide (o / 8192 % 2 = 1)
  ({ fmt := f, id := BitVec.ofNat 29 (f.idMask (beAt p 0 4 % 536870912)), rtr := rtr,
     brs := f.fd && decide (o / 16384 % 2 = 1), esi := decide (o / 4096 % 2 = 1), sec := xl && decide (32768 ≤ o),
     sdt := if xl then p.getD 6 0 else 0, vcid := if xl then p.getD 7 0 else 0,
     af := if xl then BitVec.ofNat 32 (beAt p 8 4) else 0, len := len,
     data := if rtr then [] else bytesFrom ((p.drop 20).take n) 0 len }, ⟨beAt p 12 4, beAt p 16 4⟩)

/-- An accepted DATA frame enters Firn and goes to the logical bus it names (R547). -/
def State.stackDataIn (s : State) (e : Nat) (x : StackIn) (colour : Nat) : State :=
  match recordFormat x.payload with
  | none => s
  | some f =>
    let r := recordFrame x.payload f
    let fr := r.1
    let b := x.dst % 128
    let outs : List OutReq := [{ port := b / 4, tc := x.tc }]
    let a := s.takeIn outs colour fr.bytes (fr.data.take fr.bytes)
    let got := match a.1 with | some y => y.2 | none => []
    let put (st : State) (o : OutReq) (kind q : Nat) : State :=
      st.morDrop (32 + e) o.port kind q (busDropHdr fr colour o.tc) fr.bytes
    let s := a.2.admissionRecs s put (cellsFor fr.bytes) outs got
    match a.1 with
    | some (fid, _) => s.enqueue (32 + e) (b / 4) x.tc fid (.buses [b] fr r.2)
    | none => s

/-- STACK_DATA_RX (R547, R551): DATA, and the types that R543 calls malformed. -/
def execStackDataRx (e : PortId) (fr : EthFrame) (s : State) : Host.Outcome State Fault Refusal :=
  stackFrame e fr (fun t => (t == 1) || (t == 0) || decide (8 ≤ t)) s fun s x c => s.stackDataIn e.val x c

/-! Roles and heartbeat (R553 to R556, R560) -/

/-- A role takes force (R556): a change raises source 864. -/
def State.setRole (s : State) (role : Nat) (standby : Bool) : State :=
  if s.f F.STACK_STATE.ROLE = role ∧ s.fb F.STACK_STATE.STANDBY = standby then s
  else ((s.setF F.STACK_STATE.ROLE role).setB F.STACK_STATE.STANDBY standby).raise 864

/-- A heartbeat of this device (R543, R553, R555). -/
def State.heartbeat (s : State) : State :=
  let b4 := (s.f F.STACK_STATE.ROLE == 3).toNat + 2 * (s.fb F.STACK_STATE.STANDBY).toNat
  s.sendAll 2 (beBytes 4 (s.f F.STACK_STATE.EPOCH) ++ [BitVec.ofNat 8 b4, 0, 0, 0])

/-- Send a heartbeat now and every HB_INTERVAL. -/
def State.heartbeatStart (s : State) : State :=
  let t := s.after none s.hbInterval
  (s.modStack fun y => { y with hbDue := some t }).heartbeat

/-- Become the acting master: heartbeats, and SE1's Syncs where TIME_EN is set (R553, R555, R561). -/
def State.lead (s : State) (role : Nat) : State :=
  let t := s.after none 0
  ((s.setRole role false).modStack fun y => { y with missDue := none, syncDue := some t, good := 0 }).heartbeatStart

/-- HEARTBEAT_TIMER (R553). -/
def execHeartbeatTimer (s : State) : Host.Outcome State Fault Refusal :=
  match s.stack.hbDue with
  | some t =>
    if s.ranOut t then
      .next ((s.modStack fun y => { y with hbDue := some { t with due := t.due + s.hbInterval } }).heartbeat)
    else .next s
  | none => .next s

/-- MASTER_LISTEN_END (R553): MASTER, or STANDBY where a promoted heartbeat was heard. -/
def execMasterListenEnd (s : State) : Host.Outcome State Fault Refusal :=
  match s.stack.listenDue with
  | some t =>
    if s.ranOut t then
      let s := s.modStack fun y => { y with listenDue := none }
      if s.stack.promotedHeard then
        .next (s.setRole 1 true).heartbeatStart
      else .next (s.lead 1)
    else .next s
  | none => .next s

/-- MASTER_LOST (R554, R555): a heartbeat of the lt in which the miss time ends is accepted first, whatever the order of the
commands (R563). -/
def execMasterLost (s : State) : Host.Outcome State Fault Refusal :=
  match s.stack.missDue with
  | some t =>
    if s.overrun t then
      let s := s.modStack fun y => { y with missDue := none }
      let s := ((s.setB F.STACK_STATE.MASTER_LOST true).satAdd F.STACK_CNT.HB_MISSED 1).raise 865
      .next (if s.f F.STACK_STATE.ROLE = 2 then s.lead 3 else s)
    else .next s
  | none => .next s

/-- BROADCAST_SEQ_FORGET (R549). -/
def execBroadcastSeqForget (backup : Bool) (s : State) : Host.Outcome State Fault Refusal :=
  match if backup then s.stack.keptB else s.stack.keptM with
  | some k =>
    if s.ranOut k.2 then .next (s.modStack fun y => if backup then { y with keptB := none } else { y with keptM := none })
    else .next s
  | none => .next s

/-- What an accepted heartbeat does (R553, R554, R556, R560). The configured master, while it leads, takes itself as the
current master, as every device does (R554). -/
def State.heartbeatIn (s : State) (x : StackIn) : State :=
  let d := devOf x.src
  let master := decide (d = s.f F.STACK_ID.MASTER_ID)
  let promoted := decide (byteAt x.payload 4 % 2 = 1)
  let standby := decide (byteAt x.payload 4 / 2 % 2 = 1)
  let t := s.after none s.hbMiss
  let s := if promoted && s.stack.listenDue.isSome then s.modStack fun y => { y with promotedHeard := true } else s
  let s := if master then s.modStack fun y => { y with masterStandby := standby } else s
  let heard := match s.stack.masterDue with | some m => !(s.ranOut m) | none => false
  let lead := decide (s.f F.STACK_STATE.ROLE = 1) && !(s.fb F.STACK_STATE.STANDBY)
  let s :=
    if standby then s
    else
      let s := if master then s.modStack fun y => { y with masterDue := some t } else s
      let s := if lead then s.setF F.STACK_STATE.CUR_MASTER (s.f F.STACK_ID.MASTER_ID)
        else if master || !heard then s.setF F.STACK_STATE.CUR_MASTER d else s
      if s.actingMaster then s else s.modStack fun y => { y with missDue := some t }
  let s :=
    if s.f F.STACK_STATE.ROLE = 3 ∧ master = true ∧ standby = false then
      (s.setRole 2 false).modStack fun y => { y with hbDue := none, syncDue := none, missDue := some t }
    else s
  if beAt x.payload 0 4 = s.f F.STACK_STATE.EPOCH then s else (s.setB F.STACK_STATE.EPOCH_BEHIND true).raise 867

/-- HEARTBEAT_RX (R554, R560). -/
def execHeartbeatRx (e : PortId) (fr : EthFrame) (s : State) : Host.Outcome State Fault Refusal :=
  stackFrame e fr (fun t => t == 2) s fun s x _ => s.heartbeatIn x

/-- HANDOVER_RX (R556): the epoch that the frame carries is the one it goes on from. -/
def execHandoverRx (e : PortId) (fr : EthFrame) (s : State) : Host.Outcome State Fault Refusal :=
  stackFrame e fr (fun t => t == 7) s fun s x _ =>
    if s.f F.STACK_STATE.ROLE = 1 ∧ s.fb F.STACK_STATE.STANDBY = true then
      (s.setF F.STACK_STATE.EPOCH (beAt x.payload 0 4)).lead 1
    else s

/-- NAK_RX (R552). -/
def execNakRx (e : PortId) (fr : EthFrame) (s : State) : Host.Outcome State Fault Refusal :=
  stackFrame e fr (fun t => t == 6) s fun s _ _ => (s.satAdd F.STACK_CNT.NAK_RCVD 1).raise 869

/-- HANDOVER (R556, R557). -/
def execHandover (f : Fn) (d : Words8) (s : State) : Host.Outcome State Fault Refusal :=
  adminSub s f d 0x57 2 fun s r =>
    if s.f F.STACK_STATE.ROLE = 3 ∧ s.stack.masterStandby = true then
      (s.sendTo (s.f F.STACK_ID.MASTER_ID) 7 (beBytes 4 (s.f F.STACK_STATE.EPOCH))).adminDone r
    else s.adminRefuse r .state

/-- STACK_STATUS (R557): codes 4 to 15 are clamped to 3. -/
def execStackStatus (f : Fn) (d : Words8) (s : State) : Host.Outcome State Fault Refusal :=
  let code := fieldOf d.w1 0 4
  if 3 ≤ code then
    adminCmd s f d 0x57 fun s r =>
      let s := if code = 3 then s else s.clamp r.f 1
      s.adminCpl r .done 0 (s.reg 0x80010) (s.reg 0x80014) (BitVec.ofNat 32 (s.f F.STACK_CNT.HB_MISSED)) 0 0
  else .next s

/-! Start and stop (R538) -/

/-- BLOCK_START of the stack is refused. -/
def State.stackRefused (s : State) : Bool :=
  let id := s.devId
  let m := s.f F.STACK_ID.MASTER_ID
  let b := s.f F.STACK_ID.BACKUP_ID
  let r := s.f F.STACK_ID.STRAP_ROLE
  decide (m = b) || (decide (r = 1) && !(decide (id = m))) || (decide (r = 2) && !(decide (id = b))) ||
    ((decide (r = 0) || decide (r = 3)) && (decide (id = m) || decide (id = b)))

/-- The block starts in its strap's role (R553). -/
def State.stackStart (s : State) : State :=
  let t := s.after none s.hbMiss
  let r := s.f F.STACK_ID.STRAP_ROLE
  let s := s.modStack fun y => { y with started := true, promotedHeard := false }
  if r = 1 then s.modStack fun y => { y with listenDue := some t }
  else (s.setRole (if r = 2 then 2 else 0) false).modStack fun y => { y with missDue := some t }

/-- BLOCK_START_STACK (R538). A block that runs goes on. -/
def execBlockStartStack (f : Fn) (d : Words8) (s : State) : Host.Outcome State Fault Refusal :=
  blockCmd s f d 0x54 2 fun s r =>
    if s.stackRefused then s.adminRefuse r .state
    else (if s.stack.started then s else s.stackStart).adminDone r

/-- An egress entry is a stack frame. -/
def Egress.isStack (g : Egress) : Bool :=
  match g.kind with
  | .stack _ | .relay .. => true
  | _ => false

/-- Staged entries are discarded. -/
def State.unstage (s : State) : State :=
  let fids := s.stack.stagedFids
  fids.foldl (fun st k => st.releaseAt 39 k) (s.modStack fun y => { y with staged := [], stagedFids := [] })

/-- BLOCK_STOP: queued and held stack frames are freed as at hold expiry, and the block is in its set-up state. -/
def State.stackStop (s : State) : State :=
  let s := (List.range 4).foldl (fun st e =>
    let gone := (st.eth e).queue.filter Egress.isStack
    let st := st.modEth e fun y => { y with queue := y.queue.filter fun g => !g.isStack }
    gone.foldl (fun st g => st.ethFree e g) st) s
  let s := s.withSeWait (s.seWait.filter fun w => match w with | .frame _ g _ => !g.isStack | .stage .. => false)
  let s := s.unstage.setRole 0 false
  s.modStack fun y => { seq := y.seq, cmd := y.cmd, nakDue := y.nakDue, stagedEpoch := y.stagedEpoch }

/-- BLOCK_STOP_STACK (R538). -/
def execBlockStopStack (f : Fn) (d : Words8) (s : State) : Host.Outcome State Fault Refusal :=
  blockCmd s f d 0x55 2 fun s r => s.stackStop.adminDone r

/-! Route epochs (R557 to R560) -/

/-- A run for an epoch is staged (R558): a later epoch discards what is staged, an earlier one is not staged (log 33);
SE0 stages (R681). -/
def State.stage (s : State) (epoch : Nat) (group : Bool) (first : Nat) (recs : List Rec4) : State :=
  if !(s.engUp 32) || decide (epoch < s.stack.stagedEpoch) then s
  else
    let s := if epoch = s.stack.stagedEpoch then s else s.unstage.modStack fun y => { y with stagedEpoch := epoch }
    s.seOffer (.stage epoch group first recs)

/-- Records of 16 bytes. -/
def recsOf (bs : List Byte) : Nat → List Rec4
  | 0 => []
  | n + 1 =>
    let w (k : Nat) : Word := payWord bs k
    ⟨w 0, w 1, w 2, w 3⟩ :: recsOf (bs.drop 16) n

/-- ROUTE_PUSH_RX (R543, R558). -/
def execRoutePushRx (e : PortId) (fr : EthFrame) (s : State) : Host.Outcome State Fault Refusal :=
  stackFrame e fr (fun t => t == 3) s fun s x _ =>
    let p := x.payload
    s.stage (beAt p 0 4) (byteAt p 4 % 2 == 1) (be16At p 8) (recsOf (p.drop 12) (be16At p 10))

/-- The payload of a ROUTE_PUSH frame (R543). -/
def pushPayload (epoch : Nat) (group : Bool) (first : Nat) (rs : List Rec4) : List Byte :=
  beBytes 4 epoch ++ [BitVec.ofNat 8 group.toNat, 0, 0, 0] ++ beBytes 2 first ++ beBytes 2 rs.length ++ rs.flatMap rec4Bytes

/-- Send a run in frames of up to 128 entries, at most `fuel` of them (R558). -/
def State.pushFrames (s : State) (all : Bool) (dev epoch : Nat) (group : Bool) (first : Nat) (rs : List Rec4) : Nat → State
  | 0 => s
  | fuel + 1 =>
    if rs.isEmpty then s
    else
      let p := pushPayload epoch group first (rs.take 128)
      let s := if all then s.sendAll 3 p else s.sendTo dev 3 p
      s.pushFrames all dev epoch group (first + 128) (rs.drop 128) fuel

/-- Entries pushed to a device for the epoch (R559). -/
def Stack.pushedTo (y : Stack) (d : Nat) : Nat := y.pushedAll + Tab.get (fun _ => 0) y.pushed d

/-- ROUTE_PUSH of a run (R557, R558). -/
def State.routePush (s : State) (r : AdminRef) (d : Words8) (recs : List Rec4) (clamps : Nat) : State :=
  let dev := fieldOf d.w2 0 14
  let all := d.w2.getLsbD 14
  let group := d.w2.getLsbD 15
  let first := fieldOf d.w2 16 16
  let n := recs.length
  let epoch := d.w6.toNat
  let y := if epoch = s.stack.pushEpoch then s.stack else { s.stack with pushEpoch := epoch, pushedAll := 0, pushed := [] }
  let most := if all then y.pushed.foldl (fun m e => max m (y.pushedTo e.1)) y.pushedAll else y.pushedTo dev
  if !s.actingMaster then s.adminRefuse r .state
  else if (if group then 4096 else 65536) < first + n ∨ 16384 < most + n then s.adminRefuse r .range
  else
    let y := if all then { y with pushedAll := y.pushedAll + n }
      else { y with pushed := Tab.put (fun _ => 0) y.pushed dev (Tab.get (fun _ => 0) y.pushed dev + n) }
    let s := (s.withStack y).clamp r.f clamps
    let s := if all || decide (dev = s.devId) then s.stage epoch group first recs else s
    let s := if all || !(decide (dev = s.devId)) then s.pushFrames all dev epoch group first recs 32 else s
    s.adminDone r

/-- ROUTE_PUSH (R558): `recs` is what the read of host memory delivered. -/
def execRoutePush (f : Fn) (d : Words8) (recs : List Rec4) (s : State) : Host.Outcome State Fault Refusal :=
  let c := clampTo 1 4096 (fieldOf d.w5 0 13)
  if recs.length = c.1 then adminSub s f d 0x57 0 fun s r => s.routePush r d recs c.2 else .next s

/-- Time A as a value of TB0. -/
def activationAt (sec ns : Nat) : Nat := sec * secUnit + ns * nsUnit

/-- Answer a commit: an EPOCH_ACK to the master, or the device's own entry in its command (R559). -/
def State.epochAnswer (s : State) (epoch : Nat) (ok : Bool) (dst : Option Nat) : State :=
  match dst with
  | some d => s.sendTo d 5 (beBytes 4 epoch ++ [if ok then 0 else 1])
  | none =>
    s.modStack fun y => { y with cmd := y.cmd.map fun c =>
                            if c.epoch = epoch then
                              (if ok then { c with applied := c.applied ++ [s.devId] }
                               else { c with incomplete := c.incomplete ++ [s.devId] })
                            else c }

/-- A commit has reached this device (R559). -/
def State.commitTake (s : State) (epoch count sec ns : Nat) (src : Option Nat) : State :=
  let n := if s.stack.stagedEpoch = epoch then s.stack.staged.length else 0
  if n = count then s.modStack fun y => { y with act := some ⟨epoch, count, sec, ns, src⟩ }
  else (s.unstage.raise 867).epochAnswer epoch false src

/-- EPOCH_COMMIT_RX (R559). -/
def execEpochCommitRx (e : PortId) (fr : EthFrame) (s : State) : Host.Outcome State Fault Refusal :=
  stackFrame e fr (fun t => t == 4) s fun s x _ =>
    let p := x.payload
    s.commitTake (beAt p 0 4) (beAt p 4 4) (beAt p 8 6) (beAt p 14 4) (some (devOf x.src))

/-- The staged entries take effect in their order, as one commit (R304, R305, R559). -/
def State.applyStaged (s : State) : State :=
  s.stack.staged.foldl (fun st x => (st.routeSet x.1 x.2.1 x.2.2).1) s

/-- EPOCH_ACTIVATION (R559, R563; SE0, R681): TB0 has reached A. -/
def execEpochActivation (s : State) : Host.Outcome State Fault Refusal :=
  match s.stack.act with
  | some a =>
    if activationAt a.sec a.ns ≤ s.baseVal 0 ∧ s.engUp 32 = true then
      let s := if s.stack.stagedEpoch = a.epoch then s.applyStaged.unstage else s
      let s := (s.modStack fun y => { y with act := none }).setF F.STACK_STATE.EPOCH a.epoch
      .next ((s.raise 866).epochAnswer a.epoch true a.from_)
    else .next s
  | none => .next s

/-- EPOCH_ACK_RX (R559). -/
def execEpochAckRx (e : PortId) (fr : EthFrame) (s : State) : Host.Outcome State Fault Refusal :=
  stackFrame e fr (fun t => t == 5) s fun s x _ =>
    let d := devOf x.src
    let ok := decide (byteAt x.payload 4 = 0)
    let note (c : EpochCmd) : EpochCmd :=
      if c.epoch = beAt x.payload 0 4 ∧ c.addressees.contains d = true ∧ (c.applied ++ c.incomplete).contains d = false then
        (if ok then { c with applied := c.applied ++ [d] } else { c with incomplete := c.incomplete ++ [d] })
      else c
    s.modStack fun y => { y with cmd := y.cmd.map note }

/-- The other devices that a path reaches (R559). -/
def State.reachable (s : State) : List Nat :=
  s.pathDevices.filter fun d => s.fb (F.STACK_PATH.VALID d) && !(decide (d = s.devId))

/-- EPOCH_COMMIT takes effect (R557, R559): A is TB0 plus the lead, in whole nanoseconds. -/
def State.epochCommit (s : State) (r : AdminRef) (d : Words8) : State :=
  let epoch := d.w2.toNat
  let lead := clampTo 100 100000 d.w3.toNat
  if !s.actingMaster || decide (epoch ≤ s.f F.STACK_STATE.EPOCH) then s.adminRefuse r .state
  else if s.stack.cmd.isSome then s.adminBusy r
  else
    let a := stampOf (s.baseVal 0 + tbUs lead.1)
    let ds := s.reachable
    let count (s : State) (k : Nat) : Nat := if s.stack.pushEpoch = epoch then s.stack.pushedTo k else 0
    let due := activationAt a.sec a.ns + s.hbMiss / ltUs * tbUs 1
    let s := (s.modStack fun y => { y with cmd := some ⟨r, epoch, due, s.devId :: ds, [], []⟩ }).clamp r.f lead.2
    let s := s.commitTake epoch (count s s.devId) a.sec a.ns none
    ds.foldl (fun st k => st.sendTo k 4 (beBytes 4 epoch ++ beBytes 4 (count st k) ++ beBytes 6 a.sec ++ beBytes 4 a.ns)) s

/-- EPOCH_COMMIT (R559). -/
def execEpochCommit (f : Fn) (d : Words8) (s : State) : Host.Outcome State Fault Refusal :=
  adminSub s f d 0x57 1 fun s r => s.epochCommit r d

/-- EPOCH_COMMIT_DONE (R559): devices applied, incomplete and silent. -/
def execEpochCommitDone (s : State) : Host.Outcome State Fault Refusal :=
  match s.stack.cmd with
  | some c =>
    if c.due ≤ s.baseVal 0 then
      let n (k : Nat) : Word := BitVec.ofNat 32 k
      .next ((s.modStack fun y => { y with cmd := none }).adminCpl c.ref .done 0 (n c.applied.length) (n c.incomplete.length)
        (n (c.addressees.length - c.applied.length - c.incomplete.length)) 0 0)
    else .next s
  | none => .next s

end Sys2Proof.Machine
end

