-- ==== Sys2Proof/Machine/Sync.lean ====
section
/-! DEFINITION. Stack time (13 R561; 11 R481): the messages of SE1, its servo, and the end of a frame on an Ethernet port.
The bytes that IEEE 1588-2019 gives the messages, not the spec, are log 31. -/
namespace Sys2Proof.Machine

/-! Messages (log 31) -/

/-- A PTP message of SE1 on port `e`: type, flags, sequence number, control, interval, and what follows the header. Its
clock identity is a free value (log 31). -/
def State.ptpMsg (s : State) (e ty flags seq control interval : Nat) (body : List Byte) : List Byte × State :=
  let a := s.drawWord
  let b := a.2.drawWord
  let head : List Byte := [BitVec.ofNat 8 ty, 0x12] ++ beBytes 2 (34 + body.length) ++
    [BitVec.ofNat 8 (s.f F.STACK_TIMECFG.DOMAIN), 0] ++ beBytes 2 flags ++ beBytes 8 0 ++ beBytes 4 0 ++
    beBytes 4 a.1.toNat ++ beBytes 4 b.1.toNat ++ beBytes 2 (e + 1) ++ beBytes 2 seq ++
    [BitVec.ofNat 8 control, BitVec.ofNat 8 interval]
  (beBytes 6 0x011B19000000 ++ beBytes 6 (s.stackMac s.devId) ++ beBytes 2 0x88F7 ++ head ++ body, b.2)

/-- The time stamp of a message: 48 bits of seconds, 32 of nanoseconds. -/
def ptpTime (t : Stamp) : List Byte := beBytes 6 t.sec ++ beBytes 4 t.ns

/-! The master's side -/

/-- Lane clock ticks between Syncs: 2^-SYNC_INT s (R561). -/
def State.syncPeriod (s : State) : Nat := 1000 * ltMs / 2 ^ min 7 (s.f F.STACK_TIMECFG.SYNC_INT)

/-- A two-step Sync on port `e`; originTimestamp 0 (R481). -/
def State.syncOn (s : State) (seq e : Nat) : State :=
  let m := s.ptpMsg e 0 0x0200 seq 0 (256 - s.f F.STACK_TIMECFG.SYNC_INT) (beBytes 10 0)
  m.2.seSend e 3 (.sync seq m.1)

/-- SYNC_TX_TIMER (R561). -/
def execSyncTxTimer (s : State) : Host.Outcome State Fault Refusal :=
  match s.stack.syncDue with
  | some t =>
    if s.ranOut t && s.engUp 33 && s.stack.started && s.fb F.STACK_TIMECFG.TIME_EN && s.actingMaster then
      let q := s.stack.syncSeq
      let s := s.modStack fun y => { y with syncDue := some { t with due := t.due + s.syncPeriod }, syncSeq := (q + 1) % 65536 }
      .next (((List.range 4).filter fun e => s.fb (F.STACK_PORTCFG.STACK_EN e)).foldl (fun st e => st.syncOn q e) s)
    else .next s
  | none => .next s

/-- The Follow_Up of a Sync that left port `e` at stamp `t` (R481). -/
def State.followUp (s : State) (e seq : Nat) (t : Stamp) : State :=
  let m := s.ptpMsg e 8 0 seq 2 (256 - s.f F.STACK_TIMECFG.SYNC_INT) (ptpTime t)
  m.2.seSend e 3 (.other m.1)

/-- A stamp in 2^-16 ns: a base value moved by the port's correction. -/
def State.stamp16 (s : State) (e v : Nat) (tx : Bool) : Int := (corrected v (s.ethCorr e tx) : Int) / 256

/-- ETH_FRAME_TX_END (R387, R391, R539, R561). -/
def execEthFrameTxEnd (e : PortId) (s : State) : Host.Outcome State Fault Refusal :=
  let e := e.val
  match (s.eth e).wire with
  | some w =>
    let s := s.wireEnd e w
    match w.eg.kind with
    | .sync seq _ => .next (if s.stack.started && s.actingMaster && s.engUp 33 then s.followUp e seq w.stamp else s)
    | .delayReq seq _ =>
      if seq = s.stack.reqSeq then
        .next (s.modStack fun y => { y with reqOut := some (((w.stamp.sec * 1000000000 + w.stamp.ns) * 65536 : Nat) : Int) })
      else .next s
    | _ => .next s
  | none => .next s

/-- SE1's copy of a PTP message received on port `e` is offered to P39 in class TC3, a dropping admission with the colour to which
the port's policer has metered the frame, and crosses Col (R281, R282, R331). SE1 acts on one that is admitted, at once (log
32). -/
def State.ptpIn (s : State) (e : Nat) (x : PtpIn) (act : State → State) : State :=
  let outs : List OutReq := [{ port := 39, tc := 3 }]
  let n := x.bytes.length
  let r := s.takeIn outs x.colour.toNat n x.bytes
  match r.1 with
  | some y => act (r.2.enqueue (32 + e) 39 3 y.1 (.engine false))
  | none => r.2.admissionRecs s (ethDropRec e x.bytes n x.colour.toNat) (cellsFor n) outs []

/-- The port of a PTP message of stack time is up and the service runs, SE1 with it (R681). -/
def State.timeRuns (s : State) (e : Nat) : Bool :=
  s.engUp 33 && s.stack.started && s.fb F.STACK_TIMECFG.TIME_EN && s.fb (F.ETH_STAT.ENABLED e) && s.fb (F.ETH_STAT.LINK e)

/-- DELAY_REQ_RX (R481, R561): `src` is the requesting port's identity, `ingress` TB0 at the SFD. -/
def execDelayReqRx (e : PortId) (src : Nat) (x : PtpIn) (ingress : Nat) (s : State) : Host.Outcome State Fault Refusal :=
  let e := e.val
  if s.timeRuns e && s.actingMaster then
    .next (s.ptpIn e x fun s =>
      let m := s.ptpMsg e 9 0 x.seq 3 0x7F (ptpTime (s.ethStamp e ingress false) ++ beBytes 10 src)
      m.2.seSend e 3 (.other m.1))
  else .next s

/-! The member's side -/

/-- The port that STACK_PATH selects for the current master (R561). -/
def State.masterPort (s : State) : Option Nat :=
  let d := s.f F.STACK_STATE.CUR_MASTER
  if s.fb (F.STACK_PATH.VALID d) then
    some (if s.fb (F.STACK_PATH.ON_ALT d) then s.f (F.STACK_PATH.ALT d) else s.f (F.STACK_PATH.PRIMARY d))
  else none

/-- SYNC_RX (R561): the Sync is taken, and a Delay_Req goes out on the port (log 36). `ingress`: TB0 at the SFD. -/
def execSyncRx (e : PortId) (x : PtpIn) (ingress : Nat) (s : State) : Host.Outcome State Fault Refusal :=
  let e := e.val
  if s.timeRuns e && !s.actingMaster && decide (s.masterPort = some e) then
    .next (s.ptpIn e x fun s =>
      let q := (s.stack.reqSeq + 1) % 65536
      let t := s.stamp16 e ingress false
      let s := s.modStack fun y => { y with syncIn := some (x.seq, t), diff := none, reqSeq := q, reqOut := none }
      let m := s.ptpMsg e 1 0 q 1 0x7F (beBytes 10 0)
      m.2.seSend e 3 (.delayReq q m.1))
  else .next s

/-- Nearest whole nanoseconds of 2^-16 ns. -/
def ns16 (v : Int) : Int := (v + 32768) / 65536

/-- A TB_INCR that the servo sets: a free value in the range of R462 (log 36). -/
def State.servoRate (s : State) : State :=
  let w := s.drawWord
  w.2.setF (F.TB_INCR.INCR 0) (52323943 + w.1.toNat % 209715)

/-- Discipline TB0 by offset `o` in 2^-16 ns (R466, R470 to R473, R561). -/
def State.servo (s : State) (o : Int) : State :=
  let good := if o.natAbs ≤ 200 * 65536 then min 8 (s.stack.good + 1) else 0
  let s := (s.modStack fun y => { y with good := good }).setB F.STACK_TIMECFG.LOCKED (decide (8 ≤ good))
  if o.natAbs ≤ 1000 * 65536 then
    let v := s.f (F.TB_SLEW.RATE 0) * 2 ^ 32 + unsigned 32 (-(ns16 o))
    let s := s.servoRate
    if ns16 o = 0 then s else s.slewWrite (.engine 33) 0 (BitVec.ofNat 64 v)
  else
    let r := s.judgeStep 0 (-(ns16 o)) false
    if r.2.1 then r.1.servoRate else r.1

/-- FOLLOW_UP_RX (R561): `origin` in ns, `corr` in 2^-16 ns, both messages' corrections together. -/
def execFollowUpRx (e : PortId) (x : PtpIn) (origin : Nat) (corr : Int) (s : State) : Host.Outcome State Fault Refusal :=
  let e := e.val
  if s.timeRuns e && !s.actingMaster && decide (s.masterPort = some e) then
    .next (s.ptpIn e x fun s =>
      match s.stack.syncIn with
      | some (q, t) =>
        if q = x.seq then
          let d := t - ((origin * 65536 : Nat) : Int) - corr
          (s.modStack fun y => { y with syncIn := none, diff := some d }).servo (d - s.stack.delay)
        else s
      | none => s)
  else .next s

/-- DELAY_RESP_RX (R561): end-to-end delay, half the sum of both ways; `recv` in ns. -/
def execDelayRespRx (e : PortId) (x : PtpIn) (recv : Nat) (s : State) : Host.Outcome State Fault Refusal :=
  if s.timeRuns e.val && !s.actingMaster then
    .next (s.ptpIn e.val x fun s =>
      match s.stack.diff, s.stack.reqOut with
      | some d, some t =>
        if s.stack.reqSeq = x.seq then
          s.modStack fun y => { y with delay := (d + (((recv * 65536 : Nat) : Int) - t)) / 2, reqOut := none }
        else s
      | _, _ => s)
  else .next s

end Sys2Proof.Machine
end

