-- ==== Sys2Proof/Machine/Power.lean ====
section
/-! DEFINITION. Power modes and junction temperature (16 R685 to R688, 01 R33 to R37). -/
namespace Sys2Proof.Machine

/-- A signed 9-bit temperature (R710). -/
def degC (v : Nat) : Int := signed 9 v

/-- The junction temperature is measured: TJ, and TJ_MAX as the highest, which the first measurement after a reset sets
(R710). -/
def State.noteTj (s : State) (tj : BitVec 9) : State :=
  let first := !s.power.tjSeen
  let s := (s.setF F.PWR_STAT.TJ tj.toNat).withPower { s.power with tjSeen := true }
  if first || decide (degC (s.f F.PWR_STAT.TJ_MAX) < degC tj.toNat) then s.setF F.PWR_STAT.TJ_MAX tj.toNat else s

/-- A move `m` towards `mode` starts: the target is sent and SETTLE_US runs (R685 steps 2 and 3). -/
def State.moveStart (s : State) (m : Move) (mode : Nat) : State :=
  let s := (s.sendVolt mode).setB F.PWR_STAT.MOVING true
  s.withPower { s.power with move := some { m with settle := s.now + s.f F.PWR_CTRL.SETTLE_US * ltUs } }

/-- The move ends. -/
def State.moveEnd (s : State) : State := (s.withPower { s.power with move := none }).setB F.PWR_STAT.MOVING false

/-- Complete REFUSED for the command if one waits. -/
def State.adminRefuse? (s : State) (r : Option AdminRef) (c : Cause) : State :=
  match r with
  | some r => s.adminRefuse r c
  | none => s

/-- POWER_MODE (R685, R36, R8): code 3 is taken as SURGE with a clamp, which counts where the command completes DONE. A
request for SURGE above TJ_STEP - 10 °C is refused before anything else is judged, also right after a step-down that has
not taken MODE out of SURGE yet (R37). -/
def execPowerMode (f : Fn) (d : Words8) (s : State) : Host.Outcome State Fault Refusal :=
  adminCmd s f d 0x50 fun s r =>
    let c := clampTo 0 2 (fieldOf d.w1 0 2)
    if c.1 = 2 ∧ (s.f F.PWR_CTRL.TJ_STEP : Int) - 10 < degC (s.f F.PWR_STAT.TJ) then s.adminRefuse r .thermal
    else if s.f F.PWR_STAT.MODE = c.1 then (s.clamp f.val c.2).adminDone r
    else if s.power.move.isSome then s.adminBusy r
    else s.moveStart { ref := some r, settle := 0, clamps := c.2 } c.1

/-- POWER_MODE_SETTLE_END (R685 step 4, R687): MODE takes the target; 887, or 892 for a thermal step-down. A move that
TJ reversed ends REFUSED with MODE as it was. -/
def execPowerModeSettleEnd (s : State) : Host.Outcome State Fault Refusal :=
  match s.power.move with
  | none => .next s
  | some m =>
    if s.now < m.settle then .next s
    else
      let s := s.moveEnd
      if m.back then .next (s.adminRefuse? m.ref .thermal)
      else
        let s := s.setF F.PWR_STAT.MODE (s.f F.PWR_STAT.TARGET)
        let s := if m.stepDown then (s.setB F.PWR_STAT.STEPPED_DOWN true).raise 892 else s
        match m.ref with
        | some r => .next (((s.raise 887).clamp r.f m.clamps).adminDone r)
        | none => .next s

/-- The voltage cannot be reached (R686): VFAULT, source 889, the previous target again, the command REFUSED. -/
def State.moveFault (s : State) (m : Move) : State :=
  let s := (s.moveEnd.setB F.PWR_STAT.VFAULT true).raise 889
  (s.sendVolt (s.f F.PWR_STAT.MODE)).adminRefuse? m.ref .state

/-- PMBUS_WRITE_NACK (R686): with VCTRL 0, the write is repeated up to twice more. -/
def execPmbusWriteNack (s : State) : Host.Outcome State Fault Refusal :=
  match s.power.move with
  | none => .next s
  | some m =>
    if s.fb F.PWR_CTRL.VCTRL then .next s
    else if m.nacks < 2 then .next (s.withPower { s.power with move := some { m with nacks := m.nacks + 1 } })
    else .next (s.moveFault m)

/-- PWR_GOOD_FALL_DURING_MOVE (R686). -/
def execPwrGoodFallDuringMove (s : State) : Host.Outcome State Fault Refusal :=
  match s.power.move with
  | none => .next s
  | some m => .next ((s.moveFault m).setLevel 25 false)

/-- THERMAL_STEP_DOWN (R34, R687): TJ has reached TJ_STEP. In SURGE the device moves to BALANCED; a move out of SURGE that
runs already serves as the step-down (log 93); a move towards SURGE is reversed. -/
def execThermalStepDown (tj : BitVec 9) (s : State) : Host.Outcome State Fault Refusal :=
  if (s.f F.PWR_CTRL.TJ_STEP : Int) ≤ degC tj.toNat then
    let s := s.noteTj tj
    match s.power.move with
    | some m =>
      if s.f F.PWR_STAT.TARGET = 2 ∧ m.back = false then
        .next (s.moveStart { m with nacks := 0, back := true } (s.f F.PWR_STAT.MODE))
      else if s.f F.PWR_STAT.MODE = 2 then .next (s.withPower { s.power with move := some { m with stepDown := true } })
      else .next s
    | none =>
      if s.f F.PWR_STAT.MODE = 2 then .next (s.moveStart { ref := none, settle := 0, stepDown := true } 1) else .next s
  else .next s

/-- TJ_ALARM_CROSS (R688): TJ rises through TJ_ALARM. -/
def execTjAlarmCross (tj : BitVec 9) (s : State) : Host.Outcome State Fault Refusal :=
  if (s.f F.PWR_CTRL.TJ_ALARM : Int) ≤ degC tj.toNat then
    let s := s.noteTj tj
    if s.power.alarmed then .next s else .next ((s.withPower { s.power with alarmed := true }).raise 888)
  else .next s

/-- TJ_ALARM_REARM (R688): TJ is below TJ_ALARM - 5 °C. -/
def execTjAlarmRearm (tj : BitVec 9) (s : State) : Host.Outcome State Fault Refusal :=
  if degC tj.toNat < (s.f F.PWR_CTRL.TJ_ALARM : Int) - 5 then
    .next ((s.noteTj tj).withPower { s.power with alarmed := false })
  else .next s

end Sys2Proof.Machine
end

