-- ==== Sys2Proof/Machine/Snow.lean ====
section
/-! DEFINITION. Snowline: watched inputs, the RTC alarm and the wake sequence (10 R440 to R460, 16 R693). -/
namespace Sys2Proof.Machine

/-- Update Snowline. -/
def State.modSnow (s : State) (g : Snow → Snow) : State := s.withSnow (g s.snow)

/-- The main domain does not run: PWR_EN_N is high, or the wake sequence runs. Only then do the lane discriminators and the
PERST# watch act (R446, R449); in steps 1 to 3 of R691 the main domain still runs (log 100). -/
def State.asleep (s : State) : Bool := !(decide (s.snow.phase = .main)) && !(decide (s.snow.phase = .powerDown))

/-- Armed and not running: a watched event counts (R441). -/
def State.watching (s : State) : Bool := s.asleep && s.fb F.SNOW_CTRL.ARMED

/-- FIRST is to name cause `bit`: no cause bit is set, or FIRST was recorded in this same instant and names a higher one
(R448 step 1, R450). -/
def State.firstCause (s : State) (bit : Nat) : Bool :=
  decide (bitsOf (s.reg 0xC0008) 0 26 = 0) || (decide (s.snow.firstAt = some s.now) && decide (bit < s.f F.SNOW_CAUSE.FIRST))

/-- A cause bit is set, and FIRST where it is to name it (R448 step 1, R450, R455). -/
def State.wakeCause (s : State) (bit : Nat) : State :=
  let s := if s.firstCause bit then (s.setF F.SNOW_CAUSE.FIRST bit).modSnow fun x => { x with firstAt := some s.now } else s
  s.setReg 0xC0008 (putBits (s.reg 0xC0008) bit 1 1)

/-- PWR_EN_N goes low and PG_TIMEOUT runs (R448 steps 2 and 3). -/
def State.powerEnable (s : State) : State :=
  s.modSnow fun x => { x with phase := .waitPg, due := s.now + s.f F.SNOW_SEQ.PG_TIMEOUT * ltMs, wakeWaits := false }

/-- PWR_EN_N is high: the main rails are off, or being turned off (R448, R449, R718). -/
def State.pwrEnN (s : State) : Bool := decide (s.snow.phase = .standby) || decide (s.snow.phase = .holdOff)

/-- The main rails are in range: the cells of the VAON I/O are powered. Otherwise the outputs of the SPI boot interface and the
PMBus pins are high impedance (R718). -/
def State.vaonCells (s : State) : Bool := !s.pwrEnN && !(decide (s.snow.phase = .waitPg))

/-- What the VID pins show: high impedance (none) while their cells are unpowered (R685, R709, R718). -/
def State.vidPins (s : State) : Option Nat := if s.vaonCells then some s.power.vid else none

/-- A watched event starts the wake sequence from standby, or once the power-down has ended (R449, R450); during steps 2
to 5 it starts no second one. -/
def State.wake (s : State) : State :=
  match s.snow.phase with
  | .standby => (s.modSnow fun x => { x with woken := true }).powerEnable
  | .powerDown => s.modSnow fun x => { x with wakeWaits := true, woken := true }
  | .holdOff => s.modSnow fun x => { x with wakeWaits := true, woken := true }
  | _ => s

/-- A watched event with its cause bit: it wakes the device. -/
def State.watched (s : State) (bit : Nat) : State := (s.wakeCause bit).wake

/-- A watched input that acts in standby and while the main domain runs, where it raises its source (R446); while the rails
are being turned off it does both, and the wake waits (R450, log 100). -/
def State.watchedPin (s : State) (en : Bool) (bit src : Nat) : State :=
  if !en then s
  else if s.asleep then (if s.watching then s.watched bit else s)
  else
    let t := (s.wakeCause bit).raiseIf (s.fb F.GLB_BOOT.BOOT_DONE) src
    if s.fb F.SNOW_CTRL.ARMED then t.wake else t

/-! Watched lanes -/

/-- LCODE of lane `n` (R456). -/
def lcode (n : Nat) : Fld := ⟨0xC0010 + n / 8 * 4, n % 8 * 4, 4⟩

/-- Lane `n` is watched in LANE_WATCH (R453). -/
def State.laneWatch (s : State) (n : Nat) : Bool := (s.reg 0xC0000).getLsbD (16 + n)

/-- The code of lane `n` is to be recorded: its cause bit is clear, or a pattern matches in the instant at which the wake-up
pattern was recorded (R450). -/
def State.codeTaken (s : State) (n code : Nat) : Bool :=
  !((s.reg 0xC0008).getLsbD n) ||
    (decide (8 ≤ code) && decide (s.f (lcode n) = 1) && decide (s.snow.codeAt.lookup n = some s.now))

/-- Lane `n` wakes the device, with its code (R448 step 1, R450, R456). -/
def State.laneWake (s : State) (n code : Nat) : State :=
  let s := if s.codeTaken n code then
      (s.setF (lcode n) code).modSnow fun x => { x with codeAt := Tab.ins x.codeAt n s.now }
    else s
  s.watched n

/-- WUP_DETECTED (R442). -/
def execWupDetected (n : Fin 16) (s : State) : Host.Outcome State Fault Refusal :=
  if s.watching && s.laneWatch n.val && s.fb (F.SNOW_LANE.WUP_EN n.val) then .next (s.laneWake n.val 1) else .next s

/-- Pattern `p` of lane `n` matches a valid frame (R444). -/
def State.patternMatch (s : State) (n p : Nat) (fr : Frame) : Bool :=
  let data := s.fb (F.SNOW_SWPAT.DATA_EN n p)
  let width := if fr.fmt.ext then 536870912 else 2048
  let mask := s.f (F.SNOW_SWPAT.DATA_MASK n p)
  (s.reg (0xC0100 + 4 * n)).getLsbD p && !(fr.rtr) && (s.fb (F.SNOW_SWPAT.IDE n p) == fr.fmt.ext) &&
    decide ((fr.id.toNat ^^^ s.f (F.SNOW_SWPAT.ID n p)) &&& s.f (F.SNOW_SWPAT.ID_MASK n p) % width = 0) &&
    (!(s.fb (F.SNOW_SWPAT.DLC_EN n p) || data) || fr.len == s.f (F.SNOW_SWPAT.DLC n p)) &&
    (!data || (List.range fr.bytes).any fun j =>
      !(decide ((fr.data.getD j 0).toNat &&& mask / 256 ^ j % 256 = 0)))

/-- The frame error counter of lane `n` (R445). -/
def State.frameErr (s : State) (n : Nat) : Nat := Tab.get (fun _ => 0) s.snow.frameErr n
def State.setFrameErr (s : State) (n v : Nat) : State :=
  s.modSnow fun x => { x with frameErr := Tab.put (fun _ => 0) x.frameErr n v }

/-- A frame with an error: at ERRLIM the lane wakes the device with cause FRAME_ERR (R445). -/
def State.swError (s : State) (n : Nat) : State :=
  let c := s.frameErr n + 1
  let s := s.setFrameErr n c
  if s.f (F.SNOW_LANE.ERRLIM n) + 1 ≤ c then s.laneWake n 2 else s

/-- SW_FRAME_END (R443 to R445). -/
def execSwFrameEnd (n : Fin 16) (fr : Frame) (good : Bool) (s : State) : Host.Outcome State Fault Refusal :=
  let n := n.val
  if s.watching && s.laneWatch n && s.fb (F.SNOW_LANE.SW_EN n) then
    if !(fr.fmt.classical) then
      if s.fb (F.SNOW_LANE.FD_PASSIVE n) then .next s else .next (s.swError n)
    else if good then
      let s := s.setFrameErr n (s.frameErr n - 1)
      match (List.range 8).find? fun p => s.patternMatch n p fr with
      | some p => .next (s.laneWake n (8 + p))
      | none => .next s
    else .next (s.swError n)
  else .next s

/-! Other watched inputs -/

/-- WAKE_PIN (R446): the pin is low. -/
def execWakePin (i : Fin 2) (s : State) : Host.Outcome State Fault Refusal :=
  let en := if i = 0 then s.fb F.SNOW_CTRL.WAKE0_EN else s.fb F.SNOW_CTRL.WAKE1_EN
  .next ((s.watchedPin en (16 + i.val) 881).setLevel (26 + i.val) false)

/-- GPIO_WAKE (R446): the pin has the level of GPIO_POL. -/
def execGpioWake (i : Fin 4) (s : State) : Host.Outcome State Fault Refusal :=
  .next ((s.watchedPin ((s.reg 0xC0000).getLsbD (7 + i.val)) (21 + i.val) 884).setLevel (28 + i.val)
    ((s.reg 0xC0000).getLsbD (3 + i.val)))

/-- PERST_WAKE (R446): only in standby. -/
def execPerstWake (f : Fn) (deassert : Bool) (s : State) : Host.Outcome State Fault Refusal :=
  let en := if f = 0 then s.fb F.SNOW_CTRL.PERST0_EN else s.fb F.SNOW_CTRL.PERST1_EN
  if s.watching && en && (deassert || s.fb F.SNOW_CTRL.PERST_ANY) then .next (s.watched (18 + f.val)) else .next s

/-- RTC_ALARM (R447): the tick at which TICKS becomes equal to ALARM has come. -/
def execRtcAlarm (s : State) : Host.Outcome State Fault Refusal :=
  if s.snow.alarm then .next ((s.modSnow fun x => { x with alarm := false }).watchedPin true 20 883) else .next s

/-- BLOCK_START with block 3 (R441). -/
def execBlockStartSnowline (f : Fn) (d : Words8) (s : State) : Host.Outcome State Fault Refusal :=
  blockCmd s f d 0x54 3 fun s r => (s.setB F.SNOW_CTRL.ARMED true).adminDone r

/-- BLOCK_STOP with block 3 (R441). -/
def execBlockStopSnowline (f : Fn) (d : Words8) (s : State) : Host.Outcome State Fault Refusal :=
  blockCmd s f d 0x55 3 fun s r => (s.setB F.SNOW_CTRL.ARMED false).adminDone r

/-! Wake sequence (R448, R449) -/

/-- PWR_GOOD_RISE (R448 step 4). -/
def execPwrGoodRise (s : State) : Host.Outcome State Fault Refusal :=
  let s := s.setLevel 25 true
  if s.snow.phase = .waitPg ∧ s.now ≤ s.snow.due then
    .next (s.modSnow fun x => { x with phase := .waitReset, due := s.now + s.f F.SNOW_SEQ.RESET_DELAY * ltMs })
  else .next s

/-- PWR_EN_N goes high for at least 1 ms (R449); a sequence that follows is a wake from standby (R693). -/
def State.powerDisable (s : State) : State :=
  s.modSnow fun x => { x with phase := .holdOff, due := s.now + ltMs, woken := true }

/-- PG_TIMEOUT (R449). -/
def execPgTimeout (s : State) : Host.Outcome State Fault Refusal :=
  if s.snow.phase = .waitPg ∧ s.snow.due ≤ s.now then
    .next ((((s.setB F.SNOW_CAUSE.PG_FAIL true).satAdd F.SNOW_STAT.PG_FAILS 1).powerDisable).setLevel 25 false)
  else .next s

/-- PWR_EN_N_HOLD_END (R449, R450). -/
def execPwrEnNHoldEnd (s : State) : Host.Outcome State Fault Refusal :=
  if s.snow.phase = .holdOff ∧ s.snow.due ≤ s.now then
    if s.snow.wakeWaits then .next s.powerEnable else .next (s.modSnow fun x => { x with phase := .standby })
  else .next s

/-- RESET_DELAY_END (R448 step 5, R693): the main reset is released; WAKE is set where the device wakes from standby. -/
def execResetDelayEnd (s : State) : Host.Outcome State Fault Refusal :=
  if s.snow.phase = .waitReset ∧ s.snow.due ≤ s.now then
    let s := if s.snow.woken then s.setB F.GLB_RSTCAUSE.WAKE true else s
    let s := s.withBoot { s.boot with resetting := false }
    .next (s.modSnow fun x => { x with phase := .main, woken := false })
  else .next s

/-- The rails are on and have been released from the wake sequence. -/
def State.railsOn (s : State) : Bool := decide (s.snow.phase = .main) || decide (s.snow.phase = .powerDown)

/-- VAON_POWER_UP (R448, R682, R440): everything resets and the wake sequence runs with cause COLD; in standby it is a
wake too (R693). The queue, the counter of free values, the last value read and the hosts' memories are not the
device's. -/
def execVaonPowerUp (s : State) : Host.Outcome State Fault Refusal :=
  let t : State := { State.reset with pending := s.pending, free := s.free, readData := s.readData, now := s.now,
                                      hostMem0 := s.hostMem0, hostMem1 := s.hostMem1,
                                      snow := { woken := s.snow.woken && !s.railsOn } }
  .next t.powerEnable

end Sys2Proof.Machine
end

