-- ==== Sys2Proof/Machine/Boot.lean ====
section
/-! DEFINITION. Images, boot, device reset and standby (16 R667 to R684, R691 to R693, R697), and IMAGE_LOAD. -/
namespace Sys2Proof.Machine

/-! Images (R670 to R672) -/

/-- A little-endian word of an image. -/
def imgWord (img : List Byte) (o : Nat) : Nat := leNat (bytesFrom img o 4)

/-- A segment entry (R671): engine (255 for every PE of PEMASK), data memory, offset, length, place in the image. -/
structure Segment where
  engine : Nat
  data : Bool
  off : Nat
  len : Nat
  src : Nat
deriving DecidableEq, Repr

/-- Segment `k`. -/
def segmentAt (img : List Byte) (k : Nat) : Segment :=
  let o := 0xC0 + 16 * k
  let w0 := imgWord img o
  ⟨w0 % 256, w0 / 256 % 2 == 1, imgWord img (o + 4), imgWord img (o + 8), imgWord img (o + 12)⟩

/-- The segments of an image. -/
def segments (img : List Byte) : List Segment := (List.range (imgWord img 0x1C)).map (segmentAt img)

/-- Engine `e` is in the masks of the image. -/
def inMasks (pe se e : Nat) : Bool := if e < 32 then pe / 2 ^ e % 2 == 1 else se / 2 ^ (e - 32) % 2 == 1

/-- A segment lies in the memory it names and names no engine outside the masks (R672 check 6). -/
def segOk (pe se : Nat) (x : Segment) : Bool :=
  decide (x.off + x.len ≤ if x.data then 0x4000 else 0x6000) &&
    (x.engine == 255 || (decide (x.engine < 36) && inMasks pe se x.engine))

/-- Check 2 of R672: LENGTH is in range, equals the bytes delivered, and covers SEGTAB and the contents. -/
def lengthOk (img : List Byte) : Bool :=
  let n := imgWord img 8
  decide (208 ≤ n) && decide (n ≤ 2097152) && n == img.length &&
    decide (0xC0 + 16 * imgWord img 0x1C ≤ n) && (segments img).all fun x => decide (x.src + x.len ≤ n)

/-- Check 3 of R672. -/
def keyOk (img : List Byte) : Bool :=
  let slot := imgWord img 0x20 % 2 == 1
  decide (sha256 (bytesFrom img 0x40 64) = Config.otpHash slot) && Config.otpValid slot && !(Config.otpRevoked slot)

/-- Check 4 of R672. -/
def signatureOk (img : List Byte) : Bool :=
  ecdsaOk (bytesFrom img 0x40 64) (bytesFrom img 0x80 64)
    (sha256 (bytesFrom img 0 0x80 ++ bytesFrom img 0xC0 (imgWord img 8 - 0xC0)))

/-- The first check of R672 that fails: its code; 0 where the image is valid. `cmd`: the masks of IMAGE_LOAD, or none for
a boot image. -/
def verify (img : List Byte) (cmd : Option (Nat × Nat)) : Nat :=
  let pe := imgWord img 0x14
  let se := imgWord img 0x18
  if !(imgWord img 0 == 0x425A5255 && imgWord img 4 == 1) then 1
  else if !(lengthOk img) then 2
  else if !(keyOk img) then 3
  else if !(signatureOk img) then 4
  else if imgWord img 0x10 < Config.otpMinSecver then 5
  else if !((segments img).all (segOk pe se)) then 6
  else match cmd with
    | none => if se = 15 then 0 else 7
    | some m => if m = (pe, se) then 0 else 7

/-- Engines in masks. -/
def maskEngines (pe se : Nat) : List Nat := (List.range 36).filter (inMasks pe se)

/-! Engines -/

/-- Copy a segment into the engines it names (R671, R673): the words written are poisoned no longer (R694). -/
def State.segCopy (s : State) (img : List Byte) (pe : Nat) (x : Segment) : State :=
  let bs := bytesFrom img x.src x.len
  let es := if x.engine = 255 then (List.range 32).filter fun e => pe / 2 ^ e % 2 == 1 else [x.engine]
  es.foldl (fun st e =>
    (st.wrBytes (engBase e + (if x.data then 0x8000 else 0) + x.off) bs).healRun x.data.toNat e (x.off / 4) (x.len / 4)) s

/-- Copy the segments that a verification reaches: those that name a memory they lie in (R673). -/
def State.imgCopy (s : State) (img : List Byte) : State :=
  let pe := imgWord img 0x14
  let se := imgWord img 0x18
  ((segments img).filter (segOk pe se)).foldl (fun st x => st.segCopy img pe x) s

/-- Words of the ENG_ registers of engine `e`. -/
def engRegs (e : Nat) : List Nat := (List.range 34).map fun k => engBase e + 0xC000 + 4 * k

/-- The memories and ENG_ registers of engine `e` return to reset values (R682). -/
def State.engineReset (s : State) (e : Nat) : State :=
  let s := s.hookDrop e
  let s := (s.withMem (s.mem.filter fun c => !(decide (engBase e ≤ c.1) && decide (c.1 < engBase e + 0x10000)))).withPoison (s.poison.filter fun p => !(decide (p.1 = e) || decide (p.1 = 256 + e)))
  (s.setEng e {}).resetRegs (engRegs e)

/-- Engine `e` starts: PC is 0, as at reset; Berzu reads the hook header of a PE (R619), sets its MSP and MSLIM (R577), and
stands in its WAIT with IE 1 at IL 0, all that the spec gives of its own work (R738, log 123). -/
def State.engineStart (s : State) (e : Nat) : State :=
  let hook := if e < 32 then s.rd32 (engBase e + 0x4000) else 0
  let s := s.modEng e fun x => { x with stopped := false, hook := hook, home := true, waiting := true, ie := true, il := 0 }
  let s := if e < 32 then (s.setF (F.ENG_MSP.MSP e) 0x1000).setF (F.ENG_MSLIM.MSLIM e) 0xC08 else s
  s.withBoot { s.boot with tick := Tab.put (fun _ => 0) s.boot.tick e 0
                           tickDue := Tab.put (fun _ => 0) s.boot.tickDue e (s.now + tickPeriod hook) }

/-- Berzu loads its sequencer into bank 0 of a lane's pin engine and sets bank 0's loop fields (R651); the spec does not
give them (log 41). -/
def State.pinLoad (s : State) (l : Nat) : State :=
  let s := (List.range 16).foldl (fun st k => let r := st.drawWord; r.2.setReg (0x100300 + l * 0x800 + 4 * k) r.1) s
  let r := s.drawWord
  (r.2.setF (F.LANE_PELOOP.START0 l) (fieldOf r.1 0 5)).setF (F.LANE_PELOOP.END0 l) (fieldOf r.1 8 5)

/-- Bank 0 of the pin engines of a PE's quad. -/
def State.quadPinLoad (s : State) (q : Nat) : State := (List.range 4).foldl (fun st k => st.pinLoad (4 * q + k)) s

/-! Boot (R674) -/

/-- STATE of GLB_BOOT (R701). -/
def bootRom : Nat := 0
def bootWaitHost : Nat := 1
def bootLoading : Nat := 2
def bootRunning : Nat := 4
def bootFail : Nat := 5

def bootVerifying : Nat := 3

/-- The code that a measured VIO in mV is recorded as (R716): 2 above 2.3 V, 1 from 1.3 V on, else 0 ABSENT. -/
def vioCode (mv : Nat) : Nat := if 2300 < mv then 2 else if 1300 ≤ mv then 1 else 0

/-- GLB_IOSTAT as the measured voltages give it (R717). -/
def ioStat (mvs : List Nat) : Word :=
  BitVec.ofNat 32 ((List.range 8).foldl (fun n b => n + vioCode (mvs.getD b 0) * 4 ^ b) 0)

/-- The banks whose VIO is below 1.0 V (R715, R725). -/
def lowBanks (mvs : List Nat) : List Nat := (List.range 8).filter fun b => decide (mvs.getD b 0 < 1000)

/-- MAIN_RESET_RELEASE (R667, R674 steps 1 to 3, R716): the straps and the bank voltages are latched, and the ROM turns to
the source of R668. Both links come up in this step (log 42). -/
def execMainResetRelease (p : Straps) (s : State) : Host.Outcome State Fault Refusal :=
  if s.snow.phase = .main ∧ s.boot.resetting = false ∧ s.boot.mainOn = false then
    let s := s.modBoot fun b => { b with mainOn := true, attempt := 0, passAt := s.now }
    let s := (s.setF F.GLB_BOOT.STRAP_SRC p.bootSrc.toNat).setF F.STACK_ID.STRAP_ROLE p.role.toNat
    let s := (s.setReg 0x58 (ioStat p.vio)).withPower { s.power with vioLow := lowBanks p.vio }
    let s := (s.modFunc 0 fun x => { x with link := true }).modFunc 1 fun x => { x with link := true }
    .next (s.setF F.GLB_BOOT.STATE (if p.bootSrc = 1 ∨ p.bootSrc = 2 then bootWaitHost else bootLoading))
  else .next s

/-- The write of GLB_BOOTLEN (R669, R702): of the function that BOOT_SRC names, until BOOT_DONE. -/
def State.bootLenWrite (s : State) (f : Nat) (v : Word) : State :=
  if s.fb F.GLB_BOOT.BOOT_DONE || !(s.f F.GLB_BOOT.STRAP_SRC == f + 1) then s.clamp f 1
  else
    let c := clampTo 208 2097152 (fieldOf v 0 22)
    let s := (s.clamp f c.2).setF F.GLB_BOOTLEN.LEN c.1
    let st := s.f F.GLB_BOOT.STATE
    if v.getLsbD 31 && (st == bootWaitHost || st == bootFail) then s.setF F.GLB_BOOT.STATE bootLoading else s

/-- BOOT_MAILBOX_GO (R669): a write of GLB_BOOTLEN. -/
def execBootMailboxGo (f : Fn) (v : Word) (s : State) : Host.Outcome State Fault Refusal :=
  if s.mayRead (.host f) then .next (s.bootLenWrite f.val v) else .next s

/-- The source that an attempt reads (R668): 0 SPI NOR, 1 or 2 a host, 3 the resume image. -/
def bootSource (src attempt : Nat) : Nat := if src = 3 ∧ 0 < attempt then 0 else src

/-- After a failure: the next source, the mailbox again, or FAILED (R668). -/
def State.bootFallback (s : State) : State :=
  let src := s.f F.GLB_BOOT.STRAP_SRC
  let n := s.boot.attempt + 1
  if src = 1 ∨ src = 2 then s.setF F.GLB_BOOT.STATE bootWaitHost
  else if n ≤ (if src = 3 then 2 else 1) then (s.setF F.GLB_BOOT.STATE bootLoading).modBoot fun b => { b with attempt := n }
  else s.setF F.GLB_BOOT.STATE bootFail

/-- The image is valid: GLB_FWREV, and the engines in the masks start (R674 step 5). The running image is kept for resume
(R691 step 3). -/
def State.bootSuccess (s : State) (img : List Byte) : State :=
  let s := s.modBoot fun b => { b with running := img }
  let s := (s.setReg 0x8 (BitVec.ofNat 32 (imgWord img 0xC))).setF F.GLB_FWREV.SECVER (imgWord img 0x10)
  let s := s.setF F.GLB_BOOT.USED_SRC (bootSource (s.f F.GLB_BOOT.STRAP_SRC) s.boot.attempt)
  let s := (s.setB F.GLB_BOOT.FALLBACK (decide (0 < s.boot.attempt))).setF F.GLB_BOOT.STATE bootRunning
  (maskEngines (imgWord img 0x14) (imgWord img 0x18)).foldl (fun st e => st.engineStart e) s

/-- The image did not arrive, or has failed a check: the code, and what comes next (R668, R672). FAIL_CAUSE is kept until the
next load. -/
def State.bootFailed (s : State) (c : Nat) : State := (s.setF F.GLB_BOOT.FAIL_CAUSE c).bootFallback

/-- The verification of the image read ends (R672, R673, R674 step 5). -/
def State.verifyEnd (s : State) : State :=
  match s.boot.verifying with
  | none => s
  | some img =>
    let s := s.modBoot fun b => { b with verifying := none }
    let c := verify img none
    let s := if c = 1 ∨ c = 2 then s else s.imgCopy img
    if c = 0 then s.bootSuccess img else s.bootFailed c

/-- The bytes that the attempt reads of what its source delivers: LEN through the mailbox (R669), LENGTH of the resume image's
descriptor, if there is one (R691 step 3); none where the source has fewer (code 8). -/
def State.bootRead (s : State) (img : List Byte) : Option (List Byte) :=
  let src := bootSource (s.f F.GLB_BOOT.STRAP_SRC) s.boot.attempt
  let n := if src = 1 ∨ src = 2 then some (s.f F.GLB_BOOTLEN.LEN) else if src = 3 then s.boot.resume else some img.length
  match n with
  | some n => if img.length < n then none else some (img.take n)
  | none => none

/-- IMAGE_READ_DONE (R672, R673, R674 steps 4 and 5): `img` is none where the source did not deliver the image (code 8). The
image read is verified: STATE is VERIFYING until the next tick, or until a command that can only follow the end of the
verification, an IMAGE_READ_DONE or a BOOT_DONE (log 110). -/
def execImageReadDone (img : Option (List Byte)) (s : State) : Host.Outcome State Fault Refusal :=
  let s := s.verifyEnd
  if s.boot.mainOn && s.f F.GLB_BOOT.STATE == bootLoading then
    match img.bind s.bootRead with
    | none => .next (s.bootFailed 8)
    | some bs => .next ((s.modBoot fun b => { b with verifying := some bs }).setF F.GLB_BOOT.STATE bootVerifying)
  else .next s

/-- Wake sources (R448 step 6, R674 step 7). -/
def State.wakeSources (s : State) : State :=
  let c := s.reg 0xC0008
  let s := s.raiseIf (!(decide (bitsOf c 0 16 = 0))) 880
  let s := s.raiseIf (c.getLsbD 16 || c.getLsbD 17) 881
  let s := s.raiseIf (c.getLsbD 18 || c.getLsbD 19) 882
  let s := s.raiseIf (c.getLsbD 20) 883
  let s := s.raiseIf (!(decide (bitsOf c 21 4 = 0))) 884
  let s := s.raiseIf (c.getLsbD 25) 885
  let s := s.raiseIf (c.getLsbD 26) 886
  s.raiseIf (s.fb F.GLB_RSTCAUSE.THERMAL) 894

/-- BOOT_DONE (R674 steps 6 and 7, R651): bank 0 of the pin engines of every loaded PE, BOOT_DONE, the wake sources. The
first window of R316 starts. -/
def execBootDone (s : State) : Host.Outcome State Fault Refusal :=
  let s := s.verifyEnd
  if s.f F.GLB_BOOT.STATE == bootRunning && !(s.fb F.GLB_BOOT.BOOT_DONE) && s.engUp 35 then
    let s := (List.range 32).foldl (fun st q => if (st.eng q).stopped then st else st.quadPinLoad q) s
    let s := (s.setB F.GLB_BOOT.BOOT_DONE true).withKillDue (some (s.now + 1000 * ltMs))
    .next s.wakeSources
  else .next s

/-! Device reset (R682) -/

/-- Words of the register map that a device reset leaves: Snowline's (R440) and GLB_RSTCAUSE (R703). -/
def resetKeeps (a : Nat) : Bool := (decide (0xC0000 ≤ a) && decide (a < 0xD0000)) || a == 0x30

/-- The ring in attached memory that the reset leaves (R520): its place and what it holds. -/
def State.morAfterReset (s : State) : Moraine :=
  if s.fb F.MOR_CTRL.DEST then {}
  else if s.mor.started then
    { kept := some (s.f F.MOR_DRING.BASE, s.f F.MOR_DRING.SIZE), recs := s.mor.recs, write := s.mor.write }
  else { kept := s.mor.kept, recs := s.mor.recs, write := s.mor.write }

/-- A lock that a reset of its holder ended leaves LOCK_EXPIRED (R179). -/
def State.lockEndsIn (t : State) (objs : Tab Obj) : State :=
  objs.foldl (fun st o =>
    if o.2.lock.isSome && decide (o.1 < 32768) then st.setObjBits (o.1 / 1024) (o.1 % 1024) 0 20 1 1 else st) t

/-- A device reset (R682): the main domain at its reset values; Snowline, attached memory, GLB_RSTCAUSE and what is not the
device's are kept, and a lock it ends leaves its trace (R179, log 102). `held`: the reset stays asserted. -/
def State.deviceReset (s : State) (held : Bool) : State :=
  State.lockEndsIn (objs := s.objs) { State.reset with
    pending := s.pending, free := s.free, readData := s.readData, now := s.now
    hostMem0 := s.hostMem0, hostMem1 := s.hostMem1
    regs := s.regs.filter fun e => resetKeeps e.1
    mem := s.mem.filter fun c => decide (dramBase ≤ c.1)
    mor := s.morAfterReset
    snow := s.snow
    power := { vioLow := s.power.vioLow }
    boot := { resetting := held, resume := s.boot.resume } }

/-- The main reset is asserted while the rails are on: a standby sequence is abandoned (R697). -/
def State.mainReset (s : State) (held : Bool) : State :=
  (s.deviceReset held).modSnow fun x => { x with phase := .main, wakeWaits := false, woken := false }

/-- SYS_RESET (R682): MAIN_RESET_RELEASE follows when the pin is released; a thermal shutdown goes on (R688). -/
def execSysReset (s : State) : Host.Outcome State Fault Refusal :=
  if s.railsOn then .next ((s.mainReset s.boot.resetting).setB F.GLB_RSTCAUSE.PIN true) else .next s

/-- The reset key (R684); in the lt of a standby key that came first it is lost (R697). -/
def State.keyReset (s : State) : State :=
  if s.boot.mainOn && !(decide (s.snow.keyAt = some s.now)) then (s.mainReset false).setB F.GLB_RSTCAUSE.SOFTWARE true else s

/-- DEVICE_RESET_KEY (R684): from either function or any engine. -/
def execDeviceResetKey (w : Agent) (s : State) : Host.Outcome State Fault Refusal :=
  if s.mayRead w then .next s.keyReset else .next s

/-- THERMAL_SHUTDOWN (R688): at 135 °C, whatever the mode; the rails stay on. -/
def execThermalShutdown (tj : BitVec 9) (s : State) : Host.Outcome State Fault Refusal :=
  if s.railsOn && decide (135 ≤ degC tj.toNat) then .next ((s.mainReset true).setB F.GLB_RSTCAUSE.THERMAL true) else .next s

/-- THERMAL_RELEASE (R688): below 100 °C; a thermal shutdown that holds the reset ends, and TJ shows the measurement. -/
def execThermalRelease (tj : BitVec 9) (s : State) : Host.Outcome State Fault Refusal :=
  if s.snow.phase = .main ∧ s.boot.resetting = true ∧ degC tj.toNat < 100 then
    .next ((s.noteTj tj).modBoot fun b => { b with resetting := false })
  else .next s

/-! Standby (R691) -/

/-- Step 1 on lane `l`: it leaves under LANE_STOP, at the end of the frame on TXD. Where a command of a host waits for that end,
it commits then (R743), and the lane stops before the rails go off. -/
def State.standbyLane (s : State) (l : Nat) : State :=
  if s.laneSt l = St.off then s
  else if (s.lane l).att.isSome then
    if (s.lane l).pend.isSome then s else s.modLane l fun x => { x with pend := some ⟨.stop, none⟩ }
  else s.laneOff l

/-- Step 1 on port `e`. -/
def State.standbyPort (s : State) (e : Nat) : State :=
  if !(s.fb (F.ETH_STAT.ENABLED e)) then s
  else if (s.eth e).wire.isSome then
    if (s.eth e).pendDis.isSome then s else s.modEth e fun y => { y with pendDis := some none }
  else s.portOff e

/-- The standby key (R684, R691 step 1). -/
def State.keyStandby (s : State) : State :=
  if s.boot.mainOn && decide (s.snow.phase = .main) then
    let s := (List.range 128).foldl (fun st l => st.standbyLane l) s
    let s := (List.range 4).foldl (fun st e => st.standbyPort e) s
    s.modSnow fun x => { x with phase := .powerDown, keyAt := some s.now }
  else s

/-- STANDBY_KEY (R684, R691). -/
def execStandbyKey (w : Agent) (s : State) : Host.Outcome State Fault Refusal :=
  if s.mayRead w then .next s.keyStandby else .next s

/-- Frames are still on a wire. -/
def State.framesOut (s : State) : Bool :=
  (List.range 128).any (fun l => (s.lane l).att.isSome) || (List.range 4).any fun e => (s.eth e).wire.isSome

/-- STANDBY_RAILS_OFF (R691 steps 2 to 4, R682, R445): what is left of the lanes and ports has stopped, the ring header is
written, with RESUME_EN 1 the descriptor of the resume image too (its layout is not given, log 62), the rails go off, and the
frame error counters are cleared. -/
def execStandbyRailsOff (s : State) : Host.Outcome State Fault Refusal :=
  if s.snow.phase = .powerDown ∧ s.framesOut = false then
    let s := (List.range 128).foldl (fun st l => st.standbyLane l) s
    let s := (List.range 4).foldl (fun st e => st.standbyPort e) s
    let s := if s.mor.started then s.morHeader else s
    let s := if s.fb F.GLB_RESUME.RESUME_EN then s.modBoot fun b => { b with resume := some b.running.length } else s
    .next (((s.deviceReset true).modSnow fun x => { x with frameErr := [] }).powerDisable)
  else .next s

/-! IMAGE_LOAD (R678, R679) -/

/-- The cases of R679. -/
def State.imageRefused (s : State) (pe se : Nat) : Bool :=
  s.boot.image.isSome || se / 8 % 2 == 1 ||
    (List.range 32).any (fun e => pe / 2 ^ e % 2 == 1 && !(s.quadOff e)) ||
    (List.range 3).any fun k => se / 2 ^ k % 2 == 1 && s.engUp (32 + k)

/-- IMAGE_LOAD (R678, R679): the image is read from host memory. -/
def execImageLoad (f : Fn) (d : Words8) (s : State) : Host.Outcome State Fault Refusal :=
  adminCmd s f d 0x58 fun s r =>
    let se := fieldOf d.w2 0 4
    if s.imageRefused d.w1.toNat se then s.adminRefuse r .state
    else s.modBoot fun b => { b with image := some { ref := r, peMask := d.w1, seMask := se, addr := pair64 d.w3 d.w4, len := d.w5.toNat } }

/-- The named engines are stopped, loaded and started (R678, R682); Berzu of a PE loads bank 0 of its pin engines (R651). -/
def State.imageApply (s : State) (img : List Byte) (pe se : Nat) : State :=
  let es := maskEngines pe se
  let s := es.foldl (fun st e => st.engineReset e) s
  let s := es.foldl (fun st e => st.engineStart e) (s.imgCopy img)
  es.foldl (fun st e => if e < 32 then st.quadPinLoad e else st) s

/-- IMAGE_LOAD_COMMIT (R678, R672): `img` is what host memory held from the address on; fewer bytes than the length asked for
stand for a read that did not deliver them (code 8). GLB_FWREV keeps the boot image's. -/
def execImageLoadCommit (img : List Byte) (s : State) : Host.Outcome State Fault Refusal :=
  match s.boot.image with
  | none => .next s
  | some x =>
    let s := s.modBoot fun b => { b with image := none }
    let img := img.take x.len
    let c := if img.length < x.len ∨ img = [] then 8 else verify img (some (x.peMask.toNat, x.seMask))
    let s := s.setF F.GLB_BOOT.FAIL_CAUSE c
    if c = 0 then .next ((s.imageApply img x.peMask.toNat x.seMask).adminDone x.ref) else .next (s.adminRefuse x.ref .image)

end Sys2Proof.Machine
end

