-- ==== Sys2Proof/Machine/Pin.lean ====
section
/-! DEFINITION. Pin engines (15): the decoder of R641, completion and stalls, and bank switches. -/
namespace Sys2Proof.Machine

/-! Decoding (R641) -/

/-- A pin-engine instruction as its word spells it: `dl` is the delay. -/
inductive PinOp where
  | br (dl : BitVec 4) (c : BitVec 3) (a : BitVec 5)
  | await (dl : BitVec 4) (lv : Bool) (i : BitVec 4)
  | shin (dl : BitVec 4) (k : BitVec 3) (n : BitVec 5)
  | shout (dl : BitVec 4) (k : BitVec 3) (n : BitVec 5)
  | push (dl : BitVec 4) (thr : Bool)
  | pushN (dl : BitVec 4) (thr : Bool)
  | pull (dl : BitVec 4) (thr : Bool)
  | pullN (dl : BitVec 4) (thr : Bool)
  | setx (dl : BitVec 4) (v : BitVec 8)
  | drive (dl : BitVec 4) (k : BitVec 2)
  | crcReset (dl : BitVec 4) (k : BitVec 3)
  | stuffDyn (dl : BitVec 4)
  | stuffFixedFd (dl : BitVec 4)
  | stuffFixedXl (dl : BitVec 4)
  | stuffOff (dl : BitVec 4)
  | crcSend (dl : BitVec 4) (k : BitVec 3)
  | crcCheck (dl : BitVec 4) (k : BitVec 3)
  | phaseData (dl : BitVec 4)
  | phaseNominal (dl : BitVec 4)
  | errClear (dl : BitVec 4)
  | tdcStart (dl : BitVec 4)
  | sig (dl : BitVec 4) (v : BitVec 3)
  | copy (dl : BitVec 4) (k : BitVec 4)
  | nop (dl : BitVec 4)
  | reserved
deriving DecidableEq, Repr

/-- The instruction a 16-bit word holds (R641, R642, R646). -/
def pinDecode (w : BitVec 16) : PinOp :=
  let dl := w.extractLsb' 8 4
  let hi := w.extractLsb' 5 3
  let lo := w.extractLsb' 0 5
  match (w.extractLsb' 12 4).toNat with
  | 0 => .br dl hi lo
  | 1 => if (w.extractLsb' 0 4).toNat ≤ 10 then .await dl (w.getLsbD 4) (w.extractLsb' 0 4) else .reserved
  | 2 => if hi.toNat ≤ 4 then .shin dl hi lo else .reserved
  | 3 => if hi.toNat ≤ 4 then .shout dl hi lo else .reserved
  | 4 => if w.getLsbD 0 then .pushN dl (w.getLsbD 1) else .push dl (w.getLsbD 1)
  | 5 => if w.getLsbD 0 then .pullN dl (w.getLsbD 1) else .pull dl (w.getLsbD 1)
  | 6 => .setx dl (w.extractLsb' 0 8)
  | 7 => .drive dl (w.extractLsb' 0 2)
  | 8 =>
    match (w.extractLsb' 0 4).toNat with
    | 0 => .crcReset dl (w.extractLsb' 4 3)
    | 1 => .stuffDyn dl
    | 2 => .stuffFixedFd dl
    | 3 => .stuffFixedXl dl
    | 4 => .stuffOff dl
    | 5 => .crcSend dl (w.extractLsb' 4 3)
    | 6 => .crcCheck dl (w.extractLsb' 4 3)
    | 7 => .phaseData dl
    | 8 => .phaseNominal dl
    | 9 => .errClear dl
    | 10 => .tdcStart dl
    | _ => .reserved
  | 9 => .sig dl (w.extractLsb' 0 3)
  | 10 => if (w.extractLsb' 0 4).toNat ≤ 4 then .copy dl (w.extractLsb' 0 4) else .reserved
  | 15 => .nop dl
  | _ => .reserved

/-- Instruction `a` of a bank (R666). -/
def State.pinWord (s : State) (l bank a : Nat) : BitVec 16 :=
  (s.reg (0x100300 + l * 0x800 + bank * 0x40 + a / 2 * 4)).extractLsb' (16 * (a % 2)) 16

/-- The word that holds it is poisoned (R696). -/
def State.pinBad (s : State) (l bank a : Nat) : Bool := s.poisoned 5 l (16 * bank + a / 2)

/-! What the pins show (R96, R97, R647, R683, R715) -/

/-- A lane's TXD: high impedance, recessive, dominant, the codec's bits, or the codec's ACK slots alone. -/
inductive TxdPin where
  | highZ | recessive | dominant | codec | ackOnly
deriving DecidableEq, Repr

/-- The lane drives neither pin as its state has it: the main domain is in reset or boots (R683). -/
def State.booting (s : State) : Bool := !s.boot.mainOn || !(s.fb F.GLB_BOOT.BOOT_DONE)

/-- TXD as the pin engine gives it in a state that lets it through (R647). -/
def Drive.txd : Drive → TxdPin
  | .recessive => .recessive
  | .dominant => .dominant
  | .codec => .codec
  | .pin b => if b then .recessive else .dominant

/-- TXD of lane `l`: high impedance without VIO and in standby; recessive in every state whose column of R96 or R97 reads so, whatever the pin engine drives (R647). -/
def State.txdPin (s : State) (l : Nat) : TxdPin :=
  if s.dark l || s.pwrEnN then .highZ
  else if s.booting then .recessive
  else if s.actsAs l = St.active then (s.pin l).drive.txd
  else if s.actsAs l = St.restricted then
    match (s.pin l).drive with
    | .codec => .ackOnly
    | d => d.txd
  else .recessive

/-- LCTL of lane `l`: its level, or none where the pin is high impedance; high until BOOT_DONE, then as the lane asks for
standby or normal, with the standby level of LCTL_STBY_LVL (R96, R97, R683, R715). -/
def State.lctlPin (s : State) (l : Nat) : Option Bool :=
  if s.dark l || s.pwrEnN then none
  else if s.booting then some true
  else some (s.fb (F.LANE_CTRL.LCTL_STBY_LVL l) != (s.lane l).lctlNormal)

/-! What the lane shows (R642, R644 to R646, R658) -/

/-- A command of the codec is carried out (R646); the codec compares or sends the CRC of the bits sampled since its reset (log
124). -/
def Codec.apply (c : Codec) (x : CodecCmd) : Codec :=
  let bits (k : Nat) : List (Bool × Bool) := Tab.get (fun _ => []) c.crcs k
  match x with
  | .crcReset k => { c with crcs := Tab.ins c.crcs k [] }
  | .stuff m => { c with stuff := m, run := 0 }
  | .crcSend k => { c with crcOut := Config.crcBits k (bits k) }
  | .crcCheck k => { c with err := c.err || !(Config.crcOk k (bits k)) }
  | .data b => { c with data := b }
  | .errClear => { c with err := false }
  | .tdcStart => { c with tdc := true }

/-- A bit boundary: the commands that waited for it. -/
def Codec.boundary (c : Codec) : Codec := { c.cmds.foldl Codec.apply c with cmds := [] }

/-- The bit sampled after `last` is a stuff bit: in the dynamic mode the one after five equal bits, in the fixed modes as the
lane shows (log 124). -/
def Codec.stuffed (c : Codec) (fixed : Bool) : Bool :=
  if c.stuff = 1 then decide (c.run = 5) else (decide (c.stuff = 2) || decide (c.stuff = 3)) && fixed

/-- The codec samples `v` after `last`: the CRCs run on, and a stuff bit equal to the bit before it is a STUFF error. -/
def Codec.sample (c : Codec) (last v fixed : Bool) : Codec :=
  let st := c.stuffed fixed
  { c with crcs := c.crcs.map fun x => (x.1, x.2 ++ [(v, st)]), err := c.err || (st && v == last),
           run := if st || v != last then 1 else c.run + 1 }

/-- The codec begins a bit that takes a data bit for transmission: of the CRC it sends, or the transmit bit; with none given
since the last take recessive, and BIT_LATE (R645). -/
def State.codecTake (s : State) (l : Nat) : Bool × State :=
  let c := (s.pin l).codec
  match c.crcOut, c.txBit with
  | b :: bs, _ => (b, s.modPin l fun p => { p with codec := { c with crcOut := bs } })
  | [], some b => (b, s.modPin l fun p => { p with codec := { c with txBit := none } })
  | [], none => (true, s.setB (F.LANE_PESTAT.BIT_LATE l) true)

/-- A value enters bit 0 of a field of the tap, unless it is frozen (R658, R665). -/
def State.tapShift (s : State) (l : Nat) (rx v : Bool) : State :=
  let a := 0x1002A0 + l * 0x800 + 4 * rx.toNat
  if s.fb (F.LANE_PECTRL.TAP_FROZEN l) then s else s.setReg a ((s.reg a <<< 1) ||| BitVec.ofNat 32 v.toNat)

/-- The level on TXD where the codec gives `sent`; a pin that is not driven, and one that shows ACK slots alone, as the lane shows. -/
def State.txdLevel (s : State) (l : Nat) (shown sent : Bool) : Bool :=
  match s.txdPin l with
  | .recessive => true
  | .dominant => false
  | .codec => sent
  | .highZ | .ackOnly => shown

/-- One thing that happens at the pin engine of lane `l`. A ninth word of TXQ is lost (log 105); a lane input without VIO
reads dominant (R725). -/
def State.pinSeen1 (l : Nat) (s : State) : PinSeen → State
  | .sample v fixed =>
    let v := v && !s.dark l
    let s := s.modPin l fun p =>
      { p with codec := p.codec.sample p.rxd v fixed, dbit := if p.codec.stuffed fixed then p.dbit else v, rxd := v,
               idle := if v then min 11 (p.idle + 1) else 0 }
    s.tapShift l true v
  | .bit v take =>
    let s := s.modPin l fun p => { p with codec := p.codec.boundary }
    let r := if take then s.codecTake l else (v, s)
    r.2.tapShift l false (r.2.txdLevel l v r.1)
  | .wrote w => s.modPin l fun p => { p with txq := (p.txq ++ [w]).take 8 }
  | .crossed =>
    s.modPin l fun p =>
      match p.crossing with
      | [] => p
      | none :: xs => { p with crossing := xs, arrived := p.arrived + 1 }
      | some e :: xs => { p with crossing := xs, events := p.events ++ [e] }
  | .took => s.modPin l fun p => if 0 < p.arrived then { p with rxq := p.rxq.drop 1, arrived := p.arrived - 1 } else p
  | .heard => s.modPin l fun p => { p with events := p.events.drop 1 }

/-- What has happened at the pin engine; in OFF it and the tap stand still (R656, R658). -/
def State.pinSee (s : State) (l : Nat) (xs : List PinSeen) : State :=
  if (s.pin l).running then xs.foldl (State.pinSeen1 l) s else s

/-! Bank switches (R654, R655) -/

/-- RUN_BANK. -/
def State.runBank (s : State) (l : Nat) : Nat := s.f (F.LANE_PEBANK.RUN_BANK l)

/-- The idle bank starts at its LOOP_START; a pending switch is gone. Bank 0 begins with the wait for 11 recessive bits
(R659). -/
def State.pinSwitch (s : State) (l : Nat) : State :=
  let b := 1 - s.runBank l
  let s := if b = 0 then s.modLane l fun x => { x with waitIdle := true } else s
  let s := (s.setF (F.LANE_PEBANK.RUN_BANK l) b).setB (F.LANE_PEBANK.SW_PEND l) false
  s.modPin l fun p => { p with pc := s.loopStart l b, stalled := false, ended := false }

/-- A pending switch takes place once the instruction at LOOP_END has completed with its delay (R654). -/
def State.pinSettle (s : State) (l : Nat) : State :=
  let p := s.pin l
  if p.running && p.ended && s.fb (F.LANE_PEBANK.SW_PEND l) && decide (p.busyUntil ≤ s.now) then s.pinSwitch l else s

/-- The instruction that lane `l` executes now, after a switch that is due; none while it waits or stands still. A poisoned
word acts as NOP and counts as a reserved operation (R696). -/
def State.pinFetch (s : State) (l : Nat) : Option PinOp :=
  let t := s.pinSettle l
  let p := t.pin l
  if p.running && decide (p.busyUntil ≤ s.now) then
    some (if t.pinBad l (t.runBank l) p.pc then .reserved else pinDecode (t.pinWord l (t.runBank l) p.pc))
  else none

/-! Completion (R637, R639) -/

/-- Where execution continues after the instruction at `pc`, and whether it stood at LOOP_END: a taken branch first
(R639). -/
def State.pinNext (s : State) (l pc : Nat) (target : Option Nat) : Nat × Bool :=
  let b := s.runBank l
  let e := pc == s.loopEnd l b
  match target with
  | some a => (a, e)
  | none => (if e then s.loopStart l b else (pc + 1) % 32, e)

/-- The instruction completes with a delay of `dl` lt. -/
def State.pinDone (s : State) (l dl : Nat) (target : Option Nat) : State :=
  let n := s.pinNext l (s.pin l).pc target
  s.modPin l fun p => { p with pc := n.1, ended := n.2, stalled := false, busyUntil := s.now + 1 + dl }

/-- It stalls (R638). -/
def State.pinStall (s : State) (l : Nat) : State := s.modPin l fun p => { p with stalled := true, ended := false }

/-- Run `body` where the lane's engine, with what has happened at it, executes `i` now; otherwise it does nothing (log 6). -/
def pinRun (s : State) (l : LaneId) (x : PinArg) (i : PinOp) (body : State → State) : Host.Outcome State Fault Refusal :=
  let t := s.pinSee l.val x.seen
  if t.pinFetch l.val = some i then .next (body (t.pinSettle l.val)) else .next t

/-- An instruction that never stalls and never branches: its effect, then its completion. -/
def pinPlain (s : State) (l : LaneId) (x : PinArg) (i : PinOp) (g : State → State) : Host.Outcome State Fault Refusal :=
  pinRun s l x i fun s => (g s).pinDone l.val x.dl.toNat none

/-! Thresholds and queues (R648, R649) -/

def State.packThr (s : State) (l : Nat) : Nat := s.f (F.LANE_PECTRL.PACK_THR l) + 1
def State.unpackThr (s : State) (l : Nat) : Nat := s.f (F.LANE_PECTRL.UNPACK_THR l) + 1
def State.rxqFull (s : State) (l : Nat) : Bool := decide (8 ≤ (s.pin l).rxq.length)

/-- The in-shifter to RXQ; dropped where RXQ is full (R648). -/
def State.pinPush (s : State) (l : Nat) : State :=
  let full := s.rxqFull l
  let s := s.modPin l fun p =>
    { p with rxq := if full then p.rxq else p.rxq ++ [p.inSh], inSh := 0, inCnt := 0,
             crossing := if full then p.crossing else p.crossing ++ [none] }
  if full then (s.setB (F.LANE_PESTAT.RXQ_OVERFLOW l) true).satAdd (F.LANE_PESTAT.N_OVERFLOW l) 1 else s

/-- The out-shifter from TXQ; an underrun where TXQ is empty (R648). -/
def State.pinPull (s : State) (l : Nat) : State :=
  match (s.pin l).txq with
  | w :: ws => s.modPin l fun p => { p with txq := ws, outSh := w, outCnt := 0 }
  | [] => (s.setB (F.LANE_PESTAT.TXQ_UNDERRUN l) true).satAdd (F.LANE_PESTAT.N_UNDERRUN l) 1

/-! Side inputs and conditions (R642, R643) -/

/-- The protocol engine permits an SOF (R197). -/
def State.txGo (s : State) (l : Nat) : Bool := s.canStart l none && (s.headOf l).isSome

/-- A kill is pending for the frame on TXD (R312). -/
def State.killOnTxd (s : State) (l : Nat) : Bool :=
  match (s.lane l).att with
  | some a => s.killPending a
  | none => false

/-- A pulse that has come with what has happened: SAMPLE, BITSTART, DBIT or DTXBIT; HARDSYNC and SSP come alone. -/
def pulseSeen (i : Nat) (xs : List PinSeen) : Bool :=
  xs.any fun x =>
    match x with
    | .sample _ _ => decide (i = 0 ∨ i = 4)
    | .bit _ take => decide (i = 1) || (decide (i = 5) && take)
    | _ => false

/-- Whether AWAIT of side input `i` for level `lv` completes; `pulse` says that a pulse occurs in this lt. A lane input without
VIO is never recessive (R725). -/
def State.awaitHolds (s : State) (l i : Nat) (lv pulse : Bool) (xs : List PinSeen) : Bool :=
  let p := s.pin l
  if (i = 6 ∨ i = 9) ∧ s.dark l then !lv
  else if i = 6 then decide (p.idle = 11) == lv
  else if i = 7 then s.txGo l == lv
  else if i = 8 then s.killOnTxd l == lv
  else if i = 9 then p.rxd == lv
  else if i = 10 then p.codec.err == lv
  else if i = 2 ∨ i = 3 then pulse
  else pulse && pulseSeen i xs

/-- Whether BR condition `c` holds, and the state after it: XNZ counts X down. A lane input without VIO reads dominant (R725). -/
def State.brHolds (s : State) (l c : Nat) : Bool × State :=
  let p := s.pin l
  if c = 0 then (true, s)
  else if c = 1 then (!(decide (p.x = 0)), if p.x = 0 then s else s.modPin l fun p => { p with x := p.x - 1 })
  else if c = 2 then (p.rxd && !s.dark l, s)
  else if c = 3 then (decide (s.unpackThr l ≤ p.outCnt), s)
  else if c = 4 then (!(p.txq.isEmpty), s)
  else if c = 5 then (p.codec.err, s)
  else if c = 6 then (p.codec.data, s)
  else (s.txGo l, s)

/-! Shifters (R644, R645) -/

/-- Shift a list of bits into the in-shifter. -/
def PinEng.shiftIn (p : PinEng) (bits : List Bool) : PinEng :=
  { p with inSh := bits.foldl (fun w b => (w <<< 1) ||| (BitVec.ofNat 32 b.toNat)) p.inSh,
           inCnt := min 32 (p.inCnt + bits.length) }

/-- The bits that SHIN of source `k` takes: the last DBIT, the last SAMPLE (dominant without VIO, R725), zeros, ones, or X; what
follows its eight bits is free (log 1). -/
def State.shinBits (s : State) (l k n : Nat) : List Bool × State :=
  let p := s.pin l
  if k = 4 then
    let r := s.drawWord
    ((List.range n).map fun i => if i < 8 then p.x.getLsbD (7 - i) else r.1.getLsbD i, if n ≤ 8 then s else r.2)
  else
    (List.replicate n (if k = 0 then p.dbit else if k = 1 then p.rxd && !s.dark l else decide (k = 3)), s)

/-- The first `n` bits of the out-shifter. -/
def PinEng.outBits (p : PinEng) (n : Nat) : List Bool := (List.range n).map fun i => p.outSh.getLsbD (31 - i)

/-- Shift out `n` bits. -/
def PinEng.shiftOut (p : PinEng) (n : Nat) : PinEng := { p with outSh := p.outSh <<< n, outCnt := min 32 (p.outCnt + n) }

/-- X after bits shifted into it: the bits above them are free (log 1). -/
def State.xFrom (s : State) (bits : List Bool) : Byte × State :=
  let v : Byte := bits.foldl (fun w b => (w <<< 1) ||| (BitVec.ofNat 8 b.toNat)) 0
  if 8 ≤ bits.length then (v, s)
  else
    let r := s.drawWord
    (v ||| ((r.1.extractLsb' 0 8) <<< bits.length), r.2)

/-- SHOUT of `n` bits to destination `k`. -/
def State.pinShout (s : State) (l k n : Nat) : State :=
  let n := if k < 2 then 1 else n
  let bits := (s.pin l).outBits n
  let b := bits.headD false
  if k = 0 then s.modPin l fun p => { p.shiftOut n with codec := { p.codec with txBit := some b } }
  else if k = 1 then s.modPin l fun p => { p.shiftOut n with drive := .pin b }
  else if k = 2 then s.modPin l fun p => p.shiftOut n
  else if k = 3 then
    let r := s.xFrom bits
    r.2.modPin l fun p => { p.shiftOut n with x := r.1 }
  else s.modPin l fun p => (p.shiftOut n).shiftIn bits

/-! Instructions -/

/-- BR (R643). -/
def execBr (l : LaneId) (x : PinArg) (c : BitVec 3) (a : BitVec 5) (s : State) : Host.Outcome State Fault Refusal :=
  pinRun s l x (.br x.dl c a) fun s =>
    let r := s.brHolds l.val c.toNat
    r.2.pinDone l.val x.dl.toNat (if r.1 then some a.toNat else none)

/-- AWAIT (R642): `pulse` says whether a pulse of the input occurs in this lt. -/
def execAwait (l : LaneId) (x : PinArg) (lv : Bool) (i : BitVec 4) (pulse : Bool) (s : State) :
    Host.Outcome State Fault Refusal :=
  pinRun s l x (.await x.dl lv i) fun s =>
    if s.awaitHolds l.val i.toNat lv pulse x.seen then s.pinDone l.val x.dl.toNat none else s.pinStall l.val

/-- SHIN (R644, R649). -/
def execShin (l : LaneId) (x : PinArg) (k : BitVec 3) (n : BitVec 5) (s : State) : Host.Outcome State Fault Refusal :=
  pinRun s l x (.shin x.dl k n) fun s =>
    let n := n.toNat + 1
    let mode := s.f (F.LANE_PECTRL.PACK_MODE l.val)
    let full := decide (s.packThr l.val ≤ min 32 ((s.pin l.val).inCnt + n))
    if mode = 1 ∧ full ∧ s.rxqFull l.val then s.pinStall l.val
    else
      let r := s.shinBits l.val k.toNat n
      let s := r.2.modPin l.val fun p => p.shiftIn r.1
      (if mode ≠ 0 ∧ full then s.pinPush l.val else s).pinDone l.val x.dl.toNat none

/-- SHOUT (R645, R649). -/
def execShout (l : LaneId) (x : PinArg) (k : BitVec 3) (n : BitVec 5) (s : State) : Host.Outcome State Fault Refusal :=
  pinRun s l x (.shout x.dl k n) fun s =>
    let mode := s.f (F.LANE_PECTRL.UNPACK_MODE l.val)
    let due := decide (mode ≠ 0) && decide (s.unpackThr l.val ≤ (s.pin l.val).outCnt)
    if mode = 1 ∧ due ∧ (s.pin l.val).txq.isEmpty then s.pinStall l.val
    else ((if due then s.pinPull l.val else s).pinShout l.val k.toNat (n.toNat + 1)).pinDone l.val x.dl.toNat none

/-- The threshold of argument [1] has not been reached (R648). -/
def State.pushHeld (s : State) (l : Nat) (thr : Bool) : Bool := thr && decide ((s.pin l).inCnt < s.packThr l)
def State.pullHeld (s : State) (l : Nat) (thr : Bool) : Bool := thr && decide ((s.pin l).outCnt < s.unpackThr l)

/-- PUSH (R648). -/
def execPush (l : LaneId) (x : PinArg) (thr : Bool) (s : State) : Host.Outcome State Fault Refusal :=
  pinRun s l x (.push x.dl thr) fun s =>
    if s.pushHeld l.val thr then s.pinDone l.val x.dl.toNat none
    else if s.rxqFull l.val then s.pinStall l.val
    else (s.pinPush l.val).pinDone l.val x.dl.toNat none

/-- PUSH.N (R648). -/
def execPushN (l : LaneId) (x : PinArg) (thr : Bool) (s : State) : Host.Outcome State Fault Refusal :=
  pinRun s l x (.pushN x.dl thr) fun s =>
    (if s.pushHeld l.val thr then s else s.pinPush l.val).pinDone l.val x.dl.toNat none

/-- PULL (R648). -/
def execPull (l : LaneId) (x : PinArg) (thr : Bool) (s : State) : Host.Outcome State Fault Refusal :=
  pinRun s l x (.pull x.dl thr) fun s =>
    if s.pullHeld l.val thr then s.pinDone l.val x.dl.toNat none
    else if (s.pin l.val).txq.isEmpty then s.pinStall l.val
    else (s.pinPull l.val).pinDone l.val x.dl.toNat none

/-- PULL.N (R648). -/
def execPullN (l : LaneId) (x : PinArg) (thr : Bool) (s : State) : Host.Outcome State Fault Refusal :=
  pinRun s l x (.pullN x.dl thr) fun s =>
    (if s.pullHeld l.val thr then s else s.pinPull l.val).pinDone l.val x.dl.toNat none

/-- SETX (R641). -/
def execSetx (l : LaneId) (x : PinArg) (v : BitVec 8) (s : State) : Host.Outcome State Fault Refusal :=
  pinPlain s l x (.setx x.dl v) fun s => s.modPin l.val fun p => { p with x := v }

/-- DRIVE (R647): 3 is taken as 2. -/
def execDrive (l : LaneId) (x : PinArg) (k : BitVec 2) (s : State) : Host.Outcome State Fault Refusal :=
  pinPlain s l x (.drive x.dl k) fun s =>
    s.modPin l.val fun p => { p with drive := if k = 0 then .recessive else if k = 1 then .dominant else .codec }

/-- A CRC kind: 6 and 7 are taken as 0 (R646). -/
def crcKind (k : BitVec 3) : Nat := if k.toNat < 6 then k.toNat else 0

/-- Give the codec of a lane a command: it takes effect at the next bit boundary (R646). -/
def State.codecSet (s : State) (l : Nat) (x : CodecCmd) : State :=
  s.modPin l fun p => { p with codec := { p.codec with cmds := p.codec.cmds ++ [x] } }

/-- CRC_RESET. -/
def execCrcReset (l : LaneId) (x : PinArg) (k : BitVec 3) (s : State) : Host.Outcome State Fault Refusal :=
  pinPlain s l x (.crcReset x.dl k) fun s => s.codecSet l.val (.crcReset (crcKind k))

/-- STUFF_DYN. -/
def execStuffDyn (l : LaneId) (x : PinArg) (s : State) : Host.Outcome State Fault Refusal :=
  pinPlain s l x (.stuffDyn x.dl) fun s => s.codecSet l.val (.stuff 1)

/-- STUFF_FIXED_FD. -/
def execStuffFixedFd (l : LaneId) (x : PinArg) (s : State) : Host.Outcome State Fault Refusal :=
  pinPlain s l x (.stuffFixedFd x.dl) fun s => s.codecSet l.val (.stuff 2)

/-- STUFF_FIXED_XL. -/
def execStuffFixedXl (l : LaneId) (x : PinArg) (s : State) : Host.Outcome State Fault Refusal :=
  pinPlain s l x (.stuffFixedXl x.dl) fun s => s.codecSet l.val (.stuff 3)

/-- STUFF_OFF. -/
def execStuffOff (l : LaneId) (x : PinArg) (s : State) : Host.Outcome State Fault Refusal :=
  pinPlain s l x (.stuffOff x.dl) fun s => s.codecSet l.val (.stuff 4)

/-- CRC_SEND. -/
def execCrcSend (l : LaneId) (x : PinArg) (k : BitVec 3) (s : State) : Host.Outcome State Fault Refusal :=
  pinPlain s l x (.crcSend x.dl k) fun s => s.codecSet l.val (.crcSend (crcKind k))

/-- CRC_CHECK. -/
def execCrcCheck (l : LaneId) (x : PinArg) (k : BitVec 3) (_h : Unit) (s : State) : Host.Outcome State Fault Refusal :=
  pinPlain s l x (.crcCheck x.dl k) fun s =>
    s.codecSet l.val (.crcCheck (crcKind k))

/-- PHASE_DATA. -/
def execPhaseData (l : LaneId) (x : PinArg) (s : State) : Host.Outcome State Fault Refusal :=
  pinPlain s l x (.phaseData x.dl) fun s => s.codecSet l.val (.data true)

/-- PHASE_NOMINAL. -/
def execPhaseNominal (l : LaneId) (x : PinArg) (s : State) : Host.Outcome State Fault Refusal :=
  pinPlain s l x (.phaseNominal x.dl) fun s => s.codecSet l.val (.data false)

/-- ERR_CLEAR. -/
def execErrClear (l : LaneId) (x : PinArg) (s : State) : Host.Outcome State Fault Refusal :=
  pinPlain s l x (.errClear x.dl) fun s => s.codecSet l.val .errClear

/-- TDC_START: the loop delay is measured from the next edge (R62); TX_SUCCESS or TX_ERROR gives the result. -/
def execTdcStart (l : LaneId) (x : PinArg) (s : State) : Host.Outcome State Fault Refusal :=
  pinPlain s l x (.tdcStart x.dl) fun s => s.codecSet l.val .tdcStart

/-- SIG (R650): the event crosses after every word pushed before it. -/
def execSig (l : LaneId) (x : PinArg) (v : BitVec 3) (s : State) : Host.Outcome State Fault Refusal :=
  pinPlain s l x (.sig x.dl v) fun s => s.modPin l.val fun p => { p with crossing := p.crossing ++ [some v.toNat] }

/-- COPY (R641). -/
def execCopy (l : LaneId) (x : PinArg) (k : BitVec 4) (s : State) : Host.Outcome State Fault Refusal :=
  pinPlain s l x (.copy x.dl k) fun s =>
    s.modPin l.val fun p =>
      if k = 0 then { p with x := p.inSh.extractLsb' 0 8 }
      else if k = 1 then { p with x := p.outSh.extractLsb' 24 8 }
      else if k = 2 then { p with inSh := 0, inCnt := 0 }
      else if k = 3 then { p with outSh := 0, outCnt := 0 }
      else { p with x := BitVec.ofNat 8 p.inCnt }

/-- NOP (R641). -/
def execPinNop (l : LaneId) (x : PinArg) (s : State) : Host.Outcome State Fault Refusal :=
  pinPlain s l x (.nop x.dl) fun s => s

/-- A reserved operation or argument (R641), or a poisoned word (R696): NOP with the delay the word holds, ILLEGAL_OP. -/
def execPinReservedOp (l : LaneId) (s : State) : Host.Outcome State Fault Refusal :=
  pinRun s l ⟨0, []⟩ .reserved fun s =>
    let dl := ((s.pinWord l.val (s.runBank l.val) (s.pin l.val).pc).extractLsb' 8 4).toNat
    (s.setB (F.LANE_PESTAT.ILLEGAL_OP l.val) true).pinDone l.val dl none

/-! Bank control and programs (R652 to R655) -/

/-- An agent may write LANE_PECTRL, LANE_PELOOP and LANE_PEBANK of the lane now (R653): the quad's protocol engine always,
others in OFF. -/
def State.pinMay (s : State) (w : Agent) (l : Nat) : Bool :=
  (match w with | .engine e => e.val == l / 4 | .host _ => false) || s.laneSt l == St.off

/-- A write of SWITCH (R654, R655, R657). One that makes a switch pending once the instruction after LOOP_END executes waits for
the next LOOP_END; NOW replaces a switch that becomes due in its lt. -/
def State.switchWrite (s : State) (w : Agent) (l v : Nat) : State :=
  if v = 0 then s.pinSettle l
  else if !(s.pinMay w l) then (s.pinSettle l).clampBy w
  else if v = 1 then
    let s := (s.pinSettle l).modPin l fun p => { p with ended := p.ended && decide (s.now < p.busyUntil) }
    s.setB (F.LANE_PEBANK.SW_PEND l) true
  else if v = 2 then
    let s := if (s.pin l).busyUntil < s.now then s.pinSettle l else s
    (s.pinSwitch l).modPin l fun p => { p with busyUntil := s.now }
  else (s.pinSettle l).setB (F.LANE_PEBANK.SW_PEND l) false

/-- SWITCH_AT_END (R654). -/
def execSwitchAtEnd (w : Agent) (l : LaneId) (s : State) : Host.Outcome State Fault Refusal :=
  if s.mayWrite w then .next (s.switchWrite w l.val 1) else .next s

/-- SWITCH_NOW (R655). -/
def execSwitchNow (w : Agent) (l : LaneId) (s : State) : Host.Outcome State Fault Refusal :=
  if s.mayWrite w then .next (s.switchWrite w l.val 2) else .next s

/-- SWITCH_WITHDRAW (R654). -/
def execSwitchWithdraw (w : Agent) (l : LaneId) (s : State) : Host.Outcome State Fault Refusal :=
  if s.mayWrite w then .next (s.switchWrite w l.val 3) else .next s

/-! Programs (R652) -/

/-- A write to program word `k` of 0 to 31, bank 0 first (R652, R657): discarded for the bank that runs. -/
def State.progWrite (s : State) (w : Agent) (l k : Nat) (v : Word) : State :=
  let s := s.pinSettle l
  if (s.pin l).running && s.runBank l == k / 16 then (s.setB (F.LANE_PEBANK.PROG_WR_ACTIVE l) true).clampBy w
  else (s.setReg (0x100300 + l * 0x800 + 4 * k) v).heal 5 l k

/-- PEPROG_WRITE (R652). -/
def execPeprogWrite (w : Agent) (l : LaneId) (k : Fin 32) (v : Word) (s : State) : Host.Outcome State Fault Refusal :=
  if s.mayWrite w then .next (s.progWrite w l.val k.val v) else .next s

end Sys2Proof.Machine
end

