-- ==== Sys2Proof/Machine/Access.lean ====
section
/-! DEFINITION. Reads and writes of the BAR0 map by functions and engines (00 R7 to R15, 01 R39 to R42, R48, R737), and
the registers that show what other fields of the state hold. -/
namespace Sys2Proof.Machine

/-! Fields of a word -/

/-- The part of a field in word `k` of its register: lowest bit, width (0: none). -/
def RegField.part (f : RegField) (k : Nat) : Nat × Nat :=
  (max f.lsb (32 * k) - 32 * k, min (f.lsb + f.w) (32 * k + 32) - max f.lsb (32 * k))

/-- A write outside the set-up state can change the field (R15). -/
def RegField.live (f : RegField) : Bool :=
  match f.ty with
  | .w1c => true
  | .rw | .rwc | .wo => f.rt
  | .ro | .rc => false

/-- A write in progress: the word, fields clamped, and whether it carried another value for a field it cannot change. -/
structure WordWrite where
  v : Word
  clamps : Nat := 0
  ignored : Bool := false
deriving DecidableEq, Repr

/-- The write of `new` to one field of word `k` (R11, R737). -/
def RegField.write (f : RegField) (k : Nat) (setup : Bool) (new : Word) (x : WordWrite) : WordWrite :=
  let p := f.part k
  let n := bitsOf new p.1 p.2
  let o := bitsOf x.v p.1 p.2
  if p.2 = 0 then x
  else
    match f.ty with
    | .ro | .rc | .wo => x
    | .w1c => { x with v := putBits x.v p.1 p.2 (o - (o &&& n)) }
    | .rw => if setup || f.rt then { x with v := putBits x.v p.1 p.2 n } else { x with ignored := x.ignored || !(decide (n = o)) }
    | .rwc =>
      if setup || f.rt then
        let c := if p.2 = f.w then clampTo f.lo f.hi n else (n, 0)
        { x with v := putBits x.v p.1 p.2 c.1, clamps := x.clamps + c.2 }
      else { x with ignored := x.ignored || !(decide (n = o)) }

/-- Bits of word `k` that a field occupies. -/
def RegRow.mask (r : RegRow) (k : Nat) : Word :=
  r.fields.foldl (fun m f => let p := f.part k; putBits m p.1 p.2 (2 ^ p.2 - 1)) 0

/-- `n` clamps of the agent (engines have no CLAMP_COUNT). -/
def State.clampsBy (s : State) (w : Agent) (n : Nat) : State :=
  match w with
  | .host f => s.clamp f n
  | .engine _ => s

/-! Set-up states (R48) -/

/-- Every lane is in OFF and every Ethernet port is disabled (R318, R355). -/
def State.fabricIdle (s : State) : Bool :=
  (List.range 128).all (fun l => s.laneSt l == St.off) && (List.range 4).all fun e => !(s.fb (F.ETH_STAT.ENABLED e))

/-- The block of a register, index `i`, is in its set-up state for a write of agent `w`. No command takes the blocks of
`always` and `glb` out of it; an engine writes its own ENG_ registers at any time (14, "Registers"). -/
def State.inSetup (s : State) (w : Agent) (b : Blk) (i : Nat) : Bool :=
  match b with
  | .lane => s.laneSt i == St.off
  | .quad => s.quadOff i
  | .fabric => s.fabricIdle
  | .always | .glb => true
  | .host => !(s.fb (F.HOST_CTRL.ENABLED i))
  | .tb => !s.timeUp
  | .mor => !s.mor.started
  | .stack => !s.stack.started
  | .port => !(s.fb (F.ETH_STAT.ENABLED i))
  | .eng => (s.eng i).stopped || (match w with | .engine e => e.val == i | .host _ => false)

/-- A write by field types and ranges alone, `setup` as given (R48, R737). -/
def State.fieldsWrite (s : State) (w : Agent) (r : RegRow) (a : Nat) (v : Word) (setup : Bool) : State :=
  if !setup && !(r.fields.any RegField.live) then s.clampBy w
  else
    let x := r.fields.foldl (fun x f => f.write (r.rest a / 4) setup v x) { v := s.reg a }
    (s.setReg a x.v).clampsBy w (x.clamps + x.ignored.toNat)

/-- A write by field types and ranges in the block's state. -/
def State.plainWrite (s : State) (w : Agent) (r : RegRow) (a : Nat) (v : Word) : State :=
  s.fieldsWrite w r a v (s.inSetup w r.blk (r.i a))

/-! Writes of lane registers -/

/-- A lane whose logical bus is served by the other lane of its pair (R248). -/
def State.bLane (s : State) (l : Nat) : Bool := s.isPair l && !(decide (l % 2 = 0))

/-- The A lane of a pair (R248). -/
def State.aLane (s : State) (l : Nat) : Bool := s.isPair l && decide (l % 2 = 0)

/-- The function that last wrote the register of the timing word at offset `a` (R57). -/
def State.timedBy (s : State) (w : Agent) (l a : Nat) : State :=
  match w with
  | .host f => s.modLane l fun x => { x with timingBy := Tab.put (fun _ => 0) x.timingBy (timingReg a) f.val }
  | .engine _ => s

/-- Bits of a nominal or a data timing word that hold fields (R75, R76). -/
def timingMask (nom : Bool) : Word := if nom then 0xFFFF7F7F#32 else 0x1F3F1F1F#32

/-- A write of a timing word through its clamp (R53 to R57); reserved bits are ignored (R14). `nom`: the layout of
LANE_NBT. -/
def State.timingWrite (s : State) (w : Agent) (l : Nat) (nom : Bool) (a : Nat) (v : Word) (c : Word → Word × Nat) : State :=
  if s.laneSt l = St.off then
    let x := c (v &&& timingMask nom)
    ((s.setReg a x.1).clampsBy w x.2).timedBy w l a
  else s.clampBy w

/-- A write of LANE_XLCFG (R72). -/
def State.xlcfgWrite (s : State) (w : Agent) (l : Nat) (r : RegRow) (a : Nat) (v : Word) : State :=
  if s.laneSt l = St.off then
    let x := (s.setReg a (v &&& r.mask 0)).pwmClamp l
    (x.1.clampsBy w x.2).timedBy w l a
  else s.clampBy w

/-- A write of word 0 of LANE_FLTCFG (R215): FBASE, then FBLOCKS. -/
def State.fltcfgWrite (s : State) (w : Agent) (l : Nat) (v : Word) : State :=
  if s.laneSt l = St.off then
    let b := clampTo 0 2046 (fieldOf v 0 11)
    let n := fieldOf v 12 8
    let m := if 2048 < b.1 + 2 * (n + 1) then (2048 - b.1) / 2 - 1 else n
    let same := b.1 == s.f (F.LANE_FLTCFG.FBASE l) && m == s.f (F.LANE_FLTCFG.FBLOCKS l)
    let s := ((s.setF (F.LANE_FLTCFG.FBASE l) b.1).setF (F.LANE_FLTCFG.FBLOCKS l) m).clampsBy w (b.2 + (decide (m ≠ n)).toNat)
    if same then s else s.fltEmpty l
  else s.clampBy w

/-- A write of LANE_PEBANK (R653, R654, R661): START_BANK and SWITCH where the agent may write them now. -/
def State.pebankWrite (s : State) (w : Agent) (l : Nat) (r : RegRow) (a : Nat) (v : Word) : State :=
  let s := s.pinSettle l
  if s.pinMay w l then (s.fieldsWrite w r a v true).switchWrite w l (fieldOf v 24 2)
  else
    let s' := s.fieldsWrite w r a v false
    if !(decide (fieldOf v 24 2 = 0)) && (v.getLsbD 16 == (s.reg a).getLsbD 16) then s'.clampBy w else s'

/-- A write of a lane register. -/
def State.laneWrite (s : State) (w : Agent) (r : RegRow) (a : Nat) (v : Word) : State :=
  let l := r.i a
  let k := r.rest a / 4
  match r.base with
  | 0x100010 => s.timingWrite w l true a v clampNom
  | 0x100018 => s.timingWrite w l false a v (if k = 0 then clampFd else clampXl (s.fastXl l))
  | 0x100024 => s.xlcfgWrite w l r a v
  | 0x100100 =>
    if k = 3 then s.plainWrite w r a v
    else s.timingWrite w l (k == 0) a v (if k = 0 then clampNom else if k = 1 then clampFd else clampXl (s.fastXl l))
  | 0x100030 => s.fieldsWrite w r a v (s.laneSt l == St.off && !(s.bLane l))
  | 0x100034 => (s.keepCorr l).plainWrite w r a v
  | 0x100038 => (s.keepCorr l).plainWrite w r a v
  | 0x100040 => (if k = 0 ∧ v.getLsbD 14 then s.vlogClear l else s).plainWrite w r a v
  | 0x100058 => if s.bLane l then s.clampBy w else s.plainWrite w r a v
  | 0x100060 => if s.bLane l then s.clampBy w else if k = 0 then s.fltcfgWrite w l v else s.plainWrite w r a v
  | 0x100068 => if s.bLane l then s.clampBy w else s.plainWrite w r a v
  | 0x100070 => if s.aLane l then s.fieldsWrite w r a v (s.laneSt l == St.off && s.laneSt (l + 1) == St.off) else s.clampBy w
  | 0x100078 => if s.aLane l then s.plainWrite w r a v else s.clampBy w
  | 0x100080 => if s.aLane l then s.plainWrite w r a v else s.clampBy w
  | 0x100280 => s.fieldsWrite w r a v (s.pinMay w l)
  | 0x100284 => s.pebankWrite w l r a v
  | 0x100288 => (s.pinSettle l).fieldsWrite w r a v (s.pinMay w l)
  | 0x100300 => s.progWrite w l (r.j a) v
  | _ => s.plainWrite w r a v

/-! Writes of quads, Col and Firn -/

/-- A write of QUAD_CTRL (R25, R689). -/
def State.quadCtrlWrite (s : State) (w : Agent) (q : Nat) (v : Word) : State :=
  if s.quadOff q then (s.gateWrite w q (v.getLsbD 2)).modeWrite w q (fieldOf v 0 2) else s.clampBy w

/-- A write of RESERVE of port `p` (R329). -/
def State.reserveWrite (s : State) (w : Agent) (p : Nat) (v : Word) : State :=
  if s.fabricIdle then
    let n := fieldOf v 0 15
    let m := min (clampTo 33 (if p < 4 then 16384 else 8192) n).1 (245760 - (sumPorts s.reserve - s.reserve p))
    ((s.setF (F.FIRN_PORTRES.RESERVE p) m).clampsBy w (decide (m ≠ n)).toNat).checkLow
  else s.clampBy w

/-- Clamp one field of profile `i` to a range, with the count. -/
def State.profClamp (x : State × Nat) (f : Fld) (lo hi : Nat) : State × Nat :=
  let c := clampTo lo hi (x.1.f f)
  (if c.2 = 0 then x.1 else x.1.setF f c.1, x.2 + c.2)

/-- The clamps of R340 on profile `i`, in their order. -/
def State.profClamps (s : State) (i : Nat) : State × Nat :=
  let x := State.profClamp (s, 0) (F.FIRN_WPROF.G_MAX i) 9 65535
  let g := x.1.f (F.FIRN_WPROF.G_MAX i)
  let x := State.profClamp x (F.FIRN_WPROF.G_MIN i) g g
  let x := State.profClamp x (F.FIRN_WPROF.G_MAXP i) 255 255
  let x := State.profClamp x (F.FIRN_WPROF.Y_MAX i) 0 g
  let x := State.profClamp x (F.FIRN_WPROF.Y_MIN i) 0 (x.1.f (F.FIRN_WPROF.Y_MAX i))
  let x := State.profClamp x (F.FIRN_WPROF.R_MAX i) 0 (x.1.f (F.FIRN_WPROF.Y_MIN i))
  let x := State.profClamp x (F.FIRN_WPROF.R_MIN i) 0 (x.1.f (F.FIRN_WPROF.R_MAX i))
  State.profClamp x (F.FIRN_WPROF.W_EXP i) 1 12

/-- A write of a word of FIRN_WPROF (R340). -/
def State.profWrite (s : State) (w : Agent) (i a : Nat) (v : Word) : State :=
  if s.fabricIdle then
    let x := (s.setReg a v).profClamps i
    x.1.clampsBy w x.2
  else s.clampBy w

/-- A table that RT_LOAD loads (R302): engine code may store to it, a function may not. -/
def State.loadedWrite (s : State) (w : Agent) (r : RegRow) (a : Nat) (v : Word) : State :=
  match w with
  | .host f => s.clamp f 1
  | .engine _ => s.setReg a (v &&& r.mask (r.rest a / 4))

/-- A write of a register of Col, Firn or a quad. FIRN_POL is loaded only by POL_LOAD (R338, R368). -/
def State.fabricWrite (s : State) (w : Agent) (r : RegRow) (a : Nat) (v : Word) : State :=
  match r.base with
  | 0x180000 => s.quadCtrlWrite w (r.i a) v
  | 0x58000 => s.loadedWrite w r a v
  | 0x68000 => s.clampBy w
  | 0x60000 => (s.plainWrite w r a v).checkLow
  | 0x60100 => if r.rest a / 4 = 1 then s.reserveWrite w (r.i a) v else s.plainWrite w r a v
  | 0x61000 => s.profWrite w (r.i a) a (v &&& r.mask (r.rest a / 4))
  | _ => s.plainWrite w r a v

/-! Writes of Cirque's registers -/

/-- A write of CIRQUE_DOORBELL (R417). -/
def State.doorbellWrite (s : State) (w : Agent) (v : Word) : State :=
  let n := fieldOf v 0 11
  match w with
  | .host f => if n < 1024 then s.clamp f 1 else s.raise n
  | .engine _ => s.raise n

/-- A write of CIRQUE_COMPLETE (R426, R427). -/
def State.completeWrite (s : State) (w : Agent) (t : Nat) (v : Word) : State :=
  if mayUse w t then
    let x := s.complete t (fieldOf v 0 11)
    if x.1 then x.2 else x.2.clampBy w
  else s.clampBy w

/-- A write of IDLE (R427, R431): of a host target; IDLE of an engine target is read-only. -/
def State.idleWrite (s : State) (w : Agent) (t : Nat) (b : Bool) : State :=
  if !(mayUse w t) then s.clampBy w
  else if isHostTarget t then s.modTgt t fun x => { x with idle := b }
  else s

/-- A write of a Cirque register (R432 to R439). -/
def State.cirqueWrite (s : State) (w : Agent) (r : RegRow) (a : Nat) (v : Word) : State :=
  let t := r.i a
  match r.base with
  | 0x20000 => s.doorbellWrite w v
  | 0x22000 => s.srcWrite w t v
  | 0x20404 => if isTarget t then s.completeWrite w t v else s
  | 0x2040C => if isTarget t then s.idleWrite w t (v.getLsbD 31) else s
  | _ => if !(isTarget t) then s else if mayUse w t then s.plainWrite w r a v else s.clampBy w

/-! Writes of the remaining blocks -/

/-- A write of SNOW_CAUSE (R455, R456): a lane's code goes with its bit, and FIRST reads 31 once no cause is left. -/
def State.causeWrite (s : State) (w : Agent) (r : RegRow) (a : Nat) (v : Word) : State :=
  let s := s.plainWrite w r a v
  let s := (List.range 16).foldl (fun st n => if v.getLsbD n then st.setF (lcode n) 0 else st) s
  if bitsOf (s.reg a) 0 26 = 0 then s.setF F.SNOW_CAUSE.FIRST 31 else s

/-- A write of a time-base register. -/
def State.tbWrite (s : State) (w : Agent) (r : RegRow) (a : Nat) (v : Word) : State :=
  let n := r.i a
  let k := r.rest a / 4
  match r.base with
  | 0x40008 => if k = 0 then s.slewWrite w n (s.reg (a + 4) ++ v) else s.plainWrite w r a v
  | 0x40030 => if k = 0 then s.tbSetWrite w n v else s.plainWrite w r a v
  | 0x40900 =>
    let en := s.fb (F.TB_BDIST.EN n)
    let s := s.plainWrite w r a v
    let fmt := s.f (F.TB_BDIST.FORMAT n)
    let badFmt := !s.timeUp && k == 1 && (fmt == 0 || decide (5 < fmt))
    let s := if badFmt then (s.setF (F.TB_BDIST.FORMAT n) 1).clampBy w else s
    let s := if !s.timeUp && decide (s.f (F.TB_BDIST.FORMAT n) ≤ 2) && s.fb (F.TB_BDIST.LAYOUT n) then
      (s.setB (F.TB_BDIST.LAYOUT n) false).clampBy w else s
    if s.fb (F.TB_BDIST.EN n) && !en then s.setBd n (s.bdMultiple n) else s
  | _ => s.plainWrite w r a v

/-- A word written to SIZE of MOR_DRING that its range alone clamps (R529). -/
def sizeOut (a : Nat) (v : Word) : Bool :=
  decide (a = F.MOR_DRING.SIZE.off) && (clampTo 16 16384 (bitsOf v F.MOR_DRING.SIZE.lsb F.MOR_DRING.SIZE.w)).2 == 1

/-- A write of a Moraine register (R521, R529): SIZE is clamped to its range and to what is installed, and counts once. -/
def State.morWrite (s : State) (w : Agent) (r : RegRow) (a : Nat) (v : Word) : State :=
  match r.base with
  | 0x70020 => s.hheadWrite w v
  | 0x70008 =>
    let s' := s.plainWrite w r a v
    if !s.mor.started && s'.dringOver then (if sizeOut a v then s'.dringFit else s'.dringFit.clampBy w) else s'
  | _ => s.plainWrite w r a v

/-- A write of ENG_CTRL to ENG_MSLIM (R627 to R629): RSMODE 3 is clamped to 0, and WIN to installed memory. -/
def State.engWrite (s : State) (w : Agent) (r : RegRow) (a : Nat) (v : Word) : State :=
  if r.base = 0x20C000 ∧ fieldOf v 0 2 = 3 ∧ s.inSetup w .eng (r.i a) then (s.setReg a 0).clampBy w
  else if r.base = 0x20C004 ∧ Config.dramMiB / 1024 ≤ fieldOf v 0 4 ∧ s.inSetup w .eng (r.i a) then
    (s.setReg a (BitVec.ofNat 32 (Config.dramMiB / 1024 - 1))).clampBy w
  else s.plainWrite w r a v

/-- A write of GLB_ACTION (R684). -/
def State.actionWrite (s : State) (w : Agent) (v : Word) : State :=
  if v = 0x52535421#32 then s.keyReset else if v = 0x53425921#32 then s.keyStandby else s.clampBy w

/-- With RESUME_EN 1 the running image lies in the top 2 MiB of attached memory (R691 step 3, log 62). -/
def State.resumeKeep (s : State) : State :=
  if s.fb F.GLB_RESUME.RESUME_EN then
    s.wrBytes (dramBase + (Config.dramMiB - 2) * 1048576) s.boot.running
  else s

/-- A write of a register of the global region (R669, R684, R692, R695, R698 to R717). -/
def State.glbWrite (s : State) (w : Agent) (r : RegRow) (a : Nat) (v : Word) : State :=
  match r.base, w with
  | 0x38, _ => s.actionWrite w v
  | 0x28, .host f => s.bootLenWrite f v
  | 0x28, .engine _ => s
  | 0x20, .host f =>
    if !(s.fb F.GLB_BOOT.BOOT_DONE) && s.f F.GLB_BOOT.STRAP_SRC == f.val + 1 then s.plainWrite w r a v else s.clamp f 1
  | 0x20, .engine _ => s
  | 0x50, _ => (s.plainWrite w r a v).resumeKeep.dringFit
  | 0x40, _ =>
    let t := s.plainWrite w r a v
    if s.fb F.GLB_ECCCTRL.SCRUB_EN then t else t.modBoot fun b => { b with passAt := t.now }
  | _, _ => s.plainWrite w r a v

/-- A write of an occupied word of the map. -/
def State.regWrite (s : State) (w : Agent) (r : RegRow) (a : Nat) (v : Word) : State :=
  if a < 0x20000 then s.glbWrite w r a v
  else if a < 0x40000 then s.cirqueWrite w r a v
  else if a < 0x50000 then s.tbWrite w r a v
  else if a < 0x70000 then s.fabricWrite w r a v
  else if a < 0x80000 then s.morWrite w r a v
  else if 0x88000 ≤ a ∧ a < 0x90000 then s.setReg a ((s.reg a &&& 0x00020002#32) ||| (v &&& 0xCF00CF00#32))
  else if a < 0xC0000 then s.plainWrite w r a v
  else if a < 0x100000 then (if r.base = 0xC0008 then s.causeWrite w r a v else s.plainWrite w r a v)
  else if a < 0x140000 then s.laneWrite w r a v
  else if a < 0x200000 then s.fabricWrite w r a v
  else s.engWrite w r a v

/-! The map as a whole -/

/-- Program or data memory of an engine (R41): the engine, data or program, the offset in it. -/
def engMemOf (a : Nat) : Option (Nat × Bool × Nat) :=
  if 0x200000 ≤ a ∧ a < 0x440000 then
    let e := (a - 0x200000) / 0x10000
    let o := (a - 0x200000) % 0x10000
    if o < 0x6000 then some (e, false, o)
    else if 0x8000 ≤ o ∧ o < 0xC000 then some (e, true, o - 0x8000)
    else none
  else none

/-- Filter memory (6) or route memory (7) and the offset in it (R40). -/
def listMemOf (a : Nat) : Option (Nat × Nat) :=
  if 0x800000 ≤ a ∧ a < 0xA00000 then some (6, a - 0x800000)
  else if 0xC00000 ≤ a ∧ a < 0xD00000 then some (7, a - 0xC00000)
  else none

/-- The host function block that offset `a` lies in (R40). -/
def hostBlockOf (a : Nat) : Option Nat :=
  if 0x90000 ≤ a ∧ a < 0xA0000 then some 0 else if 0xA0000 ≤ a ∧ a < 0xB0000 then some 1 else none

/-- A word of an engine's own program memory as its fetches see it: what it stored itself shows only after FENCE (R583). -/
def State.ownWord (s : State) (e k : Nat) : Word :=
  match (s.eng e).stale.find? fun x => decide (x.1 = k) with
  | some x => x.2
  | none => s.rd32 (engBase e + 4 * k)

/-- Keep what fetches see of a program word until FENCE (R583). -/
def State.keepStale (s : State) (e k : Nat) : State :=
  let v := s.ownWord e k
  s.modEng e fun g => { g with stale := Tab.ins g.stale k v }

/-- Store a word of an engine's memory: the mark of a poisoned word goes; of its program memory, fetches see the new word at
once, or after FENCE where the engine itself stores it (R583, R694). -/
def State.engStore (s : State) (e : Nat) (own d : Bool) (o a : Nat) (v : Word) : State :=
  let s := if d then s else if own then s.keepStale e (o / 4) else s.modEng e fun g => { g with stale := Tab.del g.stale (o / 4) }
  (s.wr32 a v).heal d.toNat e (o / 4)

/-- A 32-bit write to the BAR0 map (R40, R42, R216, R302). -/
def State.busWrite (s : State) (w : Agent) (a : Nat) (v : Word) : State :=
  match engMemOf a, listMemOf a, w with
  | some (e, d, o), _, .host f => if (s.eng e).stopped then s.engStore e false d o a v else s.clamp f 1
  | some (e, d, o), _, .engine x => s.engStore e (decide (x.val = e)) d o a v
  | none, some _, .host f => s.clamp f 1
  | none, some (m, o), .engine _ => (s.wr32 a v).heal m 0 (o / 4)
  | none, none, _ =>
    match hostBlockOf a, w with
    | some 0, .host 1 => s.clamp 1 1
    | some 1, .host 0 => s.clamp 0 1
    | _, _ =>
      match regRow a with
      | some r => s.regWrite w r a v
      | none => s

/-! What registers read -/

/-- A 32-bit slice of a wide value. -/
def slice32 (n k : Nat) : Word := BitVec.ofNat 32 (n / 2 ^ (32 * k))

/-- HOST_SQSTAT as one number (R413). -/
def Sq.stat (q : Sq) : Nat :=
  q.low % 65536 + q.cq * 65536 + q.size * 2 ^ 23 + 2 ^ 31 + q.head * 2 ^ 32 + q.tail * 2 ^ 48 + q.base / 4096 * 2 ^ 76

/-- HOST_CQSTAT as one number (R414). -/
def Cq.stat (c : Cq) : Nat :=
  c.reserved % 65536 + c.bufsz * 2 ^ 20 + c.size * 2 ^ 23 + c.phase.toNat * 2 ^ 30 + c.backed.toNat * 2 ^ 31 +
    c.tail * 2 ^ 32 + c.head * 2 ^ 48 + c.posted.length % 4096 * 2 ^ 64 + c.base / 4096 * 2 ^ 76

/-- 32 ownership bits from ring `32 * j` on. -/
def bits32 (j : Nat) (p : Nat → Bool) : Word :=
  BitVec.ofNat 32 ((List.range 32).foldl (fun n b => n + (p (32 * j + b)).toNat * 2 ^ b) 0)

/-- The upper word of LANE_PESTAT (R663), its sticky flags as stored. -/
def PinEng.stat (p : PinEng) (v : Word) : Word :=
  putBits v 0 28 (p.outCnt % 64 + p.inCnt % 64 * 256 + p.rxq.length % 16 * 65536 + p.txq.length % 16 * 1048576 +
    p.stalled.toNat * 67108864 + p.running.toNat * 134217728)

/-- ENG_STAT (R616, R630); `waits`: the engine is in WAIT. -/
def Eng.stat (g : Eng) (waits : Bool) : Word :=
  BitVec.ofNat 32 (g.frames.length % 32 + g.rsd % 16 * 4096 + g.os.length % 32 * 65536 + g.haltCause % 32 * 16777216 +
    g.stopped.toNat * 536870912 + waits.toNat * 1073741824 + g.halted.toNat * 2147483648)

/-- What a lane register shows beside what is stored. -/
def State.laneShow (s : State) (r : RegRow) (a : Nat) (v : Word) : Word :=
  let l := r.i a
  let k := r.rest a / 4
  let p := s.pin l
  match r.base with
  | 0x100058 => if k = 0 then putBits v 0 16 (min 65535 ((s.bus l).filter fun e => !e.done).length) else v
  | 0x100070 => if s.aLane l then putBits v 30 2 (s.pstate l) else 0
  | 0x100078 => if s.aLane l then v else 0
  | 0x100080 => if s.aLane l then v else 0
  | 0x100290 => if k = 0 then putBits v 16 16 (p.pc % 32 + p.x.toNat * 256) else p.stat v
  | 0x100298 => if k = 0 then p.outSh else p.inSh
  | 0x100400 => if (List.range 4).any fun i => s.poisoned 4 l (4 * r.j a + i) then 0 else v
  | _ => v

/-- What a register of a function's block shows (R412 to R414). -/
def State.hostShow (s : State) (r : RegRow) (a : Nat) (v : Word) : Word :=
  let f := r.i a
  let n := r.j a
  let k := r.rest a / 4
  match r.base with
  | 0x90040 => bits32 n fun q => decide ((s.sq q).owner = some f)
  | 0x90050 => bits32 n fun q => decide ((s.cq q).owner = some f)
  | 0x90060 => bits32 n fun q => (s.cq q).orphan.isSome
  | 0x91000 => if (s.sq n).owner = some f then slice32 (s.sq n).stat k else 0
  | 0x92000 => if (s.cq n).owner = some f then slice32 (s.cq n).stat k else 0
  | _ => v

/-- What the other registers show beside what is stored. -/
def State.restShow (s : State) (r : RegRow) (a : Nat) (v : Word) : Word :=
  let i := r.i a
  let k := r.rest a / 4
  let g := s.eng i
  match r.base with
  | 0x0 => if k = 0 then putBits v 0 8 Config.siRev.toNat
           else BitVec.ofNat 32 (Config.otpMinSecver % 64 * 1048576 +
             ((Config.otpRevoked false).toNat + (Config.otpRevoked true).toNat * 2) * 262144 +
             ((Config.otpValid false).toNat + (Config.otpValid true).toNat * 2) * 65536)
  | 0x10 => Config.uid.extractLsb' (32 * k) 32
  | 0x20 => v
  | 0x22000 => (s.src i).word
  | 0x2040C => if isTarget i then s.tstatWord i else 0
  | 0x20408 => if isTarget i then v else 0
  | 0x40008 => if k = 0 then BitVec.ofNat 32 (s.slewAmount i) else v
  | 0x60008 => if k = 0 then putBits v 0 19 s.freeCells else putBits v 0 19 s.sharedFree
  | 0x60100 => if k = 0 then BitVec.ofNat 32 (s.portCharged i) else v
  | 0x60400 => if k = 0 then BitVec.ofNat 32 (s.heldOf i) else v
  | 0x180018 => slice32 ((List.range 4).foldl (fun n c => n + s.objsOn (4 * i + c) 1024 * 2 ^ (9 * c)) 0) k
  | 0x20C010 => g.stat (s.engWaiting i)
  | 0x20C014 => BitVec.ofNat 32 (g.rss % 65536)
  | 0x20C018 => g.st
  | 0x20C01C => BitVec.ofNat 32 g.pc
  | _ => v

/-- The pending-bit array of function `f` (R370, R429). -/
def State.pba (s : State) (f : Nat) : Word := bits32 0 fun v => decide (v < 16) && s.pendingBit (64 + 16 * f + v)

/-- The RC fields of a word, cleared (R11). -/
def RegRow.cleared (r : RegRow) (k : Nat) (v : Word) : Word :=
  r.fields.foldl (fun v f => if f.ty = .rc then let p := f.part k; putBits v p.1 p.2 0 else v) v

/-- The level of the pin of bit `b` of SNOW_STAT (R457): the one it has shown or taken in this lt, and else a free one (log 109). -/
def State.pinLevel (s : State) (b : Nat) : Bool × State :=
  match s.snow.lvls.find? fun x => decide (x.1 = b) && decide (x.2.2 = s.now) with
  | some x => (x.2.1, s)
  | none => let d := s.drawWord; (d.1.getLsbD 0, d.2.setLevel b (d.1.getLsbD 0))

/-- A read of an occupied word: what it returns, and its effects (R11, R425, R474). A read of TJ_MAX starts its highest
temperature again at the one measured last (R710). -/
def State.regRead (s : State) (w : Agent) (r : RegRow) (a : Nat) : Word × State :=
  let k := r.rest a / 4
  let i := r.i a
  match r.base with
  | 0x20400 => if mayUse w i then s.claim i else (0, s)
  | 0x20404 => (0, s)
  | 0x40020 => let s := if k = 0 then s.tbCapture w i else s; (s.capWord w k, s)
  | 0xC0018 => (List.range 7).foldl (fun x b => let y := x.2.pinLevel (25 + b); (putBits x.1 (25 + b) 1 y.1.toNat, y.2)) (s.reg a, s)
  | 0x10010 =>
    let v := s.reg a
    (v, (s.setReg a (r.cleared k v)).setF F.PWR_STAT.TJ_MAX (s.f F.PWR_STAT.TJ))
  | _ =>
    let v := s.reg a
    let v := if 0x100000 ≤ a ∧ a < 0x140000 then s.laneShow r a v
             else if 0x90000 ≤ a ∧ a < 0xB0000 then s.hostShow r a v else s.restShow r a v
    (v, s.setReg a (r.cleared k (s.reg a)))

/-- A 32-bit read of the BAR0 map (R14, R40). A poisoned word read as plain memory is not in the spec: free (log 1). -/
def State.busRead (s : State) (w : Agent) (a : Nat) : Word × State :=
  match engMemOf a, listMemOf a with
  | some (e, d, o), _ => if s.poisoned d.toNat e (o / 4) then s.drawWord else (s.rd32 a, s)
  | none, some (m, o) => if s.poisoned m 0 (o / 4) then s.drawWord else (s.rd32 a, s)
  | none, none =>
    if a = 0x99000 then (s.pba 0, s)
    else if a = 0xA9000 then (s.pba 1, s)
    else
      match regRow a with
      | some r => (if 0x100000 ≤ a ∧ a < 0x140000 then s.pinSettle (r.i a) else s).regRead w r a
      | none => (0, s)

/-! Commands -/

/-- What a function can reach before boot ends: the global region (R669, R674 step 3; log 37). -/
def State.mayWriteAt (s : State) (w : Agent) (a : Nat) : Bool := s.mayWrite w || (s.mayRead w && decide (a < 0x200))

/-- REGISTER_WRITE (R11, R15, R39, R40, R42, R48, R737). -/
def execRegisterWrite (w : Agent) (a : WordIx) (v : Word) (be : BitVec 4) (s : State) : Host.Outcome State Fault Refusal :=
  if !(s.mayWriteAt w (4 * a.val)) then .next s
  else if be = 15#4 then .next (s.busWrite w (4 * a.val) v)
  else .next (s.clampBy w)

/-- A read of a doorbell by function `f`: what the owner last wrote to it (R44). -/
def State.doorbellView (s : State) (f : Nat) (d : Doorbell) : Word :=
  match d with
  | .sqTail n => (s.sq n.val).db
  | .cqHead n => (s.cq n.val).db
  | .adminTail => (s.func f).aDb
  | .adminHead => (s.func f).cDb

/-- What a read shows, and its effects: BAR2 and BAR4 are a function's, and read 0 until BOOT_DONE (R674 step 3). -/
def State.readAt (s : State) (r : Agent) (a : ReadAt) : Word × State :=
  match a, r with
  | .bar0 a, r => s.busRead r (4 * a.val)
  | .doorbell d, .host f => (if s.hostOpen f.val then s.doorbellView f.val d else 0, s)
  | .object q o w, .host f => (if s.hostOpen f.val then s.objView f.val q.val o.val (w.val + 1) else 0, s)
  | _, .engine _ => (0, s)

/-- RC_FIELD_READ (R11, R39, R44, R45): every read that has no row of its own. -/
def execRcFieldRead (r : Agent) (a : ReadAt) (s : State) : Host.Outcome State Fault Refusal :=
  if s.mayRead r then
    let x := s.readAt r a
    .next (x.2.withReadData x.1)
  else .next s

end Sys2Proof.Machine
end

