-- ==== Sys2Proof/Machine/Operands.lean ====
section
/-! DEFINITION. Operand forms of the engine instruction set (14): the instruction words, the address space an engine sees,
its loads and stores, its stacks. -/
namespace Sys2Proof.Machine

/-! Instructions as a slot holds them (R586, R596, R597) -/

/-- An engine instruction. `illegal`: not defined, or with a reserved bit set (R589). -/
inductive EngOp where
  | illegal
  | lnop | lit (v : BitVec 24) | litu (v : BitVec 24) | sethi (v : BitVec 8) | addi (v : BitVec 24) | cmpi (v : BitVec 24)
  | lda (v : BitVec 24) | sta (v : BitVec 24) | jz (v : BitVec 24) | jnz (v : BitVec 24) | call (v : BitVec 24) | repLong
  | jcc (c : BitVec 4) (v : BitVec 24)
  | nop | dup | drop | swap | over | rot | pick (n : BitVec 4) | slit (v : BitVec 9)
  | add | sub | adc | sbc | adds | subs | mul | mulh (u : Bool) | div | divu | neg | abs | and | or | xor | not
  | shl | shr | sar | rol | ror | shi (k : BitVec 2) (n : BitVec 6) | cmp | tst | ld | st
  | ldp (sz : BitVec 2) (inc sx pb : Bool) | stp (sz : BitVec 2) (inc sx pb : Bool)
  | popx (k : BitVec 2) | pushx (k : BitVec 2) | amo (k : BitVec 2) | rep | clz | bswap | ext (lsb : BitVec 5) (w : BitVec 4)
  | calls | jmps | bz (v : BitVec 9) | bnz (v : BitVec 9)
  | addp (pb : Bool) (v : BitVec 8) | setrc (v : BitVec 9) | flag (set : Bool) (m : BitVec 7) | ien (v : Bool)
  | setil (v : BitVec 4) | bcc (c : BitVec 4) (v : BitVec 5) | ret | reti | wait | fence | swi (code : BitVec 8)
deriving DecidableEq, Repr

/-- An instruction whose field, or part of it, is reserved: illegal unless those bits are 0 (R589). -/
def reserved (bits : Nat) (i : EngOp) : EngOp := if bits = 0 then i else .illegal

/-- The long instruction of a word with F = 0 (R596). -/
def longOp (w : Word) : EngOp :=
  let v := w.extractLsb' 0 24
  match bitsOf w 24 7 with
  | 0x00 => reserved v.toNat .lnop
  | 0x01 => .lit v
  | 0x02 => .litu v
  | 0x03 => reserved (bitsOf w 8 16) (.sethi (w.extractLsb' 0 8))
  | 0x04 => .addi v
  | 0x05 => .cmpi v
  | 0x06 => .lda v
  | 0x07 => .sta v
  | 0x08 => .jz v
  | 0x09 => .jnz v
  | 0x0A => .call v
  | 0x0B => reserved v.toNat .repLong
  | n => if 0x10 ≤ n ∧ n < 0x20 then .jcc (w.extractLsb' 24 4) v else .illegal

/-- The short instruction of a slot: opcode [14:9], field [8:0] (R597). -/
def shortOp (s : BitVec 15) : EngOp :=
  let f := s.extractLsb' 0 9
  let r := reserved f.toNat
  let hi (k : Nat) : EngOp → EngOp := reserved (f.toNat / 2 ^ k)
  match (s.extractLsb' 9 6).toNat with
  | 0x00 => r .nop
  | 0x01 => r .dup
  | 0x02 => r .drop
  | 0x03 => r .swap
  | 0x04 => r .over
  | 0x05 => r .rot
  | 0x06 => hi 4 (.pick (f.extractLsb' 0 4))
  | 0x07 => .slit f
  | 0x08 => r .add
  | 0x09 => r .sub
  | 0x0A => r .adc
  | 0x0B => r .sbc
  | 0x0C => r .adds
  | 0x0D => r .subs
  | 0x0E => r .mul
  | 0x0F => hi 1 (.mulh (f.getLsbD 0))
  | 0x10 => r .div
  | 0x11 => r .divu
  | 0x12 => r .neg
  | 0x13 => r .abs
  | 0x14 => r .and
  | 0x15 => r .or
  | 0x16 => r .xor
  | 0x17 => r .not
  | 0x18 => r .shl
  | 0x19 => r .shr
  | 0x1A => r .sar
  | 0x1B => r .rol
  | 0x1C => r .ror
  | 0x1D => reserved (f.extractLsb' 6 1).toNat (.shi (f.extractLsb' 7 2) (f.extractLsb' 0 6))
  | 0x1E => r .cmp
  | 0x1F => r .tst
  | 0x20 => r .ld
  | 0x21 => r .st
  | 0x22 => hi 5 (.ldp (f.extractLsb' 0 2) (f.getLsbD 2) (f.getLsbD 3) (f.getLsbD 4))
  | 0x23 => hi 5 (.stp (f.extractLsb' 0 2) (f.getLsbD 2) (f.getLsbD 3) (f.getLsbD 4))
  | 0x24 => hi 2 (.popx (f.extractLsb' 0 2))
  | 0x25 => hi 2 (.pushx (f.extractLsb' 0 2))
  | 0x26 => hi 2 (.amo (f.extractLsb' 0 2))
  | 0x27 => r .rep
  | 0x28 => r .clz
  | 0x29 => r .bswap
  | 0x2A => .ext (f.extractLsb' 4 5) (f.extractLsb' 0 4)
  | 0x2B => r .calls
  | 0x2C => r .jmps
  | 0x2D => .bz f
  | 0x2E => .bnz f
  | 0x30 => .addp (f.getLsbD 8) (f.extractLsb' 0 8)
  | 0x31 => .setrc f
  | 0x32 => reserved (f.extractLsb' 7 1).toNat (.flag (f.getLsbD 8) (f.extractLsb' 0 7))
  | 0x33 => hi 1 (.ien (f.getLsbD 0))
  | 0x34 => hi 4 (.setil (f.extractLsb' 0 4))
  | 0x35 => .bcc (f.extractLsb' 5 4) (f.extractLsb' 0 5)
  | 0x36 => r .ret
  | 0x37 => r .reti
  | 0x38 => r .wait
  | 0x39 => r .fence
  | 0x3A => hi 8 (.swi (f.extractLsb' 0 8))
  | _ => .illegal

/-- Slot A and slot B of a pair (R586). -/
def slotBits (w : Word) (b : Bool) : BitVec 15 := if b then w.extractLsb' 1 15 else w.extractLsb' 16 15

/-- A word is a pair. -/
def isPairWord (w : Word) : Bool := w.getLsbD 31

/-- The instruction at slot `b` of a word; a long instruction fills its word. -/
def wordOp (w : Word) (b : Bool) : EngOp := if isPairWord w then shortOp (slotBits w b) else longOp w

/-- A short instruction touches the operand stack: opcodes 0x01 to 0x2F (R588). -/
def touches (w : Word) (b : Bool) : Bool :=
  let n := ((slotBits w b).extractLsb' 9 6).toNat
  decide (1 ≤ n) && decide (n ≤ 0x2F)

/-- Instructions that may not stand in the target of a REP: a REP, and those that transfer control (R601). -/
def EngOp.barred : EngOp → Bool
  | .jz _ | .jnz _ | .call _ | .repLong | .jcc _ _ | .rep | .calls | .jmps | .bz _ | .bnz _ | .bcc _ _ | .ret | .reti | .wait
  | .swi _ => true
  | _ => false

/-! Program words -/

/-- Words of program memory (R575). -/
def progWords : Nat := 6144

/-- A program word as a fetch sees it. Berzu's vectors 17 to 31 go to word 4,100 with IRQ_EN 1 and hold RETI with IRQ_EN 0
and on an SE (R624, R738): a long jump (AL) there, or RETI in slot A (log 123). -/
def State.progWord (s : State) (e k : Nat) : Word :=
  if 17 ≤ k ∧ k < 32 then (if (s.hookHdr e).getLsbD 3 then 0x1E001004 else 0xEE000000) else s.ownWord e k

/-! The address space (R578, R579) -/

/-- Why an instruction has no effect (R606): a cause, or cause 11 with the word that is poisoned: memory, unit, word. -/
inductive EngFault where
  | cause (n : Nat)
  | ecc (mem : Fin 10) (unit word : Nat)
deriving DecidableEq, Repr

/-- Where an engine's access falls. `ram`: the key in `State.mem`, the poison mark of its word if the memory has ECC. -/
inductive Place where
  | own (data : Bool) (o : Nat)
  | ram (key : Nat) (mark : Option (Fin 10 × Nat × Nat)) (amo : Bool) (cost : Nat)
  | reg (a : Nat)
deriving DecidableEq, Repr

/-- A place in the BAR0 map. -/
def barPlace (e a : Nat) : Place :=
  match engMemOf a with
  | some (e', d, o) => if e' = e then .own d o else .reg a
  | none => .reg a

/-- The place of address `a` for engine `e`; none outside every region (R578, R585). -/
def State.place (s : State) (e a : Nat) : Option Place :=
  if a < 0x02000000 then some (barPlace e a)
  else if a < 0x02010000 then some (barPlace e (engBase e + (a - 0x02000000)))
  else if a < 0x02011000 then (if e < 32 then some (.ram (frameWin e + (a - 0x02010000)) none false 1) else none)
  else if 0x04000000 ≤ a ∧ a < 0x04400000 then
    let o := a - 0x04000000
    some (.ram a (some (2, o / 0x20000, o % 0x20000 / 4)) true 3)
  else if 0x08000000 ≤ a ∧ a < 0x09000000 then some (.ram a (some (8, 0, (a - 0x08000000) / 4)) true 4)
  else if 0x40000000 ≤ a ∧ a < 0x80000000 then
    let o := s.f (F.ENG_DRAM_WIN.WIN e) * 1073741824 + (a - 0x40000000)
    if o < Config.dramMiB * 1048576 then some (.ram (dramBase + o) none true 4) else none
  else none

/-- Bytes of an access of size code 0, 1 or 2. -/
def sizeOf (sz : Nat) : Nat := 2 ^ sz

/-- A narrow access is permitted (R579). -/
def Place.narrow : Place → Bool
  | .reg _ => false
  | _ => true

/-- The cause an access of size code `sz` at `a` traps with, or its place: ALIGN, then BUS (R578, R579, log 45). -/
def State.access (s : State) (e a sz : Nat) : Except EngFault Place :=
  if a % sizeOf sz ≠ 0 then .error (.cause 9)
  else
    match s.place e a with
    | none => .error (.cause 10)
    | some p => if sz < 2 ∧ p.narrow = false then .error (.cause 10) else .ok p

/-- Steps of a load (R581). -/
def Place.loadCost : Place → Nat
  | .own d _ => if d then 1 else 2
  | .ram _ _ _ c => c
  | .reg a => if (engMemOf a).isSome || (listMemOf a).isSome then 3 else 4

/-- Steps of a store (R581). -/
def Place.storeCost : Place → Nat
  | .own false _ => 2
  | _ => 1

/-- Key and mark of a place that is plain memory. -/
def Place.cell (e : Nat) : Place → Option (Nat × Option (Fin 10 × Nat × Nat))
  | .own d o => some (engBase e + (if d then 0x8000 else 0) + o, some (if d then 1 else 0, e, o / 4))
  | .ram k m _ _ => some (k, m)
  | .reg _ => none

/-- The word of a place with ECC; a word of another memory by its place in the map (R606, R694). -/
def Place.word (e : Nat) (p : Place) : Option (Fin 10 × Nat × Nat) :=
  match p with
  | .reg a =>
    match engMemOf a, listMemOf a with
    | some (e', d, o), _ => some (if d then 1 else 0, e', o / 4)
    | none, some (m, o) => some (if m = 6 then 6 else 7, 0, o / 4)
    | none, none => none
  | _ => (p.cell e).bind Prod.snd

/-- The word of a place, if it is poisoned. -/
def State.placeEcc (s : State) (e : Nat) (p : Place) : Option (Fin 10 × Nat × Nat) :=
  (p.word e).filter fun x => s.poisoned x.1 x.2.1 x.2.2

/-- The word of a place is poisoned (R606, R694). -/
def State.placeBad (s : State) (e : Nat) (p : Place) : Bool := (s.placeEcc e p).isSome

/-- The object whose word 0 holds address `a` (R45, R46). -/
def objWord0Of (a : Nat) : Option (Nat × Nat) :=
  if 0x04000000 ≤ a ∧ a < 0x04400000 ∧ a % 128 < 4 then
    some ((a - 0x04000000) / 0x20000, (a - 0x04000000) % 0x20000 / 128)
  else none

/-- The word of an object at key `k`, of object memory (R45, R46). -/
def objWordOf (k : Nat) : Option Nat := if 0x04000000 ≤ k ∧ k < 0x04400000 then some (k % 128 / 4) else none

/-- Bits of the word at key `k` that a store of engine `e` reaches: not those of a hook's read-only parts (R621, R622), nor in
object memory the reserved words and bits (R14, R167). -/
def State.storeKeep (s : State) (e k : Nat) : Word :=
  match objWordOf k with
  | some w => objKeep w
  | none => s.hookKeep e k

/-- Store `n` bytes of a value in plain memory, where the store reaches. -/
def State.storeNat (s : State) (e k n v : Nat) : State :=
  let m := s.storeKeep e k
  let t := s.wrBytes k (leBytes n v)
  if m = 0xFFFFFFFF then t else t.wr32 (k / 4 * 4) ((t.rd32 (k / 4 * 4) &&& m) ||| (s.rd32 (k / 4 * 4) &&& ~~~m))

/-- The word of object memory that an engine reads at key `k`: word 0 with the status of its lock and of the transmit order
(R47, R168), reserved words and bits as 0 (R14, R167). -/
def State.objLoad (s : State) (k w : Nat) : Word :=
  match objWord0Of (k / 4 * 4) with
  | some (q, o) => s.objView0 q o
  | none => s.rd32 (k / 4 * 4) &&& objKeep w

/-- What a load of `n` bytes at key `k` reads. -/
def State.loadNat (s : State) (k n : Nat) : Nat :=
  match objWordOf k with
  | some w => (s.objLoad k w).toNat / 256 ^ (k % 4) % 256 ^ n
  | none => leNat (s.rdBytes k n)

/-- A load: the value with zeros above it, or the cause of the trap (R578 to R580, R606). Bytes of the frame window from
2,176 on read 0. -/
def State.engLoad (s : State) (e a sz : Nat) : Except EngFault (Word × Nat × State) :=
  match s.access e a sz with
  | .error c => .error c
  | .ok p =>
    match s.placeEcc e p with
    | some (m, u, w) => .error (.ecc m u w)
    | none =>
      match p.cell e with
      | none =>
        match p with
        | .reg b => if h : e < 36 then let x := s.busRead (.engine ⟨e, h⟩) b; .ok (x.1, p.loadCost, x.2) else .error (.cause 10)
        | _ => .error (.cause 10)
      | some (k, _) =>
        if 0x02010880 ≤ a ∧ a < 0x02011000 then .ok (0, p.loadCost, s)
        else .ok (BitVec.ofNat 32 (s.loadNat k (sizeOf sz)), p.loadCost, s)

/-- A store (R578 to R583); one that a hook's read-only part ignores leaves the word marked as it was. -/
def State.engPut (s : State) (e a sz : Nat) (v : Word) : Except EngFault (Nat × State) :=
  match s.access e a sz with
  | .error c => .error c
  | .ok p =>
    match p, p.cell e with
    | .reg b, _ => if h : e < 36 then .ok (p.storeCost, s.busWrite (.engine ⟨e, h⟩) b v) else .error (.cause 10)
    | _, none => .error (.cause 10)
    | p, some (k, m) =>
      if s.storeKeep e k = 0 ∨ 0x02010880 ≤ a ∧ a < 0x02011000 then .ok (p.storeCost, s)
      else
        let s := match p with | .own false o => s.keepStale e (o / 4) | _ => s
        let s := s.storeNat e k (sizeOf sz) v.toNat
        .ok (p.storeCost, match m with | some (c, u, w) => s.heal c u w | none => s)

/-- AMO is permitted at a place (R584). -/
def Place.amoOk : Place → Bool
  | .own d _ => d
  | .ram _ _ b _ => b
  | .reg _ => false

/-! Stacks -/

/-- Push a word on the memory stack (R592); the caller has judged the limit. -/
def State.msPush (s : State) (e : Nat) (v : Word) : State :=
  let m := s.msp e - 4
  ((s.wr32 (dataAt e m) v).heal 1 e (m / 4)).setMsp e m

/-- Pop a word of the memory stack. -/
def State.msPop (s : State) (e : Nat) : Word × State := (s.rd32 (dataAt e (s.msp e)), s.setMsp e (s.msp e + 4))

/-- The word `k` words above MSP is poisoned. -/
def State.msBad (s : State) (e k : Nat) : Bool := s.poisoned 1 e (s.msp e / 4 + k)

/-- The word `k` words above MSP, poisoned: what a pop meets (R606). -/
def msEcc (s : State) (e k : Nat) : EngFault := .ecc 1 e (s.msp e / 4 + k)

/-- A push that leaves MSP at or above MSLIM (R592). -/
def State.msFits (s : State) (e : Nat) : Bool := decide (4 ≤ s.msp e) && decide (s.mslim e ≤ s.msp e - 4)

/-- Push on the return stack (R591), or the cause of the trap. -/
def State.rsPush (s : State) (e v : Nat) : Except EngFault State :=
  let g := s.eng e
  if g.rsd < 8 then .ok (s.setEng e (g.rsPut v))
  else
    match s.f (F.ENG_CTRL.RSMODE e) with
    | 1 => .error (.cause 5)
    | 2 => .ok (s.setEng e (g.rsPut v))
    | _ =>
      if s.msFits e then
        let s := s.msPush e (BitVec.ofNat 32 (g.rs g.rsPtr))
        .ok (s.modEng e fun g => { g.rsPut v with rss := (g.rss + 1) % 65536 })
      else .error (.cause 7)

/-- Pop the return stack (R591): the entry, whether it came from the memory stack, or the cause of the trap. -/
def State.rsPop (s : State) (e : Nat) : Except EngFault (Nat × Bool × State) :=
  let g := s.eng e
  let p := (g.rsPtr + 7) % 8
  if 0 < g.rsd then .ok (g.rs p, false, s.setEng e { g with rsPtr := p, rsd := g.rsd - 1 })
  else
    match s.f (F.ENG_CTRL.RSMODE e) with
    | 1 => .error (.cause 6)
    | 2 => .ok (g.rs p, false, s.setEng e { g with rsPtr := p })
    | _ =>
      if g.rss = 0 then .error (.cause 6)
      else if s.msBad e 0 then .error (msEcc s e 0)
      else
        let x := s.msPop e
        .ok (x.1.toNat, true, x.2.modEng e fun g => { g with rss := g.rss - 1 })

/-- Refill the return stack with `n` entries of the memory stack, below those it holds (R613 X2). -/
def State.rsRefill (s : State) (e : Nat) : Nat → State
  | 0 => s
  | n + 1 =>
    let x := s.msPop e
    (x.2.modEng e fun g =>
      let i := (g.rsPtr + 15 - g.rsd) % 8
      { g with rsSlots := Tab.put (fun _ => 0) g.rsSlots i x.1.toNat, rsd := min 8 (g.rsd + 1), rss := g.rss - 1 }).rsRefill e n

end Sys2Proof.Machine
end

