-- ==== Sys2Proof/Machine/Eng.lean ====
section
/-! DEFINITION. The engine core (14): fetch, steps, the repeat prefix, traps and halts, interrupt entry and return. -/
namespace Sys2Proof.Machine

/-! Halts (R608, R680) -/

/-- Lane `l` of a halted PE enters OFF: a frame on TXD is cut; a LANE_STOP that waited for it has what it asked for, a
BUS_BIND binds, a LANE_SUSPEND is refused (R102, R680). -/
def State.haltLane (s : State) (l : Nat) : State :=
  if s.laneSt l = St.off then s
  else
    let x := s.lane l
    let src := x.att.bind fun a => (s.entry a.bus a.ent).map fun y => (a.bus, y.src)
    let s := s.laneOff l
    let s := match src with | some (b, y) => s.afterAttempt b y | none => s
    let s :=
      match x.pend with
      | none => s
      | some p =>
        match p.what, p.ref with
        | .stop, _ => s.adminDone? p.ref
        | .bind n, _ => (s.busBind l n).adminDone? p.ref
        | .suspend, some r => s.adminRefuse r .state
        | .suspend, none => s
    s.laneRejudge l

/-- Engine `e` halts (R608). -/
def State.engHalt (s : State) (e cause : Nat) : State :=
  let s := (s.hookDrop e).modEng e fun g => { g with halted := true, haltCause := cause, waiting := false, home := false }
  let s := s.raise (976 + e)
  if e < 32 then (List.range 4).foldl (fun st k => st.haltLane (4 * e + k)) s else s

/-! Steps (R588, R633) -/

/-- Steps are counted (R633). -/
def State.engSteps (s : State) (e n : Nat) : State := s.satAdd (F.ENG_PERF.STEPS e) n

/-- The slots of a pair are issued together (R588). -/
def jointPair (w : Word) : Bool := !(w.getLsbD 0) && !(touches w false && touches w true)

/-- Count the steps of the instruction at the PC of `g`, which has run: with its slot A a serial pair counts; slot B of a pair
issued together adds what slot A has not cost yet (R588, log 70). -/
def State.engCount (s : State) (e : Nat) (g : Eng) (w : Word) (cost : Nat) : State :=
  if !(isPairWord w) then s.engSteps e cost
  else if g.pc % 2 = 0 then
    let s := s.engSteps e cost
    if jointPair w then s else s.satAdd (F.ENG_PERF.SERIAL e) 1
  else s.engSteps e (if jointPair w then cost - g.slotA.getD 0 else cost)

/-! Entries (R592, R607, R609) -/

/-- A push of an entry leaves MSP at or above MSLIM - 32 (R592). -/
def State.entryRoom (s : State) (e : Nat) : Bool := decide (4 ≤ s.msp e) && decide (s.mslim e ≤ s.msp e + 28)

/-- Push ST, then the saved PC; false where one of them does not fit (R592). -/
def State.entryPush (s : State) (e pc : Nat) : Bool × State :=
  if s.entryRoom e then
    let s := s.msPush e (s.eng e).st
    if s.entryRoom e then (true, s.msPush e (BitVec.ofNat 32 pc)) else (false, s)
  else (false, s)

/-- Both words of an entry fit. -/
def State.entryFits (s : State) (e : Nat) : Bool := decide (8 ≤ s.msp e) && decide (s.mslim e ≤ s.msp e + 24)

/-- E3: the source is claimed (R425, R609). -/
def State.engE3 (s : State) (e n p : Nat) (trp : Bool) : State :=
  let c := s.claimSrc e n
  let s := (c.2.setReg (0x20C040 + e * 0x10000 + 4 * p) (claimWord c.1 n)).commitAt e
  s.modEng e fun g => { g with il := BitVec.ofNat 4 p, rpt := false, trp := trp, pc := 4 * (16 + p), slotA := none,
                               waiting := false, rcWritten := false, first := false }

/-! RETI (R613 to R615) -/

/-- X1 (R613): the return from an interrupt frame completes the source of IL. -/
def State.engX1 (s : State) (e : Nat) (x : EFrame) : State :=
  if x.trap then s
  else (s.complete e (bitsOf (s.reg (0x20C040 + e * 0x10000 + 4 * (s.eng e).il.toNat)) 0 11)).2

/-- The source that a return to `st` tail-chains, once X1 is done (R614). -/
def State.chainOf (s : State) (e : Nat) (st : Word) : Option (Nat × Nat) :=
  (s.offer e).filter fun y => st.getLsbD 13 && decide (bitsOf st 9 4 < y.2) && s.modReady e y.2

/-- X2 and X3 (R613): back to the interrupted code, or into Berzu's WAIT (R738). -/
def State.engX23 (s : State) (e : Nat) (x : EFrame) (xs : List EFrame) (n pc : Nat) (st : Word) : State :=
  let s := ((s.rsRefill e n).msPop e).2
  (s.msPop e).2.modEng e fun g =>
    let g := g.setSt st
    { g with frames := xs, pc := pc / 4 * 4 + pc % 2, target := pc / 4 * 4 + pc % 2, slotA := none, rcWritten := false,
             first := false, home := x.home, waiting := x.home }

/-- RETI: the state and its steps, or a fault. X2 looks at its words, and at the saved PC, only where it runs (R614). -/
def State.engReti (s : State) (e : Nat) : Except EngFault (Nat × State) :=
  let g := s.eng e
  match g.frames with
  | [] => .error (.cause 1)
  | x :: xs =>
    let n := g.rss - x.rss
    let at_ := s.msp e + 4 * n
    let pc := (s.rd32 (dataAt e at_)).toNat
    let st := s.rd32 (dataAt e (at_ + 4))
    if s.msBad e (n + 1) then .error (msEcc s e (n + 1))
    else
      let t := s.engX1 e x
      match t.chainOf e st with
      | some (m, p) =>
        let t := t.modEng e fun g => { g with frames := { x with trap := false, level := p, save := s.stacks e } :: xs }
        .ok (3, (t.engE3 e m p (st.getLsbD 14)).satAdd (F.ENG_IRQCNT.TAILCHAIN e) 1)
      | none =>
        match (List.range (n + 1)).find? (s.msBad e) with
        | some k => .error (msEcc s e k)
        | none => if progWords ≤ pc / 4 then .error (.cause 12) else .ok (3 + n, t.engX23 e x xs n pc st)

/-! Traps (R606, R607, R626) -/

/-- A trap is entered: its frame is pushed, recorded, and its vector follows (R607). -/
def State.trapEntry (s : State) (e cause pc : Nat) (swi : Option Nat) (cnt : State → State) : State :=
  let g := s.eng e
  if g.trp then s.engHalt e 16
  else
    let r := s.entryPush e pc
    if !r.1 then r.2.engHalt e 17
    else
      let s := r.2.modEng e fun g =>
        { g with frames := { trap := true, rss := g.rss, home := g.home } :: g.frames, trp := true, ie := false, rpt := false,
                 pc := 4 * cause, slotA := none, waiting := false, home := false, divPend := false, rcWritten := false,
                 first := false }
      let s := ((s.setF (F.ENG_TRAPINFO.CAUSE e) cause).setF (F.ENG_TRAPINFO.PC e) pc).satAdd (F.ENG_TRAPINFO.TRAPS e) 1
      cnt (match swi with | some c => s.setF (F.ENG_TRAPINFO.SWI_CODE e) c | none => s)

/-- An address of the hook area of a PE (R577); only hook code runs on past its last word. -/
def inHookArea (e pc : Nat) : Bool := decide (e < 32) && decide (4096 ≤ pc / 4)

/-- Berzu is back from the running hook call, with its results or none (R620 to R623), and makes the next. -/
def State.hookEnd (s : State) (e : Nat) (r : Option (List Word)) : State :=
  match (s.eng e).calls, (s.eng e).back with
  | c :: _, some b => ((s.hookBack e b).hookDone e c r).hookBegin e
  | _, _ => s

/-- Berzu unwinds after a trap in the hook area (R626, log 104): an interrupt hook to its frame `x`, whose RETI it executes;
else the running call. -/
def State.hookFault (s : State) (e : Nat) (frames : List EFrame) : State :=
  let s := s.satAdd (F.ENG_HOOKCNT.FAULT e) 1
  match frames with
  | x :: xs =>
    let s := (s.unwind e x.save).modEng e fun g =>
      { g with frames := x :: xs, trp := false, il := BitVec.ofNat 4 x.level, pc := 4 * (16 + x.level) }
    match s.engReti e with
    | .ok (n, t) => (t.engSteps e n).hookBegin e
    | .error (.cause c) => s.trapEntry e c (4 * (16 + x.level)) none fun t => t.engSteps e 3
    | .error (.ecc m u w) => (s.eccMet m u w).trapEntry e 11 (4 * (16 + x.level)) none fun t => t.engSteps e 3
  | [] => s.hookEnd e none

/-- A trap of the instruction at `at_` (R607); while TRP is 1, or without room for its frame, it halts the engine (R592, R608). -/
def State.engTrap (s : State) (e cause pc at_ : Nat) (swi : Option Nat) (cnt : State → State) : State :=
  let t := s.trapEntry e cause pc swi cnt
  if inHookArea e at_ && !(t.eng e).halted then t.hookFault e (s.eng e).frames else t

/-- A fault: no effect; the saved PC names the slot, or the target of a repeat (R603, R606). -/
def State.engFault (s : State) (e : Nat) (x : EngFault) : State :=
  let g := s.eng e
  let pc := if g.rpt then g.target else g.pc
  match x with
  | .cause c => s.engTrap e c pc g.pc none fun t => t.engSteps e 3
  | .ecc m u w => (s.eccMet m u w).engTrap e 11 pc g.pc none fun t => t.engSteps e 3

/-- The running hook has returned where its RET took the return address that Berzu's call left, the last entry (R620); with
another number of entries than its results the call is unwound (R626). -/
def State.hookReturn (s : State) (e : Nat) : State :=
  let g := s.eng e
  match g.calls, g.back with
  | c :: _, some b =>
    if g.frames.isEmpty && decide (g.rsd = 0) && decide (g.rss = b.2.rss) then
      if g.os.length = c.results then s.hookEnd e (some g.os) else (s.satAdd (F.ENG_HOOKCNT.FAULT e) 1).hookEnd e none
    else s
  | _, _ => s

/-! How an instruction ends -/

/-- Control after an instruction: in sequence; at `pc`; back at `pc` by RET; DIVIDE or SWI after it; into or past the target of
a REP; or as RETI has set it. -/
inductive Ctl where
  | seq
  | jump (pc : Nat)
  | ret (pc : Nat)
  | divide
  | swi (code : Nat)
  | rep (n : Nat)
  | done
deriving DecidableEq, Repr

/-- The effect of an instruction: the state with its steps and control, or a fault. -/
inductive EngEnd where
  | ok (s : State) (cost : Nat) (c : Ctl)
  | fault (x : EngFault)
deriving DecidableEq, Repr

/-- The slot or word after the instruction at PC in a word `w`. -/
def pcAfter (w : Word) (pc : Nat) : Nat := if isPairWord w && pc % 2 == 0 then pc / 4 * 4 + 1 else 4 * (pc / 4 + 1)

/-- A DIVIDE trap that waited for the end of its iteration, or of its instruction (R603, R606). -/
def State.divTrap (s : State) (e at_ : Nat) : State :=
  let g := s.eng e
  if g.divPend then (s.setEng e { g with divPend := false }).engTrap e 8 g.pc at_ none fun t => t.engSteps e 3 else s

/-- The iteration of a repeat has ended (R599, R600): the next, or on after it. -/
def Eng.iterate (g : Eng) (next : Nat) : Eng :=
  let rc := if g.rcWritten then g.rc else g.rc - 1
  let g := { g with rc := rc, rcWritten := false, first := false, slotA := none }
  if rc = 0 then { g with rpt := false, pc := next } else { g with pc := g.target }

/-- Go on in sequence after the instruction at PC, of `cost` steps. -/
def State.engSeq (s : State) (e : Nat) (w : Word) (cost : Nat) : State :=
  let g := s.eng e
  let isA := isPairWord w && g.pc % 2 == 0
  let next := pcAfter w g.pc
  if g.rpt && !(isA && g.target % 2 == 0) then (s.setEng e (g.iterate next)).divTrap e g.pc
  else
    let s := s.setEng e { g with pc := next, slotA := if isA then some cost else none }
    if g.rpt then s else s.divTrap e g.pc

/-- A REP of count `n` at PC (R599): the target follows it, or is skipped. An iteration costs the target's steps (R602). -/
def State.engRep (s : State) (e : Nat) (w : Word) (n : Nat) : State :=
  let g := s.eng e
  let target := pcAfter w g.pc
  let g := { g with rc := BitVec.ofNat 16 n }
  if n = 0 then s.setEng e { g with pc := 4 * (target / 4 + 1), slotA := none }
  else s.setEng e { g with rpt := true, target := target, first := true, rcWritten := false, pc := target,
                           slotA := none }

/-- RET goes on at `pc`: in slot B it goes on with the pair whose slot A made the call (R587, R588). -/
def State.engRet (s : State) (e pc : Nat) : State :=
  let w := s.progWord e (pc / 4)
  let called := decide (pc % 2 = 1) && isPairWord w && decide (wordOp w false = .calls)
  (s.modEng e fun g => { g with pc := pc, slotA := if called then some 2 else none }).hookReturn e

/-- Complete the instruction that stood at the PC of `g`. -/
def State.engDone (s : State) (e : Nat) (g : Eng) (w : Word) (cost : Nat) (c : Ctl) : State :=
  match c with
  | .done => (s.engCount e g w cost).hookBegin e
  | .seq => (s.engCount e g w cost).engSeq e w cost
  | .jump p => (s.engCount e g w cost).modEng e fun g => { g with pc := p, slotA := none }
  | .ret p => (s.engCount e g w cost).engRet e p
  | .divide => ((s.engCount e g w cost).modEng e fun g => { g with divPend := true }).engSeq e w cost
  | .swi k => s.engTrap e 13 (pcAfter w g.pc) g.pc (some k) fun t => t.engCount e g w 3
  | .rep n => (s.engCount e g w cost).engRep e w n

/-! Running an instruction -/

/-- Engine `e` executes instructions now: it runs, and is not in WAIT (R616). -/
def State.engReady (s : State) (e : Nat) : Bool :=
  s.boot.mainOn && s.engUp e && !(s.engWaiting e)

/-- Run `body` where engine `e` executes `i` next; otherwise nothing happens (log 6). A fetch beyond program memory or of
a poisoned word traps whatever the command names (R593, R606). -/
def engDo (s : State) (e : EngId) (i : EngOp) (body : State → EngEnd) : Host.Outcome State Fault Refusal :=
  let n := e.val
  let pc := (s.eng n).pc
  let w := s.progWord n (pc / 4)
  if !(s.engReady n) then .next s
  else
    let s' := s.modEng n fun g => { g with waiting := false }
    if progWords ≤ pc / 4 then .next (s'.engFault n (.cause 12))
    else if s.poisoned 0 n (pc / 4) then .next (s'.engFault n (.ecc 0 n (pc / 4)))
    else if wordOp w (decide (pc % 2 = 1)) = i then
      match body s' with
      | .ok t cost c => .next (t.engDone n (s'.eng n) w cost c)
      | .fault c => .next (s'.engFault n c)
    else .next s

/-! Stack effects -/

/-- ( -- x ) -/
def pushOne (s : State) (e cost : Nat) (v : Word) : EngEnd :=
  let g := s.eng e
  if 16 ≤ g.os.length then .fault (.cause 3) else .ok (s.setEng e { g with os := v :: g.os }) cost .seq

/-- ( a -- r ) with new flags. -/
def unary (s : State) (e cost : Nat) (f : Eng → Word → Word × Eng) : EngEnd :=
  let g := s.eng e
  match g.os with
  | a :: os => let r := f g a; .ok (s.setEng e { r.2 with os := r.1 :: os }) cost .seq
  | [] => .fault (.cause 4)

/-- ( a b -- r ) with new flags. -/
def binary (s : State) (e cost : Nat) (f : Eng → Word → Word → Word × Eng) : EngEnd :=
  let g := s.eng e
  match g.os with
  | b :: a :: os => let r := f g a b; .ok (s.setEng e { r.2 with os := r.1 :: os }) cost .seq
  | _ => .fault (.cause 4)

/-- A rearrangement of the `n` topmost entries into a list (top first). -/
def shuffle (s : State) (e n : Nat) (f : List Word → List Word) : EngEnd :=
  let g := s.eng e
  let os := f (g.os.take n) ++ g.os.drop n
  if g.os.length < n then .fault (.cause 4) else if 16 < os.length then .fault (.cause 3) else .ok (s.setEng e { g with os := os }) 1 .seq

/-- No stack effect: a change of the engine. -/
def plain (s : State) (e : Nat) (f : Eng → Eng) : EngEnd := .ok (s.modEng e f) 1 .seq

/-! Interrupts (R609 to R612) -/

/-- The engine stands at a boundary where an offer is taken (14, "Interrupt entry and exit"; R602). -/
def State.atBoundary (s : State) (e : Nat) : Bool :=
  let g := s.eng e
  s.engWaiting e || (g.slotA.isNone && (if g.rpt then g.pc == g.target && !g.first else g.pc % 4 == 0))

/-- An entry at a boundary with interrupts enabled (R609 to R611): none above IL on offer any more, and the entry is
abandoned; one that moderation holds is not taken (R430). -/
def State.engEntry (s : State) (e : Nat) : State :=
  let g := s.eng e
  if s.boot.mainOn && s.engUp e && g.ie && s.atBoundary e then
    match s.offered e with
    | some (n, p) =>
      if !(s.modReady e p) then s
      else
        let r := s.entryPush e g.pc
        if !r.1 then r.2.engHalt e 17
        else
          let x : EFrame := { trap := false, rss := g.rss, home := g.home, level := p, save := r.2.stacks e }
          ((r.2.modEng e fun g => { g with frames := x :: g.frames, home := false }).engE3 e n p g.trp).engSteps e 4
    | none =>
      let r := s.entryPush e g.pc
      if !r.1 then r.2.engHalt e 17
      else
        let t := (r.2.setMsp e (s.msp e)).modEng e fun g => { g with waiting := g.home }
        (t.satAdd (F.ENG_IRQCNT.SPURIOUS e) 1).engSteps e 3
  else s

end Sys2Proof.Machine
end

