-- ==== Sys2Proof/Machine/EngLong.lean ====
section
/-! DEFINITION. The long engine instructions (14 R596), and the shared loads, stores, jumps, calls and REP. -/
namespace Sys2Proof.Machine

/-- Load a word or less from `a` and push it over `k` fewer entries (R590, R581): stack, then access. -/
def loadPush (s : State) (e k a sz : Nat) : EngEnd :=
  let g := s.eng e
  if g.os.length < k then .fault (.cause 4)
  else if 16 < g.os.length - k + 1 then .fault (.cause 3)
  else
    match s.engLoad e a sz with
    | .error c => .fault c
    | .ok (v, cost, s) => .ok (s.modEng e fun x => { x with os := v :: g.os.drop k }) cost .seq

/-- Store the entry under `k` others to the address that `addr` gives from the stack, and pop all of them. -/
def storePop (s : State) (e k : Nat) (addr : List Word → Nat) (sz : Nat) : EngEnd :=
  let os := (s.eng e).os
  match os.drop k with
  | [] => .fault (.cause 4)
  | x :: rest =>
    match s.engPut e (addr os) sz x with
    | .error c => .fault c
    | .ok (cost, s) => .ok (s.modEng e fun g => { g with os := rest }) cost .seq

/-- Jump to word `w` if `b`; `s` has the effect on the stack. A word beyond program memory traps at the jump (R593). -/
def jumpIf (_s : State) (_e : Nat) (s : State) (b : Bool) (w : Nat) : EngEnd :=
  if !b then .ok s 1 .seq else if progWords ≤ w then .fault (.cause 12) else .ok s 2 (.jump (4 * w))

/-- Pop an entry and jump to word `w` if it satisfies `p`. -/
def popJump (s : State) (e : Nat) (p : Word → Bool) (w : Nat) : EngEnd :=
  let g := s.eng e
  match g.os with
  | [] => .fault (.cause 4)
  | a :: os => jumpIf s e (s.setEng e { g with os := os }) (p a) w

/-- The word index at a signed offset from the word after the one at PC; one below 0 lies beyond program memory. -/
def State.relWord (s : State) (e : Nat) (off : Int) : Nat :=
  let t := ((s.eng e).pc / 4 + 1 : Nat) + off
  if t < 0 then progWords else t.toNat

/-- Call word `w` (R587, R591): the return is to the next slot or word. -/
def callTo (s0 : State) (e : Nat) (s : State) (w : Nat) : EngEnd :=
  let pc := (s0.eng e).pc
  if progWords ≤ w then .fault (.cause 12)
  else
    match s.rsPush e (pcAfter (s0.progWord e (pc / 4)) pc) with
    | .error c => .fault c
    | .ok s => .ok s 2 (.jump (4 * w))

/-- The target of a REP at PC holds an instruction that it may not (R601). -/
def State.repBarred (s : State) (e : Nat) : Bool :=
  let pc := (s.eng e).pc
  let w := s.progWord e (pc / 4)
  if isPairWord w && pc % 2 == 0 then (wordOp w true).barred
  else
    let t := s.progWord e (pc / 4 + 1)
    (wordOp t false).barred || (isPairWord t && (wordOp t true).barred)

/-- REP (R599, R601): the count is popped, at most 65,535. -/
def repPop (s : State) (e : Nat) : EngEnd :=
  let g := s.eng e
  match g.os with
  | [] => .fault (.cause 4)
  | n :: os => if s.repBarred e then .fault (.cause 2) else .ok (s.setEng e { g with os := os }) 1 (.rep (min n.toNat 65535))

/-- LNOP (R596). -/
def execLnop (e : EngId) (s : State) : Host.Outcome State Fault Refusal :=
  engDo s e .lnop fun s => plain s e id

/-- LIT (R596). -/
def execLit (e : EngId) (v : BitVec 24) (s : State) : Host.Outcome State Fault Refusal :=
  engDo s e (.lit v) fun s => pushOne s e 1 (v.signExtend 32)

/-- LITU (R596). -/
def execLitu (e : EngId) (v : BitVec 24) (s : State) : Host.Outcome State Fault Refusal :=
  engDo s e (.litu v) fun s => pushOne s e 1 (v.setWidth 32)

/-- SETHI (R596). -/
def execSethi (e : EngId) (v : BitVec 8) (s : State) : Host.Outcome State Fault Refusal :=
  engDo s e (.sethi v) fun s => unary s e 1 fun g a => ((a &&& 0x00FFFFFF#32) ||| (v.setWidth 32 <<< 24), g)

/-- ADDI (R596). -/
def execAddi (e : EngId) (v : BitVec 24) (s : State) : Host.Outcome State Fault Refusal :=
  engDo s e (.addi v) fun s => unary s e 1 fun g a => let r := addOp a (v.signExtend 32) false; (r.1, g.nzcv r.1 r.2.1 r.2.2)

/-- CMPI (R595, R596). -/
def execCmpi (e : EngId) (v : BitVec 24) (s : State) : Host.Outcome State Fault Refusal :=
  engDo s e (.cmpi v) fun s => unary s e 1 fun g a => let r := subOp a (v.signExtend 32) false; (a, g.nzcv r.1 r.2.1 r.2.2)

/-- LDA (R581, R596). -/
def execLda (e : EngId) (v : BitVec 24) (s : State) : Host.Outcome State Fault Refusal :=
  engDo s e (.lda v) fun s => loadPush s e 0 (4 * v.toNat) 2

/-- STA (R581, R596). -/
def execSta (e : EngId) (v : BitVec 24) (s : State) : Host.Outcome State Fault Refusal :=
  engDo s e (.sta v) fun s => storePop s e 0 (fun _ => 4 * v.toNat) 2

/-- JZ (R593, R596). -/
def execJz (e : EngId) (v : BitVec 24) (s : State) : Host.Outcome State Fault Refusal :=
  engDo s e (.jz v) fun s => popJump s e (fun a => decide (a = 0)) v.toNat

/-- JNZ (R593, R596). -/
def execJnz (e : EngId) (v : BitVec 24) (s : State) : Host.Outcome State Fault Refusal :=
  engDo s e (.jnz v) fun s => popJump s e (fun a => !(decide (a = 0))) v.toNat

/-- CALL (R587, R591, R596). -/
def execCall (e : EngId) (v : BitVec 24) (s : State) : Host.Outcome State Fault Refusal :=
  engDo s e (.call v) fun s => callTo s e s v.toNat

/-- REP_LONG (R596, R599). -/
def execRepLong (e : EngId) (s : State) : Host.Outcome State Fault Refusal :=
  engDo s e .repLong fun s => repPop s e

/-- JCC (R596, R598). -/
def execJcc (e : EngId) (c : BitVec 4) (v : BitVec 24) (s : State) : Host.Outcome State Fault Refusal :=
  engDo s e (.jcc c v) fun s => jumpIf s e s ((s.eng e).cond c.toNat) v.toNat

end Sys2Proof.Machine
end

