-- ==== Sys2Proof/Machine/EngAlu.lean ====
section
/-! DEFINITION. The short engine instructions on the operand stack (14 R597, R604, R605). -/
namespace Sys2Proof.Machine

/-- NOP (R597). -/
def execNop (e : EngId) (s : State) : Host.Outcome State Fault Refusal :=
  engDo s e .nop fun s => plain s e id

/-- DUP (R597). -/
def execDup (e : EngId) (s : State) : Host.Outcome State Fault Refusal :=
  engDo s e .dup fun s => shuffle s e 1 fun os => os ++ os

/-- DROP (R597). -/
def execDrop (e : EngId) (s : State) : Host.Outcome State Fault Refusal :=
  engDo s e .drop fun s => shuffle s e 1 fun _ => []

/-- SWAP (R597). -/
def execSwap (e : EngId) (s : State) : Host.Outcome State Fault Refusal :=
  engDo s e .swap fun s => shuffle s e 2 List.reverse

/-- OVER (R597). -/
def execOver (e : EngId) (s : State) : Host.Outcome State Fault Refusal :=
  engDo s e .over fun s => shuffle s e 2 fun os => os.drop 1 ++ os

/-- ROT (R597). -/
def execRot (e : EngId) (s : State) : Host.Outcome State Fault Refusal :=
  engDo s e .rot fun s => shuffle s e 3 fun os => os.drop 2 ++ os.take 2

/-- PICK (R597). -/
def execPick (e : EngId) (n : BitVec 4) (s : State) : Host.Outcome State Fault Refusal :=
  engDo s e (.pick n) fun s => shuffle s e (n.toNat + 1) fun os => os.drop n.toNat ++ os

/-- SLIT (R597). -/
def execSlit (e : EngId) (v : BitVec 9) (s : State) : Host.Outcome State Fault Refusal :=
  engDo s e (.slit v) fun s => pushOne s e 1 (v.signExtend 32)

/-- ADD (R597). -/
def execAdd (e : EngId) (s : State) : Host.Outcome State Fault Refusal :=
  engDo s e .add fun s => binary s e 1 fun g a b => let r := addOp a b false; (r.1, g.nzcv r.1 r.2.1 r.2.2)

/-- SUB (R595, R597). -/
def execSub (e : EngId) (s : State) : Host.Outcome State Fault Refusal :=
  engDo s e .sub fun s => binary s e 1 fun g a b => let r := subOp a b false; (r.1, g.nzcv r.1 r.2.1 r.2.2)

/-- ADC (R597). -/
def execAdc (e : EngId) (s : State) : Host.Outcome State Fault Refusal :=
  engDo s e .adc fun s => binary s e 1 fun g a b => let r := addOp a b g.c; (r.1, g.nzcv r.1 r.2.1 r.2.2)

/-- SBC (R595, R597). -/
def execSbc (e : EngId) (s : State) : Host.Outcome State Fault Refusal :=
  engDo s e .sbc fun s => binary s e 1 fun g a b => let r := subOp a b (!g.c); (r.1, g.nzcv r.1 r.2.1 r.2.2)

/-- ADDS (R597, R604). -/
def execAdds (e : EngId) (s : State) : Host.Outcome State Fault Refusal :=
  engDo s e .adds fun s => binary s e 1 fun g a b => let r := satOp (a.toInt + b.toInt); (r.1, g.nzv r.1 r.2)

/-- SUBS (R597, R604). -/
def execSubs (e : EngId) (s : State) : Host.Outcome State Fault Refusal :=
  engDo s e .subs fun s => binary s e 1 fun g a b => let r := satOp (a.toInt - b.toInt); (r.1, g.nzv r.1 r.2)

/-- MUL (R597, R604). -/
def execMul (e : EngId) (s : State) : Host.Outcome State Fault Refusal :=
  engDo s e .mul fun s => binary s e 2 fun g a b => let r := a * b; (r, g.nzv r !(decide (r.toInt = a.toInt * b.toInt)))

/-- MULH (R597). -/
def execMulh (e : EngId) (u : Bool) (s : State) : Host.Outcome State Fault Refusal :=
  engDo s e (.mulh u) fun s =>
    binary s e 3 fun g a b =>
      let r := if u then BitVec.ofNat 32 (a.toNat * b.toNat / 2 ^ 32) else BitVec.ofInt 32 (a.toInt * b.toInt / 2 ^ 32)
      (r, g.nz r)

/-- DIV and DIVU (R597, R604): quotient under remainder; a division by zero sets DZ and traps DIVIDE only if DZT is 1. -/
def divide (s : State) (e : Nat) (sgn : Bool) : EngEnd :=
  let g := s.eng e
  match g.os with
  | b :: a :: os =>
    let r := divOp sgn a b
    let g' := { g.nzv r.1 r.2.2 with dz := g.dz || decide (b = 0), os := r.2.1 :: r.1 :: os }
    .ok (s.setEng e g') 12 (if b = 0 ∧ g.dzt then .divide else .seq)
  | _ => .fault (.cause 4)

/-- DIV (R597, R604). -/
def execDiv (e : EngId) (s : State) : Host.Outcome State Fault Refusal :=
  engDo s e .div fun s => divide s e true

/-- DIVU (R597, R604). -/
def execDivu (e : EngId) (s : State) : Host.Outcome State Fault Refusal :=
  engDo s e .divu fun s => divide s e false

/-- NEG (R597, R604). -/
def execNeg (e : EngId) (s : State) : Host.Outcome State Fault Refusal :=
  engDo s e .neg fun s => unary s e 1 fun g a => let r := subOp 0 a false; (r.1, g.nzcv r.1 r.2.1 r.2.2)

/-- ABS (R597, R604). -/
def execAbs (e : EngId) (s : State) : Host.Outcome State Fault Refusal :=
  engDo s e .abs fun s => unary s e 1 fun g a => let r := if a.msb then -a else a; (r, g.nzv r (decide (a = 0x80000000#32)))

/-- AND (R597). -/
def execAnd (e : EngId) (s : State) : Host.Outcome State Fault Refusal :=
  engDo s e .and fun s => binary s e 1 fun g a b => (a &&& b, g.nz (a &&& b))

/-- OR (R597). -/
def execOr (e : EngId) (s : State) : Host.Outcome State Fault Refusal :=
  engDo s e .or fun s => binary s e 1 fun g a b => (a ||| b, g.nz (a ||| b))

/-- XOR (R597). -/
def execXor (e : EngId) (s : State) : Host.Outcome State Fault Refusal :=
  engDo s e .xor fun s => binary s e 1 fun g a b => (a ^^^ b, g.nz (a ^^^ b))

/-- NOT (R597). -/
def execNot (e : EngId) (s : State) : Host.Outcome State Fault Refusal :=
  engDo s e .not fun s => unary s e 1 fun g a => (~~~a, g.nz (~~~a))

/-- SHL (R605). -/
def execShl (e : EngId) (s : State) : Host.Outcome State Fault Refusal :=
  engDo s e .shl fun s => binary s e 1 fun g a n => let r := shiftOp .shl a n.toNat; (r.1, g.shiftFlags r.1 r.2)

/-- SHR (R605). -/
def execShr (e : EngId) (s : State) : Host.Outcome State Fault Refusal :=
  engDo s e .shr fun s => binary s e 1 fun g a n => let r := shiftOp .shr a n.toNat; (r.1, g.shiftFlags r.1 r.2)

/-- SAR (R605). -/
def execSar (e : EngId) (s : State) : Host.Outcome State Fault Refusal :=
  engDo s e .sar fun s => binary s e 1 fun g a n => let r := shiftOp .sar a n.toNat; (r.1, g.shiftFlags r.1 r.2)

/-- ROL (R605). -/
def execRol (e : EngId) (s : State) : Host.Outcome State Fault Refusal :=
  engDo s e .rol fun s => binary s e 1 fun g a n => let r := shiftOp .rol a n.toNat; (r.1, g.shiftFlags r.1 r.2)

/-- ROR (R605). -/
def execRor (e : EngId) (s : State) : Host.Outcome State Fault Refusal :=
  engDo s e .ror fun s => binary s e 1 fun g a n => let r := shiftOp .ror a n.toNat; (r.1, g.shiftFlags r.1 r.2)

/-- The shift that SHI's field names. -/
def shiKind (k : BitVec 2) : Shift := if k = 0 then .shl else if k = 1 then .shr else if k = 2 then .sar else .ror

/-- SHI (R597, R605). -/
def execShi (e : EngId) (k : BitVec 2) (n : BitVec 6) (s : State) : Host.Outcome State Fault Refusal :=
  engDo s e (.shi k n) fun s => unary s e 1 fun g a => let r := shiftOp (shiKind k) a n.toNat; (r.1, g.shiftFlags r.1 r.2)

/-- ( a b -- ) with the flags of a - b. -/
def compare (s : State) (e : Nat) : EngEnd :=
  let g := s.eng e
  match g.os with
  | b :: a :: os => let r := subOp a b false; .ok (s.setEng e { g.nzcv r.1 r.2.1 r.2.2 with os := os }) 1 .seq
  | _ => .fault (.cause 4)

/-- CMP (R595, R597). -/
def execCmp (e : EngId) (s : State) : Host.Outcome State Fault Refusal :=
  engDo s e .cmp fun s => compare s e

/-- TST (R597). -/
def execTst (e : EngId) (s : State) : Host.Outcome State Fault Refusal :=
  engDo s e .tst fun s => unary s e 1 fun g a => (a, g.nz a)

/-- CLZ (R597). -/
def execClz (e : EngId) (s : State) : Host.Outcome State Fault Refusal :=
  engDo s e .clz fun s => unary s e 1 fun g a => let r := BitVec.ofNat 32 (clzFrom a 32); (r, g.nz r)

/-- BSWAP (R597). -/
def execBswap (e : EngId) (s : State) : Host.Outcome State Fault Refusal :=
  engDo s e .bswap fun s => unary s e 1 fun g a => (bswapOp a, g.nz (bswapOp a))

/-- EXT (R597). -/
def execExt (e : EngId) (lsb : BitVec 5) (w : BitVec 4) (s : State) : Host.Outcome State Fault Refusal :=
  engDo s e (.ext lsb w) fun s =>
    unary s e 1 fun g a => let r := BitVec.ofNat 32 (bitsOf a lsb.toNat (w.toNat + 1)); (r, g.nz r)

end Sys2Proof.Machine
end

