-- ==== Sys2Proof/Machine/EngMem.lean ====
section
/-! DEFINITION. The short engine instructions on memory and on PA, PB, RC and ST (14 R578 to R585, R597). -/
namespace Sys2Proof.Machine

/-- LD (R579, R581, R597). -/
def execLd (e : EngId) (s : State) : Host.Outcome State Fault Refusal :=
  engDo s e .ld fun s => loadPush s e 1 ((s.eng e).os.headD 0).toNat 2

/-- ST (R579, R581, R597). -/
def execSt (e : EngId) (s : State) : Host.Outcome State Fault Refusal :=
  engDo s e .st fun s => storePop s e 1 (fun os => (os.headD 0).toNat) 2

/-- PA or PB. -/
def Eng.ptr (g : Eng) (pb : Bool) : Word := if pb then g.pb else g.pa
def Eng.setPtr (g : Eng) (pb : Bool) (v : Word) : Eng := if pb then { g with pb := v } else { g with pa := v }

/-- The post-increment of LDP and STP. -/
def Eng.bump (g : Eng) (pb inc : Bool) (sz : Nat) : Eng :=
  if inc then g.setPtr pb (g.ptr pb + BitVec.ofNat 32 (sizeOf sz)) else g

/-- A value of a size with its sign (R597). -/
def signFrom (sz : Nat) (v : Word) : Word :=
  if sz = 0 then (v.extractLsb' 0 8).signExtend 32 else if sz = 1 then (v.extractLsb' 0 16).signExtend 32 else v

/-- LDP: load through PA or PB (R597); size code 3 is not defined (log 46). -/
def loadPtr (s : State) (e sz : Nat) (inc sx pb : Bool) : EngEnd :=
  let g := s.eng e
  if sz = 3 then .fault (.cause 1)
  else if 16 ≤ g.os.length then .fault (.cause 3)
  else
    match s.engLoad e (g.ptr pb).toNat sz with
    | .error c => .fault c
    | .ok (v, cost, s) =>
      let v := if sx then signFrom sz v else v
      .ok (s.modEng e fun x => { x.bump pb inc sz with os := v :: g.os }) cost .seq

/-- STP: store through PA or PB (R597). -/
def storePtr (s : State) (e sz : Nat) (inc pb : Bool) : EngEnd :=
  let g := s.eng e
  if sz = 3 then .fault (.cause 1)
  else
    match g.os with
    | [] => .fault (.cause 4)
    | x :: os =>
      match s.engPut e (g.ptr pb).toNat sz x with
      | .error c => .fault c
      | .ok (cost, s) => .ok (s.modEng e fun x => { x.bump pb inc sz with os := os }) cost .seq

/-- LDP (R579, R581, R597). -/
def execLdp (e : EngId) (sz : BitVec 2) (inc sx pb : Bool) (s : State) : Host.Outcome State Fault Refusal :=
  engDo s e (.ldp sz inc sx pb) fun s => loadPtr s e sz.toNat inc sx pb

/-- STP (R579, R581, R597). -/
def execStp (e : EngId) (sz : BitVec 2) (inc sx pb : Bool) (s : State) : Host.Outcome State Fault Refusal :=
  engDo s e (.stp sz inc sx pb) fun s => storePtr s e sz.toNat inc pb

/-- The register that POPX writes (R597, R600). -/
def Eng.popx (g : Eng) (k : Nat) (v : Word) : Eng :=
  match k with
  | 0 => { g with pa := v }
  | 1 => { g with pb := v }
  | 2 => { g with rc := BitVec.ofNat 16 (min v.toNat 65535), rcWritten := g.rpt }
  | _ => g.setLow v

/-- The register that PUSHX reads. -/
def Eng.pushx (g : Eng) (k : Nat) : Word :=
  match k with
  | 0 => g.pa
  | 1 => g.pb
  | 2 => g.rc.setWidth 32
  | _ => g.st

/-- POPX: ( x -- ) to a register. -/
def popReg (s : State) (e k : Nat) : EngEnd :=
  let g := s.eng e
  match g.os with
  | [] => .fault (.cause 4)
  | v :: os => .ok (s.setEng e ({ g with os := os }.popx k v)) 1 .seq

/-- POPX (R597, R600). -/
def execPopx (e : EngId) (k : BitVec 2) (s : State) : Host.Outcome State Fault Refusal :=
  engDo s e (.popx k) fun s => popReg s e k.toNat

/-- PUSHX (R597). -/
def execPushx (e : EngId) (k : BitVec 2) (s : State) : Host.Outcome State Fault Refusal :=
  engDo s e (.pushx k) fun s => pushOne s e 1 ((s.eng e).pushx k.toNat)

/-- What AMO writes (R597). -/
def amoOp (k : Nat) (old x : Word) : Word :=
  match k with
  | 0 => x
  | 1 => old + x
  | 2 => old &&& x
  | _ => old ||| x

/-- AMO: ( x addr -- old ), as one access (R584). -/
def amoDo (s : State) (e k : Nat) : EngEnd :=
  match (s.eng e).os with
  | a :: x :: os =>
    match s.access e a.toNat 2 with
    | .error c => .fault c
    | .ok p =>
      if !p.amoOk then .fault (.cause 10)
      else
        match s.engLoad e a.toNat 2 with
        | .error c => .fault c
        | .ok (old, cost, s) =>
          match s.engPut e a.toNat 2 (amoOp k old x) with
          | .error c => .fault c
          | .ok (_, s) => .ok (s.modEng e fun g => { g with os := old :: os }) (cost + 1) .seq
  | _ => .fault (.cause 4)

/-- AMO (R581, R584, R597). -/
def execAmo (e : EngId) (k : BitVec 2) (s : State) : Host.Outcome State Fault Refusal :=
  engDo s e (.amo k) fun s => amoDo s e k.toNat

/-- ADDP (R597). -/
def execAddp (e : EngId) (pb : Bool) (v : BitVec 8) (s : State) : Host.Outcome State Fault Refusal :=
  engDo s e (.addp pb v) fun s => plain s e fun g => g.setPtr pb (g.ptr pb + v.signExtend 32)

/-- SETRC (R597, R600). -/
def execSetrc (e : EngId) (v : BitVec 9) (s : State) : Host.Outcome State Fault Refusal :=
  engDo s e (.setrc v) fun s => plain s e fun g => { g with rc := v.setWidth 16, rcWritten := g.rpt }

end Sys2Proof.Machine
end

