-- ==== Sys2Proof/Machine/EngCtl.lean ====
section
/-! DEFINITION. Control and system instructions of the engines, interrupt entry, and the tick hook (14). -/
namespace Sys2Proof.Machine

/-- REP (R599, R601). -/
def execRep (e : EngId) (s : State) : Host.Outcome State Fault Refusal :=
  engDo s e .rep fun s => repPop s e

/-- Pop a word index for CALLS and JMPS. -/
def withTarget (s : State) (e : Nat) (f : State → Nat → EngEnd) : EngEnd :=
  let g := s.eng e
  match g.os with
  | [] => .fault (.cause 4)
  | w :: os => f (s.setEng e { g with os := os }) w.toNat

/-- CALLS (R587, R591, R597). -/
def execCalls (e : EngId) (s : State) : Host.Outcome State Fault Refusal :=
  engDo s e .calls fun s => withTarget s e fun t w => callTo s e t w

/-- JMPS (R593, R597). -/
def execJmps (e : EngId) (s : State) : Host.Outcome State Fault Refusal :=
  engDo s e .jmps fun s => withTarget s e fun t w => jumpIf s e t true w

/-- BZ (R597). -/
def execBz (e : EngId) (v : BitVec 9) (s : State) : Host.Outcome State Fault Refusal :=
  engDo s e (.bz v) fun s => popJump s e (fun a => decide (a = 0)) (s.relWord e v.toInt)

/-- BNZ (R597). -/
def execBnz (e : EngId) (v : BitVec 9) (s : State) : Host.Outcome State Fault Refusal :=
  engDo s e (.bnz v) fun s => popJump s e (fun a => !(decide (a = 0))) (s.relWord e v.toInt)

/-- FLAG (R595, R597). -/
def execFlag (e : EngId) (set : Bool) (m : BitVec 7) (s : State) : Host.Outcome State Fault Refusal :=
  engDo s e (.flag set m) fun s =>
    plain s e fun g =>
      let x : Word := m.setWidth 32
      g.setLow (if set then g.st ||| x else g.st &&& ~~~x)

/-- IEN (R597). -/
def execIen (e : EngId) (v : Bool) (s : State) : Host.Outcome State Fault Refusal :=
  engDo s e (.ien v) fun s => plain s e fun g => { g with ie := v }

/-- SETIL (R597). -/
def execSetil (e : EngId) (v : BitVec 4) (s : State) : Host.Outcome State Fault Refusal :=
  engDo s e (.setil v) fun s => plain s e fun g => { g with il := v }

/-- BCC (R597, R598). -/
def execBcc (e : EngId) (c : BitVec 4) (v : BitVec 5) (s : State) : Host.Outcome State Fault Refusal :=
  engDo s e (.bcc c v) fun s => jumpIf s e s ((s.eng e).cond c.toNat) (s.relWord e v.toInt)

/-- RET (R591, R593, R597): a pop from the memory stack costs a step more. -/
def retDo (s : State) (e : Nat) : EngEnd :=
  match s.rsPop e with
  | .error c => .fault c
  | .ok (pc, mem, s) => if progWords ≤ pc / 4 then .fault (.cause 12) else .ok s (2 + mem.toNat) (.ret (pc / 4 * 4 + pc % 2))

/-- RET (R591, R597). -/
def execRet (e : EngId) (s : State) : Host.Outcome State Fault Refusal :=
  engDo s e .ret fun s => retDo s e

/-- RETI as an instruction. -/
def retiDo (s : State) (e : Nat) : EngEnd :=
  match s.engReti e with
  | .error c => .fault c
  | .ok (n, s) => .ok s n .done

/-- RETI (R613, R614). -/
def execReti (e : EngId) (s : State) : Host.Outcome State Fault Refusal :=
  engDo s e .reti fun s => retiDo s e

/-- WAIT: with IE 0 a source on offer above IL ends it at once (R616). -/
def waitDo (s : State) (e : Nat) : EngEnd :=
  .ok (((s.modEng e fun g => { g with waiting := true }).modTgt e fun x => { x with woke := false }).wakeEng e) 1 .seq

/-- WAIT (R616). -/
def execWait (e : EngId) (s : State) : Host.Outcome State Fault Refusal :=
  engDo s e .wait fun s => waitDo s e

/-- FENCE (R582, R583). -/
def execFence (e : EngId) (s : State) : Host.Outcome State Fault Refusal :=
  engDo s e .fence fun s => plain s e fun g => { g with stale := [] }

/-- SWI (R597, R606). -/
def execSwi (e : EngId) (code : BitVec 8) (s : State) : Host.Outcome State Fault Refusal :=
  engDo s e (.swi code) fun s => .ok s 0 (.swi code.toNat)

/-- ILLEGAL_OPCODE (R589). -/
def execIllegalOpcode (e : EngId) (s : State) : Host.Outcome State Fault Refusal :=
  engDo s e .illegal fun s => (fun _ => .fault (.cause 1)) s

/-- INTERRUPT_ENTRY (R609 to R611, R617). -/
def execInterruptEntry (e : EngId) (s : State) : Host.Outcome State Fault Refusal := .next (s.engEntry e)

/-- The lt at which the next tick of PE `q` falls due (R623). -/
def State.tickDue (s : State) (q : Nat) : Nat := Tab.get (fun _ => 0) s.boot.tickDue q

/-- A tick call, waiting or running. -/
def HookCall.isTick : HookCall → Bool
  | .tick _ => true
  | _ => false

/-- TICK_HOOK_CALL (R619, R623): once a tick has fallen due, Berzu calls the tick hook of PE `q`, or counts a tick that is not
made while the previous call has not ended (log 123). -/
def execTickHookCall (q : QuadId) (_h : Unit) (s : State) : Host.Outcome State Fault Refusal :=
  if s.boot.mainOn && s.engUp q.val && (s.hookHdr q.val).getLsbD 2 && decide (s.tickDue q.val ≤ s.now) then
    let t := Tab.get (fun _ => 0) s.boot.tick q.val
    let due := s.tickDue q.val + tickPeriod (s.hookHdr q.val)
    let s := s.modBoot fun b => { b with tick := Tab.put (fun _ => 0) b.tick q.val ((t + 1) % 4294967296)
                                         tickDue := Tab.put (fun _ => 0) b.tickDue q.val due }
    if (s.eng q.val).calls.any HookCall.isTick then .next (s.satAdd (F.ENG_HOOKCNT.TICK_MISSED q.val) 1)
    else .next (s.hookCall q.val (.tick t))
  else .next s

end Sys2Proof.Machine
end

