-- ==== Sys2Proof/Machine/Cirque.lean ====
section
/-! DEFINITION. The commands of Cirque (10 R415 to R439). -/
namespace Sys2Proof.Machine

/-- CIRQUE_DOORBELL (R417, R418). -/
def execCirqueDoorbell (w : Agent) (v : Word) (s : State) : Host.Outcome State Fault Refusal :=
  if s.mayWrite w then .next (s.doorbellWrite w v) else .next s

/-- CIRQUE_COMMIT (R422, R423 step 5, R429 to R431): at a ready host target the message is posted; an engine takes the offer
by an entry (R609). -/
def execCirqueCommit (t : TargetId) (s : State) : Host.Outcome State Fault Refusal :=
  if isHostTarget t.val then .next (if s.boot.mainOn then s.commitHost t.val else s)
  else if t.val < 36 ∧ (s.offered t.val).isSome then .next (s.engEntry t.val)
  else .next s

/-- MOD_TIME_EXPIRY (R430): once MOD_TIME has passed, the target is ready on that condition until its next commit. -/
def execModTimeExpiry (t : TargetId) (s : State) : Host.Outcome State Fault Refusal :=
  if (s.tgt t.val).commit.isSome && s.modTimeOver t.val then .next (s.modTgt t.val fun x => { x with commit := none })
  else .next s

/-- CIRQUE_CLAIM (R425, R427). -/
def execCirqueClaim (r : Agent) (t : TargetId) (s : State) : Host.Outcome State Fault Refusal :=
  if s.mayRead r then
    let x := if mayUse r t.val then s.claim t.val else (0, s)
    .next (x.2.withReadData x.1)
  else .next s

/-- CIRQUE_COMPLETE (R426, R427); a target that does not exist has no register (R14). -/
def execCirqueComplete (w : Agent) (t : TargetId) (v : Word) (s : State) : Host.Outcome State Fault Refusal :=
  if s.mayWrite w && isTarget t.val then .next (s.completeWrite w t.val v) else .next s

/-- CIRQUE_SRC_WRITE (R429, R432, R434). -/
def execCirqueSrcWrite (w : Agent) (n : SrcId) (v : Word) (s : State) : Host.Outcome State Fault Refusal :=
  if s.mayWrite w then .next (s.srcWrite w n.val v) else .next s

/-- SOURCE_CLR (R434): a write that changes nothing but CLR. -/
def execSourceClr (w : Agent) (n : SrcId) (s : State) : Host.Outcome State Fault Refusal :=
  if s.mayWrite w then
    .next (s.srcWrite w n.val (((s.src n.val).word &&& 0xEFFFFFFF#32) ||| 0x08000000#32))
  else .next s

/-- IDLE_WRITE (R427, R431). -/
def execIdleWrite (f : Fn) (t : TargetId) (s : State) : Host.Outcome State Fault Refusal :=
  if s.mayWrite (.host f) && isTarget t.val then .next (s.idleWrite (.host f) t.val true) else .next s

/-- MSIX_VECTOR_UNBLOCK (R370, R429): one of the four blocks of a vector ends; a held offer may then commit. -/
def execMsixVectorUnblock (f : Fn) (v : Fin 16) (how : Unblock) (s : State) : Host.Outcome State Fault Refusal :=
  let l := (s.func f.val).link
  match how with
  | .entry => .next (if s.hostOpen f.val then s.setB (F.MSIX.MASK f.val v.val) false else s)
  | .funcMask => .next (if l then s.modFunc f.val fun x => { x with msixMask := false } else s)
  | .enable => .next (if l then s.modFunc f.val fun x => { x with msixEn := true } else s)
  | .busMaster => .next (if l then s.modFunc f.val fun x => { x with busMaster := true } else s)

end Sys2Proof.Machine
end

