-- ==== Sys2Proof/Machine/Scrub.lean ====
section
/-! DEFINITION. What an uncorrectable error of the queue and control memories does to a frame (16 R696), and the command of the
scrubber (16 R694, R695). -/
namespace Sys2Proof.Machine

/-- One part of a frame in a virtual output queue towards port `p` is dropped, and counted where its path counts drops
(R297, R330, R523). -/
def State.dropPart (s : State) (p : Nat) (x : VoqItem) : State :=
  let colour := (s.frame x.fid).colour
  let lost (st : State) (h : DropHdr) (n : Nat) : State := (st.satAdd (F.COL_PORTSTAT.EG_DROP p) 1).morDrop p p 2 0 h n
  match x.what with
  | .buses _ fr _ => (lost s (busDropHdr fr colour x.tc) fr.bytes).releaseEntry (4 * p) (some x.fid)
  | .rings items =>
    items.foldl (fun st y =>
      let st := st.cqRelease p y.1 x.fid
      if y.2.routed then lost st (y.2.dropHdr colour x.tc) y.2.data.length else st) s
  | .eth gs => gs.foldl (fun st g => st.ethRelease (p - 32) g.fid) s
  | .desc =>
    match takeFirst (fun (y : Fetched) => y.fid == some x.fid) s.fetched with
    | some (y, rest) => ((s.withFetched rest).fetchedCpl y .aborted).releaseAt p x.fid
    | none => s.releaseAt p x.fid
  | .engine _ => s.releaseAt p x.fid
  | .mor _ =>
    let s := (s.satAdd F.MOR_LOSS.LOST_ADMIT 1).releaseAt p x.fid
    s.withMor { s.mor with lost := min 4294967295 (s.mor.lost + 1) }

/-- The frame at the front of virtual output queue `k` is lost. -/
def State.voqDrop (s : State) (k : Nat) : State :=
  match s.voq k with
  | [] => s
  | x :: rest => (s.setVoq k rest).dropPart (k / 4 % 40) x

/-- An access meets an uncorrectable error in the queue and control memories (R696): the frame concerned is dropped. The spec
does not say which frame a word of these memories belongs to: which of the queued ones it is, or that it is none, is free
(log 106). -/
def State.queueError (s : State) : State :=
  let d := s.drawWord
  let ks := d.2.voqs.map Prod.fst
  match ks[d.1.toNat % (ks.length + 1)]? with
  | some k => d.2.voqDrop k
  | none => d.2

/-- SCRUB_READ (R694, R695). An error that another access to a word finds first is given by the same command with `scrub`
false, before the command of that access (log 95); in the queue and control memories the access has its consequence at once. A pass ends once
SCRUB_MS has elapsed since it started; its reads of good words change nothing and need no command (log 111). -/
def execScrubRead (x : ScrubRead) (s : State) : Host.Outcome State Fault Refusal :=
  if s.boot.mainOn && (s.fb F.GLB_ECCCTRL.SCRUB_EN || !x.scrub) then
    match x.kind with
    | .clean => .next s
    | .corrected => .next (s.eccCorrected x)
    | .uncorrectable =>
      let t := s.eccUncorrectable x
      .next (if x.mem = 9 ∧ x.scrub = false then t.queueError else t)
    | .passEnd => .next (if x.scrub && s.passOver then s.scrubPass else s)
  else .next s

end Sys2Proof.Machine
end

