-- ==== Sys2Proof/Machine/Dispatch.lean ====
section
/-! DEFINITION. The effect of a command: one arm for each constructor, each one call of its meaning. -/
namespace Sys2Proof.Machine
open Sys2Proof

/-- The effect of a command on everything but the queue. -/
def exec (i : Instr) (s : State) : Host.Outcome State Fault Refusal :=
  match i with
  | .adminNop f d => Sys2Proof.Machine.execAdminNop f d s
  | .adminOpcodeUnknown f d => Sys2Proof.Machine.execAdminOpcodeUnknown f d s
  | .funcEnable f d => Sys2Proof.Machine.execFuncEnable f d s
  | .ringCreateCq f d => Sys2Proof.Machine.execRingCreateCq f d s
  | .ringCreateSq f d => Sys2Proof.Machine.execRingCreateSq f d s
  | .ringDeleteSq f d => Sys2Proof.Machine.execRingDeleteSq f d s
  | .ringDeleteSqCommit n => Sys2Proof.Machine.execRingDeleteSqCommit n s
  | .ringDeleteCq f d => Sys2Proof.Machine.execRingDeleteCq f d s
  | .adoptRings f d => Sys2Proof.Machine.execAdoptRings f d s
  | .laneStart f d => Sys2Proof.Machine.execLaneStart f d s
  | .laneStop f d => Sys2Proof.Machine.execLaneStop f d s
  | .laneSuspend f d => Sys2Proof.Machine.execLaneSuspend f d s
  | .laneResume f d => Sys2Proof.Machine.execLaneResume f d s
  | .busoffRecover f d => Sys2Proof.Machine.execBusoffRecover f d s
  | .busBind f d => Sys2Proof.Machine.execBusBind f d s
  | .txCancel f d => Sys2Proof.Machine.execTxCancel f d s
  | .txAbort f d => Sys2Proof.Machine.execTxAbort f d s
  | .fltLoad f d => Sys2Proof.Machine.execFltLoad f d s
  | .fltLoadTransferDone b els => Sys2Proof.Machine.execFltLoadTransferDone b els s
  | .fltLoadCommit b => Sys2Proof.Machine.execFltLoadCommit b s
  | .rtLoad f d => Sys2Proof.Machine.execRtLoad f d s
  | .rtLoadCommit recs => Sys2Proof.Machine.execRtLoadCommit recs s
  | .polLoad f d => Sys2Proof.Machine.execPolLoad f d s
  | .polLoadCommit recs => Sys2Proof.Machine.execPolLoadCommit recs s
  | .powerMode f d => Sys2Proof.Machine.execPowerMode f d s
  | .powerModeSettleEnd => Sys2Proof.Machine.execPowerModeSettleEnd s
  | .pmbusWriteNack => Sys2Proof.Machine.execPmbusWriteNack s
  | .pwrGoodFallDuringMove => Sys2Proof.Machine.execPwrGoodFallDuringMove s
  | .tbStep f d => Sys2Proof.Machine.execTbStep f d s
  | .portEnable f d => Sys2Proof.Machine.execPortEnable f d s
  | .portDisable f d => Sys2Proof.Machine.execPortDisable f d s
  | .blockStartMoraine f d => Sys2Proof.Machine.execBlockStartMoraine f d s
  | .blockStopMoraine f d => Sys2Proof.Machine.execBlockStopMoraine f d s
  | .blockStartTimeBases f d => Sys2Proof.Machine.execBlockStartTimeBases f d s
  | .blockStopTimeBases f d => Sys2Proof.Machine.execBlockStopTimeBases f d s
  | .blockStartStack f d => Sys2Proof.Machine.execBlockStartStack f d s
  | .blockStopStack f d => Sys2Proof.Machine.execBlockStopStack f d s
  | .blockStartSnowline f d => Sys2Proof.Machine.execBlockStartSnowline f d s
  | .blockStopSnowline f d => Sys2Proof.Machine.execBlockStopSnowline f d s
  | .arm f d => Sys2Proof.Machine.execArm f d s
  | .trigger f d => Sys2Proof.Machine.execTrigger f d s
  | .freeze f d => Sys2Proof.Machine.execFreeze f d s
  | .dump f d => Sys2Proof.Machine.execDump f d s
  | .dumpDone => Sys2Proof.Machine.execDumpDone s
  | .hringRestart f d => Sys2Proof.Machine.execHringRestart f d s
  | .clear f d => Sys2Proof.Machine.execClear f d s
  | .recStatus f d => Sys2Proof.Machine.execRecStatus f d s
  | .routePush f d recs => Sys2Proof.Machine.execRoutePush f d recs s
  | .epochCommit f d => Sys2Proof.Machine.execEpochCommit f d s
  | .epochCommitDone => Sys2Proof.Machine.execEpochCommitDone s
  | .handover f d => Sys2Proof.Machine.execHandover f d s
  | .stackStatus f d => Sys2Proof.Machine.execStackStatus f d s
  | .imageLoad f d => Sys2Proof.Machine.execImageLoad f d s
  | .imageLoadCommit img => Sys2Proof.Machine.execImageLoadCommit img s
  | .sqTailDoorbell f n v => Sys2Proof.Machine.execSqTailDoorbell f n v s
  | .cqHeadDoorbell f n v => Sys2Proof.Machine.execCqHeadDoorbell f n v s
  | .adminSqTailDoorbell f v => Sys2Proof.Machine.execAdminSqTailDoorbell f v s
  | .adminCqHeadDoorbell f v => Sys2Proof.Machine.execAdminCqHeadDoorbell f v s
  | .tx n d => Sys2Proof.Machine.execTx n d s
  | .txPayloadReadDone n data => Sys2Proof.Machine.execTxPayloadReadDone n data s
  | .waitingAdmissionGrant p => Sys2Proof.Machine.execWaitingAdmissionGrant p s
  | .ethTx n d => Sys2Proof.Machine.execEthTx n d s
  | .ethTxStart e => Sys2Proof.Machine.execEthTxStart e s
  | .ethFrameTxEnd e => Sys2Proof.Machine.execEthFrameTxEnd e s
  | .rxbuf n d => Sys2Proof.Machine.execRxbuf n d s
  | .ioNop n d => Sys2Proof.Machine.execIoNop n d s
  | .rxCompletionWrite n => Sys2Proof.Machine.execRxCompletionWrite n s
  | .flr f => Sys2Proof.Machine.execFlr f s
  | .funcLinkLoss f => Sys2Proof.Machine.execFuncLinkLoss f s
  | .objectWord0Read f q o => Sys2Proof.Machine.execObjectWord0Read f q o s
  | .objectRelease f q o => Sys2Proof.Machine.execObjectRelease f q o s
  | .objectWrite f q o w v be => Sys2Proof.Machine.execObjectWrite f q o w v be s
  | .objLockTimeout q o => Sys2Proof.Machine.execObjLockTimeout q o s
  | .periodicRelease q o => Sys2Proof.Machine.execPeriodicRelease q o s
  | .deadlineExpiry dst ent => Sys2Proof.Machine.execDeadlineExpiry dst ent s
  | .holdExpiry l => Sys2Proof.Machine.execHoldExpiry l s
  | .trailMsExpiry l ent => Sys2Proof.Machine.execTrailMsExpiry l ent s
  | .txSof l joined => Sys2Proof.Machine.execTxSof l joined s
  | .arbLost l => Sys2Proof.Machine.execArbLost l s
  | .txSuccess l loop => Sys2Proof.Machine.execTxSuccess l loop s
  | .txError l x => Sys2Proof.Machine.execTxError l x s
  | .rxError l x => Sys2Proof.Machine.execRxError l x s
  | .protocolException l x => Sys2Proof.Machine.execProtocolException l x s
  | .overloadFrame l x => Sys2Proof.Machine.execOverloadFrame l x s
  | .frameValid l fr sof h => Sys2Proof.Machine.execFrameValid l fr sof h s
  | .filterDecision l fr sof late parity h => Sys2Proof.Machine.execFilterDecision l fr sof late parity h s
  | .cutThroughLookup l fr sof => Sys2Proof.Machine.execCutThroughLookup l fr sof s
  | .ctKillArrival l => Sys2Proof.Machine.execCtKillArrival l s
  | .ctKillWindowEnd => Sys2Proof.Machine.execCtKillWindowEnd s
  | .colSlot => Sys2Proof.Machine.execColSlot s
  | .stuckDominant l x => Sys2Proof.Machine.execStuckDominant l x s
  | .lctlSettleExpiry l => Sys2Proof.Machine.execLctlSettleExpiry l s
  | .selfTestFaultFound l => Sys2Proof.Machine.execSelfTestFaultFound l s
  | .selfTestWindowEnd l => Sys2Proof.Machine.execSelfTestWindowEnd l s
  | .stuckFaultEnd l => Sys2Proof.Machine.execStuckFaultEnd l s
  | .integrationComplete l => Sys2Proof.Machine.execIntegrationComplete l s
  | .rejoinAfterIdle l => Sys2Proof.Machine.execRejoinAfterIdle l s
  | .recoveryComplete l => Sys2Proof.Machine.execRecoveryComplete l s
  | .boCountAge l => Sys2Proof.Machine.execBoCountAge l s
  | .seekFrameEnd l fr good => Sys2Proof.Machine.execSeekFrameEnd l fr good s
  | .seekDwellExpiry l => Sys2Proof.Machine.execSeekDwellExpiry l s
  | .seekTimeout l => Sys2Proof.Machine.execSeekTimeout l s
  | .declaredTimingApply l => Sys2Proof.Machine.execDeclaredTimingApply l s
  | .guardWindowEnd l g => Sys2Proof.Machine.execGuardWindowEnd l g s
  | .quarantineLift f l g => Sys2Proof.Machine.execQuarantineLift f l g s
  | .vlogClear f l => Sys2Proof.Machine.execVlogClear f l s
  | .dupEntryExpiry l => Sys2Proof.Machine.execDupEntryExpiry l s
  | .quadModeWrite f q mode => Sys2Proof.Machine.execQuadModeWrite f q mode s
  | .quadGateWrite f q gate => Sys2Proof.Machine.execQuadGateWrite f q gate s
  | .quadGatedDone q => Sys2Proof.Machine.execQuadGatedDone q s
  | .quadUngateDone q => Sys2Proof.Machine.execQuadUngateDone q s
  | .sweepCompare c => Sys2Proof.Machine.execSweepCompare c s
  | .ethLinkDown e => Sys2Proof.Machine.execEthLinkDown e s
  | .ethLinkUp e speed => Sys2Proof.Machine.execEthLinkUp e speed s
  | .portHoldExpiry e => Sys2Proof.Machine.execPortHoldExpiry e s
  | .ethFrameRx e fr => Sys2Proof.Machine.execEthFrameRx e fr s
  | .stackDataRx e bytes => Sys2Proof.Machine.execStackDataRx e bytes s
  | .heartbeatRx e bytes => Sys2Proof.Machine.execHeartbeatRx e bytes s
  | .routePushRx e bytes => Sys2Proof.Machine.execRoutePushRx e bytes s
  | .epochCommitRx e bytes => Sys2Proof.Machine.execEpochCommitRx e bytes s
  | .epochAckRx e bytes => Sys2Proof.Machine.execEpochAckRx e bytes s
  | .nakRx e bytes => Sys2Proof.Machine.execNakRx e bytes s
  | .handoverRx e bytes => Sys2Proof.Machine.execHandoverRx e bytes s
  | .epochActivation => Sys2Proof.Machine.execEpochActivation s
  | .heartbeatTimer => Sys2Proof.Machine.execHeartbeatTimer s
  | .masterListenEnd => Sys2Proof.Machine.execMasterListenEnd s
  | .masterLost => Sys2Proof.Machine.execMasterLost s
  | .broadcastSeqForget backup => Sys2Proof.Machine.execBroadcastSeqForget backup s
  | .syncTxTimer => Sys2Proof.Machine.execSyncTxTimer s
  | .syncRx e seq ingress => Sys2Proof.Machine.execSyncRx e seq ingress s
  | .followUpRx e seq origin corr => Sys2Proof.Machine.execFollowUpRx e seq origin corr s
  | .delayReqRx e src seq ingress => Sys2Proof.Machine.execDelayReqRx e src seq ingress s
  | .delayRespRx e seq recv => Sys2Proof.Machine.execDelayRespRx e seq recv s
  | .cirqueDoorbell w v => Sys2Proof.Machine.execCirqueDoorbell w v s
  | .cirqueCommit t => Sys2Proof.Machine.execCirqueCommit t s
  | .modTimeExpiry t => Sys2Proof.Machine.execModTimeExpiry t s
  | .cirqueClaim r t => Sys2Proof.Machine.execCirqueClaim r t s
  | .cirqueComplete w t v => Sys2Proof.Machine.execCirqueComplete w t v s
  | .cirqueSrcWrite w n v => Sys2Proof.Machine.execCirqueSrcWrite w n v s
  | .sourceClr w n => Sys2Proof.Machine.execSourceClr w n s
  | .idleWrite f t => Sys2Proof.Machine.execIdleWrite f t s
  | .msixVectorUnblock f v how => Sys2Proof.Machine.execMsixVectorUnblock f v how s
  | .tbSlewWrite w n v => Sys2Proof.Machine.execTbSlewWrite w n v s
  | .slewDone n => Sys2Proof.Machine.execSlewDone n s
  | .tbTimeCapture r n => Sys2Proof.Machine.execTbTimeCapture r n s
  | .tbSet w n v => Sys2Proof.Machine.execTbSet w n v s
  | .syncRelease c => Sys2Proof.Machine.execSyncRelease c s
  | .morRecordWrite => Sys2Proof.Machine.execMorRecordWrite s
  | .postWindowEnd => Sys2Proof.Machine.execPostWindowEnd s
  | .morHeaderWrite => Sys2Proof.Machine.execMorHeaderWrite s
  | .morHheadWrite f v => Sys2Proof.Machine.execMorHheadWrite f v s
  | .wupDetected n => Sys2Proof.Machine.execWupDetected n s
  | .swFrameEnd n fr good => Sys2Proof.Machine.execSwFrameEnd n fr good s
  | .wakePin k => Sys2Proof.Machine.execWakePin k s
  | .gpioWake k => Sys2Proof.Machine.execGpioWake k s
  | .perstWake f deassert => Sys2Proof.Machine.execPerstWake f deassert s
  | .rtcAlarm => Sys2Proof.Machine.execRtcAlarm s
  | .vaonPowerUp => Sys2Proof.Machine.execVaonPowerUp s
  | .pwrGoodRise => Sys2Proof.Machine.execPwrGoodRise s
  | .pgTimeout => Sys2Proof.Machine.execPgTimeout s
  | .resetDelayEnd => Sys2Proof.Machine.execResetDelayEnd s
  | .mainResetRelease p => Sys2Proof.Machine.execMainResetRelease p s
  | .bootMailboxGo f v => Sys2Proof.Machine.execBootMailboxGo f v s
  | .imageReadDone img => Sys2Proof.Machine.execImageReadDone img s
  | .bootDone => Sys2Proof.Machine.execBootDone s
  | .sysReset => Sys2Proof.Machine.execSysReset s
  | .deviceResetKey w => Sys2Proof.Machine.execDeviceResetKey w s
  | .standbyKey w => Sys2Proof.Machine.execStandbyKey w s
  | .standbyRailsOff => Sys2Proof.Machine.execStandbyRailsOff s
  | .thermalStepDown tj => Sys2Proof.Machine.execThermalStepDown tj s
  | .tjAlarmCross tj => Sys2Proof.Machine.execTjAlarmCross tj s
  | .thermalShutdown tj => Sys2Proof.Machine.execThermalShutdown tj s
  | .thermalRelease tj => Sys2Proof.Machine.execThermalRelease tj s
  | .scrubRead x => Sys2Proof.Machine.execScrubRead x s
  | .tickHookCall q h => Sys2Proof.Machine.execTickHookCall q h s
  | .interruptEntry e => Sys2Proof.Machine.execInterruptEntry e s
  | .lnop e => Sys2Proof.Machine.execLnop e s
  | .lit e v => Sys2Proof.Machine.execLit e v s
  | .litu e v => Sys2Proof.Machine.execLitu e v s
  | .sethi e v => Sys2Proof.Machine.execSethi e v s
  | .addi e v => Sys2Proof.Machine.execAddi e v s
  | .cmpi e v => Sys2Proof.Machine.execCmpi e v s
  | .lda e v => Sys2Proof.Machine.execLda e v s
  | .sta e v => Sys2Proof.Machine.execSta e v s
  | .jz e v => Sys2Proof.Machine.execJz e v s
  | .jnz e v => Sys2Proof.Machine.execJnz e v s
  | .call e v => Sys2Proof.Machine.execCall e v s
  | .repLong e => Sys2Proof.Machine.execRepLong e s
  | .jcc e c v => Sys2Proof.Machine.execJcc e c v s
  | .nop e => Sys2Proof.Machine.execNop e s
  | .dup e => Sys2Proof.Machine.execDup e s
  | .drop e => Sys2Proof.Machine.execDrop e s
  | .swap e => Sys2Proof.Machine.execSwap e s
  | .over e => Sys2Proof.Machine.execOver e s
  | .rot e => Sys2Proof.Machine.execRot e s
  | .pick e n => Sys2Proof.Machine.execPick e n s
  | .slit e v => Sys2Proof.Machine.execSlit e v s
  | .add e => Sys2Proof.Machine.execAdd e s
  | .sub e => Sys2Proof.Machine.execSub e s
  | .adc e => Sys2Proof.Machine.execAdc e s
  | .sbc e => Sys2Proof.Machine.execSbc e s
  | .adds e => Sys2Proof.Machine.execAdds e s
  | .subs e => Sys2Proof.Machine.execSubs e s
  | .mul e => Sys2Proof.Machine.execMul e s
  | .mulh e u => Sys2Proof.Machine.execMulh e u s
  | .div e => Sys2Proof.Machine.execDiv e s
  | .divu e => Sys2Proof.Machine.execDivu e s
  | .neg e => Sys2Proof.Machine.execNeg e s
  | .abs e => Sys2Proof.Machine.execAbs e s
  | .and e => Sys2Proof.Machine.execAnd e s
  | .or e => Sys2Proof.Machine.execOr e s
  | .xor e => Sys2Proof.Machine.execXor e s
  | .not e => Sys2Proof.Machine.execNot e s
  | .shl e => Sys2Proof.Machine.execShl e s
  | .shr e => Sys2Proof.Machine.execShr e s
  | .sar e => Sys2Proof.Machine.execSar e s
  | .rol e => Sys2Proof.Machine.execRol e s
  | .ror e => Sys2Proof.Machine.execRor e s
  | .shi e k n => Sys2Proof.Machine.execShi e k n s
  | .cmp e => Sys2Proof.Machine.execCmp e s
  | .tst e => Sys2Proof.Machine.execTst e s
  | .ld e => Sys2Proof.Machine.execLd e s
  | .st e => Sys2Proof.Machine.execSt e s
  | .ldp e sz inc sx pb => Sys2Proof.Machine.execLdp e sz inc sx pb s
  | .stp e sz inc sx pb => Sys2Proof.Machine.execStp e sz inc sx pb s
  | .popx e k => Sys2Proof.Machine.execPopx e k s
  | .pushx e k => Sys2Proof.Machine.execPushx e k s
  | .amo e k => Sys2Proof.Machine.execAmo e k s
  | .rep e => Sys2Proof.Machine.execRep e s
  | .clz e => Sys2Proof.Machine.execClz e s
  | .bswap e => Sys2Proof.Machine.execBswap e s
  | .ext e lsb w => Sys2Proof.Machine.execExt e lsb w s
  | .calls e => Sys2Proof.Machine.execCalls e s
  | .jmps e => Sys2Proof.Machine.execJmps e s
  | .bz e v => Sys2Proof.Machine.execBz e v s
  | .bnz e v => Sys2Proof.Machine.execBnz e v s
  | .addp e pb v => Sys2Proof.Machine.execAddp e pb v s
  | .setrc e v => Sys2Proof.Machine.execSetrc e v s
  | .flag e set m => Sys2Proof.Machine.execFlag e set m s
  | .ien e v => Sys2Proof.Machine.execIen e v s
  | .setil e v => Sys2Proof.Machine.execSetil e v s
  | .bcc e c v => Sys2Proof.Machine.execBcc e c v s
  | .ret e => Sys2Proof.Machine.execRet e s
  | .reti e => Sys2Proof.Machine.execReti e s
  | .wait e => Sys2Proof.Machine.execWait e s
  | .fence e => Sys2Proof.Machine.execFence e s
  | .swi e code => Sys2Proof.Machine.execSwi e code s
  | .illegalOpcode e => Sys2Proof.Machine.execIllegalOpcode e s
  | .br l dl c a => Sys2Proof.Machine.execBr l dl c a s
  | .await l dl lv k pulse => Sys2Proof.Machine.execAwait l dl lv k pulse s
  | .shin l dl k n => Sys2Proof.Machine.execShin l dl k n s
  | .shout l dl k n => Sys2Proof.Machine.execShout l dl k n s
  | .push l dl thr => Sys2Proof.Machine.execPush l dl thr s
  | .pushN l dl thr => Sys2Proof.Machine.execPushN l dl thr s
  | .pull l dl thr => Sys2Proof.Machine.execPull l dl thr s
  | .pullN l dl thr => Sys2Proof.Machine.execPullN l dl thr s
  | .setx l dl v => Sys2Proof.Machine.execSetx l dl v s
  | .drive l dl k => Sys2Proof.Machine.execDrive l dl k s
  | .crcReset l dl k => Sys2Proof.Machine.execCrcReset l dl k s
  | .stuffDyn l dl => Sys2Proof.Machine.execStuffDyn l dl s
  | .stuffFixedFd l dl => Sys2Proof.Machine.execStuffFixedFd l dl s
  | .stuffFixedXl l dl => Sys2Proof.Machine.execStuffFixedXl l dl s
  | .stuffOff l dl => Sys2Proof.Machine.execStuffOff l dl s
  | .crcSend l dl k => Sys2Proof.Machine.execCrcSend l dl k s
  | .crcCheck l dl k bad => Sys2Proof.Machine.execCrcCheck l dl k bad s
  | .phaseData l dl => Sys2Proof.Machine.execPhaseData l dl s
  | .phaseNominal l dl => Sys2Proof.Machine.execPhaseNominal l dl s
  | .errClear l dl => Sys2Proof.Machine.execErrClear l dl s
  | .tdcStart l dl => Sys2Proof.Machine.execTdcStart l dl s
  | .sig l dl v => Sys2Proof.Machine.execSig l dl v s
  | .copy l dl k => Sys2Proof.Machine.execCopy l dl k s
  | .pinNop l dl => Sys2Proof.Machine.execPinNop l dl s
  | .pinReservedOp l => Sys2Proof.Machine.execPinReservedOp l s
  | .switchAtEnd w l => Sys2Proof.Machine.execSwitchAtEnd w l s
  | .switchNow w l => Sys2Proof.Machine.execSwitchNow w l s
  | .switchWithdraw w l => Sys2Proof.Machine.execSwitchWithdraw w l s
  | .peprogWrite w l k v => Sys2Proof.Machine.execPeprogWrite w l k v s
  | .registerWrite w a v be => Sys2Proof.Machine.execRegisterWrite w a v be s
  | .rcFieldRead r a => Sys2Proof.Machine.execRcFieldRead r a s
  | .pcieLinkUp f => Sys2Proof.Machine.execPcieLinkUp f s
  | .tjAlarmRearm tj => Sys2Proof.Machine.execTjAlarmRearm tj s
  | .pwrEnNHoldEnd => Sys2Proof.Machine.execPwrEnNHoldEnd s

end Sys2Proof.Machine
end

