-- ==== Sys2Proof/Safety.lean ====
section
/-! DEFINITION. What a state of a safe run keeps: every table in canonical form, the time bases below the value where
they wrap, the engine stacks within their depths; the pieces of the state, and which of them a
command may change; and the words in which the statements about the commands say what a command does. -/
namespace Sys2Proof.Machine

/-- Every table of the state is in canonical form. -/
structure Canon (s : State) : Prop where
  mem : Tab.wf (memReset) s.mem = true
  regs : Tab.wf (regReset) s.regs = true
  tbs : Tab.wf (fun _ => ({} : TimeBase)) s.tbs = true
  lanes : Tab.wf (fun _ => ({} : Lane)) s.lanes = true
  pins : Tab.wf (fun _ => ({} : PinEng)) s.pins = true
  buses : Tab.wf (fun _ => ([] : List Entry)) s.buses = true
  txTurn : Tab.wf (fun _ => (0 : Nat)) s.txTurn = true
  objs : Tab.wf (fun _ => ({} : Obj)) s.objs = true
  fltLoads : Tab.wf (fun _ => (none : Option FltLoad)) s.fltLoads = true
  caches : Tab.wf (fun _ => ({} : FltCache)) s.caches = true
  routeGen : Tab.wf (fun _ => (0 : Nat)) s.routeGen = true
  kills : Tab.wf (fun _ => (0 : Nat)) s.kills = true
  voqs : Tab.wf (fun _ => ([] : List VoqItem)) s.voqs = true
  ctqs : Tab.wf (fun _ => ([] : List (Nat × Nat))) s.ctqs = true
  ptrs : Tab.wf (fun _ => ({} : ColPtr)) s.ptrs = true
  cells : Tab.wf (fun _ => ({} : Cell)) s.cells = true
  frames : Tab.wf (fun _ => ({} : FirnFrame)) s.frames = true
  charged : Tab.wf (fun _ => (0 : Nat)) s.charged = true
  avg : Tab.wf (fun _ => (0 : Nat)) s.avg = true
  lfsr : Tab.wf (fun _ => (0xACE1#16 : BitVec 16)) s.lfsr = true
  buckets : Tab.wf (fun _ => ({} : Policer)) s.buckets = true
  cqHeld : Tab.wf (fun _ => (0 : Nat)) s.cqHeld = true
  chargeSeen : Tab.wf (fun _ => (0 : Nat)) s.chargeSeen = true
  sqs : Tab.wf (fun _ => ({} : Sq)) s.sqs = true
  cqs : Tab.wf (fun _ => ({} : Cq)) s.cqs = true
  funcs : Tab.wf (fun _ => ({} : Func)) s.funcs = true
  srcs : Tab.wf (fun _ => ({} : Src)) s.srcs = true
  tgts : Tab.wf (fun _ => ({} : Tgt)) s.tgts = true
  eths : Tab.wf (fun _ => ({} : EthPort)) s.eths = true
  engs : Tab.wf (fun _ => ({} : Eng)) s.engs = true
  bdq : Tab.wf (fun _ => (0 : Nat)) s.bdq = true
  tbCap : Tab.wf (fun _ => ((0, 0) : Nat × Nat)) s.tbCap = true

/-- The stacks that an engine may go back to: those Berzu left for a hook call, and those kept at its entries (R620, R626). -/
def Eng.saves (g : Eng) : List EngStacks := (g.back.map fun b => b.2).toList ++ g.frames.map fun x => x.save

/-- The stacks of an engine within their depths (R590, R591), and those it may go back to. -/
structure Eng.Fits (g : Eng) : Prop where
  os : g.os.length ≤ 16
  rs : g.rsd ≤ 8
  saved : ∀ x ∈ g.saves, x.os.length ≤ 16 ∧ x.rsd ≤ 8

/-- What every step keeps. `tb`: a base's value lies below the value at which it wraps (R461). -/
structure Sane (s : State) : Prop where
  canon : Canon s
  tb : ∀ n, (s.tb n).val < tbWrap
  eng : ∀ e, (s.eng e).Fits

/-- The pieces of the state. -/
inductive Piece where
  | free | time | regs | mem | host | lanes | pins | tx | objs | filters | routes | col
  | firn | rings | irq | mor | stack | eths | snow | power | boot | poison | engs
deriving DecidableEq, Repr

/-- The piece is the same in both states. -/
def Piece.Same : Piece → State → State → Prop
  | .free, s, t => t.free = s.free ∧ t.readData = s.readData
  | .time, s, t => t.now = s.now ∧ t.tbs = s.tbs ∧ t.tbCap = s.tbCap ∧ t.timeUp = s.timeUp ∧ t.timeDist = s.timeDist ∧ t.bdq = s.bdq
  | .regs, s, t => t.regs = s.regs
  | .mem, s, t => t.mem = s.mem
  | .host, s, t => t.hostMem0 = s.hostMem0 ∧ t.hostMem1 = s.hostMem1
  | .lanes, s, t => t.lanes = s.lanes
  | .pins, s, t => t.pins = s.pins
  | .tx, s, t => t.buses = s.buses ∧ t.txTurn = s.txTurn ∧ t.nextEnt = s.nextEnt ∧ t.nextDone = s.nextDone ∧ t.fetched = s.fetched ∧ t.seWait = s.seWait
  | .objs, s, t => t.objs = s.objs
  | .filters, s, t => t.fltLoads = s.fltLoads ∧ t.caches = s.caches
  | .routes, s, t => t.rtLoad = s.rtLoad ∧ t.polLoad = s.polLoad ∧ t.routeGen = s.routeGen ∧ t.kills = s.kills ∧ t.killDue = s.killDue
  | .col, s, t => t.voqs = s.voqs ∧ t.ctqs = s.ctqs ∧ t.ptrs = s.ptrs
  | .firn, s, t => t.cells = s.cells ∧ t.frames = s.frames ∧ t.nextFid = s.nextFid ∧ t.nextValid = s.nextValid ∧ t.charged = s.charged ∧ t.avg = s.avg ∧ t.lfsr = s.lfsr ∧ t.buckets = s.buckets ∧ t.cqHeld = s.cqHeld ∧ t.lowCond = s.lowCond ∧ t.chargeSeen = s.chargeSeen ∧ t.sweepAt = s.sweepAt
  | .rings, s, t => t.sqs = s.sqs ∧ t.cqs = s.cqs ∧ t.funcs = s.funcs ∧ t.held = s.held
  | .irq, s, t => t.srcs = s.srcs ∧ t.tgts = s.tgts
  | .mor, s, t => t.mor = s.mor
  | .stack, s, t => t.stack = s.stack
  | .eths, s, t => t.eths = s.eths
  | .snow, s, t => t.snow = s.snow
  | .power, s, t => t.power = s.power
  | .boot, s, t => t.boot = s.boot
  | .poison, s, t => t.poison = s.poison
  | .engs, s, t => t.engs = s.engs

/-- The command has an effect: it answers a next state. -/
def Completes (c : Instr) (s : State) : Prop := ∃ t, exec c s = .next t

/-! Frames -/

/-- The pieces of the state that a command may change; what it may not change is the rest. -/
def changesOf : Instr → List Piece
  | .selfTestWindowEnd .. => [.lanes]
  | .quarantineLift .. | .quadGateWrite .. | .quadGatedDone .. | .morHheadWrite .. | .bootMailboxGo .. => [.regs]
  | .broadcastSeqForget .. => [.stack]
  | .modTimeExpiry .. => [.irq]
  | .pwrGoodRise .. | .pwrEnNHoldEnd .. => [.snow]
  | .pcieLinkUp .. => [.rings]
  | .cqHeadDoorbell .. | .adminSqTailDoorbell .. | .adminCqHeadDoorbell .. | .msixVectorUnblock .. => [.regs, .rings]
  | .objectWord0Read .. => [.free, .objs]
  | .objectWrite .. => [.regs, .objs]
  | .lctlSettleExpiry .. | .boCountAge .. | .seekDwellExpiry .. | .guardWindowEnd .. | .dupEntryExpiry .. =>
    [.regs, .lanes]
  | .rejoinAfterIdle .. => [.lanes, .power]
  | .vlogClear .. => [.regs, .poison]
  | .cirqueDoorbell .. | .cirqueComplete .. | .cirqueSrcWrite .. | .sourceClr .. | .idleWrite .. | .slewDone .. =>
    [.regs, .irq]
  | .cirqueClaim .. => [.free, .irq]
  | .tbSlewWrite .. | .tbSet .. => [.time, .regs]
  | .tbTimeCapture .. => [.free, .time]
  | .morHeaderWrite .. => [.mem, .mor]
  | .wupDetected .. | .swFrameEnd .. | .perstWake .. | .pgTimeout .. => [.regs, .snow]
  | .thermalStepDown .. | .tjAlarmRearm .. => [.regs, .power]
  | .adminNop .. | .adminOpcodeUnknown .. => [.host, .rings, .irq]
  | .sqTailDoorbell .. => [.regs, .rings, .irq]
  | .objLockTimeout .. => [.mem, .objs, .poison]
  | .seekTimeout .. => [.regs, .lanes, .irq]
  | .quadUngateDone .. => [.regs, .filters, .irq]
  | .sweepCompare .. => [.regs, .firn, .irq]
  | .wakePin .. | .gpioWake .. | .rtcAlarm .. => [.regs, .irq, .snow]
  | .resetDelayEnd .. => [.regs, .snow, .boot]
  | .tjAlarmCross .. => [.regs, .irq, .power]
  | .thermalRelease .. => [.regs, .power, .boot]
  | .br .. | .await .. | .push .. | .pushN .. | .pull .. | .pullN .. | .setx .. | .drive .. | .crcReset ..
    | .stuffDyn .. | .stuffFixedFd .. | .stuffFixedXl .. | .stuffOff .. | .crcSend .. | .crcCheck ..
    | .phaseData .. | .phaseNominal .. | .errClear .. | .tdcStart .. | .sig .. | .copy .. | .pinNop ..
    | .pinReservedOp .. | .switchAtEnd .. | .switchNow .. | .switchWithdraw .. => [.regs, .lanes, .pins]
  | .funcEnable .. | .ringCreateCq .. | .blockStartSnowline .. | .blockStopSnowline .. | .arm ..
    | .recStatus .. | .stackStatus .. | .rxbuf .. | .ioNop .. => [.regs, .host, .rings, .irq]
  | .fltLoad .. => [.host, .filters, .rings, .irq]
  | .dumpDone .. | .clear .. => [.host, .rings, .irq, .mor]
  | .epochCommitDone .. => [.host, .rings, .irq, .stack]
  | .imageLoad .. => [.host, .rings, .irq, .boot]
  | .trailMsExpiry .. => [.regs, .tx, .firn, .irq]
  | .ctKillWindowEnd .. => [.mem, .routes, .irq, .poison]
  | .seekFrameEnd .. => [.regs, .lanes, .pins, .irq]
  | .mainResetRelease .. => [.regs, .rings, .power, .boot]
  | .shin .. | .shout .. => [.free, .regs, .lanes, .pins]
  | .peprogWrite .. => [.regs, .lanes, .pins, .poison]
  | .ringDeleteCq .. | .adoptRings .. | .rxCompletionWrite .. => [.regs, .host, .firn, .rings, .irq]
  | .rtLoad .. | .polLoad .. => [.regs, .host, .routes, .rings, .irq]
  | .powerMode .. | .powerModeSettleEnd .. | .pmbusWriteNack .. => [.regs, .host, .rings, .irq, .power]
  | .tbStep .. | .blockStartTimeBases .. | .blockStopTimeBases .. => [.time, .regs, .host, .rings, .irq]
  | .blockStartMoraine .. | .trigger .. | .dump .. | .hringRestart .. => [.regs, .host, .rings, .irq, .mor]
  | .blockStartStack .. => [.regs, .host, .rings, .irq, .stack]
  | .quadModeWrite .. => [.regs, .mem, .objs, .filters, .poison]
  | .ethLinkDown .. => [.regs, .col, .firn, .irq, .eths]
  | .imageReadDone .. | .tickHookCall .. => [.regs, .mem, .boot, .poison, .engs]
  | .fltLoadCommit .. => [.regs, .host, .lanes, .filters, .rings, .irq]
  | .polLoadCommit .. => [.regs, .host, .routes, .firn, .rings, .irq]
  | .pwrGoodFallDuringMove .. => [.regs, .host, .rings, .irq, .snow, .power]
  | .blockStopMoraine .. => [.regs, .mem, .host, .rings, .irq, .mor]
  | .ethTxStart .. | .ethLinkUp .. | .portHoldExpiry .. => [.regs, .host, .firn, .rings, .irq, .eths]
  | .fltLoadTransferDone .. => [.free, .mem, .host, .filters, .rings, .irq, .poison]
  | .rtLoadCommit .. => [.regs, .mem, .host, .routes, .rings, .irq, .poison]
  | .portEnable .. | .portDisable .. => [.regs, .host, .col, .firn, .rings, .irq, .eths]
  | .rcFieldRead .. => [.free, .time, .regs, .lanes, .pins, .irq, .snow]
  | .blockStopStack .. => [.regs, .host, .tx, .firn, .rings, .irq, .stack, .eths]
  | .txPayloadReadDone .. => [.free, .regs, .mem, .tx, .col, .firn, .irq, .poison]
  | .bootDone .. => [.free, .regs, .mem, .routes, .irq, .boot, .poison, .engs]
  | .waitingAdmissionGrant .. | .heartbeatTimer .. | .masterListenEnd .. | .masterLost .. | .syncTxTimer .. =>
    [.free, .regs, .mem, .tx, .col, .firn, .irq, .stack, .poison]
  | .periodicRelease .. => [.regs, .mem, .host, .tx, .objs, .firn, .rings, .irq, .poison]
  | .deadlineExpiry .. => [.regs, .mem, .host, .tx, .firn, .rings, .irq, .eths, .poison]
  | .holdExpiry .. | .txSof .. | .overloadFrame .. => [.regs, .mem, .host, .lanes, .tx, .firn, .rings, .irq, .poison]
  | .protocolException .. => [.regs, .mem, .lanes, .pins, .tx, .routes, .col, .irq, .poison]
  | .ethFrameRx .. => [.free, .regs, .mem, .col, .firn, .rings, .irq, .mor, .poison]
  | .morRecordWrite .. | .postWindowEnd .. => [.free, .regs, .mem, .host, .lanes, .col, .firn, .irq, .mor]
  | .ringCreateSq .. | .ringDeleteSq .. | .ringDeleteSqCommit .. | .txCancel .. | .txAbort .. =>
    [.regs, .mem, .host, .tx, .col, .firn, .rings, .irq, .eths, .poison]
  | .freeze .. => [.free, .regs, .mem, .host, .lanes, .col, .firn, .rings, .irq, .mor]
  | .tx .. | .ethTx .. => [.free, .regs, .mem, .host, .tx, .col, .firn, .rings, .irq, .poison]
  | .objectRelease .. => [.free, .regs, .mem, .host, .tx, .objs, .firn, .rings, .irq, .poison]
  | .selfTestFaultFound .. => [.regs, .mem, .host, .lanes, .tx, .firn, .rings, .irq, .power, .poison]
  | .declaredTimingApply .. => [.free, .regs, .mem, .host, .lanes, .tx, .firn, .rings, .irq, .poison]
  | .epochActivation .. => [.free, .regs, .mem, .tx, .routes, .col, .firn, .irq, .stack, .poison]
  | .delayRespRx .. => [.free, .regs, .mem, .col, .firn, .rings, .irq, .mor, .stack, .poison]
  | .syncRelease .. => [.free, .time, .regs, .mem, .host, .tx, .firn, .rings, .irq, .poison]
  | .routePush .. | .epochCommit .. | .handover .. =>
    [.free, .regs, .mem, .host, .tx, .col, .firn, .rings, .irq, .stack, .poison]
  | .stuckFaultEnd .. | .integrationComplete .. | .recoveryComplete .. =>
    [.regs, .mem, .host, .lanes, .pins, .tx, .firn, .rings, .irq, .power, .poison]
  | .stackDataRx .. | .heartbeatRx .. | .routePushRx .. | .epochCommitRx .. | .epochAckRx .. | .nakRx ..
    | .handoverRx .. | .syncRx .. | .delayReqRx .. =>
    [.free, .regs, .mem, .tx, .col, .firn, .rings, .irq, .mor, .stack, .poison]
  | .followUpRx .. => [.free, .time, .regs, .mem, .col, .firn, .rings, .irq, .mor, .stack, .poison]
  | .cutThroughLookup .. => [.free, .regs, .mem, .host, .lanes, .tx, .col, .firn, .rings, .irq, .mor, .poison]
  | .colSlot .. => [.free, .regs, .mem, .host, .tx, .col, .firn, .rings, .irq, .mor, .eths, .poison]
  | .scrubRead .. => [.free, .regs, .mem, .host, .tx, .col, .firn, .rings, .irq, .mor, .boot, .poison]
  | .ethFrameTxEnd .. => [.free, .regs, .mem, .host, .tx, .col, .firn, .rings, .irq, .mor, .stack, .eths, .poison]
  | .laneStart .. | .laneStop .. | .laneSuspend .. | .laneResume .. | .busoffRecover .. | .busBind ..
    | .arbLost .. =>
    [.free, .regs, .mem, .host, .lanes, .pins, .tx, .objs, .routes, .col, .firn, .rings, .irq, .poison]
  | .imageLoadCommit .. =>
    [.free, .regs, .mem, .host, .objs, .col, .firn, .rings, .irq, .mor, .stack, .boot, .poison, .engs]
  | .rxError .. => [.free, .regs, .mem, .host, .lanes, .pins, .tx, .routes, .col, .firn, .rings, .irq, .mor, .poison]
  | .filterDecision .. =>
    [.free, .regs, .mem, .lanes, .objs, .col, .firn, .rings, .irq, .mor, .stack, .boot, .poison, .engs]
  | .txSuccess .. | .txError .. | .ctKillArrival .. =>
    [.free, .regs, .mem, .host, .lanes, .pins, .tx, .objs, .routes, .col, .firn, .rings, .irq, .mor, .poison]
  | .stuckDominant .. =>
    [.free, .regs, .mem, .host, .lanes, .pins, .tx, .objs, .routes, .col, .firn, .rings, .irq, .power, .poison]
  | .standbyKey .. =>
    [.free, .regs, .mem, .host, .lanes, .pins, .tx, .routes, .col, .firn, .rings, .irq, .eths, .snow, .poison]
  | .frameValid .. | .cirqueCommit .. | .interruptEntry .. =>
    [.free, .regs, .mem, .host, .lanes, .pins, .tx, .objs, .routes, .col, .firn, .rings, .irq, .mor, .stack,
     .poison, .engs]
  | .lnop .. | .lit .. | .litu .. | .sethi .. | .addi .. | .cmpi .. | .jz .. | .jnz .. | .call .. | .repLong ..
    | .jcc .. | .nop .. | .dup .. | .drop .. | .swap .. | .over .. | .rot .. | .pick .. | .slit .. | .add ..
    | .sub .. | .adc .. | .sbc .. | .adds .. | .subs .. | .mul .. | .mulh .. | .div .. | .divu .. | .neg ..
    | .abs .. | .and .. | .or .. | .xor .. | .not .. | .shl .. | .shr .. | .sar .. | .rol .. | .ror ..
    | .shi .. | .cmp .. | .tst .. | .popx .. | .pushx .. | .rep .. | .clz .. | .bswap .. | .ext .. | .calls ..
    | .jmps .. | .bz .. | .bnz .. | .addp .. | .setrc .. | .flag .. | .ien .. | .setil .. | .bcc .. | .ret ..
    | .reti .. | .wait .. | .fence .. | .swi .. | .illegalOpcode .. =>
    [.free, .regs, .mem, .host, .lanes, .pins, .tx, .objs, .routes, .col, .firn, .rings, .irq, .mor, .stack, .boot,
     .poison, .engs]
  | .flr .. | .funcLinkLoss .. =>
    [.free, .regs, .mem, .host, .lanes, .pins, .tx, .objs, .filters, .routes, .col, .firn, .rings, .irq, .mor,
     .stack, .eths, .power, .boot, .poison]
  | .lda .. | .ld .. | .ldp .. =>
    [.free, .time, .regs, .mem, .host, .lanes, .pins, .tx, .objs, .routes, .col, .firn, .rings, .irq, .mor, .stack,
     .snow, .boot, .poison, .engs]
  | .vaonPowerUp .. | .sysReset .. | .deviceResetKey .. | .thermalShutdown .. =>
    [.time, .regs, .mem, .lanes, .pins, .tx, .objs, .filters, .routes, .col, .firn, .rings, .irq, .mor, .stack,
     .eths, .snow, .power, .boot, .poison, .engs]
  | .standbyRailsOff .. | .sta .. | .st .. | .stp .. | .amo .. | .registerWrite .. =>
    [.free, .time, .regs, .mem, .host, .lanes, .pins, .tx, .objs, .filters, .routes, .col, .firn, .rings, .irq,
     .mor, .stack, .eths, .snow, .power, .boot, .poison, .engs]

/-! Engines -/

/-- Engine `e` executes `i` next: it runs and waits for nothing, its fetch lands in program memory on a word that is not
poisoned, the slot at PC holds `i` (R586, R593, R606), and no DIVIDE trap waits for the end of its iteration (R603). -/
abbrev Executes (s : State) (e : Nat) (i : EngOp) : Prop :=
  s.engReady e = true ∧ (s.eng e).pc / 4 < progWords ∧ s.poisoned 0 e ((s.eng e).pc / 4) = false ∧
    wordOp (s.progWord e ((s.eng e).pc / 4)) (decide ((s.eng e).pc % 2 = 1)) = i ∧ (s.eng e).divPend = false

/-- The engine as an instruction finds it: a wait has ended. -/
def State.awake (s : State) (e : Nat) : Eng := { s.eng e with waiting := false }

/-- The state as an instruction of engine `e` finds it. -/
def State.roused (s : State) (e : Nat) : State := s.modEng e fun g => { g with waiting := false }

/-- The slot or word after the instruction at PC of engine `e`. -/
def State.next_ (s : State) (e : Nat) : Nat := pcAfter (s.progWord e ((s.eng e).pc / 4)) (s.eng e).pc

/-- Between two states nothing changes outside engine `e` and its two counters of steps. -/
def OnlyEngine (s t : State) (e : Nat) : Prop :=
  (∀ k, k ≠ e → t.eng k = s.eng k) ∧
  (∀ a, a ≠ (F.ENG_PERF.STEPS e).off → a ≠ (F.ENG_PERF.SERIAL e).off → t.reg a = s.reg a) ∧
  ∀ p : Piece, p ≠ .engs → p ≠ .regs → p.Same s t

/-- ST[6:0]: DZT, SV, DZ, N, Z, C, V (R594). -/
def Eng.flags (g : Eng) : List Bool := [g.dzt, g.sv, g.dz, g.n, g.z, g.c, g.v]

/-- Engine `e` goes on in sequence as `g`: outside a repeat all of it is `g` at the next slot or word, and in a repeat its
operand stack, ST[6:0], PA, PB and return stack are those of `g`. -/
def InSequence (s t : State) (e : Nat) (g : Eng) : Prop :=
  (t.eng e).os = g.os ∧ (t.eng e).flags = g.flags ∧ (t.eng e).pa = g.pa ∧ (t.eng e).pb = g.pb ∧
    (t.eng e).rsSlots = g.rsSlots ∧ ((s.eng e).rpt = false → ∃ a, t.eng e = { g with pc := s.next_ e, slotA := a })

/-- The command completes, engine `e` goes on in sequence as `g`, and nothing else changes. -/
def RunsTo (c : Instr) (s : State) (e : Nat) (g : Eng) : Prop :=
  ∃ t, exec c s = .next t ∧ InSequence s t e g ∧ OnlyEngine s t e

/-- The command completes, engine `e` goes on at `pc` as `g`, and nothing else changes. -/
def JumpsTo (c : Instr) (s : State) (e : Nat) (g : Eng) (pc : Nat) : Prop :=
  ∃ t, exec c s = .next t ∧ t.eng e = { g with pc := pc, slotA := none } ∧ OnlyEngine s t e

/-- The engine with an operand stack and with N and Z of `r`, C and V where they are given; V set to 1 sets SV (R594). -/
def Eng.leave (g : Eng) (os : List Word) (r : Word) (c v : Option Bool) : Eng :=
  { g with os := os, n := decide (r.toInt < 0), z := decide (r = 0), c := c.getD g.c, v := v.getD g.v,
           sv := g.sv || v.getD false }

/-- The command replaces what `os` stands for by `out` and leaves N and Z of `r`, and C and V where they are given. -/
def Leaves (c : Instr) (s : State) (e : Nat) (out : List Word) (r : Word) (cf vf : Option Bool) : Prop :=
  RunsTo c s e ((s.awake e).leave out r cf vf)

/-- The offer that RETI from frame `x` finds once X1 has completed the frame's source (R614): above the level of the saved ST
`st`, with interrupts enabled there, and ready. -/
def State.chainOffer (s : State) (e : Nat) (x : EFrame) (st : Word) : Option (Nat × Nat) :=
  ((s.roused e).engX1 e x).chainOf e st

/-- Steps that an instruction of `cost` steps at the PC of engine `e` adds: in slot B of a pair whose slots issue together, what
slot A has not cost (R588). -/
def State.stepsNow (s : State) (e cost : Nat) : Nat :=
  let w := s.progWord e ((s.eng e).pc / 4)
  if isPairWord w && decide ((s.eng e).pc % 2 = 1) && jointPair w then cost - (s.eng e).slotA.getD 0 else cost

/-- The engine back from a hook call that left `b` behind: in Berzu's WAIT with IE 1 and IL 0, its PC and stacks as the call found
them, and no call to make (R620, R738). -/
def Eng.inWait (g : Eng) (b : Nat × EngStacks) : Eng :=
  { g with os := b.2.os, rsSlots := b.2.rsSlots, rsPtr := b.2.rsPtr, rsd := b.2.rsd, rss := b.2.rss, pc := b.1, calls := [],
           back := none, home := true, waiting := true, ie := true, il := 0, trp := false, rpt := false, frames := [],
           slotA := none, rcWritten := false, first := false, divPend := false }

/-- Trap entry (R607) of `n` steps: ST of `g` and `pc` are on the memory stack, the frame is recorded, TRAPINFO has the cause and the
PC, and the engine goes on as `g` at the vector; no other byte of memory, no hook counter and no other engine changes. -/
def TrapEntered (s t : State) (e : Nat) (g : Eng) (cause pc n : Nat) : Prop :=
  t.eng e = { g with frames := { trap := true, rss := g.rss, home := g.home } :: g.frames, trp := true, ie := false, rpt := false,
                     pc := 4 * cause, slotA := none, waiting := false, home := false, rcWritten := false, first := false } ∧
  t.f (F.ENG_TRAPINFO.CAUSE e) = cause ∧ t.f (F.ENG_TRAPINFO.PC e) = pc % 4294967296 ∧
  t.f (F.ENG_TRAPINFO.TRAPS e) = min (s.f (F.ENG_TRAPINFO.TRAPS e) + 1) 65535 ∧
  t.f (F.ENG_HOOKCNT.FAULT e) = s.f (F.ENG_HOOKCNT.FAULT e) ∧
  t.f (F.ENG_PERF.STEPS e) = min (s.f (F.ENG_PERF.STEPS e) + n) 4294967295 ∧
  t.msp e = s.msp e - 8 ∧ t.rd32 (dataAt e (s.msp e - 4)) = g.st ∧
  t.rd32 (dataAt e (s.msp e - 8)) = BitVec.ofNat 32 pc ∧
  (∀ a, (a < dataAt e (s.msp e - 8) ∨ dataAt e (s.msp e) ≤ a) → t.rd8 a = s.rd8 a) ∧
  (∀ k, k ≠ e → t.eng k = s.eng k) ∧
  ∀ p : Piece, p ≠ .engs → p ≠ .regs → p ≠ .mem → p ≠ .poison → p.Same s t

/-! Hosts -/

/-- The pieces of a list, and no others, may differ. -/
def OnlyPieces (l : List Piece) (s t : State) : Prop := ∀ p : Piece, p ∉ l → p.Same s t

/-- CLAMP_COUNT of a function. -/
def State.clampCount (s : State) (f : Nat) : Nat := s.f (F.HOST_CLAMP.CLAMP_COUNT f)

/-- CLAMP_COUNT of function `f` after `n` more clamps or ignored writes (R403, R410). -/
def State.clampCount' (s : State) (f n : Nat) : Nat := min (s.clampCount f + n) 4294967295

/-- A byte of the memory of a function's host. -/
def State.hostByte (s : State) (f a : Nat) : Byte := Tab.get (fun _ => 0) (if f = 0 then s.hostMem0 else s.hostMem1) a

/-- A word of it. -/
def State.hostWord (s : State) (f a : Nat) : Word :=
  wordOfBytes (s.hostByte f a) (s.hostByte f (a + 1)) (s.hostByte f (a + 2)) (s.hostByte f (a + 3))

/-- SE3 takes the admin command: it can take the next command of `f`, and its opcode is `op` (R398). -/
abbrev Taken (s : State) (f : Fn) (d : Words8) (op : Nat) : Prop := s.adminReady f.val = true ∧ d.op = op

/-- The same of a command with an operation code in word 1 [3:0]. -/
abbrev TakenSub (s : State) (f : Fn) (d : Words8) (op sub : Nat) : Prop := Taken s f d op ∧ fieldOf d.w1 0 4 = sub

/-- The command that an admin descriptor carries. -/
def refOf (f : Fn) (d : Words8) : AdminRef := ⟨f.val, d.w7⟩

/-- The command is taken and its completion, of status `st`, is written in a state `u` of which `P` holds. -/
def EndsWith (c : Instr) (s : State) (f : Fn) (d : Words8) (st : Status) (cause : Nat) (w2 : Word) (P : State → Prop) : Prop :=
  ∃ u, exec c s = .next (u.adminCpl (refOf f d) st cause w2 0 0 0 0) ∧ P u

/-- It completes DONE. -/
def Done (c : Instr) (s : State) (f : Fn) (d : Words8) (P : State → Prop) : Prop := EndsWith c s f d .done 0 0 P

/-- It completes REFUSED with a cause, and has no effect (R8). -/
def Refuses (c : Instr) (s : State) (f : Fn) (d : Words8) (cause : Cause) : Prop :=
  EndsWith c s f d .refused cause.code 0 fun u => u = s.adminTake f.val

/-- It is taken and completes later: the state is `P`. -/
def Holds (c : Instr) (s : State) (P : State → Prop) : Prop := ∃ t, exec c s = .next t ∧ P t

/-- A source after one more event (R418). -/
def Src.event (x : Src) : Src := if x.count < 255 then { x with count := x.count + 1 } else { x with sat := true }

/-! Descriptors -/

/-- `n` words of the memory of a function's host. -/
def State.hostWords (s : State) (f a n : Nat) : List Word := (List.range n).map fun i => s.hostWord f (a + 4 * i)

/-- A descriptor of SQ `n` of function `f` is fetched, and its completion stands in the CQ named (R380, R391): the SQ's head
has moved by one, eight words are in the slot at the old tail with PHASE of the ring, the tail has moved, and the CQ's source
has one event more; `w0` is word 0 without PHASE. -/
def Retires (s t : State) (n f : Nat) (w0 : Nat) (w2 tag : Word) : Prop :=
  let q := s.sq n
  let c := s.cq q.cq
  let at_ := c.base + c.tail * 32
  t.sq n = { q with head := (q.head + 1) % 2 ^ q.size } ∧
  (t.cq q.cq).tail = (c.tail + 1) % 2 ^ c.size ∧ (t.cq q.cq).head = c.head ∧ (t.cq q.cq).reserved = c.reserved ∧
  (t.cq q.cq).phase = (if (c.tail + 1) % 2 ^ c.size = 0 then !c.phase else c.phase) ∧
  t.hostWords f at_ 8 = [BitVec.ofNat 32 (w0 + c.phase.toNat * 2048),
    BitVec.ofNat 32 ((q.head + 1) % 2 ^ q.size % 65536 + n * 65536), w2, 0, 0, 0, 0, tag] ∧
  (∀ a, (a < at_ ∨ at_ + 32 ≤ a) → t.hostByte f a = s.hostByte f a) ∧
  t.src q.cq = (s.src q.cq).event

/-- A descriptor of SQ `n` of function `f` can be fetched and its CQ is the function's (R380). -/
abbrev Fetchable (s : State) (n f : Nat) : Prop :=
  s.sqReady n = true ∧ (s.sq n).owner = some f ∧ (s.cq (s.sq n).cq).owner = some f ∧ (s.sq n).cq < 128

/-- The payload `data` of descriptor `x` is admitted (R331), held at its port by a Firn frame, and crosses Col from the port of its
function, behind the frames that cross there already (R281, R282). -/
def Crosses (s t : State) (x : Fetched) (data : List Byte) : Prop :=
  let k := ((36 + x.f) * 40 + x.port) * 4 + 2
  let n := cellsFor data.length
  t.voq k = s.voq k ++ [{ fid := s.nextFid, left := n, tc := 2, what := .desc }] ∧ (t.frame s.nextFid).holds = [(x.port, 2)] ∧
  (t.frame s.nextFid).cells.length = n ∧ t.chg (4 * x.port + 2) = s.chg (4 * x.port + 2) + n ∧
  t.buses = s.buses ∧ t.eths = s.eths

/-- It has crossed Col, and has entered the order of its bus with Firn frame `fid`, after every entry of an earlier lt (R191). -/
def Entered (s t : State) (x : Fetched) (data : List Byte) (fid : Nat) : Prop :=
  (∃ e : Entry, t.bus x.bus = e.placeIn (s.bus x.bus) ∧ e.enteredLt = s.now ∧ e.src = .desc x.sq x.f x.tag x.tsReq ∧
    e.fr = { x.fr with data := bytesFrom data 0 x.fr.bytes } ∧ e.oneShot = x.oneShot ∧ e.sel = x.lanes ∧
    e.deadline.isSome = x.dl.isSome ∧ e.done = false ∧ e.fid = some fid ∧
    e.copies.map Copy.lane = x.lanes.filter fun l => !(decide (s.cond l = .down))) ∧
  ∀ b, b ≠ x.bus → t.bus b = s.bus b

/-- The payload of the descriptor `x` finds room at its port at once. -/
def RoomFor (s : State) (x : Fetched) (data : List Byte) : Prop := s.fitsWaiting x.port 2 (cellsFor data.length) = true

/-- The descriptor entry `e` of bus `b` has completed with status `st`, on a B lane or not, with a stamp or none (R391): where
the SQ's CQ is function `f`'s, eight words are in its slot at the old tail, the slot is no longer reserved and the CQ's source has
one event more. The stamp is there where the descriptor asked for one. -/
def TxEnds (s t : State) (b : Nat) (e : Entry) (st : Status) (laneB : Bool) (stamp : Option Stamp) : Prop :=
  ∀ n g tag ts, e.src = .desc n g tag ts → ∀ f : Fn, (s.cq (s.sq n).cq).owner = some f.val → (s.sq n).cq < 128 →
    let q := s.sq n
    let c := s.cq q.cq
    let x := if ts then stamp else none
    t.hostWords f.val (c.base + c.tail * 32) 8 =
      [BitVec.ofNat 32 (st.code + c.phase.toNat * 2048 + laneB.toNat * 8192 + x.isSome.toNat * 16384 + b % 128 * 65536),
        BitVec.ofNat 32 (q.head % 65536 + n * 65536), BitVec.ofNat 32 (min e.attempts 65535), 0,
        BitVec.ofNat 32 (x.elim 0 Stamp.ns), BitVec.ofNat 32 (x.elim 0 Stamp.sec), 0, tag] ∧
    (t.cq q.cq).tail = (c.tail + 1) % 2 ^ c.size ∧ (t.cq q.cq).reserved = c.reserved - 1 ∧
    (t.sq n).head = q.head ∧ (t.sq n).tail = q.tail ∧ t.src q.cq = (s.src q.cq).event

/-- It has completed without success. -/
def TxTold (s t : State) (b : Nat) (e : Entry) (st : Status) : Prop := TxEnds s t b e st false none

/-- Only frames in flight of entry `id` go on, with mark `m` unless it carries one already (R199, R264). -/
def Marked (s t : State) (b id : Nat) (m : Mark) : Prop :=
  t.bus b = (s.bus b).map (fun x => if x.id = id then { x with copies := x.copies.filter fun c => c.inFlight,
                                                                mark := if x.mark = .none then m else x.mark } else x) ∧
  OnlyPieces [.tx] s t

/-- Entry `id` has left the order of bus `b`. -/
def Gone (s t : State) (b id : Nat) : Prop := t.bus b = (s.bus b).filter fun x => !(decide (x.id = id))

/-! Lanes -/

/-- Lane `l` is in a state, with its hold cause, and with nothing to return to beneath it. -/
abbrev State.isIn (s : State) (l st cause : Nat) : Prop := s.laneSt l = st ∧ s.holdCause l = cause

/-- No other lane's STATE, cause or error counters change. -/
def OtherLanes (s t : State) (l : Nat) : Prop :=
  ∀ k < 128, k ≠ l → t.isIn k (s.laneSt k) (s.holdCause k) ∧ t.tec k = s.tec k ∧ t.recCnt k = s.recCnt k

/-- The lane is in HOLD with cause HOST, and `p` is the state it acts as. -/
abbrev State.heldByHost (s : State) (l p : Nat) : Prop :=
  s.isIn l St.hold Hc.host ∧ s.f (F.LANE_STATE.PREV_STATE l) = p

/-! Resets -/

/-- RAM has its reset contents, but for LOCK_EXPIRED of the objects whose lock the reset ended (R179, log 102). -/
def LocksLeft (s t : State) : Prop :=
  (∀ n, n < 32768 → (s.obj n).lock.isSome = true → t.rd8 (objAddr (n / 1024) (n % 1024) 0 + 2) = 0x10) ∧
  ∀ a, a < dramBase →
    (∀ n, n < 32768 → (s.obj n).lock.isSome = true → a ≠ objAddr (n / 1024) (n % 1024) 0 + 2) → t.rd8 a = State.reset.rd8 a

/-- A device reset from state `s` (R682): everything has its reset value but Snowline, attached memory, GLB_RSTCAUSE, which gains
bit `cause`, the lane clock, the hosts, the I/O banks without voltage and the descriptor of the resume image; `held`: the main reset
stays asserted. -/
def WasReset (s t : State) (cause : Nat) (held : Bool) : Prop :=
  t.reg 0x30 = s.reg 0x30 ||| (1#32 <<< cause) ∧
  (∀ a, a ≠ 0x30 → t.reg a = if 0xC0000 ≤ a ∧ a < 0xD0000 then s.reg a else State.reset.reg a) ∧
  (∀ a, dramBase ≤ a → t.rd8 a = s.rd8 a) ∧ LocksLeft s t ∧
  t.snow.phase = .main ∧ t.boot = { resetting := held, resume := s.boot.resume } ∧ t.power = { vioLow := s.power.vioLow } ∧ t.tbs = [] ∧ t.now = s.now ∧
  t.hostMem0 = s.hostMem0 ∧ t.hostMem1 = s.hostMem1 ∧ t.mor.started = false ∧
  OnlyPieces [.free, .time, .regs, .mem, .host, .mor, .snow, .power, .boot] State.reset t

/-! Ethernet ports -/

/-- The ETH_TX descriptor `x` has completed with status `st` after `n` attempts (R391): where its SQ's CQ is function `f`'s, eight
words are in the slot at the old tail, which is no longer reserved, and the CQ's source has one event more. -/
def EthEnds (s t : State) (x : Fetched) (st : Status) (n : Nat) (stamp : Option Stamp) : Prop :=
  ∀ f : Fn, (s.cq (s.sq x.sq).cq).owner = some f.val → (s.sq x.sq).cq < 128 →
    let q := s.sq x.sq
    let c := s.cq q.cq
    let y := if x.tsReq then stamp else none
    t.hostWords f.val (c.base + c.tail * 32) 8 =
      [BitVec.ofNat 32 (st.code + 512 + c.phase.toNat * 2048 + y.isSome.toNat * 16384 + x.eth.getD 0 % 128 * 65536),
        BitVec.ofNat 32 (q.head % 65536 + x.sq * 65536), BitVec.ofNat 32 (min n 65535), 0,
        BitVec.ofNat 32 (y.elim 0 Stamp.ns), BitVec.ofNat 32 (y.elim 0 Stamp.sec), 0, x.tag] ∧
    (t.cq q.cq).tail = (c.tail + 1) % 2 ^ c.size ∧ (t.cq q.cq).reserved = c.reserved - 1 ∧ t.src q.cq = (s.src q.cq).event

/-- The frame `g` is the next one of port `e`, between `pre` and `post` in its queue: its deadline has not passed, no earlier one
whose deadline has not passed is of its class or a higher one, and no later one of a higher (R346). -/
abbrev State.nextOnPort (s : State) (e : Nat) (pre : List Egress) (g : Egress) (post : List Egress) : Prop :=
  (s.eth e).queue = pre ++ g :: post ∧ s.ranOut? g.deadline = false ∧
  (∀ y ∈ pre, s.ranOut? y.deadline = true ∨ y.tc < g.tc) ∧ ∀ y ∈ post, s.ranOut? y.deadline = true ∨ y.tc ≤ g.tc

/-! Stack -/

/-- Port `e` takes a frame of a service engine with `n` bytes of payload at once (R331): nothing waits, its cells fit, its hold has
not expired, and the stack block runs. -/
abbrev State.portTakes (s : State) (e n : Nat) : Prop :=
  s.seWait = [] ∧ s.fitsWaiting (32 + e) 3 (cellsFor n) = true ∧ (s.eth e).holdOver = false ∧ s.stack.started = true

/-- An entry of class TC3 of kind `P` stands behind the frames that cross Col from P39 to port `e` (R281, R282). -/
def Sent (s t : State) (e : Nat) (P : EgKind → Prop) : Prop :=
  ∃ (z : VoqItem) (g : Egress), t.voq ((39 * 40 + 32 + e) * 4 + 3) = s.voq ((39 * 40 + 32 + e) * 4 + 3) ++ [z] ∧
    z.what = .eth [g] ∧ g.tc = 3 ∧ g.deadline = none ∧ P g.kind

/-- A control frame of type `ty` to device `d`, or to all, with the next SEQ of `s` and the EPOCH and role of `t` (R542). -/
def Control (s t : State) (all : Bool) (d ty : Nat) (payload : List Byte) (k : EgKind) : Prop :=
  ∃ o, k = .stack o ∧ o.ty = ty ∧ o.all = all ∧ o.dst = d * 128 ∧ o.src = s.devId * 128 ∧ o.seq = s.stack.seq ∧
    o.master = t.actingMaster ∧ o.epoch = t.f F.STACK_STATE.EPOCH ∧ o.hop = s.f F.STACK_CFG.HOP_INIT ∧ o.payload = payload

/-- The path of device `d` is its primary port `p` (R546). -/
abbrev State.pathTo (s : State) (d p : Nat) : Prop :=
  s.fb (F.STACK_PATH.VALID d) = true ∧ s.fb (F.STACK_PATH.ON_ALT d) = false ∧ s.f (F.STACK_PATH.PRIMARY d) = p

/-- A whole stack frame of type `ty` arrives at port `e` of a started stack block that records nothing. -/
abbrev State.arrives (s : State) (e : Nat) (fr : EthFrame) (ty : Nat) : Prop :=
  s.ethTakes e fr = true ∧ s.isStackFrame e fr.bytes = true ∧ fr.fcsOk = true ∧
  (stackParse fr.bytes).ty = ty ∧ s.stack.started = true ∧ s.mor.capture = false

/-- It breaks no rule of R551, meets no policer, and is for this device: by its number, or as the first broadcast of its sender
that no port relays. -/
abbrev State.reaches (s : State) (e : Nat) (fr : EthFrame) (ty : Nat) : Prop :=
  let x := stackParse fr.bytes
  s.arrives e fr ty ∧ s.stackFault fr.bytes x = none ∧ s.fb (F.FIRN_IPOL.EN (128 + e)) = false ∧
  (x.all = false ∧ devOf x.dst = s.devId ∨
    x.all = true ∧ (if devOf x.src = s.f F.STACK_ID.MASTER_ID then s.stack.keptM else s.stack.keptB) = none ∧
      ∀ i < 4, i ≠ e → s.fb (F.STACK_PORTCFG.STACK_EN i) = false ∨ s.fb (F.STACK_PORTCFG.RELAY i) = false)

/-- A green frame of `n` bytes finds room at the port of the service engines, in class TC3 (R281, R331). -/
abbrev State.roomAt39 (s : State) (n : Nat) : Prop :=
  s.chg (4 * 39 + 3) + cellsFor n ≤ s.gLimit 39 3 ∧ s.fits 39 (cellsFor n) = true

/-- And it is accepted: a control frame, green, finds room at the port of the service engines. -/
abbrev State.accepts (s : State) (e : Nat) (fr : EthFrame) (ty : Nat) : Prop :=
  s.reaches e fr ty ∧ (ty ≠ 1 → (stackParse fr.bytes).colour = 0 ∧ s.roomAt39 (stackParse fr.bytes).len)

/-- The state with the cells of a frame of `n` bytes charged at the port of the service engines, as an accepted frame leaves them
for what is sent in answer to it. -/
def State.crossed (s : State) (n : Nat) : State := s.modChg (4 * 39 + 3) (· + cellsFor n)

/-- What a frame that crosses Firn and Col to the service engines may change beside what it does there. -/
abbrev crossing : List Piece := [.free, .regs, .mem, .col, .firn, .irq, .stack, .poison]

/-- The device leads in `role` from now on (R553, R555, R561): its next heartbeat and its Sync are due, and it watches for none. -/
def Leads (s t : State) (role : Nat) : Prop :=
  t.f F.STACK_STATE.ROLE = role ∧ t.fb F.STACK_STATE.STANDBY = false ∧ t.stack.missDue = none ∧
  t.stack.syncDue = some ⟨none, s.now⟩ ∧ t.stack.hbDue = some ⟨none, s.now + s.hbInterval⟩ ∧
  (s.f F.STACK_STATE.ROLE ≠ role ∨ s.fb F.STACK_STATE.STANDBY = true → t.src 864 = (s.src 864).event)

/-- Only port `e` sends to every device. -/
abbrev State.onlyPort (s : State) (e : Nat) : Prop :=
  s.fb (F.STACK_PORTCFG.STACK_EN e) = true ∧ ∀ i < 4, i ≠ e → s.fb (F.STACK_PORTCFG.STACK_EN i) = false

/-! Pin engines -/

/-- The pin engine of lane `l` executes word `w` now: it runs, the delay before it is over, no switch is due, and the word at its pc
in the bank that runs is `w` and intact. -/
abbrev State.pinAt (s : State) (l : Nat) (w : BitVec 16) : Prop :=
  (s.pin l).running = true ∧ (s.pin l).busyUntil ≤ s.now ∧
  ((s.pin l).ended = false ∨ s.fb (F.LANE_PEBANK.SW_PEND l) = false) ∧
  s.pinBad l (s.runBank l) (s.pin l).pc = false ∧ s.pinWord l (s.runBank l) (s.pin l).pc = w

/-- Engine `p` of lane `l` once the instruction has completed with delay `dl`, and continues at `target` or after it (R637, R639):
from LOOP_END at LOOP_START. -/
def State.pinAfter (s : State) (l : Nat) (dl : BitVec 4) (p : PinEng) (target : Option Nat) : PinEng :=
  let b := s.runBank l
  let e := s.loopEnd l b
  { p with pc := target.getD (if (s.pin l).pc = e then s.loopStart l b else ((s.pin l).pc + 1) % 32),
           ended := decide ((s.pin l).pc = e), stalled := false, busyUntil := s.now + 1 + dl.toNat }

/-- The command leaves lane `l`'s engine as `p`, every other engine as it was, and changes only the pieces named of `u`, the state
after what has happened at the engine. -/
def PinIs (c : Instr) (s u : State) (l : Nat) (p : PinEng) (pieces : List Piece) : Prop :=
  Holds c s fun t => t.pin l = p ∧ (∀ k, k ≠ l → t.pin k = s.pin k) ∧ OnlyPieces pieces u t

end Sys2Proof.Machine
end

