-- ==== Sys2Proof/Certificates/Slice0/Obligations.lean ====
section
/-! DEFINITION. The statements for the provers: what reset leaves, what a step does and keeps, and for every family of
commands when a command completes, what it changes and what it leaves unchanged. -/
open Sys2Proof Sys2Proof.Machine

/-- A step with a command at the front of the queue answers what that command's effect answers on the state with the queue's
rest; so after a command is put at the front of a queue the step is its effect on the state as it was. (The queue is the
model's own.) -/
def Obligations.StepRunsTheCommand : Prop :=
  (∀ (s : State) (c : Instr) (rest : List Instr), s.pending = c :: rest → step s = exec c { s with pending := rest }) ∧
  (∀ (s : State) (c : Instr), step (s.push c) = exec c s)

/-- With an empty queue a step is one lane clock tick (the model's choice, log 2), after which the verification of an image
that has been read ends (log 110; State.verifyEnd, which the statement on boots says). While the main domain runs, each base
gains its increment, wraps at 2^48 seconds, and while a slew runs gains or loses besides what is left of the slew, but no
more than the change that RATE gives and that keeps the sum within R466's range; the count of its intervals (R465) gains the
same and keeps what it was before. The RTC runs always, one period every 9,765.625 ticks: TICKS counts and wraps at 2^48,
and with RTC_EN the alarm fires where TICKS becomes equal to ALARM. Nothing else changes: the rest of the bases, every other
register and all else of Snowline and of the state are as they were. -/
def Obligations.EmptyQueueIsOneTick : Prop :=
  ∀ s : State, s.pending = [] → Sane s →
    let p := s.snow.rtcPhase + 8
    ∃ u, step s = .next u.verifyEnd ∧ (s.boot.verifying = none → step s = .next u) ∧
      u = { s with now := s.now + 1, tbs := u.tbs, regs := u.regs, snow := u.snow } ∧
      (∀ n, 8 ≤ n → u.tb n = s.tb n) ∧
      (∀ n < 8,
        let b := s.tb n
        let incr : Int := s.f (F.TB_INCR.INCR n)
        let mag : Int := (52428800 * s.f (F.TB_SLEW.RATE n) / 1000000 : Nat)
        let slews : Prop := s.fb (F.TB_SLEW.ACTIVE n) = true ∧ b.slewRem ≠ 0
        let up : Int := max 52323943 (min 52533657 (incr + mag)) - incr
        let down : Int := max 52323943 (min 52533657 (incr - mag)) - incr
        let gain : Int := if 0 ≤ b.slewRem then min b.slewRem up else max b.slewRem down
        (s.boot.mainOn = false → u.tb n = b) ∧
        (s.boot.mainOn = true → ¬ slews → ((u.tb n).val : Int) = (b.val + incr) % tbWrap ∧
          u.tb n = { b with val := (u.tb n).val, elapsed := b.elapsed + incr.toNat, before := b.elapsed }) ∧
        (s.boot.mainOn = true → slews →
          ((u.tb n).val : Int) = (b.val + (incr + gain)) % tbWrap ∧
          u.tb n = { b with val := (u.tb n).val, elapsed := b.elapsed + (incr + gain).toNat, before := b.elapsed,
                            slewRem := b.slewRem - gain })) ∧
      (p < 78125 → u.regs = s.regs ∧ u.snow = { s.snow with rtcPhase := p }) ∧
      (78125 ≤ p → u.f F.SNOW_RTC.TICKS = (s.f F.SNOW_RTC.TICKS + 1) % 281474976710656 ∧
        (∀ a, a ≠ F.SNOW_RTC.TICKS.off → a ≠ F.SNOW_RTC.TICKS.off + 4 → u.reg a = s.reg a) ∧
        u.snow = { s.snow with
          rtcPhase := p % 78125,
          alarm := s.snow.alarm || (s.fb F.SNOW_CTRL.RTC_EN && decide (u.f F.SNOW_RTC.TICKS = s.f F.SNOW_ALARM.ALARM)) })

/-- The state after reset is sane: every table in canonical form, every time base below its wrap, every engine stack within
its depth. Its queue is empty. This statement rests on choices of the model: log 3 and 4. -/
def Obligations.ResetIsSane : Prop := Sane State.reset ∧ State.reset.pending = []

/-- From every sane state, reached by a run or not and whatever waits in the queue, a step answers a next state, never a
fault or a refusal, and that state is sane: every table of the state in its canonical form, every time base below the value
where it wraps, at most sixteen words on every operand stack and at most eight on every return stack. -/
def Obligations.EveryStepKeepsSanity : Prop := ∀ s : State, Sane s → ∃ t, step s = .next t ∧ Sane t

/-- In every sane state every command answers a next state with the same queue, and that state differs from the old one at
most in the pieces of which the list changesOf names the ones that command may change: a doorbell the rings and registers, a
load of a time base that base and the registers, a descriptor nothing of the lanes, and so on for all 282 commands. What
else an instruction of an engine, a frame or an admin command leaves unchanged, the statements about it say. This statement
rests on choices of the model: log 1 and 6. -/
def Obligations.EveryCommandHasItsFrame : Prop :=
  ∀ (c : Instr) (s : State), Sane s → Holds c s fun t => t.pending = s.pending ∧ OnlyPieces (changesOf c) s t

/-- A write of one word without all four bytes is ignored and counts. In the power, stack and port blocks, each field of the
word written follows its type: RO and RC keep their value, W1C loses the bits written 1, RW takes the value and RWC the
value held to its range where the block is in its set-up state or the field may be written at run time, and keeps it
otherwise; a read returns the word and clears its RC fields, of which TJ_MAX takes TJ, the highest temperature since. An
engine memory takes a host's word while the engine is stopped; the lists take none from a host and any from an engine. An
unoccupied word reads 0 and ignores writes. A doorbell reads what its owner last wrote to it, and BAR4 shows the words of an
object. Before it may, an agent's access does nothing. This statement rests on choices of the model: log 1, 37, 63, 64 and
65. -/
def Obligations.RegisterAccess : Prop :=
  ∀ (s : State) (w : Agent) (f : Fn) (ix : WordIx) (v : Word) (be : BitVec 4) (r : RegRow) (x : RegField)
    (d : Doorbell) (q : QuadId) (o : ObjId) (j : Fin 30), Sane s →
    let a := 4 * ix.val
    let k := r.rest a / 4
    let write := Instr.registerWrite w ix v 15
    let read := Instr.rcFieldRead w (.bar0 ix)
    let allowed : Prop := s.mayWrite w = true
    let counts (t : State) (n : Nat) : Prop := w = .host f → t.clampCount f.val = s.clampCount' f.val n
    let block : Prop := 0x10000 ≤ a ∧ a < 0x20000 ∨ 0x80000 ≤ a ∧ a < 0x88000 ∨ 0xB0000 ≤ a ∧ a < 0xC0000
    let row : Prop := block ∧ regRow a = some r ∧ x ∈ r.fields ∧ 0 < (x.part k).2
    let bits (t : State) : Nat := bitsOf (t.reg a) (x.part k).1 (x.part k).2
    let given := bitsOf v (x.part k).1 (x.part k).2
    let open_ : Prop := s.inSetup w r.blk (r.i a) = true ∨ x.rt = true
    let whole : Prop := (x.part k).2 = x.w
    let engine : Prop := 0x200000 ≤ a ∧ a < 0x440000
    let e := (a - 0x200000) / 0x10000
    let off := (a - 0x200000) % 0x10000
    let inMem : Prop := engine ∧ (off < 0x6000 ∨ 0x8000 ≤ off ∧ off < 0xC000)
    let lists : Prop := 0x800000 ≤ a ∧ a < 0xA00000 ∨ 0xC00000 ≤ a ∧ a < 0xD00000
    let stored (t : State) : Prop := t.rd32 a = v ∧ ∀ b, (b < a ∨ a + 4 ≤ b) → t.rd8 b = s.rd8 b
    let hole : Prop := engMemOf a = none ∧ listMemOf a = none ∧ regRow a = none ∧ hostBlockOf a = none
    (allowed → be ≠ 15 → Holds (.registerWrite w ix v be) s fun t => counts t 1 ∧ ((∀ g, w ≠ .host g) → t = s) ∧
      OnlyPieces [.regs] s t) ∧
    (allowed → row → Holds write s fun t =>
      (x.ty = .ro ∨ x.ty = .rc ∨ x.ty = .wo → bits t = bits s) ∧
      (x.ty = .w1c → bits t = bits s - (bits s &&& given)) ∧
      (x.ty = .rw → open_ → bits t = given) ∧
      (x.ty = .rwc → open_ → whole → bits t = if given < x.lo then x.lo else if x.hi < given then x.hi else given) ∧
      (x.ty = .rw ∨ x.ty = .rwc → ¬ open_ → bits t = bits s) ∧ OnlyPieces [.regs] s t) ∧
    (allowed → inMem → w = .host f → (s.eng e).stopped = true → Holds write s fun t =>
      stored t ∧ OnlyPieces [.mem, .poison, .engs] s t) ∧
    (allowed → inMem → w = .host f → (s.eng e).stopped = false → Holds write s fun t => counts t 1 ∧ OnlyPieces [.regs] s t) ∧
    (allowed → inMem → (∀ g, w ≠ .host g) → Holds write s fun t => stored t ∧ OnlyPieces [.mem, .poison, .engs] s t) ∧
    (allowed → lists → w = .host f → Holds write s fun t => counts t 1 ∧ OnlyPieces [.regs] s t) ∧
    (allowed → lists → (∀ g, w ≠ .host g) → Holds write s fun t => stored t ∧ OnlyPieces [.mem, .poison] s t) ∧
    (allowed → hole → exec write s = .next s) ∧
    (s.mayRead w = false → s.mayWrite w = false → exec (.registerWrite w ix v be) s = .next s) ∧
    (s.mayRead w = true → row → Holds read s fun t => t.readData = s.reg a ∧
      bits t = (if x.ty = .rc then (if a = 0x10010 then s.f F.PWR_STAT.TJ else 0) else bits s) ∧ OnlyPieces [.free, .regs] s t) ∧
    (s.mayRead w = true → inMem → s.poisoned (if off < 0x6000 then 0 else 1) e ((if off < 0x6000 then off else off - 0x8000) / 4) = false →
      Holds read s fun t => t.readData = s.rd32 a ∧ OnlyPieces [.free] s t) ∧
    (s.mayRead w = true → hole → a ≠ 0x99000 → a ≠ 0xA9000 → Holds read s fun t =>
      t.readData = 0 ∧ OnlyPieces [.free] s t) ∧
    (s.mayRead (.host f) = true → s.hostOpen f.val = true → Holds (.rcFieldRead (.host f) (.doorbell d)) s fun t =>
      t.readData = s.doorbellView f.val d ∧ OnlyPieces [.free] s t) ∧
    (s.mayRead (.host f) = true → s.hostOpen f.val = true → Holds (.rcFieldRead (.host f) (.object q o j)) s fun t =>
      t.readData = s.objView f.val q.val o.val (j.val + 1) ∧ OnlyPieces [.free] s t) ∧
    (s.mayRead w = false → exec read s = .next s)

/-- While SCRUB_EN is set, or where another access finds it first, a corrected error counts in CE, is logged, and raises 890
once in the pass where the pass has seen more than CE_LIMIT; an uncorrectable one counts in UE, is logged, raises 891 and
leaves the word poisoned, and where an access meets it in the queue and control memories a queued frame is dropped
(queueError: the model's choice which); the log's entry stands at LOG_HEAD, which moves on. The end of a pass, which comes
no sooner than SCRUB_MS after its start, counts in SCRUB_PASS, raises 893 and starts the next. A clean word, and any event
of the scrubber while SCRUB_EN is clear, changes nothing. This statement rests on choices of the model: log 14, 95, 106 and
111. -/
def Obligations.ScrubReads : Prop :=
  ∀ (s : State) (x : ScrubRead),
    let on : Prop := s.boot.mainOn = true ∧ (s.fb F.GLB_ECCCTRL.SCRUB_EN = true ∨ x.scrub = false)
    let i := s.f F.GLB_ECCSTAT.LOG_HEAD
    let n := s.boot.cePass + 1
    let elapsed : Prop := s.boot.passAt + s.f F.GLB_ECCCTRL.SCRUB_MS * ltMs ≤ s.now
    let now_ := stampOf (s.tb 0).val
    let logged (t : State) (bad : Bool) : Prop := t.f (F.GLB_ECCLOG.ADDR i) = x.addr % 2 ^ 32 ∧
      t.f (F.GLB_ECCLOG.MEM i) = x.mem.val % 256 ∧ t.fb (F.GLB_ECCLOG.UNCORR i) = bad ∧ t.fb (F.GLB_ECCLOG.BY_SCRUB i) = x.scrub ∧
      t.f (F.GLB_ECCLOG.UNIT i) = x.unit % 256 ∧ t.reg (0x108 + 16 * i) = BitVec.ofNat 32 now_.sec ∧
      t.reg (0x10C + 16 * i) = BitVec.ofNat 32 now_.ns ∧ t.f F.GLB_ECCSTAT.LOG_HEAD = (i + 1) % 16
    (on → x.kind = .corrected → Holds (.scrubRead x) s fun t => logged t false ∧
      t.f F.GLB_ECCSTAT.CE = min (s.f F.GLB_ECCSTAT.CE + 1) 65535 ∧ t.boot.cePass = n ∧
      (s.f F.GLB_ECCCTRL.CE_LIMIT < n → s.boot.ceDone = false → t.src 890 = (s.src 890).event ∧ t.boot.ceDone = true) ∧
      (n ≤ s.f F.GLB_ECCCTRL.CE_LIMIT ∨ s.boot.ceDone = true → t.srcs = s.srcs) ∧ OnlyPieces [.regs, .irq, .boot] s t) ∧
    (on → x.kind = .uncorrectable → ∃ t, logged t true ∧
      t.f F.GLB_ECCSTAT.UE = min (s.f F.GLB_ECCSTAT.UE + 1) 65535 ∧ t.src 891 = (s.src 891).event ∧
      t.poisoned x.mem.val x.unit x.addr = true ∧ OnlyPieces [.regs, .irq, .boot, .poison] s t ∧
      t.boot = { s.boot with found := if x.scrub then s.boot.found else some (256 * x.mem.val + x.unit, x.addr) } ∧
      exec (.scrubRead x) s = .next (if x.mem = 9 ∧ x.scrub = false then t.queueError else t)) ∧
    (on → x.kind = .passEnd → x.scrub = true → elapsed → Holds (.scrubRead x) s fun t =>
      t.f F.GLB_ECCSTAT.SCRUB_PASS = (s.f F.GLB_ECCSTAT.SCRUB_PASS + 1) % 65536 ∧ t.src 893 = (s.src 893).event ∧
      t.boot = { s.boot with cePass := 0, ceDone := false, passAt := s.now } ∧ OnlyPieces [.regs, .irq, .boot] s t) ∧
    (x.kind = .clean ∨ x.kind = .passEnd ∧ (x.scrub = false ∨ ¬ elapsed) ∨ ¬ on → exec (.scrubRead x) s = .next s)

/-- An engine that executes LIT, LITU, SLIT, PUSHX, DUP, OVER or PICK with at most 15 entries on its operand stack, or DROP,
SWAP or ROT with at most 16 (and in each case the entries it names) completes: the stack has the one new entry that R596 and
R597 give, or its top rearranged as R597 has it; all flags and PA, PB stay, the next slot or word follows, and nothing
changes outside the engine but its counters of steps. -/
def Obligations.EngineMovesStackEntries : Prop :=
  ∀ (s : State) (e : EngId),
    ((s.eng e).os.length ≤ 15 →
      (∀ v, Executes s e (.lit v) → RunsTo (.lit e v) s e { s.awake e with os := v.signExtend 32 :: (s.eng e).os }) ∧
      (∀ v, Executes s e (.litu v) → RunsTo (.litu e v) s e { s.awake e with os := v.setWidth 32 :: (s.eng e).os }) ∧
      (∀ v, Executes s e (.slit v) → RunsTo (.slit e v) s e { s.awake e with os := v.signExtend 32 :: (s.eng e).os }) ∧
      (Executes s e (.pushx 0) → RunsTo (.pushx e 0) s e { s.awake e with os := (s.eng e).pa :: (s.eng e).os }) ∧
      (Executes s e (.pushx 1) → RunsTo (.pushx e 1) s e { s.awake e with os := (s.eng e).pb :: (s.eng e).os }) ∧
      (Executes s e (.pushx 2) → RunsTo (.pushx e 2) s e { s.awake e with os := (s.eng e).rc.setWidth 32 :: (s.eng e).os }) ∧
      (Executes s e (.pushx 3) → RunsTo (.pushx e 3) s e { s.awake e with os := (s.eng e).st :: (s.eng e).os }) ∧
      (∀ a os, Executes s e .dup → (s.eng e).os = a :: os → RunsTo (.dup e) s e { s.awake e with os := a :: a :: os }) ∧
      (∀ b a os, Executes s e .over → (s.eng e).os = b :: a :: os →
        RunsTo (.over e) s e { s.awake e with os := a :: b :: a :: os }) ∧
      (∀ n x, Executes s e (.pick n) → (s.eng e).os[n.toNat]? = some x →
        RunsTo (.pick e n) s e { s.awake e with os := x :: (s.eng e).os })) ∧
    (∀ (a b c : Word) (os : List Word),
      (Executes s e .drop → (s.eng e).os = a :: os → os.length ≤ 15 → RunsTo (.drop e) s e { s.awake e with os := os }) ∧
      (Executes s e .swap → (s.eng e).os = b :: a :: os → os.length ≤ 14 →
        RunsTo (.swap e) s e { s.awake e with os := a :: b :: os }) ∧
      (Executes s e .rot → (s.eng e).os = c :: b :: a :: os → os.length ≤ 13 →
        RunsTo (.rot e) s e { s.awake e with os := a :: c :: b :: os }))

/-- An engine that executes an addition, a subtraction or a comparison with its operands on the stack completes. ADD, ADC,
ADDI give the sum modulo 2^32 with C the carry; SUB, SBC, CMP, CMPI, NEG the difference with C = 1 where there is no borrow;
ADDS and SUBS the exact result brought into the signed range, ABS the absolute value, all three without C; N and Z are those
of the result, V says that the signed result does not fit, V = 1 sets SV. CMP pops both operands, CMPI keeps its operand.
Nothing else changes. -/
def Obligations.EngineAddsAndSubtracts : Prop :=
  ∀ (s : State) (e : EngId) (a b : Word) (os : List Word),
    let g := s.eng e
    let fits (r : Word) (x : Int) : Option Bool := some (decide (r.toInt ≠ x))
    let sat (x : Int) : Word := BitVec.ofInt 32 (max (-2147483648) (min 2147483647 x))
    (g.os = b :: a :: os →
      (Executes s e .add → Leaves (.add e) s e ((a + b) :: os) (a + b)
        (some (decide (2 ^ 32 ≤ a.toNat + b.toNat))) (fits (a + b) (a.toInt + b.toInt))) ∧
      (Executes s e .sub → Leaves (.sub e) s e ((a - b) :: os) (a - b)
        (some (decide (b.toNat ≤ a.toNat))) (fits (a - b) (a.toInt - b.toInt))) ∧
      (∀ k : Nat, k = g.c.toNat → Executes s e .adc → Leaves (.adc e) s e ((a + b + BitVec.ofNat 32 k) :: os)
        (a + b + BitVec.ofNat 32 k) (some (decide (2 ^ 32 ≤ a.toNat + b.toNat + k)))
        (fits (a + b + BitVec.ofNat 32 k) (a.toInt + b.toInt + k))) ∧
      (∀ k : Nat, k = 1 - g.c.toNat → Executes s e .sbc → Leaves (.sbc e) s e ((a - b - BitVec.ofNat 32 k) :: os)
        (a - b - BitVec.ofNat 32 k) (some (decide (b.toNat + k ≤ a.toNat)))
        (fits (a - b - BitVec.ofNat 32 k) (a.toInt - b.toInt - k))) ∧
      (Executes s e .adds → Leaves (.adds e) s e (sat (a.toInt + b.toInt) :: os) (sat (a.toInt + b.toInt)) none
        (fits (sat (a.toInt + b.toInt)) (a.toInt + b.toInt))) ∧
      (Executes s e .subs → Leaves (.subs e) s e (sat (a.toInt - b.toInt) :: os) (sat (a.toInt - b.toInt)) none
        (fits (sat (a.toInt - b.toInt)) (a.toInt - b.toInt))) ∧
      (Executes s e .cmp → Leaves (.cmp e) s e os (a - b)
        (some (decide (b.toNat ≤ a.toNat))) (fits (a - b) (a.toInt - b.toInt)))) ∧
    (g.os = a :: os →
      (Executes s e .neg → Leaves (.neg e) s e ((-a) :: os) (-a) (some (decide (a = 0))) (fits (-a) (-a.toInt))) ∧
      (∀ r : Word, r = (if a.toInt < 0 then -a else a) → Executes s e .abs →
        Leaves (.abs e) s e (r :: os) r none (fits r a.toInt.natAbs)) ∧
      (∀ v : BitVec 24, v.signExtend 32 = b → Executes s e (.addi v) → Leaves (.addi e v) s e ((a + b) :: os) (a + b)
        (some (decide (2 ^ 32 ≤ a.toNat + b.toNat))) (fits (a + b) (a.toInt + b.toInt))) ∧
      (∀ v : BitVec 24, v.signExtend 32 = b → Executes s e (.cmpi v) → Leaves (.cmpi e v) s e (a :: os) (a - b)
        (some (decide (b.toNat ≤ a.toNat))) (fits (a - b) (a.toInt - b.toInt))))

/-- An engine that executes one of these with its operands on the stack completes with the result of R596 and R597: MUL the
low and MULH the high 32 bits of the product, CLZ the number of zeros above the highest one, BSWAP the bytes reversed, EXT
the field named. N and Z are those of the result (none for SETHI); MUL sets V where the signed product does not fit, the
others before DIV leave V; C stays. TST keeps its operand. DIV and DIVU leave the quotient (signed, truncated toward 0)
under the remainder, N and Z from the quotient, V = 0 and DZ as it was; -2^31 by -1 gives -2^31, 0 and V = 1; by 0 with DZT
0 they leave 0 and the dividend, N 0, Z 1, V 0, DZ 1 and no trap. Nothing else changes. -/
def Obligations.EngineLogicMultiplyDivide : Prop :=
  (∀ (s : State) (e : EngId) (a b r : Word) (os : List Word),
      ((s.eng e).os = b :: a :: os →
        (Executes s e .and → Leaves (.and e) s e ((a &&& b) :: os) (a &&& b) none none) ∧
        (Executes s e .or → Leaves (.or e) s e ((a ||| b) :: os) (a ||| b) none none) ∧
        (Executes s e .xor → Leaves (.xor e) s e ((a ^^^ b) :: os) (a ^^^ b) none none) ∧
        (r.toNat = a.toNat * b.toNat % 2 ^ 32 → Executes s e .mul → Leaves (.mul e) s e (r :: os) r none
          (some (decide (a.toInt * b.toInt < -2147483648 ∨ 2147483647 < a.toInt * b.toInt)))) ∧
        (r.toNat = a.toNat * b.toNat / 2 ^ 32 → Executes s e (.mulh true) → Leaves (.mulh e true) s e (r :: os) r none none) ∧
        (r.toInt = a.toInt * b.toInt / 2 ^ 32 → Executes s e (.mulh false) →
          Leaves (.mulh e false) s e (r :: os) r none none)) ∧
      ((s.eng e).os = a :: os →
        (Executes s e .not → Leaves (.not e) s e ((~~~a) :: os) (~~~a) none none) ∧
        (Executes s e .tst → Leaves (.tst e) s e (a :: os) a none none) ∧
        (r.toNat = (if a = 0 then 32 else 31 - Nat.log2 a.toNat) → Executes s e .clz →
          Leaves (.clz e) s e (r :: os) r none none) ∧
        ((∀ k < 4, byteOfWord r k = byteOfWord a (3 - k)) → Executes s e .bswap →
          Leaves (.bswap e) s e (r :: os) r none none) ∧
        (∀ lsb w, r.toNat = a.toNat / 2 ^ lsb.toNat % 2 ^ (w.toNat + 1) → Executes s e (.ext lsb w) →
          Leaves (.ext e lsb w) s e (r :: os) r none none) ∧
        (∀ v : BitVec 8, r.toNat = v.toNat * 2 ^ 24 + a.toNat % 2 ^ 24 → Executes s e (.sethi v) →
          RunsTo (.sethi e v) s e { s.awake e with os := r :: os }))) ∧
  (∀ (s : State) (e : EngId) (a b q r : Word) (os : List Word), (s.eng e).os = b :: a :: os →
      (Executes s e .div → b ≠ 0 → ¬(a = 0x80000000#32 ∧ b = 0xFFFFFFFF#32) →
        q.toInt = a.toInt.tdiv b.toInt → r.toInt = a.toInt.tmod b.toInt → Leaves (.div e) s e (r :: q :: os) q none (some false)) ∧
      (Executes s e .div → a = 0x80000000#32 → b = 0xFFFFFFFF#32 →
        Leaves (.div e) s e (0 :: 0x80000000#32 :: os) 0x80000000#32 none (some true)) ∧
      (Executes s e .divu → b ≠ 0 → q.toNat = a.toNat / b.toNat → r.toNat = a.toNat % b.toNat →
        Leaves (.divu e) s e (r :: q :: os) q none (some false)) ∧
      (b = 0 → (s.eng e).dzt = false →
        (Executes s e .div → RunsTo (.div e) s e { (s.awake e).leave (a :: 0 :: os) 0 none (some false) with dz := true }) ∧
        (Executes s e .divu → RunsTo (.divu e) s e { (s.awake e).leave (a :: 0 :: os) 0 none (some false) with dz := true })))

/-- An engine that executes SHL, SHR, SAR, ROL, ROR or SHI of `a` by the count `n` (the popped word, or SHI's field) completes
with the result and the C that the table of R605 gives for a count of 0, of 1 to 31, of 32 and above 32; N and Z are those of
the result; nothing else changes. -/
def Obligations.EngineShiftsAndRotates : Prop :=
  ∀ (s : State) (e : EngId) (a : Word) (os : List Word),
    let table (k : Shift) (n : Nat) (r : Word) (c : Option Bool) : Prop :=
      match k with
      | .shl => (n = 0 ∧ r = a ∧ c = none) ∨ (1 ≤ n ∧ n ≤ 31 ∧ r = a <<< n ∧ c = some (a.getLsbD (32 - n))) ∨
          (n = 32 ∧ r = 0 ∧ c = some (a.getLsbD 0)) ∨ (32 < n ∧ r = 0 ∧ c = some false)
      | .shr => (n = 0 ∧ r = a ∧ c = none) ∨ (1 ≤ n ∧ n ≤ 31 ∧ r = a >>> n ∧ c = some (a.getLsbD (n - 1))) ∨
          (n = 32 ∧ r = 0 ∧ c = some (a.getLsbD 31)) ∨ (32 < n ∧ r = 0 ∧ c = some false)
      | .sar => (n = 0 ∧ r = a ∧ c = none) ∨ (1 ≤ n ∧ n ≤ 31 ∧ r.toInt = a.toInt / 2 ^ n ∧ c = some (a.getLsbD (n - 1))) ∨
          (32 ≤ n ∧ r = (if a.getLsbD 31 then 0xFFFFFFFF#32 else 0) ∧ c = some (a.getLsbD 31))
      | .rol => (n % 32 = 0 ∧ r = a ∧ c = none) ∨ (n % 32 ≠ 0 ∧ r = a.rotateLeft (n % 32) ∧ c = some (r.getLsbD 0))
      | .ror => (n % 32 = 0 ∧ r = a ∧ c = none) ∨ (n % 32 ≠ 0 ∧ r = a.rotateRight (n % 32) ∧ c = some (r.getLsbD 31))
    (∀ (n r : Word) (c : Option Bool), (s.eng e).os = n :: a :: os →
      (Executes s e .shl → table .shl n.toNat r c → Leaves (.shl e) s e (r :: os) r c none) ∧
      (Executes s e .shr → table .shr n.toNat r c → Leaves (.shr e) s e (r :: os) r c none) ∧
      (Executes s e .sar → table .sar n.toNat r c → Leaves (.sar e) s e (r :: os) r c none) ∧
      (Executes s e .rol → table .rol n.toNat r c → Leaves (.rol e) s e (r :: os) r c none) ∧
      (Executes s e .ror → table .ror n.toNat r c → Leaves (.ror e) s e (r :: os) r c none)) ∧
    (∀ (n : BitVec 6) (r : Word) (c : Option Bool), (s.eng e).os = a :: os →
      (Executes s e (.shi 0 n) → table .shl n.toNat r c → Leaves (.shi e 0 n) s e (r :: os) r c none) ∧
      (Executes s e (.shi 1 n) → table .shr n.toNat r c → Leaves (.shi e 1 n) s e (r :: os) r c none) ∧
      (Executes s e (.shi 2 n) → table .sar n.toNat r c → Leaves (.shi e 2 n) s e (r :: os) r c none) ∧
      (Executes s e (.shi 3 n) → table .ror n.toNat r c → Leaves (.shi e 3 n) s e (r :: os) r c none))

/-- An engine that executes one of these (POPX with an entry on the stack) completes: NOP and LNOP change nothing; POPX
moves the top entry to PA, PB, RC (at most 65,535) or ST[6:0]; ADDP adds its signed value to PA or PB; SETRC sets RC; FLAG
sets or clears the bits of its mask in ST[6:0]; IEN sets IE, SETIL the level, WAIT the wait, which with IE 0 is over where a
source above the level is on offer; FENCE makes program words the engine has stored visible to fetches. Outside a repeat
everything else in the engine stays, and nothing changes outside it but its counters of steps and, for WAIT, what its target
shows of a wait. This statement rests on choices of the model: log 10 and 43. -/
def Obligations.EngineRegisterInstructions : Prop :=
  ∀ (s : State) (e : EngId),
    let g := s.awake e
    (Executes s e .nop → RunsTo (.nop e) s e g) ∧
    (Executes s e .lnop → RunsTo (.lnop e) s e g) ∧
    (∀ x os, (s.eng e).os = x :: os →
      (Executes s e (.popx 0) → RunsTo (.popx e 0) s e { g with os := os, pa := x }) ∧
      (Executes s e (.popx 1) → RunsTo (.popx e 1) s e { g with os := os, pb := x }) ∧
      (Executes s e (.popx 2) → RunsTo (.popx e 2) s e
        { g with os := os, rc := BitVec.ofNat 16 (min x.toNat 65535), rcWritten := g.rpt }) ∧
      (Executes s e (.popx 3) → RunsTo (.popx e 3) s e
        { g with os := os, dzt := x.getLsbD 6, sv := x.getLsbD 5, dz := x.getLsbD 4, n := x.getLsbD 3, z := x.getLsbD 2,
                 c := x.getLsbD 1, v := x.getLsbD 0 })) ∧
    (∀ v, Executes s e (.addp false v) → RunsTo (.addp e false v) s e { g with pa := g.pa + v.signExtend 32 }) ∧
    (∀ v, Executes s e (.addp true v) → RunsTo (.addp e true v) s e { g with pb := g.pb + v.signExtend 32 }) ∧
    (∀ v, Executes s e (.setrc v) → RunsTo (.setrc e v) s e { g with rc := v.setWidth 16, rcWritten := g.rpt }) ∧
    (∀ m, Executes s e (.flag true m) → RunsTo (.flag e true m) s e
      { g with dzt := g.dzt || m.getLsbD 6, sv := g.sv || m.getLsbD 5, dz := g.dz || m.getLsbD 4, n := g.n || m.getLsbD 3,
               z := g.z || m.getLsbD 2, c := g.c || m.getLsbD 1, v := g.v || m.getLsbD 0 }) ∧
    (∀ m, Executes s e (.flag false m) → RunsTo (.flag e false m) s e
      { g with dzt := g.dzt && !m.getLsbD 6, sv := g.sv && !m.getLsbD 5, dz := g.dz && !m.getLsbD 4,
               n := g.n && !m.getLsbD 3, z := g.z && !m.getLsbD 2, c := g.c && !m.getLsbD 1, v := g.v && !m.getLsbD 0 }) ∧
    (∀ b, Executes s e (.ien b) → RunsTo (.ien e b) s e { g with ie := b }) ∧
    (∀ v, Executes s e (.setil v) → RunsTo (.setil e v) s e { g with il := v }) ∧
    (Executes s e .wait → ∃ t, exec (.wait e) s = .next t ∧ InSequence s t e { g with waiting := true } ∧
      (∀ k, k ≠ e.val → t.eng k = s.eng k) ∧ (∀ k, k ≠ e.val → t.tgt k = s.tgt k) ∧ t.srcs = s.srcs ∧
      t.tgt e = { s.tgt e with woke := !g.ie && (s.offered e).isSome } ∧
      (∀ a, a ≠ (F.ENG_PERF.STEPS e).off → a ≠ (F.ENG_PERF.SERIAL e).off → t.reg a = s.reg a) ∧
      ∀ p : Piece, p ≠ .engs → p ≠ .regs → p ≠ .irq → p.Same s t) ∧
    (Executes s e .fence → RunsTo (.fence e) s e { g with stale := [] })

/-- An engine that executes a jump (JZ, JNZ, BZ, BNZ, JMPS with their entry on the stack, which they pop) completes: where the
condition holds and the target word lies in program memory it goes on at that word, a branch's target counting from the word
after the branch; where the condition does not hold it goes on in sequence. No flag changes, and nothing changes outside the
engine but its counters of steps. -/
def Obligations.EngineJumpsAndBranches : Prop :=
  ∀ (s : State) (e : EngId) (w : Nat), w < progWords →
    let g := s.awake e
    let rel (off : Int) : Prop := ((s.eng e).pc / 4 : Nat) + 1 + off = (w : Int)
    (∀ x os, (s.eng e).os = x :: os →
      (∀ v : BitVec 24, v.toNat = w → Executes s e (.jz v) → x = 0 → JumpsTo (.jz e v) s e { g with os := os } (4 * w)) ∧
      (∀ v : BitVec 24, Executes s e (.jz v) → x ≠ 0 → RunsTo (.jz e v) s e { g with os := os }) ∧
      (∀ v : BitVec 24, v.toNat = w → Executes s e (.jnz v) → x ≠ 0 → JumpsTo (.jnz e v) s e { g with os := os } (4 * w)) ∧
      (∀ v : BitVec 24, Executes s e (.jnz v) → x = 0 → RunsTo (.jnz e v) s e { g with os := os }) ∧
      (∀ v : BitVec 9, rel v.toInt → Executes s e (.bz v) → x = 0 → JumpsTo (.bz e v) s e { g with os := os } (4 * w)) ∧
      (∀ v : BitVec 9, Executes s e (.bz v) → x ≠ 0 → RunsTo (.bz e v) s e { g with os := os }) ∧
      (∀ v : BitVec 9, rel v.toInt → Executes s e (.bnz v) → x ≠ 0 → JumpsTo (.bnz e v) s e { g with os := os } (4 * w)) ∧
      (∀ v : BitVec 9, Executes s e (.bnz v) → x = 0 → RunsTo (.bnz e v) s e { g with os := os }) ∧
      (x.toNat = w → Executes s e .jmps → JumpsTo (.jmps e) s e { g with os := os } (4 * w))) ∧
    (∀ (c : BitVec 4) (v : BitVec 24), Executes s e (.jcc c v) →
      ((s.eng e).cond c.toNat = true → v.toNat = w → JumpsTo (.jcc e c v) s e g (4 * w)) ∧
      ((s.eng e).cond c.toNat = false → RunsTo (.jcc e c v) s e g)) ∧
    (∀ (c : BitVec 4) (v : BitVec 5), Executes s e (.bcc c v) →
      ((s.eng e).cond c.toNat = true → rel v.toInt → JumpsTo (.bcc e c v) s e g (4 * w)) ∧
      ((s.eng e).cond c.toNat = false → RunsTo (.bcc e c v) s e g))

/-- A Jcc that an engine executes with a target in program memory leaves the engine at the target exactly where its condition
code holds by the table of R598 on N, Z, C and V, and otherwise after the Jcc; a Bcc likewise. -/
def Obligations.EngineConditionCodes : Prop :=
  ∀ (s : State) (e : EngId) (c : BitVec 4),
    let g := s.eng e
    let holds : Prop :=
      (c = 0 ∧ g.z = true) ∨ (c = 1 ∧ g.z = false) ∨ (c = 2 ∧ g.c = true) ∨ (c = 3 ∧ g.c = false) ∨
      (c = 4 ∧ g.n = true) ∨ (c = 5 ∧ g.n = false) ∨ (c = 6 ∧ g.v = true) ∨ (c = 7 ∧ g.v = false) ∨
      (c = 8 ∧ g.c = true ∧ g.z = false) ∨ (c = 9 ∧ (g.c = false ∨ g.z = true)) ∨
      (c = 10 ∧ g.n = g.v) ∨ (c = 11 ∧ g.n ≠ g.v) ∨ (c = 12 ∧ g.z = false ∧ g.n = g.v) ∨
      (c = 13 ∧ (g.z = true ∨ g.n ≠ g.v)) ∨ c = 14
    (∀ v : BitVec 24, v.toNat < progWords → Executes s e (.jcc c v) →
      (holds → JumpsTo (.jcc e c v) s e (s.awake e) (4 * v.toNat)) ∧ (¬ holds → RunsTo (.jcc e c v) s e (s.awake e))) ∧
    (∀ (v : BitVec 5) (w : Nat), w < progWords → (g.pc / 4 : Nat) + 1 + v.toInt = (w : Int) → Executes s e (.bcc c v) →
      (holds → JumpsTo (.bcc e c v) s e (s.awake e) (4 * w)) ∧ (¬ holds → RunsTo (.bcc e c v) s e (s.awake e)))

/-- An engine that executes CALL or CALLS of a word in program memory completes there: with fewer than eight entries, or
with RSMODE 2, the next slot or word is in the slot at the return stack's pointer; with eight entries and RSMODE 0 the
oldest has been pushed to the memory stack first. RET with an entry goes to it; with none and a spilled one (RSMODE 0) it
goes to the word on the memory stack, whose word is not poisoned. A RET within a hook call that does not end the call, like
one of an engine that makes none, does nothing more; one that ends a tick hook's call by the entry that the call left, with
nothing left on the operand stack, takes the engine back to Berzu's WAIT (R620). The operand stack (but for the target that
CALLS pops) and the flags stay. This statement rests on choices of the model: log 69, 70 and 123. -/
def Obligations.EngineCallsAndReturns : Prop :=
  ∀ (s : State) (e : EngId) (w : Nat) (out : List Word),
    let g := s.awake e
    let pushed (n : Nat) : Eng :=
      { g with os := out, rsSlots := Tab.put (fun _ => 0) g.rsSlots (g.rsPtr % 8) (s.next_ e), rsPtr := (g.rsPtr + 1) % 8, rsd := n }
    let mode := s.f (F.ENG_CTRL.RSMODE e.val)
    (∀ c : Instr, w < progWords →
      (∃ v : BitVec 24, c = .call e v ∧ v.toNat = w ∧ out = g.os ∧ Executes s e (.call v)) ∨
        (∃ x, c = .calls e ∧ g.os = x :: out ∧ x.toNat = w ∧ Executes s e .calls) →
      (g.rsd < 8 → JumpsTo c s e (pushed (g.rsd + 1)) (4 * w)) ∧
      (g.rsd = 8 → mode = 2 → JumpsTo c s e (pushed 8) (4 * w)) ∧
      (g.rsd = 8 → mode = 0 → s.msFits e = true → s.msp e ≤ 0x4000 →
        ∃ t, exec c s = .next t ∧ (t.eng e).pc = 4 * w ∧ (t.eng e).os = out ∧ (t.eng e).flags = g.flags ∧
          (t.eng e).rsSlots = (pushed 8).rsSlots ∧ (t.eng e).rsd = 8 ∧ (t.eng e).rss = (g.rss + 1) % 65536 ∧
          t.msp e = s.msp e - 4 ∧ t.rd32 (dataAt e (s.msp e - 4)) = BitVec.ofNat 32 (g.rs g.rsPtr) ∧
          ∀ a, (a < dataAt e (s.msp e - 4) ∨ dataAt e (s.msp e) ≤ a) → t.rd8 a = s.rd8 a)) ∧
    (Executes s e .ret →
      (0 < g.rsd → g.rs ((g.rsPtr + 7) % 8) = w → w % 4 < 2 → w / 4 < progWords → g.back = none ∨ 1 < g.rsd →
        ∃ t a, exec (.ret e) s = .next t ∧ t.eng e = { g with rsPtr := (g.rsPtr + 7) % 8, rsd := g.rsd - 1, pc := w, slotA := a } ∧
          (w % 2 = 0 → a = none) ∧ OnlyEngine s t e) ∧
      (∀ n b, g.calls = [.tick n] → g.back = some b → g.frames = [] → g.os = [] → g.rsd = 1 → g.rss = b.2.rss →
        g.rs ((g.rsPtr + 7) % 8) = w → w % 4 < 2 → w / 4 < progWords → b.2.msp % 4 = 0 → b.2.msp ≤ 0x4000 →
        ∃ t, exec (.ret e) s = .next t ∧ t.eng e = g.inWait b ∧ t.msp e = b.2.msp ∧
          t.f (F.ENG_HOOKCNT.FAULT e.val) = s.f (F.ENG_HOOKCNT.FAULT e.val) ∧ t.mem = s.mem) ∧
      (g.rsd = 0 → mode = 0 → g.back = none → 0 < g.rss → s.msBad e 0 = false → (s.rd32 (dataAt e (s.msp e))).toNat = w → w % 4 < 2 →
        w / 4 < progWords → s.msp e + 4 ≤ 0x4000 →
        ∃ t, exec (.ret e) s = .next t ∧ (t.eng e).pc = w ∧ (t.eng e).os = g.os ∧ (t.eng e).flags = g.flags ∧
          (t.eng e).rsd = 0 ∧ (t.eng e).rss = g.rss - 1 ∧ t.msp e = s.msp e + 4 ∧ t.mem = s.mem))

/-- An engine outside a repeat that executes REP or REP_LONG with the count `n` on its stack and a target that R601 allows
completes and pops `n`. With `n` = 0 it goes on at the word after the target; otherwise RC is min(n, 65,535), RPT is 1 and
it stands at the target (slot B of the same word for a REP in slot A, else the next word). An engine in a repeat whose
target is the long LNOP ends the iteration with RC one lower (the count that a target wrote stands instead), and either
starts the target again or, at RC 0, clears RPT and goes on after it. Nothing changes outside the engine but its counters of
steps. This statement rests on choices of the model: log 70. -/
def Obligations.EngineRepeats : Prop :=
  ∀ (s : State) (e : EngId),
    let g := s.awake e
    (∀ (c : Instr) (n : Word) (os : List Word), (c = .rep e ∧ Executes s e .rep) ∨ (c = .repLong e ∧ Executes s e .repLong) →
      g.os = n :: os → g.rpt = false → s.repBarred e = false →
      ∃ t, exec c s = .next t ∧ OnlyEngine s t e ∧ (t.eng e).os = os ∧ (t.eng e).flags = g.flags ∧
        (t.eng e).rc = BitVec.ofNat 16 (min n.toNat 65535) ∧
        (n = 0 → (t.eng e).rpt = false ∧ (t.eng e).pc = 4 * (s.next_ e / 4 + 1)) ∧
        (n ≠ 0 → (t.eng e).rpt = true ∧ (t.eng e).pc = s.next_ e ∧ (t.eng e).target = s.next_ e)) ∧
    (Executes s e .lnop → g.rpt = true → g.pc = g.target → g.pc % 4 = 0 →
      ∃ t, exec (.lnop e) s = .next t ∧ OnlyEngine s t e ∧ (t.eng e).os = g.os ∧ (t.eng e).flags = g.flags ∧
        (t.eng e).rc = (if g.rcWritten then g.rc else g.rc - 1) ∧
        ((t.eng e).rc = 0 → (t.eng e).rpt = false ∧ (t.eng e).pc = g.pc + 4) ∧
        ((t.eng e).rc ≠ 0 → (t.eng e).rpt = true ∧ (t.eng e).pc = g.target))

/-- An engine that executes a load whose access is permitted and not of a poisoned word, with room for the value, completes,
for every place the access may land on. From memory the value is what the place reads as, with zeros above it, or with the
sign that LDP asks for: the bytes at the address, little-endian, but in the object memory its reserved words and bits as 0
and word 0 with its live lock and pending bits (State.loadNat, R47, R168), and 0 from 0x0201_0880 to 0x0201_0FFF; from a
register it is what a read of the register by the engine gives. Outside the object memory State.loadNat is the bytes alone.
LD pops its address; LDP adds the size to PA or PB where it post-increments. No flag changes; a load from memory changes
nothing outside the engine but its counters of steps. This statement rests on choices of the model: log 45, 65 and 95. -/
def Obligations.EngineLoadsPushTheValue : Prop :=
  (∀ (s : State) (e : EngId) (c : Instr) (a sz : Nat) (out : List Word) (p : Place) (sx : Bool) (gp : Eng),
    let g := s.awake e
    ((∃ v : BitVec 24, c = .lda e v ∧ Executes s e (.lda v) ∧ a = 4 * v.toNat ∧ sz = 2 ∧ out = g.os ∧ gp = g ∧ sx = false) ∨
     (∃ x : Word, c = .ld e ∧ Executes s e .ld ∧ g.os = x :: out ∧ a = x.toNat ∧ sz = 2 ∧ gp = g ∧ sx = false) ∨
     (∃ (z : BitVec 2) (inc : Bool), c = .ldp e z inc sx false ∧ Executes s e (.ldp z inc sx false) ∧ out = g.os ∧
        a = g.pa.toNat ∧ sz = z.toNat ∧ sz < 3 ∧
        gp = (if inc then { g with pa := g.pa + BitVec.ofNat 32 (2 ^ sz) } else g)) ∨
     (∃ (z : BitVec 2) (inc : Bool), c = .ldp e z inc sx true ∧ Executes s e (.ldp z inc sx true) ∧ out = g.os ∧
        a = g.pb.toNat ∧ sz = z.toNat ∧ sz < 3 ∧
        gp = (if inc then { g with pb := g.pb + BitVec.ofNat 32 (2 ^ sz) } else g))) →
    out.length ≤ 15 → s.access e a sz = .ok p → s.placeBad e p = false →
    (∀ k m, p.cell e = some (k, m) →
      let n := if 0x02010880 ≤ a ∧ a < 0x02011000 then 0 else s.loadNat k (2 ^ sz)
      ∃ v : Word, RunsTo c s e { gp with os := v :: out } ∧
        (sx = false ∨ sz = 2 → v.toNat = n) ∧ (sx = true → sz < 2 → v.toInt = signed (8 * 2 ^ sz) n)) ∧
    (p.cell e = none → ∃ b t, p = .reg b ∧ sz = 2 ∧ exec c s = .next t ∧
      (t.eng e).os = ((s.roused e).busRead (.engine e) b).1 :: out ∧
      (t.eng e).flags = ((((s.roused e).busRead (.engine e) b).2).eng e).flags)) ∧
  (∀ (s : State) (k n : Nat), objWordOf k = none → s.loadNat k n = leNat (s.rdBytes k n))

/-- An engine that executes a store, or an AMO where R584 permits it on a word that is not poisoned, with its operands and
an access that is permitted completes and pops its operands (AMO leaves the old word, as a load reads it). In memory the
bytes at the address become the low bytes of the value, little-endian (for AMO the value exchanged, added, anded or ored),
but for the bits that State.storeKeep leaves: the reserved words and bits of the object memory, and for code of a running
hook what the hook may only read; a store from 0x0201_0880 to 0x0201_0FFF does nothing. Every other byte of memory is as
before. No flag changes; STP adds the size to PA or PB where it post-increments. A store to a register is the engine's write
of it. This statement rests on choices of the model: log 10 and 65. -/
def Obligations.EngineStoresToTheAddress : Prop :=
  ∀ (s : State) (e : EngId) (c : Instr) (a sz : Nat) (x : Word) (out : List Word) (p : Place) (gp : Eng),
    let g := s.awake e
    let hole : Prop := 0x02010880 ≤ a ∧ a < 0x02011000
    let stores : Prop :=
      (∃ v : BitVec 24, c = .sta e v ∧ Executes s e (.sta v) ∧ a = 4 * v.toNat ∧ sz = 2 ∧ g.os = x :: out ∧ gp = g) ∨
      (∃ y : Word, c = .st e ∧ Executes s e .st ∧ g.os = y :: x :: out ∧ a = y.toNat ∧ sz = 2 ∧ gp = g) ∨
      (∃ (z : BitVec 2) (inc sx : Bool), c = .stp e z inc sx false ∧ Executes s e (.stp z inc sx false) ∧ g.os = x :: out ∧
        a = g.pa.toNat ∧ sz = z.toNat ∧ sz < 3 ∧
        gp = (if inc then { g with pa := g.pa + BitVec.ofNat 32 (2 ^ sz) } else g)) ∨
      (∃ (z : BitVec 2) (inc sx : Bool), c = .stp e z inc sx true ∧ Executes s e (.stp z inc sx true) ∧ g.os = x :: out ∧
        a = g.pb.toNat ∧ sz = z.toNat ∧ sz < 3 ∧
        gp = (if inc then { g with pb := g.pb + BitVec.ofNat 32 (2 ^ sz) } else g))
    let swaps (k : Nat) : Prop :=
      ∃ (o : BitVec 2) (y z old : Word) (os : List Word), c = .amo e o ∧ Executes s e (.amo o) ∧ g.os = y :: z :: os ∧
        a = y.toNat ∧ sz = 2 ∧ gp = g ∧ p.amoOk = true ∧ s.placeBad e p = false ∧
        (hole → old = 0) ∧ (¬ hole → old.toNat = s.loadNat k 4) ∧ out = old :: os ∧
        x = (if o = 0 then z else if o = 1 then old + z else if o = 2 then old &&& z else old ||| z)
    s.access e a sz = .ok p →
    (∀ k m, p.cell e = some (k, m) → stores ∨ swaps k →
      let at_ := k / 4 * 4
      let keep := s.storeKeep e k
      ∃ t, exec c s = .next t ∧ (t.eng e).os = out ∧ (t.eng e).flags = g.flags ∧ (t.eng e).pa = gp.pa ∧ (t.eng e).pb = gp.pb ∧
        (g.rpt = false → (t.eng e).pc = s.next_ e) ∧
        (hole → t.mem = s.mem) ∧
        (¬ hole → keep = 0xFFFFFFFF#32 → t.rdBytes k (2 ^ sz) = leBytes (2 ^ sz) x.toNat ∧
          ∀ b, (b < k ∨ k + 2 ^ sz ≤ b) → t.rd8 b = s.rd8 b) ∧
        (¬ hole → t.rd32 at_ = ((s.wrBytes k (leBytes (2 ^ sz) x.toNat)).rd32 at_ &&& keep) ||| (s.rd32 at_ &&& ~~~keep)) ∧
        (∀ b, (b < at_ ∨ at_ + 4 ≤ b) → t.rd8 b = s.rd8 b) ∧ (∀ j, j ≠ e.val → t.eng j = s.eng j) ∧
        (∀ r, r ≠ (F.ENG_PERF.STEPS e.val).off → r ≠ (F.ENG_PERF.SERIAL e.val).off → t.reg r = s.reg r) ∧
        ∀ q : Piece, q ≠ .engs → q ≠ .regs → q ≠ .mem → q ≠ .poison → q.Same s t) ∧
    (p.cell e = none → stores → ∃ b t, p = .reg b ∧ sz = 2 ∧ exec c s = .next t ∧ (t.eng e).os = out)

/-- With TRP 0 and room for the frame, outside the hook area: SWI traps with cause 13, saved PC after it, and its code in
TRAPINFO; a word that is not defined traps ILLEGAL; a pop of an empty operand stack traps OS_UNDERFLOW and a push on a full
one OS_OVERFLOW; DIV or DIVU by 0 with DZT 1, outside a repeat, traps DIVIDE after its result. A fault saves the PC of its
slot (of the target in a repeat) and leaves the stacks of operands and returns, the flags, PA, PB, RC and the level as they
were. The entry is that of R607. In the hook area the same trap of a tick hook counts FAULT as well and ends its call: the
engine is back in Berzu's WAIT with the stacks the call found. An engine that executes SWI or an undefined word while TRP is
1 halts with cause 16 and raises source 976 + e; with TRP 0 and no room for the frame it halts with cause 17; its operand
stack and flags stay, and it executes nothing any more. The lanes of a protocol engine's quad are in OFF then. This
statement rests on choices of the model: log 45, 46, 70, 104 and 123. -/
def Obligations.EngineTrapsAndHalts : Prop :=
  (∀ (s : State) (e : EngId), (s.eng e).trp = false → s.entryFits e = true → s.msp e ≤ 0x4000 → inHookArea e (s.eng e).pc = false →
      let g := s.awake e
      let pc := if g.rpt then g.target else g.pc
      let faults (c : Instr) (cause : Nat) : Prop := ∃ t, exec c s = .next t ∧ TrapEntered s t e g cause pc 3
      (∀ k, Executes s e (.swi k) → ∃ t, exec (.swi e k) s = .next t ∧ TrapEntered s t e g 13 (s.next_ e) (s.stepsNow e 3) ∧
        t.f (F.ENG_TRAPINFO.SWI_CODE e.val) = k.toNat) ∧
      (Executes s e .illegal → faults (.illegalOpcode e) 1) ∧
      (g.os = [] → (Executes s e .add → faults (.add e) 4) ∧ (Executes s e .drop → faults (.drop e) 4) ∧
        (Executes s e .ld → faults (.ld e) 4) ∧ (Executes s e .jmps → faults (.jmps e) 4)) ∧
      (g.os.length = 16 → (∀ v, Executes s e (.lit v) → faults (.lit e v) 3) ∧ (Executes s e .dup → faults (.dup e) 3) ∧
        (∀ k, Executes s e (.pushx k) → faults (.pushx e k) 3)) ∧
      (∀ v : BitVec 24, progWords ≤ v.toNat → Executes s e (.call v) → faults (.call e v) 12) ∧
      (Executes s e .rep → g.os ≠ [] → s.repBarred e = true → faults (.rep e) 2) ∧
      (∀ a os, g.os = 0 :: a :: os → g.dzt = true → g.rpt = false →
        let after (c : Instr) : Prop := ∃ t, exec c s = .next t ∧
          (t.eng e).os = a :: 0 :: os ∧ (t.eng e).dz = true ∧ (t.eng e).trp = true ∧ (t.eng e).ie = false ∧
          (t.eng e).pc = 32 ∧ t.f (F.ENG_TRAPINFO.CAUSE e.val) = 8 ∧ t.f (F.ENG_TRAPINFO.PC e.val) = s.next_ e
        (Executes s e .div → after (.div e)) ∧ (Executes s e .divu → after (.divu e)))) ∧
  (∀ (s : State) (e : EngId) (n : Nat) (b : Nat × EngStacks),
      (s.eng e).trp = false → s.entryFits e = true → s.msp e ≤ 0x4000 → inHookArea e (s.eng e).pc = true →
      (s.eng e).calls = [.tick n] → (s.eng e).back = some b → (s.eng e).frames = [] → b.2.msp % 4 = 0 → b.2.msp ≤ 0x4000 →
      let unwinds (c : Instr) (cause : Nat) : Prop := ∃ t, exec c s = .next t ∧ t.eng e = (s.eng e).inWait b ∧ t.msp e = b.2.msp ∧
        t.f (F.ENG_TRAPINFO.CAUSE e.val) = cause ∧
        t.f (F.ENG_TRAPINFO.TRAPS e.val) = min (s.f (F.ENG_TRAPINFO.TRAPS e.val) + 1) 65535 ∧
        t.f (F.ENG_HOOKCNT.FAULT e.val) = min (s.f (F.ENG_HOOKCNT.FAULT e.val) + 1) 65535 ∧
        (∀ k, k ≠ e.val → t.eng k = s.eng k)
      (∀ k, Executes s e (.swi k) → unwinds (.swi e k) 13) ∧ (Executes s e .illegal → unwinds (.illegalOpcode e) 1)) ∧
  (∀ (s : State) (e : EngId),
      let halts (c : Instr) (cause : Nat) : Prop :=
        ∃ t, exec c s = .next t ∧ (t.eng e).halted = true ∧ (t.eng e).haltCause = cause ∧ (t.eng e).os = (s.eng e).os ∧
          (t.eng e).flags = (s.eng e).flags ∧ t.engReady e = false ∧
          (32 ≤ e.val → t.src (976 + e.val) = (s.src (976 + e.val)).event) ∧
          (e.val < 32 → (∀ k < 4, s.laneSt (4 * e.val + k) = St.off) → t.src (976 + e.val) = (s.src (976 + e.val)).event) ∧
          (e.val < 32 → s.held = [] → (∀ k < 4, (s.lane (4 * e.val + k)).pend = none) → ∀ k < 4, t.laneSt (4 * e.val + k) = St.off)
      (s.eng e).calls = [] →
      ∀ cause, ((s.eng e).trp = true ∧ cause = 16) ∨ ((s.eng e).trp = false ∧ s.entryFits e = false ∧ cause = 17) →
        (∀ k, Executes s e (.swi k) → halts (.swi e k) cause) ∧ (Executes s e .illegal → halts (.illegalOpcode e) cause))

/-- At a boundary, with interrupts enabled and room for the frame, INTERRUPT_ENTRY completes: the entry for the ready source
`n` of priority `p` on offer above IL claims `n` (its COUNT goes into the claim word of ENG_CLAIMp and to 0), saves ST and
PC, sets IL to p and RPT to 0 and goes on at vector word 16 + p; with no such offer the entry is abandoned, SPURIOUS counts,
and the memory stack stands as before. RETI from a frame completes: from an interrupt frame it completes the source of its
level; where one is on offer that is to be tail-chained it keeps the frame, claims the new source and goes on at its vector,
whatever the saved PC; where none is, and the words it pops are intact, it refills the return stack, restores ST and PC from
the memory stack and drops the frame, back into Berzu's WAIT where that was interrupted. Once a tick has fallen due,
TICK_HOOK_CALL of a running PE with TICK_EN completes: t and the time of the next tick move on; a tick counts in TICK_MISSED
while another tick's call has not ended; otherwise Berzu, in its WAIT, calls word 4,099 with t alone on the operand stack,
the return address alone on the return stack, and CALLS counted, and where it has other work the call waits. This statement
rests on choices of the model: log 69 and 123. -/
def Obligations.EngineEntriesAndReturns : Prop :=
  (∀ (s : State) (e : EngId), s.boot.mainOn = true → s.engUp e = true → (s.eng e).ie = true → s.atBoundary e = true →
      s.entryFits e = true → s.msp e ≤ 0x4000 →
      let g := s.eng e
      (∀ n p, s.offered e = some (n, p) → p ≤ 15 → s.modReady e p = true →
        ∃ t x, exec (.interruptEntry e) s = .next t ∧
          (t.eng e).il.toNat = p ∧ (t.eng e).rpt = false ∧ (t.eng e).trp = g.trp ∧ (t.eng e).pc = 4 * (16 + p) ∧
          (t.eng e).waiting = false ∧ (t.eng e).frames = x :: g.frames ∧ x.trap = false ∧ x.rss = g.rss ∧ x.home = g.home ∧
          x.level = p ∧ x.save = { s.stacks e with msp := s.msp e - 8 } ∧
          (t.eng e).os = g.os ∧ (t.eng e).flags = g.flags ∧
          t.msp e = s.msp e - 8 ∧ t.rd32 (dataAt e (s.msp e - 4)) = g.st ∧
          t.rd32 (dataAt e (s.msp e - 8)) = BitVec.ofNat 32 g.pc ∧
          t.reg (0x20C040 + e.val * 0x10000 + 4 * p) = claimWord (s.src n).count n ∧
          (t.src n).count = 0 ∧ (t.src n).active = true ∧ (t.src n).at_ = e.val) ∧
      (s.offered e = none →
        ∃ t, exec (.interruptEntry e) s = .next t ∧ (t.eng e) = { g with waiting := g.home } ∧ t.msp e = s.msp e ∧
          t.f (F.ENG_IRQCNT.SPURIOUS e.val) = min (s.f (F.ENG_IRQCNT.SPURIOUS e.val) + 1) 65535 ∧ t.srcs = s.srcs)) ∧
  (∀ (s : State) (e : EngId) (x : EFrame) (xs : List EFrame), Executes s e .reti → (s.eng e).frames = x :: xs →
      let g := s.eng e
      let n := g.rss - x.rss
      let pc := (s.rd32 (dataAt e (s.msp e + 4 * n))).toNat
      let st := s.rd32 (dataAt e (s.msp e + 4 * n + 4))
      g.calls = [] → s.msBad e (n + 1) = false →
      (s.chainOffer e x st = none → (∀ k < n + 1, s.msBad e k = false) → pc / 4 < progWords → pc % 4 < 2 →
        s.msp e + 4 * n + 8 ≤ 0x4000 →
        ∃ t, exec (.reti e) s = .next t ∧ (t.eng e).os = g.os ∧ t.mem = s.mem ∧
          (t.eng e).pc = pc ∧ (t.eng e).st = st &&& 0xFFFFFE7F#32 ∧ (t.eng e).frames = xs ∧ (t.eng e).waiting = x.home ∧
          (t.eng e).rss = g.rss - n ∧ t.msp e = s.msp e + 4 * n + 8 ∧
          (x.trap = false → ∀ k, k = bitsOf (s.reg (0x20C040 + e.val * 0x10000 + 4 * g.il.toNat)) 0 11 →
            (s.src k).active = true → (s.src k).at_ = e.val → (t.src k).active = false)) ∧
      (∀ k p, s.chainOffer e x st = some (k, p) → p ≤ 15 →
        ∃ t, exec (.reti e) s = .next t ∧ (t.eng e).os = g.os ∧ t.mem = s.mem ∧
          (t.eng e).pc = 4 * (16 + p) ∧ (t.eng e).il.toNat = p ∧
          (t.eng e).trp = st.getLsbD 14 ∧ (t.eng e).frames = { x with trap := false, level := p, save := s.stacks e } :: xs ∧
          t.msp e = s.msp e ∧ (t.src k).count = 0 ∧ (t.src k).active = true ∧ (t.src k).at_ = e.val ∧
          t.f (F.ENG_IRQCNT.TAILCHAIN e.val) = min (s.f (F.ENG_IRQCNT.TAILCHAIN e.val) + 1) 65535)) ∧
  (∀ (s : State) (q : QuadId) (h : Unit), s.boot.mainOn = true → s.engUp q.val = true → (s.hookHdr q.val).getLsbD 2 = true →
      s.tickDue q.val ≤ s.now →
      let g := s.eng q.val
      let n := Tab.get (fun _ => 0) s.boot.tick q.val
      let due (t : State) : Prop := t.tickDue q.val = s.tickDue q.val + 32000 * max 1 (bitsOf (s.hookHdr q.val) 16 16) ∧
        Tab.get (fun _ => 0) t.boot.tick q.val = (n + 1) % 4294967296
      (g.calls.any HookCall.isTick = true → ∃ t, exec (.tickHookCall q h) s = .next t ∧ due t ∧ t.engs = s.engs ∧
        t.f (F.ENG_HOOKCNT.TICK_MISSED q.val) = min (s.f (F.ENG_HOOKCNT.TICK_MISSED q.val) + 1) 65535) ∧
      (g.calls = [] → g.back = none → g.home = true → g.frames = [] →
        ∃ t, exec (.tickHookCall q h) s = .next t ∧ due t ∧
          t.f (F.ENG_HOOKCNT.CALLS q.val) = min (s.f (F.ENG_HOOKCNT.CALLS q.val) + 1) 65535 ∧
          (t.eng q.val).os = [BitVec.ofNat 32 n] ∧ (t.eng q.val).pc = 4 * 4099 ∧ (t.eng q.val).rsd = 1 ∧
          (t.eng q.val).rs ((t.eng q.val).rsPtr + 7) = g.pc ∧ (t.eng q.val).calls = [.tick n] ∧
          (t.eng q.val).back = some (g.pc, s.stacks q.val) ∧ (t.eng q.val).waiting = false ∧ t.mem = s.mem) ∧
      (g.calls.any HookCall.isTick = false → g.home = false ∨ g.frames ≠ [] ∨ g.back ≠ none →
        ∃ t, exec (.tickHookCall q h) s = .next t ∧ due t ∧ t.eng q.val = { g with calls := g.calls ++ [.tick n] } ∧
          t.regs = s.regs ∧ t.mem = s.mem))

/-- A command of a running engine first brings what has happened at it (State.pinSee). Of an engine that executes a word
then: BR goes to its address where the condition holds, XNZ taking 1 from X, RXDR looking at the last sample; AWAIT
completes where its input has the level, a pulse where it has come, and else stalls; SETX, DRIVE, SIG, COPY and NOP do what
their words say, and an event of SIG follows the words pushed before it; a reserved operation or argument, and a poisoned
word, sets ILLEGAL_OP and does nothing else. What completes takes its delay and goes on behind its word, from LOOP_END at
LOOP_START. A lane input without VIO reads dominant. This statement rests on choices of the model: log 6, 66, 103, 105 and
124. -/
def Obligations.PinControl : Prop :=
  ∀ (s : State) (l : LaneId) (x : PinArg) (c : BitVec 3) (a : BitVec 5) (lv pulse : Bool) (i : BitVec 4) (v : BitVec 8)
    (z2 : BitVec 2) (z3 : BitVec 3) (z4 : BitVec 4) (z5 : BitVec 5) (z6 : BitVec 6) (op : BitVec 4),
    let l' := l.val
    let dl := x.dl
    let u := s.pinSee l' x.seen
    let p := u.pin l'
    let at_ (op : BitVec 4) (arg : BitVec 8) : Prop := u.pinAt l' (op ++ dl ++ arg)
    let done (c : Instr) (q : PinEng) : Prop := PinIs c s u l' (u.pinAfter l' dl q none) [.pins]
    let takes (c : Instr) (q : PinEng) : Prop := PinIs c s u l' (u.pinAfter l' dl q (some a.toNat)) [.pins]
    let br := Instr.br l x c a
    let branches (b : Bool) : Prop := (b = true → takes br p) ∧ (b = false → done br p)
    let wait := Instr.await l x lv i pulse
    let level : Bool := if (i = 6 ∨ i = 9) ∧ s.dark l' = true then !lv else if i = 6 then decide (p.idle = 11) == lv
      else if i = 7 then u.txGo l' == lv else if i = 8 then u.killOnTxd l' == lv else if i = 9 then p.rxd == lv
      else if i = 10 then p.codec.err == lv else if i = 2 ∨ i = 3 then pulse else pulse && pulseSeen i.toNat x.seen
    let reserved : Prop := 11 ≤ op ∧ op ≤ 14 ∨ op = 1 ∧ 10 < v.toNat % 16 ∨ (op = 2 ∨ op = 3) ∧ 4 < v.toNat / 32 ∨
      op = 8 ∧ 10 < v.toNat % 16 ∨ op = 10 ∧ 4 < v.toNat % 16
    let illegal (t : State) : Prop := t.pin l' = s.pinAfter l' dl (s.pin l') none ∧ t.fb (F.LANE_PESTAT.ILLEGAL_OP l') = true ∧
      OnlyPieces [.regs, .pins] s t
    (OnlyPieces [.regs, .pins] s u ∧ (∀ k, k ≠ l' → u.pin k = s.pin k) ∧ ((s.pin l').running = false → u = s)) ∧
    (at_ 0 (c ++ a) →
      (c = 0 → branches true) ∧ (c = 1 → p.x ≠ 0 → takes br { p with x := p.x - 1 }) ∧ (c = 1 → p.x = 0 → branches false) ∧
      (c = 2 → branches (p.rxd && !s.dark l')) ∧
      (c = 3 → branches (decide (u.unpackThr l' ≤ p.outCnt))) ∧ (c = 4 → branches (!p.txq.isEmpty)) ∧
      (c = 5 → branches p.codec.err) ∧ (c = 6 → branches p.codec.data) ∧ (c = 7 → branches (u.txGo l'))) ∧
    (at_ 1 (z3 ++ BitVec.ofBool lv ++ i) → i ≤ 10 →
      (level = true → done wait p) ∧
      (level = false → PinIs wait s u l' { p with stalled := true, ended := false } [.pins])) ∧
    (at_ 6 v → done (.setx l x v) { p with x := v }) ∧
    (at_ 7 (z6 ++ z2) → done (.drive l x z2) { p with drive := if z2 = 0 then .recessive else if z2 = 1 then .dominant else .codec }) ∧
    (at_ 9 (z5 ++ c) → done (.sig l x c) { p with crossing := p.crossing ++ [some c.toNat] }) ∧
    (at_ 10 (z4 ++ i) → (i = 0 → done (.copy l x i) { p with x := p.inSh.extractLsb' 0 8 }) ∧
      (i = 1 → done (.copy l x i) { p with x := p.outSh.extractLsb' 24 8 }) ∧
      (i = 2 → done (.copy l x i) { p with inSh := 0, inCnt := 0 }) ∧
      (i = 3 → done (.copy l x i) { p with outSh := 0, outCnt := 0 }) ∧
      (i = 4 → done (.copy l x i) { p with x := BitVec.ofNat 8 p.inCnt })) ∧
    (at_ 15 v → done (.pinNop l x) p) ∧
    (s.pinAt l' (op ++ dl ++ v) → reserved → Holds (.pinReservedOp l) s illegal) ∧
    ((s.pin l').running = true → (s.pin l').busyUntil ≤ s.now → (s.pin l').ended = false →
      s.pinBad l' (s.runBank l') (s.pin l').pc = true →
      (s.pinWord l' (s.runBank l') (s.pin l').pc).extractLsb' 8 4 = dl → Holds (.pinReservedOp l) s illegal) ∧
    (p.running = false ∨ s.now < p.busyUntil → exec (.pinNop l x) s = .next u)

/-- SHIN shifts its bits into bit 0 of the in-shifter, and packs at PACK_THR: in blocking mode it stalls, unshifted, while
RXQ is full. SHOUT first refills the out-shifter at UNPACK_THR, stalling in blocking mode while TXQ is empty, and takes its
bits from bit 31 for the codec, TXD, X or the in-shifter. PUSH and PULL move a word once the threshold is reached, and
stall; PUSH.N drops the word of a full RXQ with RXQ_OVERFLOW, PULL.N keeps the shifter of an empty TXQ with TXQ_UNDERRUN.
The sources are the last data bit, the last sample (0 without VIO), zeros, ones and X, whose bits behind the eighth are
free. Each finds what has happened at the engine: a sample is the last sample, the last data bit where it is no stuff bit,
and shifts into the RX field of the tap until that is frozen; a word the protocol engine has written is in TXQ, and one it
has taken, once it has crossed, has left RXQ; an event that has crossed is there until it is heard. This statement rests on
choices of the model: log 6, 66, 103, 105 and 124. -/
def Obligations.PinShifts : Prop :=
  ∀ (s : State) (l : LaneId) (x : PinArg) (k : BitVec 3) (m : BitVec 5) (thr : Bool) (z6 : BitVec 6) (w : Word) (ws : List Word),
    let l' := l.val
    let dl := x.dl
    let u := s.pinSee l' x.seen
    let p := u.pin l'
    let at_ (op : BitVec 4) (arg : BitVec 8) : Prop := u.pinAt l' (op ++ dl ++ arg)
    let after (q : PinEng) : PinEng := u.pinAfter l' dl q none
    let done (c : Instr) (q : PinEng) : Prop := PinIs c s u l' (after q) [.pins]
    let stalls (c : Instr) : Prop := PinIs c s u l' { p with stalled := true, ended := false } [.pins]
    let n := m.toNat + 1
    let pmode := u.f (F.LANE_PECTRL.PACK_MODE l')
    let umode := u.f (F.LANE_PECTRL.UNPACK_MODE l')
    let packs : Prop := u.f (F.LANE_PECTRL.PACK_THR l') + 1 ≤ min 32 (p.inCnt + n)
    let unpacks : Prop := umode ≠ 0 ∧ u.f (F.LANE_PECTRL.UNPACK_THR l') + 1 ≤ p.outCnt
    let full : Prop := 8 ≤ p.rxq.length
    let pushed (q : PinEng) : PinEng :=
      { q with rxq := if 8 ≤ q.rxq.length then q.rxq else q.rxq ++ [q.inSh], inSh := 0, inCnt := 0,
               crossing := if 8 ≤ q.rxq.length then q.crossing else q.crossing ++ [none] }
    let pulled (q : PinEng) : PinEng := { q with txq := q.txq.tail, outSh := q.txq.headD q.outSh, outCnt := if q.txq = [] then q.outCnt else 0 }
    let overflows (t : State) : Prop := t.fb (F.LANE_PESTAT.RXQ_OVERFLOW l') = true ∧
      t.f (F.LANE_PESTAT.N_OVERFLOW l') = min (u.f (F.LANE_PESTAT.N_OVERFLOW l') + 1) 255 ∧ OnlyPieces [.free, .regs, .pins] u t
    let underruns (t : State) : Prop := t.fb (F.LANE_PESTAT.TXQ_UNDERRUN l') = true ∧
      t.f (F.LANE_PESTAT.N_UNDERRUN l') = min (u.f (F.LANE_PESTAT.N_UNDERRUN l') + 1) 255 ∧ OnlyPieces [.free, .regs, .pins] u t
    let source (bits : List Bool) : Prop := bits.length = n ∧ (k = 0 → bits = List.replicate n p.dbit) ∧
      (k = 1 → bits = List.replicate n (p.rxd && !s.dark l')) ∧
      (k = 2 → bits = List.replicate n false) ∧ (k = 3 → bits = List.replicate n true) ∧
      (k = 4 → ∀ i < n, i < 8 → bits.getD i false = p.x.getLsbD (7 - i))
    let shin := Instr.shin l x k m
    let q := if unpacks then pulled p else p
    let taken := if k < 2 then 1 else n
    let bits := q.outBits taken
    let out : PinEng := { q with outSh := q.outSh <<< taken, outCnt := min 32 (q.outCnt + taken) }
    let shout := Instr.shout l x k m
    let starved : Prop := unpacks ∧ p.txq = []
    let reachedIn : Prop := thr = true → u.f (F.LANE_PECTRL.PACK_THR l') + 1 ≤ p.inCnt
    let reachedOut : Prop := thr = true → u.f (F.LANE_PECTRL.UNPACK_THR l') + 1 ≤ p.outCnt
    let push : BitVec 8 := z6 ++ BitVec.ofBool thr ++ 0#1
    let pushN : BitVec 8 := z6 ++ BitVec.ofBool thr ++ 1#1
    (at_ 2 (k ++ m) → k ≤ 4 → pmode = 1 → packs → full → stalls shin) ∧
    (at_ 2 (k ++ m) → k ≤ 4 → ¬ packs ∨ pmode = 0 → Holds shin s fun t => (∃ bs, source bs ∧ t.pin l' = after (p.shiftIn bs)) ∧
      OnlyPieces [.free, .pins] u t) ∧
    (at_ 2 (k ++ m) → k ≤ 4 → pmode ≠ 0 → packs → ¬ full → Holds shin s fun t =>
      (∃ bs, source bs ∧ t.pin l' = after (pushed (p.shiftIn bs))) ∧ OnlyPieces [.free, .pins] u t) ∧
    (at_ 2 (k ++ m) → k ≤ 4 → 1 < pmode → packs → full → Holds shin s fun t =>
      (∃ bs, source bs ∧ t.pin l' = after (pushed (p.shiftIn bs))) ∧ overflows t) ∧
    (at_ 3 (k ++ m) → k ≤ 4 → umode = 1 → starved → stalls shout) ∧
    (at_ 3 (k ++ m) → ¬ starved →
      (k = 0 → done shout { out with codec := { q.codec with txBit := some (q.outSh.getLsbD 31) } }) ∧
      (k = 1 → done shout { out with drive := .pin (q.outSh.getLsbD 31) }) ∧ (k = 2 → done shout out) ∧
      (k = 3 → 8 ≤ n → done shout { out with x := bits.foldl (fun x b => (x <<< 1) ||| BitVec.ofNat 8 b.toNat) 0 }) ∧
      (k = 3 → n < 8 → Holds shout s fun t => (∃ x : Byte, t.pin l' = after { out with x := x } ∧
        ∀ i < n, x.getLsbD (n - 1 - i) = bits.getD i false) ∧ OnlyPieces [.free, .pins] u t) ∧
      (k = 4 → done shout (out.shiftIn bits))) ∧
    (at_ 3 (k ++ m) → k = 2 → 1 < umode → starved → Holds shout s fun t => t.pin l' = after out ∧ underruns t) ∧
    (at_ 4 push → reachedIn → ¬ full → done (.push l x thr) (pushed p)) ∧
    (at_ 4 push → reachedIn → full → stalls (.push l x thr)) ∧
    (at_ 4 push → ¬ reachedIn → done (.push l x thr) p) ∧
    (at_ 4 pushN → reachedIn → ¬ full → done (.pushN l x thr) (pushed p)) ∧
    (at_ 4 pushN → reachedIn → full → Holds (.pushN l x thr) s fun t => t.pin l' = after (pushed p) ∧ overflows t) ∧
    (at_ 4 pushN → ¬ reachedIn → done (.pushN l x thr) p) ∧
    (at_ 5 push → reachedOut → p.txq = w :: ws → done (.pull l x thr) { p with txq := ws, outSh := w, outCnt := 0 }) ∧
    (at_ 5 push → reachedOut → p.txq = [] → stalls (.pull l x thr)) ∧
    (at_ 5 push → ¬ reachedOut → done (.pull l x thr) p) ∧
    (at_ 5 pushN → reachedOut → p.txq = w :: ws → done (.pullN l x thr) { p with txq := ws, outSh := w, outCnt := 0 }) ∧
    (at_ 5 pushN → reachedOut → p.txq = [] → Holds (.pullN l x thr) s fun t => t.pin l' = after p ∧ underruns t) ∧
    (at_ 5 pushN → ¬ reachedOut → done (.pullN l x thr) p) ∧
    ((s.pin l').running = true → ∀ v b : Bool,
      let g := s.pin l'
      let r := v && !s.dark l'
      let tap := 0x1002A4 + l' * 0x800
      let seen (y : PinSeen) (q : PinEng) : Prop := (s.pinSee l' [y]).pin l' = q
      seen (.sample v b) { g with codec := g.codec.sample g.rxd r b, dbit := if g.codec.stuffed b then g.dbit else r, rxd := r,
                                  idle := if r then min 11 (g.idle + 1) else 0 } ∧
      (s.pinSee l' [.sample v b]).reg tap =
        (if s.fb (F.LANE_PECTRL.TAP_FROZEN l') then s.reg tap else (s.reg tap <<< 1) ||| BitVec.ofNat 32 r.toNat) ∧
      seen (.wrote w) { g with txq := (g.txq ++ [w]).take 8 } ∧
      (∀ y ys, g.crossing = y :: ys → seen .crossed (match y with
        | none => { g with crossing := ys, arrived := g.arrived + 1 }
        | some e => { g with crossing := ys, events := g.events ++ [e] })) ∧
      (0 < g.arrived → seen .took { g with rxq := g.rxq.drop 1, arrived := g.arrived - 1 }) ∧ (g.arrived = 0 → seen .took g) ∧
      seen .heard { g with events := g.events.drop 1 })

/-- The commands wait for the next bit boundary, where the codec carries them out: its CRCs (kinds 6 and 7 taken as 0), its
stuffing, what it sends and checks, the phase, the error flag and the delay measurement. A bit that takes a data bit takes
the next of the CRC that is sent, or the transmit bit, and counts BIT_LATE where none was given. A switch written by the
quad's own engine, or for a lane in OFF, is set pending, takes place at once at LOOP_START of the other bank (in place of
one that is due in its lt), or is withdrawn; from anyone else it is ignored and counts. A pending switch takes place when
the instruction at LOOP_END is over. A program word of the bank that runs is not written: PROG_WR_ACTIVE, and the write
counts; any other is written and intact again. This statement rests on choices of the model: log 10, 66, 105 and 124. -/
def Obligations.PinCodecAndBanks : Prop :=
  ∀ (s : State) (l : LaneId) (y : PinArg) (k : BitVec 3) (h : Unit) (z1 : BitVec 1) (z4 : BitVec 4) (w : Agent) (g : Fn)
    (i : Fin 32) (v : Word), Sane s →
    let l' := l.val
    let p := s.pin l'
    let u := s.pinSee l' y.seen
    let at_ (arg : BitVec 8) : Prop := u.pinAt l' (8#4 ++ y.dl ++ arg)
    let gives (c : Instr) (x : CodecCmd) : Prop :=
      PinIs c s u l' (u.pinAfter l' y.dl { u.pin l' with codec := { (u.pin l').codec with cmds := (u.pin l').codec.cmds ++ [x] } } none) [.pins]
    let x := p.codec
    let kind := if k.toNat < 6 then k.toNat else 0
    let bits (n : Nat) := Tab.get (fun _ => []) x.crcs n
    let other := 1 - s.runBank l'
    let pend (t : State) : Bool := t.fb (F.LANE_PEBANK.SW_PEND l')
    let calm : Prop := p.running = false ∨ p.ended = false ∨ pend s = false ∨ s.now < p.busyUntil
    let may : Prop := s.mayWrite w = true ∧ ((∃ e, w = .engine e ∧ e.val = l' / 4) ∨ s.laneSt l' = St.off)
    let mayNot : Prop := s.mayWrite w = true ∧ (∀ e, w = .engine e → e.val ≠ l' / 4) ∧ s.laneSt l' ≠ St.off
    let counts (t : State) (n : Nat) : Prop := w = .host g → t.clampCount g.val = s.clampCount' g.val n
    let word := 0x100300 + l' * 0x800 + 4 * i.val
    let runsIt : Prop := p.running = true ∧ s.runBank l' = i.val / 16
    (at_ (z1 ++ k ++ 0#4) → gives (.crcReset l y k) (.crcReset kind)) ∧
    (at_ (z4 ++ 1#4) → gives (.stuffDyn l y) (.stuff 1)) ∧
    (at_ (z4 ++ 2#4) → gives (.stuffFixedFd l y) (.stuff 2)) ∧
    (at_ (z4 ++ 3#4) → gives (.stuffFixedXl l y) (.stuff 3)) ∧
    (at_ (z4 ++ 4#4) → gives (.stuffOff l y) (.stuff 4)) ∧
    (at_ (z1 ++ k ++ 5#4) → gives (.crcSend l y k) (.crcSend kind)) ∧
    (at_ (z1 ++ k ++ 6#4) → gives (.crcCheck l y k h) (.crcCheck kind)) ∧
    (at_ (z4 ++ 7#4) → gives (.phaseData l y) (.data true)) ∧
    (at_ (z4 ++ 8#4) → gives (.phaseNominal l y) (.data false)) ∧
    (at_ (z4 ++ 9#4) → gives (.errClear l y) .errClear) ∧
    (at_ (z4 ++ 10#4) → gives (.tdcStart l y) .tdcStart) ∧
    (p.running = true → ∀ v take,
      let t := s.pinSee l' [.bit v take]
      let c := (t.pin l').codec
      c.cmds = [] ∧
      (x.cmds = [] → (take = false → c = x) ∧
        (take = true → (∀ b bs, x.crcOut = b :: bs → c = { x with crcOut := bs }) ∧
          (x.crcOut = [] → c = { x with txBit := none } ∧ (x.txBit = none → t.fb (F.LANE_PESTAT.BIT_LATE l') = true)))) ∧
      (take = false →
        (∀ n, x.cmds = [.crcReset n] → Tab.get (fun _ => []) c.crcs n = []) ∧
        (∀ m, x.cmds = [.stuff m] → c = { x with stuff := m, run := 0, cmds := [] }) ∧
        (∀ n, x.cmds = [.crcSend n] → c = { x with crcOut := Config.crcBits n (bits n), cmds := [] }) ∧
        (∀ n, x.cmds = [.crcCheck n] → c = { x with err := x.err || !Config.crcOk n (bits n), cmds := [] }) ∧
        (∀ b, x.cmds = [.data b] → c = { x with data := b, cmds := [] }) ∧
        (x.cmds = [.errClear] → c = { x with err := false, cmds := [] }) ∧
        (x.cmds = [.tdcStart] → c = { x with tdc := true, cmds := [] }))) ∧
    (may → calm → Holds (.switchAtEnd w l) s fun t => pend t = true ∧ OnlyPieces [.regs, .pins] s t ∧
      t.pin l' = { p with ended := p.ended && decide (s.now < p.busyUntil) } ∧ (∀ j, j ≠ l' → t.pin j = s.pin j)) ∧
    (may → calm → Holds (.switchNow w l) s fun t => t.runBank l' = other ∧ pend t = false ∧
      t.pin l' = { p with pc := s.loopStart l' other, stalled := false, ended := false, busyUntil := s.now } ∧
      (t.lane l').waitIdle = (decide (other = 0) || (s.lane l').waitIdle) ∧ OnlyPieces [.regs, .lanes, .pins] s t) ∧
    (may → p.running = true → p.ended = true → pend s = true → p.busyUntil = s.now → Holds (.switchNow w l) s fun t =>
      t.runBank l' = other ∧ pend t = false ∧ (t.pin l').pc = s.loopStart l' other) ∧
    (may → calm → Holds (.switchWithdraw w l) s fun t => pend t = false ∧ t.pins = s.pins ∧ OnlyPieces [.regs] s t) ∧
    (∀ c ∈ [Instr.switchAtEnd w l, .switchNow w l, .switchWithdraw w l], mayNot → calm → Holds c s fun t =>
      counts t 1 ∧ t.runBank l' = s.runBank l' ∧ pend t = pend s ∧ OnlyPieces [.regs] s t) ∧
    (may → ¬ calm → Holds (.switchWithdraw w l) s fun t => t.runBank l' = other ∧ pend t = false ∧
      (t.pin l').pc = s.loopStart l' other) ∧
    (s.mayWrite w = true → calm → ¬ runsIt → Holds (.peprogWrite w l i v) s fun t => t.reg word = v ∧
      (∀ a, a ≠ word → t.reg a = s.reg a) ∧ t.poisoned 5 l' i.val = false ∧ OnlyPieces [.regs, .poison] s t) ∧
    (s.mayWrite w = true → calm → runsIt → Holds (.peprogWrite w l i v) s fun t => t.reg word = s.reg word ∧
      t.fb (F.LANE_PEBANK.PROG_WR_ACTIVE l') = true ∧ counts t 1 ∧ OnlyPieces [.regs] s t)

/-- A step of `ns` beyond STEP_LIMIT without the FORCE key leaves the bases as they are, sets STEP_REFUSED, raises source
840 + n and completes REFUSED, cause STEP_LIMIT. With the key it is applied, sets FORCED, raises the same source and
completes DONE with bit 0 of result word 2 set; a step within the limit is applied and completes DONE with that bit clear,
whatever the key. A step that is applied adds its nanoseconds to the value and to nothing else of the base, is shown in
LAST_STEP, and counts in STEPS; one backward leaves the next release of the channels of the base to the next multiple of
PERIOD. A read of the base in the same local tick still gives the value before the step (R20). -/
def Obligations.TimeSteps : Prop :=
  ∀ (s : State) (f : Fn) (d : Words8), Sane s → Taken s f d 0x51 →
    let n := fieldOf d.w1 0 3
    let ns := signed 64 (pair64 d.w2 d.w3)
    let above : Prop := s.f (F.TB_STEPLIM.STEP_LIMIT n) < ns.natAbs
    let force : Prop := d.w4 = 0x464F5243
    let others (u : State) : Prop := ∀ k, k ≠ n → u.tb k = s.tb k
    let applied (u : State) : Prop :=
      u.tb n = { s.tb n with val := ((((s.tb n).val : Int) + ns * (nsUnit : Int)) % (tbWrap : Int)).toNat, stepped := (u.tb n).stepped } ∧
      others u ∧ u.readVal n = s.readVal n ∧
      u.f (F.TB_LASTSTEP.LAST_STEP n) = pair64 d.w2 d.w3 ∧ u.f (F.TB_STAT.STEPS n) = (s.f (F.TB_STAT.STEPS n) + 1) % 65536 ∧
      (∀ c < 16, u.bd c = if ns < 0 ∧ s.f (F.TB_BDIST.TB c) = n then u.bdMultiple c else s.bd c)
    (above → ¬ force → EndsWith (.tbStep f d) s f d .refused Cause.stepLimit.code 0 fun u =>
      u.fb (F.TB_STAT.STEP_REFUSED n) = true ∧ u.src (840 + n) = (s.src (840 + n)).event ∧
      OnlyPieces [.regs, .irq, .rings] s u) ∧
    (above → force → EndsWith (.tbStep f d) s f d .done 0 1 fun u =>
      applied u ∧ u.fb (F.TB_STAT.FORCED n) = true ∧ u.src (840 + n) = (s.src (840 + n)).event ∧
      OnlyPieces [.time, .regs, .irq, .rings] s u) ∧
    (¬ above → Done (.tbStep f d) s f d fun u =>
      applied u ∧ u.fb (F.TB_STAT.FORCED n) = s.fb (F.TB_STAT.FORCED n) ∧ OnlyPieces [.time, .regs, .rings] s u)

/-- A write of TB_SLEW starts the slew of AMOUNT at RATE held to 1 to 2000, and ends one with AMOUNT 0; at remainder 0 a
running slew ends with SLEW_DONE and source 840 + n. A read of TB_TIME captures the whole base for its reader, as it was
before a step of the same local tick (R20). TB_SET loads the base in the set-up state, and is ignored and counts outside it.
BLOCK_START ends the set-up state and lets time be distributed; BLOCK_STOP stops the distribution and no base. An enabled
channel whose base has passed a multiple of PERIOD enters one sync frame, with the next SEQ, on its lane; the previous one,
pending and not in flight, is replaced and counts in SYNC_LOST. This statement rests on choices of the model: log 1, 6 and
91. -/
def Obligations.TimeBases : Prop :=
  ∀ (s : State) (f : Fn) (d : Words8) (w : Agent) (g : Fn) (r : Agent) (n : TbId) (v : BitVec 64) (x : Word) (c : Fin 16), Sane s →
    let b' := s.tb n.val
    let others (u : State) : Prop := ∀ k, k ≠ n.val → u.tb k = s.tb k
    let counts (t : State) (k : Nat) : Prop := w = .host g → t.clampCount g.val = s.clampCount' g.val k
    let amount := signed 32 (v.extractLsb' 0 32).toNat
    let rate := (v.extractLsb' 32 11).toNat
    let read := s.readVal n.val
    let st := stampOf read
    let all := read % nsUnit / 256 + st.ns * 65536 + st.sec * 281474976710656
    let y := s.setReg (0x40030 + n.val * 0x100) x
    let nanos := y.f (F.TB_SET.NANOSECONDS n.val)
    let m := s.bdMultiple c.val
    let l := s.bdLane c.val
    let b := s.busOf l
    let passed : Prop := s.timeDist = true ∧ s.fb (F.TB_BDIST.EN c.val) = true ∧ m ≠ s.bd c.val
    let seq := (s.f (F.TB_BDSTAT.SEQ c.val) + 1) % 256
    let waiting (e : Entry) : Bool := decide (e.src = .sync c.val) && !e.done && !e.inFlight
    let entered (t : State) (old : List Entry) : Prop := ∃ e, t.bus b = old ++ [e] ∧ e.src = .sync c.val ∧ e.sel = [l] ∧
      e.fr.fmt = (Format.ofCode (s.f (F.TB_BDIST.FORMAT c.val))).getD .cb ∧ e.fr.rtr = false ∧ e.fr.data = [BitVec.ofNat 8 seq] ∧
      e.fr.id = BitVec.ofNat 29 (e.fr.fmt.idMask (s.f (F.TB_BDIST.SYNC_ID c.val))) ∧ (∀ k, k ≠ b → t.bus k = s.bus k) ∧
      t.bd c.val = m ∧ t.f (F.TB_BDSTAT.SEQ c.val) = seq
    (s.mayWrite w = true → Holds (.tbSlewWrite w n v) s fun t =>
      t.tb n.val = { b' with slewRem := amount * (nsUnit : Int) } ∧ others t ∧
      t.f (F.TB_SLEW.RATE n.val) = min 2000 (max 1 rate) ∧ t.fb (F.TB_SLEW.ACTIVE n.val) = !(decide (amount = 0)) ∧
      counts t (if rate < 1 ∨ 2000 < rate then 1 else 0) ∧ OnlyPieces [.time, .regs] s t) ∧
    (s.fb (F.TB_SLEW.ACTIVE n.val) = true → b'.slewRem = 0 → Holds (.slewDone n) s fun t =>
      t.fb (F.TB_SLEW.ACTIVE n.val) = false ∧ t.fb (F.TB_STAT.SLEW_DONE n.val) = true ∧
      t.src (840 + n.val) = (s.src (840 + n.val)).event ∧ OnlyPieces [.regs, .irq] s t) ∧
    (s.fb (F.TB_SLEW.ACTIVE n.val) = false ∨ b'.slewRem ≠ 0 → exec (.slewDone n) s = .next s) ∧
    (s.mayRead r = true → Holds (.tbTimeCapture r n) s fun t => t.readData = BitVec.ofNat 32 all ∧
      (∀ k < 4, t.capWord r k = BitVec.ofNat 32 (all / 2 ^ (32 * k))) ∧ t.tbs = s.tbs ∧ OnlyPieces [.time, .free] s t) ∧
    (s.mayWrite w = true → s.timeUp = false → Holds (.tbSet w n x) s fun t =>
      t.tb n.val = { b' with val := (y.f (F.TB_SET.SECONDS n.val) * secUnit + min 999999999 nanos * nsUnit +
        y.f (F.TB_SET.FRAC n.val) * 256) % tbWrap } ∧ others t ∧
      counts t (if 999999999 < nanos then 1 else 0) ∧ OnlyPieces [.time, .regs] s t) ∧
    (s.mayWrite w = true → s.timeUp = true → Holds (.tbSet w n x) s fun t =>
      counts t 1 ∧ ((∀ h, w ≠ .host h) → t = s) ∧ OnlyPieces [.regs] s t) ∧
    (TakenSub s f d 0x54 1 → Done (.blockStartTimeBases f d) s f d fun u => u.timeUp = true ∧ u.timeDist = true ∧ u.tbs = s.tbs ∧
      (∀ k < 16, u.bd k = if s.timeDist then s.bd k else s.bdMultiple k) ∧ OnlyPieces [.time, .rings] s u) ∧
    (TakenSub s f d 0x55 1 → Done (.blockStopTimeBases f d) s f d fun u => u.timeUp = s.timeUp ∧ u.timeDist = false ∧
      u.tbs = s.tbs ∧ u.bdq = s.bdq ∧ OnlyPieces [.time, .rings] s u) ∧
    (passed → (s.bus b).filter waiting = [] → s.cond l ≠ .down → Holds (.syncRelease c) s fun t =>
      entered t (s.bus b) ∧ t.f (F.TB_BDSTAT.SYNC_LOST c.val) = s.f (F.TB_BDSTAT.SYNC_LOST c.val) ∧
      OnlyPieces [.time, .regs, .tx, .free] s t) ∧
    (∀ e, passed → ((s.bus b).filter waiting).getLast? = some e → e.fid = none → s.cond l ≠ .down → Holds (.syncRelease c) s fun t =>
      entered t ((s.bus b).filter fun z => !(decide (z.id = e.id))) ∧
      t.f (F.TB_BDSTAT.SYNC_LOST c.val) = min (s.f (F.TB_BDSTAT.SYNC_LOST c.val) + 1) 65535 ∧
      OnlyPieces [.time, .regs, .tx, .free] s t) ∧
    (¬ passed → exec (.syncRelease c) s = .next s)

/-- An event written to CIRQUE_DOORBELL (by an engine, or by a function to a source of 1024 and above) adds 1 to COUNT,
which holds at 255 with SAT. A claim at a target the agent may use returns VALID, COUNT and the source that is delivered
there or that selection takes, zeroes COUNT and makes it active there; elsewhere it returns 0. A commit at a ready host
target delivers the offer, writes the message of its vector to the memory of the host and starts moderation again; at an
engine target it is the engine's entry. Once MOD_TIME has passed the target is ready. CIRQUE_SRC takes its fields, TARGET
clamped; a write of CLR alone zeroes COUNT of a source neither active nor delivered. IDLE is set by the target's own
function. A vector whose last block ends is not blocked. This statement rests on choices of the model: log 6, 65 and 101. -/
def Obligations.CirqueCommands : Prop :=
  ∀ (s : State) (w : Agent) (k : TargetId) (n : SrcId) (v : Word),
    (s.mayWrite w = true → (∀ f, w = .host f → 1024 ≤ fieldOf v 0 11) → Holds (.cirqueDoorbell w v) s fun t =>
      t.src (fieldOf v 0 11) = (s.src (fieldOf v 0 11)).event ∧
      (∀ m, m ≠ fieldOf v 0 11 → t.src m = s.src m) ∧ OnlyPieces [.irq] s t) ∧
    (s.mayRead w = true → mayUse w k.val = true →
      (∀ m, (s.deliveredAt k.val = some m ∨ s.deliveredAt k.val = none ∧ (s.select k.val).map Prod.fst = some m) →
        Holds (.cirqueClaim w k) s fun t =>
          t.readData = BitVec.ofNat 32 (2147483648 + (s.src m).count * 65536 + m) ∧ (t.src m).count = 0 ∧
          (t.src m).active = true ∧ (t.src m).delivered = false ∧ (t.src m).at_ = k.val ∧
          (∀ j, j ≠ m → t.src j = s.src j) ∧ OnlyPieces [.free, .irq] s t) ∧
      (s.deliveredAt k.val = none → s.select k.val = none → Holds (.cirqueClaim w k) s fun t =>
        t.readData = 0 ∧ t.srcs = s.srcs)) ∧
    (s.mayRead w = true → mayUse w k.val = false → Holds (.cirqueClaim w k) s fun t => t.readData = 0 ∧ t.srcs = s.srcs) ∧
    (∀ m p, s.boot.mainOn = true → isHostTarget k.val = true → s.offer k.val = some (m, p) → s.vecBlocked k.val = false →
      s.modReady k.val p = true → Holds (.cirqueCommit k) s fun t =>
        (t.src m).delivered = true ∧ (t.src m).at_ = k.val ∧ (t.src m).count = (s.src m).count ∧
        (t.tgt k.val).modEvt = 0 ∧ (t.tgt k.val).commit = some s.now ∧ (t.tgt k.val).idle = false ∧
        t.hostWord (tgtFn k.val) (4 * s.f (F.MSIX.ADDR (tgtFn k.val) (tgtVec k.val))) =
          BitVec.ofNat 32 (s.f (F.MSIX.DATA (tgtFn k.val) (tgtVec k.val))) ∧
        t.f (F.CIRQUE_TCNT.DELIVERIES k.val) = min (s.f (F.CIRQUE_TCNT.DELIVERIES k.val) + 1) 65535) ∧
    (∀ e : EngId, e.val = k.val → (s.offered e.val).isSome = true →
      exec (.cirqueCommit k) s = exec (.interruptEntry e) s) ∧
    ((s.tgt k.val).commit.isSome = true → s.modTimeOver k.val = true → Holds (.modTimeExpiry k) s fun t =>
      (∀ p, t.modReady k.val p = true) ∧ t.srcs = s.srcs) ∧
    (s.mayWrite w = true → Holds (.cirqueSrcWrite w n v) s fun t =>
      (t.src n.val).en = v.getLsbD 31 ∧ (t.src n.val).prio = fieldOf v 12 4 ∧
      (t.src n.val).target = (if 36 ≤ fieldOf v 0 7 ∧ fieldOf v 0 7 < 64 then 35 else min (fieldOf v 0 7) 95) ∧
      (t.src n.val).active = (s.src n.val).active ∧ (t.src n.val).delivered = (s.src n.val).delivered ∧
      (∀ j, j ≠ n.val → t.src j = s.src j) ∧ OnlyPieces [.regs, .irq] s t) ∧
    (s.mayWrite w = true → (s.src n.val).active = false → (s.src n.val).delivered = false → (s.src n.val).target < 96 →
      (s.src n.val).prio < 16 → (s.src n.val).count < 256 → (s.src n.val).target < 36 ∨ 64 ≤ (s.src n.val).target →
      Holds (.sourceClr w n) s fun t => t.src n.val = { s.src n.val with count := 0 } ∧ (∀ j, j ≠ n.val → t.src j = s.src j)) ∧
    (∀ f : Fn, s.hostOpen f.val = true → mayUse (.host f) k.val = true → Holds (.idleWrite f k) s fun t =>
      (t.tgt k.val).idle = true ∧ t.srcs = s.srcs) ∧
    (∀ (f : Fn) (x : Fin 16) (how : Unblock), s.hostOpen f.val = true →
      (how = .enable ∨ (s.func f.val).msixEn = true) → (how = .funcMask ∨ (s.func f.val).msixMask = false) →
      (how = .busMaster ∨ (s.func f.val).busMaster = true) → (how = .entry ∨ s.fb (F.MSIX.MASK f.val x.val) = false) →
      Holds (.msixVectorUnblock f x how) s fun t => t.vecBlocked (64 + 16 * f.val + x.val) = false ∧ t.srcs = s.srcs)

/-- A write of `n` to CIRQUE_COMPLETE of a target by an agent that may write it ends service of source `n` if `n` is active and
was claimed there; otherwise no source changes, BAD_COMPLETE of the target counts, and for a host writer CLAMP_COUNT too. -/
def Obligations.CirqueCompleteEndsService : Prop :=
  ∀ (s : State) (w : Agent) (k : TargetId) (v : Word), s.mayWrite w = true → mayUse w k.val = true →
    let n := fieldOf v 0 11
    ((s.src n).active = true → (s.src n).at_ = k.val → Holds (.cirqueComplete w k v) s fun t =>
      (t.src n).active = false ∧ (t.src n).count = (s.src n).count ∧ (∀ j, j ≠ n → t.src j = s.src j) ∧
      t.regs = s.regs ∧ OnlyPieces [.irq] s t) ∧
    (¬((s.src n).active = true ∧ (s.src n).at_ = k.val) → Holds (.cirqueComplete w k v) s fun t =>
      t.srcs = s.srcs ∧
      t.f (F.CIRQUE_TCNT.BAD_COMPLETE k.val) = min (s.f (F.CIRQUE_TCNT.BAD_COMPLETE k.val) + 1) 65535 ∧
      (∀ f : Fn, w = .host f → t.clampCount f.val = s.clampCount' f.val 1) ∧ OnlyPieces [.regs] s t)

/-- A tail doorbell of an SQ that the function owns sets the tail to the value modulo the ring size, and a value of the ring
size or above counts once; the admin SQ likewise. A head doorbell of a CQ that it owns and that has memory moves the head to
the value modulo the ring size, with the same count, or to the tail, with one count (R7), where that would release more than
was written (R378). A doorbell of a ring that is not the function's is ignored and counts. A tail moved backwards that takes
the descriptors not yet fetched from above LOWWATER to it or below raises source 128 + n (R382). Nothing but the ring and
CLAMP_COUNT changes else. -/
def Obligations.DoorbellsMoveTheRings : Prop :=
  ∀ (s : State) (f : Fn) (n : RingId) (v : Word), s.hostOpen f.val = true →
    let above (size : Nat) : Nat := if v.toNat < size then 0 else 1
    let q := s.sq n.val
    let c := s.cq n.val
    let x := s.func f.val
    let size := 2 ^ c.size
    let asize := 2 ^ s.f (F.HOST_ASQ.SIZE_LOG2 f.val)
    let csize := 2 ^ s.f (F.HOST_ACQ.SIZE_LOG2 f.val)
    let fits (z head tail : Nat) : Prop := (v.toNat % z + z - head) % z ≤ (tail + z - head) % z
    (q.owner = some f.val → Holds (.sqTailDoorbell f n v) s fun t =>
      (t.sq n.val).tail = v.toNat % 2 ^ q.size ∧ (t.sq n.val).head = q.head ∧ (t.sq n.val).owner = q.owner ∧
      (∀ m, m ≠ n.val → t.sq m = s.sq m) ∧ t.cqs = s.cqs ∧ t.funcs = s.funcs ∧
      t.src (128 + n.val) = (if 0 < q.low ∧ q.low < q.waiting ∧ (t.sq n.val).waiting ≤ q.low then (s.src (128 + n.val)).event
        else s.src (128 + n.val)) ∧ (∀ m, m ≠ 128 + n.val → t.src m = s.src m) ∧
      t.clampCount f.val = s.clampCount' f.val (above (2 ^ q.size)) ∧ OnlyPieces [.regs, .rings, .irq] s t) ∧
    (q.owner ≠ some f.val → Holds (.sqTailDoorbell f n v) s fun t =>
      t.clampCount f.val = s.clampCount' f.val 1 ∧ OnlyPieces [.regs] s t) ∧
    (c.owner = some f.val → c.backed = true → Holds (.cqHeadDoorbell f n v) s fun t =>
      (t.cq n.val).tail = c.tail ∧ (t.cq n.val).owner = c.owner ∧ (∀ m, m ≠ n.val → t.cq m = s.cq m) ∧
      t.sqs = s.sqs ∧ t.funcs = s.funcs ∧ OnlyPieces [.regs, .rings] s t ∧
      (fits size c.head c.tail →
        (t.cq n.val).head = v.toNat % size ∧ t.clampCount f.val = s.clampCount' f.val (above size)) ∧
      (¬ fits size c.head c.tail →
        (t.cq n.val).head = c.tail ∧ t.clampCount f.val = s.clampCount' f.val 1)) ∧
    (c.owner ≠ some f.val → Holds (.cqHeadDoorbell f n v) s fun t =>
      t.clampCount f.val = s.clampCount' f.val 1 ∧ OnlyPieces [.regs] s t) ∧
    Holds (.adminSqTailDoorbell f v) s (fun t =>
      (t.func f.val).aTail = v.toNat % asize ∧ (t.func f.val).aHead = x.aHead ∧
      t.clampCount f.val = s.clampCount' f.val (above asize) ∧ OnlyPieces [.regs, .rings] s t) ∧
    Holds (.adminCqHeadDoorbell f v) s (fun t =>
      (t.func f.val).cTail = x.cTail ∧
      (fits csize x.cHead x.cTail →
        (t.func f.val).cHead = v.toNat % csize ∧ t.clampCount f.val = s.clampCount' f.val (above csize)) ∧
      (¬ fits csize x.cHead x.cTail →
        (t.func f.val).cHead = x.cTail ∧ t.clampCount f.val = s.clampCount' f.val 1))

/-- An ADMIN_NOP that SE3 takes completes: the admin SQ's head has moved by one, 32 bytes stand in the admin CQ at its old
tail (status DONE, KIND ADMIN, the ring's PHASE, the head, SQID 0x80, HOST_TAG), the tail has moved and PHASE turns at the
wrap, and source 1012 + f has one event more. An opcode that R399 does not list completes REFUSED with cause OPCODE.
FUNC_ENABLE sets ENABLED and the partner's PARTNER_ENABLED, or is refused with cause STATE where the function is enabled. An
admin command that SE3 cannot take yet (boot has not ended, SE3 is halted, the ring is off or empty, no slot is free), and a
descriptor of another opcode than the command has, changes nothing (the model's reading of a command whose event has not
come, log 6). This statement rests on choices of the model: log 5 and 6. -/
def Obligations.AdminCommandsComplete : Prop :=
  ∀ (s : State) (f : Fn) (d : Words8),
    let x := s.func f.val
    let asize := 2 ^ s.f (F.HOST_ASQ.SIZE_LOG2 f.val)
    let csize := 2 ^ s.f (F.HOST_ACQ.SIZE_LOG2 f.val)
    let at_ := s.f (F.HOST_ACQ.BASE f.val) * 4096 + x.cTail * 32
    let head := (x.aHead + 1) % asize
    let cpl (st cause : Nat) (t : State) : Prop :=
      t.hostWord f.val at_ = BitVec.ofNat 32 (st + 5 * 256 + x.phase.toNat * 2048) ∧
      t.hostWord f.val (at_ + 4) = BitVec.ofNat 32 (head % 65536 + 128 * 65536 + cause * 16777216) ∧
      (∀ k, 2 ≤ k → k ≤ 6 → t.hostWord f.val (at_ + 4 * k) = 0) ∧ t.hostWord f.val (at_ + 28) = d.w7 ∧
      (∀ a, (a < at_ ∨ at_ + 32 ≤ a) → t.hostByte f.val a = s.hostByte f.val a) ∧
      (∀ a, t.hostByte (1 - f.val) a = s.hostByte (1 - f.val) a) ∧
      (t.func f.val).aHead = head ∧ (t.func f.val).cTail = (x.cTail + 1) % csize ∧ (t.func f.val).reserved = x.reserved ∧
      (t.func f.val).phase = (if (x.cTail + 1) % csize = 0 then !x.phase else x.phase) ∧
      t.src (1012 + f.val) = (s.src (1012 + f.val)).event ∧
      (∀ n, n ≠ 1012 + f.val → t.src n = s.src n) ∧ OnlyPieces [.host, .rings, .irq] s t
    (Taken s f d 0 → Holds (.adminNop f d) s (cpl 0x00 0)) ∧
    (∀ op, Taken s f d op → op ≠ 0 → ¬(0x40 ≤ op ∧ op ≤ 0x58) → Holds (.adminOpcodeUnknown f d) s (cpl 0x30 10)) ∧
    (Taken s f d 0x40 → s.fb (F.HOST_CTRL.ENABLED f.val) = false → Done (.funcEnable f d) s f d fun u =>
      u.fb (F.HOST_CTRL.ENABLED f.val) = true ∧ u.fb (F.HOST_CTRL.PARTNER_ENABLED (1 - f.val)) = true ∧
      u.fb (F.HOST_CTRL.ENABLED (1 - f.val)) = s.fb (F.HOST_CTRL.ENABLED (1 - f.val)) ∧
      OnlyPieces [.regs] (s.adminTake f.val) u) ∧
    (Taken s f d 0x40 → s.fb (F.HOST_CTRL.ENABLED f.val) = true → Refuses (.funcEnable f d) s f d .state) ∧
    (∀ (rs : List Rec4) (past : Option Frame), ∀ p ∈ ([
        (.adminNop f d, 0), (.funcEnable f d, 0x40), (.ringCreateCq f d, 0x41), (.ringCreateSq f d, 0x42),
        (.ringDeleteSq f d, 0x43), (.ringDeleteCq f d, 0x43), (.adoptRings f d, 0x44), (.laneStart f d, 0x45),
        (.laneStop f ⟨d, past⟩, 0x46), (.laneSuspend f d, 0x47), (.laneResume f d, 0x48), (.busoffRecover f d, 0x49),
        (.busBind f ⟨d, past⟩, 0x4a), (.txCancel f d, 0x4b), (.txAbort f d, 0x4c), (.fltLoad f d, 0x4d), (.rtLoad f d, 0x4e),
        (.polLoad f d, 0x4f), (.powerMode f d, 0x50), (.tbStep f d, 0x51), (.portEnable f d, 0x52),
        (.portDisable f d, 0x53), (.blockStartTimeBases f d, 0x54), (.blockStartMoraine f d, 0x54),
        (.blockStartStack f d, 0x54), (.blockStartSnowline f d, 0x54), (.blockStopTimeBases f d, 0x55),
        (.blockStopMoraine f d, 0x55), (.blockStopStack f d, 0x55), (.blockStopSnowline f d, 0x55), (.arm f d, 0x56),
        (.trigger f d, 0x56), (.freeze f d, 0x56), (.dump f d, 0x56), (.hringRestart f d, 0x56), (.clear f d, 0x56),
        (.recStatus f d, 0x56), (.routePush f d rs, 0x57), (.epochCommit f d, 0x57), (.handover f d, 0x57),
        (.stackStatus f d, 0x57), (.imageLoad f d, 0x58)] : List (Instr × Nat)),
      s.adminReady f.val = false ∨ d.op ≠ p.2 → exec p.1 s = .next s)

/-- RING_CREATE_CQ of a CQ that is the function's or nobody's, and has no memory of it yet, makes it the function's, empty,
with PHASE 1, its held frames and drops kept; RING_CREATE_SQ of a free SQ whose CQ the function owns and backs makes it the
function's; its doorbell reads 0 until it is written (the model's choice, log 113). RING_DELETE of its own SQ marks it; once
every entry has completed the deletion commits with the aborted entries in word 2 and the SQ is free. RING_DELETE of a CQ
that no SQ names frees it, and ADOPT_RINGS takes every orphan of its range. The refusals of R402 and R406 have no effect.
This statement rests on choices of the model: log 9, 50 and 113. -/
def Obligations.RingCommands : Prop :=
  ∀ (s : State) (f : Fn) (d : Words8), Sane s →
    let n := fieldOf d.w1 0 7
    let a := s.adminTake f.val
    let c := s.cq n
    let q := s.sq n
    let m := fieldOf d.w1 8 7
    let addr := (d.w2.toNat + d.w3.toNat * 2 ^ 32) / 4096 * 4096
    let size := max 4 (min 16 (fieldOf d.w1 16 5))
    (Taken s f d 0x41 → c.home = none ∨ c.home = some f.val → ¬(c.owner = some f.val ∧ c.backed = true) →
      Done (.ringCreateCq f d) s f d fun u =>
        u.cq n = { owner := some f.val, backed := true, base := addr, size := size, bufsz := min 6 (fieldOf d.w1 24 3),
                   held := c.held, drops := c.drops, db := c.db, gen := c.gen, lastDel := c.lastDel } ∧
        (∀ k, k ≠ n → u.cq k = s.cq k) ∧ u.sqs = s.sqs ∧ OnlyPieces [.regs, .rings] s u) ∧
    (Taken s f d 0x41 → c.home = some (1 - f.val) → Refuses (.ringCreateCq f d) s f d .owned) ∧
    (Taken s f d 0x41 → c.home = some f.val → c.owner = some f.val → c.backed = true → Refuses (.ringCreateCq f d) s f d .state) ∧
    (Taken s f d 0x42 → q.deleting = none → q.owner = none → (s.cq m).owner = some f.val → (s.cq m).backed = true →
      Done (.ringCreateSq f d) s f d fun u =>
        u.sq n = { owner := some f.val, base := addr, size := size, cq := m, low := min (2 ^ size - 1) (fieldOf d.w4 0 16) } ∧
        (∀ k, k ≠ n → u.sq k = s.sq k) ∧ u.cqs = s.cqs ∧ OnlyPieces [.regs, .rings] s u) ∧
    (Taken s f d 0x42 → q.deleting = none → q.owner = some (1 - f.val) → Refuses (.ringCreateSq f d) s f d .owned) ∧
    (Taken s f d 0x42 → q.deleting = none → q.owner = some f.val → Refuses (.ringCreateSq f d) s f d .state) ∧
    (Taken s f d 0x42 → q.deleting = none → q.owner = none → ¬((s.cq m).owner = some f.val ∧ (s.cq m).backed = true) →
      Refuses (.ringCreateSq f d) s f d .notFound) ∧
    (Taken s f d 0x43 → d.w1.getLsbD 8 = false → q.deleting = none → q.owner ≠ some f.val →
      Refuses (.ringDeleteSq f d) s f d .notFound) ∧
    (Taken s f d 0x43 → d.w1.getLsbD 8 = false → q.deleting = none → q.owner = some f.val →
      exec (.ringDeleteSq f d) s =
        .next (((a.sqExpireDue n).modSq n fun q => { q with deleting := some (refOf f d) }).markSq n .delete)) ∧
    (∀ c, (c = .ringCreateSq f d ∧ Taken s f d 0x42) ∨ (c = .ringDeleteSq f d ∧ Taken s f d 0x43 ∧ d.w1.getLsbD 8 = false) →
      q.deleting.isSome = true → exec c s = .next (a.withHeld (s.held ++ [⟨f.val, d⟩]))) ∧
    (Taken s f d 0x43 → d.w1.getLsbD 8 = false → q.deleting = none → q.owner = some f.val → s.fetched = [] →
      s.sqEntries n = [] → (∀ e < 4, (s.eth e).queue = [] ∧ (s.eth e).wire = none) →
      Holds (.ringDeleteSq f d) s fun t =>
        t.sq n = { q with deleting := some (refOf f d) } ∧ (∀ k, k ≠ n → t.sq k = s.sq k) ∧ t.cqs = s.cqs ∧ t.buses = s.buses) ∧
    (∀ (k : RingId) (r : AdminRef), (s.sq k.val).deleting = some r → s.sqDrained k.val = true →
      (∀ h ∈ s.held, isSqOp h.d = false ∨ ringOf h.d ≠ k.val) →
      ∃ u, exec (.ringDeleteSqCommit k) s =
          .next (u.adminCpl r .done 0 (BitVec.ofNat 32 ((s.sq k.val).aborted % 65536)) 0 0 0 0) ∧
        u.sq k.val = {} ∧ (∀ j, j ≠ k.val → u.sq j = s.sq j) ∧ OnlyPieces [.rings] s u) ∧
    (Taken s f d 0x43 → d.w1.getLsbD 8 = true → c.owner = some f.val → (∀ k < 128, (s.sq k).owner = none ∨ (s.sq k).cq ≠ n) →
      Done (.ringDeleteCq f d) s f d fun u =>
        (u.cq n).owner = none ∧ (u.cq n).held = [] ∧ (u.cq n).posted = [] ∧ (u.cq n).drops = c.drops + c.held.length ∧
        (∀ k, k ≠ n → u.cq k = s.cq k) ∧ u.sqs = s.sqs) ∧
    (Taken s f d 0x43 → d.w1.getLsbD 8 = true → c.owner ≠ some f.val → Refuses (.ringDeleteCq f d) s f d .notFound) ∧
    (∀ k, Taken s f d 0x43 → d.w1.getLsbD 8 = true → c.owner = some f.val → k < 128 → (s.sq k).owner.isSome = true →
      (s.sq k).cq = n → Refuses (.ringDeleteCq f d) s f d .state) ∧
    (∀ k, Taken s f d 0x44 → k ≤ m → n + k < 128 → (s.cq (n + k)).orphan.isSome = true →
      ∃ w : Word, w ≠ 0 ∧ EndsWith (.adoptRings f d) s f d .done 0 w fun u =>
        (∀ j, n ≤ j → j ≤ n + m → j < 128 → (s.cq j).orphan.isSome = true →
          u.cq j = { s.cq j with owner := some f.val, orphan := none }) ∧
        (∀ j, (s.cq j).orphan = none → u.cq j = s.cq j) ∧ u.sqs = s.sqs) ∧
    (Taken s f d 0x44 → (∀ j, n ≤ j → j ≤ n + m → j < 128 → (s.cq j).orphan = none) → Refuses (.adoptRings f d) s f d .notFound)

/-- A NOP that can be fetched completes DONE with KIND NOP, and an opcode that no I/O SQ accepts does so too and counts
once. RXBUF posts COUNT buffers of BUFSZ bytes, one after another, tags from HOST_TAG on, to a CQ that the function owns and
backs, and completes with the number posted; for another CQ it posts none. ETH_TX, while fewer than 64 are queued at the
port and none waits for admission there, waits for its payload with its length clamped; at a port whose hold is over it
completes LANE_DOWN. This statement rests on choices of the model: log 6 and 58. -/
def Obligations.DescriptorsComplete : Prop :=
  ∀ (s : State) (n : RingId) (f : Fn) (d : Words8), Fetchable s n.val f.val →
    let p := fieldOf d.w0 16 7
    let e := fieldOf d.w0 16 2
    let k := max 1 (min 256 (fieldOf d.w1 0 9))
    let clamped (b : Bool) : Nat := b.toNat
    (d.op = 0 → Holds (.ioNop n d) s fun t =>
      Retires s t n.val f.val (6 * 256) 0 d.w7 ∧ t.clampCount f.val = s.clampCount f.val ∧
      OnlyPieces [.regs, .host, .rings, .irq] s t) ∧
    (3 < d.op → Holds (.ioNop n d) s fun t =>
      Retires s t n.val f.val (6 * 256) 0 d.w7 ∧ t.clampCount f.val = s.clampCount' f.val 1 ∧
      OnlyPieces [.regs, .host, .rings, .irq] s t) ∧
    (d.op = 3 → (s.cq p).owner = some f.val → (s.cq p).backed = true → (s.cq p).posted.length + k ≤ 4095 →
      Holds (.rxbuf n d) s fun t =>
        Retires s t n.val f.val (p * 65536 + 4 * 256) (BitVec.ofNat 32 k) d.w7 ∧
        (t.cq p).posted = (s.cq p).posted ++ (List.range k).map (fun i =>
          ⟨d.w4.toNat + d.w5.toNat * 2 ^ 32 + i * (64 * 2 ^ (s.cq p).bufsz), d.w7 + BitVec.ofNat 32 i⟩) ∧
        t.clampCount f.val = s.clampCount' f.val (clamped (decide (k ≠ fieldOf d.w1 0 9))) ∧
        OnlyPieces [.regs, .host, .rings, .irq] s t) ∧
    (d.op = 3 → (s.cq p).owner ≠ some f.val ∨ (s.cq p).backed = false → Holds (.rxbuf n d) s fun t =>
      Retires s t n.val f.val (p * 65536 + 4 * 256) 0 d.w7 ∧ (t.cq p).posted = (s.cq p).posted ∧
      OnlyPieces [.regs, .host, .rings, .irq] s t) ∧
    (d.op = 2 → s.ethQueued e < 64 → s.admissionWaits f.val (32 + e) = false → (s.eth e).holdOver = false →
      Holds (.ethTx n d) s fun t =>
        (∃ x, t.fetched = s.fetched ++ [x] ∧ x.sq = n.val ∧ x.f = f.val ∧ x.eth = some e ∧ x.tag = d.w7 ∧ x.data = none ∧
          x.len = max 14 (min 9600 (fieldOf d.w2 0 14)) ∧ x.tsReq = d.w0.getLsbD 9) ∧
        t.sq n.val = { s.sq n.val with head := ((s.sq n.val).head + 1) % 2 ^ (s.sq n.val).size } ∧
        OnlyPieces [.regs, .rings, .tx, .irq] s t) ∧
    (d.op = 2 → s.ethQueued e < 64 → s.admissionWaits f.val (32 + e) = false → (s.eth e).holdOver = true →
      Holds (.ethTx n d) s fun t =>
        Retires s t n.val f.val (e * 65536 + 2 * 256 + 0x14) 0 d.w7 ∧ OnlyPieces [.regs, .host, .rings, .irq] s t)

/-- A TX descriptor that can be fetched, of the SQ whose turn it is among those that hold descriptors for the bus, on a bus
with fewer than TXO_DEPTH outstanding and no earlier payload waiting, gives the turn to the next SQ. With an inline payload
that finds room it crosses Col, and else it waits for its payload; where the quad's engine has halted it completes
LANE_DOWN. When the payload has been read it crosses Col if it finds room, and waits behind an earlier one otherwise; a
grant lets the first that waits at a port cross. Its cells are charged to its port in class TC2. With its last cell a
descriptor enters the order of its bus, with its frame, ONE_SHOT and lanes and a copy for each of those lanes that carries
or holds; one of an Ethernet port enters the queue of the port. This statement rests on choices of the model: log 6, 58 and
91. -/
def Obligations.DescriptorsEnterTheOrder : Prop :=
  ∀ (s : State) (n : RingId) (f : Fn) (d : Words8) (rivals : List RingId) (x : Fetched) (xs : List Fetched) (data : List Byte),
    let c := Instr.tx n ⟨d, rivals⟩
    let y := (s.txTake n.val d).1
    let b := s.txBus d
    let fetch : Prop := Fetchable s n.val f.val ∧ s.isTurn b n.val rivals = true ∧ d.op = 1 ∧ s.outstanding b < s.f (F.LANE_HOLD.TXO_DEPTH b) ∧
      s.admissionWaits f.val (b / 4) = false
    let runs : Prop := (s.eng (b / 4)).halted = false
    let moved (t : State) : Prop :=
      t.sq n.val = { s.sq n.val with head := ((s.sq n.val).head + 1) % 2 ^ (s.sq n.val).size } ∧
      (t.cq (s.sq n.val).cq).reserved = (s.cq (s.sq n.val).cq).reserved + 1 ∧ t.turn b = (n.val + 1) % 128 ∧
      t.clampCount f.val = s.clampCount' f.val (s.txTake n.val d).2
    let crosses (t : State) (z : Fetched) (before : List Fetched) : Prop := Crosses s t z data ∧
      t.fetched = before ++ [{ z with data := some data, fid := some s.nextFid }]
    let reads (z : Fetched) : Prop := z.sq = n.val ∧ z.data = none ∧ z.len = data.length
    (fetch → runs → y.data = none → Holds c s fun t =>
      t.fetched = s.fetched ++ [y] ∧ moved t ∧ OnlyPieces [.regs, .rings, .tx, .irq] s t) ∧
    (fetch → runs → y.data = some data → RoomFor s y data → Holds c s fun t => crosses t y s.fetched ∧ moved t) ∧
    (fetch → (s.eng (b / 4)).halted = true → Holds c s fun t => Retires s t n.val f.val (b % 128 * 65536 + 0x14) 0 d.w7 ∧
      t.turn b = (n.val + 1) % 128 ∧ t.clampCount f.val = s.clampCount' f.val (s.txTake n.val d).2 ∧
      OnlyPieces [.regs, .host, .rings, .tx, .irq] s t) ∧
    (s.isTurn b n.val rivals = false → exec c s = .next s) ∧
    (y.sq = n.val ∧ y.bus = b ∧ y.tag = d.w7 ∧ y.oneShot = d.w0.getLsbD 8 ∧ y.tsReq = d.w0.getLsbD 9 ∧
      y.dl.isSome = d.w0.getLsbD 11 ∧ (y.fr.fmt.ext = true → y.fr.id.toNat = fieldOf d.w1 0 29) ∧
      (y.fr.fmt.ext = false → y.fr.id.toNat = fieldOf d.w1 0 11)) ∧
    (s.fetched = x :: xs → reads x → s.admissionWaits x.f x.port = false → RoomFor s x data →
      Holds (.txPayloadReadDone n data) s fun t => crosses t x xs) ∧
    (s.fetched = x :: xs → reads x → (∃ z ∈ xs, z.data.isSome = true ∧ z.fid = none ∧ z.f = x.f ∧ z.port = x.port) →
      exec (.txPayloadReadDone n data) s = .next (s.withFetched (xs ++ [{ x with data := some data }]))) ∧
    (∀ p : ColPort, s.fetched = x :: xs → x.data = some data → x.fid = none → x.port = p.val → RoomFor s x data →
      Holds (.waitingAdmissionGrant p) s fun t => crosses t x xs) ∧
    (∀ k v, f.val = x.f → x.port < 36 → s.ctqs = [] → s.voqs = [(((36 + f.val) * 40 + x.port) * 4 + 2, [v])] → v.left = 1 →
      v.what = .desc → v.fid = k → s.fetched = x :: xs → x.fid = some k → x.data = some data → Holds .colSlot s fun t =>
        t.voqs = [] ∧ t.fetched = xs ∧
        (x.eth = none → (∃ l ∈ x.lanes, s.cond l ≠ .down) → Entered s t x data k) ∧
        (∀ e, x.eth = some e → (s.eth e).holdOver = false → ∃ g : Egress, (t.eth e).queue = (s.eth e).queue ++ [g] ∧ g.tc = 2 ∧
          g.fid = some k ∧ g.deadline.isSome = x.dl.isSome ∧ g.kind = .desc { x with data := some data, fid := none }))

/-- The frame at the front of a CQ that has memory and a free slot is completed. A frame of up to 8 payload bytes uses no
buffer: eight words stand at the old tail with the frame's words, its stamp and payload. A longer frame that one buffer
takes has its payload there and the buffer's tag in its completion. The count of drops goes with it. The tail moves, and the
CQ's source has one event more. With no memory, no free slot or too few buffers, while a frame of the CQ that became valid
earlier is still on its way, or while the slots that the host releases in this lt are the SQs' (R407), the frame stays held.
This statement rests on choices of the model: log 23, 47 and 99. -/
def Obligations.ReceiveCompletion : Prop :=
  ∀ (s : State) (n : RingId) (f : Fn) (x : RxItem) (xs : List RxItem) (b : Buf) (bs : List Buf),
    let c := s.cq n.val
    let at_ := c.base + c.tail * 32
    let w0 (st : Nat) (inl : Nat) : Word := BitVec.ofNat 32 (st + (if x.eth then 3 else 1) * 256 + c.phase.toNat * 2048 +
      inl * 4096 + x.laneB.toNat * 8192 + 16384 + x.bus % 128 * 65536)
    let st : Nat := if 0 < c.drops then 0x20 else 0
    let drops := min c.drops 65535
    let ready : Prop := c.held = x :: xs ∧ c.owner = some f.val ∧ s.framePoisoned x.fid = false ∧ c.backed = true ∧
      c.freeSlots ≠ 0 ∧ s.cqBehind n.val x.seq = false ∧ s.fetchFirst n.val = false
    let moved (t : State) (post : List Buf) : Prop :=
      (t.cq n.val).held = xs ∧ (t.cq n.val).posted = post ∧ (t.cq n.val).tail = (c.tail + 1) % 2 ^ c.size ∧
      (t.cq n.val).drops = 0 ∧ t.src n.val = (s.src n.val).event ∧
      OnlyPieces [.regs, .host, .rings, .firn, .irq] s t
    (ready → x.inl = true → x.xl = false → x.eth = false → Holds (.rxCompletionWrite n) s fun t =>
      t.hostWords f.val at_ 8 = [w0 st 1, x.w1, x.w2, BitVec.ofNat 32 drops, BitVec.ofNat 32 x.stamp.ns,
        BitVec.ofNat 32 x.stamp.sec, payWord x.data 0, payWord x.data 1] ∧ moved t c.posted) ∧
    (ready → x.inl = false → 0 < x.data.length → x.data.length ≤ 64 * 2 ^ c.bufsz → c.posted = b :: bs →
      (b.addr + x.data.length ≤ at_ ∨ at_ + 32 ≤ b.addr) → Holds (.rxCompletionWrite n) s fun t =>
        t.hostWords f.val at_ 8 = [w0 st 0, x.w1, x.w2, (if x.eth then 0 else if x.xl then x.af else 0),
          BitVec.ofNat 32 x.stamp.ns, BitVec.ofNat 32 x.stamp.sec, BitVec.ofNat 32 (1 + drops * 65536), b.tag] ∧
        (∀ i, (h : i < x.data.length) → t.hostByte f.val (b.addr + i) = x.data[i]) ∧ moved t bs) ∧
    (c.held = x :: xs → s.framePoisoned x.fid = false →
      c.backed = false ∨ c.freeSlots = 0 ∨ s.cqBehind n.val x.seq = true ∨ s.fetchFirst n.val = true ∨
        (x.inl = false ∧ c.posted.length * (64 * 2 ^ c.bufsz) < x.data.length) →
      exec (.rxCompletionWrite n) s = .next s)

/-- FLR and the loss of a function's link reset the function (premise: tables in canonical form, no command held back). Its
SQs are free, its CQs are orphans that keep their held frames and counts of drops, and no other ring changes. No descriptor
of it is left before the transmit orders, no object lock is its, and no source is claimed or delivered at its targets.
ENABLED, the other's PARTNER_ENABLED and its admin indices are as after reset, RESETS counts and wraps, source 1022 + f is
raised, and a recorder on its rings shows HOST_LOST. The link counts as lost after the loss only. A link that comes up opens
the function. This statement rests on choices of the model: log 25, 59 and 114. -/
def Obligations.FunctionReset : Prop :=
  ∀ (s : State) (f : Fn), Sane s →
    let clean (link : Bool) (t : State) : Prop :=
      t.func f.val = { link := link } ∧ t.func (1 - f.val) = s.func (1 - f.val) ∧
      (∀ n, n < 128 → t.sq n = if (s.sq n).owner = some f.val then {} else s.sq n) ∧
      (∀ n, n < 128 → t.cq n = if (s.cq n).owner = some f.val then
        { orphan := some f.val, bufsz := (s.cq n).bufsz, held := (s.cq n).held, drops := (s.cq n).drops, gen := (s.cq n).gen,
          lastDel := (s.cq n).lastDel } else s.cq n) ∧
      (∀ x ∈ t.fetched, x.f ≠ f.val) ∧ (∀ k x, (t.obj k).lock = some x → x.f ≠ f.val) ∧
      (∀ n, 64 + 16 * f.val ≤ (s.src n).at_ → (s.src n).at_ < 80 + 16 * f.val →
        (t.src n).active = false ∧ (t.src n).delivered = false) ∧
      t.fb (F.HOST_CTRL.ENABLED f.val) = false ∧ t.fb (F.HOST_CTRL.PARTNER_ENABLED (1 - f.val)) = false ∧
      t.fb (F.HOST_CTRL.ADMIN_EN f.val) = false ∧ t.clampCount f.val = 0 ∧
      t.f (F.HOST_FUNCCNT.RESETS f.val) = (s.f (F.HOST_FUNCCNT.RESETS f.val) + 1) % 65536 ∧
      (t.src (1022 + f.val)).count ≠ 0 ∧ (s.f F.MOR_CTRL.HFUNC = f.val → t.fb F.MOR_STAT.HOST_LOST = true)
    (s.held = [] → Holds (.flr f) s (clean (s.func f.val).link)) ∧
    (s.held = [] → Holds (.funcLinkLoss f) s (clean false)) ∧
    (s.boot.mainOn = true → Holds (.pcieLinkUp f) s fun t =>
      t.func f.val = { s.func f.val with link := true } ∧ t.func (1 - f.val) = s.func (1 - f.val) ∧ OnlyPieces [.rings] s t)

/-- TX_CANCEL and TX_ABORT of an SQ that is not the function's are refused NOT_FOUND, as is a cancel of a tag that no entry
has. An entry with no copy in flight leaves the order and completes CANCELLED or ABORTED before the command's own DONE; one
with a copy in flight keeps only what is in flight, with the first mark. An abort counts what it reached. A deadline that
has passed does the same with EXPIRED, before a cancel or an abort of the same lt, and counts N_EXPIRED; before it nothing
happens. A trailing copy whose time is over is removed and counts. This statement rests on choices of the model: log 24, 50,
86 and 90. -/
def Obligations.EntriesAreTakenBack : Prop :=
  ∀ (s : State) (f : Fn) (d : Words8) (b : Nat) (e : Entry) (ts : Bool) (l : LaneId) (dst : Fin 132), Sane s →
    let n := fieldOf d.w1 0 7
    let a := s.adminTake f.val
    let due : Prop := s.ranOut? e.deadline = true
    let only : Prop := s.sqEntries n = [(b, e)] ∧ s.fetched = [] ∧ (∀ k < 4, (s.eth k).queue = [] ∧ (s.eth k).wire = none)
    let alone : Prop := only ∧ ¬ due
    let none_ : Prop := s.sqEntries n = [] ∧ s.fetched = [] ∧ (∀ k < 4, (s.eth k).queue = [] ∧ (s.eth k).wire = none)
    (Taken s f d 0x4B → (s.sq n).owner ≠ some f.val → Refuses (.txCancel f d) s f d .notFound) ∧
    (Taken s f d 0x4C → (s.sq n).owner ≠ some f.val → Refuses (.txAbort f d) s f d .notFound) ∧
    (Taken s f d 0x4B → (s.sq n).owner = some f.val → none_ → Refuses (.txCancel f d) s f d .notFound) ∧
    (Taken s f d 0x4C → (s.sq n).owner = some f.val → none_ → EndsWith (.txAbort f d) s f d .done 0 0 fun u =>
      OnlyPieces [] a u) ∧
    (Taken s f d 0x4B → (s.sq n).owner = some f.val → alone → e.src = .desc n f.val d.w2 ts → e.inFlight = true →
      Done (.txCancel f d) s f d fun u => Marked a u b e.id .cancel) ∧
    (Taken s f d 0x4B → (s.sq n).owner = some f.val → alone → e.src = .desc n f.val d.w2 ts → e.inFlight = false →
      Done (.txCancel f d) s f d fun u => Gone a u b e.id ∧ TxTold a u b e .cancelled) ∧
    (Taken s f d 0x4C → (s.sq n).owner = some f.val → alone → e.inFlight = true →
      EndsWith (.txAbort f d) s f d .done 0 1 fun u => Marked a u b e.id .abort) ∧
    (Taken s f d 0x4C → (s.sq n).owner = some f.val → alone → e.inFlight = false →
      EndsWith (.txAbort f d) s f d .done 0 1 fun u => Gone a u b e.id ∧ TxTold a u b e .aborted) ∧
    (Taken s f d 0x4B → (s.sq n).owner = some f.val → only → due → e.src = .desc n f.val d.w2 ts → e.inFlight = false →
      EndsWith (.txCancel f d) s f d .refused Cause.notFound.code 0 fun u => Gone a u b e.id ∧ TxTold a u b e .expired) ∧
    (Taken s f d 0x4C → (s.sq n).owner = some f.val → only → due → e.inFlight = false →
      EndsWith (.txAbort f d) s f d .done 0 0 fun u => Gone a u b e.id ∧ TxTold a u b e .expired) ∧
    (dst.val < 128 → s.entry dst.val e.id = some e → due → e.done = false → e.inFlight = false →
      Holds (.deadlineExpiry dst e.id) s fun t => Gone s t dst.val e.id ∧ TxTold s t dst.val e .expired ∧
        t.f (F.LANE_TXO.N_EXPIRED dst.val) = min (s.f (F.LANE_TXO.N_EXPIRED dst.val) + 1) 65535) ∧
    (dst.val < 128 → s.entry dst.val e.id = some e → due → e.done = false → e.inFlight = true →
      Holds (.deadlineExpiry dst e.id) s fun t =>
        (∀ x ∈ t.bus dst.val, x.id = e.id → x.expired = true ∧ ∀ c ∈ x.copies, c.inFlight = true) ∧ OnlyPieces [.tx] s t) ∧
    (dst.val < 128 → s.entry dst.val e.id = some e → ¬ due →
      exec (.deadlineExpiry dst e.id) s = .next s) ∧
    (∀ c, s.entry (s.busOf l.val) e.id = some e → e.copyOn l.val = some c → c.trail = true → c.inFlight = false →
      s.ranOut? c.trailDue = true → Holds (.trailMsExpiry l e.id) s fun t =>
        t.f (F.LANE_PAIRTX.TRAIL_LOST (s.busOf l.val)) = min (s.f (F.LANE_PAIRTX.TRAIL_LOST (s.busOf l.val)) + 1) 65535 ∧
        (∀ x ∈ t.bus (s.busOf l.val), x.id = e.id → x.copyOn l.val = none) ∧ t.sqs = s.sqs ∧ t.cqs = s.cqs)

/-- LANE_START takes a lane from OFF to INIT with its pin engine running from its start bank. LANE_STOP takes it to OFF with
its counters zero; LANE_SUSPEND takes ACTIVE or RESTRICTED to HOLD, cause HOST, and LANE_RESUME goes back to the state it
acted as; BUSOFF_RECOVER takes a bus-off hold to RECOVERY; BUS_BIND binds a time base, and starts a seek where SEEK_BIND
says so in a state that permits it. Stop, suspend and a bind that starts a seek wait for the frame on TXD (the bind: log
87), and any lane command waits behind them. In every other state the command is refused, cause STATE. A stop and a bind
keep the frame of a reception that has passed its check point (R311). This statement rests on choices of the model: log 9,
87, 88, 107 and 108. -/
def Obligations.LaneCommands : Prop :=
  ∀ (s : State) (f : Fn) (d : Words8) (past : Option Frame),
    let l := fieldOf d.w1 0 7
    let a := s.adminTake f.val
    let stop := Instr.laneStop f ⟨d, past⟩
    let bind := Instr.busBind f ⟨d, past⟩
    let st := s.laneSt l
    let free : Prop := (s.lane l).pend = none
    let idle : Prop := free ∧ (s.lane l).att = none
    let busy : Prop := free ∧ (s.lane l).att.isSome = true
    let waits (c : Instr) (u : State) (k : PendKind) : Prop :=
      exec c s = .next (u.modLane l fun x => { x with pend := some ⟨k, some (refOf f d)⟩ })
    (Taken s f d 0x45 → free → st = St.off → s.startRefused l = false → Done (.laneStart f d) s f d fun u =>
      u.isIn l St.init Hc.none ∧ (u.pin l).running = true ∧
      (u.pin l).pc = s.loopStart l (s.f (F.LANE_PEBANK.START_BANK l)) ∧ (u.pin l).txq = [] ∧ (u.pin l).rxq = [] ∧
      u.f (F.LANE_STATE.BO_TOTAL l) = 0 ∧ OtherLanes s u l) ∧
    (Taken s f d 0x45 → free → st ≠ St.off ∨ s.startRefused l = true → Refuses (.laneStart f d) s f d .state) ∧
    (Taken s f d 0x46 → idle → st ≠ St.off → Done stop s f d fun u =>
      u.isIn l St.off Hc.none ∧ u.tec l = 0 ∧ u.recCnt l = 0 ∧ (u.pin l).running = false ∧ (u.lane l).seek = none ∧
      OtherLanes s u l) ∧
    (Taken s f d 0x46 → busy → st ≠ St.off → waits stop (a.ctChecked l past) .stop) ∧
    (Taken s f d 0x46 → free → st = St.off → EndsWith stop s f d .refused Cause.state.code 0 fun u => u = a.ctChecked l past) ∧
    (Taken s f d 0x47 → idle → st = St.active ∨ st = St.restricted → Done (.laneSuspend f d) s f d fun u =>
      u.heldByHost l st ∧ u.tec l = s.tec l ∧ u.recCnt l = s.recCnt l ∧ OtherLanes s u l) ∧
    (Taken s f d 0x47 → busy → st = St.active ∨ st = St.restricted → waits (.laneSuspend f d) a .suspend) ∧
    (Taken s f d 0x47 → free → st ≠ St.active → st ≠ St.restricted → Refuses (.laneSuspend f d) s f d .state) ∧
    (∀ p, Taken s f d 0x48 → free → s.heldByHost l p → Done (.laneResume f d) s f d fun u =>
      u.isIn l p Hc.none ∧ u.f (F.LANE_STATE.PREV_STATE l) = 0 ∧ OtherLanes s u l) ∧
    (Taken s f d 0x48 → free → st = St.listen → (s.lane l).listen91 = true → s.hostRet l = 0 →
      Done (.laneResume f d) s f d fun u => u.isIn l (opState (s.opmode l)) Hc.none ∧ (u.lane l).listen91 = false) ∧
    (Taken s f d 0x48 → free → s.hostHold l = false → ¬(st = St.listen ∧ (s.lane l).listen91 = true) →
      Refuses (.laneResume f d) s f d .state) ∧
    (Taken s f d 0x49 → free → s.isIn l St.hold Hc.busoff → Done (.busoffRecover f d) s f d fun u =>
      u.isIn l St.recovery Hc.none ∧ OtherLanes s u l) ∧
    (Taken s f d 0x49 → free → ¬ s.isIn l St.hold Hc.busoff → Refuses (.busoffRecover f d) s f d .state) ∧
    (Taken s f d 0x4A → free → s.bindSeeks l = false → Done bind s f d fun u =>
      u.f (F.LANE_TS_MODE.TB l) = fieldOf d.w1 8 3 ∧ u.laneSt l = st ∧ OtherLanes s u l) ∧
    (Taken s f d 0x4A → idle → s.bindSeeks l = true → Done bind s f d fun u =>
      u.f (F.LANE_TS_MODE.TB l) = fieldOf d.w1 8 3 ∧ u.laneSt l = St.seek ∧
      (∃ k, (u.lane l).seek = some k ∧ k.cause = .bind) ∧ OtherLanes s u l) ∧
    (Taken s f d 0x4A → busy → s.bindSeeks l = true → waits bind (a.ctChecked l past) (.bind (fieldOf d.w1 8 3))) ∧
    (∀ c op u, (c, op, u) ∈ [(Instr.laneStart f d, 0x45, a), (stop, 0x46, a.ctChecked l past), (.laneSuspend f d, 0x47, a),
        (.laneResume f d, 0x48, a), (.busoffRecover f d, 0x49, a), (bind, 0x4A, a.ctChecked l past)] → Taken s f d op →
      (s.lane l).pend.isSome = true → exec c s = .next (u.withHeld (s.held ++ [⟨f.val, d⟩])))

/-- After eleven recessive bits in INIT, with the transceiver settled, the lane is in the state of OPMODE, or seeks with
SEEK_START. Recovery ends with TEC and REC zero in ACTIVE, in the host's hold, or in a seek that is due. A stuck bus puts
the lane in HOLD, cause STUCK, with its state before in PREV_STATE (and its whole bank dark where VIO of the bank is low,
R725), and starts the self-test or waits to settle; a fault found in the window isolates the lane; the window's end and the
second settling show an external fault, whose end goes back to the state before. Of the entries to bus-off only those of the
last ten seconds count. This statement rests on choices of the model: log 6, 9 and 103. -/
def Obligations.LaneSequences : Prop :=
  ∀ (s : State) (l : LaneId) (e : StuckSeen),
    let l' := l.val
    let x := s.lane l'
    let st := s.laneSt l'
    let p := s.f (F.LANE_STATE.PREV_STATE l')
    let settle := s.now + s.f (F.LANE_CTRL.LCTL_SETTLE l') * ltUs
    (st = St.init → x.settle = none → Holds (.integrationComplete l) s fun t =>
      t.laneSt l' = (if s.fb (F.LANE_RATE.SEEK_START l') then St.seek else opState (s.opmode l')) ∧ OtherLanes s t l') ∧
    (Holds (.rejoinAfterIdle l) s fun t => (t.lane l').waitIdle = false ∧
      (∀ k, x.seek = some k → (t.lane l').seek = some { k with ready := true }) ∧ OnlyPieces [.lanes, .power] s t) ∧
    (st = St.recovery → Holds (.recoveryComplete l) s fun t => t.tec l' = 0 ∧ t.recCnt l' = 0 ∧
      (x.seekDue = true → t.laneSt l' = St.seek) ∧
      (x.seekDue = false → s.hostRet l' = 0 → t.isIn l' St.active Hc.none ∧ t.estate l' = 0) ∧
      (x.seekDue = false → s.hostRet l' ≠ 0 → t.heldByHost l' (s.hostRet l')) ∧ OtherLanes s t l') ∧
    (Holds (.boCountAge l) s fun t =>
      (t.lane l').busoffs = x.busoffs.filter (fun a => decide (s.now < a + 3200000000)) ∧
      t.f (F.LANE_RATE.BO_COUNT l') = min 3 (t.lane l').busoffs.length ∧ OnlyPieces [.lanes, .regs] s t) ∧
    (s.detectsStuck l' = true → x.pend = none → Holds (.stuckDominant l e) s fun t =>
      t.isIn l' St.hold Hc.stuck ∧ t.f (F.LANE_STATE.PREV_STATE l') = st ∧ (t.lane l').settle = some settle ∧
      (t.lane l').stuck = (if s.fb (F.LANE_CTRL.STUCK_TEST l') then .standby else .normal) ∧
      (e.vioLow = true → ∀ k < 128, bankOf k = bankOf l' → t.dark k = true)) ∧
    (∀ k, x.settle = some k → k ≤ s.now → Holds (.lctlSettleExpiry l) s fun t =>
      (t.lane l').settle = none ∧ t.laneSt l' = st ∧ OnlyPieces [.lanes, .regs] s t ∧
      (x.stuck = .standby → (t.lane l').stuck = .window ∧ (t.lane l').window = s.now + 1024 * s.tbLt l') ∧
      (x.stuck = .normal → (t.lane l').stuck = .external ∧ t.fb (F.LANE_STATE.STUCK_EXT l') = true) ∧
      (x.stuck = .none → (t.lane l').stuck = .none ∧ t.regs = s.regs)) ∧
    (x.stuck = .window → Holds (.selfTestFaultFound l) s fun t =>
      t.isIn l' St.isolated Hc.none ∧ (t.lane l').stuck = .none ∧ OtherLanes s t l') ∧
    (x.stuck = .window → x.window ≤ s.now → Holds (.selfTestWindowEnd l) s fun t =>
      (t.lane l').stuck = .normal ∧ (t.lane l').settle = some settle ∧ (t.lane l').lctlNormal = true ∧
      OnlyPieces [.lanes] s t) ∧
    (x.stuck = .external → Holds (.stuckFaultEnd l) s fun t => (t.lane l').stuck = .none ∧ OtherLanes s t l' ∧
      (p ≠ St.hold → p ≠ St.init → t.isIn l' p Hc.none) ∧
      (p = St.init → s.fb (F.LANE_RATE.SEEK_START l') = false → t.isIn l' (opState (s.opmode l')) Hc.none) ∧
      (p = St.hold → s.f (F.LANE_STATE.PREV_CAUSE l') = Hc.host → t.heldByHost l' (s.hostRet l')))

/-- While a lane seeks, a frame with an error and the end of the dwell go on to the next candidate, a first good frame is
counted, and a second one declares the candidate where it was switched or its group does not differ; the lane is in nominal
timing again. The timeout shows TIMED_OUT once and the seek goes on; in the wait of R85 it declares the group's first
member, unverified. The declared timing is copied after a seek of LANE_START, or under ADOPT with MISMATCH, and without
ADOPT a different rate leaves the lane listening with MISMATCH. A guard's window ends with the count of the frames already
in the next one and lifts the quarantine if both counts are within its bound; a host lifts it too. VLOG_CLEAR empties the
log. A hold that has run out before this lt shows EXPIRED (log 7). The oldest open entry that is over, and that no reception
on the partner lane could still match, counts as single. This statement rests on choices of the model: log 6, 7, 17, 80 and
82. -/
def Obligations.SeeksAndTimers : Prop :=
  ∀ (s : State) (l : LaneId) (fr : Frame) (f : Fn) (g : Fin 16) (k : Seek),
    let l' := l.val
    let x := s.lane l'
    let i := s.f (F.LANE_RATE.CUR_IDX l')
    let after := if i < s.f (F.LANE_RATE.NCAND l') then i + 1 else 0
    let dwell := s.now + s.f (F.LANE_RATE.DWELL l') * ltMs
    let seeks : Prop := x.seek = some k ∧ s.laneSt l' = St.seek ∧ k.declared = none
    let fast : Bool := isSwitched fr
    let rejoins (t : State) : Prop := (s.hostRet l' = 0 → t.isIn l' (opState (s.opmode l')) Hc.none) ∧
      (s.hostRet l' ≠ 0 → t.heldByHost l' (s.hostRet l')) ∧ (t.lane l').seek = none
    let moves (c : Instr) (ps : List Piece) : Prop := Holds c s fun t => t.f (F.LANE_RATE.CUR_IDX l') = after ∧
      (t.lane l').seek = some { k with ready := false, count := 0, switched := false, group := false, dwell := dwell } ∧
      OnlyPieces ps s t
    (seeks → k.ready = true → k.group = false → moves (.seekFrameEnd l fr false) [.lanes, .regs, .pins]) ∧
    (seeks → k.ready = true → k.group = false → k.count = 0 → Holds (.seekFrameEnd l fr true) s fun t =>
      (t.lane l').seek = some { k with count := 1, switched := k.switched || fast, dwell := dwell } ∧ OnlyPieces [.lanes, .pins] s t) ∧
    (seeks → k.ready = true → k.group = false → k.count = 1 → (k.switched || fast) = true ∨ s.groupDiffers l' i = false →
      Holds (.seekFrameEnd l fr true) s fun t => t.fb (F.LANE_RATE.DECLARED l') = true ∧
        t.f (F.LANE_RATE.DECL_IDX l') = i ∧ (∃ j, (t.lane l').seek = some j ∧ j.declared = some i) ∧
        t.src (256 + 4 * l') = (s.src (256 + 4 * l')).event ∧ OnlyPieces [.lanes, .regs, .pins, .irq] s t) ∧
    (s.laneSt l' = St.seek → x.seek = some k → ∀ good, Holds (.seekFrameEnd l fr good) s fun t =>
      (t.pin l').codec.data = false ∧ ∀ n, n ≠ l' → t.pin n = s.pin n) ∧
    (seeks → k.group = false → k.dwell ≤ s.now → moves (.seekDwellExpiry l) [.lanes, .regs]) ∧
    (seeks → k.group = false → k.timeout ≤ s.now → Holds (.seekTimeout l) s fun t =>
      (t.lane l').seek = some { k with timedOut := true, timeout := k.timeout + s.f (F.LANE_RATE.TIMEOUT l') * ltMs } ∧
      t.laneSt l' = St.seek ∧ (k.timedOut = true → OnlyPieces [.lanes] s t) ∧
      (k.timedOut = false → t.fb (F.LANE_RATE.TIMED_OUT l') = true ∧
        t.src (256 + 4 * l') = (s.src (256 + 4 * l')).event ∧ OnlyPieces [.lanes, .regs, .irq] s t)) ∧
    (seeks → k.group = true → k.timeout ≤ s.now → Holds (.seekTimeout l) s fun t =>
      t.fb (F.LANE_RATE.DECLARED l') = true ∧ t.fb (F.LANE_RATE.DATA_UNVERIFIED l') = true ∧
      t.f (F.LANE_RATE.DECL_IDX l') = (s.rateGroup l' i).headD i % 16 ∧ OnlyPieces [.lanes, .regs, .irq] s t) ∧
    (∀ n, x.seek = some k → s.laneSt l' = St.seek → k.declared = some n →
      (k.cause = .start ∨ s.candBits l' n ≠ s.forceBits l' ∧ s.fb (F.LANE_RATE.ADOPT l') = true →
        Holds (.declaredTimingApply l) s fun t => rejoins t ∧
          t.reg (nbtOff l') = (clampNom (s.reg (rcandOff l' n))).1 ∧ t.reg (dbtFdOff l') = (clampFd (s.reg (rcandOff l' n + 4))).1 ∧
          t.reg (dbtXlOff l') = (clampXl (s.fastXl l') (s.reg (rcandOff l' n + 8))).1) ∧
      (k.cause ≠ .start → s.candBits l' n = s.forceBits l' → Holds (.declaredTimingApply l) s fun t =>
        rejoins t ∧ t.reg (nbtOff l') = s.reg (nbtOff l')) ∧
      (k.cause ≠ .start → s.candBits l' n ≠ s.forceBits l' → s.fb (F.LANE_RATE.ADOPT l') = false →
        Holds (.declaredTimingApply l) s fun t => t.isIn l' St.listen Hc.none ∧ (t.lane l').listen91 = true ∧
          t.fb (F.LANE_RATE.MISMATCH l') = true ∧ t.reg (nbtOff l') = s.reg (nbtOff l'))) ∧
    (∀ y u, Tab.get (fun _ => {}) x.guards g.val = y → y.due = some u → s.ranOut u = true →
      Holds (.guardWindowEnd l g) s fun t => (Tab.get (fun _ => {}) (t.lane l').guards g.val).count = y.next ∧
        t.fb (F.LANE_RGUARD.QUARANTINED l' g.val) = (s.fb (F.LANE_RGUARD.QUARANTINED l' g.val) &&
          !(decide (max y.count y.next ≤ s.f (F.LANE_RGUARD.MAXCNT l' g.val)))) ∧ OnlyPieces [.lanes, .regs] s t) ∧
    (s.hostOpen f.val = true → Holds (.quarantineLift f l g) s fun t =>
      t.fb (F.LANE_RGUARD.QUARANTINED l' g.val) = false ∧ OnlyPieces [.regs] s t) ∧
    (s.hostOpen f.val = true → Holds (.vlogClear f l) s fun t =>
      t.f (F.LANE_VLOG.HEAD l') = 0 ∧ t.f (F.LANE_VLOG.COUNT l') = 0 ∧ t.fb (F.LANE_VLOG.WRAPPED l') = false ∧
      (∀ n < 256, t.reg (vlogOff l' 0 + 4 * n) = 0) ∧ OnlyPieces [.regs, .poison] s t) ∧
    (s.overrun? x.hold = true → Holds (.holdExpiry l) s fun t => t.fb (F.LANE_HOLD.HELD l') = false ∧
      t.fb (F.LANE_HOLD.EXPIRED l') = true ∧ (t.lane l').hold = none ∧ (t.lane l').holdOver = true ∧ t.laneSt l' = s.laneSt l') ∧
    (∀ y ys p, x.open_ = y :: ys → s.staysOpen l' p y = false → Holds (.dupEntryExpiry ⟨l, p⟩) s fun t =>
      (t.lane l').open_ = ys ∧ (l' % 2 = 0 →
        t.f (F.LANE_PAIRRX.SINGLE_A l') = min (s.f (F.LANE_PAIRRX.SINGLE_A l') + 1) 65535) ∧ OnlyPieces [.lanes, .regs] s t) ∧
    (∀ p, (∀ y ∈ x.open_, s.staysOpen l' p y = true) → exec (.dupEntryExpiry ⟨l, p⟩) s = .next s)

/-- A lane that can start a frame sends the offerable entry of the lowest key, none being past its deadline: the attempt
counts, with ESI of an FD frame where the lane is ERROR_PASSIVE, and its copy is in flight. Lost arbitration ends the
attempt and leaves the counters; the copy stays for another attempt, and a one-shot entry completes ARB_LOST, one past its
deadline EXPIRED. Success takes 1 from TEC (256 holds), completes the entry with its late mark, or DONE, or DONE_VIA_PARTNER
where a pair's partner carries no frames, with the SOF stamp; the partner's copy becomes trailing. An error adds to TEC by
the rules of R122, holding at 256, shows CODEC_ERR where the codec found it, and keeps the copy; in an XL attempt that goes
on under a kill it removes the copy, and an ACK error leaves TEC. (Premise: no lane command waits for the frame's end, and
the lane holds no frames back.) This statement rests on choices of the model: log 6, 14, 16, 74, 89 and 108. -/
def Obligations.LaneAttempts : Prop :=
  ∀ (s : State) (l : LaneId) (a : Attempt) (e : Entry) (c : Copy) (joined : Option Edge) (loop : Option Nat) (x : TxErr) (k : Nat),
    let l' := l.val
    let b := s.busOf l'
    let early := match e.ct with | some y => !y.whole | none => false
    let sending : Prop := (s.lane l').att = some a ∧ s.entry a.bus a.ent = some e ∧ (s.lane l').pend = none ∧
      (s.lane l').hold = none ∧ e.done = false ∧ e.copyOn l' = some c
    let onTime : Prop := s.canStart l' joined = true ∧ ∀ y ∈ s.bus b, s.ranOut? y.deadline = false
    let late : Prop := e.expired = true ∨ s.ranOut? e.deadline = true
    let plain : Prop := e.mark = .none ∧ s.killPending a = false ∧ c.xlKill = false ∧ ∀ o, e.src ≠ .obj o
    let passive := s.estate l' == 1
    let quietXl : Bool := decide (e.fr.fmt = .xl) && s.xlQuiet l'
    let other := if l' = b then b + 1 else b
    let partner : Bool := s.isPair a.bus && decide (1 < e.sel.length)
    let st : Status := match e.mark with
      | .cancel => .doneCancelLate
      | .abort => .doneAbortLate
      | _ => if partner ∧ s.cond other ≠ .carrying then .doneViaPartner else .done
    (onTime → e ∈ s.bus b → s.offerable l' e = true → (e.fid.map s.framePoisoned).getD false = false →
      s.lbPoisoned l' = false → (∀ y ∈ s.bus b, y ≠ e → s.offerable l' y = true → e.fr.key < y.fr.key) →
      Holds (.txSof l joined) s fun t =>
        (∃ y, (t.lane l').att = some y ∧ y.bus = b ∧ y.ent = e.id ∧ y.esi = (e.fr.fmt.fd && passive)) ∧
        t.bus b = (s.bus b).map (fun y => if y.id = e.id then { y with attempts := y.attempts + 1, copies := y.copies.map fun c =>
          if c.lane = l' then { c with inFlight := true, ctCounted := c.ctCounted || early } else c } else y) ∧
        t.tec l' = s.tec l' ∧ t.laneSt l' = s.laneSt l') ∧
    (onTime → (∀ y ∈ s.bus b, s.offerable l' y = false) → exec (.txSof l joined) s = .next s) ∧
    (sending → plain → ¬ late → e.oneShot = false → Holds (.arbLost l) s fun t =>
      (t.lane l').att = none ∧ (t.lane l').lastTx = false ∧ t.regs = s.regs ∧
      (∀ y, t.entry a.bus a.ent = some y → ∀ d, y.copyOn l' = some d → d.inFlight = false ∧ d.tried = true ∧ d.erred = c.erred) ∧
      OnlyPieces [.lanes, .tx] s t) ∧
    (sending → plain → ¬ late → e.oneShot = true → e.copies = [c] → Holds (.arbLost l) s fun t =>
      (t.lane l').att = none ∧ t.tec l' = s.tec l' ∧ Gone s t a.bus a.ent ∧
      TxTold s t a.bus e (if c.erred then .txError else .arbLost)) ∧
    (sending → plain → late → e.copies = [c] → Holds (.arbLost l) s fun t =>
      (t.lane l').att = none ∧ t.tec l' = s.tec l' ∧ Gone s t a.bus a.ent ∧ TxTold s t a.bus e .expired) ∧
    (sending → e.copies = [c] → (∀ o, e.src ≠ .obj o) → a.bus = b → Holds (.txSuccess l loop) s fun t =>
      (t.lane l').att = none ∧ (t.lane l').lastTx = true ∧ t.laneSt l' = s.laneSt l' ∧
      t.tec l' = (if s.tec l' = 256 then 256 else s.tec l' - 1) ∧ ((∀ i, e.src ≠ .sync i) → Gone s t a.bus a.ent) ∧
      TxEnds s t a.bus e st (s.isPair a.bus && !(decide (l' = a.bus))) (some a.stamp)) ∧
    (∀ d y tag ts, sending → e.copies = [c, d] → d.lane ≠ l' → d.trail = false → d.inFlight = true → a.bus = b →
      e.src = .desc k y tag ts → s.trailsOn b d.lane = [] → Holds (.txSuccess l loop) s fun t =>
        TxEnds s t b e st (s.isPair a.bus && !(decide (l' = a.bus))) (some a.stamp) ∧
        ∃ z, t.entry b a.ent = some z ∧ z.done = true ∧ ∃ u, z.copies = [u] ∧ u.lane = d.lane ∧ u.trail = true) ∧
    (sending → plain → e.oneShot = false → a.bus < 128 → Holds (.txError l x) s fun t =>
      (t.lane l').att = none ∧ (codecFinds x.ty = true → (t.pin l').codec.err = true) ∧
      t.tec l' = min 256 (s.tec l' + (if quietXl then 8 else
        (if (x.ty = .ack ∧ passive ∧ x.quiet) ∨ (x.ty = .stuff ∧ x.arbStuff) then 0 else 8) +
          (if passive then 0 else 8 * x.flagErrs.length) + 8 * x.domRuns)) ∧
      t.recCnt l' = s.recCnt l' ∧ t.fb (F.LANE_STATE.EWARN l') = (decide (s.f (F.LANE_CTRL.EWL l') ≤ t.tec l') ||
        decide (s.f (F.LANE_CTRL.EWL l') ≤ s.recCnt l')) ∧
      (t.tec l' < 256 → t.laneSt l' = s.laneSt l' ∧ t.estate l' = (if 128 ≤ t.tec l' ∨ 128 ≤ s.recCnt l' then 1 else 0)) ∧
      (t.tec l' = 256 → s.estate l' ≠ 2 → t.estate l' = 2 ∧
        (s.fb (F.LANE_CTRL.RECOV_MANUAL l') = true → t.isIn l' St.hold Hc.busoff) ∧
        (s.fb (F.LANE_CTRL.RECOV_MANUAL l') = false → t.isIn l' St.recovery Hc.none)) ∧
      (∀ y, t.entry a.bus a.ent = some y → ∀ d, y.copyOn l' = some d → d.inFlight = false ∧ d.erred = true)) ∧
    (sending → c.xlKill = true → s.killPending a = true → Holds (.txError l x) s fun t =>
      (t.lane l').att = none ∧ t.tec l' = min 256 (s.tec l' + if x.ty = .ack then 0 else 8) ∧
      t.f (F.LANE_ETALLY.TX_ERR l') = min (s.f (F.LANE_ETALLY.TX_ERR l') + 1) 65535 ∧
      ∀ y, t.entry a.bus a.ent = some y → y.copyOn l' = none)

/-- A reception that ends in an error counts RX_ERR; a lane that signals adds 1 to REC, or 8 for a bit error in its own
flag, 8 for a dominant bit after it and 8 for each run of eight, holding at 255; one that does not signal waits for eleven
recessive bits and keeps its counters. A protocol exception counts nothing and waits. An overload frame counts where it was
seen, and errors in one's own go to TEC or REC. A kill removes the copy that it reaches, ends its attempt with 8 on TEC, and
8 for each bit error in an active error flag (counted in TX_ERR, R120) and each run of eight dominant bits after it, unless
that is in arbitration, where nothing happens yet, and an entry with no copy left goes with no completion. An uncorrectable
word of the line buffer under an attempt ends it in the same way (log 98). A lane that takes part in no reception takes no
overload frame. This statement rests on choices of the model: log 6, 14 and 98. -/
def Obligations.LaneReceiveErrors : Prop :=
  ∀ (s : State) (l : LaneId) (x : RxErr) (y : Ovld) (e : Entry) (es : List Entry) (c : Copy) (k : CtTx) (a : Attempt) (j : KillSeen),
    let l' := l.val
    let gone (t : State) : Prop := ∀ z ∈ t.bus (s.busOf l'), z.id = e.id → z.copyOn l' = none
    let own := if s.estate l' = 1 then 0 else j.flagErrs.length
    let ended (t : State) : Prop := gone t ∧ (t.lane l').att = none ∧ t.tec l' = min 256 (s.tec l' + 8 + 8 * own + 8 * j.domRuns) ∧
      t.f (F.LANE_ETALLY.TX_ERR l') = min (s.f (F.LANE_ETALLY.TX_ERR l') + own) 65535
    let sends : Prop := (s.lane l').att = some a ∧ a.ent = e.id ∧ a.bus = s.busOf l' ∧ e.fr.fmt ≠ .xl ∧ (s.lane l').pend = none
    let b := s.busOf l'
    let quietXl : Bool := (match x.hdr with | some fr => decide (fr.fmt = .xl) | none => false) && s.xlQuiet l'
    let n := 8 * y.flagErrs.length + 8 * y.domRuns
    (s.hears l' = true → Holds (.rxError l x) s fun t =>
      (t.lane l').dec = none ∧ (t.lane l').lastTx = false ∧ (codecFinds x.ty = true → (t.pin l').codec.err = true) ∧
      t.tec l' = s.tec l' ∧ t.laneSt l' = s.laneSt l' ∧
      t.f (F.LANE_ETALLY.RX_ERR l') = min (s.f (F.LANE_ETALLY.RX_ERR l') + 1) 65535 ∧
      (s.signals l' = false → t.recCnt l' = s.recCnt l' ∧ (t.lane l').waitIdle = true) ∧
      (s.signals l' = true → quietXl = true → t.recCnt l' = min 255 (s.recCnt l' + 1) ∧ (t.lane l').waitIdle = true) ∧
      (s.signals l' = true → quietXl = false → t.recCnt l' =
        min 255 (s.recCnt l' + (if x.ownFlag then 8 else 1) + (if x.firstDom then 8 else 0) + 8 * x.domRuns))) ∧
    (s.hears l' = true → s.fb (F.LANE_MODE.PEX l') = true → Holds (.protocolException l x) s fun t =>
      (t.lane l').waitIdle = true ∧ (t.lane l').dec = none ∧ t.tec l' = s.tec l' ∧ t.recCnt l' = s.recCnt l' ∧
      t.f (F.LANE_ETALLY.RX_ERR l') = s.f (F.LANE_ETALLY.RX_ERR l') ∧ t.laneSt l' = s.laneSt l') ∧
    ((s.receives l' && (s.lane l').att.isNone && !(s.lane l').waitIdle) = false → exec (.overloadFrame l y) s = .next s) ∧
    (s.hears l' = true → Holds (.overloadFrame l y) s fun t =>
      t.f (F.LANE_ETALLY.OVLD_RX l') = min (s.f (F.LANE_ETALLY.OVLD_RX l') + y.seen.toNat) 65535 ∧
      ((y.sends && s.signals l') = false → t.tec l' = s.tec l' ∧ t.recCnt l' = s.recCnt l' ∧ OnlyPieces [.regs] s t) ∧
      ((y.sends && s.signals l') = true → y.asTx = true → t.tec l' = min 256 (s.tec l' + n) ∧ t.recCnt l' = s.recCnt l') ∧
      ((y.sends && s.signals l') = true → y.asTx = false → t.recCnt l' = min 255 (s.recCnt l' + n) ∧ t.tec l' = s.tec l')) ∧
    (j.lane = l → s.bus b = e :: es → e.ct = some k → k.kill = true → e.copyOn l' = some c → c.xlKill = false →
      ((s.lane l').att = none ∨ ∃ z, (s.lane l').att = some z ∧ z.ent ≠ e.id) → Holds (.ctKillArrival j) s fun t =>
        gone t ∧ t.sqs = s.sqs ∧ t.cqs = s.cqs ∧ t.lanes = s.lanes) ∧
    (j.lane = l → s.bus b = e :: es → e.ct = some k → k.kill = true → e.copyOn l' = some c → c.xlKill = false →
      sends →
      (j.arb = false → Holds (.ctKillArrival j) s ended) ∧ (j.arb = true → exec (.ctKillArrival j) s = .next s)) ∧
    (j.lane = l → s.bus b = e :: es → (∀ z ∈ s.bus b, z.ct = none) → e.copyOn l' = some c → c.xlKill = false → s.lbPoisoned l' = true →
      sends → Holds (.ctKillArrival j) s ended)

/-- A frame that is valid on a lane that hears it takes 1 from REC, or sets 120 above 127, where the lane signals, and ends
the reception. With no decision yet it counts as late and waits; a quarantined one counts RG_DROP and reaches no CQ. Under a
decision (unpaired lane, no guard on its ID, no recorder): REJECT counts; OBJECT puts header, stamp and payload into an
enabled unlocked receive object, with NEW and one more seal and FRAMES; RING queues a completion item for the CQ at its
function's port, where quota, WRED and space allow a green frame; CUSTOM calls the filter hook of the quad's engine, where
that waits for work, with its arguments (R620, R621), and with FILTER_EN 0 counts NOHOOK and NO_TARGET. A decision is that
of the first readable element, in the cache or in memory, that admits the frame, or the default. A lane that hears nothing
takes no frame but one that ends in the lt in which it entered BUS_OFF. This statement rests on choices of the model: log 1,
14, 19, 75, 97, 115, 116 and 123. -/
def Obligations.ValidFrames : Prop :=
  ∀ (s : State) (l : LaneId) (fr : Frame) (v : Sof) (h : Unit) (d : Decision) (f : Fn) (late : Bool) (err : WalkErr),
    let l' := l.val
    let b := s.busOf l'
    let q := l' / 4
    let t0 := (s.rxStamp l' v).1
    let n := d.arg % 128
    let o := d.arg % 1024
    let cells := cellsFor fr.bytes
    let valid : Prop := s.hears l' = true ∧ s.fmtOn l' fr.fmt = true ∧ (s.lane l').hold = none
    let clear : Prop := valid ∧ s.lbPoisoned l' = false ∧ (∀ g < 16, s.guardMatches l' g fr = false) ∧ (s.lane l').ct = none ∧
      (fr.fmt = .xl → fr.len ≤ s.f (F.LANE_MODE.XL_MAXLEN l') + 1)
    let met : Prop := clear ∧ s.isPair b = false ∧ s.mor.capture = false ∧ (s.lane l').dec = some d ∧ d.looked = none ∧
      d.metered = none ∧ d.late = false ∧ s.fb (F.FIRN_IPOL.EN b) = false
    let judged : Prop := met ∧ d.custom = false
    let pe := s.eng q
    let ready : Prop := s.engUp q = true ∧ pe.home = true ∧ pe.frames = [] ∧ pe.back = none ∧ pe.calls = []
    let w0 := s.objWord q o 0
    (valid → Holds (.frameValid l fr v h) s fun t =>
      (t.lane l').dec = none ∧ (t.lane l').lastTx = false ∧ t.tec l' = s.tec l' ∧ t.laneSt l' = s.laneSt l' ∧
      t.recCnt l' = (if s.signals l' then (if 127 < s.recCnt l' then 120 else s.recCnt l' - 1) else s.recCnt l')) ∧
    (clear → s.isPair b = false → (s.lane l').dec = none → Holds (.frameValid l fr v h) s fun t =>
      (∃ c, (t.lane l').wait = (s.lane l').wait ++ [⟨fr, t0, false, c, s.nextValid, none⟩]) ∧
      t.nextValid = s.nextValid + 1 ∧ t.cqs = s.cqs ∧
      t.f (F.LANE_FLTCNT.LATE b) = min (s.f (F.LANE_FLTCNT.LATE b) + 1) 65535) ∧
    (∀ g < 16, valid → s.lbPoisoned l' = false → s.guardMatches l' g fr = true →
      s.fb (F.LANE_RGUARD.QUARANTINED l' g) = true → Holds (.frameValid l fr v h) s fun t =>
        t.f (F.LANE_ETALLY.RG_DROP l') = min (s.f (F.LANE_ETALLY.RG_DROP l') + 1) 65535 ∧ t.cqs = s.cqs ∧ t.objs = s.objs) ∧
    (judged → d.action = 3 → Holds (.frameValid l fr v h) s fun t =>
      t.f (F.LANE_FLTCNT.REJECTED b) = min (s.f (F.LANE_FLTCNT.REJECTED b) + 1) 65535 ∧ t.cqs = s.cqs ∧ t.voqs = s.voqs) ∧
    (judged → d.action = 1 → w0.getLsbD 31 = true → w0.getLsbD 30 = false → s.objBus q o = b →
      (s.obj (objIx q o)).lock = none → ¬(fr.fmt = .xl ∧ 64 < fr.len) → Holds (.frameValid l fr v h) s fun t =>
        t.objWord q o 1 = fr.fmtId ∧ t.objWord q o 3 = (if fr.fmt = .xl then fr.af else 0) ∧
        t.objWord q o 4 = BitVec.ofNat 32 t0.ns ∧ t.objWord q o 5 = BitVec.ofNat 32 t0.sec ∧
        (∀ k < 16, t.objWord q o (8 + k) = payWord (fr.data.take fr.bytes) k) ∧
        (t.objWord q o 0).getLsbD 22 = true ∧ t.objWord q o 31 = s.objWord q o 31 + 1 ∧
        fieldOf (t.objWord q o 7) 0 16 = (fieldOf (s.objWord q o 7) 0 16 + 1) % 65536 ∧ t.cqs = s.cqs ∧ t.voqs = s.voqs) ∧
    (judged → d.action = 0 → d.colour = 0 → (s.cq n).home = some f.val →
      s.heldOf n + cells ≤ s.f (F.FIRN_RQUOTA.QUOTA n) → s.chg (4 * (36 + f.val) + 2) + cells ≤ s.gLimit (36 + f.val) 2 →
      s.fits (36 + f.val) cells = true → Holds (.frameValid l fr v h) s fun t =>
        (∃ x, t.voq ((q * 40 + 36 + f.val) * 4 + 2) = s.voq ((q * 40 + 36 + f.val) * 4 + 2) ++ [x] ∧
          x.left = cells ∧ ∃ y, x.what = .rings [(n, y)] ∧ y.w1 = fr.fmtId ∧ y.bus = b ∧ y.stamp = t0 ∧
            y.seq = s.nextValid ∧ y.gen = (s.cq n).gen ∧
            y.data = fr.data.take fr.bytes ∧ y.inl = decide (fr.bytes ≤ 8)) ∧
        t.heldOf n = s.heldOf n + cells ∧ t.cqs = s.cqs) ∧
    (met → d.custom = true → (s.hookHdr q).getLsbD 0 = true → ready → Holds (.frameValid l fr v h) s fun t =>
      (t.eng q).calls.length = 1 ∧ (t.eng q).back.isSome = true ∧ (t.eng q).pc = 4 * 4097 ∧
      (t.eng q).os = [BitVec.ofNat 32 d.arg, hookDescArg] ∧ (t.eng q).rsd = 1 ∧
      t.f (F.ENG_HOOKCNT.CALLS q) = min (s.f (F.ENG_HOOKCNT.CALLS q) + 1) 65535 ∧ t.cqs = s.cqs ∧ t.voqs = s.voqs) ∧
    (met → d.custom = true → (s.hookHdr q).getLsbD 0 = false → Holds (.frameValid l fr v h) s fun t =>
      t.f (F.ENG_HOOKCNT.NOHOOK q) = min (s.f (F.ENG_HOOKCNT.NOHOOK q) + 1) 65535 ∧
      t.f (F.LANE_FLTCNT.NO_TARGET b) = min (s.f (F.LANE_FLTCNT.NO_TARGET b) + 1) 65535 ∧ t.cqs = s.cqs ∧ t.voqs = s.voqs) ∧
    (s.hears l' = false → s.lastHeard l' = none → exec (.frameValid l fr v h) s = .next s) ∧
    (∀ z, s.fmtOn l' fr.fmt = true → s.dark l' = false → s.hears l' = false → s.lastHeard l' = some z → Holds (.frameValid l fr v h) s fun t =>
      (t.lane l').boAt = none ∧ (t.lane l').dec = none ∧ t.tec l' = s.tec l' ∧ t.laneSt l' = s.laneSt l') ∧
    (let xs := (s.fltList b).elems
     let undecided : Prop := valid ∧ (s.lane l').wait = [] ∧ (s.lane l').dec = none ∧ s.fb (F.LANE_FLTCFG.SORTED b) = false ∧
       err.parity = false ∧ err.ecc = [] ∧ (fr.fmt = .xl → fr.len ≤ s.f (F.LANE_MODE.XL_MAXLEN l') + 1)
     (∀ x, undecided → xs.head? = some (some x) → elemKind x ≠ 7 → elemAction x ≠ 5 →
       elemTest x fr = true → elemAdmits x fr = true → Holds (.filterDecision l fr v late err h) s fun t =>
         ∃ y, (t.lane l').dec = some y ∧ y.action = elemAction x ∧ y.arg = elemArg x ∧ y.noMatch = false ∧ y.late = late) ∧
     (undecided → (∀ x ∈ xs, x = none) → Holds (.filterDecision l fr v late err h) s fun t =>
       ∃ y, (t.lane l').dec = some y ∧ y.action = s.f (F.LANE_FLTCFG.DEF_ACTION b) ∧
         y.arg = s.f (F.LANE_FLTCFG.DEF_ARG b) ∧ y.noMatch = true)) ∧
    (∀ x xs, (s.lane l').wait = x :: xs → Holds (.filterDecision l fr v late err h) s fun t =>
      (t.lane l').wait = xs ∧ (x.dup = true → t.cqs = s.cqs ∧ t.voqs = s.voqs ∧ t.objs = s.objs))

/-- A frame whose decision names a cut-through route is considered once: where the conditions fail it counts CT_CLAMPED and
goes no further early, nor where its lookup fell in a pause (R304); where they hold and Firn admits a green frame it enters
the egress order, without payload, as a routed frame, or is an EG_DROP where its lane does not enable the format (R297). At
the end of a kill window the routes with more kills than the limit carry FALLBACK. A slot with nothing to move changes
nothing; the one queued frame of an input moves one cell, and with its last cell its items reach the CQs in the order of
their frames' validity, or the Ethernet port. The sweep takes the cells in turn, notes a mismatch when it first sees it, and
one seen in two passes is logged, counted and reported, and corrected where AUTO_RECLAIM is set. This statement rests on
choices of the model: log 8, 22, 51, 91, 97, 115 and 119. -/
def Obligations.SwitchCore : Prop :=
  ∀ (s : State) (l : LaneId) (fr : Frame) (paused : Bool) (d : Decision) (c : CellId),
    let l' := l.val
    let r := s.routeEnt d.arg
    let b := rtDest r % 128
    let cells := cellsFor fr.bytes
    let considered : Prop := s.hears l' = true ∧ (s.lane l').dec = some d ∧ d.action = 2 ∧ d.cachedWalk = true ∧
      d.looked = none ∧ (s.lane l').ct = none ∧ rtType r = 1 ∧ rtCtEn r = true ∧ (fr.fmt.fd = true ∨ fr.fmt = .xl) ∧
      s.isPair (s.busOf l') = false ∧
      s.fb (F.FIRN_IPOL.EN (s.busOf l')) = false ∧ rtPol r = false ∧ rtKind r = 0 ∧ s.isBus b = true ∧ b ≠ s.busOf l'
    let admits : Prop := s.ctAllowed l' b fr r = true ∧ d.colour = 0 ∧
      s.chg (4 * (b / 4) + rtTc r) + cells ≤ s.gLimit (b / 4) (rtTc r) ∧ s.fits (b / 4) cells = true
    let x := s.cell c.val
    let holds := s.holdsOf c.val
    let pass := s.f F.FIRN_SWEEP.PASS
    let before := (pass + 4194303) % 4194304
    let swept : Prop := s.fb F.FIRN_CTRL.SWEEP_EN = true ∧ c.val = s.sweepAt ∧ c.val ≠ 262143 ∧ x.touched ≠ some pass
    (considered → s.ctAllowed l' b fr r = false ∨ paused = true → Holds (.cutThroughLookup l fr paused) s fun t =>
      (t.lane l').dec = some { d with looked := some (s.lookUp r d.colour) } ∧ (t.lane l').ct = none ∧
      t.f F.COL_CTSTAT.CT_CLAMPED = min (s.f F.COL_CTSTAT.CT_CLAMPED + 1) 65535 ∧ OnlyPieces [.lanes, .regs] s t) ∧
    (considered → admits → s.fmtOn b fr.fmt = true → Holds (.cutThroughLookup l fr false) s fun t =>
        (t.lane l').dec = some { d with looked := some (s.lookUp r 0) } ∧
        (t.lane l').ct = some ⟨d.arg, s.gen d.arg, b, s.nextEnt, s.nextFid, none⟩ ∧
        ∃ e : Entry, t.bus b = e.placeIn (s.bus b) ∧ e.enteredLt = s.now ∧ e.id = s.nextEnt ∧ e.src = .routed s.nextFid ∧ e.fid = some s.nextFid ∧
          e.fr = { rewrite r fr with data := [] } ∧
          e.ct = some {
            route := d.arg, gen := s.gen d.arg, ingress := l', whole := false,
            breq := (s.lanesOf b).foldl (fun m j => Tab.put (fun _ => 0) m j (s.bReq l' j (rewrite r fr))) [] }) ∧
    (considered → admits → s.fmtOn b fr.fmt = false → Holds (.cutThroughLookup l fr false) s fun t =>
      t.f (F.COL_PORTSTAT.EG_DROP (b / 4)) = min (s.f (F.COL_PORTSTAT.EG_DROP (b / 4)) + 1) 65535 ∧ t.bus b = s.bus b) ∧
    (∀ t0 n k, s.killDue = some t0 → t0 ≤ s.now → s.engUp 32 = true → s.kills = [(n, k)] → Holds .ctKillWindowEnd s fun t =>
      t.kills = [] ∧ t.killDue = some (t0 + 1000 * ltMs) ∧
      (s.f F.COL_CTRL.CT_KILL_LIMIT < k → t.rd32 (routeWord n 3) = (s.rd32 (routeWord n 3) ||| 0x80000000#32)) ∧
      (k ≤ s.f F.COL_CTRL.CT_KILL_LIMIT → t.mem = s.mem)) ∧
    (s.voqs = [] → s.ctqs = [] → exec .colSlot s = .next s) ∧
    (∀ i o k y, 4 ≤ i → i < 40 → o < 40 → k < 4 → s.ctqs = [] → s.voqs = [((i * 40 + o) * 4 + k, [y])] → 2 ≤ y.left →
      Holds .colSlot s fun t => t.voqs = [((i * 40 + o) * 4 + k, [{ y with left := y.left - 1 }])] ∧ t.cqs = s.cqs) ∧
    (∀ i n (f : Fn) k y z, 4 ≤ i → i < 40 → k < 4 → s.ctqs = [] → s.voqs = [((i * 40 + 36 + f.val) * 4 + k, [y])] →
      y.left = 1 → y.what = .rings [(n, z)] → (s.cq n).home = some f.val → z.gen = (s.cq n).gen → Holds .colSlot s fun t =>
        t.voqs = [] ∧ (t.cq n).held = z.placeIn (s.cq n).held ∧ ∀ j, j ≠ n → t.cq j = s.cq j) ∧
    (∀ i e k y g, 4 ≤ i → i < 40 → e < 4 → k < 4 → s.ctqs = [] → s.voqs = [((i * 40 + 32 + e) * 4 + k, [y])] →
      y.left = 1 → y.what = .eth [g] → s.ethShut e g = false → Holds .colSlot s fun t =>
        t.voqs = [] ∧ (t.eth e).queue = (s.eth e).queue ++ [g]) ∧
    (swept → leakKind x holds = none → Holds (.sweepCompare c) s fun t => t.cell c.val = { x with touched := none, seen := none } ∧
      t.sweepAt = c.val + 1) ∧
    (c.val ≠ s.sweepAt → exec (.sweepCompare c) s = .next s) ∧
    (∀ k, swept → leakKind x holds = some k → x.seen ≠ some (k, before) → Holds (.sweepCompare c) s fun t =>
      t.cell c.val = { x with touched := none, seen := some (k, pass) } ∧ t.f F.FIRN_SWEEP.LEAKS = s.f F.FIRN_SWEEP.LEAKS) ∧
    (∀ k, swept → leakKind x holds = some k → x.seen = some (k, before) → Holds (.sweepCompare c) s fun t =>
      t.f F.FIRN_SWEEP.LEAKS = min (s.f F.FIRN_SWEEP.LEAKS + 1) 65535 ∧ t.src 1016 = (s.src 1016).event ∧
      (s.fb F.FIRN_CTRL.AUTO_RECLAIM = false → t.cell c.val = { x with touched := none, seen := some (k, pass) }) ∧
      (s.fb F.FIRN_CTRL.AUTO_RECLAIM = true → k ≤ 1 → (t.cell c.val).free = true ∧ (t.cell c.val).cnt = 0))

/-- A function that reads word 0 of an unlocked object holds its lock until OBJ_LOCK_TIMEOUT, and reads word 0 with LOCKED
and its number, and words 0 to 23 as published then are the copy it reads from then on (R182); the other function reads word
0 with BUSY beside them. A whole-word write of the holder to an open word is staged, without reserved bits (R14), and
changes no published word; any other write is ignored and counts. The holder's read of word 31 returns the seal and ends the
lock: with nothing staged, TIMED_OUT of the lock is clear, and a frame that waited in the shadow is published, with one more
seal. A lock that is over ends so too, with TIMED_OUT set; before, nothing happens. This statement rests on choices of the
model: log 53 and 54. -/
def Obligations.ObjectLocks : Prop :=
  ∀ (s : State) (f : Fn) (q : QuadId) (o : ObjId) (w : Fin 32) (v : Word) (be : BitVec 4) (k : ObjLock) (u : Shadow), Sane s →
    s.hostOpen f.val = true →
    let i := objIx q.val o.val
    let x := s.obj i
    let word (t : State) (n : Nat) : Word := t.objWord q.val o.val n
    let intact : Prop := s.poisoned 2 q.val (32 * o.val) = false
    let held : Prop := x.lock = some k
    let others (t : State) : Prop := ∀ j, j ≠ i → t.obj j = s.obj j
    let shown (t : State) : Prop := word t 1 = u.fr.fmtId ∧ word t 4 = BitVec.ofNat 32 u.stamp.ns ∧
      word t 5 = BitVec.ofNat 32 u.stamp.sec ∧ word t 31 = word s 31 + 1 ∧ (word t 0).getLsbD 22 = true ∧
      ∀ n < 16, word t (8 + n) = payWord (u.fr.data.take u.fr.bytes) n
    (intact → x.lock = none → Holds (.objectWord0Read f q o) s fun t =>
      (∃ y, (t.obj i).lock = some y ∧ y.f = f.val ∧ y.staged = [] ∧ (∀ n < 24, y.copy n = word s n) ∧
        y.due = s.now + s.f (F.QUAD_OBJCFG.OBJ_LOCK_TIMEOUT q.val) * ltUs) ∧ others t ∧
      t.readData.getLsbD 19 = true ∧ t.readData.getLsbD 18 = decide (f.val = 1) ∧ OnlyPieces [.free, .objs] s t) ∧
    (intact → held → k.f = 1 - f.val → Holds (.objectWord0Read f q o) s fun t =>
      t.readData.getLsbD 19 = true ∧ t.readData.getLsbD 18 = decide (f.val = 0) ∧ t.readData.getLsbD 17 = true ∧
      t.objs = s.objs ∧ OnlyPieces [.free] s t) ∧
    (held → k.f = f.val → be = 15 → w.val ≠ 0 → k.shut w.val = false →
      Holds (.objectWrite f q o w v be) s fun t =>
        (t.obj i).lock = some { k with staged := Tab.ins k.staged w.val (v &&& objKeep w.val) } ∧ others t ∧ OnlyPieces [.objs] s t) ∧
    (held → k.f = f.val → be = 15 → k.staged = [] → Holds (.objectWrite f q o 0 v be) s fun t =>
      (t.obj i).lock = some { k with staged := [(0, v &&& objKeep 0)] } ∧ OnlyPieces [.objs] s t) ∧
    (x.lock = none ∨ held ∧ (k.f ≠ f.val ∨ be ≠ 15 ∨ k.shut w.val = true) →
      Holds (.objectWrite f q o w v be) s fun t => t.clampCount f.val = s.clampCount' f.val 1 ∧ OnlyPieces [.regs] s t) ∧
    (held → k.f = f.val → k.staged = [] → Holds (.objectRelease f q o) s fun t =>
      (t.obj i).lock = none ∧ (t.obj i).shadow = none ∧ others t ∧ (word t 0).getLsbD 20 = false ∧
      (s.poisoned 2 q.val (32 * o.val + 31) = false → t.readData = word s 31) ∧ (x.shadow = some u → shown t) ∧
      (x.shadow = none → ∀ n, 0 < n → n < 32 → word t n = word s n) ∧ OnlyPieces [.free, .mem, .objs, .poison] s t) ∧
    (x.lock = none ∨ held ∧ k.f ≠ f.val → Holds (.objectRelease f q o) s fun t =>
      t.objs = s.objs ∧ t.mem = s.mem ∧ OnlyPieces [.free] s t) ∧
    (held → k.due ≤ s.now → Holds (.objLockTimeout q o) s fun t =>
      (t.obj i).lock = none ∧ (word t 0).getLsbD 20 = true ∧ (x.shadow = some u → shown t) ∧ others t ∧
      OnlyPieces [.mem, .objs, .poison] s t) ∧
    (held → s.now < k.due → exec (.objLockTimeout q o) s = .next s)

/-- A release that publishes staged words puts them in place with one more seal, counts the clamps of what was written, and
brings FORMAT, LEN and PERIOD into range. TX_REQ of an enabled send object lets an instance with its content enter the order
of its bus; the instance of a periodic object enters at each multiple of its period, and one that is pending and not in
flight is replaced and counts MISSED. MODE and GATE of a quad take effect where all four lanes are OFF, and the write is
ignored and counts otherwise; MODE 3 is taken as QUADPAIR. GATED follows GATE, and an ungated quad has its element caches
loaded again from filter memory. This statement rests on choices of the model: log 6, 52, 54 and 91. -/
def Obligations.ObjectsAndQuads : Prop :=
  ∀ (s : State) (f : Fn) (q : QuadId) (o : ObjId) (k : ObjLock) (v : Word) (u : Timer), Sane s →
    let i := objIx q.val o.val
    let x := s.obj i
    let b := s.objBus q.val o.val
    let word (t : State) (n : Nat) : Word := t.objWord q.val o.val n
    let w0 := word s 0
    let open_ : Prop := s.hostOpen f.val = true
    let entered (t : State) : Prop := ∃ e : Entry, t.bus b = e.placeIn (s.bus b) ∧ e.enteredLt = s.now ∧ e.src = .obj o.val ∧
      e.fr = t.objFrame q.val o.val ∧
      e.oneShot = w0.getLsbD 26 ∧ e.sel = s.lanesOf b ∧ e.done = false
    let ready : Prop := s.objEntry q.val o.val = none ∧ s.objPoisoned q.val o.val = false ∧
      ∃ l ∈ s.lanesOf b, s.cond l ≠ .down
    let legal : Prop := 1 ≤ fieldOf (word s 1) 29 3 ∧ fieldOf (word s 1) 29 3 ≤ 5 ∧ 100 ≤ fieldOf (word s 6) 12 20 ∧
      (objLenClamp (fieldOf (word s 1) 29 3) (fieldOf (word s 2) 0 7)).2 = 0
    let off : Prop := ∀ n < 4, s.laneSt (4 * q.val + n) = St.off
    (open_ → x.lock = some k → k.f = f.val → k.staged = [(8, v)] → x.shadow = none → w0.getLsbD 30 = true →
      w0.getLsbD 31 = false → x.next = none → s.objEntry q.val o.val = none → Holds (.objectRelease f q o) s fun t =>
        word t 8 = v ∧ word t 31 = word s 31 + 1 ∧
        (∀ n, 0 < n → n < 31 → n ≠ 8 → (n = 1 ∨ n = 2 ∨ n = 6 → legal) → word t n = word s n) ∧
        (fieldOf (word s 1) 29 3 = 0 → fieldOf (word t 1) 29 3 = 1) ∧ 100 ≤ fieldOf (word t 6) 12 20 ∧
        (t.obj i).lock = none ∧ t.clampCount f.val = s.clampCount f.val ∧ t.buses = s.buses) ∧
    (open_ → x.lock = some k → k.f = f.val → k.staged = [(0, v)] → x.shadow = none → v.getLsbD 24 = true →
      v.getLsbD 23 = false → fieldOf v 25 7 = fieldOf w0 25 7 → w0.getLsbD 31 = true → w0.getLsbD 30 = true →
      w0.getLsbD 27 = false → s.clampObjLane q.val (fieldOf w0 28 2) = fieldOf w0 28 2 → ready →
      Holds (.objectRelease f q o) s fun t => entered t ∧ (t.obj i).lock = none ∧ (word t 0).getLsbD 24 = true) ∧
    (x.next = some u → s.ranOut u = true → ready → Holds (.periodicRelease q o) s fun t =>
      entered t ∧ (t.obj i).next = some { u with due := u.due + s.objPeriod q.val o.val }) ∧
    (∀ e, x.next = some u → s.ranOut u = true → s.objEntry q.val o.val = some (b, e) → e.inFlight = false →
      s.objPoisoned q.val o.val = false → (∃ l ∈ s.lanesOf b, s.cond l ≠ .down) → Holds (.periodicRelease q o) s fun t =>
        fieldOf (word t 7) 16 8 = min 255 (fieldOf (word s 7) 16 8 + 1) ∧
        ∃ y : Entry, t.bus b = y.placeIn ((s.bus b).filter fun z => !(decide (z.id = e.id))) ∧ y.src = .obj o.val ∧
          y.fr = s.objFrame q.val o.val) ∧
    (x.next = some u → s.ranOut u = false → exec (.periodicRelease q o) s = .next s) ∧
    (∀ mode : BitVec 2, open_ → off → Holds (.quadModeWrite f q mode) s fun t =>
      t.quadMode q.val = min mode.toNat 2 ∧
      t.clampCount f.val = s.clampCount' f.val (if mode.toNat = 3 then 1 else 0) ∧ t.buses = s.buses) ∧
    (∀ mode : BitVec 2, open_ → ¬ off → Holds (.quadModeWrite f q mode) s fun t =>
      t.quadMode q.val = s.quadMode q.val ∧ t.clampCount f.val = s.clampCount' f.val 1 ∧ OnlyPieces [.regs] s t) ∧
    (∀ gate, open_ → off → Holds (.quadGateWrite f q gate) s fun t =>
      t.fb (F.QUAD_CTRL.GATE q.val) = gate ∧ t.quadMode q.val = s.quadMode q.val ∧ OnlyPieces [.regs] s t) ∧
    (∀ gate, open_ → ¬ off → Holds (.quadGateWrite f q gate) s fun t =>
      t.fb (F.QUAD_CTRL.GATE q.val) = s.fb (F.QUAD_CTRL.GATE q.val) ∧ t.clampCount f.val = s.clampCount' f.val 1) ∧
    (s.fb (F.QUAD_CTRL.GATE q.val) = true → Holds (.quadGatedDone q) s fun t =>
      t.fb (F.QUAD_CTRL.GATED q.val) = true ∧ OnlyPieces [.regs] s t) ∧
    (s.fb (F.QUAD_CTRL.GATED q.val) = true → s.fb (F.QUAD_CTRL.GATE q.val) = false → Holds (.quadUngateDone q) s fun t =>
      t.fb (F.QUAD_CTRL.GATED q.val) = false ∧ t.src 895 = (s.src 895).event ∧
      (∀ n < 4, s.fb (F.LANE_FLTCFG.CACHED (4 * q.val + n)) = true → (t.cache (4 * q.val + n)).active = (s.memElems
        (s.halfBase (4 * q.val + n) (s.f (F.LANE_FLTCFG.ACTIVE_HALF (4 * q.val + n))))
        (s.f (F.LANE_FLTCFG.LIST_LEN (4 * q.val + n)))).map fun z => z.getD ⟨0, 0, 0, 0⟩) ∧
      OnlyPieces [.regs, .filters, .irq] s t)

/-- FLT_LOAD on a bus with no load in progress is taken where the list fits the half and no other region meets it, and is
BUSY, refused LIST_SIZE or OVERLAP otherwise. The elements arrive in the half that is not active, clamped; a sorted list
that breaks the conditions of R229 is refused LIST_FORM with the active list kept. The commit, when no walk runs, makes the
half active with its length, order, default and cache flag, swaps the copies of the element cache, leaves a frame that still
waits on a stopped lane its old list, and completes DONE with the clamps counted; a region that a write has changed since
ends the load with cause STATE. This statement rests on choices of the model: log 1 and 6. -/
def Obligations.FilterListsLoad : Prop :=
  ∀ (s : State) (f : Fn) (d : Words8) (b : LaneId) (x : FltLoad) (e : Rec4) (r : AdminRef) (walks : Bool), r.f < 2 →
    let n := s.clampBus (fieldOf d.w1 0 7)
    let count := fieldOf d.w4 0 15
    let room := 64 * (s.f (F.LANE_FLTCFG.FBLOCKS n) + 1)
    let fits : Prop := count ≤ room ∧ (d.w1.getLsbD 7 = true ∨ count ≤ 2048)
    let half := s.f (F.LANE_FLTCFG.ACTIVE_HALF b.val)
    let addr := elemAddr (s.halfBase b.val (1 - half))
    let arrived : Prop := s.flt b.val = some x ∧ x.transferred = false ∧ x.broken = false ∧ x.count = 1
    (Taken s f d 0x4D → (s.flt n).isSome = true → EndsWith (.fltLoad f d) s f d .busy 0 0 fun u => u = s.adminTake f.val) ∧
    (Taken s f d 0x4D → s.flt n = none → ¬ fits → Refuses (.fltLoad f d) s f d .listSize) ∧
    (Taken s f d 0x4D → s.flt n = none → fits → s.fltOverlaps n = true → Refuses (.fltLoad f d) s f d .overlap) ∧
    (Taken s f d 0x4D → s.flt n = none → fits → s.fltOverlaps n = false → Holds (.fltLoad f d) s fun t =>
      (∃ y, t.flt n = some y ∧ y.ref = some (refOf f d) ∧ y.count = count ∧ y.sorted = d.w1.getLsbD 7 ∧
        y.transferred = false ∧ y.broken = false ∧ y.defArg = fieldOf d.w1 16 16 ∧
        y.defAction = (if fieldOf d.w1 12 4 = 5 ∨ 7 ≤ fieldOf d.w1 12 4 then 3 else fieldOf d.w1 12 4)) ∧
      OnlyPieces [.filters, .rings] s t) ∧
    (arrived → x.sorted = false → Holds (.fltLoadTransferDone b [e]) s fun t =>
      t.rec4 addr = (elemClamp e).1 ∧
      t.flt b.val = some { x with transferred := true, clamps := x.clamps + (elemClamp e).2 } ∧
      t.cache b.val = { s.cache b.val with shadow := [(elemClamp e).1] } ∧
      (∀ a, (a < addr ∨ addr + 16 ≤ a) → t.rd8 a = s.rd8 a) ∧ OnlyPieces [.mem, .filters, .poison] s t) ∧
    (arrived → x.ref = some r → x.sorted = true → sortedOk [(elemClamp e).1] = false →
      ∃ u : State, exec (.fltLoadTransferDone b [e]) s = .next (u.adminCpl r .refused Cause.listForm.code 0 0 0 0 0) ∧
        u.flt b.val = none ∧ u.f (F.LANE_FLTCFG.ACTIVE_HALF b.val) = half ∧
        (∀ a, (a < addr ∨ addr + 1024 * (s.f (F.LANE_FLTCFG.FBLOCKS b.val) + 1) ≤ a) → u.rd8 a = s.rd8 a)) ∧
    (s.flt b.val = some x → x.ref = some r → x.transferred = true → x.broken = false → s.walkRuns b.val = false →
      x.count < 32768 → x.defAction < 16 → x.defArg < 65536 →
      ∃ u : State, exec (.fltLoadCommit ⟨b, false⟩) s = .next (u.adminCpl r .done 0 0 0 0 0 0) ∧
        u.f (F.LANE_FLTCFG.ACTIVE_HALF b.val) = 1 - half ∧ u.f (F.LANE_FLTCFG.LIST_LEN b.val) = x.count ∧
        u.fb (F.LANE_FLTCFG.SORTED b.val) = x.sorted ∧ u.f (F.LANE_FLTCFG.DEF_ACTION b.val) = x.defAction ∧
        u.f (F.LANE_FLTCFG.DEF_ARG b.val) = x.defArg ∧ u.fb (F.LANE_FLTCFG.DEF_RECORD b.val) = x.defRecord ∧
        u.fb (F.LANE_FLTCFG.CACHED b.val) = (!x.sorted && decide (x.count ≤ 256)) ∧
        u.clampCount r.f = s.clampCount' r.f x.clamps ∧ u.flt b.val = none ∧
        u.cache b.val = ⟨(s.cache b.val).shadow, (s.cache b.val).active⟩ ∧ OnlyPieces [.regs, .lanes, .filters] s u ∧
        (∀ l ∈ s.lanesOf b.val, ∀ w ∈ (u.lane l).wait, w.old.isSome = true)) ∧
    (∀ c, (c = .fltLoadTransferDone b [e] ∧ x.transferred = false ∧ x.count = 1) ∨
        (c = .fltLoadCommit ⟨b, false⟩ ∧ x.transferred = true ∧ s.walkRuns b.val = false) →
      s.flt b.val = some x → x.ref = some r → x.broken = true →
      exec c s = .next ((s.setFlt b.val none).adminCpl r .refused Cause.state.code 0 0 0 0 0)) ∧
    (s.flt b.val = some x → x.transferred = false ∨ walks = true ∨ s.walkRuns b.val = true →
      exec (.fltLoadCommit ⟨b, walks⟩) s = .next s)

/-- RT_LOAD and POL_LOAD are BUSY behind one of their kind, are refused RANGE where the run leaves the table, and are taken
otherwise with COUNT clamped to 1 to 4096. The commit of a run of one route entry writes its words, reserved bits zero,
heals them, counts a new content and no kill; of one group descriptor its VALID, COUNT and BASE. The commit of one policer
writes its fields as clamped, with both buckets full, and counts the clamps. Each completes DONE. This statement rests on
choices of the model: log 40, 48 and 72. -/
def Obligations.RunsLoad : Prop :=
  ∀ (s : State) (f : Fn) (d : Words8) (e : Rec4) (v : BitVec 64) (r : AdminRef) (n : Nat), r.f < 2 →
    let first := fieldOf d.w1 0 16
    let group := d.w1.getLsbD 16
    let k := max 1 (min 4096 (fieldOf d.w4 0 13))
    let end_ : Nat := if group then 4096 else 65536
    let pfirst := fieldOf d.w1 0 12
    let pir := max 1 (min 1048575 (v.extractLsb' 42 20).toNat)
    let cir := min pir (v.extractLsb' 22 20).toNat
    let pbs := max 33 (min 2047 (v.extractLsb' 11 11).toNat)
    let cbs := max 33 (min 2047 (v.extractLsb' 0 11).toNat)
    (Taken s f d 0x4E → s.rtLoad.isSome = true → EndsWith (.rtLoad f d) s f d .busy 0 0 fun u => u = s.adminTake f.val) ∧
    (Taken s f d 0x4E → s.rtLoad = none → end_ < first + k → Refuses (.rtLoad f d) s f d .range) ∧
    (Taken s f d 0x4E → s.rtLoad = none → first + k ≤ end_ → Holds (.rtLoad f d) s fun t =>
      t.rtLoad = some ⟨refOf f d, first, k, group⟩ ∧ t.polLoad = s.polLoad ∧ t.mem = s.mem ∧
      OnlyPieces [.routes, .rings, .regs] s t) ∧
    (Taken s f d 0x4F → s.polLoad.isSome = true → EndsWith (.polLoad f d) s f d .busy 0 0 fun u => u = s.adminTake f.val) ∧
    (Taken s f d 0x4F → s.polLoad = none → 4096 < pfirst + k → Refuses (.polLoad f d) s f d .range) ∧
    (Taken s f d 0x4F → s.polLoad = none → pfirst + k ≤ 4096 → Holds (.polLoad f d) s fun t =>
      (∃ y, t.polLoad = some y ∧ y.ref = refOf f d ∧ y.first = pfirst ∧ y.count = k) ∧ t.rtLoad = s.rtLoad ∧
      OnlyPieces [.routes, .rings, .regs] s t) ∧
    (n < 65536 → s.rtLoad = some ⟨r, n, 1, false⟩ → s.engUp 32 = true → fieldOf e.w0 30 2 = 1 →
      ∃ u : State, exec (.rtLoadCommit [e]) s = .next (u.adminCpl r .done 0 0 0 0 0 0) ∧
        u.rec4 (routeWord n 0) = ⟨e.w0 &&& 0xFFDFFFFF#32, e.w1 &&& 0x1FFFFFFF#32, e.w2 &&& 0xFFF0FFFF#32, 0⟩ ∧
        u.badRec 7 n = false ∧ u.gen n = s.gen n + 1 ∧ u.rtLoad = none ∧
        (∀ a, (a < routeWord n 0 ∨ routeWord n 0 + 16 ≤ a) → u.rd8 a = s.rd8 a) ∧
        OnlyPieces [.mem, .routes, .regs, .poison] s u) ∧
    (n < 4096 → s.rtLoad = some ⟨r, n, 1, true⟩ → s.engUp 32 = true →
      ∃ u : State, exec (.rtLoadCommit [e]) s = .next (u.adminCpl r .done 0 0 0 0 0 0) ∧
        u.reg (0x58000 + 4 * n) = (e.w0 &&& 0x803FFFFF#32) ∧ u.rtLoad = none ∧ OnlyPieces [.routes, .regs] s u) ∧
    (∀ t0, n < 4096 → s.polLoad = some t0 → t0.ref = r → t0.first = n → t0.count = 1 →
      ∃ u : State, exec (.polLoadCommit [v]) s = .next (u.adminCpl r .done 0 0 0 0 0 0) ∧
        u.f (F.FIRN_POL.CBS n) = cbs ∧ u.f (F.FIRN_POL.PBS n) = pbs ∧ u.f (F.FIRN_POL.CIR n) = cir ∧
        u.f (F.FIRN_POL.PIR n) = pir ∧ u.fb (F.FIRN_POL.EN n) = v.getLsbD 63 ∧ u.fb (F.FIRN_POL.AWARE n) = v.getLsbD 62 ∧
        u.bucket n = { tc := cbs * 64 * 160000, tp := pbs * 64 * 160000, last := s.now } ∧ u.polLoad = none)

/-- PORT_ENABLE ends the set-up state of a port, and is refused for an enabled one. PORT_DISABLE waits for the frame on the
wire, with the port's later commands held behind it, and else takes the link down and empties the queue as at the expiry of
the hold. A link that goes down counts, raises source 870 + e, starts the hold, and sets ON_ALT for every device whose
primary port it is and whose alternative can take over, where a stack frame held for it moves; one that comes up ends the
hold, after its expiry if it has run out. When the hold expires every queued frame goes: a descriptor completes LANE_DOWN,
or EXPIRED past its deadline, any other counts its cells in PH_FREED, and a forwarded PTP message counts in TC_DROP too.
This statement rests on choices of the model: log 9 and 57. -/
def Obligations.EthernetLinks : Prop :=
  ∀ (s : State) (f : Fn) (d : Words8) (e : PortId) (speed : BitVec 2) (g : Egress) (x : Fetched), Sane s →
    let n := portOf d
    let on (t : State) (k : Nat) : Bool := t.fb (F.ETH_STAT.ENABLED k)
    let link (t : State) (k : Nat) : Bool := t.fb (F.ETH_STAT.LINK k)
    let free : Prop := (s.eth n).pendDis = none
    let falls (t : State) (k : Nat) : Prop := link t k = false ∧
      t.f (F.ETH_STAT.LINKCHG k) = min (s.f (F.ETH_STAT.LINKCHG k) + 1) 65535 ∧ t.src (870 + k) = (s.src (870 + k)).event
    let toAlt (t : State) (k : Nat) : Prop := ∀ i < 16384, s.f (F.STACK_PATH.PRIMARY i) = k → s.fb (F.STACK_PATH.ALT_VALID i) = true →
      link s (s.f (F.STACK_PATH.ALT i)) = true → s.f (F.STACK_PATH.ALT i) ≠ k → t.fb (F.STACK_PATH.ON_ALT i) = true
    let empty (t : State) (k : Nat) : Prop :=
      (t.eth k).queue = [] ∧ (t.eth k).hold = none ∧ (t.eth k).holdOver = true ∧ t.fb (F.FIRN_PHOLD.HELD k) = false
    let e' := e.val
    let y := s.eth e'
    let above : Prop := s.ranOut? y.hold = true
    (Taken s f d 0x52 → free → on s n = false → Done (.portEnable f d) s f d fun u => on u n = true ∧
      (∀ k < 4, k ≠ n → on u k = on s k) ∧ OnlyPieces [.regs, .rings] s u) ∧
    (Taken s f d 0x52 → free → on s n = true → Refuses (.portEnable f d) s f d .state) ∧
    (Taken s f d 0x53 → free → (s.eth n).wire.isSome = true → Holds (.portDisable f d) s fun t =>
      t.eth n = { s.eth n with pendDis := some (some (refOf f d)) } ∧ on t n = on s n ∧ OnlyPieces [.rings, .eths] s t) ∧
    (Taken s f d 0x53 → free → (s.eth n).wire = none → (s.eth n).queue = [] → Done (.portDisable f d) s f d fun u =>
      on u n = false ∧ empty u n ∧ (link s n = true → falls u n ∧ toAlt u n) ∧ (link s n = false → u.srcs = s.srcs) ∧
      (s.voqs = [] → OnlyPieces [.regs, .rings, .irq, .eths] s u)) ∧
    (∀ c op, (c, op) ∈ [(Instr.portEnable f d, 0x52), (.portDisable f d, 0x53)] → Taken s f d op → ¬ free →
      exec c s = .next ((s.adminTake f.val).withHeld (s.held ++ [⟨f.val, d⟩]))) ∧
    (link s e' = true → Holds (.ethLinkDown e) s fun t => link t e' = false ∧ toAlt t e' ∧
      (t.eth e').hold = some (s.after (some (s.ethBase e')) (tbMs (s.f (F.FIRN_PHOLD.HOLD_MS e')))) ∧
      t.fb (F.FIRN_PHOLD.HELD e') = true ∧ (y.queue = [] → s.voqs = [] → falls t e' ∧ OnlyPieces [.regs, .irq, .eths] s t)) ∧
    (∀ o a, link s e' = true → y.queue = [g] → g.fid = none → g.kind = .stack o → o.all = false → s.voqs = [] →
      s.f (F.STACK_PATH.PRIMARY (devOf o.dst)) = e' → s.fb (F.STACK_PATH.ALT_VALID (devOf o.dst)) = true →
      s.f (F.STACK_PATH.ALT (devOf o.dst)) = a → link s a = true → a ≠ e' → Holds (.ethLinkDown e) s fun t =>
        (t.eth e').queue = [] ∧ (t.eth a).queue = (s.eth a).queue ++ [g]) ∧
    (link s e' = false → exec (.ethLinkDown e) s = .next s) ∧
    (on s e' = true → link s e' = false → Holds (.ethLinkUp e speed) s fun t => link t e' = true ∧
      t.f (F.ETH_STAT.SPEED e') = (if s.f (F.ETH_CFG.MODE e') = 0 then 0 else if s.f (F.ETH_CFG.MODE e') = 1 then 1
        else max 1 speed.toNat) ∧
      (t.eth e').hold = none ∧ (t.eth e').holdOver = false ∧ t.fb (F.FIRN_PHOLD.HELD e') = false ∧
      t.src (870 + e') = (s.src (870 + e')).event ∧
      (above → (t.eth e').queue = [] ∧ t.fb (F.FIRN_PHOLD.EXPIRED e') = true) ∧
      (¬ above → t.eth e' = { y with hold := none, holdOver := false } ∧ OnlyPieces [.regs, .irq, .eths] s t)) ∧
    (on s e' = false ∨ link s e' = true → exec (.ethLinkUp e speed) s = .next s) ∧
    (above → Holds (.portHoldExpiry e) s fun t => empty t e' ∧ t.fb (F.FIRN_PHOLD.EXPIRED e') = true ∧
      (y.queue = [] → t.src (1018 + e') = (s.src (1018 + e')).event ∧ OnlyPieces [.regs, .irq, .eths] s t) ∧
      (y.queue = [g] → g.fid = none → g.kind = .desc x →
        EthEnds s t x (if s.ranOut? g.deadline then .expired else .laneDown) g.attempts none) ∧
      (∀ bs i p ev, y.queue = [g] → g.kind = .ptp bs i p ev →
        t.f F.TB_TCSTAT.TC_DROP = min (s.f F.TB_TCSTAT.TC_DROP + 1) 65535 ∧
        (∀ k n, g.fid = some k → (s.frame k).holds = [(32 + e', n)] → y.wire = none → t.f (F.FIRN_PHOLD.PH_FREED e') =
          min (s.f (F.FIRN_PHOLD.PH_FREED e') + (s.frame k).cells.length) 65535))) ∧
    (¬ above → exec (.portHoldExpiry e) s = .next s)

/-- An enabled port with its link up and nothing on the wire sends the next frame: the earliest of the highest class. It
stamps the SFD; an event message that the transparent clock forwards over Layer 2 or IPv4 has its residence time added to
correctionField, over IPv4 with UDP checksum 0. A poisoned frame goes and counts ECC_DROP. When the frame has been sent, a
descriptor completes with its stamp. A received frame with a bad FCS, and one that nothing wants, count; one whose CQ no
function has goes; one for a CQ is queued at its function's port, and a PTP message that TC_EN forwards is queued at the
other port in its class, where Firn admits them. This statement rests on choices of the model: log 6, 23, 26, 27 and 29. -/
def Obligations.EthernetFrames : Prop :=
  ∀ (s : State) (e : PortId) (g : Egress) (pre post : List Egress) (x : Fetched) (w : OnWire) (fr : EthFrame) (f : Fn) (i : PortId),
    let e' := e.val
    let y := s.eth e'
    let up : Prop := s.fb (F.ETH_STAT.ENABLED e') = true ∧ s.fb (F.ETH_STAT.LINK e') = true
    let starts : Prop := up ∧ y.wire = none ∧ s.nextOnPort e' pre g post
    let intact : Prop := ∀ k, g.fid = some k → s.framePoisoned k = false
    let stamp := s.ethStamp e' (s.readVal (s.ethBase e')) true
    let sends (t : State) (bytes : List Byte) : Prop :=
      t.eth e' = { y with queue := pre ++ post, wire := some ⟨{ g with attempts := g.attempts + 1 }, stamp, bytes⟩ } ∧
      ∀ k, k ≠ e' → t.eth k = s.eth k
    let ended : Prop := y.wire = some w ∧ w.eg.fid = none ∧ y.pendDis = none ∧ s.mor.capture = false
    let corrected_ (z : List Byte) (a : PtpAt) (c p : Nat) : List Byte := putAt z (a.off + 8) (beBytes 8
      (unsigned 64 (signed 64 (beAt z (a.off + 8) 8) + s.residence (s.now - c) (s.domainIncr (byteAt z (a.off + 4))) p e')))
    let bs := fr.bytes
    let t0 := s.ethStamp e' fr.sfd false
    let q := s.f (F.ETH_CFG.RX_CQ e')
    let rx : Prop := up ∧ 14 ≤ bs.length ∧ bs.length ≤ 9614 ∧ s.isStackFrame e' bs = false
    let good : Prop := rx ∧ fr.fcsOk = true ∧ s.mor.capture = false ∧ s.fb (F.FIRN_IPOL.EN (128 + e')) = false
    let wanted := s.ethRxWanted e' bs
    let cells := cellsFor bs.length
    let room (p c : Nat) : Prop := s.chg (4 * p + c) + cells ≤ s.gLimit p c ∧ s.fits p cells = true
    let queued (t : State) (p c : Nat) (what : Deliver) : Prop :=
      t.voq (((32 + e') * 40 + p) * 4 + c) = s.voq (((32 + e') * 40 + p) * 4 + c) ++
        [{ fid := s.nextFid, left := cells, tc := c, what := what }]
    let cls := s.f (F.TB_TCCFG.CLASS e')
    (∀ z, starts → intact → g.kind = .desc z → Holds (.ethTxStart e) s fun t =>
      sends t (pad60 (z.data.getD [])) ∧ OnlyPieces [.eths] s t) ∧
    (∀ z, starts → intact → g.kind = .stack z → Holds (.ethTxStart e) s fun t =>
      sends t (s.stackBytes e' z) ∧ OnlyPieces [.eths] s t) ∧
    (∀ z c k, starts → intact → g.kind = .relay c k z ∨ g.kind = .sync c z ∨ g.kind = .delayReq c z ∨ g.kind = .other z →
      Holds (.ethTxStart e) s fun t => sends t (pad60 z) ∧ OnlyPieces [.eths] s t) ∧
    (∀ z c p ev, starts → intact → g.kind = .ptp z c p ev → ev = false → Holds (.ethTxStart e) s fun t =>
      sends t (pad60 z) ∧ OnlyPieces [.eths] s t) ∧
    (∀ z c p a, starts → intact → g.kind = .ptp z c p true → ptpAt z = some a → a.kind ≤ 1 → Holds (.ethTxStart e) s fun t =>
      (a.kind = 0 → sends t (pad60 (corrected_ z a c p))) ∧
      (a.kind = 1 → sends t (pad60 (putAt (corrected_ z a c p) (a.udp + 6) [0, 0]))) ∧
      t.f F.TB_TCSTAT.TC_FWD = min (s.f F.TB_TCSTAT.TC_FWD + 1) 65535 ∧ OnlyPieces [.eths, .regs] s t) ∧
    (∀ k, starts → g.fid = some k → s.framePoisoned k = true → (∀ z, g.kind ≠ .desc z) → Holds (.ethTxStart e) s fun t =>
      t.eth e' = { y with queue := pre ++ post } ∧
      t.f F.FIRN_DROPSTAT.ECC_DROP = min (s.f F.FIRN_DROPSTAT.ECC_DROP + 1) 65535) ∧
    (¬ up ∨ y.wire.isSome = true ∨ y.queue = [] → exec (.ethTxStart e) s = .next s) ∧
    (ended → w.eg.kind = .desc x → Holds (.ethFrameTxEnd e) s fun t => t.eth e' = { y with wire := none } ∧
      EthEnds s t x (if w.eg.mark = .cancel then .doneCancelLate else if w.eg.mark = .abort then .doneAbortLate else .done)
        w.eg.attempts (some w.stamp) ∧ OnlyPieces [.host, .rings, .irq, .eths] s t) ∧
    (∀ b, ended → w.eg.kind = .other b → Holds (.ethFrameTxEnd e) s fun t =>
      t.eth e' = { y with wire := none } ∧ OnlyPieces [.eths] s t) ∧
    (y.wire = none → exec (.ethFrameTxEnd e) s = .next s) ∧
    (s.ethTakes e' fr = true → fr.fcsOk = false → Holds (.ethFrameRx e fr) s fun t =>
      t.f (F.ETH_STAT.RX_BADFCS e') = min (s.f (F.ETH_STAT.RX_BADFCS e') + 1) 65535 ∧ OnlyPieces [.regs] s t) ∧
    (good → wanted = false → s.ptpPorts e' bs = [] → Holds (.ethFrameRx e fr) s fun t =>
      t.f (F.ETH_STAT.RX_FILT e') = min (s.f (F.ETH_STAT.RX_FILT e') + 1) 65535 ∧ OnlyPieces [.regs] s t) ∧
    (good → wanted = true → s.ptpPorts e' bs = [] → (s.cq q).home = none → Holds (.ethFrameRx e fr) s fun t =>
      (t.cq q).drops = (s.cq q).drops + (if (s.cq q).deleted then 1 else 0) ∧ OnlyPieces [.rings] s t) ∧
    (good → wanted = true → s.ptpPorts e' bs = [] → (s.cq q).home = some f.val → room (36 + f.val) 2 →
      s.heldOf q + cells ≤ s.f (F.FIRN_RQUOTA.QUOTA q) → Holds (.ethFrameRx e fr) s fun t =>
        (∃ r : RxItem, queued t (36 + f.val) 2 (.rings [(q, r)]) ∧ r.eth = true ∧ r.bus = e' ∧ r.stamp = t0 ∧ r.data = bs ∧
          r.seq = s.nextValid ∧ r.gen = (s.cq q).gen) ∧
        t.cqs = s.cqs) ∧
    (good → wanted = false → s.ptpPorts e' bs = [i.val] → (s.eth i.val).holdOver = false → room (32 + i.val) cls →
      Holds (.ethFrameRx e fr) s fun t => ∃ r : Egress, queued t (32 + i.val) cls (.eth [r]) ∧ r.tc = cls ∧
        r.fid = some s.nextFid ∧ ∃ ev, r.kind = .ptp bs fr.lt e' ev) ∧
    (¬ up → exec (.ethFrameRx e fr) s = .next s)

/-- BLOCK_START of block 0, reserved codes counting as a clamp, starts the capture with an empty ring, with a ring kept
through a reset, or where it stopped, the attached region reduced to what is installed (R692); BLOCK_STOP ends it and the
post window, and writes the ring header. ARM needs MODE 1 and no open post window; TRIGGER an armed recorder; FREEZE one
that is not frozen: it writes what was admitted, the header, and raises 849. DUMP of the attached ring is held, out of range
it is refused; its units are copied to the host and reported. HRING_RESTART is for HFUNC alone, CLEAR for a frozen recorder.
STATUS and codes above it answer with WRITE, OLDEST, the next number, the trigger and the status bits. This statement rests
on choices of the model: log 39, 96 and 112. -/
def Obligations.RecorderCommands : Prop :=
  ∀ (s : State) (f : Fn) (d : Words8) (r : AdminRef) (a off n : Nat) (rest : List (AdminRef × Nat × Nat × Nat)), Sane s →
    let x := s.mor
    let dest := s.fb F.MOR_CTRL.DEST
    let mode := s.fb F.MOR_CTRL.MODE
    let frozen := s.fb F.MOR_STAT.FROZEN
    let armed := s.fb F.MOR_STAT.ARMED
    let ring := dramBase + s.f F.MOR_DRING.BASE * 1048576
    let headed (t : State) : Prop := dest = false → t.rd32 ring = BitVec.ofNat 32 t.mor.write ∧
      t.rd32 (ring + 4) = BitVec.ofNat 32 t.morOldest ∧ t.rd32 (ring + 8) = BitVec.ofNat 32 (t.f F.MOR_STAT.NEXT_SEQ) ∧
      t.rd32 (ring + 12) = BitVec.ofNat 32 t.mor.trigOff ∧ t.rd32 (ring + 16) = BitVec.ofNat 32 t.morBits
    let due := some (s.now + ltMs)
    let open_ : Prop := x.postDue.isSome = true ∧ s.fb F.MOR_STAT.TRIGGERED = true ∧ frozen = false
    let now_ := s.baseVal (s.f F.MOR_CTRL.TB)
    let over_ := s.dringOver
    let units := max 1 (min 524288 d.w5.toNat)
    (TakenSub s f d 0x54 0 → x.started = false → over_ = false → s.morKept = false → Done (.blockStartMoraine f d) s f d fun u =>
      u.mor = { x with write := 0, recs := [], started := true, capture := true, kept := none, headerDue := due } ∧
      OnlyPieces [.rings, .mor] s u) ∧
    (TakenSub s f d 0x54 0 → x.started = false → over_ = false → s.morKept = true → Done (.blockStartMoraine f d) s f d fun u =>
      u.mor.capture = true ∧ u.mor.write = (s.rd32 ring).toNat ∧ u.mor.recs = recsUpTo s.morUnits (s.rd32 ring).toNat x.recs ∧ u.mor.trigOff = (s.rd32 (ring + 12)).toNat ∧
      u.f F.MOR_STAT.NEXT_SEQ = (s.rd32 (ring + 8)).toNat ∧ OnlyPieces [.regs, .rings, .mor] s u) ∧
    (TakenSub s f d 0x54 0 → x.started = false → over_ = true → Done (.blockStartMoraine f d) s f d fun u =>
      u.mor.capture = true ∧ u.f F.MOR_DRING.SIZE = s.dramLimit - s.f F.MOR_DRING.BASE) ∧
    (TakenSub s f d 0x54 0 → x.started = true → Done (.blockStartMoraine f d) s f d fun u =>
      u.mor = { x with capture := true, kept := none, headerDue := due } ∧ OnlyPieces [.rings, .mor] s u) ∧
    (∀ b, 4 ≤ b → TakenSub s f d 0x54 b → Done (.blockStartMoraine f d) s f d fun u =>
      u.mor.capture = true ∧ u.clampCount f.val = s.clampCount' f.val 1) ∧
    (TakenSub s f d 0x55 0 → Done (.blockStopMoraine f d) s f d fun u => headed u ∧
      u.mor = { x with capture := false, postDue := none, trigTime := none, headerDue := none } ∧
      OnlyPieces [.mem, .rings, .mor] s u) ∧
    (TakenSub s f d 0x56 0 → mode = true → ¬ open_ → Done (.arm f d) s f d fun u => u.fb F.MOR_STAT.ARMED = true ∧
      u.fb F.MOR_STAT.FROZEN = false ∧ u.fb F.MOR_STAT.TRIGGERED = false ∧ OnlyPieces [.regs, .rings] s u) ∧
    (TakenSub s f d 0x56 0 → mode = false ∨ open_ → Refuses (.arm f d) s f d .state) ∧
    (TakenSub s f d 0x56 1 → armed = true → Done (.trigger f d) s f d fun u => u.fb F.MOR_STAT.TRIGGERED = true ∧
      u.fb F.MOR_STAT.ARMED = false ∧ u.mor.trigOff = x.write ∧ u.src 848 = (s.src 848).event ∧
      (mode = false → u.mor.postDue = x.postDue) ∧
      (mode = true → u.mor.postDue = some (now_ + tbMs (s.f F.MOR_WIN.POST_MS)) ∧
        u.mor.trigTime = (if dest then none else some now_)) ∧ OnlyPieces [.regs, .rings, .irq, .mor] s u) ∧
    (TakenSub s f d 0x56 1 → armed = false → Refuses (.trigger f d) s f d .state) ∧
    (TakenSub s f d 0x56 2 → frozen = false → Done (.freeze f d) s f d fun u => u.fb F.MOR_STAT.FROZEN = true ∧
      u.mor.postDue = none ∧ u.mor.trigTime = none ∧ (s.engUp 34 = true → headed u) ∧
      (x.queue = [] → (∀ i < 40, s.voq ((i * 40 + 38) * 4) = []) → u.mor.recs = x.recs ∧ u.src 849 = (s.src 849).event ∧
        OnlyPieces [.regs, .mem, .rings, .irq, .mor] s u)) ∧
    (TakenSub s f d 0x56 2 → frozen = true → Refuses (.freeze f d) s f d .state) ∧
    (TakenSub s f d 0x56 3 → dest = true → Refuses (.dump f d) s f d .state) ∧
    (TakenSub s f d 0x56 3 → dest = false → s.morUnits < d.w4.toNat + units → Refuses (.dump f d) s f d .range) ∧
    (TakenSub s f d 0x56 3 → dest = false → d.w4.toNat + units ≤ s.morUnits → Holds (.dump f d) s fun t =>
      t.mor = { x with dump := x.dump ++ [(refOf f d, pair64 d.w2 d.w3, d.w4.toNat, units)] } ∧
      t.clampCount f.val = s.clampCount' f.val (if units = d.w5.toNat then 0 else 1) ∧ OnlyPieces [.regs, .rings, .mor] s t) ∧
    (x.dump = (r, a, off, n) :: rest → ∃ u,
      exec .dumpDone s = .next (u.adminCpl r .done 0 (BitVec.ofNat 32 n) 0 0 0 0) ∧ u.mor = { x with dump := rest } ∧
      (∀ i < n * 32, u.hostByte r.f (a + i) = s.rd8 (ring + 4096 + off * 32 + i)) ∧
      (∀ i, i < a ∨ a + n * 32 ≤ i → u.hostByte r.f i = s.hostByte r.f i) ∧ OnlyPieces [.host, .mor] s u) ∧
    (x.dump = [] → exec .dumpDone s = .next s) ∧
    (TakenSub s f d 0x56 4 → s.f F.MOR_CTRL.HFUNC = f.val → Done (.hringRestart f d) s f d fun u =>
      u.f F.MOR_HHEAD.HEAD = 0 ∧ u.fb F.MOR_STAT.HOST_LOST = false ∧ u.mor = { x with write := 0, recs := [] } ∧
      OnlyPieces [.regs, .rings, .mor] s u) ∧
    (TakenSub s f d 0x56 4 → s.f F.MOR_CTRL.HFUNC ≠ f.val → Refuses (.hringRestart f d) s f d .state) ∧
    (TakenSub s f d 0x56 5 → frozen = true → Done (.clear f d) s f d fun u =>
      u.mor = { x with recs := [] } ∧ OnlyPieces [.rings, .mor] s u) ∧
    (TakenSub s f d 0x56 5 → frozen = false → Refuses (.clear f d) s f d .state) ∧
    (∀ b, 6 ≤ b → TakenSub s f d 0x56 b → ∃ u, exec (.recStatus f d) s = .next (u.adminCpl (refOf f d) .done 0
      (BitVec.ofNat 32 x.write) (BitVec.ofNat 32 s.morOldest) (BitVec.ofNat 32 (s.f F.MOR_STAT.NEXT_SEQ))
      (BitVec.ofNat 32 x.trigOff) (BitVec.ofNat 32 s.morBits)) ∧
      u.clampCount f.val = s.clampCount' f.val (if b = 6 then 0 else 1) ∧ OnlyPieces [.regs, .rings] s u)

/-- While capture runs, a frame that an Ethernet port with capture set has sent enters Firn and its port's queue to the
recorder where it finds room, and else counts in LOST_ADMIT. Not frozen, with SE2 running, the oldest candidate is recorded:
where a trigger fires, it is an error or the sample counter says so; its eight words, payload and number stand at WRITE,
which moves on; a trigger is marked and raises 848. After a loss a LOSS record comes first, with source 850. A host ring
with room takes the record, its tail and source 851; without, it is lost and counts. A record that would overwrite a
protected one freezes the recorder with POST_SHORT and is not written, unless the window is over: then it is written first
(log 112). The end of the post window freezes; the header is written every millisecond; HEAD never passes WRITE. This
statement rests on choices of the model: log 1, 20, 40, 96 and 112. -/
def Obligations.RecorderRecords : Prop :=
  ∀ (s : State) (c : Cand) (fid : Nat) (rest : List (Nat × Cand)) (f : Fn) (e : PortId) (w : OnWire) (b : List Byte) (v : Word), Sane s →
    let x := s.mor
    let dest := s.fb F.MOR_CTRL.DEST
    let goes : Prop := s.fb F.MOR_STAT.FROZEN = false ∧ x.queue = (fid, c) :: rest ∧ s.engUp 34 = true
    let fire := s.fb F.MOR_STAT.ARMED && (List.range 4).any fun t => s.morFires c t
    let count := if c.skind = 0 then (s.lane c.snum).smpRx else (s.lane c.snum).smpTx
    let kept : Prop := fire = true ∨ 1 < c.skind ∨ (c.status ≠ 0 ∧ c.status ≠ 3) ∨ s.f (F.MOR_LCAP.SAMPLE_N c.snum) < count + 1
    let n := morRecUnits c.pay.length
    let at_ := x.write
    let seq := s.f F.MOR_STAT.NEXT_SEQ
    let blocked := s.morBlocked (s.morNeed c)
    let words (number : Nat) : List Word := [BitVec.ofNat 32 number, BitVec.ofNat 32 c.stamp.ns, BitVec.ofNat 32 c.stamp.sec,
      BitVec.ofNat 32 (c.stamp.sec / 4294967296 % 65536 + c.skind % 8 * 65536 + c.snum % 128 * 524288 + fire.toNat * 67108864),
      c.w4, BitVec.ofNat 32 (c.len % 16384 + c.pay.length % 16384 * 65536), c.flags ||| BitVec.ofNat 32 c.status, c.detail]
    let ring := dramBase + s.f F.MOR_DRING.BASE * 1048576
    let word (t : State) (o k : Nat) : Word := t.rd32 (ring + 4096 + o * 32 + 4 * k)
    let moved (t : State) (o : Nat) : Prop := t.mor.queue = rest ∧ t.mor.write = (o + n) % s.morUnits ∧
      t.fb F.MOR_STAT.TRIGGERED = (s.fb F.MOR_STAT.TRIGGERED || fire) ∧ t.mor.trigOff = (if fire then o else x.trigOff) ∧
      (fire = true → t.src 848 = (s.src 848).event)
    let at38 := s.chg 152 + cellsFor (payLen (s.ethCap e.val / 4) b.length) ≤ s.gLimit 38 0
    let none38 : Prop := ∀ i < 40, s.voq ((i * 40 + 38) * 4) = []
    let sent : Prop := (s.eth e.val).wire = some w ∧ w.bytes = b ∧ w.eg.kind = .other [] ∧ w.eg.fid = none ∧
      (s.eth e.val).pendDis = none ∧ x.capture = true ∧ s.fb F.MOR_STAT.FROZEN = false ∧ s.ethCap e.val / 2 % 2 = 1
    let base := s.f F.MOR_HRING.BASE * 4096 + at_ * 32
    let tail := s.f F.MOR_HTADDR.ADDR * 8
    let fn := s.f F.MOR_CTRL.HFUNC
    let frozen (t : State) : Prop := t.fb F.MOR_STAT.FROZEN = true ∧ t.mor.postDue = none ∧ t.mor.trigTime = none ∧
      t.src 849 = (s.src 849).event
    let u := s.morUnits
    let head := s.f F.MOR_HHEAD.HEAD
    let asked := (fieldOf v 0 25 + u - head % u) % u
    let inRing : Prop := fieldOf v 0 25 < u ∧ asked ≤ (at_ + u - head % u) % u
    (sent → at38 → s.fits 38 (cellsFor (payLen (s.ethCap e.val / 4) b.length)) = true → Holds (.ethFrameTxEnd e) s fun t =>
      ∃ y : Cand, t.voq (((32 + e.val) * 40 + 38) * 4) = s.voq (((32 + e.val) * 40 + 38) * 4) ++
          [⟨s.nextFid, cellsFor (payLen (s.ethCap e.val / 4) b.length), 0, .mor y⟩] ∧ y.skind = 3 ∧ y.snum = e.val ∧ y.status = 0 ∧ y.stamp = w.stamp ∧
        y.len = b.length ∧ y.pay = b.take (payLen (s.ethCap e.val / 4) b.length)) ∧
    (sent → ¬ at38 → Holds (.ethFrameTxEnd e) s fun t => t.mor.queue = x.queue ∧
      t.f F.MOR_LOSS.LOST_ADMIT = min (s.f F.MOR_LOSS.LOST_ADMIT + 1) 65535 ∧ t.mor.lost = min 4294967295 (x.lost + 1)) ∧
    (∀ i, 4 ≤ i → i < 40 → s.ctqs = [] → s.voqs = [((i * 40 + 38) * 4, [⟨fid, 1, 0, .mor c⟩])] → Holds .colSlot s fun t =>
      t.voqs = [] ∧ t.mor.queue = x.queue ++ [(fid, c)]) ∧
    (goes → kept → dest = false → x.lost = 0 → blocked = false → at_ + n ≤ u → Holds .morRecordWrite s fun t =>
      (List.range 8).map (word t at_) = words seq ∧ (∀ i < c.pay.length, t.rd8 (ring + 4096 + at_ * 32 + 32 + i) = c.pay.getD i 0) ∧
      t.mor.recs = x.recs.filter (fun r => !(decide (r.off < at_ + n) && decide (at_ < r.off + r.units))) ++ [⟨at_, n, c.time⟩] ∧
      t.f F.MOR_STAT.NEXT_SEQ = (seq + 1) % 2 ^ 32 ∧ t.f F.MOR_LOSS.RECORDS = min (s.f F.MOR_LOSS.RECORDS + 1) 4294967295 ∧
      moved t at_ ∧ OnlyPieces [.regs, .mem, .lanes, .firn, .irq, .mor] s t) ∧
    (goes → kept → dest = false → 0 < x.lost → blocked = false → at_ + 1 + n ≤ u → Holds .morRecordWrite s fun t =>
      word t at_ 0 = BitVec.ofNat 32 seq ∧ word t at_ 6 = 6 ∧ word t at_ 7 = BitVec.ofNat 32 x.lost ∧
      (List.range 8).map (word t (at_ + 1)) = words ((seq + 1) % 2 ^ 32) ∧ t.mor.lost = 0 ∧ t.src 850 = (s.src 850).event ∧
      moved t (at_ + 1)) ∧
    (goes → kept → dest = true → s.fb F.MOR_STAT.HOST_LOST = false → s.morHostFits [n] = true → x.lost = 0 → at_ + n ≤ u →
      (tail + 8 ≤ base ∨ base + 32 ≤ tail) → Holds .morRecordWrite s fun t => t.hostWords fn base 8 = words seq ∧
        t.hostWord fn tail = BitVec.ofNat 32 ((at_ + n) % u) ∧ t.src 851 = (s.src 851).event ∧ moved t at_) ∧
    (goes → kept → dest = true → s.fb F.MOR_STAT.HOST_LOST = true ∨ s.morHostFits (s.morNeed c) = false →
      Holds .morRecordWrite s fun t => t.f F.MOR_LOSS.LOST_FULL = min (s.f F.MOR_LOSS.LOST_FULL + 1) 65535 ∧
        t.mor.lost = min 4294967295 (x.lost + 1) ∧ t.mor.recs = x.recs ∧ t.mor.queue = rest) ∧
    (goes → kept → blocked = true → rest = [] → none38 → s.postOver = false → Holds .morRecordWrite s fun t =>
      frozen t ∧ t.mor.recs = x.recs ∧ t.mor.queue = [] ∧ t.fb F.MOR_STAT.POST_SHORT = true) ∧
    (goes → kept → blocked = true → rest = [] → none38 → s.postOver = true → x.lost = 0 → at_ + n ≤ u → Holds .morRecordWrite s fun t =>
      frozen t ∧ t.mor.queue = [] ∧ t.fb F.MOR_STAT.POST_SHORT = s.fb F.MOR_STAT.POST_SHORT ∧
      (List.range 8).map (word t at_) = words seq ∧ t.mor.write = (at_ + n) % u) ∧
    (goes → ¬ kept → Holds .morRecordWrite s fun t => t.mor = { x with queue := rest } ∧ t.mem = s.mem ∧
      (c.skind = 0 → (t.lane c.snum).smpRx = count + 1) ∧ (c.skind = 1 → (t.lane c.snum).smpTx = count + 1)) ∧
    (s.fb F.MOR_STAT.FROZEN = true ∨ x.queue = [] ∨ s.engUp 34 = false → exec .morRecordWrite s = .next s) ∧
    (∀ z, x.postDue = some z → x.queue = [] → none38 → z ≤ s.baseVal (s.f F.MOR_CTRL.TB) → s.engUp 34 = true →
      Holds .postWindowEnd s fun t => frozen t ∧ t.mor.recs = x.recs ∧ OnlyPieces [.regs, .mem, .irq, .mor] s t) ∧
    (∀ z, x.postDue = some z → s.baseVal (s.f F.MOR_CTRL.TB) < z ∨ s.engUp 34 = false → exec .postWindowEnd s = .next s) ∧
    (∀ z, x.headerDue = some z → z ≤ s.now → s.engUp 34 = true → dest = false → Holds .morHeaderWrite s fun t =>
      t.rd32 ring = BitVec.ofNat 32 at_ ∧ t.rd32 (ring + 4) = BitVec.ofNat 32 s.morOldest ∧
      t.rd32 (ring + 8) = BitVec.ofNat 32 seq ∧ t.rd32 (ring + 12) = BitVec.ofNat 32 x.trigOff ∧
      t.mor = { x with headerDue := some (z + ltMs) } ∧ OnlyPieces [.mem, .mor] s t) ∧
    (∀ z, x.headerDue = some z → s.now < z ∨ s.engUp 34 = false → exec .morHeaderWrite s = .next s) ∧
    (s.hostOpen f.val = true → inRing → Holds (.morHheadWrite f v) s fun t =>
      t.f F.MOR_HHEAD.HEAD = fieldOf v 0 25 ∧ OnlyPieces [.regs] s t) ∧
    (s.hostOpen f.val = true → ¬ inRing → Holds (.morHheadWrite f v) s fun t => t.f F.MOR_HHEAD.HEAD = at_ % 2 ^ 25 ∧
      t.clampCount f.val = s.clampCount' f.val 1 ∧ OnlyPieces [.regs] s t)

/-- BLOCK_START is refused where the strap and the configured IDs disagree; a configured master listens first, any other
device has its role at once. BLOCK_STOP leaves a MEMBER with nothing staged and no stack frame queued. ROUTE_PUSH of the
acting master, in range, is staged here or sent in frames. EPOCH_COMMIT for a later epoch sets the time of activation here
and at each device reached; a count that differs discards what is staged, with source 867; it completes at its due time with
the counts of devices. At the activation the staged run takes effect, EPOCH is the epoch's, 866 is raised and the answer
goes out. HANDOVER of a promoted backup whose master stands by sends the frame. STACK_STATUS reports. This statement rests
on choices of the model: log 34, 35, 40 and 60. -/
def Obligations.StackCommands : Prop :=
  ∀ (s : State) (f : Fn) (d : Words8) (recs : List Rec4) (p : PortId) (r : Rec4) (c : EpochCmd) (a : Activation), Sane s →
    let y := s.stack
    let me := s.devId
    let role (t : State) : Nat := t.f F.STACK_STATE.ROLE
    let strap := s.f F.STACK_ID.STRAP_ROLE
    let master := s.f F.STACK_ID.MASTER_ID
    let backup := s.f F.STACK_ID.BACKUP_ID
    let bad : Prop := master = backup ∨ strap = 1 ∧ me ≠ master ∨ strap = 2 ∧ me ≠ backup ∨
      (strap = 0 ∨ strap = 3) ∧ (me = master ∨ me = backup)
    let start : Prop := TakenSub s f d 0x54 2 ∧ ¬ bad ∧ y.started = false
    let begun (u : State) : Prop := u.stack.started = true ∧ OnlyPieces [.regs, .rings, .irq, .stack] s u
    let push : Prop := TakenSub s f d 0x57 0 ∧ recs.length = max 1 (min 4096 (fieldOf d.w5 0 13))
    let n := recs.length
    let dev := fieldOf d.w2 0 14
    let toAll := d.w2.getLsbD 14
    let group := d.w2.getLsbD 15
    let first := fieldOf d.w2 16 16
    let pe := d.w6.toNat
    let before := if pe = y.pushEpoch then y.pushedTo dev else 0
    let fits : Prop := s.actingMaster = true ∧ first + n ≤ (if group then 4096 else 65536) ∧ toAll = false ∧ before + n ≤ 16384
    let noted (u : State) : Prop := u.stack.pushEpoch = pe ∧ u.stack.pushedTo dev = before + n ∧
      u.clampCount f.val = s.clampCount' f.val (if n = fieldOf d.w5 0 13 then 0 else 1)
    let ce := d.w2.toNat
    let lead := max 100 (min 100000 d.w3.toNat)
    let at_ := stampOf (s.baseVal 0 + tbUs lead)
    let due := activationAt at_.sec at_.ns + s.hbMiss / ltUs * tbUs 1
    let pushed (k : Nat) : Nat := if y.pushEpoch = ce then y.pushedTo k else 0
    let complete : Prop := (if y.stagedEpoch = ce then y.staged.length else 0) = pushed me
    let commit : Prop := TakenSub s f d 0x57 1 ∧ s.actingMaster = true ∧ s.f F.STACK_STATE.EPOCH < ce ∧ y.cmd = none
    let runs (t : State) (dst : List Nat) (inc : List Nat) : Prop := t.stack.cmd = some ⟨refOf f d, ce, due, me :: dst, [], inc⟩ ∧
      t.clampCount f.val = s.clampCount' f.val (if lead = d.w3.toNat then 0 else 1)
    let acts (t : State) : Prop := t.stack.act = some ⟨ce, pushed me, at_.sec, at_.ns, none⟩ ∧ t.stack.staged = y.staged
    let reached : Prop := y.act = some a ∧ activationAt a.sec a.ns ≤ s.baseVal 0 ∧ s.engUp 32 = true
    let active (t : State) : Prop := t.stack.act = none ∧ t.f F.STACK_STATE.EPOCH = a.epoch % 4294967296 ∧
      t.src 866 = (s.src 866).event
    (TakenSub s f d 0x54 2 → bad → Refuses (.blockStartStack f d) s f d .state) ∧
    (TakenSub s f d 0x54 2 → ¬ bad → y.started = true → Done (.blockStartStack f d) s f d fun u => u = s.adminTake f.val) ∧
    (start → strap = 1 → Done (.blockStartStack f d) s f d fun u =>
      begun u ∧ u.stack.listenDue = some ⟨none, s.now + s.hbMiss⟩ ∧ role u = role s) ∧
    (start → strap ≠ 1 → Done (.blockStartStack f d) s f d fun u => begun u ∧ u.stack.missDue = some ⟨none, s.now + s.hbMiss⟩ ∧
      role u = (if strap = 2 then 2 else 0) ∧ u.fb F.STACK_STATE.STANDBY = false) ∧
    (TakenSub s f d 0x55 2 → Done (.blockStopStack f d) s f d fun u => u.stack.started = false ∧ u.stack.staged = [] ∧
      u.stack.act = none ∧ u.stack.cmd = y.cmd ∧ role u = 0 ∧ u.fb F.STACK_STATE.STANDBY = false ∧
      ∀ e < 4, (u.eth e).queue = (s.eth e).queue.filter fun g => !g.isStack) ∧
    (push → s.actingMaster = false → Refuses (.routePush f d recs) s f d .state) ∧
    (push → s.actingMaster = true → (if group then 4096 else 65536) < first + n ∨ (toAll = false ∧ 16384 < before + n) →
      Refuses (.routePush f d recs) s f d .range) ∧
    (push → fits → dev = me → s.engUp 32 = true → pe = y.stagedEpoch ∨ (y.stagedEpoch < pe ∧ y.stagedFids = []) → s.seWait = [] →
      s.fitsWaiting 39 3 (cellsFor (16 * n)) = true → Done (.routePush f d recs) s f d fun u => noted u ∧
        u.stack.stagedEpoch = pe ∧ u.stack.staged = (if pe = y.stagedEpoch then y.staged else []) ++
          (recs.zipIdx first).map (fun z => (group, z.2, z.1)) ∧ u.eths = s.eths) ∧
    (push → fits → dev ≠ me → n ≤ 128 → s.pathTo dev p.val → s.portTakes p.val (12 + 16 * n) →
      Done (.routePush f d recs) s f d fun u => noted u ∧ u.stack.staged = y.staged ∧
        Sent s u p.val (Control s s false dev 3 (pushPayload pe group first recs))) ∧
    (TakenSub s f d 0x57 1 → s.actingMaster = false ∨ ce ≤ s.f F.STACK_STATE.EPOCH → Refuses (.epochCommit f d) s f d .state) ∧
    (TakenSub s f d 0x57 1 → s.actingMaster = true → s.f F.STACK_STATE.EPOCH < ce → y.cmd.isSome = true →
      EndsWith (.epochCommit f d) s f d .busy 0 0 fun u => u = s.adminTake f.val) ∧
    (commit → complete → s.reachable = [] → Holds (.epochCommit f d) s fun t =>
      runs t [] [] ∧ acts t ∧ OnlyPieces [.regs, .rings, .stack] s t) ∧
    (commit → ¬ complete → s.reachable = [] → Holds (.epochCommit f d) s fun t =>
      runs t [] [me] ∧ t.stack.act = y.act ∧ t.stack.staged = [] ∧ t.src 867 = (s.src 867).event) ∧
    (∀ k, commit → complete → s.reachable = [k] → s.pathTo k p.val → s.portTakes p.val 18 → Holds (.epochCommit f d) s fun t =>
      runs t [k] [] ∧ acts t ∧ Sent s t p.val (Control s s false k 4
        (beBytes 4 ce ++ beBytes 4 (pushed k) ++ beBytes 6 at_.sec ++ beBytes 4 at_.ns))) ∧
    (y.cmd = some c → c.due ≤ s.baseVal 0 → ∃ u, exec .epochCommitDone s = .next (u.adminCpl c.ref .done 0
      (BitVec.ofNat 32 c.applied.length) (BitVec.ofNat 32 c.incomplete.length)
      (BitVec.ofNat 32 (c.addressees.length - c.applied.length - c.incomplete.length)) 0 0) ∧
      u.stack = { y with cmd := none } ∧ OnlyPieces [.stack] s u) ∧
    (y.cmd = some c → s.baseVal 0 < c.due → exec .epochCommitDone s = .next s) ∧
    (∀ k, reached → y.stagedEpoch = a.epoch → y.staged = [(false, k, r)] → k < 65536 → rtType r = 1 → y.stagedFids = [] →
      Holds .epochActivation s fun t => active t ∧ t.stack.staged = [] ∧ t.gen k = s.gen k + 1 ∧
        t.rec4 (routeWord k 0) = ⟨r.w0 &&& 0xFFDFFFFF#32, r.w1 &&& 0x1FFFFFFF#32, r.w2 &&& 0xFFF0FFFF#32, 0⟩) ∧
    (reached → a.from_ = none → y.cmd = some c → c.epoch = a.epoch → Holds .epochActivation s fun t =>
      active t ∧ t.stack.cmd = some { c with applied := c.applied ++ [me] }) ∧
    (∀ k, reached → a.from_ = some k → y.stagedFids = [] → s.pathTo k p.val → s.portTakes p.val 5 →
      Holds .epochActivation s fun t => active t ∧ Sent s t p.val (Control s t false k 5 (beBytes 4 a.epoch ++ [0]))) ∧
    (y.act = some a → s.baseVal 0 < activationAt a.sec a.ns ∨ s.engUp 32 = false → exec .epochActivation s = .next s) ∧
    (TakenSub s f d 0x57 2 → role s = 3 → y.masterStandby = true → s.pathTo master p.val → s.portTakes p.val 4 →
      Done (.handover f d) s f d fun u => role u = 3 ∧
        Sent s u p.val (Control s s false master 7 (beBytes 4 (s.f F.STACK_STATE.EPOCH)))) ∧
    (TakenSub s f d 0x57 2 → role s ≠ 3 ∨ y.masterStandby = false → Refuses (.handover f d) s f d .state) ∧
    (∀ b, 3 ≤ b → TakenSub s f d 0x57 b → ∃ u, exec (.stackStatus f d) s = .next (u.adminCpl (refOf f d) .done 0
      (s.reg 0x80010) (s.reg 0x80014) (BitVec.ofNat 32 (s.f F.STACK_CNT.HB_MISSED)) 0 0) ∧
      u.clampCount f.val = s.clampCount' f.val (if b = 3 then 0 else 1) ∧ OnlyPieces [.regs, .rings] s u)

/-- At each interval a heartbeat with EPOCH, role and STANDBY goes to every port with STACK_EN. At the end of its listening
time a configured master leads, or stands by where a promoted device was heard. A master that has not been heard before this
lt (log 7) sets MASTER_LOST, counts, raises 865, and a backup leads as ACTING. A heartbeat of the configured master that
does not stand by renews the watch and CUR_MASTER (which the leading configured master keeps on itself), and makes ACTING a
backup again; another EPOCH than this device's sets EPOCH_BEHIND with source 867. A handover makes a master that stands by
lead, from the epoch carried. The sequence number of a silent sender is forgotten. A NAK counts and raises 869. This
statement rests on choices of the model: log 7, 34 and 60. -/
def Obligations.StackRoles : Prop :=
  ∀ (s : State) (p e : PortId) (fr : EthFrame) (t0 : Timer) (k : Nat), Sane s →
    let y := s.stack
    let x := stackParse fr.bytes
    let role := s.f F.STACK_STATE.ROLE
    let standby := s.fb F.STACK_STATE.STANDBY
    let out (t : State) : Prop := Sent s t p.val (Control s t true 0 2 (beBytes 4 (t.f F.STACK_STATE.EPOCH) ++
      [BitVec.ofNat 8 ((t.f F.STACK_STATE.ROLE == 3).toNat + 2 * (t.fb F.STACK_STATE.STANDBY).toNat), 0, 0, 0]))
    let port : Prop := s.onlyPort p.val ∧ s.portTakes p.val 8
    let miss : Option Timer := some ⟨none, s.now + s.hbMiss⟩
    let d := devOf x.src
    let ofMaster : Prop := d = s.f F.STACK_ID.MASTER_ID
    let leads : Prop := role = 1 ∧ standby = false
    let promoted : Prop := byteAt x.payload 4 % 2 = 1
    let rests : Prop := byteAt x.payload 4 / 2 % 2 = 1
    let heard : Prop := s.accepts e.val fr 2
    let given : Prop := s.accepts e.val fr 7
    (y.hbDue = some t0 → s.ranOut t0 = true → port → Holds .heartbeatTimer s fun t => out t ∧
      t.stack.hbDue = some { t0 with due := t0.due + s.hbInterval } ∧ OnlyPieces [.free, .regs, .mem, .col, .firn, .irq, .stack, .poison] s t) ∧
    (y.hbDue = some t0 → s.ranOut t0 = false → exec .heartbeatTimer s = .next s) ∧
    (y.listenDue = some t0 → s.ranOut t0 = true → y.promotedHeard = false → port → Holds .masterListenEnd s fun t =>
      Leads s t 1 ∧ t.stack.listenDue = none ∧ out t) ∧
    (y.listenDue = some t0 → s.ranOut t0 = true → y.promotedHeard = true → port → Holds .masterListenEnd s fun t =>
      t.f F.STACK_STATE.ROLE = 1 ∧ t.fb F.STACK_STATE.STANDBY = true ∧ t.stack.missDue = y.missDue ∧ t.stack.listenDue = none ∧ out t) ∧
    (y.listenDue = some t0 → s.ranOut t0 = false → exec .masterListenEnd s = .next s) ∧
    (y.missDue = some t0 → s.overrun t0 = true → Holds .masterLost s fun t => t.fb F.STACK_STATE.MASTER_LOST = true ∧
      t.f F.STACK_CNT.HB_MISSED = min (s.f F.STACK_CNT.HB_MISSED + 1) 65535 ∧ t.src 865 = (s.src 865).event ∧
      (role = 2 → Leads s t 3) ∧ (role = 2 → port → out t) ∧
      (role ≠ 2 → t.f F.STACK_STATE.ROLE = role ∧ t.stack = { y with missDue := none } ∧ OnlyPieces [.regs, .irq, .stack] s t)) ∧
    (y.missDue = some t0 → s.overrun t0 = false → exec .masterLost s = .next s) ∧
    (y.keptM = some (k, t0) → s.ranOut t0 = true → Holds (.broadcastSeqForget false) s fun t =>
      t.stack = { y with keptM := none } ∧ OnlyPieces [.stack] s t) ∧
    (y.keptB = some (k, t0) → s.ranOut t0 = true → Holds (.broadcastSeqForget true) s fun t =>
      t.stack = { y with keptB := none } ∧ OnlyPieces [.stack] s t) ∧
    (y.keptM = some (k, t0) → s.ranOut t0 = false → exec (.broadcastSeqForget false) s = .next s) ∧
    (heard → Holds (.heartbeatRx e fr) s fun t =>
      (ofMaster → t.stack.masterStandby = decide rests) ∧
      (promoted → y.listenDue.isSome = true → t.stack.promotedHeard = true) ∧
      (¬ rests → ofMaster → t.stack.masterDue = miss ∧ t.f F.STACK_STATE.CUR_MASTER = d) ∧
      (¬ rests → ¬ leads → y.masterDue = none → t.f F.STACK_STATE.CUR_MASTER = d) ∧
      (¬ rests → leads → t.f F.STACK_STATE.CUR_MASTER = s.f F.STACK_ID.MASTER_ID) ∧
      (¬ rests → s.actingMaster = false → t.stack.missDue = miss ∧ t.f F.STACK_STATE.ROLE = role) ∧
      (¬ rests → ofMaster → role = 3 → t.f F.STACK_STATE.ROLE = 2 ∧ t.fb F.STACK_STATE.STANDBY = false ∧ t.stack.hbDue = none ∧
        t.stack.syncDue = none ∧ t.stack.missDue = miss ∧ t.src 864 = (s.src 864).event) ∧
      (rests → t.stack.missDue = y.missDue ∧ t.f F.STACK_STATE.ROLE = role) ∧
      (beAt x.payload 0 4 ≠ s.f F.STACK_STATE.EPOCH → t.fb F.STACK_STATE.EPOCH_BEHIND = true ∧ t.src 867 = (s.src 867).event) ∧
      (beAt x.payload 0 4 = s.f F.STACK_STATE.EPOCH → t.src 867 = s.src 867) ∧ OnlyPieces crossing s t) ∧
    (given → role = 1 → standby = true → s.onlyPort p.val → (s.crossed x.len).portTakes p.val 8 → Holds (.handoverRx e fr) s fun t =>
      t.f F.STACK_STATE.EPOCH = beAt x.payload 0 4 ∧ Leads s t 1 ∧ out t) ∧
    (given → role ≠ 1 ∨ standby = false → Holds (.handoverRx e fr) s fun t =>
      t.f F.STACK_STATE.ROLE = role ∧ t.f F.STACK_STATE.EPOCH = s.f F.STACK_STATE.EPOCH ∧ OnlyPieces crossing s t) ∧
    (s.accepts e.val fr 6 → Holds (.nakRx e fr) s fun t => t.f F.STACK_CNT.NAK_RCVD = min (s.f F.STACK_CNT.NAK_RCVD + 1) 65535 ∧
      t.src 869 = (s.src 869).event ∧ OnlyPieces crossing s t)

/-- A bus frame of another device, where Firn has room, is queued for the logical bus it names. A pushed run is staged. A
commit whose count is what is staged sets the time of activation, and otherwise discards it, with source 867 and an answer.
An answer is noted once for each addressee. A frame that breaks a rule is logged with its number, type, port and sender at
HEAD, raises 868, and is answered by a NAK where a path leads to its sender, at most one in 100 µs. A frame for another
device leaves on its path, RELAYED and with one hop less, where both ports relay; with no hop left it counts HOP_DROP, with
no path it breaks rule 9. A control frame that finds no room at P39 does nothing, and a stack frame with a bad FCS only
counts in RX_BADFCS (R574). This statement rests on choices of the model: log 30, 32, 33 and 34. -/
def Obligations.StackFrames : Prop :=
  ∀ (s : State) (e i : PortId) (w : EthFrame) (f : Format) (c : EpochCmd), Sane s →
    let y := s.stack
    let bs := w.bytes
    let x := stackParse bs
    let pay := x.payload
    let e' := e.val
    let d := devOf x.src
    let room (p n : Nat) : Prop := x.colour = 0 ∧ s.chg (4 * p + x.tc) + cellsFor n ≤ s.gLimit p x.tc ∧ s.fits p (cellsFor n) = true
    let b := x.dst % 128
    let fr := (recordFrame pay f).1
    let queued (t : State) (p n : Nat) (what : Deliver → Prop) : Prop := ∃ z : VoqItem,
      t.voq (((32 + e') * 40 + p) * 4 + x.tc) = s.voq (((32 + e') * 40 + p) * 4 + x.tc) ++ [z] ∧ z.left = cellsFor n ∧ what z.what
    let ep := beAt pay 0 4
    let run := recsOf (pay.drop 12) (be16At pay 10)
    let staged := if y.stagedEpoch = ep then y.staged.length else 0
    let isCmd (c : Instr) : Prop := c = .stackDataRx e w ∧ (x.ty = 1 ∨ x.ty = 0 ∨ 8 ≤ x.ty) ∨ c = .heartbeatRx e w ∧ x.ty = 2 ∨
      c = .routePushRx e w ∧ x.ty = 3 ∨ c = .epochCommitRx e w ∧ x.ty = 4 ∨ c = .epochAckRx e w ∧ x.ty = 5 ∨
      c = .nakRx e w ∧ x.ty = 6 ∨ c = .handoverRx e w ∧ x.ty = 7
    let h := s.f F.STACK_VLOGSTAT.HEAD
    let logged (t : State) (cause : Nat) : Prop :=
      t.f (F.STACK_VLOG.SEQ h) = x.seq % 4294967296 ∧ t.f (F.STACK_VLOG.TYPE h) = x.ty ∧ t.f (F.STACK_VLOG.CAUSE h) = cause % 16 ∧
      t.f (F.STACK_VLOG.PORT h) = e' ∧ t.f (F.STACK_VLOG.SRC_DEV h) = d ∧ t.f F.STACK_VLOGSTAT.HEAD = (h + 1) % 16 ∧
      t.f F.STACK_VLOGSTAT.COUNT = min 16 (s.f F.STACK_VLOGSTAT.COUNT + 1) ∧ t.src 868 = (s.src 868).event
    let quiet : Prop := ∃ n, y.nakDue = some n ∧ s.ranOut n = false
    let transit : Prop := s.arrives e' w x.ty ∧ s.stackFault bs x = none ∧ x.all = false ∧ devOf x.dst ≠ s.devId ∧
      s.fb (F.FIRN_IPOL.EN (128 + e')) = false
    (s.accepts e' w 1 → x.all = false → recordFormat pay = some f → room (b / 4) fr.bytes → Holds (.stackDataRx e w) s fun t =>
      queued t (b / 4) fr.bytes fun z => z = .buses [b] fr (recordFrame pay f).2) ∧
    (s.accepts e' w 3 → s.engUp 32 = true → ep = y.stagedEpoch ∨ (y.stagedEpoch < ep ∧ y.stagedFids = []) → s.seWait = [] →
      (s.crossed x.len).fitsWaiting 39 3 (cellsFor (16 * run.length)) = true → Holds (.routePushRx e w) s fun t => t.stack.stagedEpoch = ep ∧
        t.stack.staged = (if ep = y.stagedEpoch then y.staged else []) ++
          (run.zipIdx (be16At pay 8)).map fun z => (byteAt pay 4 % 2 == 1, z.2, z.1)) ∧
    (s.accepts e' w 4 → staged = beAt pay 4 4 → Holds (.epochCommitRx e w) s fun t =>
      t.stack.act = some ⟨ep, beAt pay 4 4, beAt pay 8 6, beAt pay 14 4, some d⟩ ∧ t.stack.staged = y.staged ∧
      OnlyPieces crossing s t) ∧
    (s.accepts e' w 4 → staged ≠ beAt pay 4 4 → y.stagedFids = [] → s.pathTo d i.val → (s.crossed x.len).portTakes i.val 5 →
      Holds (.epochCommitRx e w) s fun t => t.stack.act = y.act ∧ t.stack.staged = [] ∧ t.src 867 = (s.src 867).event ∧
        Sent s t i.val (Control s s false d 5 (beBytes 4 ep ++ [1]))) ∧
    (s.accepts e' w 5 → y.cmd = some c → c.epoch = ep → d ∈ c.addressees → d ∉ c.applied → d ∉ c.incomplete →
      Holds (.epochAckRx e w) s fun t => OnlyPieces crossing s t ∧
        t.stack.cmd = some (if byteAt pay 4 = 0 then { c with applied := c.applied ++ [d] }
          else { c with incomplete := c.incomplete ++ [d] })) ∧
    (s.accepts e' w 5 → y.cmd = some c → c.epoch ≠ ep ∨ d ∉ c.addressees ∨ d ∈ c.applied ∨ d ∈ c.incomplete →
      Holds (.epochAckRx e w) s fun t => t.stack.cmd = some c ∧ OnlyPieces crossing s t) ∧
    (∀ m, isCmd m → s.reaches e' w x.ty → x.ty ≠ 1 → x.all = false → s.fits 39 (cellsFor x.len) = false → Holds m s fun t =>
      t.stack = s.stack ∧ t.eths = s.eths ∧ t.voqs = s.voqs) ∧
    (∀ m cause, isCmd m → s.arrives e' w x.ty → s.stackFault bs x = some cause → Holds m s fun t => logged t cause ∧
      (x.ty ≠ 6 → nakDueFor cause = true → ¬ quiet → (s.pathPort d).1.isSome = true → t.stack.nakDue = some ⟨none, s.now + 100 * ltUs⟩ ∧
        t.f F.STACK_CNT.NAK_SENT = min (s.f F.STACK_CNT.NAK_SENT + 1) 65535) ∧
      (x.ty ≠ 6 → nakDueFor cause = true → ¬ quiet → s.pathTo d i.val → s.portTakes i.val 8 → Sent s t i.val
        (Control s s false d 6 ([BitVec.ofNat 8 cause, BitVec.ofNat 8 x.ty, 0, 0] ++ beBytes 4 x.seq))) ∧
      (x.ty ≠ 6 → nakDueFor cause = true → quiet → t.voqs = s.voqs ∧
        t.f F.STACK_CNT.NAK_SUPPRESSED = min (s.f F.STACK_CNT.NAK_SUPPRESSED + 1) 65535) ∧
      (x.ty = 6 ∨ nakDueFor cause = false ∨ (s.pathPort d).1 = none → t.voqs = s.voqs ∧ t.stack.nakDue = y.nakDue)) ∧
    (∀ m, isCmd m → transit → 2 ≤ x.hop → s.pathTo (devOf x.dst) i.val → i ≠ e → s.fb (F.STACK_PORTCFG.RELAY i.val) = true →
      s.fb (F.STACK_PORTCFG.RELAY e') = true → (s.eth i.val).holdOver = false → room (32 + i.val) x.len → Holds m s fun t =>
        t.f F.STACK_CNT.RELAYED = min (s.f F.STACK_CNT.RELAYED + 1) 4294967295 ∧
        queued t (32 + i.val) x.len fun z => ∃ g : Egress, z = .eth [g] ∧ g.tc = x.tc ∧ g.kind = .relay x.dst false (relayBytes bs)) ∧
    (∀ m, isCmd m → transit → x.hop = 1 → Holds m s fun t => logged t 4 ∧
      t.f F.STACK_CNT.HOP_DROP = min (s.f F.STACK_CNT.HOP_DROP + 1) 65535) ∧
    (∀ m, isCmd m → transit → 2 ≤ x.hop → s.fb (F.STACK_PATH.VALID (devOf x.dst)) = false ∨
      s.pathTo (devOf x.dst) e' → Holds m s fun t => logged t 9) ∧
    (∀ m, isCmd m → s.ethTakes e' w = true → s.isStackFrame e' bs = true → w.fcsOk = false → Holds m s fun t =>
      t.f (F.ETH_STAT.RX_BADFCS e') = min (s.f (F.ETH_STAT.RX_BADFCS e') + 1) 65535 ∧ OnlyPieces [.regs] s t)

/-- While the service runs, the acting master sends a two-step Sync when it is due, a Follow_Up with the stamp of the Sync
sent, and a Delay_Resp with the stamp of a request. A member takes the Sync on the path to its master and sends one
Delay_Req for it; the Follow_Up gives the offset, which sets TB_INCR within its range, counts towards LOCKED within 200 ns,
is slewed away up to 1,000 ns and stepped beyond that under STEP_LIMIT, which leaves the rate too where it refuses; the
Delay_Resp gives half the sum of both ways. A message acts where its copy for SE1 finds room at P39, and does nothing where
it does not (R331). The layout of the messages, one Delay_Req for each Sync and the free TB_INCR are the model's choices
(log 31, log 36). -/
def Obligations.StackTime : Prop :=
  ∀ (s : State) (e : PortId) (w : OnWire) (m : PtpIn) (t0 : Timer) (src seq ingress origin recv q : Nat)
      (corr v o : Int) (b : List Byte), Sane s →
    let y := s.stack
    let e' := e.val
    let runs : Prop := s.timeRuns e' = true
    let lead := s.actingMaster
    let mine : Prop := runs ∧ lead = false ∧ s.masterPort = some e'
    let ptp (bs : List Byte) (ty n : Nat) : Prop := beAt bs 0 6 = 0x011B19000000 ∧ be16At bs 12 = 0x88F7 ∧ byteAt bs 14 % 16 = ty ∧
      byteAt bs 18 = s.f F.STACK_TIMECFG.DOMAIN ∧ be16At bs 44 = n % 65536
    let stampAt (bs : List Byte) (k : Nat) (t : Stamp) : Prop := beAt bs k 6 = t.sec % 2 ^ 48 ∧ beAt bs (k + 6) 4 = t.ns % 2 ^ 32
    let takes (n : Nat) : Prop := s.portTakes e' n
    let crosses : Prop := m.colour = 0 ∧ s.roomAt39 m.bytes.length
    let answers (n : Nat) : Prop := crosses ∧ (s.crossed m.bytes.length).portTakes e' n
    let ended : Prop := (s.eth e').wire = some w ∧ w.eg.fid = none ∧ (s.eth e').pendDis = none ∧ s.mor.capture = false
    let d := v - ((origin * 65536 : Nat) : Int) - corr
    let off := d - y.delay
    let ns := ns16 off
    let good := if off.natAbs ≤ 200 * 65536 then min 8 (y.good + 1) else 0
    let followed : Prop := mine ∧ crosses ∧ y.syncIn = some (q, v) ∧ q = m.seq
    (y.syncDue = some t0 → s.ranOut t0 = true → s.engUp 33 = true → s.fb F.STACK_TIMECFG.TIME_EN = true → lead = true →
      s.onlyPort e' → takes 58 → Holds .syncTxTimer s fun t =>
        t.stack.syncDue = some { t0 with due := t0.due + s.syncPeriod } ∧ t.stack.syncSeq = (y.syncSeq + 1) % 65536 ∧
        Sent s t e' fun k => ∃ bs, k = .sync y.syncSeq bs ∧ ptp bs 0 y.syncSeq ∧ be16At bs 20 = 0x0200) ∧
    (y.syncDue = some t0 → s.ranOut t0 = false ∨ lead = false → exec .syncTxTimer s = .next s) ∧
    (ended → w.eg.kind = .sync seq b → y.started = true → lead = true → s.engUp 33 = true → takes 58 → Holds (.ethFrameTxEnd e) s fun t =>
      (t.eth e').wire = none ∧ Sent s t e' fun k => ∃ bs, k = .other bs ∧ ptp bs 8 seq ∧ stampAt bs 48 w.stamp) ∧
    (ended → w.eg.kind = .delayReq seq b → seq = y.reqSeq → Holds (.ethFrameTxEnd e) s fun t =>
      t.stack = { y with reqOut := some (((w.stamp.sec * 1000000000 + w.stamp.ns) * 65536 : Nat) : Int) } ∧
      OnlyPieces [.stack, .eths] s t) ∧
    (runs → lead = true → answers 68 → Holds (.delayReqRx e src m ingress) s fun t => Sent s t e' fun k => ∃ bs, k = .other bs ∧
      ptp bs 9 m.seq ∧ stampAt bs 48 (s.ethStamp e' ingress false) ∧ beAt bs 58 10 = src % 2 ^ 80) ∧
    (¬ runs ∨ lead = false → exec (.delayReqRx e src m ingress) s = .next s) ∧
    (mine → answers 58 → Holds (.syncRx e m ingress) s fun t => t.stack.syncIn = some (m.seq, s.stamp16 e' ingress false) ∧
      t.stack.diff = none ∧ t.stack.reqSeq = (y.reqSeq + 1) % 65536 ∧ t.stack.reqOut = none ∧
      Sent s t e' fun k => ∃ bs, k = .delayReq ((y.reqSeq + 1) % 65536) bs ∧ ptp bs 1 ((y.reqSeq + 1) % 65536)) ∧
    (¬ mine → exec (.syncRx e m ingress) s = .next s ∧ exec (.followUpRx e m origin corr) s = .next s) ∧
    (followed → Holds (.followUpRx e m origin corr) s fun t => t.stack = { y with syncIn := none, diff := some d, good := good } ∧
      t.fb F.STACK_TIMECFG.LOCKED = decide (8 ≤ good) ∧
      (off.natAbs ≤ 1000 * 65536 ∨ ns.natAbs ≤ s.f (F.TB_STEPLIM.STEP_LIMIT 0) →
        52323943 ≤ t.f (F.TB_INCR.INCR 0) ∧ t.f (F.TB_INCR.INCR 0) ≤ 52533657) ∧ (∀ k, k ≠ 0 → t.tb k = s.tb k) ∧
      (off.natAbs ≤ 1000 * 65536 → ns ≠ 0 → (t.tb 0).slewRem = -ns * (nsUnit : Int) ∧ t.fb (F.TB_SLEW.ACTIVE 0) = true ∧
        (t.tb 0).val = (s.tb 0).val) ∧
      (1000 * 65536 < off.natAbs → ns.natAbs ≤ s.f (F.TB_STEPLIM.STEP_LIMIT 0) →
        (t.tb 0).val = ((((s.tb 0).val : Int) - ns * (nsUnit : Int)) % (tbWrap : Int)).toNat) ∧
      (1000 * 65536 < off.natAbs → s.f (F.TB_STEPLIM.STEP_LIMIT 0) < ns.natAbs → t.tbs = s.tbs ∧
        t.f (F.TB_INCR.INCR 0) = s.f (F.TB_INCR.INCR 0) ∧ t.fb (F.TB_STAT.STEP_REFUSED 0) = true ∧ t.src 840 = (s.src 840).event)) ∧
    (∀ z, mine → y.syncIn = some z → z.1 ≠ m.seq → Holds (.followUpRx e m origin corr) s fun t => t.stack = y ∧ t.tbs = s.tbs) ∧
    (runs → lead = false → crosses → y.diff = some v → y.reqOut = some o → y.reqSeq = m.seq →
      Holds (.delayRespRx e m recv) s fun t =>
        t.stack = { y with delay := (v + (((recv * 65536 : Nat) : Int) - o)) / 2, reqOut := none } ∧ OnlyPieces crossing s t) ∧
    (¬ runs ∨ lead = true → exec (.delayRespRx e m recv) s = .next s) ∧
    (runs → lead = false → y.diff = none ∨ y.reqOut = none ∨ y.reqSeq ≠ m.seq → Holds (.delayRespRx e m recv) s fun t => t.stack = y) ∧
    (∀ c ∈ [Instr.delayReqRx e src m ingress, .syncRx e m ingress, .followUpRx e m origin corr, .delayRespRx e m recv],
      s.mor.capture = false → s.fits 39 (cellsFor m.bytes.length) = false → Holds c s fun t => t.stack = y ∧ t.voqs = s.voqs ∧ t.tbs = s.tbs)

/-- BLOCK_START and BLOCK_STOP with block 3 set and clear ARMED. While the main domain does not run and Snowline is armed, a
wake-up pattern on a watched lane, a valid frame that matches an enabled pattern, the frame error that brings the counter to
ERRLIM, an enabled WAKE pin, PERST# edge or GPIO pin, and the RTC alarm set their cause bit, FIRST where no cause was set or
a higher one in the same instant, and the lane's code where its bit was clear, or a pattern's over the wake-up pattern's of
the same instant; from standby PWR_EN_N goes low and PG_TIMEOUT runs, while PWR_EN_N is held high the wake waits, and in the
wake sequence nothing more happens. While the main domain runs, the WAKE and GPIO pins and the alarm set their cause and
raise their source once BOOT_DONE is set, and in the power-down, armed, the wake waits (the model's reading). A WAKE or GPIO
pin that is not enabled only shows its level. This statement rests on choices of the model: log 67, 100 and 109. -/
def Obligations.SnowlineWakes : Prop :=
  ∀ (s : State) (f : Fn) (d : Words8) (n : Fin 16) (fr : Frame) (i : Fin 2) (j : Fin 4) (high : Bool), Sane s →
    let x := s.snow
    let cause (t : State) (k : Nat) : Bool := (t.reg 0xC0008).getLsbD k
    let caused (t : State) (bit : Nat) : Prop := (∀ k < 26, cause t k = (decide (k = bit) || cause s k)) ∧
      t.f F.SNOW_CAUSE.FIRST = if bitsOf (s.reg 0xC0008) 0 26 = 0 ∨ x.firstAt = some s.now ∧ bit < s.f F.SNOW_CAUSE.FIRST then bit
        else s.f F.SNOW_CAUSE.FIRST
    let woke (t : State) (bit : Nat) : Prop := caused t bit ∧ OnlyPieces [.regs, .snow] s t ∧
      (x.phase = .standby → t.snow.phase = .waitPg ∧ t.snow.due = s.now + s.f F.SNOW_SEQ.PG_TIMEOUT * ltMs ∧
        t.snow.woken = true) ∧
      (x.phase = .holdOff → t.snow.phase = x.phase ∧ t.snow.due = x.due ∧ t.snow.wakeWaits = true ∧
        t.snow.woken = true) ∧
      (x.phase = .waitPg ∨ x.phase = .waitReset → t.snow.phase = x.phase ∧ t.snow.due = x.due ∧ t.snow.woken = x.woken)
    let asleep : Prop := x.phase ≠ .main ∧ x.phase ≠ .powerDown ∧ s.fb F.SNOW_CTRL.ARMED = true
    let lane : Prop := asleep ∧ (s.reg 0xC0000).getLsbD (16 + n.val) = true
    let code (t : State) (k : Nat) : Prop := t.f (lcode n.val) =
      if cause s n.val = false ∨ 8 ≤ k ∧ s.f (lcode n.val) = 1 ∧ x.codeAt.lookup n.val = some s.now then k else s.f (lcode n.val)
    let sel : Prop := lane ∧ s.fb (F.SNOW_LANE.SW_EN n.val) = true
    let fast : Bool := !(fr.fmt.classical)
    let passive : Bool := s.fb (F.SNOW_LANE.FD_PASSIVE n.val)
    let hit (p : Nat) : Bool := s.patternMatch n.val p fr
    let errs := s.frameErr n.val
    let limit := s.f (F.SNOW_LANE.ERRLIM n.val) + 1
    let ends (good : Bool) : Instr := .swFrameEnd n fr good
    let errored (good : Bool) : Prop :=
      (limit ≤ errs + 1 → Holds (ends good) s fun t => t.frameErr n.val = errs + 1 ∧ woke t n.val ∧ code t 2) ∧
      (errs + 1 < limit → Holds (ends good) s fun t => t.frameErr n.val = errs + 1 ∧ t.snow.phase = x.phase ∧
        OnlyPieces [.snow] s t)
    let input (c : Instr) (bit src : Nat) : Prop :=
      (asleep → Holds c s fun t => woke t bit) ∧
      (x.phase = .main ∨ x.phase = .powerDown → Holds c s fun t => caused t bit ∧ t.snow.phase = x.phase ∧ t.snow.due = x.due ∧
        t.snow.wakeWaits = (x.wakeWaits || (decide (x.phase = .powerDown) && s.fb F.SNOW_CTRL.ARMED)) ∧
        t.snow.woken = (x.woken || (decide (x.phase = .powerDown) && s.fb F.SNOW_CTRL.ARMED)) ∧
        t.src src = (if s.fb F.GLB_BOOT.BOOT_DONE then (s.src src).event else s.src src) ∧ OnlyPieces [.regs, .snow, .irq] s t)
    let pin := if i = 0 then s.fb F.SNOW_CTRL.WAKE0_EN else s.fb F.SNOW_CTRL.WAKE1_EN
    let gpio := (s.reg 0xC0000).getLsbD (7 + j.val)
    let perst := if i = 0 then s.fb F.SNOW_CTRL.PERST0_EN else s.fb F.SNOW_CTRL.PERST1_EN
    (TakenSub s f d 0x54 3 → Done (.blockStartSnowline f d) s f d fun u =>
      u.fb F.SNOW_CTRL.ARMED = true ∧ OnlyPieces [.regs, .rings] s u) ∧
    (TakenSub s f d 0x55 3 → Done (.blockStopSnowline f d) s f d fun u =>
      u.fb F.SNOW_CTRL.ARMED = false ∧ OnlyPieces [.regs, .rings] s u) ∧
    (lane → s.fb (F.SNOW_LANE.WUP_EN n.val) = true → Holds (.wupDetected n) s fun t => woke t n.val ∧ code t 1) ∧
    (sel → fast = true → passive = true → ∀ good, exec (ends good) s = .next s) ∧
    (sel → fast = true → passive = false → ∀ good, errored good) ∧
    (sel → fast = false → errored false) ∧
    (∀ p, sel → fast = false → p < 8 → hit p = true → (∀ k < p, hit k = false) → Holds (ends true) s fun t =>
      t.frameErr n.val = errs - 1 ∧ woke t n.val ∧ code t (8 + p)) ∧
    (sel → fast = false → (∀ k < 8, hit k = false) → Holds (ends true) s fun t =>
      t.frameErr n.val = errs - 1 ∧ t.snow.phase = x.phase ∧ OnlyPieces [.snow] s t) ∧
    (pin = true → input (.wakePin i) (16 + i.val) 881) ∧
    (pin = false → exec (.wakePin i) s = .next (s.setLevel (26 + i.val) false)) ∧
    (gpio = true → input (.gpioWake j) (21 + j.val) 884) ∧
    (gpio = false → exec (.gpioWake j) s = .next (s.setLevel (28 + j.val) ((s.reg 0xC0000).getLsbD (3 + j.val)))) ∧
    (asleep → perst = true → high = true ∨ s.fb F.SNOW_CTRL.PERST_ANY = true → Holds (.perstWake i high) s fun t =>
      woke t (18 + i.val)) ∧
    (x.phase = .main ∨ x.phase = .powerDown ∨ perst = false → exec (.perstWake i high) s = .next s) ∧
    (x.alarm = true → input .rtcAlarm 20 883) ∧
    (x.alarm = false → exec .rtcAlarm s = .next s)

/-- PWR_GOOD within PG_TIMEOUT starts RESET_DELAY; without it PG_FAIL is set, PG_FAILS counts and PWR_EN_N stays high for 1
ms, after which a wake that waits starts the sequence again and otherwise the device is in standby. At the end of
RESET_DELAY the main reset is released, with WAKE set where the device woke from standby. When VAON is applied everything
has its reset value and the sequence runs with cause COLD. This statement rests on choices of the model: log 3, 49 and 109.
-/
def Obligations.WakeSequence : Prop :=
  ∀ (s : State), Sane s →
    let x := s.snow
    let isIn (t : State) (p : SnowPhase) (ms : Nat) : Prop := t.snow.phase = p ∧ t.snow.due = s.now + ms * ltMs
    let pg := s.f F.SNOW_SEQ.PG_TIMEOUT
    (x.phase = .waitPg → s.now ≤ x.due → Holds .pwrGoodRise s fun t =>
      isIn t .waitReset (s.f F.SNOW_SEQ.RESET_DELAY) ∧ t.snow.woken = x.woken ∧ OnlyPieces [.snow] s t) ∧
    (x.phase ≠ .waitPg ∨ x.due < s.now → exec .pwrGoodRise s = .next (s.setLevel 25 true)) ∧
    (x.phase = .waitPg → x.due ≤ s.now → Holds .pgTimeout s fun t =>
      t.fb F.SNOW_CAUSE.PG_FAIL = true ∧ t.f F.SNOW_STAT.PG_FAILS = min (s.f F.SNOW_STAT.PG_FAILS + 1) 255 ∧
      isIn t .holdOff 1 ∧ t.snow.woken = true ∧ bitsOf (t.reg 0xC0008) 0 26 = bitsOf (s.reg 0xC0008) 0 26 ∧ OnlyPieces [.regs, .snow] s t) ∧
    (x.phase ≠ .waitPg ∨ s.now < x.due → exec .pgTimeout s = .next s) ∧
    (x.phase = .holdOff → x.due ≤ s.now → x.wakeWaits = true → Holds .pwrEnNHoldEnd s fun t =>
      isIn t .waitPg pg ∧ t.snow.wakeWaits = false ∧ OnlyPieces [.snow] s t) ∧
    (x.phase = .holdOff → x.due ≤ s.now → x.wakeWaits = false → Holds .pwrEnNHoldEnd s fun t =>
      t.snow = { x with phase := .standby } ∧ OnlyPieces [.snow] s t) ∧
    (x.phase ≠ .holdOff ∨ s.now < x.due → exec .pwrEnNHoldEnd s = .next s) ∧
    (x.phase = .waitReset → x.due ≤ s.now → Holds .resetDelayEnd s fun t => t.snow = { x with phase := .main, woken := false } ∧
      t.boot = { s.boot with resetting := false } ∧
      t.fb F.GLB_RSTCAUSE.WAKE = (x.woken || s.fb F.GLB_RSTCAUSE.WAKE) ∧ OnlyPieces [.regs, .snow, .boot] s t) ∧
    (x.phase ≠ .waitReset ∨ s.now < x.due → exec .resetDelayEnd s = .next s) ∧
    (Holds .vaonPowerUp s fun t => t.snow.woken = (x.woken && !s.railsOn) ∧ isIn t .waitPg (State.reset.f F.SNOW_SEQ.PG_TIMEOUT) ∧ t.fb F.SNOW_CAUSE.COLD = true ∧
      t.f F.SNOW_CAUSE.FIRST = 25 ∧ t.fb F.GLB_RSTCAUSE.POWER_ON = true ∧ t.now = s.now ∧ t.tbs = [] ∧
      t.hostMem0 = s.hostMem0 ∧ t.hostMem1 = s.hostMem1 ∧ OnlyPieces [.free, .time, .host, .snow] State.reset t)

/-- POWER_MODE towards SURGE above TJ_STEP - 10 is REFUSED, cause THERMAL, whatever the mode and whether a move runs; else
it completes DONE at once for the mode in force and BUSY while a move runs; otherwise the target voltage is sent and MOVING
runs for SETTLE_US. Code 3 is SURGE and counts as a clamp where the command ends DONE. At the end MODE takes the target with
source 887 and DONE; a step-down sets STEPPED_DOWN with source 892; a move that TJ reversed is REFUSED, cause THERMAL, with
MODE as it was. A third PMBus write in a row that is not acknowledged, and a fall of PWR_GOOD, set VFAULT with source 889
and send the target of MODE again. At TJ_STEP a device in SURGE moves to BALANCED, or the move out of SURGE that runs is the
step-down too (the model's choice), and a move towards SURGE goes back. Source 888 is raised once until TJ falls below
TJ_ALARM - 5. Every report of TJ is held in TJ and, as the highest since a reset or a read of it, in TJ_MAX. This statement
rests on choices of the model: log 61 and 93. -/
def Obligations.PowerModes : Prop :=
  ∀ (s : State) (f : Fn) (d : Words8) (m : Move) (r : AdminRef) (tj : BitVec 9),
    let code := fieldOf d.w1 0 2
    let want := min 2 code
    let mode (t : State) : Nat := t.f F.PWR_STAT.MODE
    let extra : Nat := if code = 3 then 1 else 0
    let tooHot : Prop := want = 2 ∧ (s.f F.PWR_CTRL.TJ_STEP : Int) - 10 < degC (s.f F.PWR_STAT.TJ)
    let level (k : Nat) : Nat := if k = 0 then s.f F.PWR_LEVEL.VOUT_ECO else if k = 1 then s.f F.PWR_LEVEL.VOUT_BAL
      else s.f F.PWR_LEVEL.VOUT_SURGE
    let vid (k : Nat) : Nat := if k = 0 then 0 else if k = 1 then s.f F.PWR_LEVEL.VID_BAL else s.f F.PWR_LEVEL.VID_SURGE
    let sent (t : State) (k : Nat) : Prop := t.f F.PWR_STAT.TARGET = k ∧
      (s.fb F.PWR_CTRL.VCTRL = false → t.power.vout = level k ∧ t.power.vid = s.power.vid) ∧
      (s.fb F.PWR_CTRL.VCTRL = true → t.power.vid = vid k ∧ t.power.vout = s.power.vout)
    let moves (t : State) (y : Move) (k : Nat) : Prop :=
      t.power.move = some { y with settle := s.now + s.f F.PWR_CTRL.SETTLE_US * ltUs } ∧
      t.fb F.PWR_STAT.MOVING = true ∧ mode t = mode s ∧ sent t k
    let settled (t : State) : Prop := t.power.move = none ∧ t.fb F.PWR_STAT.MOVING = false
    let steps (t : State) : Prop := t.fb F.PWR_STAT.STEPPED_DOWN = (m.stepDown || s.fb F.PWR_STAT.STEPPED_DOWN) ∧
      t.src 892 = if m.stepDown then (s.src 892).event else s.src 892
    let faulty (t : State) : Prop := settled t ∧ t.fb F.PWR_STAT.VFAULT = true ∧ t.src 889 = (s.src 889).event ∧
      sent t (mode s) ∧ mode t = mode s ∧ OnlyPieces [.regs, .irq, .power] s t
    let fails (c : Instr) (shows : State → State) : Prop :=
      (m.ref = some r → ∃ u, exec c s = .next (shows (u.adminCpl r .refused Cause.state.code 0 0 0 0 0)) ∧ faulty u) ∧
      (m.ref = none → ∃ u, exec c s = .next (shows u) ∧ faulty u)
    let moving : Prop := s.power.move = some m
    let above : Prop := moving ∧ m.settle ≤ s.now
    let noted (t : State) : Prop := t.f F.PWR_STAT.TJ = tj.toNat ∧ OnlyPieces [.regs, .irq, .power] s t ∧
      t.f F.PWR_STAT.TJ_MAX = (if s.power.tjSeen = false ∨ degC (s.f F.PWR_STAT.TJ_MAX) < degC tj.toNat then tj.toNat else s.f F.PWR_STAT.TJ_MAX)
    let alarm : Int := s.f F.PWR_CTRL.TJ_ALARM
    let hot : Prop := (s.f F.PWR_CTRL.TJ_STEP : Int) ≤ degC tj.toNat
    (Taken s f d 0x50 → tooHot → Refuses (.powerMode f d) s f d .thermal) ∧
    (Taken s f d 0x50 → ¬ tooHot → mode s = want → Done (.powerMode f d) s f d fun u =>
      u.clampCount f.val = s.clampCount' f.val extra ∧ mode u = mode s ∧ OnlyPieces [.regs, .rings] s u) ∧
    (Taken s f d 0x50 → ¬ tooHot → mode s ≠ want → moving → EndsWith (.powerMode f d) s f d .busy 0 0 fun u =>
      u = s.adminTake f.val) ∧
    (Taken s f d 0x50 → ¬ tooHot → mode s ≠ want → s.power.move = none → Holds (.powerMode f d) s fun t =>
      moves t { ref := some (refOf f d), settle := 0, clamps := extra } want ∧ t.clampCount f.val = s.clampCount f.val ∧
      OnlyPieces [.regs, .rings, .power] s t) ∧
    (above → m.back = false → m.ref = some r → ∃ u,
      exec .powerModeSettleEnd s = .next (u.adminCpl r .done 0 0 0 0 0 0) ∧ settled u ∧ mode u = s.f F.PWR_STAT.TARGET ∧
      u.src 887 = (s.src 887).event ∧ u.clampCount r.f = s.clampCount' r.f m.clamps ∧ steps u ∧
      OnlyPieces [.regs, .irq, .power] s u) ∧
    (above → m.back = false → m.ref = none → Holds .powerModeSettleEnd s fun t => settled t ∧ mode t = s.f F.PWR_STAT.TARGET ∧
      steps t ∧ OnlyPieces [.regs, .irq, .power] s t) ∧
    (above → m.back = true → m.ref = some r → ∃ u,
      exec .powerModeSettleEnd s = .next (u.adminCpl r .refused Cause.thermal.code 0 0 0 0 0) ∧ settled u ∧ mode u = mode s ∧
      u.fb F.PWR_STAT.STEPPED_DOWN = s.fb F.PWR_STAT.STEPPED_DOWN ∧ OnlyPieces [.regs, .power] s u) ∧
    (moving → s.now < m.settle → exec .powerModeSettleEnd s = .next s) ∧
    (moving → s.fb F.PWR_CTRL.VCTRL = false → m.nacks < 2 → Holds .pmbusWriteNack s fun t =>
      t.power.move = some { m with nacks := m.nacks + 1 } ∧ OnlyPieces [.power] s t) ∧
    (moving → s.fb F.PWR_CTRL.VCTRL = false → 2 ≤ m.nacks → fails .pmbusWriteNack id) ∧
    (moving → fails .pwrGoodFallDuringMove fun t => t.setLevel 25 false) ∧
    (hot → moving → s.f F.PWR_STAT.TARGET = 2 → m.back = false → Holds (.thermalStepDown tj) s fun t =>
      noted t ∧ moves t { m with nacks := 0, back := true } (mode s)) ∧
    (hot → moving → s.f F.PWR_STAT.TARGET ≠ 2 ∨ m.back = true → mode s = 2 → Holds (.thermalStepDown tj) s fun t =>
      noted t ∧ t.power = { s.power with move := some { m with stepDown := true }, tjSeen := true } ∧ mode t = mode s ∧ t.srcs = s.srcs) ∧
    (hot → s.power.move = none → mode s = 2 → Holds (.thermalStepDown tj) s fun t =>
      noted t ∧ moves t { ref := none, settle := 0, stepDown := true } 1) ∧
    (hot → moving ∧ (s.f F.PWR_STAT.TARGET ≠ 2 ∨ m.back = true) ∨ s.power.move = none → mode s ≠ 2 →
      Holds (.thermalStepDown tj) s fun t => noted t ∧ t.power = { s.power with tjSeen := true } ∧ mode t = mode s ∧ t.srcs = s.srcs) ∧
    (alarm ≤ degC tj.toNat → s.power.alarmed = false → Holds (.tjAlarmCross tj) s fun t =>
      noted t ∧ t.power.alarmed = true ∧ t.src 888 = (s.src 888).event) ∧
    (alarm ≤ degC tj.toNat → s.power.alarmed = true → Holds (.tjAlarmCross tj) s fun t =>
      noted t ∧ t.power = { s.power with tjSeen := true } ∧ t.srcs = s.srcs) ∧
    (degC tj.toNat < alarm - 5 → Holds (.tjAlarmRearm tj) s fun t =>
      noted t ∧ t.power.alarmed = false ∧ t.srcs = s.srcs)

/-- At the release the straps are latched and VIO of each bank as the code of its millivolts, both links come up, the inputs
of lanes whose bank is below 1.0 V read dominant, and the ROM waits for the host or loads. The mailbox takes LEN held to its
range and GO from the function that BOOT_SRC names until BOOT_DONE, and counts a write otherwise. An image that was not
delivered, whole as LEN asks through the mailbox, shows 8 in FAIL_CAUSE; one that was is VERIFYING until the next tick,
IMAGE_READ_DONE or BOOT_DONE (log 110). A valid image then shows its revision, its source and FALLBACK and starts the
engines in its masks, no other, each PE with its memory stack where Berzu has it; an image that fails a check shows the
check's number, starts no engine, and the ROM turns to the next source, waits for the host, or is FAILED. When Berzu runs on
SE3, BOOT_DONE is set and the wake sources are raised. This statement rests on choices of the model: log 37, 38, 42, 62, 63,
103 and 110. -/
def Obligations.Boots : Prop :=
  ∀ (s : State) (p : Straps) (f : Fn) (v : Word) (bs : List Byte), Sane s →
    let x := s.boot
    let st := s.f F.GLB_BOOT.STATE
    let src := s.f F.GLB_BOOT.STRAP_SRC
    let opens : Prop := s.mayRead (.host f) = true
    let owns : Prop := s.fb F.GLB_BOOT.BOOT_DONE = false ∧ src = f.val + 1
    let len := fieldOf v 0 22
    let rests : Prop := x.verifying = none
    let loads : Prop := rests ∧ x.mainOn = true ∧ st = 2
    let ends : Prop := x.verifying = some bs
    let t := s.verifyEnd
    let y : Boot := { x with verifying := none }
    let c := verify bs none
    let pe := imgWord bs 0x14
    let se := imgWord bs 0x18
    let fell (t : State) : Prop := t.engs = s.engs ∧
      (src = 1 ∨ src = 2 → t.f F.GLB_BOOT.STATE = 1 ∧ t.boot = y) ∧
      (src ≠ 1 → src ≠ 2 → x.attempt < (if src = 3 then 2 else 1) → t.f F.GLB_BOOT.STATE = 2 ∧
        t.boot = { y with attempt := x.attempt + 1 }) ∧
      (src ≠ 1 → src ≠ 2 → (if src = 3 then 2 else 1) ≤ x.attempt → t.f F.GLB_BOOT.STATE = 5 ∧ t.boot = y)
    let w := s.reg 0xC0008
    let starts : Prop := rests ∧ st = 4 ∧ s.fb F.GLB_BOOT.BOOT_DONE = false ∧ s.engUp 35 = true
    let told (t : State) (n : Nat) (b : Bool) : Prop := t.src n = if b then (s.src n).event else s.src n
    (s.snow.phase = .main → x.resetting = false → x.mainOn = false → Holds (.mainResetRelease p) s fun t =>
      t.boot = { x with mainOn := true, attempt := 0, passAt := s.now } ∧ t.f F.GLB_BOOT.STRAP_SRC = p.bootSrc.toNat ∧
      t.f F.STACK_ID.STRAP_ROLE = p.role.toNat ∧ (t.func 0).link = true ∧ (t.func 1).link = true ∧
      (∀ b < 8, fieldOf (t.reg 0x58) (2 * b) 2 = vioCode (p.vio.getD b 0)) ∧
      (∀ l < 128, t.dark l = decide (p.vio.getD (bankOf l) 0 < 1000)) ∧
      t.f F.GLB_BOOT.STATE = (if p.bootSrc = 1 ∨ p.bootSrc = 2 then 1 else 2) ∧ OnlyPieces [.regs, .rings, .power, .boot] s t) ∧
    (s.snow.phase ≠ .main ∨ x.resetting = true ∨ x.mainOn = true → exec (.mainResetRelease p) s = .next s) ∧
    (opens → owns → Holds (.bootMailboxGo f v) s fun t => t.f F.GLB_BOOTLEN.LEN = min 2097152 (max 208 len) ∧
      t.clampCount f.val = s.clampCount' f.val (if len < 208 ∨ 2097152 < len then 1 else 0) ∧
      t.f F.GLB_BOOT.STATE = (if v.getLsbD 31 = true ∧ (st = 1 ∨ st = 5) then 2 else st) ∧ OnlyPieces [.regs] s t) ∧
    (opens → ¬ owns → Holds (.bootMailboxGo f v) s fun t => t.clampCount f.val = s.clampCount' f.val 1 ∧
      t.reg 0x28 = s.reg 0x28 ∧ t.reg 0x18 = s.reg 0x18 ∧ OnlyPieces [.regs] s t) ∧
    (src = 1 ∨ src = 2 → s.bootRead bs =
      if bs.length < s.f F.GLB_BOOTLEN.LEN then none else some (bs.take (s.f F.GLB_BOOTLEN.LEN))) ∧
    (∀ img, loads → img.bind s.bootRead = none → Holds (.imageReadDone img) s fun t =>
      t.f F.GLB_BOOT.FAIL_CAUSE = 8 ∧ fell t ∧ OnlyPieces [.regs, .boot] s t) ∧
    (∀ img, loads → img.bind s.bootRead = some bs → Holds (.imageReadDone img) s fun t =>
      t.f F.GLB_BOOT.STATE = 3 ∧ t.boot = { x with verifying := some bs } ∧ OnlyPieces [.regs, .boot] s t) ∧
    (rests → ¬ loads → ∀ img, exec (.imageReadDone img) s = .next s) ∧
    (ends → (∀ img, exec (.imageReadDone img) s = exec (.imageReadDone img) t) ∧ exec .bootDone s = exec .bootDone t) ∧
    (ends → c ≠ 0 → t.f F.GLB_BOOT.FAIL_CAUSE = c ∧ fell t ∧ OnlyPieces [.regs, .boot, .mem, .poison] s t) ∧
    (ends → c = 0 → t.f F.GLB_BOOT.STATE = 4 ∧ t.boot.running = bs ∧ t.boot.verifying = none ∧
      t.reg 0x8 = BitVec.ofNat 32 (imgWord bs 0xC) ∧ t.f F.GLB_BOOT.USED_SRC = (if src = 3 ∧ 0 < x.attempt then 0 else src) ∧
      t.fb F.GLB_BOOT.FALLBACK = decide (0 < x.attempt) ∧
      (∀ e < 36, t.eng e = if inMasks pe se e then
        { s.eng e with stopped := false, hook := if e < 32 then t.rd32 (engBase e + 0x4000) else 0, home := true, waiting := true,
                       ie := true, il := 0 } else s.eng e) ∧
      (∀ e < 32, inMasks pe se e = true → t.msp e = 0x4000 ∧ t.mslim e = 0x3020) ∧
      (∀ y, segments bs = [y] → y.engine < 36 → ∀ k < y.len,
        t.rd8 (engBase y.engine + (if y.data then 0x8000 else 0) + y.off + k) = (bytesFrom bs y.src y.len).getD k 0) ∧
      OnlyPieces [.regs, .boot, .mem, .poison, .engs] s t) ∧
    (starts → Holds .bootDone s fun t => t.fb F.GLB_BOOT.BOOT_DONE = true ∧ t.killDue = some (s.now + 1000 * ltMs) ∧
      told t 880 (decide (bitsOf w 0 16 ≠ 0)) ∧ told t 881 (w.getLsbD 16 || w.getLsbD 17) ∧
      told t 882 (w.getLsbD 18 || w.getLsbD 19) ∧ told t 883 (w.getLsbD 20) ∧ told t 884 (decide (bitsOf w 21 4 ≠ 0)) ∧
      told t 885 (w.getLsbD 25) ∧ told t 886 (w.getLsbD 26) ∧ told t 894 (s.fb F.GLB_RSTCAUSE.THERMAL) ∧
      (∀ l < 128, (s.eng (l / 4)).stopped = true → ∀ k < 16, t.reg (0x100300 + l * 0x800 + 4 * k) =
        s.reg (0x100300 + l * 0x800 + 4 * k)) ∧ OnlyPieces [.free, .regs, .routes, .irq] s t) ∧
    (rests → ¬ starts → exec .bootDone s = .next s)

/-- SYS_RESET_N with the rails on, the reset key once the main domain runs (but not in the lt of a standby key that came
first, R697), and 135 °C reset the device: Snowline, attached memory and GLB_RSTCAUSE, which gains the cause, are kept, and
an object whose lock it ends shows LOCK_EXPIRED (R179); after a thermal shutdown the reset stays asserted until TJ is below
100 °C. The standby key stops the lanes and ports, each at the end of the frame it sends; once no frame is on a wire the
rails go off: with RESUME_EN 1 the running image is described for resume (R691), the device is reset, the frame error
counters of Snowline are clear and PWR_EN_N is high for 1 ms. This statement rests on choices of the model: log 39, 67, 68
and 102. -/
def Obligations.Resets : Prop :=
  ∀ (s : State) (w : Agent) (tj : BitVec 9), Sane s →
    let x := s.snow
    let rails : Prop := x.phase = .main ∨ x.phase = .powerDown
    let reads : Prop := s.mayRead w = true
    let sleeps : Prop := reads ∧ s.boot.mainOn = true ∧ x.phase = .main
    let quiet : Prop := s.framesOut = false
    let stopped : Prop := (∀ l < 128, s.laneSt l = St.off) ∧ ∀ e < 4, s.fb (F.ETH_STAT.ENABLED e) = false
    (rails → Holds .sysReset s fun t => WasReset s t 1 s.boot.resetting) ∧
    (¬ rails → exec .sysReset s = .next s) ∧
    (reads → s.boot.mainOn = true → x.keyAt ≠ some s.now → Holds (.deviceResetKey w) s fun t => WasReset s t 2 false) ∧
    (reads → s.boot.mainOn = false ∨ x.keyAt = some s.now → exec (.deviceResetKey w) s = .next s) ∧
    (rails → 135 ≤ degC tj.toNat → Holds (.thermalShutdown tj) s fun t => WasReset s t 4 true) ∧
    (¬ rails ∨ degC tj.toNat < 135 → exec (.thermalShutdown tj) s = .next s) ∧
    (x.phase = .main → s.boot.resetting = true → degC tj.toNat < 100 → Holds (.thermalRelease tj) s fun t =>
      t.boot = { s.boot with resetting := false } ∧ t.f F.PWR_STAT.TJ = tj.toNat ∧ OnlyPieces [.regs, .power, .boot] s t) ∧
    (x.phase ≠ .main ∨ s.boot.resetting = false ∨ 100 ≤ degC tj.toNat → exec (.thermalRelease tj) s = .next s) ∧
    (sleeps → Holds (.standbyKey w) s fun t => t.snow = { x with phase := .powerDown, keyAt := some s.now } ∧
      (quiet → (∀ l < 128, t.laneSt l = St.off) ∧ ∀ e < 4, t.fb (F.ETH_STAT.ENABLED e) = false)) ∧
    (sleeps → (∀ l < 128, s.laneSt l ≠ St.off → (s.lane l).att.isSome = true ∧ (s.lane l).pend = none) →
      (∀ e < 4, s.fb (F.ETH_STAT.ENABLED e) = true → (s.eth e).wire.isSome = true ∧ (s.eth e).pendDis = none) →
      Holds (.standbyKey w) s fun t =>
        (∀ l < 128, s.laneSt l ≠ St.off → t.lane l = { s.lane l with pend := some ⟨.stop, none⟩ }) ∧
        (∀ e < 4, s.fb (F.ETH_STAT.ENABLED e) = true → t.eth e = { s.eth e with pendDis := some none }) ∧
        OnlyPieces [.lanes, .eths, .snow] s t) ∧
    (reads → ¬ sleeps → exec (.standbyKey w) s = .next s) ∧
    (x.phase = .powerDown → quiet → Holds .standbyRailsOff s fun t =>
      t.snow = { x with phase := .holdOff, due := s.now + ltMs, woken := true, frameErr := [] } ∧
      t.boot = { resetting := true, resume := if s.fb F.GLB_RESUME.RESUME_EN then some s.boot.running.length else s.boot.resume } ∧
      t.power = { vioLow := s.power.vioLow } ∧ t.tbs = [] ∧ t.now = s.now ∧
      (∀ a, a < 0xC0000 ∨ 0xD0000 ≤ a → a ≠ 0x30 → t.reg a = State.reset.reg a) ∧
      LocksLeft s t ∧
      OnlyPieces [.free, .time, .regs, .mem, .host, .mor, .snow, .power, .boot] State.reset t ∧
      (stopped → s.mor.started = false → t.reg 0x30 = s.reg 0x30 ∧ (∀ a, 0xC0000 ≤ a → a < 0xD0000 → t.reg a = s.reg a) ∧
        (∀ a, dramBase ≤ a → t.rd8 a = s.rd8 a) ∧ t.hostMem0 = s.hostMem0 ∧ t.hostMem1 = s.hostMem1)) ∧
    (x.phase ≠ .powerDown ∨ ¬ quiet → exec .standbyRailsOff s = .next s)

/-- IMAGE_LOAD is refused, cause STATE, where a load runs, where it names SE3, a running stack engine, or a PE of a quad
with a lane out of OFF; otherwise it is held until its image has been read. A failed image leaves every engine as it was,
shows the check in FAIL_CAUSE, 8 where fewer bytes than its length asks for have come, and completes REFUSED, cause IMAGE; a
valid one starts the named engines afresh at word 0, in Berzu's WAIT and with the memory stack of a PE where Berzu has it,
changes no other engine, and completes DONE. This statement rests on choices of the model: log 62. -/
def Obligations.ImageLoads : Prop :=
  ∀ (s : State) (f : Fn) (d : Words8) (img : List Byte) (y : ImageCmd), Sane s →
    let se := fieldOf d.w2 0 4
    let refused : Prop := s.boot.image.isSome = true ∨ se.testBit 3 = true ∨
      (∃ q < 32, d.w1.getLsbD q = true ∧ ∃ k < 4, s.laneSt (4 * q + k) ≠ St.off) ∨
      ∃ k < 3, se.testBit k = true ∧ s.engUp (32 + k) = true
    let pe := y.peMask.toNat
    let got := img.take y.len
    let c := if got.length < y.len ∨ got = [] then 8 else verify got (some (pe, y.seMask))
    let ends (st : Status) (cause : Nat) (P : State → Prop) : Prop :=
      ∃ u, exec (.imageLoadCommit img) s = .next (u.adminCpl y.ref st cause 0 0 0 0 0) ∧ u.boot.image = none ∧
        u.f F.GLB_BOOT.FAIL_CAUSE = c ∧ P u
    (Taken s f d 0x58 → refused → Refuses (.imageLoad f d) s f d .state) ∧
    (Taken s f d 0x58 → ¬ refused → Holds (.imageLoad f d) s fun t =>
      t.boot = { s.boot with image := some { ref := refOf f d, peMask := d.w1, seMask := se, addr := pair64 d.w3 d.w4, len := d.w5.toNat } } ∧
      OnlyPieces [.boot, .rings] s t) ∧
    (s.boot.image = some y → c ≠ 0 → ends .refused Cause.image.code fun u => OnlyPieces [.regs, .boot] s u) ∧
    (s.boot.image = some y → c = 0 → ends .done 0 fun u =>
      (∀ e < 36, inMasks pe y.seMask e = true → u.eng e =
        { stopped := false, hook := if e < 32 then u.rd32 (engBase e + 0x4000) else 0, home := true, waiting := true, ie := true }) ∧
      (∀ e, inMasks pe y.seMask e = false ∨ 36 ≤ e → u.eng e = s.eng e) ∧
      (∀ e < 36, inMasks pe y.seMask e = true → ∀ k < 34, let a := engBase e + 0xC000 + 4 * k
        e < 32 ∧ (a = (F.ENG_MSP.MSP e).off ∨ a = (F.ENG_MSLIM.MSLIM e).off) ∨ u.reg a = State.reset.reg a) ∧
      (∀ e < 32, inMasks pe y.seMask e = true → u.msp e = 0x4000 ∧ u.mslim e = 0x3020) ∧
      u.reg 0x8 = s.reg 0x8 ∧ ((∀ e < 36, (s.eng e).calls = []) → OnlyPieces [.free, .regs, .mem, .boot, .poison, .engs] s u)) ∧
    (s.boot.image = none → exec (.imageLoadCommit img) s = .next s)
end

