-- ==== Sys2Proof/Laws/State.lean ====
section
/-! SUPPORT. One theorem for each update of the state: which fields it leaves alone, all true by definition. -/
namespace Sys2Proof.Machine
set_option Elab.async false

@[simp] theorem State.setTb_frame (s : State) (k : Nat) (v : TimeBase) :
    (s.setTb k v).pending = s.pending ∧
    (s.setTb k v).free = s.free ∧
    (s.setTb k v).readData = s.readData ∧
    (s.setTb k v).now = s.now ∧
    (s.setTb k v).regs = s.regs ∧
    (s.setTb k v).mem = s.mem ∧
    (s.setTb k v).hostMem0 = s.hostMem0 ∧
    (s.setTb k v).hostMem1 = s.hostMem1 ∧
    (s.setTb k v).tbCap = s.tbCap ∧
    (s.setTb k v).timeUp = s.timeUp ∧
    (s.setTb k v).timeDist = s.timeDist ∧
    (s.setTb k v).bdq = s.bdq ∧
    (s.setTb k v).lanes = s.lanes ∧
    (s.setTb k v).pins = s.pins ∧
    (s.setTb k v).buses = s.buses ∧
    (s.setTb k v).txTurn = s.txTurn ∧
    (s.setTb k v).nextEnt = s.nextEnt ∧
    (s.setTb k v).nextDone = s.nextDone ∧
    (s.setTb k v).fetched = s.fetched ∧
    (s.setTb k v).seWait = s.seWait ∧
    (s.setTb k v).objs = s.objs ∧
    (s.setTb k v).fltLoads = s.fltLoads ∧
    (s.setTb k v).caches = s.caches ∧
    (s.setTb k v).rtLoad = s.rtLoad ∧
    (s.setTb k v).polLoad = s.polLoad ∧
    (s.setTb k v).routeGen = s.routeGen ∧
    (s.setTb k v).kills = s.kills ∧
    (s.setTb k v).killDue = s.killDue ∧
    (s.setTb k v).voqs = s.voqs ∧
    (s.setTb k v).ctqs = s.ctqs ∧
    (s.setTb k v).ptrs = s.ptrs ∧
    (s.setTb k v).cells = s.cells ∧
    (s.setTb k v).frames = s.frames ∧
    (s.setTb k v).nextFid = s.nextFid ∧
    (s.setTb k v).nextValid = s.nextValid ∧
    (s.setTb k v).charged = s.charged ∧
    (s.setTb k v).avg = s.avg ∧
    (s.setTb k v).lfsr = s.lfsr ∧
    (s.setTb k v).buckets = s.buckets ∧
    (s.setTb k v).cqHeld = s.cqHeld ∧
    (s.setTb k v).lowCond = s.lowCond ∧
    (s.setTb k v).chargeSeen = s.chargeSeen ∧
    (s.setTb k v).sweepAt = s.sweepAt ∧
    (s.setTb k v).sqs = s.sqs ∧
    (s.setTb k v).cqs = s.cqs ∧
    (s.setTb k v).funcs = s.funcs ∧
    (s.setTb k v).held = s.held ∧
    (s.setTb k v).srcs = s.srcs ∧
    (s.setTb k v).tgts = s.tgts ∧
    (s.setTb k v).mor = s.mor ∧
    (s.setTb k v).stack = s.stack ∧
    (s.setTb k v).eths = s.eths ∧
    (s.setTb k v).snow = s.snow ∧
    (s.setTb k v).power = s.power ∧
    (s.setTb k v).boot = s.boot ∧
    (s.setTb k v).poison = s.poison ∧
    (s.setTb k v).engs = s.engs := by
  refine ⟨rfl, rfl, rfl, rfl, rfl, rfl, rfl, rfl, rfl, rfl, rfl, rfl, rfl, rfl, rfl, rfl, rfl, rfl, rfl, rfl, rfl, rfl, rfl, rfl, rfl, rfl, rfl, rfl, rfl, rfl, rfl, rfl, rfl, rfl, rfl, rfl, rfl, rfl, rfl, rfl, rfl, rfl, rfl, rfl, rfl, rfl, rfl, rfl, rfl, rfl, rfl, rfl, rfl, rfl, rfl, rfl, rfl⟩

@[simp] theorem State.setTb_same (s : State) (k : Nat) (v : TimeBase) : (s.setTb k v).tb k = v :=
  Tab.get_put_same _ _ _ _

theorem State.setTb_other (s : State) (k j : Nat) (v : TimeBase) (h : j ≠ k) : (s.setTb k v).tb j = s.tb j :=
  Tab.get_put_other _ _ _ _ _ h

@[simp] theorem State.setLane_frame (s : State) (k : Nat) (v : Lane) :
    (s.setLane k v).pending = s.pending ∧
    (s.setLane k v).free = s.free ∧
    (s.setLane k v).readData = s.readData ∧
    (s.setLane k v).now = s.now ∧
    (s.setLane k v).regs = s.regs ∧
    (s.setLane k v).mem = s.mem ∧
    (s.setLane k v).hostMem0 = s.hostMem0 ∧
    (s.setLane k v).hostMem1 = s.hostMem1 ∧
    (s.setLane k v).tbs = s.tbs ∧
    (s.setLane k v).tbCap = s.tbCap ∧
    (s.setLane k v).timeUp = s.timeUp ∧
    (s.setLane k v).timeDist = s.timeDist ∧
    (s.setLane k v).bdq = s.bdq ∧
    (s.setLane k v).pins = s.pins ∧
    (s.setLane k v).buses = s.buses ∧
    (s.setLane k v).txTurn = s.txTurn ∧
    (s.setLane k v).nextEnt = s.nextEnt ∧
    (s.setLane k v).nextDone = s.nextDone ∧
    (s.setLane k v).fetched = s.fetched ∧
    (s.setLane k v).seWait = s.seWait ∧
    (s.setLane k v).objs = s.objs ∧
    (s.setLane k v).fltLoads = s.fltLoads ∧
    (s.setLane k v).caches = s.caches ∧
    (s.setLane k v).rtLoad = s.rtLoad ∧
    (s.setLane k v).polLoad = s.polLoad ∧
    (s.setLane k v).routeGen = s.routeGen ∧
    (s.setLane k v).kills = s.kills ∧
    (s.setLane k v).killDue = s.killDue ∧
    (s.setLane k v).voqs = s.voqs ∧
    (s.setLane k v).ctqs = s.ctqs ∧
    (s.setLane k v).ptrs = s.ptrs ∧
    (s.setLane k v).cells = s.cells ∧
    (s.setLane k v).frames = s.frames ∧
    (s.setLane k v).nextFid = s.nextFid ∧
    (s.setLane k v).nextValid = s.nextValid ∧
    (s.setLane k v).charged = s.charged ∧
    (s.setLane k v).avg = s.avg ∧
    (s.setLane k v).lfsr = s.lfsr ∧
    (s.setLane k v).buckets = s.buckets ∧
    (s.setLane k v).cqHeld = s.cqHeld ∧
    (s.setLane k v).lowCond = s.lowCond ∧
    (s.setLane k v).chargeSeen = s.chargeSeen ∧
    (s.setLane k v).sweepAt = s.sweepAt ∧
    (s.setLane k v).sqs = s.sqs ∧
    (s.setLane k v).cqs = s.cqs ∧
    (s.setLane k v).funcs = s.funcs ∧
    (s.setLane k v).held = s.held ∧
    (s.setLane k v).srcs = s.srcs ∧
    (s.setLane k v).tgts = s.tgts ∧
    (s.setLane k v).mor = s.mor ∧
    (s.setLane k v).stack = s.stack ∧
    (s.setLane k v).eths = s.eths ∧
    (s.setLane k v).snow = s.snow ∧
    (s.setLane k v).power = s.power ∧
    (s.setLane k v).boot = s.boot ∧
    (s.setLane k v).poison = s.poison ∧
    (s.setLane k v).engs = s.engs := by
  refine ⟨rfl, rfl, rfl, rfl, rfl, rfl, rfl, rfl, rfl, rfl, rfl, rfl, rfl, rfl, rfl, rfl, rfl, rfl, rfl, rfl, rfl, rfl, rfl, rfl, rfl, rfl, rfl, rfl, rfl, rfl, rfl, rfl, rfl, rfl, rfl, rfl, rfl, rfl, rfl, rfl, rfl, rfl, rfl, rfl, rfl, rfl, rfl, rfl, rfl, rfl, rfl, rfl, rfl, rfl, rfl, rfl, rfl⟩

@[simp] theorem State.setLane_same (s : State) (k : Nat) (v : Lane) : (s.setLane k v).lane k = v :=
  Tab.get_put_same _ _ _ _

theorem State.setLane_other (s : State) (k j : Nat) (v : Lane) (h : j ≠ k) : (s.setLane k v).lane j = s.lane j :=
  Tab.get_put_other _ _ _ _ _ h

@[simp] theorem State.setPin_frame (s : State) (k : Nat) (v : PinEng) :
    (s.setPin k v).pending = s.pending ∧
    (s.setPin k v).free = s.free ∧
    (s.setPin k v).readData = s.readData ∧
    (s.setPin k v).now = s.now ∧
    (s.setPin k v).regs = s.regs ∧
    (s.setPin k v).mem = s.mem ∧
    (s.setPin k v).hostMem0 = s.hostMem0 ∧
    (s.setPin k v).hostMem1 = s.hostMem1 ∧
    (s.setPin k v).tbs = s.tbs ∧
    (s.setPin k v).tbCap = s.tbCap ∧
    (s.setPin k v).timeUp = s.timeUp ∧
    (s.setPin k v).timeDist = s.timeDist ∧
    (s.setPin k v).bdq = s.bdq ∧
    (s.setPin k v).lanes = s.lanes ∧
    (s.setPin k v).buses = s.buses ∧
    (s.setPin k v).txTurn = s.txTurn ∧
    (s.setPin k v).nextEnt = s.nextEnt ∧
    (s.setPin k v).nextDone = s.nextDone ∧
    (s.setPin k v).fetched = s.fetched ∧
    (s.setPin k v).seWait = s.seWait ∧
    (s.setPin k v).objs = s.objs ∧
    (s.setPin k v).fltLoads = s.fltLoads ∧
    (s.setPin k v).caches = s.caches ∧
    (s.setPin k v).rtLoad = s.rtLoad ∧
    (s.setPin k v).polLoad = s.polLoad ∧
    (s.setPin k v).routeGen = s.routeGen ∧
    (s.setPin k v).kills = s.kills ∧
    (s.setPin k v).killDue = s.killDue ∧
    (s.setPin k v).voqs = s.voqs ∧
    (s.setPin k v).ctqs = s.ctqs ∧
    (s.setPin k v).ptrs = s.ptrs ∧
    (s.setPin k v).cells = s.cells ∧
    (s.setPin k v).frames = s.frames ∧
    (s.setPin k v).nextFid = s.nextFid ∧
    (s.setPin k v).nextValid = s.nextValid ∧
    (s.setPin k v).charged = s.charged ∧
    (s.setPin k v).avg = s.avg ∧
    (s.setPin k v).lfsr = s.lfsr ∧
    (s.setPin k v).buckets = s.buckets ∧
    (s.setPin k v).cqHeld = s.cqHeld ∧
    (s.setPin k v).lowCond = s.lowCond ∧
    (s.setPin k v).chargeSeen = s.chargeSeen ∧
    (s.setPin k v).sweepAt = s.sweepAt ∧
    (s.setPin k v).sqs = s.sqs ∧
    (s.setPin k v).cqs = s.cqs ∧
    (s.setPin k v).funcs = s.funcs ∧
    (s.setPin k v).held = s.held ∧
    (s.setPin k v).srcs = s.srcs ∧
    (s.setPin k v).tgts = s.tgts ∧
    (s.setPin k v).mor = s.mor ∧
    (s.setPin k v).stack = s.stack ∧
    (s.setPin k v).eths = s.eths ∧
    (s.setPin k v).snow = s.snow ∧
    (s.setPin k v).power = s.power ∧
    (s.setPin k v).boot = s.boot ∧
    (s.setPin k v).poison = s.poison ∧
    (s.setPin k v).engs = s.engs := by
  refine ⟨rfl, rfl, rfl, rfl, rfl, rfl, rfl, rfl, rfl, rfl, rfl, rfl, rfl, rfl, rfl, rfl, rfl, rfl, rfl, rfl, rfl, rfl, rfl, rfl, rfl, rfl, rfl, rfl, rfl, rfl, rfl, rfl, rfl, rfl, rfl, rfl, rfl, rfl, rfl, rfl, rfl, rfl, rfl, rfl, rfl, rfl, rfl, rfl, rfl, rfl, rfl, rfl, rfl, rfl, rfl, rfl, rfl⟩

@[simp] theorem State.setPin_same (s : State) (k : Nat) (v : PinEng) : (s.setPin k v).pin k = v :=
  Tab.get_put_same _ _ _ _

theorem State.setPin_other (s : State) (k j : Nat) (v : PinEng) (h : j ≠ k) : (s.setPin k v).pin j = s.pin j :=
  Tab.get_put_other _ _ _ _ _ h

@[simp] theorem State.setBus_frame (s : State) (k : Nat) (v : List Entry) :
    (s.setBus k v).pending = s.pending ∧
    (s.setBus k v).free = s.free ∧
    (s.setBus k v).readData = s.readData ∧
    (s.setBus k v).now = s.now ∧
    (s.setBus k v).regs = s.regs ∧
    (s.setBus k v).mem = s.mem ∧
    (s.setBus k v).hostMem0 = s.hostMem0 ∧
    (s.setBus k v).hostMem1 = s.hostMem1 ∧
    (s.setBus k v).tbs = s.tbs ∧
    (s.setBus k v).tbCap = s.tbCap ∧
    (s.setBus k v).timeUp = s.timeUp ∧
    (s.setBus k v).timeDist = s.timeDist ∧
    (s.setBus k v).bdq = s.bdq ∧
    (s.setBus k v).lanes = s.lanes ∧
    (s.setBus k v).pins = s.pins ∧
    (s.setBus k v).txTurn = s.txTurn ∧
    (s.setBus k v).nextEnt = s.nextEnt ∧
    (s.setBus k v).nextDone = s.nextDone ∧
    (s.setBus k v).fetched = s.fetched ∧
    (s.setBus k v).seWait = s.seWait ∧
    (s.setBus k v).objs = s.objs ∧
    (s.setBus k v).fltLoads = s.fltLoads ∧
    (s.setBus k v).caches = s.caches ∧
    (s.setBus k v).rtLoad = s.rtLoad ∧
    (s.setBus k v).polLoad = s.polLoad ∧
    (s.setBus k v).routeGen = s.routeGen ∧
    (s.setBus k v).kills = s.kills ∧
    (s.setBus k v).killDue = s.killDue ∧
    (s.setBus k v).voqs = s.voqs ∧
    (s.setBus k v).ctqs = s.ctqs ∧
    (s.setBus k v).ptrs = s.ptrs ∧
    (s.setBus k v).cells = s.cells ∧
    (s.setBus k v).frames = s.frames ∧
    (s.setBus k v).nextFid = s.nextFid ∧
    (s.setBus k v).nextValid = s.nextValid ∧
    (s.setBus k v).charged = s.charged ∧
    (s.setBus k v).avg = s.avg ∧
    (s.setBus k v).lfsr = s.lfsr ∧
    (s.setBus k v).buckets = s.buckets ∧
    (s.setBus k v).cqHeld = s.cqHeld ∧
    (s.setBus k v).lowCond = s.lowCond ∧
    (s.setBus k v).chargeSeen = s.chargeSeen ∧
    (s.setBus k v).sweepAt = s.sweepAt ∧
    (s.setBus k v).sqs = s.sqs ∧
    (s.setBus k v).cqs = s.cqs ∧
    (s.setBus k v).funcs = s.funcs ∧
    (s.setBus k v).held = s.held ∧
    (s.setBus k v).srcs = s.srcs ∧
    (s.setBus k v).tgts = s.tgts ∧
    (s.setBus k v).mor = s.mor ∧
    (s.setBus k v).stack = s.stack ∧
    (s.setBus k v).eths = s.eths ∧
    (s.setBus k v).snow = s.snow ∧
    (s.setBus k v).power = s.power ∧
    (s.setBus k v).boot = s.boot ∧
    (s.setBus k v).poison = s.poison ∧
    (s.setBus k v).engs = s.engs := by
  refine ⟨rfl, rfl, rfl, rfl, rfl, rfl, rfl, rfl, rfl, rfl, rfl, rfl, rfl, rfl, rfl, rfl, rfl, rfl, rfl, rfl, rfl, rfl, rfl, rfl, rfl, rfl, rfl, rfl, rfl, rfl, rfl, rfl, rfl, rfl, rfl, rfl, rfl, rfl, rfl, rfl, rfl, rfl, rfl, rfl, rfl, rfl, rfl, rfl, rfl, rfl, rfl, rfl, rfl, rfl, rfl, rfl, rfl⟩

@[simp] theorem State.setBus_same (s : State) (k : Nat) (v : List Entry) : (s.setBus k v).bus k = v :=
  Tab.get_put_same _ _ _ _

theorem State.setBus_other (s : State) (k j : Nat) (v : List Entry) (h : j ≠ k) : (s.setBus k v).bus j = s.bus j :=
  Tab.get_put_other _ _ _ _ _ h

@[simp] theorem State.setObj_frame (s : State) (k : Nat) (v : Obj) :
    (s.setObj k v).pending = s.pending ∧
    (s.setObj k v).free = s.free ∧
    (s.setObj k v).readData = s.readData ∧
    (s.setObj k v).now = s.now ∧
    (s.setObj k v).regs = s.regs ∧
    (s.setObj k v).mem = s.mem ∧
    (s.setObj k v).hostMem0 = s.hostMem0 ∧
    (s.setObj k v).hostMem1 = s.hostMem1 ∧
    (s.setObj k v).tbs = s.tbs ∧
    (s.setObj k v).tbCap = s.tbCap ∧
    (s.setObj k v).timeUp = s.timeUp ∧
    (s.setObj k v).timeDist = s.timeDist ∧
    (s.setObj k v).bdq = s.bdq ∧
    (s.setObj k v).lanes = s.lanes ∧
    (s.setObj k v).pins = s.pins ∧
    (s.setObj k v).buses = s.buses ∧
    (s.setObj k v).txTurn = s.txTurn ∧
    (s.setObj k v).nextEnt = s.nextEnt ∧
    (s.setObj k v).nextDone = s.nextDone ∧
    (s.setObj k v).fetched = s.fetched ∧
    (s.setObj k v).seWait = s.seWait ∧
    (s.setObj k v).fltLoads = s.fltLoads ∧
    (s.setObj k v).caches = s.caches ∧
    (s.setObj k v).rtLoad = s.rtLoad ∧
    (s.setObj k v).polLoad = s.polLoad ∧
    (s.setObj k v).routeGen = s.routeGen ∧
    (s.setObj k v).kills = s.kills ∧
    (s.setObj k v).killDue = s.killDue ∧
    (s.setObj k v).voqs = s.voqs ∧
    (s.setObj k v).ctqs = s.ctqs ∧
    (s.setObj k v).ptrs = s.ptrs ∧
    (s.setObj k v).cells = s.cells ∧
    (s.setObj k v).frames = s.frames ∧
    (s.setObj k v).nextFid = s.nextFid ∧
    (s.setObj k v).nextValid = s.nextValid ∧
    (s.setObj k v).charged = s.charged ∧
    (s.setObj k v).avg = s.avg ∧
    (s.setObj k v).lfsr = s.lfsr ∧
    (s.setObj k v).buckets = s.buckets ∧
    (s.setObj k v).cqHeld = s.cqHeld ∧
    (s.setObj k v).lowCond = s.lowCond ∧
    (s.setObj k v).chargeSeen = s.chargeSeen ∧
    (s.setObj k v).sweepAt = s.sweepAt ∧
    (s.setObj k v).sqs = s.sqs ∧
    (s.setObj k v).cqs = s.cqs ∧
    (s.setObj k v).funcs = s.funcs ∧
    (s.setObj k v).held = s.held ∧
    (s.setObj k v).srcs = s.srcs ∧
    (s.setObj k v).tgts = s.tgts ∧
    (s.setObj k v).mor = s.mor ∧
    (s.setObj k v).stack = s.stack ∧
    (s.setObj k v).eths = s.eths ∧
    (s.setObj k v).snow = s.snow ∧
    (s.setObj k v).power = s.power ∧
    (s.setObj k v).boot = s.boot ∧
    (s.setObj k v).poison = s.poison ∧
    (s.setObj k v).engs = s.engs := by
  refine ⟨rfl, rfl, rfl, rfl, rfl, rfl, rfl, rfl, rfl, rfl, rfl, rfl, rfl, rfl, rfl, rfl, rfl, rfl, rfl, rfl, rfl, rfl, rfl, rfl, rfl, rfl, rfl, rfl, rfl, rfl, rfl, rfl, rfl, rfl, rfl, rfl, rfl, rfl, rfl, rfl, rfl, rfl, rfl, rfl, rfl, rfl, rfl, rfl, rfl, rfl, rfl, rfl, rfl, rfl, rfl, rfl, rfl⟩

@[simp] theorem State.setObj_same (s : State) (k : Nat) (v : Obj) : (s.setObj k v).obj k = v :=
  Tab.get_put_same _ _ _ _

theorem State.setObj_other (s : State) (k j : Nat) (v : Obj) (h : j ≠ k) : (s.setObj k v).obj j = s.obj j :=
  Tab.get_put_other _ _ _ _ _ h

@[simp] theorem State.setFlt_frame (s : State) (k : Nat) (v : Option FltLoad) :
    (s.setFlt k v).pending = s.pending ∧
    (s.setFlt k v).free = s.free ∧
    (s.setFlt k v).readData = s.readData ∧
    (s.setFlt k v).now = s.now ∧
    (s.setFlt k v).regs = s.regs ∧
    (s.setFlt k v).mem = s.mem ∧
    (s.setFlt k v).hostMem0 = s.hostMem0 ∧
    (s.setFlt k v).hostMem1 = s.hostMem1 ∧
    (s.setFlt k v).tbs = s.tbs ∧
    (s.setFlt k v).tbCap = s.tbCap ∧
    (s.setFlt k v).timeUp = s.timeUp ∧
    (s.setFlt k v).timeDist = s.timeDist ∧
    (s.setFlt k v).bdq = s.bdq ∧
    (s.setFlt k v).lanes = s.lanes ∧
    (s.setFlt k v).pins = s.pins ∧
    (s.setFlt k v).buses = s.buses ∧
    (s.setFlt k v).txTurn = s.txTurn ∧
    (s.setFlt k v).nextEnt = s.nextEnt ∧
    (s.setFlt k v).nextDone = s.nextDone ∧
    (s.setFlt k v).fetched = s.fetched ∧
    (s.setFlt k v).seWait = s.seWait ∧
    (s.setFlt k v).objs = s.objs ∧
    (s.setFlt k v).caches = s.caches ∧
    (s.setFlt k v).rtLoad = s.rtLoad ∧
    (s.setFlt k v).polLoad = s.polLoad ∧
    (s.setFlt k v).routeGen = s.routeGen ∧
    (s.setFlt k v).kills = s.kills ∧
    (s.setFlt k v).killDue = s.killDue ∧
    (s.setFlt k v).voqs = s.voqs ∧
    (s.setFlt k v).ctqs = s.ctqs ∧
    (s.setFlt k v).ptrs = s.ptrs ∧
    (s.setFlt k v).cells = s.cells ∧
    (s.setFlt k v).frames = s.frames ∧
    (s.setFlt k v).nextFid = s.nextFid ∧
    (s.setFlt k v).nextValid = s.nextValid ∧
    (s.setFlt k v).charged = s.charged ∧
    (s.setFlt k v).avg = s.avg ∧
    (s.setFlt k v).lfsr = s.lfsr ∧
    (s.setFlt k v).buckets = s.buckets ∧
    (s.setFlt k v).cqHeld = s.cqHeld ∧
    (s.setFlt k v).lowCond = s.lowCond ∧
    (s.setFlt k v).chargeSeen = s.chargeSeen ∧
    (s.setFlt k v).sweepAt = s.sweepAt ∧
    (s.setFlt k v).sqs = s.sqs ∧
    (s.setFlt k v).cqs = s.cqs ∧
    (s.setFlt k v).funcs = s.funcs ∧
    (s.setFlt k v).held = s.held ∧
    (s.setFlt k v).srcs = s.srcs ∧
    (s.setFlt k v).tgts = s.tgts ∧
    (s.setFlt k v).mor = s.mor ∧
    (s.setFlt k v).stack = s.stack ∧
    (s.setFlt k v).eths = s.eths ∧
    (s.setFlt k v).snow = s.snow ∧
    (s.setFlt k v).power = s.power ∧
    (s.setFlt k v).boot = s.boot ∧
    (s.setFlt k v).poison = s.poison ∧
    (s.setFlt k v).engs = s.engs := by
  refine ⟨rfl, rfl, rfl, rfl, rfl, rfl, rfl, rfl, rfl, rfl, rfl, rfl, rfl, rfl, rfl, rfl, rfl, rfl, rfl, rfl, rfl, rfl, rfl, rfl, rfl, rfl, rfl, rfl, rfl, rfl, rfl, rfl, rfl, rfl, rfl, rfl, rfl, rfl, rfl, rfl, rfl, rfl, rfl, rfl, rfl, rfl, rfl, rfl, rfl, rfl, rfl, rfl, rfl, rfl, rfl, rfl, rfl⟩

@[simp] theorem State.setFlt_same (s : State) (k : Nat) (v : Option FltLoad) : (s.setFlt k v).flt k = v :=
  Tab.get_put_same _ _ _ _

theorem State.setFlt_other (s : State) (k j : Nat) (v : Option FltLoad) (h : j ≠ k) : (s.setFlt k v).flt j = s.flt j :=
  Tab.get_put_other _ _ _ _ _ h

@[simp] theorem State.setGen_frame (s : State) (k : Nat) (v : Nat) :
    (s.setGen k v).pending = s.pending ∧
    (s.setGen k v).free = s.free ∧
    (s.setGen k v).readData = s.readData ∧
    (s.setGen k v).now = s.now ∧
    (s.setGen k v).regs = s.regs ∧
    (s.setGen k v).mem = s.mem ∧
    (s.setGen k v).hostMem0 = s.hostMem0 ∧
    (s.setGen k v).hostMem1 = s.hostMem1 ∧
    (s.setGen k v).tbs = s.tbs ∧
    (s.setGen k v).tbCap = s.tbCap ∧
    (s.setGen k v).timeUp = s.timeUp ∧
    (s.setGen k v).timeDist = s.timeDist ∧
    (s.setGen k v).bdq = s.bdq ∧
    (s.setGen k v).lanes = s.lanes ∧
    (s.setGen k v).pins = s.pins ∧
    (s.setGen k v).buses = s.buses ∧
    (s.setGen k v).txTurn = s.txTurn ∧
    (s.setGen k v).nextEnt = s.nextEnt ∧
    (s.setGen k v).nextDone = s.nextDone ∧
    (s.setGen k v).fetched = s.fetched ∧
    (s.setGen k v).seWait = s.seWait ∧
    (s.setGen k v).objs = s.objs ∧
    (s.setGen k v).fltLoads = s.fltLoads ∧
    (s.setGen k v).caches = s.caches ∧
    (s.setGen k v).rtLoad = s.rtLoad ∧
    (s.setGen k v).polLoad = s.polLoad ∧
    (s.setGen k v).kills = s.kills ∧
    (s.setGen k v).killDue = s.killDue ∧
    (s.setGen k v).voqs = s.voqs ∧
    (s.setGen k v).ctqs = s.ctqs ∧
    (s.setGen k v).ptrs = s.ptrs ∧
    (s.setGen k v).cells = s.cells ∧
    (s.setGen k v).frames = s.frames ∧
    (s.setGen k v).nextFid = s.nextFid ∧
    (s.setGen k v).nextValid = s.nextValid ∧
    (s.setGen k v).charged = s.charged ∧
    (s.setGen k v).avg = s.avg ∧
    (s.setGen k v).lfsr = s.lfsr ∧
    (s.setGen k v).buckets = s.buckets ∧
    (s.setGen k v).cqHeld = s.cqHeld ∧
    (s.setGen k v).lowCond = s.lowCond ∧
    (s.setGen k v).chargeSeen = s.chargeSeen ∧
    (s.setGen k v).sweepAt = s.sweepAt ∧
    (s.setGen k v).sqs = s.sqs ∧
    (s.setGen k v).cqs = s.cqs ∧
    (s.setGen k v).funcs = s.funcs ∧
    (s.setGen k v).held = s.held ∧
    (s.setGen k v).srcs = s.srcs ∧
    (s.setGen k v).tgts = s.tgts ∧
    (s.setGen k v).mor = s.mor ∧
    (s.setGen k v).stack = s.stack ∧
    (s.setGen k v).eths = s.eths ∧
    (s.setGen k v).snow = s.snow ∧
    (s.setGen k v).power = s.power ∧
    (s.setGen k v).boot = s.boot ∧
    (s.setGen k v).poison = s.poison ∧
    (s.setGen k v).engs = s.engs := by
  refine ⟨rfl, rfl, rfl, rfl, rfl, rfl, rfl, rfl, rfl, rfl, rfl, rfl, rfl, rfl, rfl, rfl, rfl, rfl, rfl, rfl, rfl, rfl, rfl, rfl, rfl, rfl, rfl, rfl, rfl, rfl, rfl, rfl, rfl, rfl, rfl, rfl, rfl, rfl, rfl, rfl, rfl, rfl, rfl, rfl, rfl, rfl, rfl, rfl, rfl, rfl, rfl, rfl, rfl, rfl, rfl, rfl, rfl⟩

@[simp] theorem State.setGen_same (s : State) (k : Nat) (v : Nat) : (s.setGen k v).gen k = v :=
  Tab.get_put_same _ _ _ _

theorem State.setGen_other (s : State) (k j : Nat) (v : Nat) (h : j ≠ k) : (s.setGen k v).gen j = s.gen j :=
  Tab.get_put_other _ _ _ _ _ h

@[simp] theorem State.setKillsOf_frame (s : State) (k : Nat) (v : Nat) :
    (s.setKillsOf k v).pending = s.pending ∧
    (s.setKillsOf k v).free = s.free ∧
    (s.setKillsOf k v).readData = s.readData ∧
    (s.setKillsOf k v).now = s.now ∧
    (s.setKillsOf k v).regs = s.regs ∧
    (s.setKillsOf k v).mem = s.mem ∧
    (s.setKillsOf k v).hostMem0 = s.hostMem0 ∧
    (s.setKillsOf k v).hostMem1 = s.hostMem1 ∧
    (s.setKillsOf k v).tbs = s.tbs ∧
    (s.setKillsOf k v).tbCap = s.tbCap ∧
    (s.setKillsOf k v).timeUp = s.timeUp ∧
    (s.setKillsOf k v).timeDist = s.timeDist ∧
    (s.setKillsOf k v).bdq = s.bdq ∧
    (s.setKillsOf k v).lanes = s.lanes ∧
    (s.setKillsOf k v).pins = s.pins ∧
    (s.setKillsOf k v).buses = s.buses ∧
    (s.setKillsOf k v).txTurn = s.txTurn ∧
    (s.setKillsOf k v).nextEnt = s.nextEnt ∧
    (s.setKillsOf k v).nextDone = s.nextDone ∧
    (s.setKillsOf k v).fetched = s.fetched ∧
    (s.setKillsOf k v).seWait = s.seWait ∧
    (s.setKillsOf k v).objs = s.objs ∧
    (s.setKillsOf k v).fltLoads = s.fltLoads ∧
    (s.setKillsOf k v).caches = s.caches ∧
    (s.setKillsOf k v).rtLoad = s.rtLoad ∧
    (s.setKillsOf k v).polLoad = s.polLoad ∧
    (s.setKillsOf k v).routeGen = s.routeGen ∧
    (s.setKillsOf k v).killDue = s.killDue ∧
    (s.setKillsOf k v).voqs = s.voqs ∧
    (s.setKillsOf k v).ctqs = s.ctqs ∧
    (s.setKillsOf k v).ptrs = s.ptrs ∧
    (s.setKillsOf k v).cells = s.cells ∧
    (s.setKillsOf k v).frames = s.frames ∧
    (s.setKillsOf k v).nextFid = s.nextFid ∧
    (s.setKillsOf k v).nextValid = s.nextValid ∧
    (s.setKillsOf k v).charged = s.charged ∧
    (s.setKillsOf k v).avg = s.avg ∧
    (s.setKillsOf k v).lfsr = s.lfsr ∧
    (s.setKillsOf k v).buckets = s.buckets ∧
    (s.setKillsOf k v).cqHeld = s.cqHeld ∧
    (s.setKillsOf k v).lowCond = s.lowCond ∧
    (s.setKillsOf k v).chargeSeen = s.chargeSeen ∧
    (s.setKillsOf k v).sweepAt = s.sweepAt ∧
    (s.setKillsOf k v).sqs = s.sqs ∧
    (s.setKillsOf k v).cqs = s.cqs ∧
    (s.setKillsOf k v).funcs = s.funcs ∧
    (s.setKillsOf k v).held = s.held ∧
    (s.setKillsOf k v).srcs = s.srcs ∧
    (s.setKillsOf k v).tgts = s.tgts ∧
    (s.setKillsOf k v).mor = s.mor ∧
    (s.setKillsOf k v).stack = s.stack ∧
    (s.setKillsOf k v).eths = s.eths ∧
    (s.setKillsOf k v).snow = s.snow ∧
    (s.setKillsOf k v).power = s.power ∧
    (s.setKillsOf k v).boot = s.boot ∧
    (s.setKillsOf k v).poison = s.poison ∧
    (s.setKillsOf k v).engs = s.engs := by
  refine ⟨rfl, rfl, rfl, rfl, rfl, rfl, rfl, rfl, rfl, rfl, rfl, rfl, rfl, rfl, rfl, rfl, rfl, rfl, rfl, rfl, rfl, rfl, rfl, rfl, rfl, rfl, rfl, rfl, rfl, rfl, rfl, rfl, rfl, rfl, rfl, rfl, rfl, rfl, rfl, rfl, rfl, rfl, rfl, rfl, rfl, rfl, rfl, rfl, rfl, rfl, rfl, rfl, rfl, rfl, rfl, rfl, rfl⟩

@[simp] theorem State.setKillsOf_same (s : State) (k : Nat) (v : Nat) : (s.setKillsOf k v).killsOf k = v :=
  Tab.get_put_same _ _ _ _

theorem State.setKillsOf_other (s : State) (k j : Nat) (v : Nat) (h : j ≠ k) : (s.setKillsOf k v).killsOf j = s.killsOf j :=
  Tab.get_put_other _ _ _ _ _ h

@[simp] theorem State.setVoq_frame (s : State) (k : Nat) (v : List VoqItem) :
    (s.setVoq k v).pending = s.pending ∧
    (s.setVoq k v).free = s.free ∧
    (s.setVoq k v).readData = s.readData ∧
    (s.setVoq k v).now = s.now ∧
    (s.setVoq k v).regs = s.regs ∧
    (s.setVoq k v).mem = s.mem ∧
    (s.setVoq k v).hostMem0 = s.hostMem0 ∧
    (s.setVoq k v).hostMem1 = s.hostMem1 ∧
    (s.setVoq k v).tbs = s.tbs ∧
    (s.setVoq k v).tbCap = s.tbCap ∧
    (s.setVoq k v).timeUp = s.timeUp ∧
    (s.setVoq k v).timeDist = s.timeDist ∧
    (s.setVoq k v).bdq = s.bdq ∧
    (s.setVoq k v).lanes = s.lanes ∧
    (s.setVoq k v).pins = s.pins ∧
    (s.setVoq k v).buses = s.buses ∧
    (s.setVoq k v).txTurn = s.txTurn ∧
    (s.setVoq k v).nextEnt = s.nextEnt ∧
    (s.setVoq k v).nextDone = s.nextDone ∧
    (s.setVoq k v).fetched = s.fetched ∧
    (s.setVoq k v).seWait = s.seWait ∧
    (s.setVoq k v).objs = s.objs ∧
    (s.setVoq k v).fltLoads = s.fltLoads ∧
    (s.setVoq k v).caches = s.caches ∧
    (s.setVoq k v).rtLoad = s.rtLoad ∧
    (s.setVoq k v).polLoad = s.polLoad ∧
    (s.setVoq k v).routeGen = s.routeGen ∧
    (s.setVoq k v).kills = s.kills ∧
    (s.setVoq k v).killDue = s.killDue ∧
    (s.setVoq k v).ctqs = s.ctqs ∧
    (s.setVoq k v).ptrs = s.ptrs ∧
    (s.setVoq k v).cells = s.cells ∧
    (s.setVoq k v).frames = s.frames ∧
    (s.setVoq k v).nextFid = s.nextFid ∧
    (s.setVoq k v).nextValid = s.nextValid ∧
    (s.setVoq k v).charged = s.charged ∧
    (s.setVoq k v).avg = s.avg ∧
    (s.setVoq k v).lfsr = s.lfsr ∧
    (s.setVoq k v).buckets = s.buckets ∧
    (s.setVoq k v).cqHeld = s.cqHeld ∧
    (s.setVoq k v).lowCond = s.lowCond ∧
    (s.setVoq k v).chargeSeen = s.chargeSeen ∧
    (s.setVoq k v).sweepAt = s.sweepAt ∧
    (s.setVoq k v).sqs = s.sqs ∧
    (s.setVoq k v).cqs = s.cqs ∧
    (s.setVoq k v).funcs = s.funcs ∧
    (s.setVoq k v).held = s.held ∧
    (s.setVoq k v).srcs = s.srcs ∧
    (s.setVoq k v).tgts = s.tgts ∧
    (s.setVoq k v).mor = s.mor ∧
    (s.setVoq k v).stack = s.stack ∧
    (s.setVoq k v).eths = s.eths ∧
    (s.setVoq k v).snow = s.snow ∧
    (s.setVoq k v).power = s.power ∧
    (s.setVoq k v).boot = s.boot ∧
    (s.setVoq k v).poison = s.poison ∧
    (s.setVoq k v).engs = s.engs := by
  refine ⟨rfl, rfl, rfl, rfl, rfl, rfl, rfl, rfl, rfl, rfl, rfl, rfl, rfl, rfl, rfl, rfl, rfl, rfl, rfl, rfl, rfl, rfl, rfl, rfl, rfl, rfl, rfl, rfl, rfl, rfl, rfl, rfl, rfl, rfl, rfl, rfl, rfl, rfl, rfl, rfl, rfl, rfl, rfl, rfl, rfl, rfl, rfl, rfl, rfl, rfl, rfl, rfl, rfl, rfl, rfl, rfl, rfl⟩

@[simp] theorem State.setVoq_same (s : State) (k : Nat) (v : List VoqItem) : (s.setVoq k v).voq k = v :=
  Tab.get_put_same _ _ _ _

theorem State.setVoq_other (s : State) (k j : Nat) (v : List VoqItem) (h : j ≠ k) : (s.setVoq k v).voq j = s.voq j :=
  Tab.get_put_other _ _ _ _ _ h

@[simp] theorem State.setCtq_frame (s : State) (k : Nat) (v : List (Nat × Nat)) :
    (s.setCtq k v).pending = s.pending ∧
    (s.setCtq k v).free = s.free ∧
    (s.setCtq k v).readData = s.readData ∧
    (s.setCtq k v).now = s.now ∧
    (s.setCtq k v).regs = s.regs ∧
    (s.setCtq k v).mem = s.mem ∧
    (s.setCtq k v).hostMem0 = s.hostMem0 ∧
    (s.setCtq k v).hostMem1 = s.hostMem1 ∧
    (s.setCtq k v).tbs = s.tbs ∧
    (s.setCtq k v).tbCap = s.tbCap ∧
    (s.setCtq k v).timeUp = s.timeUp ∧
    (s.setCtq k v).timeDist = s.timeDist ∧
    (s.setCtq k v).bdq = s.bdq ∧
    (s.setCtq k v).lanes = s.lanes ∧
    (s.setCtq k v).pins = s.pins ∧
    (s.setCtq k v).buses = s.buses ∧
    (s.setCtq k v).txTurn = s.txTurn ∧
    (s.setCtq k v).nextEnt = s.nextEnt ∧
    (s.setCtq k v).nextDone = s.nextDone ∧
    (s.setCtq k v).fetched = s.fetched ∧
    (s.setCtq k v).seWait = s.seWait ∧
    (s.setCtq k v).objs = s.objs ∧
    (s.setCtq k v).fltLoads = s.fltLoads ∧
    (s.setCtq k v).caches = s.caches ∧
    (s.setCtq k v).rtLoad = s.rtLoad ∧
    (s.setCtq k v).polLoad = s.polLoad ∧
    (s.setCtq k v).routeGen = s.routeGen ∧
    (s.setCtq k v).kills = s.kills ∧
    (s.setCtq k v).killDue = s.killDue ∧
    (s.setCtq k v).voqs = s.voqs ∧
    (s.setCtq k v).ptrs = s.ptrs ∧
    (s.setCtq k v).cells = s.cells ∧
    (s.setCtq k v).frames = s.frames ∧
    (s.setCtq k v).nextFid = s.nextFid ∧
    (s.setCtq k v).nextValid = s.nextValid ∧
    (s.setCtq k v).charged = s.charged ∧
    (s.setCtq k v).avg = s.avg ∧
    (s.setCtq k v).lfsr = s.lfsr ∧
    (s.setCtq k v).buckets = s.buckets ∧
    (s.setCtq k v).cqHeld = s.cqHeld ∧
    (s.setCtq k v).lowCond = s.lowCond ∧
    (s.setCtq k v).chargeSeen = s.chargeSeen ∧
    (s.setCtq k v).sweepAt = s.sweepAt ∧
    (s.setCtq k v).sqs = s.sqs ∧
    (s.setCtq k v).cqs = s.cqs ∧
    (s.setCtq k v).funcs = s.funcs ∧
    (s.setCtq k v).held = s.held ∧
    (s.setCtq k v).srcs = s.srcs ∧
    (s.setCtq k v).tgts = s.tgts ∧
    (s.setCtq k v).mor = s.mor ∧
    (s.setCtq k v).stack = s.stack ∧
    (s.setCtq k v).eths = s.eths ∧
    (s.setCtq k v).snow = s.snow ∧
    (s.setCtq k v).power = s.power ∧
    (s.setCtq k v).boot = s.boot ∧
    (s.setCtq k v).poison = s.poison ∧
    (s.setCtq k v).engs = s.engs := by
  refine ⟨rfl, rfl, rfl, rfl, rfl, rfl, rfl, rfl, rfl, rfl, rfl, rfl, rfl, rfl, rfl, rfl, rfl, rfl, rfl, rfl, rfl, rfl, rfl, rfl, rfl, rfl, rfl, rfl, rfl, rfl, rfl, rfl, rfl, rfl, rfl, rfl, rfl, rfl, rfl, rfl, rfl, rfl, rfl, rfl, rfl, rfl, rfl, rfl, rfl, rfl, rfl, rfl, rfl, rfl, rfl, rfl, rfl⟩

@[simp] theorem State.setCtq_same (s : State) (k : Nat) (v : List (Nat × Nat)) : (s.setCtq k v).ctq k = v :=
  Tab.get_put_same _ _ _ _

theorem State.setCtq_other (s : State) (k j : Nat) (v : List (Nat × Nat)) (h : j ≠ k) : (s.setCtq k v).ctq j = s.ctq j :=
  Tab.get_put_other _ _ _ _ _ h

@[simp] theorem State.setPtr_frame (s : State) (k : Nat) (v : ColPtr) :
    (s.setPtr k v).pending = s.pending ∧
    (s.setPtr k v).free = s.free ∧
    (s.setPtr k v).readData = s.readData ∧
    (s.setPtr k v).now = s.now ∧
    (s.setPtr k v).regs = s.regs ∧
    (s.setPtr k v).mem = s.mem ∧
    (s.setPtr k v).hostMem0 = s.hostMem0 ∧
    (s.setPtr k v).hostMem1 = s.hostMem1 ∧
    (s.setPtr k v).tbs = s.tbs ∧
    (s.setPtr k v).tbCap = s.tbCap ∧
    (s.setPtr k v).timeUp = s.timeUp ∧
    (s.setPtr k v).timeDist = s.timeDist ∧
    (s.setPtr k v).bdq = s.bdq ∧
    (s.setPtr k v).lanes = s.lanes ∧
    (s.setPtr k v).pins = s.pins ∧
    (s.setPtr k v).buses = s.buses ∧
    (s.setPtr k v).txTurn = s.txTurn ∧
    (s.setPtr k v).nextEnt = s.nextEnt ∧
    (s.setPtr k v).nextDone = s.nextDone ∧
    (s.setPtr k v).fetched = s.fetched ∧
    (s.setPtr k v).seWait = s.seWait ∧
    (s.setPtr k v).objs = s.objs ∧
    (s.setPtr k v).fltLoads = s.fltLoads ∧
    (s.setPtr k v).caches = s.caches ∧
    (s.setPtr k v).rtLoad = s.rtLoad ∧
    (s.setPtr k v).polLoad = s.polLoad ∧
    (s.setPtr k v).routeGen = s.routeGen ∧
    (s.setPtr k v).kills = s.kills ∧
    (s.setPtr k v).killDue = s.killDue ∧
    (s.setPtr k v).voqs = s.voqs ∧
    (s.setPtr k v).ctqs = s.ctqs ∧
    (s.setPtr k v).cells = s.cells ∧
    (s.setPtr k v).frames = s.frames ∧
    (s.setPtr k v).nextFid = s.nextFid ∧
    (s.setPtr k v).nextValid = s.nextValid ∧
    (s.setPtr k v).charged = s.charged ∧
    (s.setPtr k v).avg = s.avg ∧
    (s.setPtr k v).lfsr = s.lfsr ∧
    (s.setPtr k v).buckets = s.buckets ∧
    (s.setPtr k v).cqHeld = s.cqHeld ∧
    (s.setPtr k v).lowCond = s.lowCond ∧
    (s.setPtr k v).chargeSeen = s.chargeSeen ∧
    (s.setPtr k v).sweepAt = s.sweepAt ∧
    (s.setPtr k v).sqs = s.sqs ∧
    (s.setPtr k v).cqs = s.cqs ∧
    (s.setPtr k v).funcs = s.funcs ∧
    (s.setPtr k v).held = s.held ∧
    (s.setPtr k v).srcs = s.srcs ∧
    (s.setPtr k v).tgts = s.tgts ∧
    (s.setPtr k v).mor = s.mor ∧
    (s.setPtr k v).stack = s.stack ∧
    (s.setPtr k v).eths = s.eths ∧
    (s.setPtr k v).snow = s.snow ∧
    (s.setPtr k v).power = s.power ∧
    (s.setPtr k v).boot = s.boot ∧
    (s.setPtr k v).poison = s.poison ∧
    (s.setPtr k v).engs = s.engs := by
  refine ⟨rfl, rfl, rfl, rfl, rfl, rfl, rfl, rfl, rfl, rfl, rfl, rfl, rfl, rfl, rfl, rfl, rfl, rfl, rfl, rfl, rfl, rfl, rfl, rfl, rfl, rfl, rfl, rfl, rfl, rfl, rfl, rfl, rfl, rfl, rfl, rfl, rfl, rfl, rfl, rfl, rfl, rfl, rfl, rfl, rfl, rfl, rfl, rfl, rfl, rfl, rfl, rfl, rfl, rfl, rfl, rfl, rfl⟩

@[simp] theorem State.setPtr_same (s : State) (k : Nat) (v : ColPtr) : (s.setPtr k v).ptr k = v :=
  Tab.get_put_same _ _ _ _

theorem State.setPtr_other (s : State) (k j : Nat) (v : ColPtr) (h : j ≠ k) : (s.setPtr k v).ptr j = s.ptr j :=
  Tab.get_put_other _ _ _ _ _ h

@[simp] theorem State.setCell_frame (s : State) (k : Nat) (v : Cell) :
    (s.setCell k v).pending = s.pending ∧
    (s.setCell k v).free = s.free ∧
    (s.setCell k v).readData = s.readData ∧
    (s.setCell k v).now = s.now ∧
    (s.setCell k v).regs = s.regs ∧
    (s.setCell k v).mem = s.mem ∧
    (s.setCell k v).hostMem0 = s.hostMem0 ∧
    (s.setCell k v).hostMem1 = s.hostMem1 ∧
    (s.setCell k v).tbs = s.tbs ∧
    (s.setCell k v).tbCap = s.tbCap ∧
    (s.setCell k v).timeUp = s.timeUp ∧
    (s.setCell k v).timeDist = s.timeDist ∧
    (s.setCell k v).bdq = s.bdq ∧
    (s.setCell k v).lanes = s.lanes ∧
    (s.setCell k v).pins = s.pins ∧
    (s.setCell k v).buses = s.buses ∧
    (s.setCell k v).txTurn = s.txTurn ∧
    (s.setCell k v).nextEnt = s.nextEnt ∧
    (s.setCell k v).nextDone = s.nextDone ∧
    (s.setCell k v).fetched = s.fetched ∧
    (s.setCell k v).seWait = s.seWait ∧
    (s.setCell k v).objs = s.objs ∧
    (s.setCell k v).fltLoads = s.fltLoads ∧
    (s.setCell k v).caches = s.caches ∧
    (s.setCell k v).rtLoad = s.rtLoad ∧
    (s.setCell k v).polLoad = s.polLoad ∧
    (s.setCell k v).routeGen = s.routeGen ∧
    (s.setCell k v).kills = s.kills ∧
    (s.setCell k v).killDue = s.killDue ∧
    (s.setCell k v).voqs = s.voqs ∧
    (s.setCell k v).ctqs = s.ctqs ∧
    (s.setCell k v).ptrs = s.ptrs ∧
    (s.setCell k v).frames = s.frames ∧
    (s.setCell k v).nextFid = s.nextFid ∧
    (s.setCell k v).nextValid = s.nextValid ∧
    (s.setCell k v).charged = s.charged ∧
    (s.setCell k v).avg = s.avg ∧
    (s.setCell k v).lfsr = s.lfsr ∧
    (s.setCell k v).buckets = s.buckets ∧
    (s.setCell k v).cqHeld = s.cqHeld ∧
    (s.setCell k v).lowCond = s.lowCond ∧
    (s.setCell k v).chargeSeen = s.chargeSeen ∧
    (s.setCell k v).sweepAt = s.sweepAt ∧
    (s.setCell k v).sqs = s.sqs ∧
    (s.setCell k v).cqs = s.cqs ∧
    (s.setCell k v).funcs = s.funcs ∧
    (s.setCell k v).held = s.held ∧
    (s.setCell k v).srcs = s.srcs ∧
    (s.setCell k v).tgts = s.tgts ∧
    (s.setCell k v).mor = s.mor ∧
    (s.setCell k v).stack = s.stack ∧
    (s.setCell k v).eths = s.eths ∧
    (s.setCell k v).snow = s.snow ∧
    (s.setCell k v).power = s.power ∧
    (s.setCell k v).boot = s.boot ∧
    (s.setCell k v).poison = s.poison ∧
    (s.setCell k v).engs = s.engs := by
  refine ⟨rfl, rfl, rfl, rfl, rfl, rfl, rfl, rfl, rfl, rfl, rfl, rfl, rfl, rfl, rfl, rfl, rfl, rfl, rfl, rfl, rfl, rfl, rfl, rfl, rfl, rfl, rfl, rfl, rfl, rfl, rfl, rfl, rfl, rfl, rfl, rfl, rfl, rfl, rfl, rfl, rfl, rfl, rfl, rfl, rfl, rfl, rfl, rfl, rfl, rfl, rfl, rfl, rfl, rfl, rfl, rfl, rfl⟩

@[simp] theorem State.setCell_same (s : State) (k : Nat) (v : Cell) : (s.setCell k v).cell k = v :=
  Tab.get_put_same _ _ _ _

theorem State.setCell_other (s : State) (k j : Nat) (v : Cell) (h : j ≠ k) : (s.setCell k v).cell j = s.cell j :=
  Tab.get_put_other _ _ _ _ _ h

@[simp] theorem State.setFrame_frame (s : State) (k : Nat) (v : FirnFrame) :
    (s.setFrame k v).pending = s.pending ∧
    (s.setFrame k v).free = s.free ∧
    (s.setFrame k v).readData = s.readData ∧
    (s.setFrame k v).now = s.now ∧
    (s.setFrame k v).regs = s.regs ∧
    (s.setFrame k v).mem = s.mem ∧
    (s.setFrame k v).hostMem0 = s.hostMem0 ∧
    (s.setFrame k v).hostMem1 = s.hostMem1 ∧
    (s.setFrame k v).tbs = s.tbs ∧
    (s.setFrame k v).tbCap = s.tbCap ∧
    (s.setFrame k v).timeUp = s.timeUp ∧
    (s.setFrame k v).timeDist = s.timeDist ∧
    (s.setFrame k v).bdq = s.bdq ∧
    (s.setFrame k v).lanes = s.lanes ∧
    (s.setFrame k v).pins = s.pins ∧
    (s.setFrame k v).buses = s.buses ∧
    (s.setFrame k v).txTurn = s.txTurn ∧
    (s.setFrame k v).nextEnt = s.nextEnt ∧
    (s.setFrame k v).nextDone = s.nextDone ∧
    (s.setFrame k v).fetched = s.fetched ∧
    (s.setFrame k v).seWait = s.seWait ∧
    (s.setFrame k v).objs = s.objs ∧
    (s.setFrame k v).fltLoads = s.fltLoads ∧
    (s.setFrame k v).caches = s.caches ∧
    (s.setFrame k v).rtLoad = s.rtLoad ∧
    (s.setFrame k v).polLoad = s.polLoad ∧
    (s.setFrame k v).routeGen = s.routeGen ∧
    (s.setFrame k v).kills = s.kills ∧
    (s.setFrame k v).killDue = s.killDue ∧
    (s.setFrame k v).voqs = s.voqs ∧
    (s.setFrame k v).ctqs = s.ctqs ∧
    (s.setFrame k v).ptrs = s.ptrs ∧
    (s.setFrame k v).cells = s.cells ∧
    (s.setFrame k v).nextFid = s.nextFid ∧
    (s.setFrame k v).nextValid = s.nextValid ∧
    (s.setFrame k v).charged = s.charged ∧
    (s.setFrame k v).avg = s.avg ∧
    (s.setFrame k v).lfsr = s.lfsr ∧
    (s.setFrame k v).buckets = s.buckets ∧
    (s.setFrame k v).cqHeld = s.cqHeld ∧
    (s.setFrame k v).lowCond = s.lowCond ∧
    (s.setFrame k v).chargeSeen = s.chargeSeen ∧
    (s.setFrame k v).sweepAt = s.sweepAt ∧
    (s.setFrame k v).sqs = s.sqs ∧
    (s.setFrame k v).cqs = s.cqs ∧
    (s.setFrame k v).funcs = s.funcs ∧
    (s.setFrame k v).held = s.held ∧
    (s.setFrame k v).srcs = s.srcs ∧
    (s.setFrame k v).tgts = s.tgts ∧
    (s.setFrame k v).mor = s.mor ∧
    (s.setFrame k v).stack = s.stack ∧
    (s.setFrame k v).eths = s.eths ∧
    (s.setFrame k v).snow = s.snow ∧
    (s.setFrame k v).power = s.power ∧
    (s.setFrame k v).boot = s.boot ∧
    (s.setFrame k v).poison = s.poison ∧
    (s.setFrame k v).engs = s.engs := by
  refine ⟨rfl, rfl, rfl, rfl, rfl, rfl, rfl, rfl, rfl, rfl, rfl, rfl, rfl, rfl, rfl, rfl, rfl, rfl, rfl, rfl, rfl, rfl, rfl, rfl, rfl, rfl, rfl, rfl, rfl, rfl, rfl, rfl, rfl, rfl, rfl, rfl, rfl, rfl, rfl, rfl, rfl, rfl, rfl, rfl, rfl, rfl, rfl, rfl, rfl, rfl, rfl, rfl, rfl, rfl, rfl, rfl, rfl⟩

@[simp] theorem State.setFrame_same (s : State) (k : Nat) (v : FirnFrame) : (s.setFrame k v).frame k = v :=
  Tab.get_put_same _ _ _ _

theorem State.setFrame_other (s : State) (k j : Nat) (v : FirnFrame) (h : j ≠ k) : (s.setFrame k v).frame j = s.frame j :=
  Tab.get_put_other _ _ _ _ _ h

@[simp] theorem State.setChg_frame (s : State) (k : Nat) (v : Nat) :
    (s.setChg k v).pending = s.pending ∧
    (s.setChg k v).free = s.free ∧
    (s.setChg k v).readData = s.readData ∧
    (s.setChg k v).now = s.now ∧
    (s.setChg k v).regs = s.regs ∧
    (s.setChg k v).mem = s.mem ∧
    (s.setChg k v).hostMem0 = s.hostMem0 ∧
    (s.setChg k v).hostMem1 = s.hostMem1 ∧
    (s.setChg k v).tbs = s.tbs ∧
    (s.setChg k v).tbCap = s.tbCap ∧
    (s.setChg k v).timeUp = s.timeUp ∧
    (s.setChg k v).timeDist = s.timeDist ∧
    (s.setChg k v).bdq = s.bdq ∧
    (s.setChg k v).lanes = s.lanes ∧
    (s.setChg k v).pins = s.pins ∧
    (s.setChg k v).buses = s.buses ∧
    (s.setChg k v).txTurn = s.txTurn ∧
    (s.setChg k v).nextEnt = s.nextEnt ∧
    (s.setChg k v).nextDone = s.nextDone ∧
    (s.setChg k v).fetched = s.fetched ∧
    (s.setChg k v).seWait = s.seWait ∧
    (s.setChg k v).objs = s.objs ∧
    (s.setChg k v).fltLoads = s.fltLoads ∧
    (s.setChg k v).caches = s.caches ∧
    (s.setChg k v).rtLoad = s.rtLoad ∧
    (s.setChg k v).polLoad = s.polLoad ∧
    (s.setChg k v).routeGen = s.routeGen ∧
    (s.setChg k v).kills = s.kills ∧
    (s.setChg k v).killDue = s.killDue ∧
    (s.setChg k v).voqs = s.voqs ∧
    (s.setChg k v).ctqs = s.ctqs ∧
    (s.setChg k v).ptrs = s.ptrs ∧
    (s.setChg k v).cells = s.cells ∧
    (s.setChg k v).frames = s.frames ∧
    (s.setChg k v).nextFid = s.nextFid ∧
    (s.setChg k v).nextValid = s.nextValid ∧
    (s.setChg k v).avg = s.avg ∧
    (s.setChg k v).lfsr = s.lfsr ∧
    (s.setChg k v).buckets = s.buckets ∧
    (s.setChg k v).cqHeld = s.cqHeld ∧
    (s.setChg k v).lowCond = s.lowCond ∧
    (s.setChg k v).chargeSeen = s.chargeSeen ∧
    (s.setChg k v).sweepAt = s.sweepAt ∧
    (s.setChg k v).sqs = s.sqs ∧
    (s.setChg k v).cqs = s.cqs ∧
    (s.setChg k v).funcs = s.funcs ∧
    (s.setChg k v).held = s.held ∧
    (s.setChg k v).srcs = s.srcs ∧
    (s.setChg k v).tgts = s.tgts ∧
    (s.setChg k v).mor = s.mor ∧
    (s.setChg k v).stack = s.stack ∧
    (s.setChg k v).eths = s.eths ∧
    (s.setChg k v).snow = s.snow ∧
    (s.setChg k v).power = s.power ∧
    (s.setChg k v).boot = s.boot ∧
    (s.setChg k v).poison = s.poison ∧
    (s.setChg k v).engs = s.engs := by
  refine ⟨rfl, rfl, rfl, rfl, rfl, rfl, rfl, rfl, rfl, rfl, rfl, rfl, rfl, rfl, rfl, rfl, rfl, rfl, rfl, rfl, rfl, rfl, rfl, rfl, rfl, rfl, rfl, rfl, rfl, rfl, rfl, rfl, rfl, rfl, rfl, rfl, rfl, rfl, rfl, rfl, rfl, rfl, rfl, rfl, rfl, rfl, rfl, rfl, rfl, rfl, rfl, rfl, rfl, rfl, rfl, rfl, rfl⟩

@[simp] theorem State.setChg_same (s : State) (k : Nat) (v : Nat) : (s.setChg k v).chg k = v :=
  Tab.get_put_same _ _ _ _

theorem State.setChg_other (s : State) (k j : Nat) (v : Nat) (h : j ≠ k) : (s.setChg k v).chg j = s.chg j :=
  Tab.get_put_other _ _ _ _ _ h

@[simp] theorem State.setAvgOf_frame (s : State) (k : Nat) (v : Nat) :
    (s.setAvgOf k v).pending = s.pending ∧
    (s.setAvgOf k v).free = s.free ∧
    (s.setAvgOf k v).readData = s.readData ∧
    (s.setAvgOf k v).now = s.now ∧
    (s.setAvgOf k v).regs = s.regs ∧
    (s.setAvgOf k v).mem = s.mem ∧
    (s.setAvgOf k v).hostMem0 = s.hostMem0 ∧
    (s.setAvgOf k v).hostMem1 = s.hostMem1 ∧
    (s.setAvgOf k v).tbs = s.tbs ∧
    (s.setAvgOf k v).tbCap = s.tbCap ∧
    (s.setAvgOf k v).timeUp = s.timeUp ∧
    (s.setAvgOf k v).timeDist = s.timeDist ∧
    (s.setAvgOf k v).bdq = s.bdq ∧
    (s.setAvgOf k v).lanes = s.lanes ∧
    (s.setAvgOf k v).pins = s.pins ∧
    (s.setAvgOf k v).buses = s.buses ∧
    (s.setAvgOf k v).txTurn = s.txTurn ∧
    (s.setAvgOf k v).nextEnt = s.nextEnt ∧
    (s.setAvgOf k v).nextDone = s.nextDone ∧
    (s.setAvgOf k v).fetched = s.fetched ∧
    (s.setAvgOf k v).seWait = s.seWait ∧
    (s.setAvgOf k v).objs = s.objs ∧
    (s.setAvgOf k v).fltLoads = s.fltLoads ∧
    (s.setAvgOf k v).caches = s.caches ∧
    (s.setAvgOf k v).rtLoad = s.rtLoad ∧
    (s.setAvgOf k v).polLoad = s.polLoad ∧
    (s.setAvgOf k v).routeGen = s.routeGen ∧
    (s.setAvgOf k v).kills = s.kills ∧
    (s.setAvgOf k v).killDue = s.killDue ∧
    (s.setAvgOf k v).voqs = s.voqs ∧
    (s.setAvgOf k v).ctqs = s.ctqs ∧
    (s.setAvgOf k v).ptrs = s.ptrs ∧
    (s.setAvgOf k v).cells = s.cells ∧
    (s.setAvgOf k v).frames = s.frames ∧
    (s.setAvgOf k v).nextFid = s.nextFid ∧
    (s.setAvgOf k v).nextValid = s.nextValid ∧
    (s.setAvgOf k v).charged = s.charged ∧
    (s.setAvgOf k v).lfsr = s.lfsr ∧
    (s.setAvgOf k v).buckets = s.buckets ∧
    (s.setAvgOf k v).cqHeld = s.cqHeld ∧
    (s.setAvgOf k v).lowCond = s.lowCond ∧
    (s.setAvgOf k v).chargeSeen = s.chargeSeen ∧
    (s.setAvgOf k v).sweepAt = s.sweepAt ∧
    (s.setAvgOf k v).sqs = s.sqs ∧
    (s.setAvgOf k v).cqs = s.cqs ∧
    (s.setAvgOf k v).funcs = s.funcs ∧
    (s.setAvgOf k v).held = s.held ∧
    (s.setAvgOf k v).srcs = s.srcs ∧
    (s.setAvgOf k v).tgts = s.tgts ∧
    (s.setAvgOf k v).mor = s.mor ∧
    (s.setAvgOf k v).stack = s.stack ∧
    (s.setAvgOf k v).eths = s.eths ∧
    (s.setAvgOf k v).snow = s.snow ∧
    (s.setAvgOf k v).power = s.power ∧
    (s.setAvgOf k v).boot = s.boot ∧
    (s.setAvgOf k v).poison = s.poison ∧
    (s.setAvgOf k v).engs = s.engs := by
  refine ⟨rfl, rfl, rfl, rfl, rfl, rfl, rfl, rfl, rfl, rfl, rfl, rfl, rfl, rfl, rfl, rfl, rfl, rfl, rfl, rfl, rfl, rfl, rfl, rfl, rfl, rfl, rfl, rfl, rfl, rfl, rfl, rfl, rfl, rfl, rfl, rfl, rfl, rfl, rfl, rfl, rfl, rfl, rfl, rfl, rfl, rfl, rfl, rfl, rfl, rfl, rfl, rfl, rfl, rfl, rfl, rfl, rfl⟩

@[simp] theorem State.setAvgOf_same (s : State) (k : Nat) (v : Nat) : (s.setAvgOf k v).avgOf k = v :=
  Tab.get_put_same _ _ _ _

theorem State.setAvgOf_other (s : State) (k j : Nat) (v : Nat) (h : j ≠ k) : (s.setAvgOf k v).avgOf j = s.avgOf j :=
  Tab.get_put_other _ _ _ _ _ h

@[simp] theorem State.setLfsrOf_frame (s : State) (k : Nat) (v : BitVec 16) :
    (s.setLfsrOf k v).pending = s.pending ∧
    (s.setLfsrOf k v).free = s.free ∧
    (s.setLfsrOf k v).readData = s.readData ∧
    (s.setLfsrOf k v).now = s.now ∧
    (s.setLfsrOf k v).regs = s.regs ∧
    (s.setLfsrOf k v).mem = s.mem ∧
    (s.setLfsrOf k v).hostMem0 = s.hostMem0 ∧
    (s.setLfsrOf k v).hostMem1 = s.hostMem1 ∧
    (s.setLfsrOf k v).tbs = s.tbs ∧
    (s.setLfsrOf k v).tbCap = s.tbCap ∧
    (s.setLfsrOf k v).timeUp = s.timeUp ∧
    (s.setLfsrOf k v).timeDist = s.timeDist ∧
    (s.setLfsrOf k v).bdq = s.bdq ∧
    (s.setLfsrOf k v).lanes = s.lanes ∧
    (s.setLfsrOf k v).pins = s.pins ∧
    (s.setLfsrOf k v).buses = s.buses ∧
    (s.setLfsrOf k v).txTurn = s.txTurn ∧
    (s.setLfsrOf k v).nextEnt = s.nextEnt ∧
    (s.setLfsrOf k v).nextDone = s.nextDone ∧
    (s.setLfsrOf k v).fetched = s.fetched ∧
    (s.setLfsrOf k v).seWait = s.seWait ∧
    (s.setLfsrOf k v).objs = s.objs ∧
    (s.setLfsrOf k v).fltLoads = s.fltLoads ∧
    (s.setLfsrOf k v).caches = s.caches ∧
    (s.setLfsrOf k v).rtLoad = s.rtLoad ∧
    (s.setLfsrOf k v).polLoad = s.polLoad ∧
    (s.setLfsrOf k v).routeGen = s.routeGen ∧
    (s.setLfsrOf k v).kills = s.kills ∧
    (s.setLfsrOf k v).killDue = s.killDue ∧
    (s.setLfsrOf k v).voqs = s.voqs ∧
    (s.setLfsrOf k v).ctqs = s.ctqs ∧
    (s.setLfsrOf k v).ptrs = s.ptrs ∧
    (s.setLfsrOf k v).cells = s.cells ∧
    (s.setLfsrOf k v).frames = s.frames ∧
    (s.setLfsrOf k v).nextFid = s.nextFid ∧
    (s.setLfsrOf k v).nextValid = s.nextValid ∧
    (s.setLfsrOf k v).charged = s.charged ∧
    (s.setLfsrOf k v).avg = s.avg ∧
    (s.setLfsrOf k v).buckets = s.buckets ∧
    (s.setLfsrOf k v).cqHeld = s.cqHeld ∧
    (s.setLfsrOf k v).lowCond = s.lowCond ∧
    (s.setLfsrOf k v).chargeSeen = s.chargeSeen ∧
    (s.setLfsrOf k v).sweepAt = s.sweepAt ∧
    (s.setLfsrOf k v).sqs = s.sqs ∧
    (s.setLfsrOf k v).cqs = s.cqs ∧
    (s.setLfsrOf k v).funcs = s.funcs ∧
    (s.setLfsrOf k v).held = s.held ∧
    (s.setLfsrOf k v).srcs = s.srcs ∧
    (s.setLfsrOf k v).tgts = s.tgts ∧
    (s.setLfsrOf k v).mor = s.mor ∧
    (s.setLfsrOf k v).stack = s.stack ∧
    (s.setLfsrOf k v).eths = s.eths ∧
    (s.setLfsrOf k v).snow = s.snow ∧
    (s.setLfsrOf k v).power = s.power ∧
    (s.setLfsrOf k v).boot = s.boot ∧
    (s.setLfsrOf k v).poison = s.poison ∧
    (s.setLfsrOf k v).engs = s.engs := by
  refine ⟨rfl, rfl, rfl, rfl, rfl, rfl, rfl, rfl, rfl, rfl, rfl, rfl, rfl, rfl, rfl, rfl, rfl, rfl, rfl, rfl, rfl, rfl, rfl, rfl, rfl, rfl, rfl, rfl, rfl, rfl, rfl, rfl, rfl, rfl, rfl, rfl, rfl, rfl, rfl, rfl, rfl, rfl, rfl, rfl, rfl, rfl, rfl, rfl, rfl, rfl, rfl, rfl, rfl, rfl, rfl, rfl, rfl⟩

@[simp] theorem State.setLfsrOf_same (s : State) (k : Nat) (v : BitVec 16) : (s.setLfsrOf k v).lfsrOf k = v :=
  Tab.get_put_same _ _ _ _

theorem State.setLfsrOf_other (s : State) (k j : Nat) (v : BitVec 16) (h : j ≠ k) : (s.setLfsrOf k v).lfsrOf j = s.lfsrOf j :=
  Tab.get_put_other _ _ _ _ _ h

@[simp] theorem State.setBucket_frame (s : State) (k : Nat) (v : Policer) :
    (s.setBucket k v).pending = s.pending ∧
    (s.setBucket k v).free = s.free ∧
    (s.setBucket k v).readData = s.readData ∧
    (s.setBucket k v).now = s.now ∧
    (s.setBucket k v).regs = s.regs ∧
    (s.setBucket k v).mem = s.mem ∧
    (s.setBucket k v).hostMem0 = s.hostMem0 ∧
    (s.setBucket k v).hostMem1 = s.hostMem1 ∧
    (s.setBucket k v).tbs = s.tbs ∧
    (s.setBucket k v).tbCap = s.tbCap ∧
    (s.setBucket k v).timeUp = s.timeUp ∧
    (s.setBucket k v).timeDist = s.timeDist ∧
    (s.setBucket k v).bdq = s.bdq ∧
    (s.setBucket k v).lanes = s.lanes ∧
    (s.setBucket k v).pins = s.pins ∧
    (s.setBucket k v).buses = s.buses ∧
    (s.setBucket k v).txTurn = s.txTurn ∧
    (s.setBucket k v).nextEnt = s.nextEnt ∧
    (s.setBucket k v).nextDone = s.nextDone ∧
    (s.setBucket k v).fetched = s.fetched ∧
    (s.setBucket k v).seWait = s.seWait ∧
    (s.setBucket k v).objs = s.objs ∧
    (s.setBucket k v).fltLoads = s.fltLoads ∧
    (s.setBucket k v).caches = s.caches ∧
    (s.setBucket k v).rtLoad = s.rtLoad ∧
    (s.setBucket k v).polLoad = s.polLoad ∧
    (s.setBucket k v).routeGen = s.routeGen ∧
    (s.setBucket k v).kills = s.kills ∧
    (s.setBucket k v).killDue = s.killDue ∧
    (s.setBucket k v).voqs = s.voqs ∧
    (s.setBucket k v).ctqs = s.ctqs ∧
    (s.setBucket k v).ptrs = s.ptrs ∧
    (s.setBucket k v).cells = s.cells ∧
    (s.setBucket k v).frames = s.frames ∧
    (s.setBucket k v).nextFid = s.nextFid ∧
    (s.setBucket k v).nextValid = s.nextValid ∧
    (s.setBucket k v).charged = s.charged ∧
    (s.setBucket k v).avg = s.avg ∧
    (s.setBucket k v).lfsr = s.lfsr ∧
    (s.setBucket k v).cqHeld = s.cqHeld ∧
    (s.setBucket k v).lowCond = s.lowCond ∧
    (s.setBucket k v).chargeSeen = s.chargeSeen ∧
    (s.setBucket k v).sweepAt = s.sweepAt ∧
    (s.setBucket k v).sqs = s.sqs ∧
    (s.setBucket k v).cqs = s.cqs ∧
    (s.setBucket k v).funcs = s.funcs ∧
    (s.setBucket k v).held = s.held ∧
    (s.setBucket k v).srcs = s.srcs ∧
    (s.setBucket k v).tgts = s.tgts ∧
    (s.setBucket k v).mor = s.mor ∧
    (s.setBucket k v).stack = s.stack ∧
    (s.setBucket k v).eths = s.eths ∧
    (s.setBucket k v).snow = s.snow ∧
    (s.setBucket k v).power = s.power ∧
    (s.setBucket k v).boot = s.boot ∧
    (s.setBucket k v).poison = s.poison ∧
    (s.setBucket k v).engs = s.engs := by
  refine ⟨rfl, rfl, rfl, rfl, rfl, rfl, rfl, rfl, rfl, rfl, rfl, rfl, rfl, rfl, rfl, rfl, rfl, rfl, rfl, rfl, rfl, rfl, rfl, rfl, rfl, rfl, rfl, rfl, rfl, rfl, rfl, rfl, rfl, rfl, rfl, rfl, rfl, rfl, rfl, rfl, rfl, rfl, rfl, rfl, rfl, rfl, rfl, rfl, rfl, rfl, rfl, rfl, rfl, rfl, rfl, rfl, rfl⟩

@[simp] theorem State.setBucket_same (s : State) (k : Nat) (v : Policer) : (s.setBucket k v).bucket k = v :=
  Tab.get_put_same _ _ _ _

theorem State.setBucket_other (s : State) (k j : Nat) (v : Policer) (h : j ≠ k) : (s.setBucket k v).bucket j = s.bucket j :=
  Tab.get_put_other _ _ _ _ _ h

@[simp] theorem State.setHeldOf_frame (s : State) (k : Nat) (v : Nat) :
    (s.setHeldOf k v).pending = s.pending ∧
    (s.setHeldOf k v).free = s.free ∧
    (s.setHeldOf k v).readData = s.readData ∧
    (s.setHeldOf k v).now = s.now ∧
    (s.setHeldOf k v).regs = s.regs ∧
    (s.setHeldOf k v).mem = s.mem ∧
    (s.setHeldOf k v).hostMem0 = s.hostMem0 ∧
    (s.setHeldOf k v).hostMem1 = s.hostMem1 ∧
    (s.setHeldOf k v).tbs = s.tbs ∧
    (s.setHeldOf k v).tbCap = s.tbCap ∧
    (s.setHeldOf k v).timeUp = s.timeUp ∧
    (s.setHeldOf k v).timeDist = s.timeDist ∧
    (s.setHeldOf k v).bdq = s.bdq ∧
    (s.setHeldOf k v).lanes = s.lanes ∧
    (s.setHeldOf k v).pins = s.pins ∧
    (s.setHeldOf k v).buses = s.buses ∧
    (s.setHeldOf k v).txTurn = s.txTurn ∧
    (s.setHeldOf k v).nextEnt = s.nextEnt ∧
    (s.setHeldOf k v).nextDone = s.nextDone ∧
    (s.setHeldOf k v).fetched = s.fetched ∧
    (s.setHeldOf k v).seWait = s.seWait ∧
    (s.setHeldOf k v).objs = s.objs ∧
    (s.setHeldOf k v).fltLoads = s.fltLoads ∧
    (s.setHeldOf k v).caches = s.caches ∧
    (s.setHeldOf k v).rtLoad = s.rtLoad ∧
    (s.setHeldOf k v).polLoad = s.polLoad ∧
    (s.setHeldOf k v).routeGen = s.routeGen ∧
    (s.setHeldOf k v).kills = s.kills ∧
    (s.setHeldOf k v).killDue = s.killDue ∧
    (s.setHeldOf k v).voqs = s.voqs ∧
    (s.setHeldOf k v).ctqs = s.ctqs ∧
    (s.setHeldOf k v).ptrs = s.ptrs ∧
    (s.setHeldOf k v).cells = s.cells ∧
    (s.setHeldOf k v).frames = s.frames ∧
    (s.setHeldOf k v).nextFid = s.nextFid ∧
    (s.setHeldOf k v).nextValid = s.nextValid ∧
    (s.setHeldOf k v).charged = s.charged ∧
    (s.setHeldOf k v).avg = s.avg ∧
    (s.setHeldOf k v).lfsr = s.lfsr ∧
    (s.setHeldOf k v).buckets = s.buckets ∧
    (s.setHeldOf k v).lowCond = s.lowCond ∧
    (s.setHeldOf k v).chargeSeen = s.chargeSeen ∧
    (s.setHeldOf k v).sweepAt = s.sweepAt ∧
    (s.setHeldOf k v).sqs = s.sqs ∧
    (s.setHeldOf k v).cqs = s.cqs ∧
    (s.setHeldOf k v).funcs = s.funcs ∧
    (s.setHeldOf k v).held = s.held ∧
    (s.setHeldOf k v).srcs = s.srcs ∧
    (s.setHeldOf k v).tgts = s.tgts ∧
    (s.setHeldOf k v).mor = s.mor ∧
    (s.setHeldOf k v).stack = s.stack ∧
    (s.setHeldOf k v).eths = s.eths ∧
    (s.setHeldOf k v).snow = s.snow ∧
    (s.setHeldOf k v).power = s.power ∧
    (s.setHeldOf k v).boot = s.boot ∧
    (s.setHeldOf k v).poison = s.poison ∧
    (s.setHeldOf k v).engs = s.engs := by
  refine ⟨rfl, rfl, rfl, rfl, rfl, rfl, rfl, rfl, rfl, rfl, rfl, rfl, rfl, rfl, rfl, rfl, rfl, rfl, rfl, rfl, rfl, rfl, rfl, rfl, rfl, rfl, rfl, rfl, rfl, rfl, rfl, rfl, rfl, rfl, rfl, rfl, rfl, rfl, rfl, rfl, rfl, rfl, rfl, rfl, rfl, rfl, rfl, rfl, rfl, rfl, rfl, rfl, rfl, rfl, rfl, rfl, rfl⟩

@[simp] theorem State.setHeldOf_same (s : State) (k : Nat) (v : Nat) : (s.setHeldOf k v).heldOf k = v :=
  Tab.get_put_same _ _ _ _

theorem State.setHeldOf_other (s : State) (k j : Nat) (v : Nat) (h : j ≠ k) : (s.setHeldOf k v).heldOf j = s.heldOf j :=
  Tab.get_put_other _ _ _ _ _ h

@[simp] theorem State.setChgSeen_frame (s : State) (k : Nat) (v : Nat) :
    (s.setChgSeen k v).pending = s.pending ∧
    (s.setChgSeen k v).free = s.free ∧
    (s.setChgSeen k v).readData = s.readData ∧
    (s.setChgSeen k v).now = s.now ∧
    (s.setChgSeen k v).regs = s.regs ∧
    (s.setChgSeen k v).mem = s.mem ∧
    (s.setChgSeen k v).hostMem0 = s.hostMem0 ∧
    (s.setChgSeen k v).hostMem1 = s.hostMem1 ∧
    (s.setChgSeen k v).tbs = s.tbs ∧
    (s.setChgSeen k v).tbCap = s.tbCap ∧
    (s.setChgSeen k v).timeUp = s.timeUp ∧
    (s.setChgSeen k v).timeDist = s.timeDist ∧
    (s.setChgSeen k v).bdq = s.bdq ∧
    (s.setChgSeen k v).lanes = s.lanes ∧
    (s.setChgSeen k v).pins = s.pins ∧
    (s.setChgSeen k v).buses = s.buses ∧
    (s.setChgSeen k v).txTurn = s.txTurn ∧
    (s.setChgSeen k v).nextEnt = s.nextEnt ∧
    (s.setChgSeen k v).nextDone = s.nextDone ∧
    (s.setChgSeen k v).fetched = s.fetched ∧
    (s.setChgSeen k v).seWait = s.seWait ∧
    (s.setChgSeen k v).objs = s.objs ∧
    (s.setChgSeen k v).fltLoads = s.fltLoads ∧
    (s.setChgSeen k v).caches = s.caches ∧
    (s.setChgSeen k v).rtLoad = s.rtLoad ∧
    (s.setChgSeen k v).polLoad = s.polLoad ∧
    (s.setChgSeen k v).routeGen = s.routeGen ∧
    (s.setChgSeen k v).kills = s.kills ∧
    (s.setChgSeen k v).killDue = s.killDue ∧
    (s.setChgSeen k v).voqs = s.voqs ∧
    (s.setChgSeen k v).ctqs = s.ctqs ∧
    (s.setChgSeen k v).ptrs = s.ptrs ∧
    (s.setChgSeen k v).cells = s.cells ∧
    (s.setChgSeen k v).frames = s.frames ∧
    (s.setChgSeen k v).nextFid = s.nextFid ∧
    (s.setChgSeen k v).nextValid = s.nextValid ∧
    (s.setChgSeen k v).charged = s.charged ∧
    (s.setChgSeen k v).avg = s.avg ∧
    (s.setChgSeen k v).lfsr = s.lfsr ∧
    (s.setChgSeen k v).buckets = s.buckets ∧
    (s.setChgSeen k v).cqHeld = s.cqHeld ∧
    (s.setChgSeen k v).lowCond = s.lowCond ∧
    (s.setChgSeen k v).sweepAt = s.sweepAt ∧
    (s.setChgSeen k v).sqs = s.sqs ∧
    (s.setChgSeen k v).cqs = s.cqs ∧
    (s.setChgSeen k v).funcs = s.funcs ∧
    (s.setChgSeen k v).held = s.held ∧
    (s.setChgSeen k v).srcs = s.srcs ∧
    (s.setChgSeen k v).tgts = s.tgts ∧
    (s.setChgSeen k v).mor = s.mor ∧
    (s.setChgSeen k v).stack = s.stack ∧
    (s.setChgSeen k v).eths = s.eths ∧
    (s.setChgSeen k v).snow = s.snow ∧
    (s.setChgSeen k v).power = s.power ∧
    (s.setChgSeen k v).boot = s.boot ∧
    (s.setChgSeen k v).poison = s.poison ∧
    (s.setChgSeen k v).engs = s.engs := by
  refine ⟨rfl, rfl, rfl, rfl, rfl, rfl, rfl, rfl, rfl, rfl, rfl, rfl, rfl, rfl, rfl, rfl, rfl, rfl, rfl, rfl, rfl, rfl, rfl, rfl, rfl, rfl, rfl, rfl, rfl, rfl, rfl, rfl, rfl, rfl, rfl, rfl, rfl, rfl, rfl, rfl, rfl, rfl, rfl, rfl, rfl, rfl, rfl, rfl, rfl, rfl, rfl, rfl, rfl, rfl, rfl, rfl, rfl⟩

@[simp] theorem State.setChgSeen_same (s : State) (k : Nat) (v : Nat) : (s.setChgSeen k v).chgSeen k = v :=
  Tab.get_put_same _ _ _ _

theorem State.setChgSeen_other (s : State) (k j : Nat) (v : Nat) (h : j ≠ k) : (s.setChgSeen k v).chgSeen j = s.chgSeen j :=
  Tab.get_put_other _ _ _ _ _ h

@[simp] theorem State.setSq_frame (s : State) (k : Nat) (v : Sq) :
    (s.setSq k v).pending = s.pending ∧
    (s.setSq k v).free = s.free ∧
    (s.setSq k v).readData = s.readData ∧
    (s.setSq k v).now = s.now ∧
    (s.setSq k v).regs = s.regs ∧
    (s.setSq k v).mem = s.mem ∧
    (s.setSq k v).hostMem0 = s.hostMem0 ∧
    (s.setSq k v).hostMem1 = s.hostMem1 ∧
    (s.setSq k v).tbs = s.tbs ∧
    (s.setSq k v).tbCap = s.tbCap ∧
    (s.setSq k v).timeUp = s.timeUp ∧
    (s.setSq k v).timeDist = s.timeDist ∧
    (s.setSq k v).bdq = s.bdq ∧
    (s.setSq k v).lanes = s.lanes ∧
    (s.setSq k v).pins = s.pins ∧
    (s.setSq k v).buses = s.buses ∧
    (s.setSq k v).txTurn = s.txTurn ∧
    (s.setSq k v).nextEnt = s.nextEnt ∧
    (s.setSq k v).nextDone = s.nextDone ∧
    (s.setSq k v).fetched = s.fetched ∧
    (s.setSq k v).seWait = s.seWait ∧
    (s.setSq k v).objs = s.objs ∧
    (s.setSq k v).fltLoads = s.fltLoads ∧
    (s.setSq k v).caches = s.caches ∧
    (s.setSq k v).rtLoad = s.rtLoad ∧
    (s.setSq k v).polLoad = s.polLoad ∧
    (s.setSq k v).routeGen = s.routeGen ∧
    (s.setSq k v).kills = s.kills ∧
    (s.setSq k v).killDue = s.killDue ∧
    (s.setSq k v).voqs = s.voqs ∧
    (s.setSq k v).ctqs = s.ctqs ∧
    (s.setSq k v).ptrs = s.ptrs ∧
    (s.setSq k v).cells = s.cells ∧
    (s.setSq k v).frames = s.frames ∧
    (s.setSq k v).nextFid = s.nextFid ∧
    (s.setSq k v).nextValid = s.nextValid ∧
    (s.setSq k v).charged = s.charged ∧
    (s.setSq k v).avg = s.avg ∧
    (s.setSq k v).lfsr = s.lfsr ∧
    (s.setSq k v).buckets = s.buckets ∧
    (s.setSq k v).cqHeld = s.cqHeld ∧
    (s.setSq k v).lowCond = s.lowCond ∧
    (s.setSq k v).chargeSeen = s.chargeSeen ∧
    (s.setSq k v).sweepAt = s.sweepAt ∧
    (s.setSq k v).cqs = s.cqs ∧
    (s.setSq k v).funcs = s.funcs ∧
    (s.setSq k v).held = s.held ∧
    (s.setSq k v).srcs = s.srcs ∧
    (s.setSq k v).tgts = s.tgts ∧
    (s.setSq k v).mor = s.mor ∧
    (s.setSq k v).stack = s.stack ∧
    (s.setSq k v).eths = s.eths ∧
    (s.setSq k v).snow = s.snow ∧
    (s.setSq k v).power = s.power ∧
    (s.setSq k v).boot = s.boot ∧
    (s.setSq k v).poison = s.poison ∧
    (s.setSq k v).engs = s.engs := by
  refine ⟨rfl, rfl, rfl, rfl, rfl, rfl, rfl, rfl, rfl, rfl, rfl, rfl, rfl, rfl, rfl, rfl, rfl, rfl, rfl, rfl, rfl, rfl, rfl, rfl, rfl, rfl, rfl, rfl, rfl, rfl, rfl, rfl, rfl, rfl, rfl, rfl, rfl, rfl, rfl, rfl, rfl, rfl, rfl, rfl, rfl, rfl, rfl, rfl, rfl, rfl, rfl, rfl, rfl, rfl, rfl, rfl, rfl⟩

@[simp] theorem State.setSq_same (s : State) (k : Nat) (v : Sq) : (s.setSq k v).sq k = v :=
  Tab.get_put_same _ _ _ _

theorem State.setSq_other (s : State) (k j : Nat) (v : Sq) (h : j ≠ k) : (s.setSq k v).sq j = s.sq j :=
  Tab.get_put_other _ _ _ _ _ h

@[simp] theorem State.setCq_frame (s : State) (k : Nat) (v : Cq) :
    (s.setCq k v).pending = s.pending ∧
    (s.setCq k v).free = s.free ∧
    (s.setCq k v).readData = s.readData ∧
    (s.setCq k v).now = s.now ∧
    (s.setCq k v).regs = s.regs ∧
    (s.setCq k v).mem = s.mem ∧
    (s.setCq k v).hostMem0 = s.hostMem0 ∧
    (s.setCq k v).hostMem1 = s.hostMem1 ∧
    (s.setCq k v).tbs = s.tbs ∧
    (s.setCq k v).tbCap = s.tbCap ∧
    (s.setCq k v).timeUp = s.timeUp ∧
    (s.setCq k v).timeDist = s.timeDist ∧
    (s.setCq k v).bdq = s.bdq ∧
    (s.setCq k v).lanes = s.lanes ∧
    (s.setCq k v).pins = s.pins ∧
    (s.setCq k v).buses = s.buses ∧
    (s.setCq k v).txTurn = s.txTurn ∧
    (s.setCq k v).nextEnt = s.nextEnt ∧
    (s.setCq k v).nextDone = s.nextDone ∧
    (s.setCq k v).fetched = s.fetched ∧
    (s.setCq k v).seWait = s.seWait ∧
    (s.setCq k v).objs = s.objs ∧
    (s.setCq k v).fltLoads = s.fltLoads ∧
    (s.setCq k v).caches = s.caches ∧
    (s.setCq k v).rtLoad = s.rtLoad ∧
    (s.setCq k v).polLoad = s.polLoad ∧
    (s.setCq k v).routeGen = s.routeGen ∧
    (s.setCq k v).kills = s.kills ∧
    (s.setCq k v).killDue = s.killDue ∧
    (s.setCq k v).voqs = s.voqs ∧
    (s.setCq k v).ctqs = s.ctqs ∧
    (s.setCq k v).ptrs = s.ptrs ∧
    (s.setCq k v).cells = s.cells ∧
    (s.setCq k v).frames = s.frames ∧
    (s.setCq k v).nextFid = s.nextFid ∧
    (s.setCq k v).nextValid = s.nextValid ∧
    (s.setCq k v).charged = s.charged ∧
    (s.setCq k v).avg = s.avg ∧
    (s.setCq k v).lfsr = s.lfsr ∧
    (s.setCq k v).buckets = s.buckets ∧
    (s.setCq k v).cqHeld = s.cqHeld ∧
    (s.setCq k v).lowCond = s.lowCond ∧
    (s.setCq k v).chargeSeen = s.chargeSeen ∧
    (s.setCq k v).sweepAt = s.sweepAt ∧
    (s.setCq k v).sqs = s.sqs ∧
    (s.setCq k v).funcs = s.funcs ∧
    (s.setCq k v).held = s.held ∧
    (s.setCq k v).srcs = s.srcs ∧
    (s.setCq k v).tgts = s.tgts ∧
    (s.setCq k v).mor = s.mor ∧
    (s.setCq k v).stack = s.stack ∧
    (s.setCq k v).eths = s.eths ∧
    (s.setCq k v).snow = s.snow ∧
    (s.setCq k v).power = s.power ∧
    (s.setCq k v).boot = s.boot ∧
    (s.setCq k v).poison = s.poison ∧
    (s.setCq k v).engs = s.engs := by
  refine ⟨rfl, rfl, rfl, rfl, rfl, rfl, rfl, rfl, rfl, rfl, rfl, rfl, rfl, rfl, rfl, rfl, rfl, rfl, rfl, rfl, rfl, rfl, rfl, rfl, rfl, rfl, rfl, rfl, rfl, rfl, rfl, rfl, rfl, rfl, rfl, rfl, rfl, rfl, rfl, rfl, rfl, rfl, rfl, rfl, rfl, rfl, rfl, rfl, rfl, rfl, rfl, rfl, rfl, rfl, rfl, rfl, rfl⟩

@[simp] theorem State.setCq_same (s : State) (k : Nat) (v : Cq) : (s.setCq k v).cq k = v :=
  Tab.get_put_same _ _ _ _

theorem State.setCq_other (s : State) (k j : Nat) (v : Cq) (h : j ≠ k) : (s.setCq k v).cq j = s.cq j :=
  Tab.get_put_other _ _ _ _ _ h

@[simp] theorem State.setFunc_frame (s : State) (k : Nat) (v : Func) :
    (s.setFunc k v).pending = s.pending ∧
    (s.setFunc k v).free = s.free ∧
    (s.setFunc k v).readData = s.readData ∧
    (s.setFunc k v).now = s.now ∧
    (s.setFunc k v).regs = s.regs ∧
    (s.setFunc k v).mem = s.mem ∧
    (s.setFunc k v).hostMem0 = s.hostMem0 ∧
    (s.setFunc k v).hostMem1 = s.hostMem1 ∧
    (s.setFunc k v).tbs = s.tbs ∧
    (s.setFunc k v).tbCap = s.tbCap ∧
    (s.setFunc k v).timeUp = s.timeUp ∧
    (s.setFunc k v).timeDist = s.timeDist ∧
    (s.setFunc k v).bdq = s.bdq ∧
    (s.setFunc k v).lanes = s.lanes ∧
    (s.setFunc k v).pins = s.pins ∧
    (s.setFunc k v).buses = s.buses ∧
    (s.setFunc k v).txTurn = s.txTurn ∧
    (s.setFunc k v).nextEnt = s.nextEnt ∧
    (s.setFunc k v).nextDone = s.nextDone ∧
    (s.setFunc k v).fetched = s.fetched ∧
    (s.setFunc k v).seWait = s.seWait ∧
    (s.setFunc k v).objs = s.objs ∧
    (s.setFunc k v).fltLoads = s.fltLoads ∧
    (s.setFunc k v).caches = s.caches ∧
    (s.setFunc k v).rtLoad = s.rtLoad ∧
    (s.setFunc k v).polLoad = s.polLoad ∧
    (s.setFunc k v).routeGen = s.routeGen ∧
    (s.setFunc k v).kills = s.kills ∧
    (s.setFunc k v).killDue = s.killDue ∧
    (s.setFunc k v).voqs = s.voqs ∧
    (s.setFunc k v).ctqs = s.ctqs ∧
    (s.setFunc k v).ptrs = s.ptrs ∧
    (s.setFunc k v).cells = s.cells ∧
    (s.setFunc k v).frames = s.frames ∧
    (s.setFunc k v).nextFid = s.nextFid ∧
    (s.setFunc k v).nextValid = s.nextValid ∧
    (s.setFunc k v).charged = s.charged ∧
    (s.setFunc k v).avg = s.avg ∧
    (s.setFunc k v).lfsr = s.lfsr ∧
    (s.setFunc k v).buckets = s.buckets ∧
    (s.setFunc k v).cqHeld = s.cqHeld ∧
    (s.setFunc k v).lowCond = s.lowCond ∧
    (s.setFunc k v).chargeSeen = s.chargeSeen ∧
    (s.setFunc k v).sweepAt = s.sweepAt ∧
    (s.setFunc k v).sqs = s.sqs ∧
    (s.setFunc k v).cqs = s.cqs ∧
    (s.setFunc k v).held = s.held ∧
    (s.setFunc k v).srcs = s.srcs ∧
    (s.setFunc k v).tgts = s.tgts ∧
    (s.setFunc k v).mor = s.mor ∧
    (s.setFunc k v).stack = s.stack ∧
    (s.setFunc k v).eths = s.eths ∧
    (s.setFunc k v).snow = s.snow ∧
    (s.setFunc k v).power = s.power ∧
    (s.setFunc k v).boot = s.boot ∧
    (s.setFunc k v).poison = s.poison ∧
    (s.setFunc k v).engs = s.engs := by
  refine ⟨rfl, rfl, rfl, rfl, rfl, rfl, rfl, rfl, rfl, rfl, rfl, rfl, rfl, rfl, rfl, rfl, rfl, rfl, rfl, rfl, rfl, rfl, rfl, rfl, rfl, rfl, rfl, rfl, rfl, rfl, rfl, rfl, rfl, rfl, rfl, rfl, rfl, rfl, rfl, rfl, rfl, rfl, rfl, rfl, rfl, rfl, rfl, rfl, rfl, rfl, rfl, rfl, rfl, rfl, rfl, rfl, rfl⟩

@[simp] theorem State.setFunc_same (s : State) (k : Nat) (v : Func) : (s.setFunc k v).func k = v :=
  Tab.get_put_same _ _ _ _

theorem State.setFunc_other (s : State) (k j : Nat) (v : Func) (h : j ≠ k) : (s.setFunc k v).func j = s.func j :=
  Tab.get_put_other _ _ _ _ _ h

@[simp] theorem State.setSrc_frame (s : State) (k : Nat) (v : Src) :
    (s.setSrc k v).pending = s.pending ∧
    (s.setSrc k v).free = s.free ∧
    (s.setSrc k v).readData = s.readData ∧
    (s.setSrc k v).now = s.now ∧
    (s.setSrc k v).regs = s.regs ∧
    (s.setSrc k v).mem = s.mem ∧
    (s.setSrc k v).hostMem0 = s.hostMem0 ∧
    (s.setSrc k v).hostMem1 = s.hostMem1 ∧
    (s.setSrc k v).tbs = s.tbs ∧
    (s.setSrc k v).tbCap = s.tbCap ∧
    (s.setSrc k v).timeUp = s.timeUp ∧
    (s.setSrc k v).timeDist = s.timeDist ∧
    (s.setSrc k v).bdq = s.bdq ∧
    (s.setSrc k v).lanes = s.lanes ∧
    (s.setSrc k v).pins = s.pins ∧
    (s.setSrc k v).buses = s.buses ∧
    (s.setSrc k v).txTurn = s.txTurn ∧
    (s.setSrc k v).nextEnt = s.nextEnt ∧
    (s.setSrc k v).nextDone = s.nextDone ∧
    (s.setSrc k v).fetched = s.fetched ∧
    (s.setSrc k v).seWait = s.seWait ∧
    (s.setSrc k v).objs = s.objs ∧
    (s.setSrc k v).fltLoads = s.fltLoads ∧
    (s.setSrc k v).caches = s.caches ∧
    (s.setSrc k v).rtLoad = s.rtLoad ∧
    (s.setSrc k v).polLoad = s.polLoad ∧
    (s.setSrc k v).routeGen = s.routeGen ∧
    (s.setSrc k v).kills = s.kills ∧
    (s.setSrc k v).killDue = s.killDue ∧
    (s.setSrc k v).voqs = s.voqs ∧
    (s.setSrc k v).ctqs = s.ctqs ∧
    (s.setSrc k v).ptrs = s.ptrs ∧
    (s.setSrc k v).cells = s.cells ∧
    (s.setSrc k v).frames = s.frames ∧
    (s.setSrc k v).nextFid = s.nextFid ∧
    (s.setSrc k v).nextValid = s.nextValid ∧
    (s.setSrc k v).charged = s.charged ∧
    (s.setSrc k v).avg = s.avg ∧
    (s.setSrc k v).lfsr = s.lfsr ∧
    (s.setSrc k v).buckets = s.buckets ∧
    (s.setSrc k v).cqHeld = s.cqHeld ∧
    (s.setSrc k v).lowCond = s.lowCond ∧
    (s.setSrc k v).chargeSeen = s.chargeSeen ∧
    (s.setSrc k v).sweepAt = s.sweepAt ∧
    (s.setSrc k v).sqs = s.sqs ∧
    (s.setSrc k v).cqs = s.cqs ∧
    (s.setSrc k v).funcs = s.funcs ∧
    (s.setSrc k v).held = s.held ∧
    (s.setSrc k v).tgts = s.tgts ∧
    (s.setSrc k v).mor = s.mor ∧
    (s.setSrc k v).stack = s.stack ∧
    (s.setSrc k v).eths = s.eths ∧
    (s.setSrc k v).snow = s.snow ∧
    (s.setSrc k v).power = s.power ∧
    (s.setSrc k v).boot = s.boot ∧
    (s.setSrc k v).poison = s.poison ∧
    (s.setSrc k v).engs = s.engs := by
  refine ⟨rfl, rfl, rfl, rfl, rfl, rfl, rfl, rfl, rfl, rfl, rfl, rfl, rfl, rfl, rfl, rfl, rfl, rfl, rfl, rfl, rfl, rfl, rfl, rfl, rfl, rfl, rfl, rfl, rfl, rfl, rfl, rfl, rfl, rfl, rfl, rfl, rfl, rfl, rfl, rfl, rfl, rfl, rfl, rfl, rfl, rfl, rfl, rfl, rfl, rfl, rfl, rfl, rfl, rfl, rfl, rfl, rfl⟩

@[simp] theorem State.setSrc_same (s : State) (k : Nat) (v : Src) : (s.setSrc k v).src k = v :=
  Tab.get_put_same _ _ _ _

theorem State.setSrc_other (s : State) (k j : Nat) (v : Src) (h : j ≠ k) : (s.setSrc k v).src j = s.src j :=
  Tab.get_put_other _ _ _ _ _ h

@[simp] theorem State.setTgt_frame (s : State) (k : Nat) (v : Tgt) :
    (s.setTgt k v).pending = s.pending ∧
    (s.setTgt k v).free = s.free ∧
    (s.setTgt k v).readData = s.readData ∧
    (s.setTgt k v).now = s.now ∧
    (s.setTgt k v).regs = s.regs ∧
    (s.setTgt k v).mem = s.mem ∧
    (s.setTgt k v).hostMem0 = s.hostMem0 ∧
    (s.setTgt k v).hostMem1 = s.hostMem1 ∧
    (s.setTgt k v).tbs = s.tbs ∧
    (s.setTgt k v).tbCap = s.tbCap ∧
    (s.setTgt k v).timeUp = s.timeUp ∧
    (s.setTgt k v).timeDist = s.timeDist ∧
    (s.setTgt k v).bdq = s.bdq ∧
    (s.setTgt k v).lanes = s.lanes ∧
    (s.setTgt k v).pins = s.pins ∧
    (s.setTgt k v).buses = s.buses ∧
    (s.setTgt k v).txTurn = s.txTurn ∧
    (s.setTgt k v).nextEnt = s.nextEnt ∧
    (s.setTgt k v).nextDone = s.nextDone ∧
    (s.setTgt k v).fetched = s.fetched ∧
    (s.setTgt k v).seWait = s.seWait ∧
    (s.setTgt k v).objs = s.objs ∧
    (s.setTgt k v).fltLoads = s.fltLoads ∧
    (s.setTgt k v).caches = s.caches ∧
    (s.setTgt k v).rtLoad = s.rtLoad ∧
    (s.setTgt k v).polLoad = s.polLoad ∧
    (s.setTgt k v).routeGen = s.routeGen ∧
    (s.setTgt k v).kills = s.kills ∧
    (s.setTgt k v).killDue = s.killDue ∧
    (s.setTgt k v).voqs = s.voqs ∧
    (s.setTgt k v).ctqs = s.ctqs ∧
    (s.setTgt k v).ptrs = s.ptrs ∧
    (s.setTgt k v).cells = s.cells ∧
    (s.setTgt k v).frames = s.frames ∧
    (s.setTgt k v).nextFid = s.nextFid ∧
    (s.setTgt k v).nextValid = s.nextValid ∧
    (s.setTgt k v).charged = s.charged ∧
    (s.setTgt k v).avg = s.avg ∧
    (s.setTgt k v).lfsr = s.lfsr ∧
    (s.setTgt k v).buckets = s.buckets ∧
    (s.setTgt k v).cqHeld = s.cqHeld ∧
    (s.setTgt k v).lowCond = s.lowCond ∧
    (s.setTgt k v).chargeSeen = s.chargeSeen ∧
    (s.setTgt k v).sweepAt = s.sweepAt ∧
    (s.setTgt k v).sqs = s.sqs ∧
    (s.setTgt k v).cqs = s.cqs ∧
    (s.setTgt k v).funcs = s.funcs ∧
    (s.setTgt k v).held = s.held ∧
    (s.setTgt k v).srcs = s.srcs ∧
    (s.setTgt k v).mor = s.mor ∧
    (s.setTgt k v).stack = s.stack ∧
    (s.setTgt k v).eths = s.eths ∧
    (s.setTgt k v).snow = s.snow ∧
    (s.setTgt k v).power = s.power ∧
    (s.setTgt k v).boot = s.boot ∧
    (s.setTgt k v).poison = s.poison ∧
    (s.setTgt k v).engs = s.engs := by
  refine ⟨rfl, rfl, rfl, rfl, rfl, rfl, rfl, rfl, rfl, rfl, rfl, rfl, rfl, rfl, rfl, rfl, rfl, rfl, rfl, rfl, rfl, rfl, rfl, rfl, rfl, rfl, rfl, rfl, rfl, rfl, rfl, rfl, rfl, rfl, rfl, rfl, rfl, rfl, rfl, rfl, rfl, rfl, rfl, rfl, rfl, rfl, rfl, rfl, rfl, rfl, rfl, rfl, rfl, rfl, rfl, rfl, rfl⟩

@[simp] theorem State.setTgt_same (s : State) (k : Nat) (v : Tgt) : (s.setTgt k v).tgt k = v :=
  Tab.get_put_same _ _ _ _

theorem State.setTgt_other (s : State) (k j : Nat) (v : Tgt) (h : j ≠ k) : (s.setTgt k v).tgt j = s.tgt j :=
  Tab.get_put_other _ _ _ _ _ h

@[simp] theorem State.setEth_frame (s : State) (k : Nat) (v : EthPort) :
    (s.setEth k v).pending = s.pending ∧
    (s.setEth k v).free = s.free ∧
    (s.setEth k v).readData = s.readData ∧
    (s.setEth k v).now = s.now ∧
    (s.setEth k v).regs = s.regs ∧
    (s.setEth k v).mem = s.mem ∧
    (s.setEth k v).hostMem0 = s.hostMem0 ∧
    (s.setEth k v).hostMem1 = s.hostMem1 ∧
    (s.setEth k v).tbs = s.tbs ∧
    (s.setEth k v).tbCap = s.tbCap ∧
    (s.setEth k v).timeUp = s.timeUp ∧
    (s.setEth k v).timeDist = s.timeDist ∧
    (s.setEth k v).bdq = s.bdq ∧
    (s.setEth k v).lanes = s.lanes ∧
    (s.setEth k v).pins = s.pins ∧
    (s.setEth k v).buses = s.buses ∧
    (s.setEth k v).txTurn = s.txTurn ∧
    (s.setEth k v).nextEnt = s.nextEnt ∧
    (s.setEth k v).nextDone = s.nextDone ∧
    (s.setEth k v).fetched = s.fetched ∧
    (s.setEth k v).seWait = s.seWait ∧
    (s.setEth k v).objs = s.objs ∧
    (s.setEth k v).fltLoads = s.fltLoads ∧
    (s.setEth k v).caches = s.caches ∧
    (s.setEth k v).rtLoad = s.rtLoad ∧
    (s.setEth k v).polLoad = s.polLoad ∧
    (s.setEth k v).routeGen = s.routeGen ∧
    (s.setEth k v).kills = s.kills ∧
    (s.setEth k v).killDue = s.killDue ∧
    (s.setEth k v).voqs = s.voqs ∧
    (s.setEth k v).ctqs = s.ctqs ∧
    (s.setEth k v).ptrs = s.ptrs ∧
    (s.setEth k v).cells = s.cells ∧
    (s.setEth k v).frames = s.frames ∧
    (s.setEth k v).nextFid = s.nextFid ∧
    (s.setEth k v).nextValid = s.nextValid ∧
    (s.setEth k v).charged = s.charged ∧
    (s.setEth k v).avg = s.avg ∧
    (s.setEth k v).lfsr = s.lfsr ∧
    (s.setEth k v).buckets = s.buckets ∧
    (s.setEth k v).cqHeld = s.cqHeld ∧
    (s.setEth k v).lowCond = s.lowCond ∧
    (s.setEth k v).chargeSeen = s.chargeSeen ∧
    (s.setEth k v).sweepAt = s.sweepAt ∧
    (s.setEth k v).sqs = s.sqs ∧
    (s.setEth k v).cqs = s.cqs ∧
    (s.setEth k v).funcs = s.funcs ∧
    (s.setEth k v).held = s.held ∧
    (s.setEth k v).srcs = s.srcs ∧
    (s.setEth k v).tgts = s.tgts ∧
    (s.setEth k v).mor = s.mor ∧
    (s.setEth k v).stack = s.stack ∧
    (s.setEth k v).snow = s.snow ∧
    (s.setEth k v).power = s.power ∧
    (s.setEth k v).boot = s.boot ∧
    (s.setEth k v).poison = s.poison ∧
    (s.setEth k v).engs = s.engs := by
  refine ⟨rfl, rfl, rfl, rfl, rfl, rfl, rfl, rfl, rfl, rfl, rfl, rfl, rfl, rfl, rfl, rfl, rfl, rfl, rfl, rfl, rfl, rfl, rfl, rfl, rfl, rfl, rfl, rfl, rfl, rfl, rfl, rfl, rfl, rfl, rfl, rfl, rfl, rfl, rfl, rfl, rfl, rfl, rfl, rfl, rfl, rfl, rfl, rfl, rfl, rfl, rfl, rfl, rfl, rfl, rfl, rfl, rfl⟩

@[simp] theorem State.setEth_same (s : State) (k : Nat) (v : EthPort) : (s.setEth k v).eth k = v :=
  Tab.get_put_same _ _ _ _

theorem State.setEth_other (s : State) (k j : Nat) (v : EthPort) (h : j ≠ k) : (s.setEth k v).eth j = s.eth j :=
  Tab.get_put_other _ _ _ _ _ h

@[simp] theorem State.setEng_frame (s : State) (k : Nat) (v : Eng) :
    (s.setEng k v).pending = s.pending ∧
    (s.setEng k v).free = s.free ∧
    (s.setEng k v).readData = s.readData ∧
    (s.setEng k v).now = s.now ∧
    (s.setEng k v).regs = s.regs ∧
    (s.setEng k v).mem = s.mem ∧
    (s.setEng k v).hostMem0 = s.hostMem0 ∧
    (s.setEng k v).hostMem1 = s.hostMem1 ∧
    (s.setEng k v).tbs = s.tbs ∧
    (s.setEng k v).tbCap = s.tbCap ∧
    (s.setEng k v).timeUp = s.timeUp ∧
    (s.setEng k v).timeDist = s.timeDist ∧
    (s.setEng k v).bdq = s.bdq ∧
    (s.setEng k v).lanes = s.lanes ∧
    (s.setEng k v).pins = s.pins ∧
    (s.setEng k v).buses = s.buses ∧
    (s.setEng k v).txTurn = s.txTurn ∧
    (s.setEng k v).nextEnt = s.nextEnt ∧
    (s.setEng k v).nextDone = s.nextDone ∧
    (s.setEng k v).fetched = s.fetched ∧
    (s.setEng k v).seWait = s.seWait ∧
    (s.setEng k v).objs = s.objs ∧
    (s.setEng k v).fltLoads = s.fltLoads ∧
    (s.setEng k v).caches = s.caches ∧
    (s.setEng k v).rtLoad = s.rtLoad ∧
    (s.setEng k v).polLoad = s.polLoad ∧
    (s.setEng k v).routeGen = s.routeGen ∧
    (s.setEng k v).kills = s.kills ∧
    (s.setEng k v).killDue = s.killDue ∧
    (s.setEng k v).voqs = s.voqs ∧
    (s.setEng k v).ctqs = s.ctqs ∧
    (s.setEng k v).ptrs = s.ptrs ∧
    (s.setEng k v).cells = s.cells ∧
    (s.setEng k v).frames = s.frames ∧
    (s.setEng k v).nextFid = s.nextFid ∧
    (s.setEng k v).nextValid = s.nextValid ∧
    (s.setEng k v).charged = s.charged ∧
    (s.setEng k v).avg = s.avg ∧
    (s.setEng k v).lfsr = s.lfsr ∧
    (s.setEng k v).buckets = s.buckets ∧
    (s.setEng k v).cqHeld = s.cqHeld ∧
    (s.setEng k v).lowCond = s.lowCond ∧
    (s.setEng k v).chargeSeen = s.chargeSeen ∧
    (s.setEng k v).sweepAt = s.sweepAt ∧
    (s.setEng k v).sqs = s.sqs ∧
    (s.setEng k v).cqs = s.cqs ∧
    (s.setEng k v).funcs = s.funcs ∧
    (s.setEng k v).held = s.held ∧
    (s.setEng k v).srcs = s.srcs ∧
    (s.setEng k v).tgts = s.tgts ∧
    (s.setEng k v).mor = s.mor ∧
    (s.setEng k v).stack = s.stack ∧
    (s.setEng k v).eths = s.eths ∧
    (s.setEng k v).snow = s.snow ∧
    (s.setEng k v).power = s.power ∧
    (s.setEng k v).boot = s.boot ∧
    (s.setEng k v).poison = s.poison := by
  refine ⟨rfl, rfl, rfl, rfl, rfl, rfl, rfl, rfl, rfl, rfl, rfl, rfl, rfl, rfl, rfl, rfl, rfl, rfl, rfl, rfl, rfl, rfl, rfl, rfl, rfl, rfl, rfl, rfl, rfl, rfl, rfl, rfl, rfl, rfl, rfl, rfl, rfl, rfl, rfl, rfl, rfl, rfl, rfl, rfl, rfl, rfl, rfl, rfl, rfl, rfl, rfl, rfl, rfl, rfl, rfl, rfl, rfl⟩

@[simp] theorem State.setEng_same (s : State) (k : Nat) (v : Eng) : (s.setEng k v).eng k = v :=
  Tab.get_put_same _ _ _ _

theorem State.setEng_other (s : State) (k j : Nat) (v : Eng) (h : j ≠ k) : (s.setEng k v).eng j = s.eng j :=
  Tab.get_put_other _ _ _ _ _ h

@[simp] theorem State.setBd_frame (s : State) (k : Nat) (v : Nat) :
    (s.setBd k v).pending = s.pending ∧
    (s.setBd k v).free = s.free ∧
    (s.setBd k v).readData = s.readData ∧
    (s.setBd k v).now = s.now ∧
    (s.setBd k v).regs = s.regs ∧
    (s.setBd k v).mem = s.mem ∧
    (s.setBd k v).hostMem0 = s.hostMem0 ∧
    (s.setBd k v).hostMem1 = s.hostMem1 ∧
    (s.setBd k v).tbs = s.tbs ∧
    (s.setBd k v).tbCap = s.tbCap ∧
    (s.setBd k v).timeUp = s.timeUp ∧
    (s.setBd k v).timeDist = s.timeDist ∧
    (s.setBd k v).lanes = s.lanes ∧
    (s.setBd k v).pins = s.pins ∧
    (s.setBd k v).buses = s.buses ∧
    (s.setBd k v).txTurn = s.txTurn ∧
    (s.setBd k v).nextEnt = s.nextEnt ∧
    (s.setBd k v).nextDone = s.nextDone ∧
    (s.setBd k v).fetched = s.fetched ∧
    (s.setBd k v).seWait = s.seWait ∧
    (s.setBd k v).objs = s.objs ∧
    (s.setBd k v).fltLoads = s.fltLoads ∧
    (s.setBd k v).caches = s.caches ∧
    (s.setBd k v).rtLoad = s.rtLoad ∧
    (s.setBd k v).polLoad = s.polLoad ∧
    (s.setBd k v).routeGen = s.routeGen ∧
    (s.setBd k v).kills = s.kills ∧
    (s.setBd k v).killDue = s.killDue ∧
    (s.setBd k v).voqs = s.voqs ∧
    (s.setBd k v).ctqs = s.ctqs ∧
    (s.setBd k v).ptrs = s.ptrs ∧
    (s.setBd k v).cells = s.cells ∧
    (s.setBd k v).frames = s.frames ∧
    (s.setBd k v).nextFid = s.nextFid ∧
    (s.setBd k v).nextValid = s.nextValid ∧
    (s.setBd k v).charged = s.charged ∧
    (s.setBd k v).avg = s.avg ∧
    (s.setBd k v).lfsr = s.lfsr ∧
    (s.setBd k v).buckets = s.buckets ∧
    (s.setBd k v).cqHeld = s.cqHeld ∧
    (s.setBd k v).lowCond = s.lowCond ∧
    (s.setBd k v).chargeSeen = s.chargeSeen ∧
    (s.setBd k v).sweepAt = s.sweepAt ∧
    (s.setBd k v).sqs = s.sqs ∧
    (s.setBd k v).cqs = s.cqs ∧
    (s.setBd k v).funcs = s.funcs ∧
    (s.setBd k v).held = s.held ∧
    (s.setBd k v).srcs = s.srcs ∧
    (s.setBd k v).tgts = s.tgts ∧
    (s.setBd k v).mor = s.mor ∧
    (s.setBd k v).stack = s.stack ∧
    (s.setBd k v).eths = s.eths ∧
    (s.setBd k v).snow = s.snow ∧
    (s.setBd k v).power = s.power ∧
    (s.setBd k v).boot = s.boot ∧
    (s.setBd k v).poison = s.poison ∧
    (s.setBd k v).engs = s.engs := by
  refine ⟨rfl, rfl, rfl, rfl, rfl, rfl, rfl, rfl, rfl, rfl, rfl, rfl, rfl, rfl, rfl, rfl, rfl, rfl, rfl, rfl, rfl, rfl, rfl, rfl, rfl, rfl, rfl, rfl, rfl, rfl, rfl, rfl, rfl, rfl, rfl, rfl, rfl, rfl, rfl, rfl, rfl, rfl, rfl, rfl, rfl, rfl, rfl, rfl, rfl, rfl, rfl, rfl, rfl, rfl, rfl, rfl, rfl⟩

@[simp] theorem State.setBd_same (s : State) (k : Nat) (v : Nat) : (s.setBd k v).bd k = v :=
  Tab.get_put_same _ _ _ _

theorem State.setBd_other (s : State) (k j : Nat) (v : Nat) (h : j ≠ k) : (s.setBd k v).bd j = s.bd j :=
  Tab.get_put_other _ _ _ _ _ h

@[simp] theorem State.setCache_frame (s : State) (k : Nat) (v : FltCache) :
    (s.setCache k v).pending = s.pending ∧
    (s.setCache k v).free = s.free ∧
    (s.setCache k v).readData = s.readData ∧
    (s.setCache k v).now = s.now ∧
    (s.setCache k v).regs = s.regs ∧
    (s.setCache k v).mem = s.mem ∧
    (s.setCache k v).hostMem0 = s.hostMem0 ∧
    (s.setCache k v).hostMem1 = s.hostMem1 ∧
    (s.setCache k v).tbs = s.tbs ∧
    (s.setCache k v).tbCap = s.tbCap ∧
    (s.setCache k v).timeUp = s.timeUp ∧
    (s.setCache k v).timeDist = s.timeDist ∧
    (s.setCache k v).bdq = s.bdq ∧
    (s.setCache k v).lanes = s.lanes ∧
    (s.setCache k v).pins = s.pins ∧
    (s.setCache k v).buses = s.buses ∧
    (s.setCache k v).txTurn = s.txTurn ∧
    (s.setCache k v).nextEnt = s.nextEnt ∧
    (s.setCache k v).nextDone = s.nextDone ∧
    (s.setCache k v).fetched = s.fetched ∧
    (s.setCache k v).seWait = s.seWait ∧
    (s.setCache k v).objs = s.objs ∧
    (s.setCache k v).fltLoads = s.fltLoads ∧
    (s.setCache k v).rtLoad = s.rtLoad ∧
    (s.setCache k v).polLoad = s.polLoad ∧
    (s.setCache k v).routeGen = s.routeGen ∧
    (s.setCache k v).kills = s.kills ∧
    (s.setCache k v).killDue = s.killDue ∧
    (s.setCache k v).voqs = s.voqs ∧
    (s.setCache k v).ctqs = s.ctqs ∧
    (s.setCache k v).ptrs = s.ptrs ∧
    (s.setCache k v).cells = s.cells ∧
    (s.setCache k v).frames = s.frames ∧
    (s.setCache k v).nextFid = s.nextFid ∧
    (s.setCache k v).nextValid = s.nextValid ∧
    (s.setCache k v).charged = s.charged ∧
    (s.setCache k v).avg = s.avg ∧
    (s.setCache k v).lfsr = s.lfsr ∧
    (s.setCache k v).buckets = s.buckets ∧
    (s.setCache k v).cqHeld = s.cqHeld ∧
    (s.setCache k v).lowCond = s.lowCond ∧
    (s.setCache k v).chargeSeen = s.chargeSeen ∧
    (s.setCache k v).sweepAt = s.sweepAt ∧
    (s.setCache k v).sqs = s.sqs ∧
    (s.setCache k v).cqs = s.cqs ∧
    (s.setCache k v).funcs = s.funcs ∧
    (s.setCache k v).held = s.held ∧
    (s.setCache k v).srcs = s.srcs ∧
    (s.setCache k v).tgts = s.tgts ∧
    (s.setCache k v).mor = s.mor ∧
    (s.setCache k v).stack = s.stack ∧
    (s.setCache k v).eths = s.eths ∧
    (s.setCache k v).snow = s.snow ∧
    (s.setCache k v).power = s.power ∧
    (s.setCache k v).boot = s.boot ∧
    (s.setCache k v).poison = s.poison ∧
    (s.setCache k v).engs = s.engs := by
  refine ⟨rfl, rfl, rfl, rfl, rfl, rfl, rfl, rfl, rfl, rfl, rfl, rfl, rfl, rfl, rfl, rfl, rfl, rfl, rfl, rfl, rfl, rfl, rfl, rfl, rfl, rfl, rfl, rfl, rfl, rfl, rfl, rfl, rfl, rfl, rfl, rfl, rfl, rfl, rfl, rfl, rfl, rfl, rfl, rfl, rfl, rfl, rfl, rfl, rfl, rfl, rfl, rfl, rfl, rfl, rfl, rfl, rfl⟩

@[simp] theorem State.setCache_same (s : State) (k : Nat) (v : FltCache) : (s.setCache k v).cache k = v :=
  Tab.get_put_same _ _ _ _

theorem State.setCache_other (s : State) (k j : Nat) (v : FltCache) (h : j ≠ k) : (s.setCache k v).cache j = s.cache j :=
  Tab.get_put_other _ _ _ _ _ h

@[simp] theorem State.setTurn_frame (s : State) (k : Nat) (v : Nat) :
    (s.setTurn k v).pending = s.pending ∧
    (s.setTurn k v).free = s.free ∧
    (s.setTurn k v).readData = s.readData ∧
    (s.setTurn k v).now = s.now ∧
    (s.setTurn k v).regs = s.regs ∧
    (s.setTurn k v).mem = s.mem ∧
    (s.setTurn k v).hostMem0 = s.hostMem0 ∧
    (s.setTurn k v).hostMem1 = s.hostMem1 ∧
    (s.setTurn k v).tbs = s.tbs ∧
    (s.setTurn k v).tbCap = s.tbCap ∧
    (s.setTurn k v).timeUp = s.timeUp ∧
    (s.setTurn k v).timeDist = s.timeDist ∧
    (s.setTurn k v).bdq = s.bdq ∧
    (s.setTurn k v).lanes = s.lanes ∧
    (s.setTurn k v).pins = s.pins ∧
    (s.setTurn k v).buses = s.buses ∧
    (s.setTurn k v).nextEnt = s.nextEnt ∧
    (s.setTurn k v).nextDone = s.nextDone ∧
    (s.setTurn k v).fetched = s.fetched ∧
    (s.setTurn k v).seWait = s.seWait ∧
    (s.setTurn k v).objs = s.objs ∧
    (s.setTurn k v).fltLoads = s.fltLoads ∧
    (s.setTurn k v).caches = s.caches ∧
    (s.setTurn k v).rtLoad = s.rtLoad ∧
    (s.setTurn k v).polLoad = s.polLoad ∧
    (s.setTurn k v).routeGen = s.routeGen ∧
    (s.setTurn k v).kills = s.kills ∧
    (s.setTurn k v).killDue = s.killDue ∧
    (s.setTurn k v).voqs = s.voqs ∧
    (s.setTurn k v).ctqs = s.ctqs ∧
    (s.setTurn k v).ptrs = s.ptrs ∧
    (s.setTurn k v).cells = s.cells ∧
    (s.setTurn k v).frames = s.frames ∧
    (s.setTurn k v).nextFid = s.nextFid ∧
    (s.setTurn k v).nextValid = s.nextValid ∧
    (s.setTurn k v).charged = s.charged ∧
    (s.setTurn k v).avg = s.avg ∧
    (s.setTurn k v).lfsr = s.lfsr ∧
    (s.setTurn k v).buckets = s.buckets ∧
    (s.setTurn k v).cqHeld = s.cqHeld ∧
    (s.setTurn k v).lowCond = s.lowCond ∧
    (s.setTurn k v).chargeSeen = s.chargeSeen ∧
    (s.setTurn k v).sweepAt = s.sweepAt ∧
    (s.setTurn k v).sqs = s.sqs ∧
    (s.setTurn k v).cqs = s.cqs ∧
    (s.setTurn k v).funcs = s.funcs ∧
    (s.setTurn k v).held = s.held ∧
    (s.setTurn k v).srcs = s.srcs ∧
    (s.setTurn k v).tgts = s.tgts ∧
    (s.setTurn k v).mor = s.mor ∧
    (s.setTurn k v).stack = s.stack ∧
    (s.setTurn k v).eths = s.eths ∧
    (s.setTurn k v).snow = s.snow ∧
    (s.setTurn k v).power = s.power ∧
    (s.setTurn k v).boot = s.boot ∧
    (s.setTurn k v).poison = s.poison ∧
    (s.setTurn k v).engs = s.engs := by
  refine ⟨rfl, rfl, rfl, rfl, rfl, rfl, rfl, rfl, rfl, rfl, rfl, rfl, rfl, rfl, rfl, rfl, rfl, rfl, rfl, rfl, rfl, rfl, rfl, rfl, rfl, rfl, rfl, rfl, rfl, rfl, rfl, rfl, rfl, rfl, rfl, rfl, rfl, rfl, rfl, rfl, rfl, rfl, rfl, rfl, rfl, rfl, rfl, rfl, rfl, rfl, rfl, rfl, rfl, rfl, rfl, rfl, rfl⟩

@[simp] theorem State.setTurn_same (s : State) (k : Nat) (v : Nat) : (s.setTurn k v).turn k = v :=
  Tab.get_put_same _ _ _ _

theorem State.setTurn_other (s : State) (k j : Nat) (v : Nat) (h : j ≠ k) : (s.setTurn k v).turn j = s.turn j :=
  Tab.get_put_other _ _ _ _ _ h

@[simp] theorem State.setCap_frame (s : State) (k : Nat) (v : Nat × Nat) :
    (s.setCap k v).pending = s.pending ∧
    (s.setCap k v).free = s.free ∧
    (s.setCap k v).readData = s.readData ∧
    (s.setCap k v).now = s.now ∧
    (s.setCap k v).regs = s.regs ∧
    (s.setCap k v).mem = s.mem ∧
    (s.setCap k v).hostMem0 = s.hostMem0 ∧
    (s.setCap k v).hostMem1 = s.hostMem1 ∧
    (s.setCap k v).tbs = s.tbs ∧
    (s.setCap k v).timeUp = s.timeUp ∧
    (s.setCap k v).timeDist = s.timeDist ∧
    (s.setCap k v).bdq = s.bdq ∧
    (s.setCap k v).lanes = s.lanes ∧
    (s.setCap k v).pins = s.pins ∧
    (s.setCap k v).buses = s.buses ∧
    (s.setCap k v).txTurn = s.txTurn ∧
    (s.setCap k v).nextEnt = s.nextEnt ∧
    (s.setCap k v).nextDone = s.nextDone ∧
    (s.setCap k v).fetched = s.fetched ∧
    (s.setCap k v).seWait = s.seWait ∧
    (s.setCap k v).objs = s.objs ∧
    (s.setCap k v).fltLoads = s.fltLoads ∧
    (s.setCap k v).caches = s.caches ∧
    (s.setCap k v).rtLoad = s.rtLoad ∧
    (s.setCap k v).polLoad = s.polLoad ∧
    (s.setCap k v).routeGen = s.routeGen ∧
    (s.setCap k v).kills = s.kills ∧
    (s.setCap k v).killDue = s.killDue ∧
    (s.setCap k v).voqs = s.voqs ∧
    (s.setCap k v).ctqs = s.ctqs ∧
    (s.setCap k v).ptrs = s.ptrs ∧
    (s.setCap k v).cells = s.cells ∧
    (s.setCap k v).frames = s.frames ∧
    (s.setCap k v).nextFid = s.nextFid ∧
    (s.setCap k v).nextValid = s.nextValid ∧
    (s.setCap k v).charged = s.charged ∧
    (s.setCap k v).avg = s.avg ∧
    (s.setCap k v).lfsr = s.lfsr ∧
    (s.setCap k v).buckets = s.buckets ∧
    (s.setCap k v).cqHeld = s.cqHeld ∧
    (s.setCap k v).lowCond = s.lowCond ∧
    (s.setCap k v).chargeSeen = s.chargeSeen ∧
    (s.setCap k v).sweepAt = s.sweepAt ∧
    (s.setCap k v).sqs = s.sqs ∧
    (s.setCap k v).cqs = s.cqs ∧
    (s.setCap k v).funcs = s.funcs ∧
    (s.setCap k v).held = s.held ∧
    (s.setCap k v).srcs = s.srcs ∧
    (s.setCap k v).tgts = s.tgts ∧
    (s.setCap k v).mor = s.mor ∧
    (s.setCap k v).stack = s.stack ∧
    (s.setCap k v).eths = s.eths ∧
    (s.setCap k v).snow = s.snow ∧
    (s.setCap k v).power = s.power ∧
    (s.setCap k v).boot = s.boot ∧
    (s.setCap k v).poison = s.poison ∧
    (s.setCap k v).engs = s.engs := by
  refine ⟨rfl, rfl, rfl, rfl, rfl, rfl, rfl, rfl, rfl, rfl, rfl, rfl, rfl, rfl, rfl, rfl, rfl, rfl, rfl, rfl, rfl, rfl, rfl, rfl, rfl, rfl, rfl, rfl, rfl, rfl, rfl, rfl, rfl, rfl, rfl, rfl, rfl, rfl, rfl, rfl, rfl, rfl, rfl, rfl, rfl, rfl, rfl, rfl, rfl, rfl, rfl, rfl, rfl, rfl, rfl, rfl, rfl⟩

@[simp] theorem State.setCap_same (s : State) (k : Nat) (v : Nat × Nat) : (s.setCap k v).cap k = v :=
  Tab.get_put_same _ _ _ _

theorem State.setCap_other (s : State) (k j : Nat) (v : Nat × Nat) (h : j ≠ k) : (s.setCap k v).cap j = s.cap j :=
  Tab.get_put_other _ _ _ _ _ h

@[simp] theorem State.withKills_frame (s : State) (v : Tab Nat) :
    (s.withKills v).pending = s.pending ∧
    (s.withKills v).free = s.free ∧
    (s.withKills v).readData = s.readData ∧
    (s.withKills v).now = s.now ∧
    (s.withKills v).regs = s.regs ∧
    (s.withKills v).mem = s.mem ∧
    (s.withKills v).hostMem0 = s.hostMem0 ∧
    (s.withKills v).hostMem1 = s.hostMem1 ∧
    (s.withKills v).tbs = s.tbs ∧
    (s.withKills v).tbCap = s.tbCap ∧
    (s.withKills v).timeUp = s.timeUp ∧
    (s.withKills v).timeDist = s.timeDist ∧
    (s.withKills v).bdq = s.bdq ∧
    (s.withKills v).lanes = s.lanes ∧
    (s.withKills v).pins = s.pins ∧
    (s.withKills v).buses = s.buses ∧
    (s.withKills v).txTurn = s.txTurn ∧
    (s.withKills v).nextEnt = s.nextEnt ∧
    (s.withKills v).nextDone = s.nextDone ∧
    (s.withKills v).fetched = s.fetched ∧
    (s.withKills v).seWait = s.seWait ∧
    (s.withKills v).objs = s.objs ∧
    (s.withKills v).fltLoads = s.fltLoads ∧
    (s.withKills v).caches = s.caches ∧
    (s.withKills v).rtLoad = s.rtLoad ∧
    (s.withKills v).polLoad = s.polLoad ∧
    (s.withKills v).routeGen = s.routeGen ∧
    (s.withKills v).killDue = s.killDue ∧
    (s.withKills v).voqs = s.voqs ∧
    (s.withKills v).ctqs = s.ctqs ∧
    (s.withKills v).ptrs = s.ptrs ∧
    (s.withKills v).cells = s.cells ∧
    (s.withKills v).frames = s.frames ∧
    (s.withKills v).nextFid = s.nextFid ∧
    (s.withKills v).nextValid = s.nextValid ∧
    (s.withKills v).charged = s.charged ∧
    (s.withKills v).avg = s.avg ∧
    (s.withKills v).lfsr = s.lfsr ∧
    (s.withKills v).buckets = s.buckets ∧
    (s.withKills v).cqHeld = s.cqHeld ∧
    (s.withKills v).lowCond = s.lowCond ∧
    (s.withKills v).chargeSeen = s.chargeSeen ∧
    (s.withKills v).sweepAt = s.sweepAt ∧
    (s.withKills v).sqs = s.sqs ∧
    (s.withKills v).cqs = s.cqs ∧
    (s.withKills v).funcs = s.funcs ∧
    (s.withKills v).held = s.held ∧
    (s.withKills v).srcs = s.srcs ∧
    (s.withKills v).tgts = s.tgts ∧
    (s.withKills v).mor = s.mor ∧
    (s.withKills v).stack = s.stack ∧
    (s.withKills v).eths = s.eths ∧
    (s.withKills v).snow = s.snow ∧
    (s.withKills v).power = s.power ∧
    (s.withKills v).boot = s.boot ∧
    (s.withKills v).poison = s.poison ∧
    (s.withKills v).engs = s.engs := by
  refine ⟨rfl, rfl, rfl, rfl, rfl, rfl, rfl, rfl, rfl, rfl, rfl, rfl, rfl, rfl, rfl, rfl, rfl, rfl, rfl, rfl, rfl, rfl, rfl, rfl, rfl, rfl, rfl, rfl, rfl, rfl, rfl, rfl, rfl, rfl, rfl, rfl, rfl, rfl, rfl, rfl, rfl, rfl, rfl, rfl, rfl, rfl, rfl, rfl, rfl, rfl, rfl, rfl, rfl, rfl, rfl, rfl, rfl⟩

@[simp] theorem State.kills_withKills (s : State) (v : Tab Nat) : (s.withKills v).kills = v := rfl

@[simp] theorem State.reg_withKills (s : State) (v : Tab Nat) (a : Nat) : (s.withKills v).reg a = s.reg a := rfl

@[simp] theorem State.f_withKills (s : State) (v : Tab Nat) (x : Fld) : (s.withKills v).f x = s.f x := rfl

@[simp] theorem State.withNextDone_frame (s : State) (v : Nat) :
    (s.withNextDone v).pending = s.pending ∧
    (s.withNextDone v).free = s.free ∧
    (s.withNextDone v).readData = s.readData ∧
    (s.withNextDone v).now = s.now ∧
    (s.withNextDone v).regs = s.regs ∧
    (s.withNextDone v).mem = s.mem ∧
    (s.withNextDone v).hostMem0 = s.hostMem0 ∧
    (s.withNextDone v).hostMem1 = s.hostMem1 ∧
    (s.withNextDone v).tbs = s.tbs ∧
    (s.withNextDone v).tbCap = s.tbCap ∧
    (s.withNextDone v).timeUp = s.timeUp ∧
    (s.withNextDone v).timeDist = s.timeDist ∧
    (s.withNextDone v).bdq = s.bdq ∧
    (s.withNextDone v).lanes = s.lanes ∧
    (s.withNextDone v).pins = s.pins ∧
    (s.withNextDone v).buses = s.buses ∧
    (s.withNextDone v).txTurn = s.txTurn ∧
    (s.withNextDone v).nextEnt = s.nextEnt ∧
    (s.withNextDone v).fetched = s.fetched ∧
    (s.withNextDone v).seWait = s.seWait ∧
    (s.withNextDone v).objs = s.objs ∧
    (s.withNextDone v).fltLoads = s.fltLoads ∧
    (s.withNextDone v).caches = s.caches ∧
    (s.withNextDone v).rtLoad = s.rtLoad ∧
    (s.withNextDone v).polLoad = s.polLoad ∧
    (s.withNextDone v).routeGen = s.routeGen ∧
    (s.withNextDone v).kills = s.kills ∧
    (s.withNextDone v).killDue = s.killDue ∧
    (s.withNextDone v).voqs = s.voqs ∧
    (s.withNextDone v).ctqs = s.ctqs ∧
    (s.withNextDone v).ptrs = s.ptrs ∧
    (s.withNextDone v).cells = s.cells ∧
    (s.withNextDone v).frames = s.frames ∧
    (s.withNextDone v).nextFid = s.nextFid ∧
    (s.withNextDone v).nextValid = s.nextValid ∧
    (s.withNextDone v).charged = s.charged ∧
    (s.withNextDone v).avg = s.avg ∧
    (s.withNextDone v).lfsr = s.lfsr ∧
    (s.withNextDone v).buckets = s.buckets ∧
    (s.withNextDone v).cqHeld = s.cqHeld ∧
    (s.withNextDone v).lowCond = s.lowCond ∧
    (s.withNextDone v).chargeSeen = s.chargeSeen ∧
    (s.withNextDone v).sweepAt = s.sweepAt ∧
    (s.withNextDone v).sqs = s.sqs ∧
    (s.withNextDone v).cqs = s.cqs ∧
    (s.withNextDone v).funcs = s.funcs ∧
    (s.withNextDone v).held = s.held ∧
    (s.withNextDone v).srcs = s.srcs ∧
    (s.withNextDone v).tgts = s.tgts ∧
    (s.withNextDone v).mor = s.mor ∧
    (s.withNextDone v).stack = s.stack ∧
    (s.withNextDone v).eths = s.eths ∧
    (s.withNextDone v).snow = s.snow ∧
    (s.withNextDone v).power = s.power ∧
    (s.withNextDone v).boot = s.boot ∧
    (s.withNextDone v).poison = s.poison ∧
    (s.withNextDone v).engs = s.engs := by
  refine ⟨rfl, rfl, rfl, rfl, rfl, rfl, rfl, rfl, rfl, rfl, rfl, rfl, rfl, rfl, rfl, rfl, rfl, rfl, rfl, rfl, rfl, rfl, rfl, rfl, rfl, rfl, rfl, rfl, rfl, rfl, rfl, rfl, rfl, rfl, rfl, rfl, rfl, rfl, rfl, rfl, rfl, rfl, rfl, rfl, rfl, rfl, rfl, rfl, rfl, rfl, rfl, rfl, rfl, rfl, rfl, rfl, rfl⟩

@[simp] theorem State.nextDone_withNextDone (s : State) (v : Nat) : (s.withNextDone v).nextDone = v := rfl

@[simp] theorem State.reg_withNextDone (s : State) (v : Nat) (a : Nat) : (s.withNextDone v).reg a = s.reg a := rfl

@[simp] theorem State.f_withNextDone (s : State) (v : Nat) (x : Fld) : (s.withNextDone v).f x = s.f x := rfl

@[simp] theorem State.withSweepAt_frame (s : State) (v : Nat) :
    (s.withSweepAt v).pending = s.pending ∧
    (s.withSweepAt v).free = s.free ∧
    (s.withSweepAt v).readData = s.readData ∧
    (s.withSweepAt v).now = s.now ∧
    (s.withSweepAt v).regs = s.regs ∧
    (s.withSweepAt v).mem = s.mem ∧
    (s.withSweepAt v).hostMem0 = s.hostMem0 ∧
    (s.withSweepAt v).hostMem1 = s.hostMem1 ∧
    (s.withSweepAt v).tbs = s.tbs ∧
    (s.withSweepAt v).tbCap = s.tbCap ∧
    (s.withSweepAt v).timeUp = s.timeUp ∧
    (s.withSweepAt v).timeDist = s.timeDist ∧
    (s.withSweepAt v).bdq = s.bdq ∧
    (s.withSweepAt v).lanes = s.lanes ∧
    (s.withSweepAt v).pins = s.pins ∧
    (s.withSweepAt v).buses = s.buses ∧
    (s.withSweepAt v).txTurn = s.txTurn ∧
    (s.withSweepAt v).nextEnt = s.nextEnt ∧
    (s.withSweepAt v).nextDone = s.nextDone ∧
    (s.withSweepAt v).fetched = s.fetched ∧
    (s.withSweepAt v).seWait = s.seWait ∧
    (s.withSweepAt v).objs = s.objs ∧
    (s.withSweepAt v).fltLoads = s.fltLoads ∧
    (s.withSweepAt v).caches = s.caches ∧
    (s.withSweepAt v).rtLoad = s.rtLoad ∧
    (s.withSweepAt v).polLoad = s.polLoad ∧
    (s.withSweepAt v).routeGen = s.routeGen ∧
    (s.withSweepAt v).kills = s.kills ∧
    (s.withSweepAt v).killDue = s.killDue ∧
    (s.withSweepAt v).voqs = s.voqs ∧
    (s.withSweepAt v).ctqs = s.ctqs ∧
    (s.withSweepAt v).ptrs = s.ptrs ∧
    (s.withSweepAt v).cells = s.cells ∧
    (s.withSweepAt v).frames = s.frames ∧
    (s.withSweepAt v).nextFid = s.nextFid ∧
    (s.withSweepAt v).nextValid = s.nextValid ∧
    (s.withSweepAt v).charged = s.charged ∧
    (s.withSweepAt v).avg = s.avg ∧
    (s.withSweepAt v).lfsr = s.lfsr ∧
    (s.withSweepAt v).buckets = s.buckets ∧
    (s.withSweepAt v).cqHeld = s.cqHeld ∧
    (s.withSweepAt v).lowCond = s.lowCond ∧
    (s.withSweepAt v).chargeSeen = s.chargeSeen ∧
    (s.withSweepAt v).sqs = s.sqs ∧
    (s.withSweepAt v).cqs = s.cqs ∧
    (s.withSweepAt v).funcs = s.funcs ∧
    (s.withSweepAt v).held = s.held ∧
    (s.withSweepAt v).srcs = s.srcs ∧
    (s.withSweepAt v).tgts = s.tgts ∧
    (s.withSweepAt v).mor = s.mor ∧
    (s.withSweepAt v).stack = s.stack ∧
    (s.withSweepAt v).eths = s.eths ∧
    (s.withSweepAt v).snow = s.snow ∧
    (s.withSweepAt v).power = s.power ∧
    (s.withSweepAt v).boot = s.boot ∧
    (s.withSweepAt v).poison = s.poison ∧
    (s.withSweepAt v).engs = s.engs := by
  refine ⟨rfl, rfl, rfl, rfl, rfl, rfl, rfl, rfl, rfl, rfl, rfl, rfl, rfl, rfl, rfl, rfl, rfl, rfl, rfl, rfl, rfl, rfl, rfl, rfl, rfl, rfl, rfl, rfl, rfl, rfl, rfl, rfl, rfl, rfl, rfl, rfl, rfl, rfl, rfl, rfl, rfl, rfl, rfl, rfl, rfl, rfl, rfl, rfl, rfl, rfl, rfl, rfl, rfl, rfl, rfl, rfl, rfl⟩

@[simp] theorem State.sweepAt_withSweepAt (s : State) (v : Nat) : (s.withSweepAt v).sweepAt = v := rfl

@[simp] theorem State.reg_withSweepAt (s : State) (v : Nat) (a : Nat) : (s.withSweepAt v).reg a = s.reg a := rfl

@[simp] theorem State.f_withSweepAt (s : State) (v : Nat) (x : Fld) : (s.withSweepAt v).f x = s.f x := rfl

@[simp] theorem State.withNextValid_frame (s : State) (v : Nat) :
    (s.withNextValid v).pending = s.pending ∧
    (s.withNextValid v).free = s.free ∧
    (s.withNextValid v).readData = s.readData ∧
    (s.withNextValid v).now = s.now ∧
    (s.withNextValid v).regs = s.regs ∧
    (s.withNextValid v).mem = s.mem ∧
    (s.withNextValid v).hostMem0 = s.hostMem0 ∧
    (s.withNextValid v).hostMem1 = s.hostMem1 ∧
    (s.withNextValid v).tbs = s.tbs ∧
    (s.withNextValid v).tbCap = s.tbCap ∧
    (s.withNextValid v).timeUp = s.timeUp ∧
    (s.withNextValid v).timeDist = s.timeDist ∧
    (s.withNextValid v).bdq = s.bdq ∧
    (s.withNextValid v).lanes = s.lanes ∧
    (s.withNextValid v).pins = s.pins ∧
    (s.withNextValid v).buses = s.buses ∧
    (s.withNextValid v).txTurn = s.txTurn ∧
    (s.withNextValid v).nextEnt = s.nextEnt ∧
    (s.withNextValid v).nextDone = s.nextDone ∧
    (s.withNextValid v).fetched = s.fetched ∧
    (s.withNextValid v).seWait = s.seWait ∧
    (s.withNextValid v).objs = s.objs ∧
    (s.withNextValid v).fltLoads = s.fltLoads ∧
    (s.withNextValid v).caches = s.caches ∧
    (s.withNextValid v).rtLoad = s.rtLoad ∧
    (s.withNextValid v).polLoad = s.polLoad ∧
    (s.withNextValid v).routeGen = s.routeGen ∧
    (s.withNextValid v).kills = s.kills ∧
    (s.withNextValid v).killDue = s.killDue ∧
    (s.withNextValid v).voqs = s.voqs ∧
    (s.withNextValid v).ctqs = s.ctqs ∧
    (s.withNextValid v).ptrs = s.ptrs ∧
    (s.withNextValid v).cells = s.cells ∧
    (s.withNextValid v).frames = s.frames ∧
    (s.withNextValid v).nextFid = s.nextFid ∧
    (s.withNextValid v).charged = s.charged ∧
    (s.withNextValid v).avg = s.avg ∧
    (s.withNextValid v).lfsr = s.lfsr ∧
    (s.withNextValid v).buckets = s.buckets ∧
    (s.withNextValid v).cqHeld = s.cqHeld ∧
    (s.withNextValid v).lowCond = s.lowCond ∧
    (s.withNextValid v).chargeSeen = s.chargeSeen ∧
    (s.withNextValid v).sweepAt = s.sweepAt ∧
    (s.withNextValid v).sqs = s.sqs ∧
    (s.withNextValid v).cqs = s.cqs ∧
    (s.withNextValid v).funcs = s.funcs ∧
    (s.withNextValid v).held = s.held ∧
    (s.withNextValid v).srcs = s.srcs ∧
    (s.withNextValid v).tgts = s.tgts ∧
    (s.withNextValid v).mor = s.mor ∧
    (s.withNextValid v).stack = s.stack ∧
    (s.withNextValid v).eths = s.eths ∧
    (s.withNextValid v).snow = s.snow ∧
    (s.withNextValid v).power = s.power ∧
    (s.withNextValid v).boot = s.boot ∧
    (s.withNextValid v).poison = s.poison ∧
    (s.withNextValid v).engs = s.engs := by
  refine ⟨rfl, rfl, rfl, rfl, rfl, rfl, rfl, rfl, rfl, rfl, rfl, rfl, rfl, rfl, rfl, rfl, rfl, rfl, rfl, rfl, rfl, rfl, rfl, rfl, rfl, rfl, rfl, rfl, rfl, rfl, rfl, rfl, rfl, rfl, rfl, rfl, rfl, rfl, rfl, rfl, rfl, rfl, rfl, rfl, rfl, rfl, rfl, rfl, rfl, rfl, rfl, rfl, rfl, rfl, rfl, rfl, rfl⟩

@[simp] theorem State.nextValid_withNextValid (s : State) (v : Nat) : (s.withNextValid v).nextValid = v := rfl

@[simp] theorem State.reg_withNextValid (s : State) (v : Nat) (a : Nat) : (s.withNextValid v).reg a = s.reg a := rfl

@[simp] theorem State.f_withNextValid (s : State) (v : Nat) (x : Fld) : (s.withNextValid v).f x = s.f x := rfl

@[simp] theorem State.withTimeUp_frame (s : State) (v : Bool) :
    (s.withTimeUp v).pending = s.pending ∧
    (s.withTimeUp v).free = s.free ∧
    (s.withTimeUp v).readData = s.readData ∧
    (s.withTimeUp v).now = s.now ∧
    (s.withTimeUp v).regs = s.regs ∧
    (s.withTimeUp v).mem = s.mem ∧
    (s.withTimeUp v).hostMem0 = s.hostMem0 ∧
    (s.withTimeUp v).hostMem1 = s.hostMem1 ∧
    (s.withTimeUp v).tbs = s.tbs ∧
    (s.withTimeUp v).tbCap = s.tbCap ∧
    (s.withTimeUp v).timeDist = s.timeDist ∧
    (s.withTimeUp v).bdq = s.bdq ∧
    (s.withTimeUp v).lanes = s.lanes ∧
    (s.withTimeUp v).pins = s.pins ∧
    (s.withTimeUp v).buses = s.buses ∧
    (s.withTimeUp v).txTurn = s.txTurn ∧
    (s.withTimeUp v).nextEnt = s.nextEnt ∧
    (s.withTimeUp v).nextDone = s.nextDone ∧
    (s.withTimeUp v).fetched = s.fetched ∧
    (s.withTimeUp v).seWait = s.seWait ∧
    (s.withTimeUp v).objs = s.objs ∧
    (s.withTimeUp v).fltLoads = s.fltLoads ∧
    (s.withTimeUp v).caches = s.caches ∧
    (s.withTimeUp v).rtLoad = s.rtLoad ∧
    (s.withTimeUp v).polLoad = s.polLoad ∧
    (s.withTimeUp v).routeGen = s.routeGen ∧
    (s.withTimeUp v).kills = s.kills ∧
    (s.withTimeUp v).killDue = s.killDue ∧
    (s.withTimeUp v).voqs = s.voqs ∧
    (s.withTimeUp v).ctqs = s.ctqs ∧
    (s.withTimeUp v).ptrs = s.ptrs ∧
    (s.withTimeUp v).cells = s.cells ∧
    (s.withTimeUp v).frames = s.frames ∧
    (s.withTimeUp v).nextFid = s.nextFid ∧
    (s.withTimeUp v).nextValid = s.nextValid ∧
    (s.withTimeUp v).charged = s.charged ∧
    (s.withTimeUp v).avg = s.avg ∧
    (s.withTimeUp v).lfsr = s.lfsr ∧
    (s.withTimeUp v).buckets = s.buckets ∧
    (s.withTimeUp v).cqHeld = s.cqHeld ∧
    (s.withTimeUp v).lowCond = s.lowCond ∧
    (s.withTimeUp v).chargeSeen = s.chargeSeen ∧
    (s.withTimeUp v).sweepAt = s.sweepAt ∧
    (s.withTimeUp v).sqs = s.sqs ∧
    (s.withTimeUp v).cqs = s.cqs ∧
    (s.withTimeUp v).funcs = s.funcs ∧
    (s.withTimeUp v).held = s.held ∧
    (s.withTimeUp v).srcs = s.srcs ∧
    (s.withTimeUp v).tgts = s.tgts ∧
    (s.withTimeUp v).mor = s.mor ∧
    (s.withTimeUp v).stack = s.stack ∧
    (s.withTimeUp v).eths = s.eths ∧
    (s.withTimeUp v).snow = s.snow ∧
    (s.withTimeUp v).power = s.power ∧
    (s.withTimeUp v).boot = s.boot ∧
    (s.withTimeUp v).poison = s.poison ∧
    (s.withTimeUp v).engs = s.engs := by
  refine ⟨rfl, rfl, rfl, rfl, rfl, rfl, rfl, rfl, rfl, rfl, rfl, rfl, rfl, rfl, rfl, rfl, rfl, rfl, rfl, rfl, rfl, rfl, rfl, rfl, rfl, rfl, rfl, rfl, rfl, rfl, rfl, rfl, rfl, rfl, rfl, rfl, rfl, rfl, rfl, rfl, rfl, rfl, rfl, rfl, rfl, rfl, rfl, rfl, rfl, rfl, rfl, rfl, rfl, rfl, rfl, rfl, rfl⟩

@[simp] theorem State.timeUp_withTimeUp (s : State) (v : Bool) : (s.withTimeUp v).timeUp = v := rfl

@[simp] theorem State.reg_withTimeUp (s : State) (v : Bool) (a : Nat) : (s.withTimeUp v).reg a = s.reg a := rfl

@[simp] theorem State.f_withTimeUp (s : State) (v : Bool) (x : Fld) : (s.withTimeUp v).f x = s.f x := rfl

@[simp] theorem State.withTimeDist_frame (s : State) (v : Bool) :
    (s.withTimeDist v).pending = s.pending ∧
    (s.withTimeDist v).free = s.free ∧
    (s.withTimeDist v).readData = s.readData ∧
    (s.withTimeDist v).now = s.now ∧
    (s.withTimeDist v).regs = s.regs ∧
    (s.withTimeDist v).mem = s.mem ∧
    (s.withTimeDist v).hostMem0 = s.hostMem0 ∧
    (s.withTimeDist v).hostMem1 = s.hostMem1 ∧
    (s.withTimeDist v).tbs = s.tbs ∧
    (s.withTimeDist v).tbCap = s.tbCap ∧
    (s.withTimeDist v).timeUp = s.timeUp ∧
    (s.withTimeDist v).bdq = s.bdq ∧
    (s.withTimeDist v).lanes = s.lanes ∧
    (s.withTimeDist v).pins = s.pins ∧
    (s.withTimeDist v).buses = s.buses ∧
    (s.withTimeDist v).txTurn = s.txTurn ∧
    (s.withTimeDist v).nextEnt = s.nextEnt ∧
    (s.withTimeDist v).nextDone = s.nextDone ∧
    (s.withTimeDist v).fetched = s.fetched ∧
    (s.withTimeDist v).seWait = s.seWait ∧
    (s.withTimeDist v).objs = s.objs ∧
    (s.withTimeDist v).fltLoads = s.fltLoads ∧
    (s.withTimeDist v).caches = s.caches ∧
    (s.withTimeDist v).rtLoad = s.rtLoad ∧
    (s.withTimeDist v).polLoad = s.polLoad ∧
    (s.withTimeDist v).routeGen = s.routeGen ∧
    (s.withTimeDist v).kills = s.kills ∧
    (s.withTimeDist v).killDue = s.killDue ∧
    (s.withTimeDist v).voqs = s.voqs ∧
    (s.withTimeDist v).ctqs = s.ctqs ∧
    (s.withTimeDist v).ptrs = s.ptrs ∧
    (s.withTimeDist v).cells = s.cells ∧
    (s.withTimeDist v).frames = s.frames ∧
    (s.withTimeDist v).nextFid = s.nextFid ∧
    (s.withTimeDist v).nextValid = s.nextValid ∧
    (s.withTimeDist v).charged = s.charged ∧
    (s.withTimeDist v).avg = s.avg ∧
    (s.withTimeDist v).lfsr = s.lfsr ∧
    (s.withTimeDist v).buckets = s.buckets ∧
    (s.withTimeDist v).cqHeld = s.cqHeld ∧
    (s.withTimeDist v).lowCond = s.lowCond ∧
    (s.withTimeDist v).chargeSeen = s.chargeSeen ∧
    (s.withTimeDist v).sweepAt = s.sweepAt ∧
    (s.withTimeDist v).sqs = s.sqs ∧
    (s.withTimeDist v).cqs = s.cqs ∧
    (s.withTimeDist v).funcs = s.funcs ∧
    (s.withTimeDist v).held = s.held ∧
    (s.withTimeDist v).srcs = s.srcs ∧
    (s.withTimeDist v).tgts = s.tgts ∧
    (s.withTimeDist v).mor = s.mor ∧
    (s.withTimeDist v).stack = s.stack ∧
    (s.withTimeDist v).eths = s.eths ∧
    (s.withTimeDist v).snow = s.snow ∧
    (s.withTimeDist v).power = s.power ∧
    (s.withTimeDist v).boot = s.boot ∧
    (s.withTimeDist v).poison = s.poison ∧
    (s.withTimeDist v).engs = s.engs := by
  refine ⟨rfl, rfl, rfl, rfl, rfl, rfl, rfl, rfl, rfl, rfl, rfl, rfl, rfl, rfl, rfl, rfl, rfl, rfl, rfl, rfl, rfl, rfl, rfl, rfl, rfl, rfl, rfl, rfl, rfl, rfl, rfl, rfl, rfl, rfl, rfl, rfl, rfl, rfl, rfl, rfl, rfl, rfl, rfl, rfl, rfl, rfl, rfl, rfl, rfl, rfl, rfl, rfl, rfl, rfl, rfl, rfl, rfl⟩

@[simp] theorem State.timeDist_withTimeDist (s : State) (v : Bool) : (s.withTimeDist v).timeDist = v := rfl

@[simp] theorem State.reg_withTimeDist (s : State) (v : Bool) (a : Nat) : (s.withTimeDist v).reg a = s.reg a := rfl

@[simp] theorem State.f_withTimeDist (s : State) (v : Bool) (x : Fld) : (s.withTimeDist v).f x = s.f x := rfl

@[simp] theorem State.withFree_frame (s : State) (v : Nat) :
    (s.withFree v).pending = s.pending ∧
    (s.withFree v).readData = s.readData ∧
    (s.withFree v).now = s.now ∧
    (s.withFree v).regs = s.regs ∧
    (s.withFree v).mem = s.mem ∧
    (s.withFree v).hostMem0 = s.hostMem0 ∧
    (s.withFree v).hostMem1 = s.hostMem1 ∧
    (s.withFree v).tbs = s.tbs ∧
    (s.withFree v).tbCap = s.tbCap ∧
    (s.withFree v).timeUp = s.timeUp ∧
    (s.withFree v).timeDist = s.timeDist ∧
    (s.withFree v).bdq = s.bdq ∧
    (s.withFree v).lanes = s.lanes ∧
    (s.withFree v).pins = s.pins ∧
    (s.withFree v).buses = s.buses ∧
    (s.withFree v).txTurn = s.txTurn ∧
    (s.withFree v).nextEnt = s.nextEnt ∧
    (s.withFree v).nextDone = s.nextDone ∧
    (s.withFree v).fetched = s.fetched ∧
    (s.withFree v).seWait = s.seWait ∧
    (s.withFree v).objs = s.objs ∧
    (s.withFree v).fltLoads = s.fltLoads ∧
    (s.withFree v).caches = s.caches ∧
    (s.withFree v).rtLoad = s.rtLoad ∧
    (s.withFree v).polLoad = s.polLoad ∧
    (s.withFree v).routeGen = s.routeGen ∧
    (s.withFree v).kills = s.kills ∧
    (s.withFree v).killDue = s.killDue ∧
    (s.withFree v).voqs = s.voqs ∧
    (s.withFree v).ctqs = s.ctqs ∧
    (s.withFree v).ptrs = s.ptrs ∧
    (s.withFree v).cells = s.cells ∧
    (s.withFree v).frames = s.frames ∧
    (s.withFree v).nextFid = s.nextFid ∧
    (s.withFree v).nextValid = s.nextValid ∧
    (s.withFree v).charged = s.charged ∧
    (s.withFree v).avg = s.avg ∧
    (s.withFree v).lfsr = s.lfsr ∧
    (s.withFree v).buckets = s.buckets ∧
    (s.withFree v).cqHeld = s.cqHeld ∧
    (s.withFree v).lowCond = s.lowCond ∧
    (s.withFree v).chargeSeen = s.chargeSeen ∧
    (s.withFree v).sweepAt = s.sweepAt ∧
    (s.withFree v).sqs = s.sqs ∧
    (s.withFree v).cqs = s.cqs ∧
    (s.withFree v).funcs = s.funcs ∧
    (s.withFree v).held = s.held ∧
    (s.withFree v).srcs = s.srcs ∧
    (s.withFree v).tgts = s.tgts ∧
    (s.withFree v).mor = s.mor ∧
    (s.withFree v).stack = s.stack ∧
    (s.withFree v).eths = s.eths ∧
    (s.withFree v).snow = s.snow ∧
    (s.withFree v).power = s.power ∧
    (s.withFree v).boot = s.boot ∧
    (s.withFree v).poison = s.poison ∧
    (s.withFree v).engs = s.engs := by
  refine ⟨rfl, rfl, rfl, rfl, rfl, rfl, rfl, rfl, rfl, rfl, rfl, rfl, rfl, rfl, rfl, rfl, rfl, rfl, rfl, rfl, rfl, rfl, rfl, rfl, rfl, rfl, rfl, rfl, rfl, rfl, rfl, rfl, rfl, rfl, rfl, rfl, rfl, rfl, rfl, rfl, rfl, rfl, rfl, rfl, rfl, rfl, rfl, rfl, rfl, rfl, rfl, rfl, rfl, rfl, rfl, rfl, rfl⟩

@[simp] theorem State.free_withFree (s : State) (v : Nat) : (s.withFree v).free = v := rfl

@[simp] theorem State.reg_withFree (s : State) (v : Nat) (a : Nat) : (s.withFree v).reg a = s.reg a := rfl

@[simp] theorem State.f_withFree (s : State) (v : Nat) (x : Fld) : (s.withFree v).f x = s.f x := rfl

@[simp] theorem State.withReadData_frame (s : State) (v : Word) :
    (s.withReadData v).pending = s.pending ∧
    (s.withReadData v).free = s.free ∧
    (s.withReadData v).now = s.now ∧
    (s.withReadData v).regs = s.regs ∧
    (s.withReadData v).mem = s.mem ∧
    (s.withReadData v).hostMem0 = s.hostMem0 ∧
    (s.withReadData v).hostMem1 = s.hostMem1 ∧
    (s.withReadData v).tbs = s.tbs ∧
    (s.withReadData v).tbCap = s.tbCap ∧
    (s.withReadData v).timeUp = s.timeUp ∧
    (s.withReadData v).timeDist = s.timeDist ∧
    (s.withReadData v).bdq = s.bdq ∧
    (s.withReadData v).lanes = s.lanes ∧
    (s.withReadData v).pins = s.pins ∧
    (s.withReadData v).buses = s.buses ∧
    (s.withReadData v).txTurn = s.txTurn ∧
    (s.withReadData v).nextEnt = s.nextEnt ∧
    (s.withReadData v).nextDone = s.nextDone ∧
    (s.withReadData v).fetched = s.fetched ∧
    (s.withReadData v).seWait = s.seWait ∧
    (s.withReadData v).objs = s.objs ∧
    (s.withReadData v).fltLoads = s.fltLoads ∧
    (s.withReadData v).caches = s.caches ∧
    (s.withReadData v).rtLoad = s.rtLoad ∧
    (s.withReadData v).polLoad = s.polLoad ∧
    (s.withReadData v).routeGen = s.routeGen ∧
    (s.withReadData v).kills = s.kills ∧
    (s.withReadData v).killDue = s.killDue ∧
    (s.withReadData v).voqs = s.voqs ∧
    (s.withReadData v).ctqs = s.ctqs ∧
    (s.withReadData v).ptrs = s.ptrs ∧
    (s.withReadData v).cells = s.cells ∧
    (s.withReadData v).frames = s.frames ∧
    (s.withReadData v).nextFid = s.nextFid ∧
    (s.withReadData v).nextValid = s.nextValid ∧
    (s.withReadData v).charged = s.charged ∧
    (s.withReadData v).avg = s.avg ∧
    (s.withReadData v).lfsr = s.lfsr ∧
    (s.withReadData v).buckets = s.buckets ∧
    (s.withReadData v).cqHeld = s.cqHeld ∧
    (s.withReadData v).lowCond = s.lowCond ∧
    (s.withReadData v).chargeSeen = s.chargeSeen ∧
    (s.withReadData v).sweepAt = s.sweepAt ∧
    (s.withReadData v).sqs = s.sqs ∧
    (s.withReadData v).cqs = s.cqs ∧
    (s.withReadData v).funcs = s.funcs ∧
    (s.withReadData v).held = s.held ∧
    (s.withReadData v).srcs = s.srcs ∧
    (s.withReadData v).tgts = s.tgts ∧
    (s.withReadData v).mor = s.mor ∧
    (s.withReadData v).stack = s.stack ∧
    (s.withReadData v).eths = s.eths ∧
    (s.withReadData v).snow = s.snow ∧
    (s.withReadData v).power = s.power ∧
    (s.withReadData v).boot = s.boot ∧
    (s.withReadData v).poison = s.poison ∧
    (s.withReadData v).engs = s.engs := by
  refine ⟨rfl, rfl, rfl, rfl, rfl, rfl, rfl, rfl, rfl, rfl, rfl, rfl, rfl, rfl, rfl, rfl, rfl, rfl, rfl, rfl, rfl, rfl, rfl, rfl, rfl, rfl, rfl, rfl, rfl, rfl, rfl, rfl, rfl, rfl, rfl, rfl, rfl, rfl, rfl, rfl, rfl, rfl, rfl, rfl, rfl, rfl, rfl, rfl, rfl, rfl, rfl, rfl, rfl, rfl, rfl, rfl, rfl⟩

@[simp] theorem State.readData_withReadData (s : State) (v : Word) : (s.withReadData v).readData = v := rfl

@[simp] theorem State.reg_withReadData (s : State) (v : Word) (a : Nat) : (s.withReadData v).reg a = s.reg a := rfl

@[simp] theorem State.f_withReadData (s : State) (v : Word) (x : Fld) : (s.withReadData v).f x = s.f x := rfl

@[simp] theorem State.withNow_frame (s : State) (v : Nat) :
    (s.withNow v).pending = s.pending ∧
    (s.withNow v).free = s.free ∧
    (s.withNow v).readData = s.readData ∧
    (s.withNow v).regs = s.regs ∧
    (s.withNow v).mem = s.mem ∧
    (s.withNow v).hostMem0 = s.hostMem0 ∧
    (s.withNow v).hostMem1 = s.hostMem1 ∧
    (s.withNow v).tbs = s.tbs ∧
    (s.withNow v).tbCap = s.tbCap ∧
    (s.withNow v).timeUp = s.timeUp ∧
    (s.withNow v).timeDist = s.timeDist ∧
    (s.withNow v).bdq = s.bdq ∧
    (s.withNow v).lanes = s.lanes ∧
    (s.withNow v).pins = s.pins ∧
    (s.withNow v).buses = s.buses ∧
    (s.withNow v).txTurn = s.txTurn ∧
    (s.withNow v).nextEnt = s.nextEnt ∧
    (s.withNow v).nextDone = s.nextDone ∧
    (s.withNow v).fetched = s.fetched ∧
    (s.withNow v).seWait = s.seWait ∧
    (s.withNow v).objs = s.objs ∧
    (s.withNow v).fltLoads = s.fltLoads ∧
    (s.withNow v).caches = s.caches ∧
    (s.withNow v).rtLoad = s.rtLoad ∧
    (s.withNow v).polLoad = s.polLoad ∧
    (s.withNow v).routeGen = s.routeGen ∧
    (s.withNow v).kills = s.kills ∧
    (s.withNow v).killDue = s.killDue ∧
    (s.withNow v).voqs = s.voqs ∧
    (s.withNow v).ctqs = s.ctqs ∧
    (s.withNow v).ptrs = s.ptrs ∧
    (s.withNow v).cells = s.cells ∧
    (s.withNow v).frames = s.frames ∧
    (s.withNow v).nextFid = s.nextFid ∧
    (s.withNow v).nextValid = s.nextValid ∧
    (s.withNow v).charged = s.charged ∧
    (s.withNow v).avg = s.avg ∧
    (s.withNow v).lfsr = s.lfsr ∧
    (s.withNow v).buckets = s.buckets ∧
    (s.withNow v).cqHeld = s.cqHeld ∧
    (s.withNow v).lowCond = s.lowCond ∧
    (s.withNow v).chargeSeen = s.chargeSeen ∧
    (s.withNow v).sweepAt = s.sweepAt ∧
    (s.withNow v).sqs = s.sqs ∧
    (s.withNow v).cqs = s.cqs ∧
    (s.withNow v).funcs = s.funcs ∧
    (s.withNow v).held = s.held ∧
    (s.withNow v).srcs = s.srcs ∧
    (s.withNow v).tgts = s.tgts ∧
    (s.withNow v).mor = s.mor ∧
    (s.withNow v).stack = s.stack ∧
    (s.withNow v).eths = s.eths ∧
    (s.withNow v).snow = s.snow ∧
    (s.withNow v).power = s.power ∧
    (s.withNow v).boot = s.boot ∧
    (s.withNow v).poison = s.poison ∧
    (s.withNow v).engs = s.engs := by
  refine ⟨rfl, rfl, rfl, rfl, rfl, rfl, rfl, rfl, rfl, rfl, rfl, rfl, rfl, rfl, rfl, rfl, rfl, rfl, rfl, rfl, rfl, rfl, rfl, rfl, rfl, rfl, rfl, rfl, rfl, rfl, rfl, rfl, rfl, rfl, rfl, rfl, rfl, rfl, rfl, rfl, rfl, rfl, rfl, rfl, rfl, rfl, rfl, rfl, rfl, rfl, rfl, rfl, rfl, rfl, rfl, rfl, rfl⟩

@[simp] theorem State.now_withNow (s : State) (v : Nat) : (s.withNow v).now = v := rfl

@[simp] theorem State.reg_withNow (s : State) (v : Nat) (a : Nat) : (s.withNow v).reg a = s.reg a := rfl

@[simp] theorem State.f_withNow (s : State) (v : Nat) (x : Fld) : (s.withNow v).f x = s.f x := rfl

@[simp] theorem State.withMem_frame (s : State) (v : List Host.Cell) :
    (s.withMem v).pending = s.pending ∧
    (s.withMem v).free = s.free ∧
    (s.withMem v).readData = s.readData ∧
    (s.withMem v).now = s.now ∧
    (s.withMem v).regs = s.regs ∧
    (s.withMem v).hostMem0 = s.hostMem0 ∧
    (s.withMem v).hostMem1 = s.hostMem1 ∧
    (s.withMem v).tbs = s.tbs ∧
    (s.withMem v).tbCap = s.tbCap ∧
    (s.withMem v).timeUp = s.timeUp ∧
    (s.withMem v).timeDist = s.timeDist ∧
    (s.withMem v).bdq = s.bdq ∧
    (s.withMem v).lanes = s.lanes ∧
    (s.withMem v).pins = s.pins ∧
    (s.withMem v).buses = s.buses ∧
    (s.withMem v).txTurn = s.txTurn ∧
    (s.withMem v).nextEnt = s.nextEnt ∧
    (s.withMem v).nextDone = s.nextDone ∧
    (s.withMem v).fetched = s.fetched ∧
    (s.withMem v).seWait = s.seWait ∧
    (s.withMem v).objs = s.objs ∧
    (s.withMem v).fltLoads = s.fltLoads ∧
    (s.withMem v).caches = s.caches ∧
    (s.withMem v).rtLoad = s.rtLoad ∧
    (s.withMem v).polLoad = s.polLoad ∧
    (s.withMem v).routeGen = s.routeGen ∧
    (s.withMem v).kills = s.kills ∧
    (s.withMem v).killDue = s.killDue ∧
    (s.withMem v).voqs = s.voqs ∧
    (s.withMem v).ctqs = s.ctqs ∧
    (s.withMem v).ptrs = s.ptrs ∧
    (s.withMem v).cells = s.cells ∧
    (s.withMem v).frames = s.frames ∧
    (s.withMem v).nextFid = s.nextFid ∧
    (s.withMem v).nextValid = s.nextValid ∧
    (s.withMem v).charged = s.charged ∧
    (s.withMem v).avg = s.avg ∧
    (s.withMem v).lfsr = s.lfsr ∧
    (s.withMem v).buckets = s.buckets ∧
    (s.withMem v).cqHeld = s.cqHeld ∧
    (s.withMem v).lowCond = s.lowCond ∧
    (s.withMem v).chargeSeen = s.chargeSeen ∧
    (s.withMem v).sweepAt = s.sweepAt ∧
    (s.withMem v).sqs = s.sqs ∧
    (s.withMem v).cqs = s.cqs ∧
    (s.withMem v).funcs = s.funcs ∧
    (s.withMem v).held = s.held ∧
    (s.withMem v).srcs = s.srcs ∧
    (s.withMem v).tgts = s.tgts ∧
    (s.withMem v).mor = s.mor ∧
    (s.withMem v).stack = s.stack ∧
    (s.withMem v).eths = s.eths ∧
    (s.withMem v).snow = s.snow ∧
    (s.withMem v).power = s.power ∧
    (s.withMem v).boot = s.boot ∧
    (s.withMem v).poison = s.poison ∧
    (s.withMem v).engs = s.engs := by
  refine ⟨rfl, rfl, rfl, rfl, rfl, rfl, rfl, rfl, rfl, rfl, rfl, rfl, rfl, rfl, rfl, rfl, rfl, rfl, rfl, rfl, rfl, rfl, rfl, rfl, rfl, rfl, rfl, rfl, rfl, rfl, rfl, rfl, rfl, rfl, rfl, rfl, rfl, rfl, rfl, rfl, rfl, rfl, rfl, rfl, rfl, rfl, rfl, rfl, rfl, rfl, rfl, rfl, rfl, rfl, rfl, rfl, rfl⟩

@[simp] theorem State.mem_withMem (s : State) (v : List Host.Cell) : (s.withMem v).mem = v := rfl

@[simp] theorem State.reg_withMem (s : State) (v : List Host.Cell) (a : Nat) : (s.withMem v).reg a = s.reg a := rfl

@[simp] theorem State.f_withMem (s : State) (v : List Host.Cell) (x : Fld) : (s.withMem v).f x = s.f x := rfl

@[simp] theorem State.withHostMem0_frame (s : State) (v : List Host.Cell) :
    (s.withHostMem0 v).pending = s.pending ∧
    (s.withHostMem0 v).free = s.free ∧
    (s.withHostMem0 v).readData = s.readData ∧
    (s.withHostMem0 v).now = s.now ∧
    (s.withHostMem0 v).regs = s.regs ∧
    (s.withHostMem0 v).mem = s.mem ∧
    (s.withHostMem0 v).hostMem1 = s.hostMem1 ∧
    (s.withHostMem0 v).tbs = s.tbs ∧
    (s.withHostMem0 v).tbCap = s.tbCap ∧
    (s.withHostMem0 v).timeUp = s.timeUp ∧
    (s.withHostMem0 v).timeDist = s.timeDist ∧
    (s.withHostMem0 v).bdq = s.bdq ∧
    (s.withHostMem0 v).lanes = s.lanes ∧
    (s.withHostMem0 v).pins = s.pins ∧
    (s.withHostMem0 v).buses = s.buses ∧
    (s.withHostMem0 v).txTurn = s.txTurn ∧
    (s.withHostMem0 v).nextEnt = s.nextEnt ∧
    (s.withHostMem0 v).nextDone = s.nextDone ∧
    (s.withHostMem0 v).fetched = s.fetched ∧
    (s.withHostMem0 v).seWait = s.seWait ∧
    (s.withHostMem0 v).objs = s.objs ∧
    (s.withHostMem0 v).fltLoads = s.fltLoads ∧
    (s.withHostMem0 v).caches = s.caches ∧
    (s.withHostMem0 v).rtLoad = s.rtLoad ∧
    (s.withHostMem0 v).polLoad = s.polLoad ∧
    (s.withHostMem0 v).routeGen = s.routeGen ∧
    (s.withHostMem0 v).kills = s.kills ∧
    (s.withHostMem0 v).killDue = s.killDue ∧
    (s.withHostMem0 v).voqs = s.voqs ∧
    (s.withHostMem0 v).ctqs = s.ctqs ∧
    (s.withHostMem0 v).ptrs = s.ptrs ∧
    (s.withHostMem0 v).cells = s.cells ∧
    (s.withHostMem0 v).frames = s.frames ∧
    (s.withHostMem0 v).nextFid = s.nextFid ∧
    (s.withHostMem0 v).nextValid = s.nextValid ∧
    (s.withHostMem0 v).charged = s.charged ∧
    (s.withHostMem0 v).avg = s.avg ∧
    (s.withHostMem0 v).lfsr = s.lfsr ∧
    (s.withHostMem0 v).buckets = s.buckets ∧
    (s.withHostMem0 v).cqHeld = s.cqHeld ∧
    (s.withHostMem0 v).lowCond = s.lowCond ∧
    (s.withHostMem0 v).chargeSeen = s.chargeSeen ∧
    (s.withHostMem0 v).sweepAt = s.sweepAt ∧
    (s.withHostMem0 v).sqs = s.sqs ∧
    (s.withHostMem0 v).cqs = s.cqs ∧
    (s.withHostMem0 v).funcs = s.funcs ∧
    (s.withHostMem0 v).held = s.held ∧
    (s.withHostMem0 v).srcs = s.srcs ∧
    (s.withHostMem0 v).tgts = s.tgts ∧
    (s.withHostMem0 v).mor = s.mor ∧
    (s.withHostMem0 v).stack = s.stack ∧
    (s.withHostMem0 v).eths = s.eths ∧
    (s.withHostMem0 v).snow = s.snow ∧
    (s.withHostMem0 v).power = s.power ∧
    (s.withHostMem0 v).boot = s.boot ∧
    (s.withHostMem0 v).poison = s.poison ∧
    (s.withHostMem0 v).engs = s.engs := by
  refine ⟨rfl, rfl, rfl, rfl, rfl, rfl, rfl, rfl, rfl, rfl, rfl, rfl, rfl, rfl, rfl, rfl, rfl, rfl, rfl, rfl, rfl, rfl, rfl, rfl, rfl, rfl, rfl, rfl, rfl, rfl, rfl, rfl, rfl, rfl, rfl, rfl, rfl, rfl, rfl, rfl, rfl, rfl, rfl, rfl, rfl, rfl, rfl, rfl, rfl, rfl, rfl, rfl, rfl, rfl, rfl, rfl, rfl⟩

@[simp] theorem State.hostMem0_withHostMem0 (s : State) (v : List Host.Cell) : (s.withHostMem0 v).hostMem0 = v := rfl

@[simp] theorem State.reg_withHostMem0 (s : State) (v : List Host.Cell) (a : Nat) : (s.withHostMem0 v).reg a = s.reg a := rfl

@[simp] theorem State.f_withHostMem0 (s : State) (v : List Host.Cell) (x : Fld) : (s.withHostMem0 v).f x = s.f x := rfl

@[simp] theorem State.withHostMem1_frame (s : State) (v : List Host.Cell) :
    (s.withHostMem1 v).pending = s.pending ∧
    (s.withHostMem1 v).free = s.free ∧
    (s.withHostMem1 v).readData = s.readData ∧
    (s.withHostMem1 v).now = s.now ∧
    (s.withHostMem1 v).regs = s.regs ∧
    (s.withHostMem1 v).mem = s.mem ∧
    (s.withHostMem1 v).hostMem0 = s.hostMem0 ∧
    (s.withHostMem1 v).tbs = s.tbs ∧
    (s.withHostMem1 v).tbCap = s.tbCap ∧
    (s.withHostMem1 v).timeUp = s.timeUp ∧
    (s.withHostMem1 v).timeDist = s.timeDist ∧
    (s.withHostMem1 v).bdq = s.bdq ∧
    (s.withHostMem1 v).lanes = s.lanes ∧
    (s.withHostMem1 v).pins = s.pins ∧
    (s.withHostMem1 v).buses = s.buses ∧
    (s.withHostMem1 v).txTurn = s.txTurn ∧
    (s.withHostMem1 v).nextEnt = s.nextEnt ∧
    (s.withHostMem1 v).nextDone = s.nextDone ∧
    (s.withHostMem1 v).fetched = s.fetched ∧
    (s.withHostMem1 v).seWait = s.seWait ∧
    (s.withHostMem1 v).objs = s.objs ∧
    (s.withHostMem1 v).fltLoads = s.fltLoads ∧
    (s.withHostMem1 v).caches = s.caches ∧
    (s.withHostMem1 v).rtLoad = s.rtLoad ∧
    (s.withHostMem1 v).polLoad = s.polLoad ∧
    (s.withHostMem1 v).routeGen = s.routeGen ∧
    (s.withHostMem1 v).kills = s.kills ∧
    (s.withHostMem1 v).killDue = s.killDue ∧
    (s.withHostMem1 v).voqs = s.voqs ∧
    (s.withHostMem1 v).ctqs = s.ctqs ∧
    (s.withHostMem1 v).ptrs = s.ptrs ∧
    (s.withHostMem1 v).cells = s.cells ∧
    (s.withHostMem1 v).frames = s.frames ∧
    (s.withHostMem1 v).nextFid = s.nextFid ∧
    (s.withHostMem1 v).nextValid = s.nextValid ∧
    (s.withHostMem1 v).charged = s.charged ∧
    (s.withHostMem1 v).avg = s.avg ∧
    (s.withHostMem1 v).lfsr = s.lfsr ∧
    (s.withHostMem1 v).buckets = s.buckets ∧
    (s.withHostMem1 v).cqHeld = s.cqHeld ∧
    (s.withHostMem1 v).lowCond = s.lowCond ∧
    (s.withHostMem1 v).chargeSeen = s.chargeSeen ∧
    (s.withHostMem1 v).sweepAt = s.sweepAt ∧
    (s.withHostMem1 v).sqs = s.sqs ∧
    (s.withHostMem1 v).cqs = s.cqs ∧
    (s.withHostMem1 v).funcs = s.funcs ∧
    (s.withHostMem1 v).held = s.held ∧
    (s.withHostMem1 v).srcs = s.srcs ∧
    (s.withHostMem1 v).tgts = s.tgts ∧
    (s.withHostMem1 v).mor = s.mor ∧
    (s.withHostMem1 v).stack = s.stack ∧
    (s.withHostMem1 v).eths = s.eths ∧
    (s.withHostMem1 v).snow = s.snow ∧
    (s.withHostMem1 v).power = s.power ∧
    (s.withHostMem1 v).boot = s.boot ∧
    (s.withHostMem1 v).poison = s.poison ∧
    (s.withHostMem1 v).engs = s.engs := by
  refine ⟨rfl, rfl, rfl, rfl, rfl, rfl, rfl, rfl, rfl, rfl, rfl, rfl, rfl, rfl, rfl, rfl, rfl, rfl, rfl, rfl, rfl, rfl, rfl, rfl, rfl, rfl, rfl, rfl, rfl, rfl, rfl, rfl, rfl, rfl, rfl, rfl, rfl, rfl, rfl, rfl, rfl, rfl, rfl, rfl, rfl, rfl, rfl, rfl, rfl, rfl, rfl, rfl, rfl, rfl, rfl, rfl, rfl⟩

@[simp] theorem State.hostMem1_withHostMem1 (s : State) (v : List Host.Cell) : (s.withHostMem1 v).hostMem1 = v := rfl

@[simp] theorem State.reg_withHostMem1 (s : State) (v : List Host.Cell) (a : Nat) : (s.withHostMem1 v).reg a = s.reg a := rfl

@[simp] theorem State.f_withHostMem1 (s : State) (v : List Host.Cell) (x : Fld) : (s.withHostMem1 v).f x = s.f x := rfl

@[simp] theorem State.withNextEnt_frame (s : State) (v : Nat) :
    (s.withNextEnt v).pending = s.pending ∧
    (s.withNextEnt v).free = s.free ∧
    (s.withNextEnt v).readData = s.readData ∧
    (s.withNextEnt v).now = s.now ∧
    (s.withNextEnt v).regs = s.regs ∧
    (s.withNextEnt v).mem = s.mem ∧
    (s.withNextEnt v).hostMem0 = s.hostMem0 ∧
    (s.withNextEnt v).hostMem1 = s.hostMem1 ∧
    (s.withNextEnt v).tbs = s.tbs ∧
    (s.withNextEnt v).tbCap = s.tbCap ∧
    (s.withNextEnt v).timeUp = s.timeUp ∧
    (s.withNextEnt v).timeDist = s.timeDist ∧
    (s.withNextEnt v).bdq = s.bdq ∧
    (s.withNextEnt v).lanes = s.lanes ∧
    (s.withNextEnt v).pins = s.pins ∧
    (s.withNextEnt v).buses = s.buses ∧
    (s.withNextEnt v).txTurn = s.txTurn ∧
    (s.withNextEnt v).nextDone = s.nextDone ∧
    (s.withNextEnt v).fetched = s.fetched ∧
    (s.withNextEnt v).seWait = s.seWait ∧
    (s.withNextEnt v).objs = s.objs ∧
    (s.withNextEnt v).fltLoads = s.fltLoads ∧
    (s.withNextEnt v).caches = s.caches ∧
    (s.withNextEnt v).rtLoad = s.rtLoad ∧
    (s.withNextEnt v).polLoad = s.polLoad ∧
    (s.withNextEnt v).routeGen = s.routeGen ∧
    (s.withNextEnt v).kills = s.kills ∧
    (s.withNextEnt v).killDue = s.killDue ∧
    (s.withNextEnt v).voqs = s.voqs ∧
    (s.withNextEnt v).ctqs = s.ctqs ∧
    (s.withNextEnt v).ptrs = s.ptrs ∧
    (s.withNextEnt v).cells = s.cells ∧
    (s.withNextEnt v).frames = s.frames ∧
    (s.withNextEnt v).nextFid = s.nextFid ∧
    (s.withNextEnt v).nextValid = s.nextValid ∧
    (s.withNextEnt v).charged = s.charged ∧
    (s.withNextEnt v).avg = s.avg ∧
    (s.withNextEnt v).lfsr = s.lfsr ∧
    (s.withNextEnt v).buckets = s.buckets ∧
    (s.withNextEnt v).cqHeld = s.cqHeld ∧
    (s.withNextEnt v).lowCond = s.lowCond ∧
    (s.withNextEnt v).chargeSeen = s.chargeSeen ∧
    (s.withNextEnt v).sweepAt = s.sweepAt ∧
    (s.withNextEnt v).sqs = s.sqs ∧
    (s.withNextEnt v).cqs = s.cqs ∧
    (s.withNextEnt v).funcs = s.funcs ∧
    (s.withNextEnt v).held = s.held ∧
    (s.withNextEnt v).srcs = s.srcs ∧
    (s.withNextEnt v).tgts = s.tgts ∧
    (s.withNextEnt v).mor = s.mor ∧
    (s.withNextEnt v).stack = s.stack ∧
    (s.withNextEnt v).eths = s.eths ∧
    (s.withNextEnt v).snow = s.snow ∧
    (s.withNextEnt v).power = s.power ∧
    (s.withNextEnt v).boot = s.boot ∧
    (s.withNextEnt v).poison = s.poison ∧
    (s.withNextEnt v).engs = s.engs := by
  refine ⟨rfl, rfl, rfl, rfl, rfl, rfl, rfl, rfl, rfl, rfl, rfl, rfl, rfl, rfl, rfl, rfl, rfl, rfl, rfl, rfl, rfl, rfl, rfl, rfl, rfl, rfl, rfl, rfl, rfl, rfl, rfl, rfl, rfl, rfl, rfl, rfl, rfl, rfl, rfl, rfl, rfl, rfl, rfl, rfl, rfl, rfl, rfl, rfl, rfl, rfl, rfl, rfl, rfl, rfl, rfl, rfl, rfl⟩

@[simp] theorem State.nextEnt_withNextEnt (s : State) (v : Nat) : (s.withNextEnt v).nextEnt = v := rfl

@[simp] theorem State.reg_withNextEnt (s : State) (v : Nat) (a : Nat) : (s.withNextEnt v).reg a = s.reg a := rfl

@[simp] theorem State.f_withNextEnt (s : State) (v : Nat) (x : Fld) : (s.withNextEnt v).f x = s.f x := rfl

@[simp] theorem State.withFetched_frame (s : State) (v : List Fetched) :
    (s.withFetched v).pending = s.pending ∧
    (s.withFetched v).free = s.free ∧
    (s.withFetched v).readData = s.readData ∧
    (s.withFetched v).now = s.now ∧
    (s.withFetched v).regs = s.regs ∧
    (s.withFetched v).mem = s.mem ∧
    (s.withFetched v).hostMem0 = s.hostMem0 ∧
    (s.withFetched v).hostMem1 = s.hostMem1 ∧
    (s.withFetched v).tbs = s.tbs ∧
    (s.withFetched v).tbCap = s.tbCap ∧
    (s.withFetched v).timeUp = s.timeUp ∧
    (s.withFetched v).timeDist = s.timeDist ∧
    (s.withFetched v).bdq = s.bdq ∧
    (s.withFetched v).lanes = s.lanes ∧
    (s.withFetched v).pins = s.pins ∧
    (s.withFetched v).buses = s.buses ∧
    (s.withFetched v).txTurn = s.txTurn ∧
    (s.withFetched v).nextEnt = s.nextEnt ∧
    (s.withFetched v).nextDone = s.nextDone ∧
    (s.withFetched v).seWait = s.seWait ∧
    (s.withFetched v).objs = s.objs ∧
    (s.withFetched v).fltLoads = s.fltLoads ∧
    (s.withFetched v).caches = s.caches ∧
    (s.withFetched v).rtLoad = s.rtLoad ∧
    (s.withFetched v).polLoad = s.polLoad ∧
    (s.withFetched v).routeGen = s.routeGen ∧
    (s.withFetched v).kills = s.kills ∧
    (s.withFetched v).killDue = s.killDue ∧
    (s.withFetched v).voqs = s.voqs ∧
    (s.withFetched v).ctqs = s.ctqs ∧
    (s.withFetched v).ptrs = s.ptrs ∧
    (s.withFetched v).cells = s.cells ∧
    (s.withFetched v).frames = s.frames ∧
    (s.withFetched v).nextFid = s.nextFid ∧
    (s.withFetched v).nextValid = s.nextValid ∧
    (s.withFetched v).charged = s.charged ∧
    (s.withFetched v).avg = s.avg ∧
    (s.withFetched v).lfsr = s.lfsr ∧
    (s.withFetched v).buckets = s.buckets ∧
    (s.withFetched v).cqHeld = s.cqHeld ∧
    (s.withFetched v).lowCond = s.lowCond ∧
    (s.withFetched v).chargeSeen = s.chargeSeen ∧
    (s.withFetched v).sweepAt = s.sweepAt ∧
    (s.withFetched v).sqs = s.sqs ∧
    (s.withFetched v).cqs = s.cqs ∧
    (s.withFetched v).funcs = s.funcs ∧
    (s.withFetched v).held = s.held ∧
    (s.withFetched v).srcs = s.srcs ∧
    (s.withFetched v).tgts = s.tgts ∧
    (s.withFetched v).mor = s.mor ∧
    (s.withFetched v).stack = s.stack ∧
    (s.withFetched v).eths = s.eths ∧
    (s.withFetched v).snow = s.snow ∧
    (s.withFetched v).power = s.power ∧
    (s.withFetched v).boot = s.boot ∧
    (s.withFetched v).poison = s.poison ∧
    (s.withFetched v).engs = s.engs := by
  refine ⟨rfl, rfl, rfl, rfl, rfl, rfl, rfl, rfl, rfl, rfl, rfl, rfl, rfl, rfl, rfl, rfl, rfl, rfl, rfl, rfl, rfl, rfl, rfl, rfl, rfl, rfl, rfl, rfl, rfl, rfl, rfl, rfl, rfl, rfl, rfl, rfl, rfl, rfl, rfl, rfl, rfl, rfl, rfl, rfl, rfl, rfl, rfl, rfl, rfl, rfl, rfl, rfl, rfl, rfl, rfl, rfl, rfl⟩

@[simp] theorem State.fetched_withFetched (s : State) (v : List Fetched) : (s.withFetched v).fetched = v := rfl

@[simp] theorem State.reg_withFetched (s : State) (v : List Fetched) (a : Nat) : (s.withFetched v).reg a = s.reg a := rfl

@[simp] theorem State.f_withFetched (s : State) (v : List Fetched) (x : Fld) : (s.withFetched v).f x = s.f x := rfl

@[simp] theorem State.withSeWait_frame (s : State) (v : List SeWait) :
    (s.withSeWait v).pending = s.pending ∧
    (s.withSeWait v).free = s.free ∧
    (s.withSeWait v).readData = s.readData ∧
    (s.withSeWait v).now = s.now ∧
    (s.withSeWait v).regs = s.regs ∧
    (s.withSeWait v).mem = s.mem ∧
    (s.withSeWait v).hostMem0 = s.hostMem0 ∧
    (s.withSeWait v).hostMem1 = s.hostMem1 ∧
    (s.withSeWait v).tbs = s.tbs ∧
    (s.withSeWait v).tbCap = s.tbCap ∧
    (s.withSeWait v).timeUp = s.timeUp ∧
    (s.withSeWait v).timeDist = s.timeDist ∧
    (s.withSeWait v).bdq = s.bdq ∧
    (s.withSeWait v).lanes = s.lanes ∧
    (s.withSeWait v).pins = s.pins ∧
    (s.withSeWait v).buses = s.buses ∧
    (s.withSeWait v).txTurn = s.txTurn ∧
    (s.withSeWait v).nextEnt = s.nextEnt ∧
    (s.withSeWait v).nextDone = s.nextDone ∧
    (s.withSeWait v).fetched = s.fetched ∧
    (s.withSeWait v).objs = s.objs ∧
    (s.withSeWait v).fltLoads = s.fltLoads ∧
    (s.withSeWait v).caches = s.caches ∧
    (s.withSeWait v).rtLoad = s.rtLoad ∧
    (s.withSeWait v).polLoad = s.polLoad ∧
    (s.withSeWait v).routeGen = s.routeGen ∧
    (s.withSeWait v).kills = s.kills ∧
    (s.withSeWait v).killDue = s.killDue ∧
    (s.withSeWait v).voqs = s.voqs ∧
    (s.withSeWait v).ctqs = s.ctqs ∧
    (s.withSeWait v).ptrs = s.ptrs ∧
    (s.withSeWait v).cells = s.cells ∧
    (s.withSeWait v).frames = s.frames ∧
    (s.withSeWait v).nextFid = s.nextFid ∧
    (s.withSeWait v).nextValid = s.nextValid ∧
    (s.withSeWait v).charged = s.charged ∧
    (s.withSeWait v).avg = s.avg ∧
    (s.withSeWait v).lfsr = s.lfsr ∧
    (s.withSeWait v).buckets = s.buckets ∧
    (s.withSeWait v).cqHeld = s.cqHeld ∧
    (s.withSeWait v).lowCond = s.lowCond ∧
    (s.withSeWait v).chargeSeen = s.chargeSeen ∧
    (s.withSeWait v).sweepAt = s.sweepAt ∧
    (s.withSeWait v).sqs = s.sqs ∧
    (s.withSeWait v).cqs = s.cqs ∧
    (s.withSeWait v).funcs = s.funcs ∧
    (s.withSeWait v).held = s.held ∧
    (s.withSeWait v).srcs = s.srcs ∧
    (s.withSeWait v).tgts = s.tgts ∧
    (s.withSeWait v).mor = s.mor ∧
    (s.withSeWait v).stack = s.stack ∧
    (s.withSeWait v).eths = s.eths ∧
    (s.withSeWait v).snow = s.snow ∧
    (s.withSeWait v).power = s.power ∧
    (s.withSeWait v).boot = s.boot ∧
    (s.withSeWait v).poison = s.poison ∧
    (s.withSeWait v).engs = s.engs := by
  refine ⟨rfl, rfl, rfl, rfl, rfl, rfl, rfl, rfl, rfl, rfl, rfl, rfl, rfl, rfl, rfl, rfl, rfl, rfl, rfl, rfl, rfl, rfl, rfl, rfl, rfl, rfl, rfl, rfl, rfl, rfl, rfl, rfl, rfl, rfl, rfl, rfl, rfl, rfl, rfl, rfl, rfl, rfl, rfl, rfl, rfl, rfl, rfl, rfl, rfl, rfl, rfl, rfl, rfl, rfl, rfl, rfl, rfl⟩

@[simp] theorem State.seWait_withSeWait (s : State) (v : List SeWait) : (s.withSeWait v).seWait = v := rfl

@[simp] theorem State.reg_withSeWait (s : State) (v : List SeWait) (a : Nat) : (s.withSeWait v).reg a = s.reg a := rfl

@[simp] theorem State.f_withSeWait (s : State) (v : List SeWait) (x : Fld) : (s.withSeWait v).f x = s.f x := rfl

@[simp] theorem State.withRtLoad_frame (s : State) (v : Option RunLoad) :
    (s.withRtLoad v).pending = s.pending ∧
    (s.withRtLoad v).free = s.free ∧
    (s.withRtLoad v).readData = s.readData ∧
    (s.withRtLoad v).now = s.now ∧
    (s.withRtLoad v).regs = s.regs ∧
    (s.withRtLoad v).mem = s.mem ∧
    (s.withRtLoad v).hostMem0 = s.hostMem0 ∧
    (s.withRtLoad v).hostMem1 = s.hostMem1 ∧
    (s.withRtLoad v).tbs = s.tbs ∧
    (s.withRtLoad v).tbCap = s.tbCap ∧
    (s.withRtLoad v).timeUp = s.timeUp ∧
    (s.withRtLoad v).timeDist = s.timeDist ∧
    (s.withRtLoad v).bdq = s.bdq ∧
    (s.withRtLoad v).lanes = s.lanes ∧
    (s.withRtLoad v).pins = s.pins ∧
    (s.withRtLoad v).buses = s.buses ∧
    (s.withRtLoad v).txTurn = s.txTurn ∧
    (s.withRtLoad v).nextEnt = s.nextEnt ∧
    (s.withRtLoad v).nextDone = s.nextDone ∧
    (s.withRtLoad v).fetched = s.fetched ∧
    (s.withRtLoad v).seWait = s.seWait ∧
    (s.withRtLoad v).objs = s.objs ∧
    (s.withRtLoad v).fltLoads = s.fltLoads ∧
    (s.withRtLoad v).caches = s.caches ∧
    (s.withRtLoad v).polLoad = s.polLoad ∧
    (s.withRtLoad v).routeGen = s.routeGen ∧
    (s.withRtLoad v).kills = s.kills ∧
    (s.withRtLoad v).killDue = s.killDue ∧
    (s.withRtLoad v).voqs = s.voqs ∧
    (s.withRtLoad v).ctqs = s.ctqs ∧
    (s.withRtLoad v).ptrs = s.ptrs ∧
    (s.withRtLoad v).cells = s.cells ∧
    (s.withRtLoad v).frames = s.frames ∧
    (s.withRtLoad v).nextFid = s.nextFid ∧
    (s.withRtLoad v).nextValid = s.nextValid ∧
    (s.withRtLoad v).charged = s.charged ∧
    (s.withRtLoad v).avg = s.avg ∧
    (s.withRtLoad v).lfsr = s.lfsr ∧
    (s.withRtLoad v).buckets = s.buckets ∧
    (s.withRtLoad v).cqHeld = s.cqHeld ∧
    (s.withRtLoad v).lowCond = s.lowCond ∧
    (s.withRtLoad v).chargeSeen = s.chargeSeen ∧
    (s.withRtLoad v).sweepAt = s.sweepAt ∧
    (s.withRtLoad v).sqs = s.sqs ∧
    (s.withRtLoad v).cqs = s.cqs ∧
    (s.withRtLoad v).funcs = s.funcs ∧
    (s.withRtLoad v).held = s.held ∧
    (s.withRtLoad v).srcs = s.srcs ∧
    (s.withRtLoad v).tgts = s.tgts ∧
    (s.withRtLoad v).mor = s.mor ∧
    (s.withRtLoad v).stack = s.stack ∧
    (s.withRtLoad v).eths = s.eths ∧
    (s.withRtLoad v).snow = s.snow ∧
    (s.withRtLoad v).power = s.power ∧
    (s.withRtLoad v).boot = s.boot ∧
    (s.withRtLoad v).poison = s.poison ∧
    (s.withRtLoad v).engs = s.engs := by
  refine ⟨rfl, rfl, rfl, rfl, rfl, rfl, rfl, rfl, rfl, rfl, rfl, rfl, rfl, rfl, rfl, rfl, rfl, rfl, rfl, rfl, rfl, rfl, rfl, rfl, rfl, rfl, rfl, rfl, rfl, rfl, rfl, rfl, rfl, rfl, rfl, rfl, rfl, rfl, rfl, rfl, rfl, rfl, rfl, rfl, rfl, rfl, rfl, rfl, rfl, rfl, rfl, rfl, rfl, rfl, rfl, rfl, rfl⟩

@[simp] theorem State.rtLoad_withRtLoad (s : State) (v : Option RunLoad) : (s.withRtLoad v).rtLoad = v := rfl

@[simp] theorem State.reg_withRtLoad (s : State) (v : Option RunLoad) (a : Nat) : (s.withRtLoad v).reg a = s.reg a := rfl

@[simp] theorem State.f_withRtLoad (s : State) (v : Option RunLoad) (x : Fld) : (s.withRtLoad v).f x = s.f x := rfl

@[simp] theorem State.withPolLoad_frame (s : State) (v : Option RunLoad) :
    (s.withPolLoad v).pending = s.pending ∧
    (s.withPolLoad v).free = s.free ∧
    (s.withPolLoad v).readData = s.readData ∧
    (s.withPolLoad v).now = s.now ∧
    (s.withPolLoad v).regs = s.regs ∧
    (s.withPolLoad v).mem = s.mem ∧
    (s.withPolLoad v).hostMem0 = s.hostMem0 ∧
    (s.withPolLoad v).hostMem1 = s.hostMem1 ∧
    (s.withPolLoad v).tbs = s.tbs ∧
    (s.withPolLoad v).tbCap = s.tbCap ∧
    (s.withPolLoad v).timeUp = s.timeUp ∧
    (s.withPolLoad v).timeDist = s.timeDist ∧
    (s.withPolLoad v).bdq = s.bdq ∧
    (s.withPolLoad v).lanes = s.lanes ∧
    (s.withPolLoad v).pins = s.pins ∧
    (s.withPolLoad v).buses = s.buses ∧
    (s.withPolLoad v).txTurn = s.txTurn ∧
    (s.withPolLoad v).nextEnt = s.nextEnt ∧
    (s.withPolLoad v).nextDone = s.nextDone ∧
    (s.withPolLoad v).fetched = s.fetched ∧
    (s.withPolLoad v).seWait = s.seWait ∧
    (s.withPolLoad v).objs = s.objs ∧
    (s.withPolLoad v).fltLoads = s.fltLoads ∧
    (s.withPolLoad v).caches = s.caches ∧
    (s.withPolLoad v).rtLoad = s.rtLoad ∧
    (s.withPolLoad v).routeGen = s.routeGen ∧
    (s.withPolLoad v).kills = s.kills ∧
    (s.withPolLoad v).killDue = s.killDue ∧
    (s.withPolLoad v).voqs = s.voqs ∧
    (s.withPolLoad v).ctqs = s.ctqs ∧
    (s.withPolLoad v).ptrs = s.ptrs ∧
    (s.withPolLoad v).cells = s.cells ∧
    (s.withPolLoad v).frames = s.frames ∧
    (s.withPolLoad v).nextFid = s.nextFid ∧
    (s.withPolLoad v).nextValid = s.nextValid ∧
    (s.withPolLoad v).charged = s.charged ∧
    (s.withPolLoad v).avg = s.avg ∧
    (s.withPolLoad v).lfsr = s.lfsr ∧
    (s.withPolLoad v).buckets = s.buckets ∧
    (s.withPolLoad v).cqHeld = s.cqHeld ∧
    (s.withPolLoad v).lowCond = s.lowCond ∧
    (s.withPolLoad v).chargeSeen = s.chargeSeen ∧
    (s.withPolLoad v).sweepAt = s.sweepAt ∧
    (s.withPolLoad v).sqs = s.sqs ∧
    (s.withPolLoad v).cqs = s.cqs ∧
    (s.withPolLoad v).funcs = s.funcs ∧
    (s.withPolLoad v).held = s.held ∧
    (s.withPolLoad v).srcs = s.srcs ∧
    (s.withPolLoad v).tgts = s.tgts ∧
    (s.withPolLoad v).mor = s.mor ∧
    (s.withPolLoad v).stack = s.stack ∧
    (s.withPolLoad v).eths = s.eths ∧
    (s.withPolLoad v).snow = s.snow ∧
    (s.withPolLoad v).power = s.power ∧
    (s.withPolLoad v).boot = s.boot ∧
    (s.withPolLoad v).poison = s.poison ∧
    (s.withPolLoad v).engs = s.engs := by
  refine ⟨rfl, rfl, rfl, rfl, rfl, rfl, rfl, rfl, rfl, rfl, rfl, rfl, rfl, rfl, rfl, rfl, rfl, rfl, rfl, rfl, rfl, rfl, rfl, rfl, rfl, rfl, rfl, rfl, rfl, rfl, rfl, rfl, rfl, rfl, rfl, rfl, rfl, rfl, rfl, rfl, rfl, rfl, rfl, rfl, rfl, rfl, rfl, rfl, rfl, rfl, rfl, rfl, rfl, rfl, rfl, rfl, rfl⟩

@[simp] theorem State.polLoad_withPolLoad (s : State) (v : Option RunLoad) : (s.withPolLoad v).polLoad = v := rfl

@[simp] theorem State.reg_withPolLoad (s : State) (v : Option RunLoad) (a : Nat) : (s.withPolLoad v).reg a = s.reg a := rfl

@[simp] theorem State.f_withPolLoad (s : State) (v : Option RunLoad) (x : Fld) : (s.withPolLoad v).f x = s.f x := rfl

@[simp] theorem State.withKillDue_frame (s : State) (v : Option Nat) :
    (s.withKillDue v).pending = s.pending ∧
    (s.withKillDue v).free = s.free ∧
    (s.withKillDue v).readData = s.readData ∧
    (s.withKillDue v).now = s.now ∧
    (s.withKillDue v).regs = s.regs ∧
    (s.withKillDue v).mem = s.mem ∧
    (s.withKillDue v).hostMem0 = s.hostMem0 ∧
    (s.withKillDue v).hostMem1 = s.hostMem1 ∧
    (s.withKillDue v).tbs = s.tbs ∧
    (s.withKillDue v).tbCap = s.tbCap ∧
    (s.withKillDue v).timeUp = s.timeUp ∧
    (s.withKillDue v).timeDist = s.timeDist ∧
    (s.withKillDue v).bdq = s.bdq ∧
    (s.withKillDue v).lanes = s.lanes ∧
    (s.withKillDue v).pins = s.pins ∧
    (s.withKillDue v).buses = s.buses ∧
    (s.withKillDue v).txTurn = s.txTurn ∧
    (s.withKillDue v).nextEnt = s.nextEnt ∧
    (s.withKillDue v).nextDone = s.nextDone ∧
    (s.withKillDue v).fetched = s.fetched ∧
    (s.withKillDue v).seWait = s.seWait ∧
    (s.withKillDue v).objs = s.objs ∧
    (s.withKillDue v).fltLoads = s.fltLoads ∧
    (s.withKillDue v).caches = s.caches ∧
    (s.withKillDue v).rtLoad = s.rtLoad ∧
    (s.withKillDue v).polLoad = s.polLoad ∧
    (s.withKillDue v).routeGen = s.routeGen ∧
    (s.withKillDue v).kills = s.kills ∧
    (s.withKillDue v).voqs = s.voqs ∧
    (s.withKillDue v).ctqs = s.ctqs ∧
    (s.withKillDue v).ptrs = s.ptrs ∧
    (s.withKillDue v).cells = s.cells ∧
    (s.withKillDue v).frames = s.frames ∧
    (s.withKillDue v).nextFid = s.nextFid ∧
    (s.withKillDue v).nextValid = s.nextValid ∧
    (s.withKillDue v).charged = s.charged ∧
    (s.withKillDue v).avg = s.avg ∧
    (s.withKillDue v).lfsr = s.lfsr ∧
    (s.withKillDue v).buckets = s.buckets ∧
    (s.withKillDue v).cqHeld = s.cqHeld ∧
    (s.withKillDue v).lowCond = s.lowCond ∧
    (s.withKillDue v).chargeSeen = s.chargeSeen ∧
    (s.withKillDue v).sweepAt = s.sweepAt ∧
    (s.withKillDue v).sqs = s.sqs ∧
    (s.withKillDue v).cqs = s.cqs ∧
    (s.withKillDue v).funcs = s.funcs ∧
    (s.withKillDue v).held = s.held ∧
    (s.withKillDue v).srcs = s.srcs ∧
    (s.withKillDue v).tgts = s.tgts ∧
    (s.withKillDue v).mor = s.mor ∧
    (s.withKillDue v).stack = s.stack ∧
    (s.withKillDue v).eths = s.eths ∧
    (s.withKillDue v).snow = s.snow ∧
    (s.withKillDue v).power = s.power ∧
    (s.withKillDue v).boot = s.boot ∧
    (s.withKillDue v).poison = s.poison ∧
    (s.withKillDue v).engs = s.engs := by
  refine ⟨rfl, rfl, rfl, rfl, rfl, rfl, rfl, rfl, rfl, rfl, rfl, rfl, rfl, rfl, rfl, rfl, rfl, rfl, rfl, rfl, rfl, rfl, rfl, rfl, rfl, rfl, rfl, rfl, rfl, rfl, rfl, rfl, rfl, rfl, rfl, rfl, rfl, rfl, rfl, rfl, rfl, rfl, rfl, rfl, rfl, rfl, rfl, rfl, rfl, rfl, rfl, rfl, rfl, rfl, rfl, rfl, rfl⟩

@[simp] theorem State.killDue_withKillDue (s : State) (v : Option Nat) : (s.withKillDue v).killDue = v := rfl

@[simp] theorem State.reg_withKillDue (s : State) (v : Option Nat) (a : Nat) : (s.withKillDue v).reg a = s.reg a := rfl

@[simp] theorem State.f_withKillDue (s : State) (v : Option Nat) (x : Fld) : (s.withKillDue v).f x = s.f x := rfl

@[simp] theorem State.withNextFid_frame (s : State) (v : Nat) :
    (s.withNextFid v).pending = s.pending ∧
    (s.withNextFid v).free = s.free ∧
    (s.withNextFid v).readData = s.readData ∧
    (s.withNextFid v).now = s.now ∧
    (s.withNextFid v).regs = s.regs ∧
    (s.withNextFid v).mem = s.mem ∧
    (s.withNextFid v).hostMem0 = s.hostMem0 ∧
    (s.withNextFid v).hostMem1 = s.hostMem1 ∧
    (s.withNextFid v).tbs = s.tbs ∧
    (s.withNextFid v).tbCap = s.tbCap ∧
    (s.withNextFid v).timeUp = s.timeUp ∧
    (s.withNextFid v).timeDist = s.timeDist ∧
    (s.withNextFid v).bdq = s.bdq ∧
    (s.withNextFid v).lanes = s.lanes ∧
    (s.withNextFid v).pins = s.pins ∧
    (s.withNextFid v).buses = s.buses ∧
    (s.withNextFid v).txTurn = s.txTurn ∧
    (s.withNextFid v).nextEnt = s.nextEnt ∧
    (s.withNextFid v).nextDone = s.nextDone ∧
    (s.withNextFid v).fetched = s.fetched ∧
    (s.withNextFid v).seWait = s.seWait ∧
    (s.withNextFid v).objs = s.objs ∧
    (s.withNextFid v).fltLoads = s.fltLoads ∧
    (s.withNextFid v).caches = s.caches ∧
    (s.withNextFid v).rtLoad = s.rtLoad ∧
    (s.withNextFid v).polLoad = s.polLoad ∧
    (s.withNextFid v).routeGen = s.routeGen ∧
    (s.withNextFid v).kills = s.kills ∧
    (s.withNextFid v).killDue = s.killDue ∧
    (s.withNextFid v).voqs = s.voqs ∧
    (s.withNextFid v).ctqs = s.ctqs ∧
    (s.withNextFid v).ptrs = s.ptrs ∧
    (s.withNextFid v).cells = s.cells ∧
    (s.withNextFid v).frames = s.frames ∧
    (s.withNextFid v).nextValid = s.nextValid ∧
    (s.withNextFid v).charged = s.charged ∧
    (s.withNextFid v).avg = s.avg ∧
    (s.withNextFid v).lfsr = s.lfsr ∧
    (s.withNextFid v).buckets = s.buckets ∧
    (s.withNextFid v).cqHeld = s.cqHeld ∧
    (s.withNextFid v).lowCond = s.lowCond ∧
    (s.withNextFid v).chargeSeen = s.chargeSeen ∧
    (s.withNextFid v).sweepAt = s.sweepAt ∧
    (s.withNextFid v).sqs = s.sqs ∧
    (s.withNextFid v).cqs = s.cqs ∧
    (s.withNextFid v).funcs = s.funcs ∧
    (s.withNextFid v).held = s.held ∧
    (s.withNextFid v).srcs = s.srcs ∧
    (s.withNextFid v).tgts = s.tgts ∧
    (s.withNextFid v).mor = s.mor ∧
    (s.withNextFid v).stack = s.stack ∧
    (s.withNextFid v).eths = s.eths ∧
    (s.withNextFid v).snow = s.snow ∧
    (s.withNextFid v).power = s.power ∧
    (s.withNextFid v).boot = s.boot ∧
    (s.withNextFid v).poison = s.poison ∧
    (s.withNextFid v).engs = s.engs := by
  refine ⟨rfl, rfl, rfl, rfl, rfl, rfl, rfl, rfl, rfl, rfl, rfl, rfl, rfl, rfl, rfl, rfl, rfl, rfl, rfl, rfl, rfl, rfl, rfl, rfl, rfl, rfl, rfl, rfl, rfl, rfl, rfl, rfl, rfl, rfl, rfl, rfl, rfl, rfl, rfl, rfl, rfl, rfl, rfl, rfl, rfl, rfl, rfl, rfl, rfl, rfl, rfl, rfl, rfl, rfl, rfl, rfl, rfl⟩

@[simp] theorem State.nextFid_withNextFid (s : State) (v : Nat) : (s.withNextFid v).nextFid = v := rfl

@[simp] theorem State.reg_withNextFid (s : State) (v : Nat) (a : Nat) : (s.withNextFid v).reg a = s.reg a := rfl

@[simp] theorem State.f_withNextFid (s : State) (v : Nat) (x : Fld) : (s.withNextFid v).f x = s.f x := rfl

@[simp] theorem State.withLowCond_frame (s : State) (v : Bool) :
    (s.withLowCond v).pending = s.pending ∧
    (s.withLowCond v).free = s.free ∧
    (s.withLowCond v).readData = s.readData ∧
    (s.withLowCond v).now = s.now ∧
    (s.withLowCond v).regs = s.regs ∧
    (s.withLowCond v).mem = s.mem ∧
    (s.withLowCond v).hostMem0 = s.hostMem0 ∧
    (s.withLowCond v).hostMem1 = s.hostMem1 ∧
    (s.withLowCond v).tbs = s.tbs ∧
    (s.withLowCond v).tbCap = s.tbCap ∧
    (s.withLowCond v).timeUp = s.timeUp ∧
    (s.withLowCond v).timeDist = s.timeDist ∧
    (s.withLowCond v).bdq = s.bdq ∧
    (s.withLowCond v).lanes = s.lanes ∧
    (s.withLowCond v).pins = s.pins ∧
    (s.withLowCond v).buses = s.buses ∧
    (s.withLowCond v).txTurn = s.txTurn ∧
    (s.withLowCond v).nextEnt = s.nextEnt ∧
    (s.withLowCond v).nextDone = s.nextDone ∧
    (s.withLowCond v).fetched = s.fetched ∧
    (s.withLowCond v).seWait = s.seWait ∧
    (s.withLowCond v).objs = s.objs ∧
    (s.withLowCond v).fltLoads = s.fltLoads ∧
    (s.withLowCond v).caches = s.caches ∧
    (s.withLowCond v).rtLoad = s.rtLoad ∧
    (s.withLowCond v).polLoad = s.polLoad ∧
    (s.withLowCond v).routeGen = s.routeGen ∧
    (s.withLowCond v).kills = s.kills ∧
    (s.withLowCond v).killDue = s.killDue ∧
    (s.withLowCond v).voqs = s.voqs ∧
    (s.withLowCond v).ctqs = s.ctqs ∧
    (s.withLowCond v).ptrs = s.ptrs ∧
    (s.withLowCond v).cells = s.cells ∧
    (s.withLowCond v).frames = s.frames ∧
    (s.withLowCond v).nextFid = s.nextFid ∧
    (s.withLowCond v).nextValid = s.nextValid ∧
    (s.withLowCond v).charged = s.charged ∧
    (s.withLowCond v).avg = s.avg ∧
    (s.withLowCond v).lfsr = s.lfsr ∧
    (s.withLowCond v).buckets = s.buckets ∧
    (s.withLowCond v).cqHeld = s.cqHeld ∧
    (s.withLowCond v).chargeSeen = s.chargeSeen ∧
    (s.withLowCond v).sweepAt = s.sweepAt ∧
    (s.withLowCond v).sqs = s.sqs ∧
    (s.withLowCond v).cqs = s.cqs ∧
    (s.withLowCond v).funcs = s.funcs ∧
    (s.withLowCond v).held = s.held ∧
    (s.withLowCond v).srcs = s.srcs ∧
    (s.withLowCond v).tgts = s.tgts ∧
    (s.withLowCond v).mor = s.mor ∧
    (s.withLowCond v).stack = s.stack ∧
    (s.withLowCond v).eths = s.eths ∧
    (s.withLowCond v).snow = s.snow ∧
    (s.withLowCond v).power = s.power ∧
    (s.withLowCond v).boot = s.boot ∧
    (s.withLowCond v).poison = s.poison ∧
    (s.withLowCond v).engs = s.engs := by
  refine ⟨rfl, rfl, rfl, rfl, rfl, rfl, rfl, rfl, rfl, rfl, rfl, rfl, rfl, rfl, rfl, rfl, rfl, rfl, rfl, rfl, rfl, rfl, rfl, rfl, rfl, rfl, rfl, rfl, rfl, rfl, rfl, rfl, rfl, rfl, rfl, rfl, rfl, rfl, rfl, rfl, rfl, rfl, rfl, rfl, rfl, rfl, rfl, rfl, rfl, rfl, rfl, rfl, rfl, rfl, rfl, rfl, rfl⟩

@[simp] theorem State.lowCond_withLowCond (s : State) (v : Bool) : (s.withLowCond v).lowCond = v := rfl

@[simp] theorem State.reg_withLowCond (s : State) (v : Bool) (a : Nat) : (s.withLowCond v).reg a = s.reg a := rfl

@[simp] theorem State.f_withLowCond (s : State) (v : Bool) (x : Fld) : (s.withLowCond v).f x = s.f x := rfl

@[simp] theorem State.withHeld_frame (s : State) (v : List Held) :
    (s.withHeld v).pending = s.pending ∧
    (s.withHeld v).free = s.free ∧
    (s.withHeld v).readData = s.readData ∧
    (s.withHeld v).now = s.now ∧
    (s.withHeld v).regs = s.regs ∧
    (s.withHeld v).mem = s.mem ∧
    (s.withHeld v).hostMem0 = s.hostMem0 ∧
    (s.withHeld v).hostMem1 = s.hostMem1 ∧
    (s.withHeld v).tbs = s.tbs ∧
    (s.withHeld v).tbCap = s.tbCap ∧
    (s.withHeld v).timeUp = s.timeUp ∧
    (s.withHeld v).timeDist = s.timeDist ∧
    (s.withHeld v).bdq = s.bdq ∧
    (s.withHeld v).lanes = s.lanes ∧
    (s.withHeld v).pins = s.pins ∧
    (s.withHeld v).buses = s.buses ∧
    (s.withHeld v).txTurn = s.txTurn ∧
    (s.withHeld v).nextEnt = s.nextEnt ∧
    (s.withHeld v).nextDone = s.nextDone ∧
    (s.withHeld v).fetched = s.fetched ∧
    (s.withHeld v).seWait = s.seWait ∧
    (s.withHeld v).objs = s.objs ∧
    (s.withHeld v).fltLoads = s.fltLoads ∧
    (s.withHeld v).caches = s.caches ∧
    (s.withHeld v).rtLoad = s.rtLoad ∧
    (s.withHeld v).polLoad = s.polLoad ∧
    (s.withHeld v).routeGen = s.routeGen ∧
    (s.withHeld v).kills = s.kills ∧
    (s.withHeld v).killDue = s.killDue ∧
    (s.withHeld v).voqs = s.voqs ∧
    (s.withHeld v).ctqs = s.ctqs ∧
    (s.withHeld v).ptrs = s.ptrs ∧
    (s.withHeld v).cells = s.cells ∧
    (s.withHeld v).frames = s.frames ∧
    (s.withHeld v).nextFid = s.nextFid ∧
    (s.withHeld v).nextValid = s.nextValid ∧
    (s.withHeld v).charged = s.charged ∧
    (s.withHeld v).avg = s.avg ∧
    (s.withHeld v).lfsr = s.lfsr ∧
    (s.withHeld v).buckets = s.buckets ∧
    (s.withHeld v).cqHeld = s.cqHeld ∧
    (s.withHeld v).lowCond = s.lowCond ∧
    (s.withHeld v).chargeSeen = s.chargeSeen ∧
    (s.withHeld v).sweepAt = s.sweepAt ∧
    (s.withHeld v).sqs = s.sqs ∧
    (s.withHeld v).cqs = s.cqs ∧
    (s.withHeld v).funcs = s.funcs ∧
    (s.withHeld v).srcs = s.srcs ∧
    (s.withHeld v).tgts = s.tgts ∧
    (s.withHeld v).mor = s.mor ∧
    (s.withHeld v).stack = s.stack ∧
    (s.withHeld v).eths = s.eths ∧
    (s.withHeld v).snow = s.snow ∧
    (s.withHeld v).power = s.power ∧
    (s.withHeld v).boot = s.boot ∧
    (s.withHeld v).poison = s.poison ∧
    (s.withHeld v).engs = s.engs := by
  refine ⟨rfl, rfl, rfl, rfl, rfl, rfl, rfl, rfl, rfl, rfl, rfl, rfl, rfl, rfl, rfl, rfl, rfl, rfl, rfl, rfl, rfl, rfl, rfl, rfl, rfl, rfl, rfl, rfl, rfl, rfl, rfl, rfl, rfl, rfl, rfl, rfl, rfl, rfl, rfl, rfl, rfl, rfl, rfl, rfl, rfl, rfl, rfl, rfl, rfl, rfl, rfl, rfl, rfl, rfl, rfl, rfl, rfl⟩

@[simp] theorem State.held_withHeld (s : State) (v : List Held) : (s.withHeld v).held = v := rfl

@[simp] theorem State.reg_withHeld (s : State) (v : List Held) (a : Nat) : (s.withHeld v).reg a = s.reg a := rfl

@[simp] theorem State.f_withHeld (s : State) (v : List Held) (x : Fld) : (s.withHeld v).f x = s.f x := rfl

@[simp] theorem State.withMor_frame (s : State) (v : Moraine) :
    (s.withMor v).pending = s.pending ∧
    (s.withMor v).free = s.free ∧
    (s.withMor v).readData = s.readData ∧
    (s.withMor v).now = s.now ∧
    (s.withMor v).regs = s.regs ∧
    (s.withMor v).mem = s.mem ∧
    (s.withMor v).hostMem0 = s.hostMem0 ∧
    (s.withMor v).hostMem1 = s.hostMem1 ∧
    (s.withMor v).tbs = s.tbs ∧
    (s.withMor v).tbCap = s.tbCap ∧
    (s.withMor v).timeUp = s.timeUp ∧
    (s.withMor v).timeDist = s.timeDist ∧
    (s.withMor v).bdq = s.bdq ∧
    (s.withMor v).lanes = s.lanes ∧
    (s.withMor v).pins = s.pins ∧
    (s.withMor v).buses = s.buses ∧
    (s.withMor v).txTurn = s.txTurn ∧
    (s.withMor v).nextEnt = s.nextEnt ∧
    (s.withMor v).nextDone = s.nextDone ∧
    (s.withMor v).fetched = s.fetched ∧
    (s.withMor v).seWait = s.seWait ∧
    (s.withMor v).objs = s.objs ∧
    (s.withMor v).fltLoads = s.fltLoads ∧
    (s.withMor v).caches = s.caches ∧
    (s.withMor v).rtLoad = s.rtLoad ∧
    (s.withMor v).polLoad = s.polLoad ∧
    (s.withMor v).routeGen = s.routeGen ∧
    (s.withMor v).kills = s.kills ∧
    (s.withMor v).killDue = s.killDue ∧
    (s.withMor v).voqs = s.voqs ∧
    (s.withMor v).ctqs = s.ctqs ∧
    (s.withMor v).ptrs = s.ptrs ∧
    (s.withMor v).cells = s.cells ∧
    (s.withMor v).frames = s.frames ∧
    (s.withMor v).nextFid = s.nextFid ∧
    (s.withMor v).nextValid = s.nextValid ∧
    (s.withMor v).charged = s.charged ∧
    (s.withMor v).avg = s.avg ∧
    (s.withMor v).lfsr = s.lfsr ∧
    (s.withMor v).buckets = s.buckets ∧
    (s.withMor v).cqHeld = s.cqHeld ∧
    (s.withMor v).lowCond = s.lowCond ∧
    (s.withMor v).chargeSeen = s.chargeSeen ∧
    (s.withMor v).sweepAt = s.sweepAt ∧
    (s.withMor v).sqs = s.sqs ∧
    (s.withMor v).cqs = s.cqs ∧
    (s.withMor v).funcs = s.funcs ∧
    (s.withMor v).held = s.held ∧
    (s.withMor v).srcs = s.srcs ∧
    (s.withMor v).tgts = s.tgts ∧
    (s.withMor v).stack = s.stack ∧
    (s.withMor v).eths = s.eths ∧
    (s.withMor v).snow = s.snow ∧
    (s.withMor v).power = s.power ∧
    (s.withMor v).boot = s.boot ∧
    (s.withMor v).poison = s.poison ∧
    (s.withMor v).engs = s.engs := by
  refine ⟨rfl, rfl, rfl, rfl, rfl, rfl, rfl, rfl, rfl, rfl, rfl, rfl, rfl, rfl, rfl, rfl, rfl, rfl, rfl, rfl, rfl, rfl, rfl, rfl, rfl, rfl, rfl, rfl, rfl, rfl, rfl, rfl, rfl, rfl, rfl, rfl, rfl, rfl, rfl, rfl, rfl, rfl, rfl, rfl, rfl, rfl, rfl, rfl, rfl, rfl, rfl, rfl, rfl, rfl, rfl, rfl, rfl⟩

@[simp] theorem State.mor_withMor (s : State) (v : Moraine) : (s.withMor v).mor = v := rfl

@[simp] theorem State.reg_withMor (s : State) (v : Moraine) (a : Nat) : (s.withMor v).reg a = s.reg a := rfl

@[simp] theorem State.f_withMor (s : State) (v : Moraine) (x : Fld) : (s.withMor v).f x = s.f x := rfl

@[simp] theorem State.withStack_frame (s : State) (v : Stack) :
    (s.withStack v).pending = s.pending ∧
    (s.withStack v).free = s.free ∧
    (s.withStack v).readData = s.readData ∧
    (s.withStack v).now = s.now ∧
    (s.withStack v).regs = s.regs ∧
    (s.withStack v).mem = s.mem ∧
    (s.withStack v).hostMem0 = s.hostMem0 ∧
    (s.withStack v).hostMem1 = s.hostMem1 ∧
    (s.withStack v).tbs = s.tbs ∧
    (s.withStack v).tbCap = s.tbCap ∧
    (s.withStack v).timeUp = s.timeUp ∧
    (s.withStack v).timeDist = s.timeDist ∧
    (s.withStack v).bdq = s.bdq ∧
    (s.withStack v).lanes = s.lanes ∧
    (s.withStack v).pins = s.pins ∧
    (s.withStack v).buses = s.buses ∧
    (s.withStack v).txTurn = s.txTurn ∧
    (s.withStack v).nextEnt = s.nextEnt ∧
    (s.withStack v).nextDone = s.nextDone ∧
    (s.withStack v).fetched = s.fetched ∧
    (s.withStack v).seWait = s.seWait ∧
    (s.withStack v).objs = s.objs ∧
    (s.withStack v).fltLoads = s.fltLoads ∧
    (s.withStack v).caches = s.caches ∧
    (s.withStack v).rtLoad = s.rtLoad ∧
    (s.withStack v).polLoad = s.polLoad ∧
    (s.withStack v).routeGen = s.routeGen ∧
    (s.withStack v).kills = s.kills ∧
    (s.withStack v).killDue = s.killDue ∧
    (s.withStack v).voqs = s.voqs ∧
    (s.withStack v).ctqs = s.ctqs ∧
    (s.withStack v).ptrs = s.ptrs ∧
    (s.withStack v).cells = s.cells ∧
    (s.withStack v).frames = s.frames ∧
    (s.withStack v).nextFid = s.nextFid ∧
    (s.withStack v).nextValid = s.nextValid ∧
    (s.withStack v).charged = s.charged ∧
    (s.withStack v).avg = s.avg ∧
    (s.withStack v).lfsr = s.lfsr ∧
    (s.withStack v).buckets = s.buckets ∧
    (s.withStack v).cqHeld = s.cqHeld ∧
    (s.withStack v).lowCond = s.lowCond ∧
    (s.withStack v).chargeSeen = s.chargeSeen ∧
    (s.withStack v).sweepAt = s.sweepAt ∧
    (s.withStack v).sqs = s.sqs ∧
    (s.withStack v).cqs = s.cqs ∧
    (s.withStack v).funcs = s.funcs ∧
    (s.withStack v).held = s.held ∧
    (s.withStack v).srcs = s.srcs ∧
    (s.withStack v).tgts = s.tgts ∧
    (s.withStack v).mor = s.mor ∧
    (s.withStack v).eths = s.eths ∧
    (s.withStack v).snow = s.snow ∧
    (s.withStack v).power = s.power ∧
    (s.withStack v).boot = s.boot ∧
    (s.withStack v).poison = s.poison ∧
    (s.withStack v).engs = s.engs := by
  refine ⟨rfl, rfl, rfl, rfl, rfl, rfl, rfl, rfl, rfl, rfl, rfl, rfl, rfl, rfl, rfl, rfl, rfl, rfl, rfl, rfl, rfl, rfl, rfl, rfl, rfl, rfl, rfl, rfl, rfl, rfl, rfl, rfl, rfl, rfl, rfl, rfl, rfl, rfl, rfl, rfl, rfl, rfl, rfl, rfl, rfl, rfl, rfl, rfl, rfl, rfl, rfl, rfl, rfl, rfl, rfl, rfl, rfl⟩

@[simp] theorem State.stack_withStack (s : State) (v : Stack) : (s.withStack v).stack = v := rfl

@[simp] theorem State.reg_withStack (s : State) (v : Stack) (a : Nat) : (s.withStack v).reg a = s.reg a := rfl

@[simp] theorem State.f_withStack (s : State) (v : Stack) (x : Fld) : (s.withStack v).f x = s.f x := rfl

@[simp] theorem State.withSnow_frame (s : State) (v : Snow) :
    (s.withSnow v).pending = s.pending ∧
    (s.withSnow v).free = s.free ∧
    (s.withSnow v).readData = s.readData ∧
    (s.withSnow v).now = s.now ∧
    (s.withSnow v).regs = s.regs ∧
    (s.withSnow v).mem = s.mem ∧
    (s.withSnow v).hostMem0 = s.hostMem0 ∧
    (s.withSnow v).hostMem1 = s.hostMem1 ∧
    (s.withSnow v).tbs = s.tbs ∧
    (s.withSnow v).tbCap = s.tbCap ∧
    (s.withSnow v).timeUp = s.timeUp ∧
    (s.withSnow v).timeDist = s.timeDist ∧
    (s.withSnow v).bdq = s.bdq ∧
    (s.withSnow v).lanes = s.lanes ∧
    (s.withSnow v).pins = s.pins ∧
    (s.withSnow v).buses = s.buses ∧
    (s.withSnow v).txTurn = s.txTurn ∧
    (s.withSnow v).nextEnt = s.nextEnt ∧
    (s.withSnow v).nextDone = s.nextDone ∧
    (s.withSnow v).fetched = s.fetched ∧
    (s.withSnow v).seWait = s.seWait ∧
    (s.withSnow v).objs = s.objs ∧
    (s.withSnow v).fltLoads = s.fltLoads ∧
    (s.withSnow v).caches = s.caches ∧
    (s.withSnow v).rtLoad = s.rtLoad ∧
    (s.withSnow v).polLoad = s.polLoad ∧
    (s.withSnow v).routeGen = s.routeGen ∧
    (s.withSnow v).kills = s.kills ∧
    (s.withSnow v).killDue = s.killDue ∧
    (s.withSnow v).voqs = s.voqs ∧
    (s.withSnow v).ctqs = s.ctqs ∧
    (s.withSnow v).ptrs = s.ptrs ∧
    (s.withSnow v).cells = s.cells ∧
    (s.withSnow v).frames = s.frames ∧
    (s.withSnow v).nextFid = s.nextFid ∧
    (s.withSnow v).nextValid = s.nextValid ∧
    (s.withSnow v).charged = s.charged ∧
    (s.withSnow v).avg = s.avg ∧
    (s.withSnow v).lfsr = s.lfsr ∧
    (s.withSnow v).buckets = s.buckets ∧
    (s.withSnow v).cqHeld = s.cqHeld ∧
    (s.withSnow v).lowCond = s.lowCond ∧
    (s.withSnow v).chargeSeen = s.chargeSeen ∧
    (s.withSnow v).sweepAt = s.sweepAt ∧
    (s.withSnow v).sqs = s.sqs ∧
    (s.withSnow v).cqs = s.cqs ∧
    (s.withSnow v).funcs = s.funcs ∧
    (s.withSnow v).held = s.held ∧
    (s.withSnow v).srcs = s.srcs ∧
    (s.withSnow v).tgts = s.tgts ∧
    (s.withSnow v).mor = s.mor ∧
    (s.withSnow v).stack = s.stack ∧
    (s.withSnow v).eths = s.eths ∧
    (s.withSnow v).power = s.power ∧
    (s.withSnow v).boot = s.boot ∧
    (s.withSnow v).poison = s.poison ∧
    (s.withSnow v).engs = s.engs := by
  refine ⟨rfl, rfl, rfl, rfl, rfl, rfl, rfl, rfl, rfl, rfl, rfl, rfl, rfl, rfl, rfl, rfl, rfl, rfl, rfl, rfl, rfl, rfl, rfl, rfl, rfl, rfl, rfl, rfl, rfl, rfl, rfl, rfl, rfl, rfl, rfl, rfl, rfl, rfl, rfl, rfl, rfl, rfl, rfl, rfl, rfl, rfl, rfl, rfl, rfl, rfl, rfl, rfl, rfl, rfl, rfl, rfl, rfl⟩

@[simp] theorem State.snow_withSnow (s : State) (v : Snow) : (s.withSnow v).snow = v := rfl

@[simp] theorem State.reg_withSnow (s : State) (v : Snow) (a : Nat) : (s.withSnow v).reg a = s.reg a := rfl

@[simp] theorem State.f_withSnow (s : State) (v : Snow) (x : Fld) : (s.withSnow v).f x = s.f x := rfl

@[simp] theorem State.withPower_frame (s : State) (v : Power) :
    (s.withPower v).pending = s.pending ∧
    (s.withPower v).free = s.free ∧
    (s.withPower v).readData = s.readData ∧
    (s.withPower v).now = s.now ∧
    (s.withPower v).regs = s.regs ∧
    (s.withPower v).mem = s.mem ∧
    (s.withPower v).hostMem0 = s.hostMem0 ∧
    (s.withPower v).hostMem1 = s.hostMem1 ∧
    (s.withPower v).tbs = s.tbs ∧
    (s.withPower v).tbCap = s.tbCap ∧
    (s.withPower v).timeUp = s.timeUp ∧
    (s.withPower v).timeDist = s.timeDist ∧
    (s.withPower v).bdq = s.bdq ∧
    (s.withPower v).lanes = s.lanes ∧
    (s.withPower v).pins = s.pins ∧
    (s.withPower v).buses = s.buses ∧
    (s.withPower v).txTurn = s.txTurn ∧
    (s.withPower v).nextEnt = s.nextEnt ∧
    (s.withPower v).nextDone = s.nextDone ∧
    (s.withPower v).fetched = s.fetched ∧
    (s.withPower v).seWait = s.seWait ∧
    (s.withPower v).objs = s.objs ∧
    (s.withPower v).fltLoads = s.fltLoads ∧
    (s.withPower v).caches = s.caches ∧
    (s.withPower v).rtLoad = s.rtLoad ∧
    (s.withPower v).polLoad = s.polLoad ∧
    (s.withPower v).routeGen = s.routeGen ∧
    (s.withPower v).kills = s.kills ∧
    (s.withPower v).killDue = s.killDue ∧
    (s.withPower v).voqs = s.voqs ∧
    (s.withPower v).ctqs = s.ctqs ∧
    (s.withPower v).ptrs = s.ptrs ∧
    (s.withPower v).cells = s.cells ∧
    (s.withPower v).frames = s.frames ∧
    (s.withPower v).nextFid = s.nextFid ∧
    (s.withPower v).nextValid = s.nextValid ∧
    (s.withPower v).charged = s.charged ∧
    (s.withPower v).avg = s.avg ∧
    (s.withPower v).lfsr = s.lfsr ∧
    (s.withPower v).buckets = s.buckets ∧
    (s.withPower v).cqHeld = s.cqHeld ∧
    (s.withPower v).lowCond = s.lowCond ∧
    (s.withPower v).chargeSeen = s.chargeSeen ∧
    (s.withPower v).sweepAt = s.sweepAt ∧
    (s.withPower v).sqs = s.sqs ∧
    (s.withPower v).cqs = s.cqs ∧
    (s.withPower v).funcs = s.funcs ∧
    (s.withPower v).held = s.held ∧
    (s.withPower v).srcs = s.srcs ∧
    (s.withPower v).tgts = s.tgts ∧
    (s.withPower v).mor = s.mor ∧
    (s.withPower v).stack = s.stack ∧
    (s.withPower v).eths = s.eths ∧
    (s.withPower v).snow = s.snow ∧
    (s.withPower v).boot = s.boot ∧
    (s.withPower v).poison = s.poison ∧
    (s.withPower v).engs = s.engs := by
  refine ⟨rfl, rfl, rfl, rfl, rfl, rfl, rfl, rfl, rfl, rfl, rfl, rfl, rfl, rfl, rfl, rfl, rfl, rfl, rfl, rfl, rfl, rfl, rfl, rfl, rfl, rfl, rfl, rfl, rfl, rfl, rfl, rfl, rfl, rfl, rfl, rfl, rfl, rfl, rfl, rfl, rfl, rfl, rfl, rfl, rfl, rfl, rfl, rfl, rfl, rfl, rfl, rfl, rfl, rfl, rfl, rfl, rfl⟩

@[simp] theorem State.power_withPower (s : State) (v : Power) : (s.withPower v).power = v := rfl

@[simp] theorem State.reg_withPower (s : State) (v : Power) (a : Nat) : (s.withPower v).reg a = s.reg a := rfl

@[simp] theorem State.f_withPower (s : State) (v : Power) (x : Fld) : (s.withPower v).f x = s.f x := rfl

@[simp] theorem State.withBoot_frame (s : State) (v : Boot) :
    (s.withBoot v).pending = s.pending ∧
    (s.withBoot v).free = s.free ∧
    (s.withBoot v).readData = s.readData ∧
    (s.withBoot v).now = s.now ∧
    (s.withBoot v).regs = s.regs ∧
    (s.withBoot v).mem = s.mem ∧
    (s.withBoot v).hostMem0 = s.hostMem0 ∧
    (s.withBoot v).hostMem1 = s.hostMem1 ∧
    (s.withBoot v).tbs = s.tbs ∧
    (s.withBoot v).tbCap = s.tbCap ∧
    (s.withBoot v).timeUp = s.timeUp ∧
    (s.withBoot v).timeDist = s.timeDist ∧
    (s.withBoot v).bdq = s.bdq ∧
    (s.withBoot v).lanes = s.lanes ∧
    (s.withBoot v).pins = s.pins ∧
    (s.withBoot v).buses = s.buses ∧
    (s.withBoot v).txTurn = s.txTurn ∧
    (s.withBoot v).nextEnt = s.nextEnt ∧
    (s.withBoot v).nextDone = s.nextDone ∧
    (s.withBoot v).fetched = s.fetched ∧
    (s.withBoot v).seWait = s.seWait ∧
    (s.withBoot v).objs = s.objs ∧
    (s.withBoot v).fltLoads = s.fltLoads ∧
    (s.withBoot v).caches = s.caches ∧
    (s.withBoot v).rtLoad = s.rtLoad ∧
    (s.withBoot v).polLoad = s.polLoad ∧
    (s.withBoot v).routeGen = s.routeGen ∧
    (s.withBoot v).kills = s.kills ∧
    (s.withBoot v).killDue = s.killDue ∧
    (s.withBoot v).voqs = s.voqs ∧
    (s.withBoot v).ctqs = s.ctqs ∧
    (s.withBoot v).ptrs = s.ptrs ∧
    (s.withBoot v).cells = s.cells ∧
    (s.withBoot v).frames = s.frames ∧
    (s.withBoot v).nextFid = s.nextFid ∧
    (s.withBoot v).nextValid = s.nextValid ∧
    (s.withBoot v).charged = s.charged ∧
    (s.withBoot v).avg = s.avg ∧
    (s.withBoot v).lfsr = s.lfsr ∧
    (s.withBoot v).buckets = s.buckets ∧
    (s.withBoot v).cqHeld = s.cqHeld ∧
    (s.withBoot v).lowCond = s.lowCond ∧
    (s.withBoot v).chargeSeen = s.chargeSeen ∧
    (s.withBoot v).sweepAt = s.sweepAt ∧
    (s.withBoot v).sqs = s.sqs ∧
    (s.withBoot v).cqs = s.cqs ∧
    (s.withBoot v).funcs = s.funcs ∧
    (s.withBoot v).held = s.held ∧
    (s.withBoot v).srcs = s.srcs ∧
    (s.withBoot v).tgts = s.tgts ∧
    (s.withBoot v).mor = s.mor ∧
    (s.withBoot v).stack = s.stack ∧
    (s.withBoot v).eths = s.eths ∧
    (s.withBoot v).snow = s.snow ∧
    (s.withBoot v).power = s.power ∧
    (s.withBoot v).poison = s.poison ∧
    (s.withBoot v).engs = s.engs := by
  refine ⟨rfl, rfl, rfl, rfl, rfl, rfl, rfl, rfl, rfl, rfl, rfl, rfl, rfl, rfl, rfl, rfl, rfl, rfl, rfl, rfl, rfl, rfl, rfl, rfl, rfl, rfl, rfl, rfl, rfl, rfl, rfl, rfl, rfl, rfl, rfl, rfl, rfl, rfl, rfl, rfl, rfl, rfl, rfl, rfl, rfl, rfl, rfl, rfl, rfl, rfl, rfl, rfl, rfl, rfl, rfl, rfl, rfl⟩

@[simp] theorem State.boot_withBoot (s : State) (v : Boot) : (s.withBoot v).boot = v := rfl

@[simp] theorem State.reg_withBoot (s : State) (v : Boot) (a : Nat) : (s.withBoot v).reg a = s.reg a := rfl

@[simp] theorem State.f_withBoot (s : State) (v : Boot) (x : Fld) : (s.withBoot v).f x = s.f x := rfl

@[simp] theorem State.withPoison_frame (s : State) (v : List (Nat × Nat)) :
    (s.withPoison v).pending = s.pending ∧
    (s.withPoison v).free = s.free ∧
    (s.withPoison v).readData = s.readData ∧
    (s.withPoison v).now = s.now ∧
    (s.withPoison v).regs = s.regs ∧
    (s.withPoison v).mem = s.mem ∧
    (s.withPoison v).hostMem0 = s.hostMem0 ∧
    (s.withPoison v).hostMem1 = s.hostMem1 ∧
    (s.withPoison v).tbs = s.tbs ∧
    (s.withPoison v).tbCap = s.tbCap ∧
    (s.withPoison v).timeUp = s.timeUp ∧
    (s.withPoison v).timeDist = s.timeDist ∧
    (s.withPoison v).bdq = s.bdq ∧
    (s.withPoison v).lanes = s.lanes ∧
    (s.withPoison v).pins = s.pins ∧
    (s.withPoison v).buses = s.buses ∧
    (s.withPoison v).txTurn = s.txTurn ∧
    (s.withPoison v).nextEnt = s.nextEnt ∧
    (s.withPoison v).nextDone = s.nextDone ∧
    (s.withPoison v).fetched = s.fetched ∧
    (s.withPoison v).seWait = s.seWait ∧
    (s.withPoison v).objs = s.objs ∧
    (s.withPoison v).fltLoads = s.fltLoads ∧
    (s.withPoison v).caches = s.caches ∧
    (s.withPoison v).rtLoad = s.rtLoad ∧
    (s.withPoison v).polLoad = s.polLoad ∧
    (s.withPoison v).routeGen = s.routeGen ∧
    (s.withPoison v).kills = s.kills ∧
    (s.withPoison v).killDue = s.killDue ∧
    (s.withPoison v).voqs = s.voqs ∧
    (s.withPoison v).ctqs = s.ctqs ∧
    (s.withPoison v).ptrs = s.ptrs ∧
    (s.withPoison v).cells = s.cells ∧
    (s.withPoison v).frames = s.frames ∧
    (s.withPoison v).nextFid = s.nextFid ∧
    (s.withPoison v).nextValid = s.nextValid ∧
    (s.withPoison v).charged = s.charged ∧
    (s.withPoison v).avg = s.avg ∧
    (s.withPoison v).lfsr = s.lfsr ∧
    (s.withPoison v).buckets = s.buckets ∧
    (s.withPoison v).cqHeld = s.cqHeld ∧
    (s.withPoison v).lowCond = s.lowCond ∧
    (s.withPoison v).chargeSeen = s.chargeSeen ∧
    (s.withPoison v).sweepAt = s.sweepAt ∧
    (s.withPoison v).sqs = s.sqs ∧
    (s.withPoison v).cqs = s.cqs ∧
    (s.withPoison v).funcs = s.funcs ∧
    (s.withPoison v).held = s.held ∧
    (s.withPoison v).srcs = s.srcs ∧
    (s.withPoison v).tgts = s.tgts ∧
    (s.withPoison v).mor = s.mor ∧
    (s.withPoison v).stack = s.stack ∧
    (s.withPoison v).eths = s.eths ∧
    (s.withPoison v).snow = s.snow ∧
    (s.withPoison v).power = s.power ∧
    (s.withPoison v).boot = s.boot ∧
    (s.withPoison v).engs = s.engs := by
  refine ⟨rfl, rfl, rfl, rfl, rfl, rfl, rfl, rfl, rfl, rfl, rfl, rfl, rfl, rfl, rfl, rfl, rfl, rfl, rfl, rfl, rfl, rfl, rfl, rfl, rfl, rfl, rfl, rfl, rfl, rfl, rfl, rfl, rfl, rfl, rfl, rfl, rfl, rfl, rfl, rfl, rfl, rfl, rfl, rfl, rfl, rfl, rfl, rfl, rfl, rfl, rfl, rfl, rfl, rfl, rfl, rfl, rfl⟩

@[simp] theorem State.poison_withPoison (s : State) (v : List (Nat × Nat)) : (s.withPoison v).poison = v := rfl

@[simp] theorem State.reg_withPoison (s : State) (v : List (Nat × Nat)) (a : Nat) : (s.withPoison v).reg a = s.reg a := rfl

@[simp] theorem State.f_withPoison (s : State) (v : List (Nat × Nat)) (x : Fld) : (s.withPoison v).f x = s.f x := rfl

@[simp] theorem State.setReg_frame (s : State) (a : Nat) (v : Word) :
    (s.setReg a v).pending = s.pending ∧
    (s.setReg a v).free = s.free ∧
    (s.setReg a v).readData = s.readData ∧
    (s.setReg a v).now = s.now ∧
    (s.setReg a v).mem = s.mem ∧
    (s.setReg a v).hostMem0 = s.hostMem0 ∧
    (s.setReg a v).hostMem1 = s.hostMem1 ∧
    (s.setReg a v).tbs = s.tbs ∧
    (s.setReg a v).tbCap = s.tbCap ∧
    (s.setReg a v).timeUp = s.timeUp ∧
    (s.setReg a v).timeDist = s.timeDist ∧
    (s.setReg a v).bdq = s.bdq ∧
    (s.setReg a v).lanes = s.lanes ∧
    (s.setReg a v).pins = s.pins ∧
    (s.setReg a v).buses = s.buses ∧
    (s.setReg a v).txTurn = s.txTurn ∧
    (s.setReg a v).nextEnt = s.nextEnt ∧
    (s.setReg a v).nextDone = s.nextDone ∧
    (s.setReg a v).fetched = s.fetched ∧
    (s.setReg a v).seWait = s.seWait ∧
    (s.setReg a v).objs = s.objs ∧
    (s.setReg a v).fltLoads = s.fltLoads ∧
    (s.setReg a v).caches = s.caches ∧
    (s.setReg a v).rtLoad = s.rtLoad ∧
    (s.setReg a v).polLoad = s.polLoad ∧
    (s.setReg a v).routeGen = s.routeGen ∧
    (s.setReg a v).kills = s.kills ∧
    (s.setReg a v).killDue = s.killDue ∧
    (s.setReg a v).voqs = s.voqs ∧
    (s.setReg a v).ctqs = s.ctqs ∧
    (s.setReg a v).ptrs = s.ptrs ∧
    (s.setReg a v).cells = s.cells ∧
    (s.setReg a v).frames = s.frames ∧
    (s.setReg a v).nextFid = s.nextFid ∧
    (s.setReg a v).nextValid = s.nextValid ∧
    (s.setReg a v).charged = s.charged ∧
    (s.setReg a v).avg = s.avg ∧
    (s.setReg a v).lfsr = s.lfsr ∧
    (s.setReg a v).buckets = s.buckets ∧
    (s.setReg a v).cqHeld = s.cqHeld ∧
    (s.setReg a v).lowCond = s.lowCond ∧
    (s.setReg a v).chargeSeen = s.chargeSeen ∧
    (s.setReg a v).sweepAt = s.sweepAt ∧
    (s.setReg a v).sqs = s.sqs ∧
    (s.setReg a v).cqs = s.cqs ∧
    (s.setReg a v).funcs = s.funcs ∧
    (s.setReg a v).held = s.held ∧
    (s.setReg a v).srcs = s.srcs ∧
    (s.setReg a v).tgts = s.tgts ∧
    (s.setReg a v).mor = s.mor ∧
    (s.setReg a v).stack = s.stack ∧
    (s.setReg a v).eths = s.eths ∧
    (s.setReg a v).snow = s.snow ∧
    (s.setReg a v).power = s.power ∧
    (s.setReg a v).boot = s.boot ∧
    (s.setReg a v).poison = s.poison ∧
    (s.setReg a v).engs = s.engs := by
  refine ⟨rfl, rfl, rfl, rfl, rfl, rfl, rfl, rfl, rfl, rfl, rfl, rfl, rfl, rfl, rfl, rfl, rfl, rfl, rfl, rfl, rfl, rfl, rfl, rfl, rfl, rfl, rfl, rfl, rfl, rfl, rfl, rfl, rfl, rfl, rfl, rfl, rfl, rfl, rfl, rfl, rfl, rfl, rfl, rfl, rfl, rfl, rfl, rfl, rfl, rfl, rfl, rfl, rfl, rfl, rfl, rfl, rfl⟩

@[simp] theorem State.reg_setReg_same (s : State) (a : Nat) (v : Word) : (s.setReg a v).reg a = v :=
  Tab.get_put_same _ _ _ _

theorem State.reg_setReg_other (s : State) (a b : Nat) (v : Word) (h : b ≠ a) : (s.setReg a v).reg b = s.reg b :=
  Tab.get_put_other _ _ _ _ _ h

@[simp] theorem State.reg_setTb (s : State) (k a : Nat) (v : TimeBase) : (s.setTb k v).reg a = s.reg a := rfl

@[simp] theorem State.f_setTb (s : State) (k : Nat) (v : TimeBase) (x : Fld) : (s.setTb k v).f x = s.f x := rfl

@[simp] theorem State.tb_setReg (s : State) (a k : Nat) (v : Word) : (s.setReg a v).tb k = s.tb k := rfl

@[simp] theorem State.reg_setLane (s : State) (k a : Nat) (v : Lane) : (s.setLane k v).reg a = s.reg a := rfl

@[simp] theorem State.f_setLane (s : State) (k : Nat) (v : Lane) (x : Fld) : (s.setLane k v).f x = s.f x := rfl

@[simp] theorem State.lane_setReg (s : State) (a k : Nat) (v : Word) : (s.setReg a v).lane k = s.lane k := rfl

@[simp] theorem State.reg_setPin (s : State) (k a : Nat) (v : PinEng) : (s.setPin k v).reg a = s.reg a := rfl

@[simp] theorem State.f_setPin (s : State) (k : Nat) (v : PinEng) (x : Fld) : (s.setPin k v).f x = s.f x := rfl

@[simp] theorem State.pin_setReg (s : State) (a k : Nat) (v : Word) : (s.setReg a v).pin k = s.pin k := rfl

@[simp] theorem State.reg_setBus (s : State) (k a : Nat) (v : List Entry) : (s.setBus k v).reg a = s.reg a := rfl

@[simp] theorem State.f_setBus (s : State) (k : Nat) (v : List Entry) (x : Fld) : (s.setBus k v).f x = s.f x := rfl

@[simp] theorem State.bus_setReg (s : State) (a k : Nat) (v : Word) : (s.setReg a v).bus k = s.bus k := rfl

@[simp] theorem State.reg_setObj (s : State) (k a : Nat) (v : Obj) : (s.setObj k v).reg a = s.reg a := rfl

@[simp] theorem State.f_setObj (s : State) (k : Nat) (v : Obj) (x : Fld) : (s.setObj k v).f x = s.f x := rfl

@[simp] theorem State.obj_setReg (s : State) (a k : Nat) (v : Word) : (s.setReg a v).obj k = s.obj k := rfl

@[simp] theorem State.reg_setFlt (s : State) (k a : Nat) (v : Option FltLoad) : (s.setFlt k v).reg a = s.reg a := rfl

@[simp] theorem State.f_setFlt (s : State) (k : Nat) (v : Option FltLoad) (x : Fld) : (s.setFlt k v).f x = s.f x := rfl

@[simp] theorem State.flt_setReg (s : State) (a k : Nat) (v : Word) : (s.setReg a v).flt k = s.flt k := rfl

@[simp] theorem State.reg_setGen (s : State) (k a : Nat) (v : Nat) : (s.setGen k v).reg a = s.reg a := rfl

@[simp] theorem State.f_setGen (s : State) (k : Nat) (v : Nat) (x : Fld) : (s.setGen k v).f x = s.f x := rfl

@[simp] theorem State.gen_setReg (s : State) (a k : Nat) (v : Word) : (s.setReg a v).gen k = s.gen k := rfl

@[simp] theorem State.reg_setKillsOf (s : State) (k a : Nat) (v : Nat) : (s.setKillsOf k v).reg a = s.reg a := rfl

@[simp] theorem State.f_setKillsOf (s : State) (k : Nat) (v : Nat) (x : Fld) : (s.setKillsOf k v).f x = s.f x := rfl

@[simp] theorem State.killsOf_setReg (s : State) (a k : Nat) (v : Word) : (s.setReg a v).killsOf k = s.killsOf k := rfl

@[simp] theorem State.reg_setVoq (s : State) (k a : Nat) (v : List VoqItem) : (s.setVoq k v).reg a = s.reg a := rfl

@[simp] theorem State.f_setVoq (s : State) (k : Nat) (v : List VoqItem) (x : Fld) : (s.setVoq k v).f x = s.f x := rfl

@[simp] theorem State.voq_setReg (s : State) (a k : Nat) (v : Word) : (s.setReg a v).voq k = s.voq k := rfl

@[simp] theorem State.reg_setCtq (s : State) (k a : Nat) (v : List (Nat × Nat)) : (s.setCtq k v).reg a = s.reg a := rfl

@[simp] theorem State.f_setCtq (s : State) (k : Nat) (v : List (Nat × Nat)) (x : Fld) : (s.setCtq k v).f x = s.f x := rfl

@[simp] theorem State.ctq_setReg (s : State) (a k : Nat) (v : Word) : (s.setReg a v).ctq k = s.ctq k := rfl

@[simp] theorem State.reg_setPtr (s : State) (k a : Nat) (v : ColPtr) : (s.setPtr k v).reg a = s.reg a := rfl

@[simp] theorem State.f_setPtr (s : State) (k : Nat) (v : ColPtr) (x : Fld) : (s.setPtr k v).f x = s.f x := rfl

@[simp] theorem State.ptr_setReg (s : State) (a k : Nat) (v : Word) : (s.setReg a v).ptr k = s.ptr k := rfl

@[simp] theorem State.reg_setCell (s : State) (k a : Nat) (v : Cell) : (s.setCell k v).reg a = s.reg a := rfl

@[simp] theorem State.f_setCell (s : State) (k : Nat) (v : Cell) (x : Fld) : (s.setCell k v).f x = s.f x := rfl

@[simp] theorem State.cell_setReg (s : State) (a k : Nat) (v : Word) : (s.setReg a v).cell k = s.cell k := rfl

@[simp] theorem State.reg_setFrame (s : State) (k a : Nat) (v : FirnFrame) : (s.setFrame k v).reg a = s.reg a := rfl

@[simp] theorem State.f_setFrame (s : State) (k : Nat) (v : FirnFrame) (x : Fld) : (s.setFrame k v).f x = s.f x := rfl

@[simp] theorem State.frame_setReg (s : State) (a k : Nat) (v : Word) : (s.setReg a v).frame k = s.frame k := rfl

@[simp] theorem State.reg_setChg (s : State) (k a : Nat) (v : Nat) : (s.setChg k v).reg a = s.reg a := rfl

@[simp] theorem State.f_setChg (s : State) (k : Nat) (v : Nat) (x : Fld) : (s.setChg k v).f x = s.f x := rfl

@[simp] theorem State.chg_setReg (s : State) (a k : Nat) (v : Word) : (s.setReg a v).chg k = s.chg k := rfl

@[simp] theorem State.reg_setAvgOf (s : State) (k a : Nat) (v : Nat) : (s.setAvgOf k v).reg a = s.reg a := rfl

@[simp] theorem State.f_setAvgOf (s : State) (k : Nat) (v : Nat) (x : Fld) : (s.setAvgOf k v).f x = s.f x := rfl

@[simp] theorem State.avgOf_setReg (s : State) (a k : Nat) (v : Word) : (s.setReg a v).avgOf k = s.avgOf k := rfl

@[simp] theorem State.reg_setLfsrOf (s : State) (k a : Nat) (v : BitVec 16) : (s.setLfsrOf k v).reg a = s.reg a := rfl

@[simp] theorem State.f_setLfsrOf (s : State) (k : Nat) (v : BitVec 16) (x : Fld) : (s.setLfsrOf k v).f x = s.f x := rfl

@[simp] theorem State.lfsrOf_setReg (s : State) (a k : Nat) (v : Word) : (s.setReg a v).lfsrOf k = s.lfsrOf k := rfl

@[simp] theorem State.reg_setBucket (s : State) (k a : Nat) (v : Policer) : (s.setBucket k v).reg a = s.reg a := rfl

@[simp] theorem State.f_setBucket (s : State) (k : Nat) (v : Policer) (x : Fld) : (s.setBucket k v).f x = s.f x := rfl

@[simp] theorem State.bucket_setReg (s : State) (a k : Nat) (v : Word) : (s.setReg a v).bucket k = s.bucket k := rfl

@[simp] theorem State.reg_setHeldOf (s : State) (k a : Nat) (v : Nat) : (s.setHeldOf k v).reg a = s.reg a := rfl

@[simp] theorem State.f_setHeldOf (s : State) (k : Nat) (v : Nat) (x : Fld) : (s.setHeldOf k v).f x = s.f x := rfl

@[simp] theorem State.heldOf_setReg (s : State) (a k : Nat) (v : Word) : (s.setReg a v).heldOf k = s.heldOf k := rfl

@[simp] theorem State.reg_setChgSeen (s : State) (k a : Nat) (v : Nat) : (s.setChgSeen k v).reg a = s.reg a := rfl

@[simp] theorem State.f_setChgSeen (s : State) (k : Nat) (v : Nat) (x : Fld) : (s.setChgSeen k v).f x = s.f x := rfl

@[simp] theorem State.chgSeen_setReg (s : State) (a k : Nat) (v : Word) : (s.setReg a v).chgSeen k = s.chgSeen k := rfl

@[simp] theorem State.reg_setSq (s : State) (k a : Nat) (v : Sq) : (s.setSq k v).reg a = s.reg a := rfl

@[simp] theorem State.f_setSq (s : State) (k : Nat) (v : Sq) (x : Fld) : (s.setSq k v).f x = s.f x := rfl

@[simp] theorem State.sq_setReg (s : State) (a k : Nat) (v : Word) : (s.setReg a v).sq k = s.sq k := rfl

@[simp] theorem State.reg_setCq (s : State) (k a : Nat) (v : Cq) : (s.setCq k v).reg a = s.reg a := rfl

@[simp] theorem State.f_setCq (s : State) (k : Nat) (v : Cq) (x : Fld) : (s.setCq k v).f x = s.f x := rfl

@[simp] theorem State.cq_setReg (s : State) (a k : Nat) (v : Word) : (s.setReg a v).cq k = s.cq k := rfl

@[simp] theorem State.reg_setFunc (s : State) (k a : Nat) (v : Func) : (s.setFunc k v).reg a = s.reg a := rfl

@[simp] theorem State.f_setFunc (s : State) (k : Nat) (v : Func) (x : Fld) : (s.setFunc k v).f x = s.f x := rfl

@[simp] theorem State.func_setReg (s : State) (a k : Nat) (v : Word) : (s.setReg a v).func k = s.func k := rfl

@[simp] theorem State.reg_setSrc (s : State) (k a : Nat) (v : Src) : (s.setSrc k v).reg a = s.reg a := rfl

@[simp] theorem State.f_setSrc (s : State) (k : Nat) (v : Src) (x : Fld) : (s.setSrc k v).f x = s.f x := rfl

@[simp] theorem State.src_setReg (s : State) (a k : Nat) (v : Word) : (s.setReg a v).src k = s.src k := rfl

@[simp] theorem State.reg_setTgt (s : State) (k a : Nat) (v : Tgt) : (s.setTgt k v).reg a = s.reg a := rfl

@[simp] theorem State.f_setTgt (s : State) (k : Nat) (v : Tgt) (x : Fld) : (s.setTgt k v).f x = s.f x := rfl

@[simp] theorem State.tgt_setReg (s : State) (a k : Nat) (v : Word) : (s.setReg a v).tgt k = s.tgt k := rfl

@[simp] theorem State.reg_setEth (s : State) (k a : Nat) (v : EthPort) : (s.setEth k v).reg a = s.reg a := rfl

@[simp] theorem State.f_setEth (s : State) (k : Nat) (v : EthPort) (x : Fld) : (s.setEth k v).f x = s.f x := rfl

@[simp] theorem State.eth_setReg (s : State) (a k : Nat) (v : Word) : (s.setReg a v).eth k = s.eth k := rfl

@[simp] theorem State.reg_setEng (s : State) (k a : Nat) (v : Eng) : (s.setEng k v).reg a = s.reg a := rfl

@[simp] theorem State.f_setEng (s : State) (k : Nat) (v : Eng) (x : Fld) : (s.setEng k v).f x = s.f x := rfl

@[simp] theorem State.eng_setReg (s : State) (a k : Nat) (v : Word) : (s.setReg a v).eng k = s.eng k := rfl

@[simp] theorem State.reg_setBd (s : State) (k a : Nat) (v : Nat) : (s.setBd k v).reg a = s.reg a := rfl

@[simp] theorem State.f_setBd (s : State) (k : Nat) (v : Nat) (x : Fld) : (s.setBd k v).f x = s.f x := rfl

@[simp] theorem State.bd_setReg (s : State) (a k : Nat) (v : Word) : (s.setReg a v).bd k = s.bd k := rfl

@[simp] theorem State.reg_setCache (s : State) (k a : Nat) (v : FltCache) : (s.setCache k v).reg a = s.reg a := rfl

@[simp] theorem State.f_setCache (s : State) (k : Nat) (v : FltCache) (x : Fld) : (s.setCache k v).f x = s.f x := rfl

@[simp] theorem State.cache_setReg (s : State) (a k : Nat) (v : Word) : (s.setReg a v).cache k = s.cache k := rfl

@[simp] theorem State.reg_setTurn (s : State) (k a : Nat) (v : Nat) : (s.setTurn k v).reg a = s.reg a := rfl

@[simp] theorem State.f_setTurn (s : State) (k : Nat) (v : Nat) (x : Fld) : (s.setTurn k v).f x = s.f x := rfl

@[simp] theorem State.turn_setReg (s : State) (a k : Nat) (v : Word) : (s.setReg a v).turn k = s.turn k := rfl

@[simp] theorem State.reg_setCap (s : State) (k a : Nat) (v : Nat × Nat) : (s.setCap k v).reg a = s.reg a := rfl

@[simp] theorem State.f_setCap (s : State) (k : Nat) (v : Nat × Nat) (x : Fld) : (s.setCap k v).f x = s.f x := rfl

@[simp] theorem State.cap_setReg (s : State) (a k : Nat) (v : Word) : (s.setReg a v).cap k = s.cap k := rfl

end Sys2Proof.Machine
end

