-- ==== Sys2Proof/Laws/Fields.lean ====
section
/-! SUPPORT. Fields of the register map and bytes of memory: a field that is set reads back, every other field and byte
keeps its value. -/
namespace Sys2Proof.Machine
set_option Elab.async false

/-! Bits of a word -/

theorem bitsOf_eq (v : Word) (lsb w : Nat) : bitsOf v lsb w = v.toNat / 2 ^ lsb % 2 ^ w := by
  rw [bitsOf, BitVec.extractLsb'_toNat, Nat.shiftRight_eq_div_pow]

theorem bitsOf_lt (v : Word) (lsb w : Nat) : bitsOf v lsb w < 2 ^ w := by
  rw [bitsOf_eq]; exact Nat.mod_lt _ (Nat.two_pow_pos _)

theorem putBits_getLsbD (v : Word) (lsb w x i : Nat) (hi : i < 32) :
    (putBits v lsb w x).getLsbD i = if lsb ≤ i ∧ i < lsb + w then x.testBit (i - lsb) else v.getLsbD i := by
  have hm : ∀ j, (BitVec.ofNat 32 ((2 ^ w - 1) * 2 ^ lsb)).getLsbD j = (decide (j < 32) && decide (lsb ≤ j ∧ j < lsb + w)) := by
    intro j
    rw [BitVec.getLsbD_ofNat, Nat.testBit_mul_two_pow, Nat.testBit_two_pow_sub_one]
    by_cases h1 : j < 32 <;> by_cases h2 : lsb ≤ j <;> simp [h1, h2]
    omega
  unfold putBits
  simp only [BitVec.getLsbD_or, BitVec.getLsbD_and, BitVec.getLsbD_not, hm, BitVec.getLsbD_ofNat, Nat.testBit_mul_two_pow]
  by_cases h : lsb ≤ i ∧ i < lsb + w
  · simp [h, hi]
  · rw [if_neg h]; simp [h, hi]

theorem bitsOf_testBit (v : Word) (lsb w i : Nat) :
    (bitsOf v lsb w).testBit i = (decide (i < w) && v.getLsbD (lsb + i)) := by
  have := BitVec.getLsbD_extractLsb' (start := lsb) (len := w) (x := v) (i := i)
  rw [bitsOf]; exact this

/-- A field that is put reads back. -/
theorem bitsOf_putBits_same (v : Word) (lsb w x : Nat) (h : lsb + w ≤ 32) : bitsOf (putBits v lsb w x) lsb w = x % 2 ^ w := by
  apply Nat.eq_of_testBit_eq; intro i
  rw [bitsOf_testBit, Nat.testBit_mod_two_pow]
  by_cases hi : i < w
  · rw [putBits_getLsbD _ _ _ _ _ (by omega), if_pos (by omega)]; simp [hi]
  · simp [hi]

/-- A field apart from the one put keeps its value. -/
theorem bitsOf_putBits_other (v : Word) (lsb w x l n : Nat) (h : l + n ≤ lsb ∨ lsb + w ≤ l) :
    bitsOf (putBits v lsb w x) l n = bitsOf v l n := by
  apply Nat.eq_of_testBit_eq; intro i
  rw [bitsOf_testBit, bitsOf_testBit]
  by_cases hi : i < n
  · by_cases h32 : l + i < 32
    · rw [putBits_getLsbD _ _ _ _ _ h32, if_neg (by omega)]
    · rw [BitVec.getLsbD_of_ge _ _ (by omega), BitVec.getLsbD_of_ge _ _ (by omega)]
  · simp [hi]

/-! Fields -/

theorem State.f_small (s : State) (x : Fld) (h : x.lsb + x.w ≤ 32) : s.f x = bitsOf (s.reg x.off) x.lsb x.w := by
  simp [State.f, h]

theorem State.setF_small (s : State) (x : Fld) (v : Nat) (h : x.lsb + x.w ≤ 32) :
    s.setF x v = s.setReg x.off (putBits (s.reg x.off) x.lsb x.w v) := by
  simp [State.setF, h]

/-- A field that fits its word reads back what it was set to. -/
theorem State.f_setF_same (s : State) (x : Fld) (v : Nat) (h : x.lsb + x.w ≤ 32) : (s.setF x v).f x = v % 2 ^ x.w := by
  rw [State.f_small _ _ h, State.setF_small _ _ _ h, State.reg_setReg_same, bitsOf_putBits_same _ _ _ _ h]

/-- Setting a field leaves every other word of the register map alone. -/
theorem State.reg_setF_other (s : State) (x : Fld) (v a : Nat) (h : x.lsb + x.w ≤ 32) (ha : a ≠ x.off) :
    (s.setF x v).reg a = s.reg a := by
  rw [State.setF_small _ _ _ h, State.reg_setReg_other _ _ _ _ ha]

/-- Setting a field leaves a field of another word, or of other bits of its word, alone. -/
theorem State.f_setF_other (s : State) (x y : Fld) (v : Nat) (hx : x.lsb + x.w ≤ 32) (hy : y.lsb + y.w ≤ 32)
    (h : y.off ≠ x.off ∨ y.lsb + y.w ≤ x.lsb ∨ x.lsb + x.w ≤ y.lsb) : (s.setF x v).f y = s.f y := by
  rw [State.f_small _ _ hy, State.f_small _ _ hy]
  by_cases ho : y.off = x.off
  · rw [State.setF_small _ _ _ hx, ho, State.reg_setReg_same, bitsOf_putBits_other _ _ _ _ _ _ (h.resolve_left fun hn => hn ho)]
  · rw [State.reg_setF_other _ _ _ _ hx ho]

theorem State.f_lt (s : State) (x : Fld) (h : x.lsb + x.w ≤ 32) : s.f x < 2 ^ x.w := by
  rw [State.f_small _ _ h]; exact bitsOf_lt _ _ _

/-- A counter that holds at its greatest value. -/
theorem State.f_satAdd_same (s : State) (x : Fld) (n : Nat) (h : x.lsb + x.w ≤ 32) :
    (s.satAdd x n).f x = min (s.f x + n) (2 ^ x.w - 1) := by
  rw [State.satAdd, State.f_setF_same _ _ _ h, Nat.mod_eq_of_lt]
  have : 0 < 2 ^ x.w := Nat.two_pow_pos _
  omega

theorem State.f_satAdd_other (s : State) (x y : Fld) (n : Nat) (hx : x.lsb + x.w ≤ 32) (hy : y.lsb + y.w ≤ 32)
    (h : y.off ≠ x.off ∨ y.lsb + y.w ≤ x.lsb ∨ x.lsb + x.w ≤ y.lsb) : (s.satAdd x n).f y = s.f y :=
  State.f_setF_other _ _ _ _ hx hy h

theorem State.reg_satAdd_other (s : State) (x : Fld) (n a : Nat) (h : x.lsb + x.w ≤ 32) (ha : a ≠ x.off) :
    (s.satAdd x n).reg a = s.reg a := State.reg_setF_other _ _ _ _ h ha

/-- A counter that wraps. -/
theorem State.f_wrapInc_same (s : State) (x : Fld) (h : x.lsb + x.w ≤ 32) :
    (s.wrapInc x).f x = (s.f x + 1) % 2 ^ x.w := by
  rw [State.wrapInc, State.f_setF_same _ _ _ h, Nat.mod_mod]

theorem State.fb_setB_same (s : State) (x : Fld) (b : Bool) (h : x.lsb + x.w ≤ 32) (hw : x.w = 1) :
    (s.setB x b).fb x = b := by
  rw [State.fb, State.setB, State.f_setF_same _ _ _ h, hw]; cases b <;> rfl

theorem State.fb_setB_other (s : State) (x y : Fld) (b : Bool) (hx : x.lsb + x.w ≤ 32) (hy : y.lsb + y.w ≤ 32)
    (h : y.off ≠ x.off ∨ y.lsb + y.w ≤ x.lsb ∨ x.lsb + x.w ≤ y.lsb) : (s.setB x b).fb y = s.fb y := by
  rw [State.fb, State.setB, State.f_setF_other _ _ _ _ hx hy h, ← State.fb]

theorem State.f_congr {s t : State} (h : t.regs = s.regs) (x : Fld) : t.f x = s.f x := by
  simp only [State.f, State.reg, h]

theorem State.fb_congr {s t : State} (h : t.regs = s.regs) (x : Fld) : t.fb x = s.fb x := by
  simp only [State.fb, State.f_congr h]

theorem State.reg_congr {s t : State} (h : t.regs = s.regs) (a : Nat) : t.reg a = s.reg a := by
  simp only [State.reg, h]

/-- Setting a field changes the register map alone. -/
theorem State.setF_regs (s : State) (x : Fld) (v : Nat) : ∃ m, s.setF x v = { s with regs := m } := by
  unfold State.setF State.setReg; dsimp only; split <;> exact ⟨_, rfl⟩

/-! Bytes of memory -/

@[simp] theorem State.rd8_wr8_same (s : State) (a : Nat) (v : Byte) : (s.wr8 a v).rd8 a = v := Tab.get_put_same _ _ _ _

theorem State.rd8_wr8_other (s : State) (a b : Nat) (v : Byte) (h : b ≠ a) : (s.wr8 a v).rd8 b = s.rd8 b :=
  Tab.get_put_other _ _ _ _ _ h

theorem State.rd8_wr32_other (s : State) (a b : Nat) (v : Word) (h : b < a ∨ a + 4 ≤ b) : (s.wr32 a v).rd8 b = s.rd8 b := by
  simp only [State.wr32]
  rw [State.rd8_wr8_other _ _ _ _ (by omega), State.rd8_wr8_other _ _ _ _ (by omega), State.rd8_wr8_other _ _ _ _ (by omega),
    State.rd8_wr8_other _ _ _ _ (by omega)]

theorem wordOfBytes_bytes (v : Word) : wordOfBytes (byteOfWord v 0) (byteOfWord v 1) (byteOfWord v 2) (byteOfWord v 3) = v := by
  unfold wordOfBytes byteOfWord
  apply BitVec.eq_of_getLsbD_eq
  intro i hi
  simp only [BitVec.getLsbD_append, BitVec.getLsbD_extractLsb']
  split
  · simp; omega
  · split
    · rw [show 8 * 1 + (i - 8) = i by omega]; simp; omega
    · split
      · rw [show 8 * 2 + (i - 8 - 8) = i by omega]; simp; omega
      · rw [show 8 * 3 + (i - 8 - 8 - 8) = i by omega]; simp; omega

@[simp] theorem State.rd32_wr32_same (s : State) (a : Nat) (v : Word) : (s.wr32 a v).rd32 a = v := by
  simp only [State.rd32, State.wr32]
  have h0 : ∀ (t : State) (b0 b1 b2 b3 : Byte), ((((t.wr8 a b0).wr8 (a+1) b1).wr8 (a+2) b2).wr8 (a+3) b3).rd8 a = b0 := by
    intro t b0 b1 b2 b3
    rw [State.rd8_wr8_other _ _ _ _ (by omega), State.rd8_wr8_other _ _ _ _ (by omega), State.rd8_wr8_other _ _ _ _ (by omega),
      State.rd8_wr8_same]
  have h1 : ∀ (t : State) (b0 b1 b2 b3 : Byte), ((((t.wr8 a b0).wr8 (a+1) b1).wr8 (a+2) b2).wr8 (a+3) b3).rd8 (a+1) = b1 := by
    intro t b0 b1 b2 b3
    rw [State.rd8_wr8_other _ _ _ _ (by omega), State.rd8_wr8_other _ _ _ _ (by omega), State.rd8_wr8_same]
  have h2 : ∀ (t : State) (b0 b1 b2 b3 : Byte), ((((t.wr8 a b0).wr8 (a+1) b1).wr8 (a+2) b2).wr8 (a+3) b3).rd8 (a+2) = b2 := by
    intro t b0 b1 b2 b3
    rw [State.rd8_wr8_other _ _ _ _ (by omega), State.rd8_wr8_same]
  rw [h0, h1, h2, State.rd8_wr8_same, wordOfBytes_bytes]

theorem State.rd32_wr32_other (s : State) (a b : Nat) (v : Word) (h : b + 4 ≤ a ∨ a + 4 ≤ b) :
    (s.wr32 a v).rd32 b = s.rd32 b := by
  simp only [State.rd32]
  rw [State.rd8_wr32_other _ _ _ _ (by omega), State.rd8_wr32_other _ _ _ _ (by omega), State.rd8_wr32_other _ _ _ _ (by omega),
    State.rd8_wr32_other _ _ _ _ (by omega)]

theorem State.rd8_wrBytes_other (s : State) (a b : Nat) (bs : List Byte) (h : b < a ∨ a + bs.length ≤ b) :
    (s.wrBytes a bs).rd8 b = s.rd8 b := by
  induction bs generalizing s a with
  | nil => rfl
  | cons x xs ih =>
    simp only [List.length_cons] at h
    rw [State.wrBytes, ih _ _ (by omega), State.rd8_wr8_other _ _ _ _ (by omega)]

theorem State.rd8_wrBytes_same (s : State) (a i : Nat) (bs : List Byte) (h : i < bs.length) :
    (s.wrBytes a bs).rd8 (a + i) = bs[i] := by
  induction bs generalizing s a i with
  | nil => simp at h
  | cons x xs ih =>
    cases i with
    | zero => rw [State.wrBytes, State.rd8_wrBytes_other _ _ _ _ (by omega)]; simp
    | succ i =>
      have := ih (s.wr8 a x) (a + 1) i (by simpa using h)
      rw [State.wrBytes, show a + (i + 1) = a + 1 + i by omega, this]; simp

/-- Bytes written read back in their order. -/
theorem State.rdBytes_wrBytes (s : State) (a : Nat) (bs : List Byte) : (s.wrBytes a bs).rdBytes a bs.length = bs := by
  apply List.ext_getElem
  · simp [State.rdBytes]
  · intro i h1 h2
    simp only [State.rdBytes, List.getElem_map, List.getElem_range]
    exact State.rd8_wrBytes_same _ _ _ _ h2

theorem State.rd8_congr {s t : State} (h : t.mem = s.mem) (a : Nat) : t.rd8 a = s.rd8 a := by simp only [State.rd8, h]
theorem State.rd32_congr {s t : State} (h : t.mem = s.mem) (a : Nat) : t.rd32 a = s.rd32 a := by
  simp only [State.rd32, State.rd8_congr h]

/-- A memory operation keeps the canonical form. -/
theorem Memory.wf_wr8 (s : State) (a : Nat) (v : Byte) (h : Memory.wf s.mem = true) : Memory.wf (s.wr8 a v).mem = true :=
  Tab.wf_put _ _ _ _ h

theorem Memory.wf_wr32 (s : State) (a : Nat) (v : Word) (h : Memory.wf s.mem = true) : Memory.wf (s.wr32 a v).mem = true :=
  Memory.wf_wr8 _ _ _ (Memory.wf_wr8 _ _ _ (Memory.wf_wr8 _ _ _ (Memory.wf_wr8 _ _ _ h)))

theorem Memory.wf_wrBytes (s : State) (a : Nat) (bs : List Byte) (h : Memory.wf s.mem = true) :
    Memory.wf (s.wrBytes a bs).mem = true := by
  induction bs generalizing s a with
  | nil => exact h
  | cons x xs ih => exact ih _ _ (Memory.wf_wr8 _ _ _ h)

theorem Memory.wf_reset : Memory.wf State.reset.mem = true := rfl

/-- A write of bytes changes memory alone. -/
theorem State.wrBytes_mem (s : State) (a : Nat) (bs : List Byte) : ∃ m, s.wrBytes a bs = { s with mem := m } := by
  induction bs generalizing s a with
  | nil => exact ⟨s.mem, rfl⟩
  | cons x xs ih => obtain ⟨m, h⟩ := ih (s.wr8 a x) (a + 1); exact ⟨m, by rw [State.wrBytes, h]; rfl⟩

theorem State.wr32_mem (s : State) (a : Nat) (v : Word) : ∃ m, s.wr32 a v = { s with mem := m } := ⟨_, rfl⟩

end Sys2Proof.Machine
end

