-- ==== Sys2Proof/Laws/Ok.lean ====
section
/-! SUPPORT. `Ok w b s`: `s` comes from `b` with the same queue, is sane, and differs from `b` at most in the pieces of which
`w` holds. Each Laws/Ok… file says of every operation of one file of Machine/ that it keeps this, and which pieces it may
change: one lemma an operation, cited instead of unfolding it. -/
namespace Sys2Proof.Machine
set_option Elab.async false

/-- Reached from `b` by changes of the pieces in `w`. -/
structure Ok (w : Piece → Prop) (b s : State) : Prop where
  pending : s.pending = b.pending
  sane : Sane s
  frame : ∀ k, ¬ w k → k.Same b s

theorem Piece.same_refl (k : Piece) (s : State) : k.Same s s := by
  cases k <;> simp [Piece.Same]

theorem ok_refl {w : Piece → Prop} {s : State} (h : Sane s) : Ok w s s := ⟨rfl, h, fun k _ => k.same_refl s⟩

/-- The same of a state beside a value, and of an outcome that is a next state. -/
def Ok1 {α : Type} (w : Piece → Prop) (b : State) (p : State × α) : Prop := Ok w b p.1
def Ok2 {α : Type} (w : Piece → Prop) (b : State) (p : α × State) : Prop := Ok w b p.2
def OkO (w : Piece → Prop) (b : State) (o : Host.Outcome State Fault Refusal) : Prop := ∃ t, o = .next t ∧ Ok w b t

section
variable {w : Piece → Prop} {b0 : State} {s t : State} {α β : Type}
theorem ok_ite {c : Prop} [Decidable c] {a b : State} (ha : Ok w b0 a) (hb : Ok w b0 b) : Ok w b0 (if c then a else b) := by split <;> assumption
theorem ok1_ite {c : Prop} [Decidable c] {a b : State × α} (ha : Ok1 w b0 a) (hb : Ok1 w b0 b) : Ok1 w b0 (if c then a else b) := by split <;> assumption
theorem ok2_ite {c : Prop} [Decidable c] {a b : α × State} (ha : Ok2 w b0 a) (hb : Ok2 w b0 b) : Ok2 w b0 (if c then a else b) := by split <;> assumption
theorem okO_ite {c : Prop} [Decidable c] {a b : Host.Outcome State Fault Refusal} (ha : OkO w b0 a) (hb : OkO w b0 b) : OkO w b0 (if c then a else b) := by split <;> assumption
theorem ok1_mk {x : α} (h : Ok w b0 s) : Ok1 w b0 (s, x) := h
theorem ok2_mk {x : α} (h : Ok w b0 s) : Ok2 w b0 (x, s) := h
theorem okO_next (h : Ok w b0 s) : OkO w b0 (.next s) := ⟨s, rfl, h⟩
theorem ok1_fst {p : State × α} (h : Ok1 w b0 p) : Ok w b0 p.1 := h
theorem ok2_snd {p : α × State} (h : Ok2 w b0 p) : Ok w b0 p.2 := h
theorem ok1_eq {p : State × α} {x : α} (e : p = (s, x)) (h : Ok1 w b0 p) : Ok w b0 s := by subst e; exact h
theorem ok2_eq {p : α × State} {x : α} (e : p = (x, s)) (h : Ok2 w b0 p) : Ok w b0 s := by subst e; exact h
theorem ok_foldl {f : State → α → State} {xs : List α} (hf : ∀ s x, Ok w b0 s → Ok w b0 (f s x)) (h : Ok w b0 s) : Ok w b0 (xs.foldl f s) := by
  induction xs generalizing s with
  | nil => exact h
  | cons x xs ih => exact ih (hf _ _ h)
theorem ok2_foldl {f : β × State → α → β × State} {p : β × State} {xs : List α} (hf : ∀ p x, Ok2 w b0 p → Ok2 w b0 (f p x)) (h : Ok2 w b0 p) : Ok2 w b0 (xs.foldl f p) := by
  induction xs generalizing p with
  | nil => exact h
  | cons x xs ih => exact ih (hf _ _ h)
theorem ok1_foldl {f : State × β → α → State × β} {p : State × β} {xs : List α} (hf : ∀ p x, Ok1 w b0 p → Ok1 w b0 (f p x)) (h : Ok1 w b0 p) : Ok1 w b0 (xs.foldl f p) := by
  induction xs generalizing p with
  | nil => exact h
  | cons x xs ih => exact ih (hf _ _ h)
theorem ok_foldl2 {f : β × State → α → β × State} {p : β × State} {xs : List α} (hf : ∀ p x, Ok2 w b0 p → Ok2 w b0 (f p x)) (h : Ok2 w b0 p) : Ok w b0 (xs.foldl f p).2 := ok2_foldl hf h
theorem ok_foldl1 {f : State × β → α → State × β} {p : State × β} {xs : List α} (hf : ∀ p x, Ok1 w b0 p → Ok1 w b0 (f p x)) (h : Ok1 w b0 p) : Ok w b0 (xs.foldl f p).1 := ok1_foldl hf h
theorem ok_ite2 {c : Prop} [Decidable c] {a b : α × State} (ha : Ok2 w b0 a) (hb : Ok2 w b0 b) : Ok w b0 (if c then a else b).2 := ok2_ite ha hb
theorem ok_ite1 {c : Prop} [Decidable c] {a b : State × α} (ha : Ok1 w b0 a) (hb : Ok1 w b0 b) : Ok w b0 (if c then a else b).1 := ok1_ite ha hb
end

theorem State.setLane_ok {w : Piece → Prop} {b0 : State} (s : State) (k : Nat) (v : Lane) (hok : Ok w b0 s) (hp : w .lanes := by assumption) :
    Ok w b0 (s.setLane k v) :=
  ⟨hok.pending, ⟨{ hok.sane.canon with lanes := Tab.wf_put _ _ _ _ hok.sane.canon.lanes }, hok.sane.tb, hok.sane.eng⟩,
    fun k hk => by cases k <;> first | exact hok.frame _ hk | exact absurd hp hk⟩

theorem State.setPin_ok {w : Piece → Prop} {b0 : State} (s : State) (k : Nat) (v : PinEng) (hok : Ok w b0 s) (hp : w .pins := by assumption) :
    Ok w b0 (s.setPin k v) :=
  ⟨hok.pending, ⟨{ hok.sane.canon with pins := Tab.wf_put _ _ _ _ hok.sane.canon.pins }, hok.sane.tb, hok.sane.eng⟩,
    fun k hk => by cases k <;> first | exact hok.frame _ hk | exact absurd hp hk⟩

theorem State.setBus_ok {w : Piece → Prop} {b0 : State} (s : State) (k : Nat) (v : List Entry) (hok : Ok w b0 s) (hp : w .tx := by assumption) :
    Ok w b0 (s.setBus k v) :=
  ⟨hok.pending, ⟨{ hok.sane.canon with buses := Tab.wf_put _ _ _ _ hok.sane.canon.buses }, hok.sane.tb, hok.sane.eng⟩,
    fun k hk => by cases k <;> first | exact hok.frame _ hk | exact absurd hp hk⟩

theorem State.setObj_ok {w : Piece → Prop} {b0 : State} (s : State) (k : Nat) (v : Obj) (hok : Ok w b0 s) (hp : w .objs := by assumption) :
    Ok w b0 (s.setObj k v) :=
  ⟨hok.pending, ⟨{ hok.sane.canon with objs := Tab.wf_put _ _ _ _ hok.sane.canon.objs }, hok.sane.tb, hok.sane.eng⟩,
    fun k hk => by cases k <;> first | exact hok.frame _ hk | exact absurd hp hk⟩

theorem State.setFlt_ok {w : Piece → Prop} {b0 : State} (s : State) (k : Nat) (v : Option FltLoad) (hok : Ok w b0 s) (hp : w .filters := by assumption) :
    Ok w b0 (s.setFlt k v) :=
  ⟨hok.pending, ⟨{ hok.sane.canon with fltLoads := Tab.wf_put _ _ _ _ hok.sane.canon.fltLoads }, hok.sane.tb, hok.sane.eng⟩,
    fun k hk => by cases k <;> first | exact hok.frame _ hk | exact absurd hp hk⟩

theorem State.setGen_ok {w : Piece → Prop} {b0 : State} (s : State) (k : Nat) (v : Nat) (hok : Ok w b0 s) (hp : w .routes := by assumption) :
    Ok w b0 (s.setGen k v) :=
  ⟨hok.pending, ⟨{ hok.sane.canon with routeGen := Tab.wf_put _ _ _ _ hok.sane.canon.routeGen }, hok.sane.tb, hok.sane.eng⟩,
    fun k hk => by cases k <;> first | exact hok.frame _ hk | exact absurd hp hk⟩

theorem State.setKillsOf_ok {w : Piece → Prop} {b0 : State} (s : State) (k : Nat) (v : Nat) (hok : Ok w b0 s) (hp : w .routes := by assumption) :
    Ok w b0 (s.setKillsOf k v) :=
  ⟨hok.pending, ⟨{ hok.sane.canon with kills := Tab.wf_put _ _ _ _ hok.sane.canon.kills }, hok.sane.tb, hok.sane.eng⟩,
    fun k hk => by cases k <;> first | exact hok.frame _ hk | exact absurd hp hk⟩

theorem State.setVoq_ok {w : Piece → Prop} {b0 : State} (s : State) (k : Nat) (v : List VoqItem) (hok : Ok w b0 s) (hp : w .col := by assumption) :
    Ok w b0 (s.setVoq k v) :=
  ⟨hok.pending, ⟨{ hok.sane.canon with voqs := Tab.wf_put _ _ _ _ hok.sane.canon.voqs }, hok.sane.tb, hok.sane.eng⟩,
    fun k hk => by cases k <;> first | exact hok.frame _ hk | exact absurd hp hk⟩

theorem State.setCtq_ok {w : Piece → Prop} {b0 : State} (s : State) (k : Nat) (v : List (Nat × Nat)) (hok : Ok w b0 s) (hp : w .col := by assumption) :
    Ok w b0 (s.setCtq k v) :=
  ⟨hok.pending, ⟨{ hok.sane.canon with ctqs := Tab.wf_put _ _ _ _ hok.sane.canon.ctqs }, hok.sane.tb, hok.sane.eng⟩,
    fun k hk => by cases k <;> first | exact hok.frame _ hk | exact absurd hp hk⟩

theorem State.setPtr_ok {w : Piece → Prop} {b0 : State} (s : State) (k : Nat) (v : ColPtr) (hok : Ok w b0 s) (hp : w .col := by assumption) :
    Ok w b0 (s.setPtr k v) :=
  ⟨hok.pending, ⟨{ hok.sane.canon with ptrs := Tab.wf_put _ _ _ _ hok.sane.canon.ptrs }, hok.sane.tb, hok.sane.eng⟩,
    fun k hk => by cases k <;> first | exact hok.frame _ hk | exact absurd hp hk⟩

theorem State.setCell_ok {w : Piece → Prop} {b0 : State} (s : State) (k : Nat) (v : Cell) (hok : Ok w b0 s) (hp : w .firn := by assumption) :
    Ok w b0 (s.setCell k v) :=
  ⟨hok.pending, ⟨{ hok.sane.canon with cells := Tab.wf_put _ _ _ _ hok.sane.canon.cells }, hok.sane.tb, hok.sane.eng⟩,
    fun k hk => by cases k <;> first | exact hok.frame _ hk | exact absurd hp hk⟩

theorem State.setFrame_ok {w : Piece → Prop} {b0 : State} (s : State) (k : Nat) (v : FirnFrame) (hok : Ok w b0 s) (hp : w .firn := by assumption) :
    Ok w b0 (s.setFrame k v) :=
  ⟨hok.pending, ⟨{ hok.sane.canon with frames := Tab.wf_put _ _ _ _ hok.sane.canon.frames }, hok.sane.tb, hok.sane.eng⟩,
    fun k hk => by cases k <;> first | exact hok.frame _ hk | exact absurd hp hk⟩

theorem State.setChg_ok {w : Piece → Prop} {b0 : State} (s : State) (k : Nat) (v : Nat) (hok : Ok w b0 s) (hp : w .firn := by assumption) :
    Ok w b0 (s.setChg k v) :=
  ⟨hok.pending, ⟨{ hok.sane.canon with charged := Tab.wf_put _ _ _ _ hok.sane.canon.charged }, hok.sane.tb, hok.sane.eng⟩,
    fun k hk => by cases k <;> first | exact hok.frame _ hk | exact absurd hp hk⟩

theorem State.setAvgOf_ok {w : Piece → Prop} {b0 : State} (s : State) (k : Nat) (v : Nat) (hok : Ok w b0 s) (hp : w .firn := by assumption) :
    Ok w b0 (s.setAvgOf k v) :=
  ⟨hok.pending, ⟨{ hok.sane.canon with avg := Tab.wf_put _ _ _ _ hok.sane.canon.avg }, hok.sane.tb, hok.sane.eng⟩,
    fun k hk => by cases k <;> first | exact hok.frame _ hk | exact absurd hp hk⟩

theorem State.setLfsrOf_ok {w : Piece → Prop} {b0 : State} (s : State) (k : Nat) (v : BitVec 16) (hok : Ok w b0 s) (hp : w .firn := by assumption) :
    Ok w b0 (s.setLfsrOf k v) :=
  ⟨hok.pending, ⟨{ hok.sane.canon with lfsr := Tab.wf_put _ _ _ _ hok.sane.canon.lfsr }, hok.sane.tb, hok.sane.eng⟩,
    fun k hk => by cases k <;> first | exact hok.frame _ hk | exact absurd hp hk⟩

theorem State.setBucket_ok {w : Piece → Prop} {b0 : State} (s : State) (k : Nat) (v : Policer) (hok : Ok w b0 s) (hp : w .firn := by assumption) :
    Ok w b0 (s.setBucket k v) :=
  ⟨hok.pending, ⟨{ hok.sane.canon with buckets := Tab.wf_put _ _ _ _ hok.sane.canon.buckets }, hok.sane.tb, hok.sane.eng⟩,
    fun k hk => by cases k <;> first | exact hok.frame _ hk | exact absurd hp hk⟩

theorem State.setHeldOf_ok {w : Piece → Prop} {b0 : State} (s : State) (k : Nat) (v : Nat) (hok : Ok w b0 s) (hp : w .firn := by assumption) :
    Ok w b0 (s.setHeldOf k v) :=
  ⟨hok.pending, ⟨{ hok.sane.canon with cqHeld := Tab.wf_put _ _ _ _ hok.sane.canon.cqHeld }, hok.sane.tb, hok.sane.eng⟩,
    fun k hk => by cases k <;> first | exact hok.frame _ hk | exact absurd hp hk⟩

theorem State.setChgSeen_ok {w : Piece → Prop} {b0 : State} (s : State) (k : Nat) (v : Nat) (hok : Ok w b0 s) (hp : w .firn := by assumption) :
    Ok w b0 (s.setChgSeen k v) :=
  ⟨hok.pending, ⟨{ hok.sane.canon with chargeSeen := Tab.wf_put _ _ _ _ hok.sane.canon.chargeSeen }, hok.sane.tb, hok.sane.eng⟩,
    fun k hk => by cases k <;> first | exact hok.frame _ hk | exact absurd hp hk⟩

theorem State.setSq_ok {w : Piece → Prop} {b0 : State} (s : State) (k : Nat) (v : Sq) (hok : Ok w b0 s) (hp : w .rings := by assumption) :
    Ok w b0 (s.setSq k v) :=
  ⟨hok.pending, ⟨{ hok.sane.canon with sqs := Tab.wf_put _ _ _ _ hok.sane.canon.sqs }, hok.sane.tb, hok.sane.eng⟩,
    fun k hk => by cases k <;> first | exact hok.frame _ hk | exact absurd hp hk⟩

theorem State.setCq_ok {w : Piece → Prop} {b0 : State} (s : State) (k : Nat) (v : Cq) (hok : Ok w b0 s) (hp : w .rings := by assumption) :
    Ok w b0 (s.setCq k v) :=
  ⟨hok.pending, ⟨{ hok.sane.canon with cqs := Tab.wf_put _ _ _ _ hok.sane.canon.cqs }, hok.sane.tb, hok.sane.eng⟩,
    fun k hk => by cases k <;> first | exact hok.frame _ hk | exact absurd hp hk⟩

theorem State.setFunc_ok {w : Piece → Prop} {b0 : State} (s : State) (k : Nat) (v : Func) (hok : Ok w b0 s) (hp : w .rings := by assumption) :
    Ok w b0 (s.setFunc k v) :=
  ⟨hok.pending, ⟨{ hok.sane.canon with funcs := Tab.wf_put _ _ _ _ hok.sane.canon.funcs }, hok.sane.tb, hok.sane.eng⟩,
    fun k hk => by cases k <;> first | exact hok.frame _ hk | exact absurd hp hk⟩

theorem State.setSrc_ok {w : Piece → Prop} {b0 : State} (s : State) (k : Nat) (v : Src) (hok : Ok w b0 s) (hp : w .irq := by assumption) :
    Ok w b0 (s.setSrc k v) :=
  ⟨hok.pending, ⟨{ hok.sane.canon with srcs := Tab.wf_put _ _ _ _ hok.sane.canon.srcs }, hok.sane.tb, hok.sane.eng⟩,
    fun k hk => by cases k <;> first | exact hok.frame _ hk | exact absurd hp hk⟩

theorem State.setTgt_ok {w : Piece → Prop} {b0 : State} (s : State) (k : Nat) (v : Tgt) (hok : Ok w b0 s) (hp : w .irq := by assumption) :
    Ok w b0 (s.setTgt k v) :=
  ⟨hok.pending, ⟨{ hok.sane.canon with tgts := Tab.wf_put _ _ _ _ hok.sane.canon.tgts }, hok.sane.tb, hok.sane.eng⟩,
    fun k hk => by cases k <;> first | exact hok.frame _ hk | exact absurd hp hk⟩

theorem State.setEth_ok {w : Piece → Prop} {b0 : State} (s : State) (k : Nat) (v : EthPort) (hok : Ok w b0 s) (hp : w .eths := by assumption) :
    Ok w b0 (s.setEth k v) :=
  ⟨hok.pending, ⟨{ hok.sane.canon with eths := Tab.wf_put _ _ _ _ hok.sane.canon.eths }, hok.sane.tb, hok.sane.eng⟩,
    fun k hk => by cases k <;> first | exact hok.frame _ hk | exact absurd hp hk⟩

theorem State.setBd_ok {w : Piece → Prop} {b0 : State} (s : State) (k : Nat) (v : Nat) (hok : Ok w b0 s) (hp : w .time := by assumption) :
    Ok w b0 (s.setBd k v) :=
  ⟨hok.pending, ⟨{ hok.sane.canon with bdq := Tab.wf_put _ _ _ _ hok.sane.canon.bdq }, hok.sane.tb, hok.sane.eng⟩,
    fun k hk => by cases k <;> first | exact hok.frame _ hk | exact absurd hp hk⟩

theorem State.setTurn_ok {w : Piece → Prop} {b0 : State} (s : State) (k : Nat) (v : Nat) (hok : Ok w b0 s) (hp : w .tx := by assumption) :
    Ok w b0 (s.setTurn k v) :=
  ⟨hok.pending, ⟨{ hok.sane.canon with txTurn := Tab.wf_put _ _ _ _ hok.sane.canon.txTurn }, hok.sane.tb, hok.sane.eng⟩,
    fun k hk => by cases k <;> first | exact hok.frame _ hk | exact absurd hp hk⟩

theorem State.setCache_ok {w : Piece → Prop} {b0 : State} (s : State) (k : Nat) (v : FltCache) (hok : Ok w b0 s) (hp : w .filters := by assumption) :
    Ok w b0 (s.setCache k v) :=
  ⟨hok.pending, ⟨{ hok.sane.canon with caches := Tab.wf_put _ _ _ _ hok.sane.canon.caches }, hok.sane.tb, hok.sane.eng⟩,
    fun k hk => by cases k <;> first | exact hok.frame _ hk | exact absurd hp hk⟩

theorem State.setCap_ok {w : Piece → Prop} {b0 : State} (s : State) (k : Nat) (v : Nat × Nat) (hok : Ok w b0 s) (hp : w .time := by assumption) :
    Ok w b0 (s.setCap k v) :=
  ⟨hok.pending, ⟨{ hok.sane.canon with tbCap := Tab.wf_put _ _ _ _ hok.sane.canon.tbCap }, hok.sane.tb, hok.sane.eng⟩,
    fun k hk => by cases k <;> first | exact hok.frame _ hk | exact absurd hp hk⟩

theorem State.withNextDone_ok {w : Piece → Prop} {b0 : State} (s : State) (v : Nat) (hok : Ok w b0 s) (hp : w .tx := by assumption) : Ok w b0 (s.withNextDone v) :=
  ⟨hok.pending, ⟨{ hok.sane.canon with }, hok.sane.tb, hok.sane.eng⟩,
    fun k hk => by cases k <;> first | exact hok.frame _ hk | exact absurd hp hk⟩

theorem State.withTimeUp_ok {w : Piece → Prop} {b0 : State} (s : State) (v : Bool) (hok : Ok w b0 s) (hp : w .time := by assumption) : Ok w b0 (s.withTimeUp v) :=
  ⟨hok.pending, ⟨{ hok.sane.canon with }, hok.sane.tb, hok.sane.eng⟩,
    fun k hk => by cases k <;> first | exact hok.frame _ hk | exact absurd hp hk⟩

theorem State.withTimeDist_ok {w : Piece → Prop} {b0 : State} (s : State) (v : Bool) (hok : Ok w b0 s) (hp : w .time := by assumption) : Ok w b0 (s.withTimeDist v) :=
  ⟨hok.pending, ⟨{ hok.sane.canon with }, hok.sane.tb, hok.sane.eng⟩,
    fun k hk => by cases k <;> first | exact hok.frame _ hk | exact absurd hp hk⟩

theorem State.withFree_ok {w : Piece → Prop} {b0 : State} (s : State) (v : Nat) (hok : Ok w b0 s) (hp : w .free := by assumption) : Ok w b0 (s.withFree v) :=
  ⟨hok.pending, ⟨{ hok.sane.canon with }, hok.sane.tb, hok.sane.eng⟩,
    fun k hk => by cases k <;> first | exact hok.frame _ hk | exact absurd hp hk⟩

theorem State.withReadData_ok {w : Piece → Prop} {b0 : State} (s : State) (v : Word) (hok : Ok w b0 s) (hp : w .free := by assumption) : Ok w b0 (s.withReadData v) :=
  ⟨hok.pending, ⟨{ hok.sane.canon with }, hok.sane.tb, hok.sane.eng⟩,
    fun k hk => by cases k <;> first | exact hok.frame _ hk | exact absurd hp hk⟩

theorem State.withNow_ok {w : Piece → Prop} {b0 : State} (s : State) (v : Nat) (hok : Ok w b0 s) (hp : w .time := by assumption) : Ok w b0 (s.withNow v) :=
  ⟨hok.pending, ⟨{ hok.sane.canon with }, hok.sane.tb, hok.sane.eng⟩,
    fun k hk => by cases k <;> first | exact hok.frame _ hk | exact absurd hp hk⟩

theorem State.withHostMem0_ok {w : Piece → Prop} {b0 : State} (s : State) (v : List Host.Cell) (hok : Ok w b0 s) (hp : w .host := by assumption) : Ok w b0 (s.withHostMem0 v) :=
  ⟨hok.pending, ⟨{ hok.sane.canon with }, hok.sane.tb, hok.sane.eng⟩,
    fun k hk => by cases k <;> first | exact hok.frame _ hk | exact absurd hp hk⟩

theorem State.withHostMem1_ok {w : Piece → Prop} {b0 : State} (s : State) (v : List Host.Cell) (hok : Ok w b0 s) (hp : w .host := by assumption) : Ok w b0 (s.withHostMem1 v) :=
  ⟨hok.pending, ⟨{ hok.sane.canon with }, hok.sane.tb, hok.sane.eng⟩,
    fun k hk => by cases k <;> first | exact hok.frame _ hk | exact absurd hp hk⟩

theorem State.withNextEnt_ok {w : Piece → Prop} {b0 : State} (s : State) (v : Nat) (hok : Ok w b0 s) (hp : w .tx := by assumption) : Ok w b0 (s.withNextEnt v) :=
  ⟨hok.pending, ⟨{ hok.sane.canon with }, hok.sane.tb, hok.sane.eng⟩,
    fun k hk => by cases k <;> first | exact hok.frame _ hk | exact absurd hp hk⟩

theorem State.withFetched_ok {w : Piece → Prop} {b0 : State} (s : State) (v : List Fetched) (hok : Ok w b0 s) (hp : w .tx := by assumption) : Ok w b0 (s.withFetched v) :=
  ⟨hok.pending, ⟨{ hok.sane.canon with }, hok.sane.tb, hok.sane.eng⟩,
    fun k hk => by cases k <;> first | exact hok.frame _ hk | exact absurd hp hk⟩

theorem State.withSeWait_ok {w : Piece → Prop} {b0 : State} (s : State) (v : List SeWait) (hok : Ok w b0 s) (hp : w .tx := by assumption) : Ok w b0 (s.withSeWait v) :=
  ⟨hok.pending, ⟨{ hok.sane.canon with }, hok.sane.tb, hok.sane.eng⟩,
    fun k hk => by cases k <;> first | exact hok.frame _ hk | exact absurd hp hk⟩

theorem State.withRtLoad_ok {w : Piece → Prop} {b0 : State} (s : State) (v : Option RunLoad) (hok : Ok w b0 s) (hp : w .routes := by assumption) : Ok w b0 (s.withRtLoad v) :=
  ⟨hok.pending, ⟨{ hok.sane.canon with }, hok.sane.tb, hok.sane.eng⟩,
    fun k hk => by cases k <;> first | exact hok.frame _ hk | exact absurd hp hk⟩

theorem State.withPolLoad_ok {w : Piece → Prop} {b0 : State} (s : State) (v : Option RunLoad) (hok : Ok w b0 s) (hp : w .routes := by assumption) : Ok w b0 (s.withPolLoad v) :=
  ⟨hok.pending, ⟨{ hok.sane.canon with }, hok.sane.tb, hok.sane.eng⟩,
    fun k hk => by cases k <;> first | exact hok.frame _ hk | exact absurd hp hk⟩

theorem State.withKillDue_ok {w : Piece → Prop} {b0 : State} (s : State) (v : Option Nat) (hok : Ok w b0 s) (hp : w .routes := by assumption) : Ok w b0 (s.withKillDue v) :=
  ⟨hok.pending, ⟨{ hok.sane.canon with }, hok.sane.tb, hok.sane.eng⟩,
    fun k hk => by cases k <;> first | exact hok.frame _ hk | exact absurd hp hk⟩

theorem State.withNextFid_ok {w : Piece → Prop} {b0 : State} (s : State) (v : Nat) (hok : Ok w b0 s) (hp : w .firn := by assumption) : Ok w b0 (s.withNextFid v) :=
  ⟨hok.pending, ⟨{ hok.sane.canon with }, hok.sane.tb, hok.sane.eng⟩,
    fun k hk => by cases k <;> first | exact hok.frame _ hk | exact absurd hp hk⟩

theorem State.withNextValid_ok {w : Piece → Prop} {b0 : State} (s : State) (v : Nat) (hok : Ok w b0 s) (hp : w .firn := by assumption) : Ok w b0 (s.withNextValid v) :=
  ⟨hok.pending, ⟨{ hok.sane.canon with }, hok.sane.tb, hok.sane.eng⟩,
    fun k hk => by cases k <;> first | exact hok.frame _ hk | exact absurd hp hk⟩

theorem State.withSweepAt_ok {w : Piece → Prop} {b0 : State} (s : State) (v : Nat) (hok : Ok w b0 s) (hp : w .firn := by assumption) : Ok w b0 (s.withSweepAt v) :=
  ⟨hok.pending, ⟨{ hok.sane.canon with }, hok.sane.tb, hok.sane.eng⟩,
    fun k hk => by cases k <;> first | exact hok.frame _ hk | exact absurd hp hk⟩

theorem State.withLowCond_ok {w : Piece → Prop} {b0 : State} (s : State) (v : Bool) (hok : Ok w b0 s) (hp : w .firn := by assumption) : Ok w b0 (s.withLowCond v) :=
  ⟨hok.pending, ⟨{ hok.sane.canon with }, hok.sane.tb, hok.sane.eng⟩,
    fun k hk => by cases k <;> first | exact hok.frame _ hk | exact absurd hp hk⟩

theorem State.withHeld_ok {w : Piece → Prop} {b0 : State} (s : State) (v : List Held) (hok : Ok w b0 s) (hp : w .rings := by assumption) : Ok w b0 (s.withHeld v) :=
  ⟨hok.pending, ⟨{ hok.sane.canon with }, hok.sane.tb, hok.sane.eng⟩,
    fun k hk => by cases k <;> first | exact hok.frame _ hk | exact absurd hp hk⟩

theorem State.withMor_ok {w : Piece → Prop} {b0 : State} (s : State) (v : Moraine) (hok : Ok w b0 s) (hp : w .mor := by assumption) : Ok w b0 (s.withMor v) :=
  ⟨hok.pending, ⟨{ hok.sane.canon with }, hok.sane.tb, hok.sane.eng⟩,
    fun k hk => by cases k <;> first | exact hok.frame _ hk | exact absurd hp hk⟩

theorem State.withStack_ok {w : Piece → Prop} {b0 : State} (s : State) (v : Stack) (hok : Ok w b0 s) (hp : w .stack := by assumption) : Ok w b0 (s.withStack v) :=
  ⟨hok.pending, ⟨{ hok.sane.canon with }, hok.sane.tb, hok.sane.eng⟩,
    fun k hk => by cases k <;> first | exact hok.frame _ hk | exact absurd hp hk⟩

theorem State.withSnow_ok {w : Piece → Prop} {b0 : State} (s : State) (v : Snow) (hok : Ok w b0 s) (hp : w .snow := by assumption) : Ok w b0 (s.withSnow v) :=
  ⟨hok.pending, ⟨{ hok.sane.canon with }, hok.sane.tb, hok.sane.eng⟩,
    fun k hk => by cases k <;> first | exact hok.frame _ hk | exact absurd hp hk⟩

theorem State.withPower_ok {w : Piece → Prop} {b0 : State} (s : State) (v : Power) (hok : Ok w b0 s) (hp : w .power := by assumption) : Ok w b0 (s.withPower v) :=
  ⟨hok.pending, ⟨{ hok.sane.canon with }, hok.sane.tb, hok.sane.eng⟩,
    fun k hk => by cases k <;> first | exact hok.frame _ hk | exact absurd hp hk⟩

theorem State.withBoot_ok {w : Piece → Prop} {b0 : State} (s : State) (v : Boot) (hok : Ok w b0 s) (hp : w .boot := by assumption) : Ok w b0 (s.withBoot v) :=
  ⟨hok.pending, ⟨{ hok.sane.canon with }, hok.sane.tb, hok.sane.eng⟩,
    fun k hk => by cases k <;> first | exact hok.frame _ hk | exact absurd hp hk⟩

theorem State.withPoison_ok {w : Piece → Prop} {b0 : State} (s : State) (v : List (Nat × Nat)) (hok : Ok w b0 s) (hp : w .poison := by assumption) : Ok w b0 (s.withPoison v) :=
  ⟨hok.pending, ⟨{ hok.sane.canon with }, hok.sane.tb, hok.sane.eng⟩,
    fun k hk => by cases k <;> first | exact hok.frame _ hk | exact absurd hp hk⟩

theorem State.withKills_ok {w : Piece → Prop} {b0 : State} (s : State) (v : Tab Nat) (hok : Ok w b0 s) (hv : Tab.wf (fun _ => 0) v = true) (hp : w .routes := by assumption) :
    Ok w b0 (s.withKills v) :=
  ⟨hok.pending, ⟨{ hok.sane.canon with kills := hv }, hok.sane.tb, hok.sane.eng⟩,
    fun k hk => by cases k <;> first | exact hok.frame _ hk | exact absurd hp hk⟩

theorem State.withMem_ok {w : Piece → Prop} {b0 : State} (s : State) (v : List Host.Cell) (hok : Ok w b0 s) (hv : Tab.wf (memReset) v = true) (hp : w .mem := by assumption) :
    Ok w b0 (s.withMem v) :=
  ⟨hok.pending, ⟨{ hok.sane.canon with mem := hv }, hok.sane.tb, hok.sane.eng⟩,
    fun k hk => by cases k <;> first | exact hok.frame _ hk | exact absurd hp hk⟩

theorem State.setReg_ok {w : Piece → Prop} {b0 : State} (s : State) (a : Nat) (v : Word) (hok : Ok w b0 s) (hp : w .regs := by assumption) :
    Ok w b0 (s.setReg a v) :=
  ⟨hok.pending, ⟨{ hok.sane.canon with regs := Tab.wf_put _ _ _ _ hok.sane.canon.regs }, hok.sane.tb, hok.sane.eng⟩,
    fun k hk => by cases k <;> first | exact hok.frame _ hk | exact absurd hp hk⟩

theorem State.setTb_ok {w : Piece → Prop} {b0 : State} (s : State) (k : Nat) (v : TimeBase) (hok : Ok w b0 s) (hv : v.val < tbWrap)
    (hp : w .time := by assumption) : Ok w b0 (s.setTb k v) :=
  ⟨hok.pending, ⟨{ hok.sane.canon with tbs := Tab.wf_put _ _ _ _ hok.sane.canon.tbs }, fun n => by
    by_cases h : n = k
    · subst h; rw [State.setTb_same]; exact hv
    · rw [State.setTb_other _ _ _ _ h]; exact hok.sane.tb n, hok.sane.eng⟩,
    fun k hk => by cases k <;> first | exact hok.frame _ hk | exact absurd hp hk⟩

theorem State.modTb_ok {w : Piece → Prop} {b0 : State} (s : State) (k : Nat) (g : TimeBase → TimeBase) (hok : Ok w b0 s)
    (hg : ∀ t, t.val < tbWrap → (g t).val < tbWrap) (hp : w .time := by assumption) : Ok w b0 (s.modTb k g) :=
  State.setTb_ok _ _ _ hok (hg _ (hok.sane.tb k))

theorem State.setEng_ok {w : Piece → Prop} {b0 : State} (s : State) (k : Nat) (v : Eng) (hok : Ok w b0 s) (hv : v.Fits) (hp : w .engs := by assumption) :
    Ok w b0 (s.setEng k v) :=
  ⟨hok.pending, ⟨{ hok.sane.canon with engs := Tab.wf_put _ _ _ _ hok.sane.canon.engs }, hok.sane.tb, fun n => by
    by_cases h : n = k
    · subst h; rw [State.setEng_same]; exact hv
    · rw [State.setEng_other _ _ _ _ h]; exact hok.sane.eng n⟩,
    fun k hk => by cases k <;> first | exact hok.frame _ hk | exact absurd hp hk⟩

theorem State.modEng_ok {w : Piece → Prop} {b0 : State} (s : State) (k : Nat) (g : Eng → Eng) (hok : Ok w b0 s) (hg : ∀ x, x.Fits → (g x).Fits)
    (hp : w .engs := by assumption) : Ok w b0 (s.modEng k g) :=
  State.setEng_ok _ _ _ hok (hg _ (hok.sane.eng k))

theorem TimeBase.tick_val (t : TimeBase) (i r : Nat) (a : Bool) : (t.tick i r a).val < tbWrap := by
  unfold TimeBase.tick
  split <;> exact Nat.mod_lt _ (by decide)

theorem Ok.fits {w : Piece → Prop} {b0 : State} {s : State} (h : Ok w b0 s) (e : Nat) : (s.eng e).Fits := h.sane.eng e

theorem Ok.fits_of {w : Piece → Prop} {b0 : State} {s : State} (h : Ok w b0 s) (e : Nat) (g : Eng) (h1 : g.os = (s.eng e).os) (h2 : g.rsd = (s.eng e).rsd)
    (h3 : g.saves = (s.eng e).saves := by rfl) : g.Fits := ⟨h1 ▸ (h.sane.eng e).os, h2 ▸ (h.sane.eng e).rs, h3 ▸ (h.sane.eng e).saved⟩

theorem Eng.Fits.of {x g : Eng} (h : x.Fits) (h1 : g.os = x.os) (h2 : g.rsd = x.rsd)
    (h3 : g.saves = x.saves := by rfl) : g.Fits := ⟨h1 ▸ h.os, h2 ▸ h.rs, h3 ▸ h.saved⟩

theorem Tab.above_filter {α : Type} (p : Nat × α → Bool) (t : Tab α) (k : Nat) (h : Tab.above k t = true) :
    Tab.above k (t.filter p) = true := by
  simp only [Tab.above, List.all_eq_true] at *
  exact fun x hx => h x (List.mem_filter.1 hx).1

theorem Tab.wf_filter {α : Type} [DecidableEq α] (d : Nat → α) (p : Nat × α → Bool) (t : Tab α) (h : Tab.wf d t = true) :
    Tab.wf d (t.filter p) = true := by
  induction t with
  | nil => rfl
  | cons e t ih =>
    obtain ⟨k, v⟩ := e
    simp only [Tab.wf, Bool.and_eq_true] at h
    have ht := ih h.2
    have ha := Tab.above_filter p t k h.1.2
    simp only [List.filter_cons]
    split
    · simp only [Tab.wf, Bool.and_eq_true]; exact ⟨⟨h.1.1, ha⟩, ht⟩
    · exact ht

/-- A state with no engine and no time base listed and its tables canonical is sane. -/
theorem sane_fresh {s : State} (hc : Canon s) (ht : s.tbs = []) (he : s.engs = []) : Sane s :=
  ⟨hc, fun n => by rw [State.tb, ht]; show (0 : Nat) < tbWrap; decide,
    fun e => by rw [State.eng, he]; exact ⟨Nat.zero_le _, Nat.zero_le _, fun _ h => by cases h⟩⟩

end Sys2Proof.Machine
end

