-- ==== Sys2Proof/Laws/OkOps.lean ====
section
/-! SUPPORT. The named operations: every operation of Machine/Ops.lean keeps the queue and a sane state, and changes no
piece but the ones it names. -/
namespace Sys2Proof.Machine
set_option Elab.async false

theorem State.setF_ok {pcs : Piece → Prop} {b0 : State} (s : State) (x : Fld) (v : Nat) (hok : Ok pcs b0 s)
    (hp0 : pcs .regs := by assumption) :
    Ok pcs b0 (State.setF s x v) := by
  delta State.setF
  repeat' first
    | with_reducible assumption | extract_lets | intro _ | with_reducible apply ok_ite
    | with_reducible apply State.setReg_ok | split | dsimp +zetaDelta -zeta only

theorem State.setB_ok {pcs : Piece → Prop} {b0 : State} (s : State) (x : Fld) (b : Bool) (hok : Ok pcs b0 s)
    (hp0 : pcs .regs := by assumption) :
    Ok pcs b0 (State.setB s x b) := by
  delta State.setB
  repeat' first
    | with_reducible assumption | extract_lets | intro _ | with_reducible apply State.setF_ok | split
    | dsimp +zetaDelta -zeta only

theorem State.satAdd_ok {pcs : Piece → Prop} {b0 : State} (s : State) (x : Fld) (n : Nat) (hok : Ok pcs b0 s)
    (hp0 : pcs .regs := by assumption) :
    Ok pcs b0 (State.satAdd s x n) := by
  delta State.satAdd
  repeat' first
    | with_reducible assumption | extract_lets | intro _ | with_reducible apply State.setF_ok | split
    | dsimp +zetaDelta -zeta only

theorem State.wrapInc_ok {pcs : Piece → Prop} {b0 : State} (s : State) (x : Fld) (hok : Ok pcs b0 s)
    (hp0 : pcs .regs := by assumption) :
    Ok pcs b0 (State.wrapInc s x) := by
  delta State.wrapInc
  repeat' first
    | with_reducible assumption | extract_lets | intro _ | with_reducible apply State.setF_ok | split
    | dsimp +zetaDelta -zeta only

theorem State.clamp_ok {pcs : Piece → Prop} {b0 : State} (s : State) (f : Nat) (n : Nat) (hok : Ok pcs b0 s)
    (hp0 : pcs .regs := by assumption) :
    Ok pcs b0 (State.clamp s f n) := by
  delta State.clamp
  repeat' first
    | with_reducible assumption | extract_lets | intro _ | with_reducible apply State.satAdd_ok | split
    | dsimp +zetaDelta -zeta only

theorem State.clampBy_ok {pcs : Piece → Prop} {b0 : State} (s : State) (w : Agent) (hok : Ok pcs b0 s)
    (hp0 : pcs .regs := by assumption) :
    Ok pcs b0 (State.clampBy s w) := by
  delta State.clampBy
  repeat' first
    | with_reducible assumption | extract_lets | intro _ | with_reducible apply State.clamp_ok | split
    | dsimp +zetaDelta -zeta only

theorem State.modLane_ok {pcs : Piece → Prop} {b0 : State} (s : State) (k : Nat) (g : Lane → Lane)
    (hok : Ok pcs b0 s) (hp0 : pcs .lanes := by assumption) :
    Ok pcs b0 (State.modLane s k g) := by
  delta State.modLane
  repeat' first
    | with_reducible assumption | extract_lets | intro _ | with_reducible apply State.setLane_ok | split
    | dsimp +zetaDelta -zeta only

theorem State.modPin_ok {pcs : Piece → Prop} {b0 : State} (s : State) (k : Nat) (g : PinEng → PinEng)
    (hok : Ok pcs b0 s) (hp0 : pcs .pins := by assumption) :
    Ok pcs b0 (State.modPin s k g) := by
  delta State.modPin
  repeat' first
    | with_reducible assumption | extract_lets | intro _ | with_reducible apply State.setPin_ok | split
    | dsimp +zetaDelta -zeta only

theorem State.modBus_ok {pcs : Piece → Prop} {b0 : State} (s : State) (k : Nat) (g : List Entry → List Entry)
    (hok : Ok pcs b0 s) (hp0 : pcs .tx := by assumption) :
    Ok pcs b0 (State.modBus s k g) := by
  delta State.modBus
  repeat' first
    | with_reducible assumption | extract_lets | intro _ | with_reducible apply State.setBus_ok | split
    | dsimp +zetaDelta -zeta only

theorem State.modTurn_ok {pcs : Piece → Prop} {b0 : State} (s : State) (k : Nat) (g : Nat → Nat) (hok : Ok pcs b0 s)
    (hp0 : pcs .tx := by assumption) :
    Ok pcs b0 (State.modTurn s k g) := by
  delta State.modTurn
  repeat' first
    | with_reducible assumption | extract_lets | intro _ | with_reducible apply State.setTurn_ok | split
    | dsimp +zetaDelta -zeta only

theorem State.modObj_ok {pcs : Piece → Prop} {b0 : State} (s : State) (k : Nat) (g : Obj → Obj) (hok : Ok pcs b0 s)
    (hp0 : pcs .objs := by assumption) :
    Ok pcs b0 (State.modObj s k g) := by
  delta State.modObj
  repeat' first
    | with_reducible assumption | extract_lets | intro _ | with_reducible apply State.setObj_ok | split
    | dsimp +zetaDelta -zeta only

theorem State.modFlt_ok {pcs : Piece → Prop} {b0 : State} (s : State) (k : Nat)
    (g : Option FltLoad → Option FltLoad) (hok : Ok pcs b0 s) (hp0 : pcs .filters := by assumption) :
    Ok pcs b0 (State.modFlt s k g) := by
  delta State.modFlt
  repeat' first
    | with_reducible assumption | extract_lets | intro _ | with_reducible apply State.setFlt_ok | split
    | dsimp +zetaDelta -zeta only

theorem State.modCache_ok {pcs : Piece → Prop} {b0 : State} (s : State) (k : Nat) (g : FltCache → FltCache)
    (hok : Ok pcs b0 s) (hp0 : pcs .filters := by assumption) :
    Ok pcs b0 (State.modCache s k g) := by
  delta State.modCache
  repeat' first
    | with_reducible assumption | extract_lets | intro _ | with_reducible apply State.setCache_ok | split
    | dsimp +zetaDelta -zeta only

theorem State.modGen_ok {pcs : Piece → Prop} {b0 : State} (s : State) (k : Nat) (g : Nat → Nat) (hok : Ok pcs b0 s)
    (hp0 : pcs .routes := by assumption) :
    Ok pcs b0 (State.modGen s k g) := by
  delta State.modGen
  repeat' first
    | with_reducible assumption | extract_lets | intro _ | with_reducible apply State.setGen_ok | split
    | dsimp +zetaDelta -zeta only

theorem State.modKillsOf_ok {pcs : Piece → Prop} {b0 : State} (s : State) (k : Nat) (g : Nat → Nat)
    (hok : Ok pcs b0 s) (hp0 : pcs .routes := by assumption) :
    Ok pcs b0 (State.modKillsOf s k g) := by
  delta State.modKillsOf
  repeat' first
    | with_reducible assumption | extract_lets | intro _ | with_reducible apply State.setKillsOf_ok | split
    | dsimp +zetaDelta -zeta only

theorem State.modVoq_ok {pcs : Piece → Prop} {b0 : State} (s : State) (k : Nat) (g : List VoqItem → List VoqItem)
    (hok : Ok pcs b0 s) (hp0 : pcs .col := by assumption) :
    Ok pcs b0 (State.modVoq s k g) := by
  delta State.modVoq
  repeat' first
    | with_reducible assumption | extract_lets | intro _ | with_reducible apply State.setVoq_ok | split
    | dsimp +zetaDelta -zeta only

theorem State.modCtq_ok {pcs : Piece → Prop} {b0 : State} (s : State) (k : Nat) (g : List (Nat × Nat) → List
    (Nat × Nat)) (hok : Ok pcs b0 s) (hp0 : pcs .col := by assumption) :
    Ok pcs b0 (State.modCtq s k g) := by
  delta State.modCtq
  repeat' first
    | with_reducible assumption | extract_lets | intro _ | with_reducible apply State.setCtq_ok | split
    | dsimp +zetaDelta -zeta only

theorem State.modPtr_ok {pcs : Piece → Prop} {b0 : State} (s : State) (k : Nat) (g : ColPtr → ColPtr)
    (hok : Ok pcs b0 s) (hp0 : pcs .col := by assumption) :
    Ok pcs b0 (State.modPtr s k g) := by
  delta State.modPtr
  repeat' first
    | with_reducible assumption | extract_lets | intro _ | with_reducible apply State.setPtr_ok | split
    | dsimp +zetaDelta -zeta only

theorem State.modCell_ok {pcs : Piece → Prop} {b0 : State} (s : State) (k : Nat) (g : Cell → Cell)
    (hok : Ok pcs b0 s) (hp0 : pcs .firn := by assumption) :
    Ok pcs b0 (State.modCell s k g) := by
  delta State.modCell
  repeat' first
    | with_reducible assumption | extract_lets | intro _ | with_reducible apply State.setCell_ok | split
    | dsimp +zetaDelta -zeta only

theorem State.modFrame_ok {pcs : Piece → Prop} {b0 : State} (s : State) (k : Nat) (g : FirnFrame → FirnFrame)
    (hok : Ok pcs b0 s) (hp0 : pcs .firn := by assumption) :
    Ok pcs b0 (State.modFrame s k g) := by
  delta State.modFrame
  repeat' first
    | with_reducible assumption | extract_lets | intro _ | with_reducible apply State.setFrame_ok | split
    | dsimp +zetaDelta -zeta only

theorem State.modChg_ok {pcs : Piece → Prop} {b0 : State} (s : State) (k : Nat) (g : Nat → Nat) (hok : Ok pcs b0 s)
    (hp0 : pcs .firn := by assumption) :
    Ok pcs b0 (State.modChg s k g) := by
  delta State.modChg
  repeat' first
    | with_reducible assumption | extract_lets | intro _ | with_reducible apply State.setChg_ok | split
    | dsimp +zetaDelta -zeta only

theorem State.modAvgOf_ok {pcs : Piece → Prop} {b0 : State} (s : State) (k : Nat) (g : Nat → Nat)
    (hok : Ok pcs b0 s) (hp0 : pcs .firn := by assumption) :
    Ok pcs b0 (State.modAvgOf s k g) := by
  delta State.modAvgOf
  repeat' first
    | with_reducible assumption | extract_lets | intro _ | with_reducible apply State.setAvgOf_ok | split
    | dsimp +zetaDelta -zeta only

theorem State.modLfsrOf_ok {pcs : Piece → Prop} {b0 : State} (s : State) (k : Nat) (g : BitVec 16 → BitVec 16)
    (hok : Ok pcs b0 s) (hp0 : pcs .firn := by assumption) :
    Ok pcs b0 (State.modLfsrOf s k g) := by
  delta State.modLfsrOf
  repeat' first
    | with_reducible assumption | extract_lets | intro _ | with_reducible apply State.setLfsrOf_ok | split
    | dsimp +zetaDelta -zeta only

theorem State.modBucket_ok {pcs : Piece → Prop} {b0 : State} (s : State) (k : Nat) (g : Policer → Policer)
    (hok : Ok pcs b0 s) (hp0 : pcs .firn := by assumption) :
    Ok pcs b0 (State.modBucket s k g) := by
  delta State.modBucket
  repeat' first
    | with_reducible assumption | extract_lets | intro _ | with_reducible apply State.setBucket_ok | split
    | dsimp +zetaDelta -zeta only

theorem State.modHeldOf_ok {pcs : Piece → Prop} {b0 : State} (s : State) (k : Nat) (g : Nat → Nat)
    (hok : Ok pcs b0 s) (hp0 : pcs .firn := by assumption) :
    Ok pcs b0 (State.modHeldOf s k g) := by
  delta State.modHeldOf
  repeat' first
    | with_reducible assumption | extract_lets | intro _ | with_reducible apply State.setHeldOf_ok | split
    | dsimp +zetaDelta -zeta only

theorem State.modChgSeen_ok {pcs : Piece → Prop} {b0 : State} (s : State) (k : Nat) (g : Nat → Nat)
    (hok : Ok pcs b0 s) (hp0 : pcs .firn := by assumption) :
    Ok pcs b0 (State.modChgSeen s k g) := by
  delta State.modChgSeen
  repeat' first
    | with_reducible assumption | extract_lets | intro _ | with_reducible apply State.setChgSeen_ok | split
    | dsimp +zetaDelta -zeta only

theorem State.modSq_ok {pcs : Piece → Prop} {b0 : State} (s : State) (k : Nat) (g : Sq → Sq) (hok : Ok pcs b0 s)
    (hp0 : pcs .rings := by assumption) :
    Ok pcs b0 (State.modSq s k g) := by
  delta State.modSq
  repeat' first
    | with_reducible assumption | extract_lets | intro _ | with_reducible apply State.setSq_ok | split
    | dsimp +zetaDelta -zeta only

theorem State.modCq_ok {pcs : Piece → Prop} {b0 : State} (s : State) (k : Nat) (g : Cq → Cq) (hok : Ok pcs b0 s)
    (hp0 : pcs .rings := by assumption) :
    Ok pcs b0 (State.modCq s k g) := by
  delta State.modCq
  repeat' first
    | with_reducible assumption | extract_lets | intro _ | with_reducible apply State.setCq_ok | split
    | dsimp +zetaDelta -zeta only

theorem State.modFunc_ok {pcs : Piece → Prop} {b0 : State} (s : State) (k : Nat) (g : Func → Func)
    (hok : Ok pcs b0 s) (hp0 : pcs .rings := by assumption) :
    Ok pcs b0 (State.modFunc s k g) := by
  delta State.modFunc
  repeat' first
    | with_reducible assumption | extract_lets | intro _ | with_reducible apply State.setFunc_ok | split
    | dsimp +zetaDelta -zeta only

theorem State.modSrc_ok {pcs : Piece → Prop} {b0 : State} (s : State) (k : Nat) (g : Src → Src) (hok : Ok pcs b0 s)
    (hp0 : pcs .irq := by assumption) :
    Ok pcs b0 (State.modSrc s k g) := by
  delta State.modSrc
  repeat' first
    | with_reducible assumption | extract_lets | intro _ | with_reducible apply State.setSrc_ok | split
    | dsimp +zetaDelta -zeta only

theorem State.modTgt_ok {pcs : Piece → Prop} {b0 : State} (s : State) (k : Nat) (g : Tgt → Tgt) (hok : Ok pcs b0 s)
    (hp0 : pcs .irq := by assumption) :
    Ok pcs b0 (State.modTgt s k g) := by
  delta State.modTgt
  repeat' first
    | with_reducible assumption | extract_lets | intro _ | with_reducible apply State.setTgt_ok | split
    | dsimp +zetaDelta -zeta only

theorem State.modEth_ok {pcs : Piece → Prop} {b0 : State} (s : State) (k : Nat) (g : EthPort → EthPort)
    (hok : Ok pcs b0 s) (hp0 : pcs .eths := by assumption) :
    Ok pcs b0 (State.modEth s k g) := by
  delta State.modEth
  repeat' first
    | with_reducible assumption | extract_lets | intro _ | with_reducible apply State.setEth_ok | split
    | dsimp +zetaDelta -zeta only

theorem State.modBd_ok {pcs : Piece → Prop} {b0 : State} (s : State) (k : Nat) (g : Nat → Nat) (hok : Ok pcs b0 s)
    (hp0 : pcs .time := by assumption) :
    Ok pcs b0 (State.modBd s k g) := by
  delta State.modBd
  repeat' first
    | with_reducible assumption | extract_lets | intro _ | with_reducible apply State.setBd_ok | split
    | dsimp +zetaDelta -zeta only

theorem State.modCap_ok {pcs : Piece → Prop} {b0 : State} (s : State) (k : Nat) (g : Nat × Nat → Nat × Nat)
    (hok : Ok pcs b0 s) (hp0 : pcs .time := by assumption) :
    Ok pcs b0 (State.modCap s k g) := by
  delta State.modCap
  repeat' first
    | with_reducible assumption | extract_lets | intro _ | with_reducible apply State.setCap_ok | split
    | dsimp +zetaDelta -zeta only

theorem State.wr8_ok {pcs : Piece → Prop} {b0 : State} (s : State) (a : Nat) (v : Byte) (hok : Ok pcs b0 s)
    (hp0 : pcs .mem := by assumption) :
    Ok pcs b0 (State.wr8 s a v) :=
  State.withMem_ok _ _ hok (Tab.wf_put _ _ _ _ hok.sane.canon.mem)

theorem State.wr32_ok {pcs : Piece → Prop} {b0 : State} (s : State) (a : Nat) (v : Word) (hok : Ok pcs b0 s)
    (hp0 : pcs .mem := by assumption) :
    Ok pcs b0 (State.wr32 s a v) := by
  delta State.wr32
  repeat' first
    | with_reducible assumption | extract_lets | intro _ | with_reducible apply State.wr8_ok | split
    | dsimp +zetaDelta -zeta only

theorem State.wrBytes_ok {pcs : Piece → Prop} {b0 : State} (s : State) (a : Nat) (bs : List Byte)
    (hok : Ok pcs b0 s) (hp0 : pcs .mem := by assumption) :
    Ok pcs b0 (State.wrBytes s a bs) := by
  induction bs generalizing s a with
  | nil => exact hok
  | cons b bs ih => exact ih _ _ (State.wr8_ok _ _ _ hok)

theorem State.post_ok {pcs : Piece → Prop} {b0 : State} (s : State) (f : Nat) (a : Nat) (bs : List Byte)
    (hok : Ok pcs b0 s) (hp0 : pcs .host := by assumption) :
    Ok pcs b0 (State.post s f a bs) := by
  unfold State.post
  exact ok_ite (State.withHostMem0_ok _ _ hok) (State.withHostMem1_ok _ _ hok)

theorem State.setLevel_ok {pcs : Piece → Prop} {b0 : State} (s : State) (b : Nat) (v : Bool) (hok : Ok pcs b0 s)
    (hp0 : pcs .snow := by assumption) :
    Ok pcs b0 (State.setLevel s b v) := by
  delta State.setLevel
  repeat' first
    | with_reducible assumption | extract_lets | intro _ | with_reducible apply State.withSnow_ok | split
    | dsimp +zetaDelta -zeta only

theorem State.heal_ok {pcs : Piece → Prop} {b0 : State} (s : State) (m : Nat) (u : Nat) (a : Nat)
    (hok : Ok pcs b0 s) (hp0 : pcs .poison := by assumption) :
    Ok pcs b0 (State.heal s m u a) := by
  delta State.heal
  repeat' first
    | with_reducible assumption | extract_lets | intro _ | with_reducible apply State.withPoison_ok | split
    | dsimp +zetaDelta -zeta only

theorem State.healRun_ok {pcs : Piece → Prop} {b0 : State} (s : State) (m : Nat) (u : Nat) (a : Nat) (n : Nat)
    (hok : Ok pcs b0 s) (hp0 : pcs .poison := by assumption) :
    Ok pcs b0 (State.healRun s m u a n) := by
  delta State.healRun
  repeat' first
    | with_reducible assumption | extract_lets | intro _ | with_reducible apply State.withPoison_ok | split
    | dsimp +zetaDelta -zeta only

theorem State.drawWord_ok {pcs : Piece → Prop} {b0 : State} (s : State) (hok : Ok pcs b0 s)
    (hp0 : pcs .free := by assumption) :
    Ok2 pcs b0 (State.drawWord s) := by
  delta State.drawWord
  repeat' first
    | with_reducible assumption | extract_lets | intro _ | with_reducible apply ok2_ite
    | with_reducible apply State.withFree_ok | split | with_reducible apply ok2_mk | dsimp +zetaDelta -zeta only

theorem State.drawWord_ok' {pcs : Piece → Prop} {b0 : State} (s : State) (hok : Ok pcs b0 s)
    (hp0 : pcs .free := by assumption) :
    Ok pcs b0 (State.drawWord s).2 := State.drawWord_ok s hok hp0

theorem State.drawCell_ok {pcs : Piece → Prop} {b0 : State} (s : State) (hok : Ok pcs b0 s)
    (hp0 : pcs .free := by assumption) :
    Ok2 pcs b0 (State.drawCell s) := by
  delta State.drawCell
  repeat' first
    | with_reducible assumption | extract_lets | intro _ | with_reducible apply ok2_ite
    | with_reducible apply State.withFree_ok | split | with_reducible apply ok2_mk | dsimp +zetaDelta -zeta only

theorem State.drawCell_ok' {pcs : Piece → Prop} {b0 : State} (s : State) (hok : Ok pcs b0 s)
    (hp0 : pcs .free := by assumption) :
    Ok pcs b0 (State.drawCell s).2 := State.drawCell_ok s hok hp0

theorem State.tickBases_ok {pcs : Piece → Prop} {b0 : State} (s : State) (n : Nat) (hok : Ok pcs b0 s)
    (hp0 : pcs .time := by assumption) :
    Ok pcs b0 (State.tickBases s n) := by
  induction n generalizing s with
  | zero => exact hok
  | succ n ih => exact ih _ (State.modTb_ok _ _ _ hok fun _ _ => TimeBase.tick_val _ _ _ _)

theorem State.rtcTick_ok {pcs : Piece → Prop} {b0 : State} (s : State) (hok : Ok pcs b0 s)
    (hp0 : pcs .regs := by assumption) (hp1 : pcs .snow := by assumption) :
    Ok pcs b0 (State.rtcTick s) := by
  delta State.rtcTick
  repeat' first
    | with_reducible assumption | extract_lets | intro _ | with_reducible apply ok_ite
    | with_reducible apply State.wrapInc_ok | with_reducible apply State.withSnow_ok | split
    | dsimp +zetaDelta -zeta only

theorem State.tick_ok {pcs : Piece → Prop} {b0 : State} (s : State) (hok : Ok pcs b0 s)
    (hp0 : pcs .time := by assumption) (hp1 : pcs .regs := by assumption) (hp2 : pcs .snow := by assumption) :
    Ok pcs b0 (State.tick s) := by
  delta State.tick
  repeat' first
    | with_reducible assumption | extract_lets | intro _ | with_reducible apply ok_ite
    | with_reducible apply State.tickBases_ok | with_reducible apply State.withNow_ok
    | with_reducible apply State.withSnow_ok | with_reducible apply State.rtcTick_ok | split
    | dsimp +zetaDelta -zeta only

theorem State.lbHeal_ok {pcs : Piece → Prop} {b0 : State} (s : State) (l : Nat) (hok : Ok pcs b0 s)
    (hp0 : pcs .poison := by assumption) :
    Ok pcs b0 (State.lbHeal s l) := by
  delta State.lbHeal
  repeat' first
    | with_reducible assumption | extract_lets | intro _ | with_reducible apply State.withPoison_ok | split
    | dsimp +zetaDelta -zeta only
end Sys2Proof.Machine
end

