-- ==== Sys2Proof/Laws/OkIrq.lean ====
section
/-! SUPPORT. Cirque and the sources of interrupts: every operation of Machine/Irq.lean keeps the queue and a sane state, and changes no
piece but the ones it names. -/
namespace Sys2Proof.Machine
set_option Elab.async false

theorem State.wakeEng_ok {pcs : Piece → Prop} {b0 : State} (s : State) (t : Nat) (hok : Ok pcs b0 s)
    (hp0 : pcs .irq := by assumption) :
    Ok pcs b0 (State.wakeEng s t) := by
  delta State.wakeEng
  repeat' first
    | with_reducible assumption | extract_lets | intro _ | with_reducible apply ok_ite
    | with_reducible apply State.modTgt_ok | split | dsimp +zetaDelta -zeta only

theorem State.raise_ok {pcs : Piece → Prop} {b0 : State} (s : State) (n : Nat) (hok : Ok pcs b0 s)
    (hp0 : pcs .irq := by assumption) :
    Ok pcs b0 (State.raise s n) := by
  delta State.raise
  repeat' first
    | with_reducible assumption | extract_lets | intro _ | with_reducible apply ok_ite
    | with_reducible apply State.setSrc_ok | with_reducible apply State.modTgt_ok
    | with_reducible apply State.wakeEng_ok | split | dsimp +zetaDelta -zeta only

theorem State.raiseIf_ok {pcs : Piece → Prop} {b0 : State} (s : State) (b : Bool) (n : Nat) (hok : Ok pcs b0 s)
    (hp0 : pcs .irq := by assumption) :
    Ok pcs b0 (State.raiseIf s b n) := by
  delta State.raiseIf
  repeat' first
    | with_reducible assumption | extract_lets | intro _ | with_reducible apply ok_ite
    | with_reducible apply State.raise_ok | split | dsimp +zetaDelta -zeta only

theorem State.commitAt_ok {pcs : Piece → Prop} {b0 : State} (s : State) (t : Nat) (hok : Ok pcs b0 s)
    (hp0 : pcs .regs := by assumption) (hp1 : pcs .irq := by assumption) :
    Ok pcs b0 (State.commitAt s t) := by
  delta State.commitAt
  repeat' first
    | with_reducible assumption | extract_lets | intro _ | with_reducible apply State.modTgt_ok
    | with_reducible apply State.satAdd_ok | split | dsimp +zetaDelta -zeta only

theorem State.msixPost_ok {pcs : Piece → Prop} {b0 : State} (s : State) (t : Nat) (hok : Ok pcs b0 s)
    (hp0 : pcs .host := by assumption) :
    Ok pcs b0 (State.msixPost s t) := by
  delta State.msixPost
  repeat' first
    | with_reducible assumption | extract_lets | intro _ | with_reducible apply State.post_ok | split
    | dsimp +zetaDelta -zeta only

theorem State.commitHost_ok {pcs : Piece → Prop} {b0 : State} (s : State) (t : Nat) (hok : Ok pcs b0 s)
    (hp0 : pcs .regs := by assumption) (hp1 : pcs .host := by assumption) (hp2 : pcs .irq := by assumption) :
    Ok pcs b0 (State.commitHost s t) := by
  delta State.commitHost
  repeat' first
    | with_reducible assumption | extract_lets | intro _ | with_reducible apply ok_ite
    | with_reducible apply State.msixPost_ok | with_reducible apply State.modSrc_ok
    | with_reducible apply State.commitAt_ok | split | dsimp +zetaDelta -zeta only

theorem State.claimSrc_ok {pcs : Piece → Prop} {b0 : State} (s : State) (t : Nat) (n : Nat) (hok : Ok pcs b0 s)
    (hp0 : pcs .irq := by assumption) :
    Ok2 pcs b0 (State.claimSrc s t n) := by
  delta State.claimSrc
  repeat' first
    | with_reducible assumption | extract_lets | intro _ | with_reducible apply ok2_ite
    | with_reducible apply State.modSrc_ok | with_reducible apply State.modTgt_ok | split
    | with_reducible apply ok2_mk | dsimp +zetaDelta -zeta only

theorem State.claimSrc_ok' {pcs : Piece → Prop} {b0 : State} (s : State) (t : Nat) (n : Nat) (hok : Ok pcs b0 s)
    (hp0 : pcs .irq := by assumption) :
    Ok pcs b0 (State.claimSrc s t n).2 := State.claimSrc_ok s t n hok hp0

theorem State.claim_ok {pcs : Piece → Prop} {b0 : State} (s : State) (t : Nat) (hok : Ok pcs b0 s)
    (hp0 : pcs .irq := by assumption) :
    Ok2 pcs b0 (State.claim s t) := by
  delta State.claim
  repeat' first
    | with_reducible assumption | extract_lets | intro _ | with_reducible apply ok2_ite
    | with_reducible apply State.claimSrc_ok | with_reducible apply State.claimSrc_ok'
    | (refine ok2_eq (by with_reducible assumption) ?_) | split | with_reducible apply ok2_mk
    | dsimp +zetaDelta -zeta only

theorem State.claim_ok' {pcs : Piece → Prop} {b0 : State} (s : State) (t : Nat) (hok : Ok pcs b0 s)
    (hp0 : pcs .irq := by assumption) :
    Ok pcs b0 (State.claim s t).2 := State.claim_ok s t hok hp0

theorem State.complete_ok {pcs : Piece → Prop} {b0 : State} (s : State) (t : Nat) (n : Nat) (hok : Ok pcs b0 s)
    (hp0 : pcs .regs := by assumption) (hp1 : pcs .irq := by assumption) :
    Ok2 pcs b0 (State.complete s t n) := by
  delta State.complete
  repeat' first
    | with_reducible assumption | extract_lets | intro _ | with_reducible apply ok2_ite
    | with_reducible apply ok_ite | with_reducible apply State.setSrc_ok | with_reducible apply State.wakeEng_ok
    | with_reducible apply State.satAdd_ok | split | with_reducible apply ok2_mk | dsimp +zetaDelta -zeta only

theorem State.complete_ok' {pcs : Piece → Prop} {b0 : State} (s : State) (t : Nat) (n : Nat) (hok : Ok pcs b0 s)
    (hp0 : pcs .regs := by assumption) (hp1 : pcs .irq := by assumption) :
    Ok pcs b0 (State.complete s t n).2 := State.complete_ok s t n hok hp0 hp1

theorem State.srcWrite_ok {pcs : Piece → Prop} {b0 : State} (s : State) (w : Agent) (n : Nat) (v : Word)
    (hok : Ok pcs b0 s) (hp0 : pcs .regs := by assumption) (hp1 : pcs .irq := by assumption) :
    Ok pcs b0 (State.srcWrite s w n v) := by
  delta State.srcWrite
  repeat' first
    | with_reducible assumption | extract_lets | intro _ | with_reducible apply ok_ite
    | with_reducible apply State.clampBy_ok | with_reducible apply State.setSrc_ok
    | with_reducible apply State.wakeEng_ok | split | dsimp +zetaDelta -zeta only

theorem State.cirqueFlr_ok {pcs : Piece → Prop} {b0 : State} (s : State) (f : Nat) (hok : Ok pcs b0 s)
    (hp0 : pcs .irq := by assumption) :
    Ok pcs b0 (State.cirqueFlr s f) := by
  delta State.cirqueFlr
  repeat' first
    | with_reducible assumption | extract_lets | intro _ | with_reducible apply ok_ite
    | with_reducible apply State.setSrc_ok | with_reducible apply State.wakeEng_ok
    | with_reducible apply State.modTgt_ok | with_reducible apply ok_foldl | with_reducible apply ok2_foldl
    | with_reducible apply ok_foldl2 | with_reducible apply ok_ite2 | with_reducible apply ok1_foldl
    | with_reducible apply ok_foldl1 | with_reducible apply ok_ite1 | split | dsimp +zetaDelta -zeta only
end Sys2Proof.Machine
end

