-- ==== Sys2Proof/Laws/OkHook.lean ====
section
/-! SUPPORT. Hook calls: every operation of Machine/Hook.lean keeps the queue and a sane state, and changes no
piece but the ones it names. -/
namespace Sys2Proof.Machine
set_option Elab.async false

theorem State.setMsp_ok {pcs : Piece → Prop} {b0 : State} (s : State) (e : Nat) (v : Nat) (hok : Ok pcs b0 s)
    (hp0 : pcs .regs := by assumption) :
    Ok pcs b0 (State.setMsp s e v) := by
  delta State.setMsp
  repeat' first
    | with_reducible assumption | extract_lets | intro _ | with_reducible apply State.setF_ok | split
    | dsimp +zetaDelta -zeta only

theorem State.unwind_ok {pcs : Piece → Prop} {b0 : State} (s : State) (e : Nat) (x : EngStacks) (hok : Ok pcs b0 s)
    (hx : x.os.length ≤ 16 ∧ x.rsd ≤ 8) (hp0 : pcs .regs := by assumption) (hp1 : pcs .engs := by assumption) : Ok pcs b0 (s.unwind e x) :=
  State.setMsp_ok _ _ _ (State.modEng_ok _ _ _ hok fun _ h => ⟨hx.1, hx.2, h.saved⟩)


theorem State.showFrame_ok {pcs : Piece → Prop} {b0 : State} (s : State) (e : Nat) (k : Look) (laneB : Bool)
    (index : Nat) (hok : Ok pcs b0 s) (hp0 : pcs .mem := by assumption) (hp1 : pcs .poison := by assumption) :
    Ok pcs b0 (State.showFrame s e k laneB index) := by
  delta State.showFrame
  repeat' first
    | with_reducible assumption | extract_lets | intro _ | with_reducible apply State.wrBytes_ok
    | with_reducible apply State.healRun_ok | split | dsimp +zetaDelta -zeta only

theorem State.hookShow_ok {pcs : Piece → Prop} {b0 : State} (s : State) (e : Nat) (a2 : HookCall)
    (hok : Ok pcs b0 s) (hp0 : pcs .mem := by assumption) (hp1 : pcs .poison := by assumption) :
    Ok pcs b0 (State.hookShow s e a2) := by
  delta State.hookShow
  repeat' first
    | with_reducible assumption | extract_lets | intro _ | with_reducible apply State.showFrame_ok
    | with_reducible apply State.tick_ok | split | dsimp +zetaDelta -zeta only

theorem State.hookBegin_ok {pcs : Piece → Prop} {b0 : State} (s : State) (e : Nat) (hok : Ok pcs b0 s)
    (hp0 : pcs .regs := by assumption) (hp1 : pcs .mem := by assumption) (hp2 : pcs .poison := by assumption)
    (hp3 : pcs .engs := by assumption) :
    Ok pcs b0 (State.hookBegin s e) := by
  have hf := hok.fits e
  unfold State.hookBegin
  dsimp only
  split
  · next c xs hc hb =>
    refine ok_ite (State.satAdd_ok _ _ _ (State.modEng_ok _ _ _ (State.hookShow_ok _ _ _ hok) fun g h => ⟨?_, Nat.min_le_left _ _, ?_⟩)) hok
    · cases c <;> simp [HookCall.args]
    · intro x hx
      rcases List.mem_cons.1 hx with rfl | hx
      · exact ⟨hf.os, hf.rs⟩
      · exact h.saved x (List.mem_append_right _ hx)
  · exact hok

theorem State.hookCall_ok {pcs : Piece → Prop} {b0 : State} (s : State) (e : Nat) (c : HookCall) (hok : Ok pcs b0 s)
    (hp0 : pcs .regs := by assumption) (hp1 : pcs .mem := by assumption) (hp2 : pcs .poison := by assumption)
    (hp3 : pcs .engs := by assumption) :
    Ok pcs b0 (State.hookCall s e c) := by
  delta State.hookCall
  repeat' first
    | with_reducible assumption | extract_lets | intro _ | with_reducible apply State.modEng_ok
    | with_reducible apply State.hookBegin_ok | (apply Eng.Fits.of (by assumption) <;> rfl)
    | (apply Ok.fits_of (by assumption) <;> rfl) | split | dsimp +zetaDelta -zeta only

theorem State.hookBack_ok {pcs : Piece → Prop} {b0 : State} (s : State) (e : Nat) (b : Nat × EngStacks) (hok :
    Ok pcs b0 s)
    (hb : b.2.os.length ≤ 16 ∧ b.2.rsd ≤ 8) (hp0 : pcs .regs := by assumption) (hp1 : pcs .engs := by assumption) : Ok pcs b0 (s.hookBack e b) :=
  State.modEng_ok _ _ _ (State.unwind_ok _ _ _ hok hb) fun _ h => ⟨h.os, h.rs, fun _ hx => by cases hx⟩

end Sys2Proof.Machine
end

