-- ==== Sys2Proof/Laws/OkAdmin.lean ====
section
/-! SUPPORT. The admin rings: every operation of Machine/Admin.lean keeps the queue and a sane state, and changes no
piece but the ones it names. -/
namespace Sys2Proof.Machine
set_option Elab.async false

theorem State.adminTake_ok {pcs : Piece → Prop} {b0 : State} (s : State) (f : Nat) (hok : Ok pcs b0 s)
    (hp0 : pcs .rings := by assumption) :
    Ok pcs b0 (State.adminTake s f) := by
  delta State.adminTake
  repeat' first
    | with_reducible assumption | extract_lets | intro _ | with_reducible apply State.modFunc_ok | split
    | dsimp +zetaDelta -zeta only

theorem State.adminCpl_ok {pcs : Piece → Prop} {b0 : State} (s : State) (r : AdminRef) (st : Status) (cause : Nat)
    (w2 : Word) (w3 : Word) (w4 : Word) (w5 : Word) (w6 : Word) (hok : Ok pcs b0 s)
    (hp0 : pcs .host := by assumption) (hp1 : pcs .rings := by assumption) (hp2 : pcs .irq := by assumption) :
    Ok pcs b0 (State.adminCpl s r st cause w2 w3 w4 w5 w6) := by
  delta State.adminCpl
  repeat' first
    | with_reducible assumption | extract_lets | intro _ | with_reducible apply ok_ite
    | with_reducible apply State.post_ok | with_reducible apply State.setFunc_ok
    | with_reducible apply State.raise_ok | split | dsimp +zetaDelta -zeta only

theorem State.adminDone_ok {pcs : Piece → Prop} {b0 : State} (s : State) (r : AdminRef) (hok : Ok pcs b0 s)
    (hp0 : pcs .host := by assumption) (hp1 : pcs .rings := by assumption) (hp2 : pcs .irq := by assumption) :
    Ok pcs b0 (State.adminDone s r) := by
  delta State.adminDone
  repeat' first
    | with_reducible assumption | extract_lets | intro _ | with_reducible apply State.adminCpl_ok | split
    | dsimp +zetaDelta -zeta only

theorem State.adminDone2_ok {pcs : Piece → Prop} {b0 : State} (s : State) (r : AdminRef) (w2 : Word)
    (hok : Ok pcs b0 s) (hp0 : pcs .host := by assumption) (hp1 : pcs .rings := by assumption)
    (hp2 : pcs .irq := by assumption) :
    Ok pcs b0 (State.adminDone2 s r w2) := by
  delta State.adminDone2
  repeat' first
    | with_reducible assumption | extract_lets | intro _ | with_reducible apply State.adminCpl_ok | split
    | dsimp +zetaDelta -zeta only

theorem State.adminRefuse_ok {pcs : Piece → Prop} {b0 : State} (s : State) (r : AdminRef) (c : Cause)
    (hok : Ok pcs b0 s) (hp0 : pcs .host := by assumption) (hp1 : pcs .rings := by assumption)
    (hp2 : pcs .irq := by assumption) :
    Ok pcs b0 (State.adminRefuse s r c) := by
  delta State.adminRefuse
  repeat' first
    | with_reducible assumption | extract_lets | intro _ | with_reducible apply State.adminCpl_ok | split
    | dsimp +zetaDelta -zeta only

theorem State.adminBusy_ok {pcs : Piece → Prop} {b0 : State} (s : State) (r : AdminRef) (hok : Ok pcs b0 s)
    (hp0 : pcs .host := by assumption) (hp1 : pcs .rings := by assumption) (hp2 : pcs .irq := by assumption) :
    Ok pcs b0 (State.adminBusy s r) := by
  delta State.adminBusy
  repeat' first
    | with_reducible assumption | extract_lets | intro _ | with_reducible apply State.adminCpl_ok | split
    | dsimp +zetaDelta -zeta only

theorem State.adminDone?_ok {pcs : Piece → Prop} {b0 : State} (s : State) (a1 : Option AdminRef) (hok : Ok pcs b0 s)
    (hp0 : pcs .host := by assumption) (hp1 : pcs .rings := by assumption) (hp2 : pcs .irq := by assumption) :
    Ok pcs b0 (State.adminDone? s a1) := by
  delta State.adminDone?
  repeat' first
    | with_reducible assumption | extract_lets | intro _ | with_reducible apply State.adminDone_ok | split
    | dsimp +zetaDelta -zeta only

theorem adminCmd_ok {pcs : Piece → Prop} {b0 : State} (s : State) (f : Fn) (d : Words8) (op : Nat)
    (body : State → AdminRef → State) (hok : Ok pcs b0 s) (h_body : ∀ s x, Ok pcs b0 s → Ok pcs b0 (body s x))
    (hp0 : pcs .rings := by assumption) :
    OkO pcs b0 (adminCmd s f d op body) := by
  delta adminCmd
  repeat' first
    | with_reducible assumption | extract_lets | intro _ | with_reducible apply okO_next
    | with_reducible apply okO_ite | with_reducible apply ok_ite | with_reducible apply State.adminTake_ok
    | with_reducible apply h_body | split | dsimp +zetaDelta -zeta only

theorem adminSub_ok {pcs : Piece → Prop} {b0 : State} (s : State) (f : Fn) (d : Words8) (op : Nat) (sub : Nat)
    (body : State → AdminRef → State) (hok : Ok pcs b0 s) (h_body : ∀ s x, Ok pcs b0 s → Ok pcs b0 (body s x))
    (hp0 : pcs .rings := by assumption) :
    OkO pcs b0 (adminSub s f d op sub body) := by
  delta adminSub
  repeat' first
    | with_reducible assumption | extract_lets | intro _ | with_reducible apply okO_next
    | with_reducible apply okO_ite | with_reducible apply ok_ite | with_reducible apply adminCmd_ok
    | with_reducible apply adminCmd_ok' | with_reducible apply h_body | split | dsimp +zetaDelta -zeta only

theorem blockCmd_ok {pcs : Piece → Prop} {b0 : State} (s : State) (f : Fn) (d : Words8) (op : Nat) (b : Nat)
    (body : State → AdminRef → State) (hok : Ok pcs b0 s) (h_body : ∀ s x, Ok pcs b0 s → Ok pcs b0 (body s x))
    (hp0 : pcs .regs := by assumption) (hp1 : pcs .rings := by assumption) :
    OkO pcs b0 (blockCmd s f d op b body) := by
  delta blockCmd
  repeat' first
    | with_reducible assumption | extract_lets | intro _ | with_reducible apply okO_next
    | with_reducible apply okO_ite | with_reducible apply ok_ite | with_reducible apply adminCmd_ok
    | with_reducible apply adminCmd_ok' | with_reducible apply State.clamp_ok | with_reducible apply h_body | split
    | dsimp +zetaDelta -zeta only

theorem State.cqWrite_ok {pcs : Piece → Prop} {b0 : State} (s : State) (n : Nat) (w0 : Bool → Word) (ws : List Word)
    (hok : Ok pcs b0 s) (hp0 : pcs .host := by assumption) (hp1 : pcs .rings := by assumption)
    (hp2 : pcs .irq := by assumption) :
    Ok pcs b0 (State.cqWrite s n w0 ws) := by
  delta State.cqWrite
  repeat' first
    | with_reducible assumption | extract_lets | intro _ | with_reducible apply ok_ite
    | with_reducible apply State.post_ok | with_reducible apply State.setCq_ok
    | with_reducible apply State.raise_ok | split | dsimp +zetaDelta -zeta only

theorem State.sqComplete_ok {pcs : Piece → Prop} {b0 : State} (s : State) (n : Nat) (st : Status) (kind : Nat)
    (laneB : Bool) (bus : Nat) (w2 : Word) (stamp : Option Stamp) (tag : Word) (hok : Ok pcs b0 s)
    (hp0 : pcs .host := by assumption) (hp1 : pcs .rings := by assumption) (hp2 : pcs .irq := by assumption) :
    Ok pcs b0 (State.sqComplete s n st kind laneB bus w2 stamp tag) := by
  delta State.sqComplete
  repeat' first
    | with_reducible assumption | extract_lets | intro _ | with_reducible apply ok_ite
    | with_reducible apply State.setSq_ok | with_reducible apply State.modCq_ok
    | with_reducible apply State.cqWrite_ok | split | dsimp +zetaDelta -zeta only

theorem State.sqFetch_ok {pcs : Piece → Prop} {b0 : State} (s : State) (n : Nat) (hok : Ok pcs b0 s)
    (hp0 : pcs .rings := by assumption) (hp1 : pcs .irq := by assumption) :
    Ok pcs b0 (State.sqFetch s n) := by
  delta State.sqFetch
  repeat' first
    | with_reducible assumption | extract_lets | intro _ | with_reducible apply State.setSq_ok
    | with_reducible apply State.modCq_ok | with_reducible apply State.raiseIf_ok | split
    | dsimp +zetaDelta -zeta only
end Sys2Proof.Machine
end

