-- ==== Sys2Proof/Laws/OkTime.lean ====
section
/-! SUPPORT. Time bases and stamps: every operation of Machine/Time.lean keeps the queue and a sane state, and changes no
piece but the ones it names. -/
namespace Sys2Proof.Machine
set_option Elab.async false

theorem State.stampWith_ok {pcs : Piece → Prop} {b0 : State} (s : State) (l : Nat) (v : Nat) (c : Int × Bool)
    (hok : Ok pcs b0 s) (hp0 : pcs .regs := by assumption) :
    Ok2 pcs b0 (State.stampWith s l v c) := by
  delta State.stampWith
  repeat' first
    | with_reducible assumption | extract_lets | intro _ | with_reducible apply ok2_ite
    | with_reducible apply ok_ite | with_reducible apply State.setB_ok | split | with_reducible apply ok2_mk
    | dsimp +zetaDelta -zeta only

theorem State.stampWith_ok' {pcs : Piece → Prop} {b0 : State} (s : State) (l : Nat) (v : Nat) (c : Int × Bool)
    (hok : Ok pcs b0 s) (hp0 : pcs .regs := by assumption) :
    Ok pcs b0 (State.stampWith s l v c).2 := State.stampWith_ok s l v c hok hp0

theorem State.laneStamp_ok {pcs : Piece → Prop} {b0 : State} (s : State) (l : Nat) (v : Nat) (tx : Bool)
    (hok : Ok pcs b0 s) (hp0 : pcs .regs := by assumption) :
    Ok2 pcs b0 (State.laneStamp s l v tx) := by
  delta State.laneStamp
  repeat' first
    | with_reducible assumption | extract_lets | intro _ | with_reducible apply ok2_ite
    | with_reducible apply State.stampWith_ok | with_reducible apply State.stampWith_ok'
    | (refine ok2_eq (by with_reducible assumption) ?_) | split | with_reducible apply ok2_mk
    | dsimp +zetaDelta -zeta only

theorem State.laneStamp_ok' {pcs : Piece → Prop} {b0 : State} (s : State) (l : Nat) (v : Nat) (tx : Bool)
    (hok : Ok pcs b0 s) (hp0 : pcs .regs := by assumption) :
    Ok pcs b0 (State.laneStamp s l v tx).2 := State.laneStamp_ok s l v tx hok hp0

theorem State.rxStamp_ok {pcs : Piece → Prop} {b0 : State} (s : State) (l : Nat) (x : Sof) (hok : Ok pcs b0 s)
    (hp0 : pcs .regs := by assumption) (hp1 : pcs .lanes := by assumption) :
    Ok2 pcs b0 (State.rxStamp s l x) := by
  delta State.rxStamp
  repeat' first
    | with_reducible assumption | extract_lets | intro _ | with_reducible apply ok2_ite
    | with_reducible apply State.stampWith_ok | with_reducible apply State.stampWith_ok'
    | with_reducible apply State.modLane_ok | (refine ok2_eq (by with_reducible assumption) ?_) | split
    | with_reducible apply ok2_mk | dsimp +zetaDelta -zeta only

theorem State.rxStamp_ok' {pcs : Piece → Prop} {b0 : State} (s : State) (l : Nat) (x : Sof) (hok : Ok pcs b0 s)
    (hp0 : pcs .regs := by assumption) (hp1 : pcs .lanes := by assumption) :
    Ok pcs b0 (State.rxStamp s l x).2 := State.rxStamp_ok s l x hok hp0 hp1

theorem State.keepCorr_ok {pcs : Piece → Prop} {b0 : State} (s : State) (l : Nat) (hok : Ok pcs b0 s)
    (hp0 : pcs .lanes := by assumption) :
    Ok pcs b0 (State.keepCorr s l) := by
  delta State.keepCorr
  repeat' first
    | with_reducible assumption | extract_lets | intro _ | with_reducible apply State.modLane_ok | split
    | dsimp +zetaDelta -zeta only

theorem State.bdMark_ok {pcs : Piece → Prop} {b0 : State} (s : State) (n : Nat) (a2 : Nat) (hok : Ok pcs b0 s)
    (hp0 : pcs .time := by assumption) :
    Ok pcs b0 (State.bdMark s n a2) := by
  induction a2 generalizing s n <;> unfold State.bdMark
  all_goals repeat' first
    | apply_assumption | extract_lets | intro _ | with_reducible apply ok_ite | with_reducible apply State.setBd_ok
    | split | dsimp +zetaDelta -zeta only

theorem State.bdMarkAll_ok {pcs : Piece → Prop} {b0 : State} (s : State) (hok : Ok pcs b0 s)
    (hp0 : pcs .time := by assumption) :
    Ok pcs b0 (State.bdMarkAll s) := by
  delta State.bdMarkAll
  repeat' first
    | with_reducible assumption | extract_lets | intro _ | with_reducible apply State.bdMark_ok
    | with_reducible apply ok_foldl | with_reducible apply ok2_foldl | with_reducible apply ok_foldl2
    | with_reducible apply ok_ite2 | with_reducible apply ok1_foldl | with_reducible apply ok_foldl1
    | with_reducible apply ok_ite1 | split | dsimp +zetaDelta -zeta only

theorem State.stepBase_ok {pcs : Piece → Prop} {b0 : State} (s : State) (n : Nat) (ns : Int) (hok : Ok pcs b0 s)
    (hp0 : pcs .time := by assumption) (hp1 : pcs .regs := by assumption) :
    Ok pcs b0 (State.stepBase s n ns) := by
  have hv : ((((s.tb n).val : Int) + ns * (nsUnit : Int)) % (tbWrap : Int)).toNat < tbWrap := by
    have h1 := Int.emod_lt_of_pos (((s.tb n).val : Int) + ns * (nsUnit : Int)) (by decide : (0 : Int) < (tbWrap : Int))
    have h2 := Int.emod_nonneg (((s.tb n).val : Int) + ns * (nsUnit : Int)) (by decide : (tbWrap : Int) ≠ 0)
    omega
  delta State.stepBase
  extract_lets v s1 s2 s3
  have h : Ok pcs b0 s3 := State.wrapInc_ok _ _ (State.setF_ok _ _ _ (State.modTb_ok _ _ _ hok fun _ _ => hv))
  exact ok_ite (State.bdMark_ok _ _ _ h) h

theorem State.judgeStep_ok {pcs : Piece → Prop} {b0 : State} (s : State) (n : Nat) (ns : Int) (force : Bool)
    (hok : Ok pcs b0 s) (hp0 : pcs .time := by assumption) (hp1 : pcs .regs := by assumption)
    (hp2 : pcs .irq := by assumption) :
    Ok1 pcs b0 (State.judgeStep s n ns force) := by
  delta State.judgeStep
  repeat' first
    | with_reducible assumption | extract_lets | intro _ | with_reducible apply ok1_ite
    | with_reducible apply ok_ite | with_reducible apply State.setB_ok | with_reducible apply State.raise_ok
    | with_reducible apply State.stepBase_ok | split | with_reducible apply ok1_mk | dsimp +zetaDelta -zeta only

theorem State.judgeStep_ok' {pcs : Piece → Prop} {b0 : State} (s : State) (n : Nat) (ns : Int) (force : Bool)
    (hok : Ok pcs b0 s) (hp0 : pcs .time := by assumption) (hp1 : pcs .regs := by assumption)
    (hp2 : pcs .irq := by assumption) :
    Ok pcs b0 (State.judgeStep s n ns force).1 := State.judgeStep_ok s n ns force hok hp0 hp1 hp2

theorem execTbStep_ok {pcs : Piece → Prop} {b0 : State} (f : Fn) (d : Words8) (s : State) (hok : Ok pcs b0 s)
    (hp0 : pcs .time := by assumption) (hp1 : pcs .regs := by assumption) (hp2 : pcs .host := by assumption)
    (hp3 : pcs .rings := by assumption) (hp4 : pcs .irq := by assumption) :
    OkO pcs b0 (execTbStep f d s) := by
  delta execTbStep
  repeat' first
    | with_reducible assumption | extract_lets | intro _ | with_reducible apply okO_next
    | with_reducible apply okO_ite | with_reducible apply ok_ite | with_reducible apply adminCmd_ok
    | with_reducible apply adminCmd_ok' | with_reducible apply State.judgeStep_ok
    | with_reducible apply State.judgeStep_ok' | with_reducible apply State.adminDone2_ok
    | with_reducible apply State.adminRefuse_ok | (refine ok1_eq (by with_reducible assumption) ?_) | split
    | dsimp +zetaDelta -zeta only

theorem execBlockStartTimeBases_ok {pcs : Piece → Prop} {b0 : State} (f : Fn) (d : Words8) (s : State)
    (hok : Ok pcs b0 s) (hp0 : pcs .time := by assumption) (hp1 : pcs .regs := by assumption)
    (hp2 : pcs .host := by assumption) (hp3 : pcs .rings := by assumption) (hp4 : pcs .irq := by assumption) :
    OkO pcs b0 (execBlockStartTimeBases f d s) := by
  delta execBlockStartTimeBases
  repeat' first
    | with_reducible assumption | extract_lets | intro _ | with_reducible apply okO_next
    | with_reducible apply okO_ite | with_reducible apply ok_ite | with_reducible apply blockCmd_ok
    | with_reducible apply blockCmd_ok' | with_reducible apply State.bdMarkAll_ok
    | with_reducible apply State.withTimeUp_ok | with_reducible apply State.withTimeDist_ok
    | with_reducible apply State.adminDone_ok | split | dsimp +zetaDelta -zeta only

theorem execBlockStopTimeBases_ok {pcs : Piece → Prop} {b0 : State} (f : Fn) (d : Words8) (s : State)
    (hok : Ok pcs b0 s) (hp0 : pcs .time := by assumption) (hp1 : pcs .regs := by assumption)
    (hp2 : pcs .host := by assumption) (hp3 : pcs .rings := by assumption) (hp4 : pcs .irq := by assumption) :
    OkO pcs b0 (execBlockStopTimeBases f d s) := by
  delta execBlockStopTimeBases
  repeat' first
    | with_reducible assumption | extract_lets | intro _ | with_reducible apply okO_next
    | with_reducible apply okO_ite | with_reducible apply blockCmd_ok | with_reducible apply blockCmd_ok'
    | with_reducible apply State.withTimeDist_ok | with_reducible apply State.adminDone_ok | split
    | dsimp +zetaDelta -zeta only

theorem State.slewWrite_ok {pcs : Piece → Prop} {b0 : State} (s : State) (w : Agent) (n : Nat) (v : BitVec 64)
    (hok : Ok pcs b0 s) (hp0 : pcs .time := by assumption) (hp1 : pcs .regs := by assumption) :
    Ok pcs b0 (State.slewWrite s w n v) := by
  delta State.slewWrite
  repeat' first
    | with_reducible assumption | extract_lets | intro _ | with_reducible apply ok_ite
    | with_reducible apply State.clampBy_ok | with_reducible apply State.setF_ok
    | with_reducible apply State.modTb_ok | with_reducible apply State.setB_ok | split
    | dsimp +zetaDelta -zeta only

theorem execTbSlewWrite_ok {pcs : Piece → Prop} {b0 : State} (w : Agent) (n : TbId) (v : BitVec 64) (s : State)
    (hok : Ok pcs b0 s) (hp0 : pcs .time := by assumption) (hp1 : pcs .regs := by assumption) :
    OkO pcs b0 (execTbSlewWrite w n v s) := by
  delta execTbSlewWrite
  repeat' first
    | with_reducible assumption | extract_lets | intro _ | with_reducible apply okO_next
    | with_reducible apply okO_ite | with_reducible apply ok_ite | with_reducible apply State.slewWrite_ok | split
    | dsimp +zetaDelta -zeta only

theorem execSlewDone_ok {pcs : Piece → Prop} {b0 : State} (n : TbId) (s : State) (hok : Ok pcs b0 s)
    (hp0 : pcs .regs := by assumption) (hp1 : pcs .irq := by assumption) :
    OkO pcs b0 (execSlewDone n s) := by
  delta execSlewDone
  repeat' first
    | with_reducible assumption | extract_lets | intro _ | with_reducible apply okO_next
    | with_reducible apply okO_ite | with_reducible apply ok_ite | with_reducible apply State.setB_ok
    | with_reducible apply State.raise_ok | split | dsimp +zetaDelta -zeta only

theorem State.tbCapture_ok {pcs : Piece → Prop} {b0 : State} (s : State) (r : Agent) (n : Nat) (hok : Ok pcs b0 s)
    (hp0 : pcs .time := by assumption) :
    Ok pcs b0 (State.tbCapture s r n) := by
  delta State.tbCapture
  repeat' first
    | with_reducible assumption | extract_lets | intro _ | with_reducible apply State.setCap_ok | split
    | dsimp +zetaDelta -zeta only

theorem execTbTimeCapture_ok {pcs : Piece → Prop} {b0 : State} (r : Agent) (n : TbId) (s : State)
    (hok : Ok pcs b0 s) (hp0 : pcs .free := by assumption) (hp1 : pcs .time := by assumption) :
    OkO pcs b0 (execTbTimeCapture r n s) := by
  delta execTbTimeCapture
  repeat' first
    | with_reducible assumption | extract_lets | intro _ | with_reducible apply okO_next
    | with_reducible apply okO_ite | with_reducible apply ok_ite | with_reducible apply State.tbCapture_ok
    | with_reducible apply State.withReadData_ok | split | dsimp +zetaDelta -zeta only

theorem State.tbSetLoad_ok {pcs : Piece → Prop} {b0 : State} (s : State) (w : Agent) (n : Nat) (hok : Ok pcs b0 s)
    (hp0 : pcs .time := by assumption) (hp1 : pcs .regs := by assumption) :
    Ok pcs b0 (State.tbSetLoad s w n) := by
  delta State.tbSetLoad
  exact State.modTb_ok _ _ _ (ok_ite hok (State.clampBy_ok _ _ (State.setF_ok _ _ _ hok))) fun _ _ => Nat.mod_lt _ (by decide)

theorem State.tbSetWrite_ok {pcs : Piece → Prop} {b0 : State} (s : State) (w : Agent) (n : Nat) (v : Word)
    (hok : Ok pcs b0 s) (hp0 : pcs .time := by assumption) (hp1 : pcs .regs := by assumption) :
    Ok pcs b0 (State.tbSetWrite s w n v) := by
  delta State.tbSetWrite
  repeat' first
    | with_reducible assumption | extract_lets | intro _ | with_reducible apply ok_ite
    | with_reducible apply State.clampBy_ok | with_reducible apply State.setReg_ok
    | with_reducible apply State.tbSetLoad_ok | split | dsimp +zetaDelta -zeta only

theorem execTbSet_ok {pcs : Piece → Prop} {b0 : State} (w : Agent) (n : TbId) (v : Word) (s : State)
    (hok : Ok pcs b0 s) (hp0 : pcs .time := by assumption) (hp1 : pcs .regs := by assumption) :
    OkO pcs b0 (execTbSet w n v s) := by
  delta execTbSet
  repeat' first
    | with_reducible assumption | extract_lets | intro _ | with_reducible apply okO_next
    | with_reducible apply okO_ite | with_reducible apply ok_ite | with_reducible apply State.tbSetWrite_ok | split
    | dsimp +zetaDelta -zeta only
end Sys2Proof.Machine
end

