-- ==== Sys2Proof/Laws/OkEcc.lean ====
section
/-! SUPPORT. ECC errors met: every operation of Machine/Ecc.lean keeps the queue and a sane state, and changes no
piece but the ones it names. -/
namespace Sys2Proof.Machine
set_option Elab.async false

theorem State.modBoot_ok {pcs : Piece → Prop} {b0 : State} (s : State) (g : Boot → Boot) (hok : Ok pcs b0 s)
    (hp0 : pcs .boot := by assumption) :
    Ok pcs b0 (State.modBoot s g) := by
  delta State.modBoot
  repeat' first
    | with_reducible assumption | extract_lets | intro _ | with_reducible apply State.withBoot_ok | split
    | dsimp +zetaDelta -zeta only

theorem State.eccLog_ok {pcs : Piece → Prop} {b0 : State} (s : State) (x : ScrubRead) (uncorr : Bool)
    (hok : Ok pcs b0 s) (hp0 : pcs .regs := by assumption) :
    Ok pcs b0 (State.eccLog s x uncorr) := by
  delta State.eccLog
  repeat' first
    | with_reducible assumption | extract_lets | intro _ | with_reducible apply State.setReg_ok
    | with_reducible apply State.wrapInc_ok | split | dsimp +zetaDelta -zeta only

theorem State.eccCorrected_ok {pcs : Piece → Prop} {b0 : State} (s : State) (x : ScrubRead) (hok : Ok pcs b0 s)
    (hp0 : pcs .regs := by assumption) (hp1 : pcs .irq := by assumption) (hp2 : pcs .boot := by assumption) :
    Ok pcs b0 (State.eccCorrected s x) := by
  delta State.eccCorrected
  repeat' first
    | with_reducible assumption | extract_lets | intro _ | with_reducible apply State.eccLog_ok
    | with_reducible apply State.satAdd_ok | with_reducible apply State.modBoot_ok
    | with_reducible apply State.raiseIf_ok | split | dsimp +zetaDelta -zeta only

theorem State.eccUncorrectable_ok {pcs : Piece → Prop} {b0 : State} (s : State) (x : ScrubRead) (hok : Ok pcs b0 s)
    (hp0 : pcs .regs := by assumption) (hp1 : pcs .irq := by assumption) (hp2 : pcs .boot := by assumption)
    (hp3 : pcs .poison := by assumption) :
    Ok pcs b0 (State.eccUncorrectable s x) := by
  delta State.eccUncorrectable
  repeat' first
    | with_reducible assumption | extract_lets | intro _ | with_reducible apply ok_ite
    | with_reducible apply State.eccLog_ok | with_reducible apply State.satAdd_ok
    | with_reducible apply State.raise_ok | with_reducible apply State.modBoot_ok
    | with_reducible apply State.withPoison_ok | split | dsimp +zetaDelta -zeta only

theorem State.eccMet_ok {pcs : Piece → Prop} {b0 : State} (s : State) (m : Fin 10) (u : Nat) (w : Nat)
    (hok : Ok pcs b0 s) (hp0 : pcs .free := by assumption) (hp1 : pcs .regs := by assumption)
    (hp2 : pcs .irq := by assumption) (hp3 : pcs .boot := by assumption) (hp4 : pcs .poison := by assumption) :
    Ok pcs b0 (State.eccMet s m u w) := by
  delta State.eccMet
  repeat' first
    | with_reducible assumption | extract_lets | intro _ | with_reducible apply ok_ite
    | with_reducible apply State.modBoot_ok | with_reducible apply State.drawWord_ok
    | with_reducible apply State.drawWord_ok' | with_reducible apply State.eccUncorrectable_ok
    | (refine ok2_eq (by with_reducible assumption) ?_) | split | dsimp +zetaDelta -zeta only

theorem State.scrubPass_ok {pcs : Piece → Prop} {b0 : State} (s : State) (hok : Ok pcs b0 s)
    (hp0 : pcs .regs := by assumption) (hp1 : pcs .irq := by assumption) (hp2 : pcs .boot := by assumption) :
    Ok pcs b0 (State.scrubPass s) := by
  delta State.scrubPass
  repeat' first
    | with_reducible assumption | extract_lets | intro _ | with_reducible apply State.wrapInc_ok
    | with_reducible apply State.raise_ok | with_reducible apply State.modBoot_ok | split
    | dsimp +zetaDelta -zeta only
end Sys2Proof.Machine
end

