-- ==== Sys2Proof/Laws/OkFirn.lean ====
section
/-! SUPPORT. Firn: every operation of Machine/Firn.lean keeps the queue and a sane state, and changes no
piece but the ones it names. -/
namespace Sys2Proof.Machine
set_option Elab.async false

theorem State.checkLow_ok {pcs : Piece → Prop} {b0 : State} (s : State) (hok : Ok pcs b0 s)
    (hp0 : pcs .regs := by assumption) (hp1 : pcs .firn := by assumption) (hp2 : pcs .irq := by assumption) :
    Ok pcs b0 (State.checkLow s) := by
  delta State.checkLow
  repeat' first
    | with_reducible assumption | extract_lets | intro _ | with_reducible apply ok_ite
    | with_reducible apply State.setB_ok | with_reducible apply State.withLowCond_ok
    | with_reducible apply State.raise_ok | split | dsimp +zetaDelta -zeta only

theorem State.countDrop_ok {pcs : Piece → Prop} {b0 : State} (s : State) (p : Nat) (c : Nat) (k : Nat)
    (hok : Ok pcs b0 s) (hp0 : pcs .regs := by assumption) :
    Ok pcs b0 (State.countDrop s p c k) := by
  delta State.countDrop
  repeat' first
    | with_reducible assumption | extract_lets | intro _ | with_reducible apply State.satAdd_ok | split
    | dsimp +zetaDelta -zeta only

theorem State.wred_ok {pcs : Piece → Prop} {b0 : State} (s : State) (p : Nat) (c : Nat) (k : Nat) (n : Nat)
    (hok : Ok pcs b0 s) (hp0 : pcs .firn := by assumption) :
    Ok2 pcs b0 (State.wred s p c k n) := by
  delta State.wred
  repeat' first
    | with_reducible assumption | extract_lets | intro _ | with_reducible apply ok2_ite
    | with_reducible apply ok_ite | with_reducible apply State.setAvgOf_ok
    | with_reducible apply State.setLfsrOf_ok | split | with_reducible apply ok2_mk | dsimp +zetaDelta -zeta only

theorem State.wred_ok' {pcs : Piece → Prop} {b0 : State} (s : State) (p : Nat) (c : Nat) (k : Nat) (n : Nat)
    (hok : Ok pcs b0 s) (hp0 : pcs .firn := by assumption) :
    Ok pcs b0 (State.wred s p c k n).2 := State.wred_ok s p c k n hok hp0

theorem State.quotaTest_ok {pcs : Piece → Prop} {b0 : State} (s : State) (n : Nat) (a2 : List Nat)
    (hok : Ok pcs b0 s) (hp0 : pcs .regs := by assumption) (hp1 : pcs .rings := by assumption) :
    Ok2 pcs b0 (State.quotaTest s n a2) := by
  induction a2 generalizing s n <;> unfold State.quotaTest
  all_goals repeat' first
    | apply_assumption | extract_lets | intro _ | with_reducible apply ok2_ite | with_reducible apply ok_ite
    | with_reducible apply State.satAdd_ok | with_reducible apply State.modCq_ok | split
    | with_reducible apply ok2_mk | dsimp +zetaDelta -zeta only

theorem State.quotaTest_ok' {pcs : Piece → Prop} {b0 : State} (s : State) (n : Nat) (a2 : List Nat)
    (hok : Ok pcs b0 s) (hp0 : pcs .regs := by assumption) (hp1 : pcs .rings := by assumption) :
    Ok pcs b0 (State.quotaTest s n a2).2 := State.quotaTest_ok s n a2 hok hp0 hp1

theorem State.cqDrops_ok {pcs : Piece → Prop} {b0 : State} (s : State) (qs : List Nat) (hok : Ok pcs b0 s)
    (hp0 : pcs .rings := by assumption) :
    Ok pcs b0 (State.cqDrops s qs) := by
  delta State.cqDrops
  repeat' first
    | with_reducible assumption | extract_lets | intro _ | with_reducible apply State.modCq_ok
    | with_reducible apply ok_foldl | with_reducible apply ok2_foldl | with_reducible apply ok_foldl2
    | with_reducible apply ok_ite2 | with_reducible apply ok1_foldl | with_reducible apply ok_foldl1
    | with_reducible apply ok_ite1 | split | dsimp +zetaDelta -zeta only

theorem State.charge_ok {pcs : Piece → Prop} {b0 : State} (s : State) (o : OutReq) (n : Nat) (hok : Ok pcs b0 s)
    (hp0 : pcs .firn := by assumption) :
    Ok pcs b0 (State.charge s o n) := by
  delta State.charge
  repeat' first
    | with_reducible assumption | extract_lets | intro _ | with_reducible apply State.modChg_ok
    | with_reducible apply State.modHeldOf_ok | with_reducible apply ok_foldl | with_reducible apply ok2_foldl
    | with_reducible apply ok_foldl2 | with_reducible apply ok_ite2 | with_reducible apply ok1_foldl
    | with_reducible apply ok_foldl1 | with_reducible apply ok_ite1 | split | dsimp +zetaDelta -zeta only

theorem State.ptpDrop_ok {pcs : Piece → Prop} {b0 : State} (s : State) (o : OutReq) (hok : Ok pcs b0 s)
    (hp0 : pcs .regs := by assumption) :
    Ok pcs b0 (State.ptpDrop s o) := by
  delta State.ptpDrop
  repeat' first
    | with_reducible assumption | extract_lets | intro _ | with_reducible apply ok_ite
    | with_reducible apply State.satAdd_ok | split | dsimp +zetaDelta -zeta only

theorem State.judgeOut_ok {pcs : Piece → Prop} {b0 : State} (s : State) (o : OutReq) (k : Nat) (n : Nat)
    (hok : Ok pcs b0 s) (hp0 : pcs .regs := by assumption) (hp1 : pcs .firn := by assumption)
    (hp2 : pcs .rings := by assumption) :
    Ok2 pcs b0 (State.judgeOut s o k n) := by
  delta State.judgeOut
  repeat' first
    | with_reducible assumption | extract_lets | intro _ | with_reducible apply ok2_ite
    | with_reducible apply ok_ite | with_reducible apply State.satAdd_ok | with_reducible apply State.ptpDrop_ok
    | with_reducible apply State.quotaTest_ok | with_reducible apply State.quotaTest_ok'
    | with_reducible apply State.wred_ok | with_reducible apply State.wred_ok'
    | with_reducible apply State.countDrop_ok | with_reducible apply State.cqDrops_ok
    | with_reducible apply State.charge_ok | (refine ok2_eq (by with_reducible assumption) ?_) | split
    | with_reducible apply ok2_mk | dsimp +zetaDelta -zeta only

theorem State.judgeOut_ok' {pcs : Piece → Prop} {b0 : State} (s : State) (o : OutReq) (k : Nat) (n : Nat)
    (hok : Ok pcs b0 s) (hp0 : pcs .regs := by assumption) (hp1 : pcs .firn := by assumption)
    (hp2 : pcs .rings := by assumption) :
    Ok pcs b0 (State.judgeOut s o k n).2 := State.judgeOut_ok s o k n hok hp0 hp1 hp2

theorem State.judgeOuts_ok {pcs : Piece → Prop} {b0 : State} (s : State) (k : Nat) (n : Nat) (a3 : List OutReq)
    (hok : Ok pcs b0 s) (hp0 : pcs .regs := by assumption) (hp1 : pcs .firn := by assumption)
    (hp2 : pcs .rings := by assumption) :
    Ok2 pcs b0 (State.judgeOuts s k n a3) := by
  induction a3 generalizing s k n <;> unfold State.judgeOuts
  all_goals repeat' first
    | apply_assumption | extract_lets | intro _ | with_reducible apply ok2_ite
    | with_reducible apply State.judgeOut_ok | with_reducible apply State.judgeOut_ok'
    | (refine ok2_eq (by with_reducible assumption) ?_) | split | with_reducible apply ok2_mk
    | dsimp +zetaDelta -zeta only

theorem State.judgeOuts_ok' {pcs : Piece → Prop} {b0 : State} (s : State) (k : Nat) (n : Nat) (a3 : List OutReq)
    (hok : Ok pcs b0 s) (hp0 : pcs .regs := by assumption) (hp1 : pcs .firn := by assumption)
    (hp2 : pcs .rings := by assumption) :
    Ok pcs b0 (State.judgeOuts s k n a3).2 := State.judgeOuts_ok s k n a3 hok hp0 hp1 hp2

theorem State.allocCells_ok {pcs : Piece → Prop} {b0 : State} (s : State) (cnt : Nat) (owner : Nat) (tc : Nat)
    (pass : Nat) (a5 : Nat) (hok : Ok pcs b0 s) (hp0 : pcs .free := by assumption)
    (hp1 : pcs .firn := by assumption) :
    Ok2 pcs b0 (State.allocCells s cnt owner tc pass a5) := by
  induction a5 generalizing s cnt owner tc pass <;> unfold State.allocCells
  all_goals repeat' first
    | apply_assumption | extract_lets | intro _ | with_reducible apply ok2_ite
    | with_reducible apply State.drawCell_ok | with_reducible apply State.drawCell_ok'
    | with_reducible apply State.setCell_ok | (refine ok2_eq (by with_reducible assumption) ?_) | split
    | with_reducible apply ok2_mk | dsimp +zetaDelta -zeta only

theorem State.allocCells_ok' {pcs : Piece → Prop} {b0 : State} (s : State) (cnt : Nat) (owner : Nat) (tc : Nat)
    (pass : Nat) (a5 : Nat) (hok : Ok pcs b0 s) (hp0 : pcs .free := by assumption)
    (hp1 : pcs .firn := by assumption) :
    Ok pcs b0 (State.allocCells s cnt owner tc pass a5).2 := State.allocCells_ok s cnt owner tc pass a5 hok hp0 hp1

theorem State.drawHeader_ok {pcs : Piece → Prop} {b0 : State} (s : State) (hok : Ok pcs b0 s)
    (hp0 : pcs .free := by assumption) :
    Ok2 pcs b0 (State.drawHeader s) := by
  delta State.drawHeader
  repeat' first
    | with_reducible assumption | extract_lets | intro _ | with_reducible apply ok2_ite
    | with_reducible apply State.drawWord_ok | with_reducible apply State.drawWord_ok'
    | (refine ok2_eq (by with_reducible assumption) ?_) | split | with_reducible apply ok2_mk
    | dsimp +zetaDelta -zeta only

theorem State.drawHeader_ok' {pcs : Piece → Prop} {b0 : State} (s : State) (hok : Ok pcs b0 s)
    (hp0 : pcs .free := by assumption) :
    Ok pcs b0 (State.drawHeader s).2 := State.drawHeader_ok s hok hp0

theorem State.fillRest_ok {pcs : Piece → Prop} {b0 : State} (s : State) (bytes : List Byte) (a2 : List Nat)
    (hok : Ok pcs b0 s) (hp0 : pcs .mem := by assumption) :
    Ok pcs b0 (State.fillRest s bytes a2) := by
  induction a2 generalizing s bytes <;> unfold State.fillRest
  all_goals repeat' first
    | apply_assumption | extract_lets | intro _ | with_reducible apply State.wrBytes_ok | split
    | dsimp +zetaDelta -zeta only

theorem State.fillCells_ok {pcs : Piece → Prop} {b0 : State} (s : State) (bytes : List Byte) (a2 : List Nat)
    (hok : Ok pcs b0 s) (hp0 : pcs .mem := by assumption) :
    Ok pcs b0 (State.fillCells s bytes a2) := by
  delta State.fillCells
  repeat' first
    | with_reducible assumption | extract_lets | intro _ | with_reducible apply State.wrBytes_ok
    | with_reducible apply State.fillRest_ok | split | dsimp +zetaDelta -zeta only

theorem State.healCells_ok {pcs : Piece → Prop} {b0 : State} (s : State) (cs : List Nat) (hok : Ok pcs b0 s)
    (hp0 : pcs .poison := by assumption) :
    Ok pcs b0 (State.healCells s cs) := by
  delta State.healCells
  repeat' first
    | with_reducible assumption | extract_lets | intro _ | with_reducible apply State.withPoison_ok | split
    | dsimp +zetaDelta -zeta only

theorem State.newFrame_ok {pcs : Piece → Prop} {b0 : State} (s : State) (outs : List OutReq) (colour : Nat)
    (l : Nat) (payload : List Byte) (hok : Ok pcs b0 s) (hp0 : pcs .free := by assumption)
    (hp1 : pcs .mem := by assumption) (hp2 : pcs .firn := by assumption) (hp3 : pcs .poison := by assumption) :
    Ok2 pcs b0 (State.newFrame s outs colour l payload) := by
  delta State.newFrame
  repeat' first
    | with_reducible assumption | extract_lets | intro _ | with_reducible apply ok2_ite
    | with_reducible apply State.allocCells_ok | with_reducible apply State.allocCells_ok'
    | with_reducible apply State.drawHeader_ok | with_reducible apply State.drawHeader_ok'
    | with_reducible apply State.wrBytes_ok | with_reducible apply State.fillCells_ok
    | with_reducible apply State.healCells_ok | with_reducible apply State.setFrame_ok
    | with_reducible apply State.withNextFid_ok | (refine ok2_eq (by with_reducible assumption) ?_) | split
    | with_reducible apply ok2_mk | dsimp +zetaDelta -zeta only

theorem State.newFrame_ok' {pcs : Piece → Prop} {b0 : State} (s : State) (outs : List OutReq) (colour : Nat)
    (l : Nat) (payload : List Byte) (hok : Ok pcs b0 s) (hp0 : pcs .free := by assumption)
    (hp1 : pcs .mem := by assumption) (hp2 : pcs .firn := by assumption) (hp3 : pcs .poison := by assumption) :
    Ok pcs b0 (State.newFrame s outs colour l payload).2 := State.newFrame_ok s outs colour l payload hok hp0 hp1 hp2 hp3

theorem State.takeIn_ok {pcs : Piece → Prop} {b0 : State} (s : State) (outs : List OutReq) (k : Nat) (l : Nat)
    (payload : List Byte) (hok : Ok pcs b0 s) (hp0 : pcs .free := by assumption) (hp1 : pcs .regs := by assumption)
    (hp2 : pcs .mem := by assumption) (hp3 : pcs .firn := by assumption) (hp4 : pcs .rings := by assumption)
    (hp5 : pcs .irq := by assumption) (hp6 : pcs .poison := by assumption) :
    Ok2 pcs b0 (State.takeIn s outs k l payload) := by
  delta State.takeIn
  repeat' first
    | with_reducible assumption | extract_lets | intro _ | with_reducible apply ok2_ite
    | with_reducible apply ok_ite | with_reducible apply State.judgeOuts_ok
    | with_reducible apply State.judgeOuts_ok' | with_reducible apply State.checkLow_ok
    | with_reducible apply State.newFrame_ok | with_reducible apply State.newFrame_ok'
    | (refine ok2_eq (by with_reducible assumption) ?_) | split | with_reducible apply ok2_mk
    | dsimp +zetaDelta -zeta only

theorem State.takeIn_ok' {pcs : Piece → Prop} {b0 : State} (s : State) (outs : List OutReq) (k : Nat) (l : Nat)
    (payload : List Byte) (hok : Ok pcs b0 s) (hp0 : pcs .free := by assumption) (hp1 : pcs .regs := by assumption)
    (hp2 : pcs .mem := by assumption) (hp3 : pcs .firn := by assumption) (hp4 : pcs .rings := by assumption)
    (hp5 : pcs .irq := by assumption) (hp6 : pcs .poison := by assumption) :
    Ok pcs b0 (State.takeIn s outs k l payload).2 := State.takeIn_ok s outs k l payload hok hp0 hp1 hp2 hp3 hp4 hp5 hp6

theorem State.admitWaiting_ok {pcs : Piece → Prop} {b0 : State} (s : State) (p : Nat) (c : Nat)
    (payload : List Byte) (hok : Ok pcs b0 s) (hp0 : pcs .free := by assumption) (hp1 : pcs .regs := by assumption)
    (hp2 : pcs .mem := by assumption) (hp3 : pcs .firn := by assumption) (hp4 : pcs .irq := by assumption)
    (hp5 : pcs .poison := by assumption) :
    Ok2 pcs b0 (State.admitWaiting s p c payload) := by
  delta State.admitWaiting
  repeat' first
    | with_reducible assumption | extract_lets | intro _ | with_reducible apply ok2_ite
    | with_reducible apply State.charge_ok | with_reducible apply State.newFrame_ok
    | with_reducible apply State.newFrame_ok' | with_reducible apply State.checkLow_ok
    | (refine ok2_eq (by with_reducible assumption) ?_) | split | with_reducible apply ok2_mk
    | dsimp +zetaDelta -zeta only

theorem State.admitWaiting_ok' {pcs : Piece → Prop} {b0 : State} (s : State) (p : Nat) (c : Nat)
    (payload : List Byte) (hok : Ok pcs b0 s) (hp0 : pcs .free := by assumption) (hp1 : pcs .regs := by assumption)
    (hp2 : pcs .mem := by assumption) (hp3 : pcs .firn := by assumption) (hp4 : pcs .irq := by assumption)
    (hp5 : pcs .poison := by assumption) :
    Ok pcs b0 (State.admitWaiting s p c payload).2 := State.admitWaiting_ok s p c payload hok hp0 hp1 hp2 hp3 hp4 hp5

theorem State.releaseCell_ok {pcs : Piece → Prop} {b0 : State} (s : State) (p : Nat) (tc : Nat) (c : Nat)
    (hok : Ok pcs b0 s) (hp0 : pcs .firn := by assumption) :
    Ok pcs b0 (State.releaseCell s p tc c) := by
  delta State.releaseCell
  repeat' first
    | with_reducible assumption | extract_lets | intro _ | with_reducible apply ok_ite
    | with_reducible apply State.setCell_ok | split | dsimp +zetaDelta -zeta only

theorem State.putCharge_ok {pcs : Piece → Prop} {b0 : State} (s : State) (i : Nat) (q : Nat) (hok : Ok pcs b0 s)
    (hp0 : pcs .firn := by assumption) :
    Ok pcs b0 (State.putCharge s i q) := by
  delta State.putCharge
  repeat' first
    | with_reducible assumption | extract_lets | intro _ | with_reducible apply ok_ite
    | with_reducible apply State.setChg_ok | with_reducible apply State.setAvgOf_ok | split
    | dsimp +zetaDelta -zeta only

theorem State.uncharge_ok {pcs : Piece → Prop} {b0 : State} (s : State) (p : Nat) (c : Nat) (n : Nat)
    (hok : Ok pcs b0 s) (hp0 : pcs .firn := by assumption) :
    Ok pcs b0 (State.uncharge s p c n) := by
  delta State.uncharge
  repeat' first
    | with_reducible assumption | extract_lets | intro _ | with_reducible apply State.putCharge_ok | split
    | dsimp +zetaDelta -zeta only

theorem State.release_ok {pcs : Piece → Prop} {b0 : State} (s : State) (fid : Nat) (p : Nat) (c : Nat)
    (hok : Ok pcs b0 s) (hp0 : pcs .regs := by assumption) (hp1 : pcs .firn := by assumption)
    (hp2 : pcs .irq := by assumption) :
    Ok pcs b0 (State.release s fid p c) := by
  delta State.release
  repeat' first
    | with_reducible assumption | extract_lets | intro _ | with_reducible apply ok_ite
    | with_reducible apply State.releaseCell_ok | with_reducible apply State.setFrame_ok
    | with_reducible apply State.uncharge_ok | with_reducible apply State.checkLow_ok
    | with_reducible apply ok_foldl | with_reducible apply ok2_foldl | with_reducible apply ok_foldl2
    | with_reducible apply ok_ite2 | with_reducible apply ok1_foldl | with_reducible apply ok_foldl1
    | with_reducible apply ok_ite1 | split | dsimp +zetaDelta -zeta only

theorem State.unheld_ok {pcs : Piece → Prop} {b0 : State} (s : State) (q : Nat) (n : Nat) (hok : Ok pcs b0 s)
    (hp0 : pcs .firn := by assumption) :
    Ok pcs b0 (State.unheld s q n) := by
  delta State.unheld
  repeat' first
    | with_reducible assumption | extract_lets | intro _ | with_reducible apply State.modHeldOf_ok | split
    | dsimp +zetaDelta -zeta only

theorem State.meter_ok {pcs : Piece → Prop} {b0 : State} (s : State) (i : Nat) (colour : Nat) (b : Nat)
    (hok : Ok pcs b0 s) (hp0 : pcs .firn := by assumption) :
    Ok2 pcs b0 (State.meter s i colour b) := by
  delta State.meter
  repeat' first
    | with_reducible assumption | extract_lets | intro _ | with_reducible apply ok2_ite
    | with_reducible apply ok_ite | with_reducible apply State.setBucket_ok | split | with_reducible apply ok2_mk
    | dsimp +zetaDelta -zeta only

theorem State.meter_ok' {pcs : Piece → Prop} {b0 : State} (s : State) (i : Nat) (colour : Nat) (b : Nat)
    (hok : Ok pcs b0 s) (hp0 : pcs .firn := by assumption) :
    Ok pcs b0 (State.meter s i colour b).2 := State.meter_ok s i colour b hok hp0

theorem State.ingressMeter_ok {pcs : Piece → Prop} {b0 : State} (s : State) (i : Nat) (colour : Nat) (l : Nat)
    (hok : Ok pcs b0 s) (hp0 : pcs .firn := by assumption) :
    Ok2 pcs b0 (State.ingressMeter s i colour l) := by
  delta State.ingressMeter
  repeat' first
    | with_reducible assumption | extract_lets | intro _ | with_reducible apply ok2_ite
    | with_reducible apply ok_ite | with_reducible apply State.meter_ok | with_reducible apply State.meter_ok'
    | (refine ok2_eq (by with_reducible assumption) ?_) | split | with_reducible apply ok2_mk
    | dsimp +zetaDelta -zeta only

theorem State.ingressMeter_ok' {pcs : Piece → Prop} {b0 : State} (s : State) (i : Nat) (colour : Nat) (l : Nat)
    (hok : Ok pcs b0 s) (hp0 : pcs .firn := by assumption) :
    Ok pcs b0 (State.ingressMeter s i colour l).2 := State.ingressMeter_ok s i colour l hok hp0

theorem State.polLoadTake_ok {pcs : Piece → Prop} {b0 : State} (s : State) (r : AdminRef) (d : Words8)
    (hok : Ok pcs b0 s) (hp0 : pcs .regs := by assumption) (hp1 : pcs .host := by assumption)
    (hp2 : pcs .routes := by assumption) (hp3 : pcs .rings := by assumption) (hp4 : pcs .irq := by assumption) :
    Ok pcs b0 (State.polLoadTake s r d) := by
  delta State.polLoadTake
  repeat' first
    | with_reducible assumption | extract_lets | intro _ | with_reducible apply ok_ite
    | with_reducible apply State.adminBusy_ok | with_reducible apply State.adminRefuse_ok
    | with_reducible apply State.clamp_ok | with_reducible apply State.withPolLoad_ok | split
    | dsimp +zetaDelta -zeta only

theorem State.polSet_ok {pcs : Piece → Prop} {b0 : State} (s : State) (f : Nat) (i : Nat) (v : BitVec 64)
    (hok : Ok pcs b0 s) (hp0 : pcs .regs := by assumption) (hp1 : pcs .firn := by assumption) :
    Ok pcs b0 (State.polSet s f i v) := by
  delta State.polSet
  repeat' first
    | with_reducible assumption | extract_lets | intro _ | with_reducible apply State.setReg_ok
    | with_reducible apply State.setBucket_ok | with_reducible apply State.clamp_ok | split
    | dsimp +zetaDelta -zeta only

theorem State.polRun_ok {pcs : Piece → Prop} {b0 : State} (s : State) (f : Nat) (i : Nat) (a3 : List (BitVec 64))
    (hok : Ok pcs b0 s) (hp0 : pcs .regs := by assumption) (hp1 : pcs .firn := by assumption) :
    Ok pcs b0 (State.polRun s f i a3) := by
  induction a3 generalizing s f i <;> unfold State.polRun
  all_goals repeat' first
    | apply_assumption | extract_lets | intro _ | with_reducible apply State.polSet_ok | split
    | dsimp +zetaDelta -zeta only

theorem execPolLoad_ok {pcs : Piece → Prop} {b0 : State} (f : Fn) (d : Words8) (s : State) (hok : Ok pcs b0 s)
    (hp0 : pcs .regs := by assumption) (hp1 : pcs .host := by assumption) (hp2 : pcs .routes := by assumption)
    (hp3 : pcs .rings := by assumption) (hp4 : pcs .irq := by assumption) :
    OkO pcs b0 (execPolLoad f d s) := by
  delta execPolLoad
  repeat' first
    | with_reducible assumption | extract_lets | intro _ | with_reducible apply okO_next
    | with_reducible apply okO_ite | with_reducible apply adminCmd_ok | with_reducible apply adminCmd_ok'
    | with_reducible apply State.polLoadTake_ok | split | dsimp +zetaDelta -zeta only

theorem execPolLoadCommit_ok {pcs : Piece → Prop} {b0 : State} (recs : List (BitVec 64)) (s : State)
    (hok : Ok pcs b0 s) (hp0 : pcs .regs := by assumption) (hp1 : pcs .host := by assumption)
    (hp2 : pcs .routes := by assumption) (hp3 : pcs .firn := by assumption) (hp4 : pcs .rings := by assumption)
    (hp5 : pcs .irq := by assumption) :
    OkO pcs b0 (execPolLoadCommit recs s) := by
  delta execPolLoadCommit
  repeat' first
    | with_reducible assumption | extract_lets | intro _ | with_reducible apply okO_next
    | with_reducible apply okO_ite | with_reducible apply ok_ite | with_reducible apply State.withPolLoad_ok
    | with_reducible apply State.polRun_ok | with_reducible apply State.adminDone_ok | split
    | dsimp +zetaDelta -zeta only

theorem State.leakLog_ok {pcs : Piece → Prop} {b0 : State} (s : State) (acted : Bool) (kind : Nat) (holds : Nat)
    (cnt : Nat) (ownerTc : Nat) (owner : Nat) (cell : Nat) (hok : Ok pcs b0 s) (hp0 : pcs .regs := by assumption)
    (hp1 : pcs .irq := by assumption) :
    Ok pcs b0 (State.leakLog s acted kind holds cnt ownerTc owner cell) := by
  delta State.leakLog
  repeat' first
    | with_reducible assumption | extract_lets | intro _ | with_reducible apply State.setReg_ok
    | with_reducible apply State.setF_ok | with_reducible apply State.satAdd_ok
    | with_reducible apply State.raise_ok | split | dsimp +zetaDelta -zeta only

theorem State.sweepCell_ok {pcs : Piece → Prop} {b0 : State} (s : State) (c : Nat) (hok : Ok pcs b0 s)
    (hp0 : pcs .regs := by assumption) (hp1 : pcs .firn := by assumption) (hp2 : pcs .irq := by assumption) :
    Ok pcs b0 (State.sweepCell s c) := by
  delta State.sweepCell
  repeat' first
    | with_reducible assumption | extract_lets | intro _ | with_reducible apply ok_ite
    | with_reducible apply State.setCell_ok | with_reducible apply State.leakLog_ok
    | with_reducible apply State.satAdd_ok | split | dsimp +zetaDelta -zeta only

theorem State.sweepCharge_ok {pcs : Piece → Prop} {b0 : State} (s : State) (i : Nat) (hok : Ok pcs b0 s)
    (hp0 : pcs .regs := by assumption) (hp1 : pcs .firn := by assumption) (hp2 : pcs .irq := by assumption) :
    Ok pcs b0 (State.sweepCharge s i) := by
  delta State.sweepCharge
  repeat' first
    | with_reducible assumption | extract_lets | intro _ | with_reducible apply ok_ite
    | with_reducible apply State.setChgSeen_ok | with_reducible apply State.leakLog_ok
    | with_reducible apply State.putCharge_ok | split | dsimp +zetaDelta -zeta only

theorem execSweepCompare_ok {pcs : Piece → Prop} {b0 : State} (c : CellId) (s : State) (hok : Ok pcs b0 s)
    (hp0 : pcs .regs := by assumption) (hp1 : pcs .firn := by assumption) (hp2 : pcs .irq := by assumption) :
    OkO pcs b0 (execSweepCompare c s) := by
  delta execSweepCompare
  repeat' first
    | with_reducible assumption | extract_lets | intro _ | with_reducible apply okO_next
    | with_reducible apply okO_ite | with_reducible apply ok_ite | with_reducible apply State.sweepCell_ok
    | with_reducible apply State.withSweepAt_ok | with_reducible apply State.sweepCharge_ok
    | with_reducible apply State.wrapInc_ok | with_reducible apply State.checkLow_ok
    | with_reducible apply ok_foldl | with_reducible apply ok2_foldl | with_reducible apply ok_foldl2
    | with_reducible apply ok_ite2 | with_reducible apply ok1_foldl | with_reducible apply ok_foldl1
    | with_reducible apply ok_ite1 | split | dsimp +zetaDelta -zeta only

theorem State.enqueue_ok {pcs : Piece → Prop} {b0 : State} (s : State) (inp : Nat) (out : Nat) (tc : Nat)
    (fid : Nat) (what : Deliver) (hok : Ok pcs b0 s) (hp0 : pcs .col := by assumption) :
    Ok pcs b0 (State.enqueue s inp out tc fid what) := by
  delta State.enqueue
  repeat' first
    | with_reducible assumption | extract_lets | intro _ | with_reducible apply State.modVoq_ok | split
    | dsimp +zetaDelta -zeta only
end Sys2Proof.Machine
end

