-- ==== Sys2Proof/Laws/OkMor.lean ====
section
/-! SUPPORT. Moraine: every operation of Machine/Mor.lean keeps the queue and a sane state, and changes no
piece but the ones it names. -/
namespace Sys2Proof.Machine
set_option Elab.async false

theorem State.morOffer_ok {pcs : Piece → Prop} {b0 : State} (s : State) (c : Cand) (hok : Ok pcs b0 s)
    (hp0 : pcs .free := by assumption) (hp1 : pcs .regs := by assumption) (hp2 : pcs .mem := by assumption)
    (hp3 : pcs .col := by assumption) (hp4 : pcs .firn := by assumption) (hp5 : pcs .rings := by assumption)
    (hp6 : pcs .irq := by assumption) (hp7 : pcs .mor := by assumption) (hp8 : pcs .poison := by assumption) :
    Ok pcs b0 (State.morOffer s c) := by
  delta State.morOffer
  repeat' first
    | with_reducible assumption | extract_lets | intro _ | with_reducible apply ok_ite
    | with_reducible apply State.takeIn_ok | with_reducible apply State.takeIn_ok'
    | with_reducible apply State.enqueue_ok | with_reducible apply State.satAdd_ok
    | with_reducible apply State.withMor_ok | (refine ok2_eq (by with_reducible assumption) ?_) | split
    | dsimp +zetaDelta -zeta only

theorem State.morLane_ok {pcs : Piece → Prop} {b0 : State} (s : State) (l : Nat) (c : Cand) (hok : Ok pcs b0 s)
    (hp0 : pcs .free := by assumption) (hp1 : pcs .regs := by assumption) (hp2 : pcs .mem := by assumption)
    (hp3 : pcs .col := by assumption) (hp4 : pcs .firn := by assumption) (hp5 : pcs .rings := by assumption)
    (hp6 : pcs .irq := by assumption) (hp7 : pcs .mor := by assumption) (hp8 : pcs .poison := by assumption) :
    Ok pcs b0 (State.morLane s l c) := by
  delta State.morLane
  repeat' first
    | with_reducible assumption | extract_lets | intro _ | with_reducible apply ok_ite
    | with_reducible apply State.morOffer_ok | split | dsimp +zetaDelta -zeta only

theorem State.morRx_ok {pcs : Piece → Prop} {b0 : State} (s : State) (l : Nat) (t : Stamp) (fr : Frame)
    (colour : Nat) (tc : Nat) (recorded : Bool) (quar : Bool) (hok : Ok pcs b0 s) (hp0 : pcs .free := by assumption)
    (hp1 : pcs .regs := by assumption) (hp2 : pcs .mem := by assumption) (hp3 : pcs .col := by assumption)
    (hp4 : pcs .firn := by assumption) (hp5 : pcs .rings := by assumption) (hp6 : pcs .irq := by assumption)
    (hp7 : pcs .mor := by assumption) (hp8 : pcs .poison := by assumption) :
    Ok pcs b0 (State.morRx s l t fr colour tc recorded quar) := by
  delta State.morRx
  repeat' first
    | with_reducible assumption | extract_lets | intro _ | with_reducible apply ok_ite
    | with_reducible apply State.morLane_ok | split | dsimp +zetaDelta -zeta only

theorem State.drawBytes_ok {pcs : Piece → Prop} {b0 : State} (s : State) (a1 : Nat) (hok : Ok pcs b0 s)
    (hp0 : pcs .free := by assumption) :
    Ok2 pcs b0 (State.drawBytes s a1) := by
  induction a1 generalizing s <;> unfold State.drawBytes
  all_goals repeat' first
    | apply_assumption | extract_lets | intro _ | with_reducible apply ok2_ite
    | with_reducible apply State.drawWord_ok | with_reducible apply State.drawWord_ok'
    | (refine ok2_eq (by with_reducible assumption) ?_) | split | with_reducible apply ok2_mk
    | dsimp +zetaDelta -zeta only

theorem State.drawBytes_ok' {pcs : Piece → Prop} {b0 : State} (s : State) (a1 : Nat) (hok : Ok pcs b0 s)
    (hp0 : pcs .free := by assumption) :
    Ok pcs b0 (State.drawBytes s a1).2 := State.drawBytes_ok s a1 hok hp0

theorem State.morRxErr_ok {pcs : Piece → Prop} {b0 : State} (s : State) (l : Nat) (t : Stamp) (hdr : Option Frame)
    (ty : Nat) (field : Nat) (bitpos : Nat) (hok : Ok pcs b0 s) (hp0 : pcs .free := by assumption)
    (hp1 : pcs .regs := by assumption) (hp2 : pcs .mem := by assumption) (hp3 : pcs .col := by assumption)
    (hp4 : pcs .firn := by assumption) (hp5 : pcs .rings := by assumption) (hp6 : pcs .irq := by assumption)
    (hp7 : pcs .mor := by assumption) (hp8 : pcs .poison := by assumption) :
    Ok pcs b0 (State.morRxErr s l t hdr ty field bitpos) := by
  delta State.morRxErr
  repeat' first
    | with_reducible assumption | extract_lets | intro _ | with_reducible apply ok_ite
    | with_reducible apply State.drawBytes_ok | with_reducible apply State.drawBytes_ok'
    | with_reducible apply State.morLane_ok | (refine ok2_eq (by with_reducible assumption) ?_) | split
    | dsimp +zetaDelta -zeta only

theorem State.morTx_ok {pcs : Piece → Prop} {b0 : State} (s : State) (l : Nat) (status : Nat) (t : Stamp)
    (fr : Frame) (colour : Nat) (tc : Nat) (detail : Word) (hok : Ok pcs b0 s) (hp0 : pcs .free := by assumption)
    (hp1 : pcs .regs := by assumption) (hp2 : pcs .mem := by assumption) (hp3 : pcs .col := by assumption)
    (hp4 : pcs .firn := by assumption) (hp5 : pcs .rings := by assumption) (hp6 : pcs .irq := by assumption)
    (hp7 : pcs .mor := by assumption) (hp8 : pcs .poison := by assumption) :
    Ok pcs b0 (State.morTx s l status t fr colour tc detail) := by
  delta State.morTx
  repeat' first
    | with_reducible assumption | extract_lets | intro _ | with_reducible apply ok_ite
    | with_reducible apply State.drawBytes_ok | with_reducible apply State.drawBytes_ok'
    | with_reducible apply State.morLane_ok | (refine ok2_eq (by with_reducible assumption) ?_) | split
    | dsimp +zetaDelta -zeta only

theorem State.morDrop_ok {pcs : Piece → Prop} {b0 : State} (s : State) (input : Nat) (out : Nat) (kind : Nat)
    (cq : Nat) (h : DropHdr) (len : Nat) (hok : Ok pcs b0 s) (hp0 : pcs .free := by assumption)
    (hp1 : pcs .regs := by assumption) (hp2 : pcs .mem := by assumption) (hp3 : pcs .col := by assumption)
    (hp4 : pcs .firn := by assumption) (hp5 : pcs .rings := by assumption) (hp6 : pcs .irq := by assumption)
    (hp7 : pcs .mor := by assumption) (hp8 : pcs .poison := by assumption) :
    Ok pcs b0 (State.morDrop s input out kind cq h len) := by
  delta State.morDrop
  repeat' first
    | with_reducible assumption | extract_lets | intro _ | with_reducible apply ok_ite
    | with_reducible apply State.morOffer_ok | split | dsimp +zetaDelta -zeta only

theorem State.morEth_ok {pcs : Piece → Prop} {b0 : State} (s : State) (tx : Bool) (e : Nat) (t : Stamp)
    (bytes : List Byte) (colour : Nat) (tc : Nat) (hok : Ok pcs b0 s) (hp0 : pcs .free := by assumption)
    (hp1 : pcs .regs := by assumption) (hp2 : pcs .mem := by assumption) (hp3 : pcs .col := by assumption)
    (hp4 : pcs .firn := by assumption) (hp5 : pcs .rings := by assumption) (hp6 : pcs .irq := by assumption)
    (hp7 : pcs .mor := by assumption) (hp8 : pcs .poison := by assumption) :
    Ok pcs b0 (State.morEth s tx e t bytes colour tc) := by
  delta State.morEth
  repeat' first
    | with_reducible assumption | extract_lets | intro _ | with_reducible apply ok_ite
    | with_reducible apply State.morOffer_ok | split | dsimp +zetaDelta -zeta only

theorem State.morPut_ok {pcs : Piece → Prop} {b0 : State} (s : State) (off : Nat) (bs : List Byte)
    (hok : Ok pcs b0 s) (hp0 : pcs .mem := by assumption) (hp1 : pcs .host := by assumption) :
    Ok pcs b0 (State.morPut s off bs) := by
  delta State.morPut
  repeat' first
    | with_reducible assumption | extract_lets | intro _ | with_reducible apply ok_ite
    | with_reducible apply State.post_ok | with_reducible apply State.wrBytes_ok | split
    | dsimp +zetaDelta -zeta only

theorem State.morHeader_ok {pcs : Piece → Prop} {b0 : State} (s : State) (hok : Ok pcs b0 s)
    (hp0 : pcs .mem := by assumption) :
    Ok pcs b0 (State.morHeader s) := by
  delta State.morHeader
  repeat' first
    | with_reducible assumption | extract_lets | intro _ | with_reducible apply ok_ite
    | with_reducible apply State.wrBytes_ok | split | dsimp +zetaDelta -zeta only

theorem State.morStore_ok {pcs : Piece → Prop} {b0 : State} (s : State) (bs : List Byte) (t : Nat)
    (hok : Ok pcs b0 s) (hp0 : pcs .regs := by assumption) (hp1 : pcs .mem := by assumption)
    (hp2 : pcs .host := by assumption) (hp3 : pcs .mor := by assumption) :
    Ok pcs b0 (State.morStore s bs t) := by
  delta State.morStore
  repeat' first
    | with_reducible assumption | extract_lets | intro _ | with_reducible apply ok_ite
    | with_reducible apply State.morPut_ok | with_reducible apply State.setB_ok
    | with_reducible apply State.withMor_ok | with_reducible apply State.wrapInc_ok
    | with_reducible apply State.satAdd_ok | split | dsimp +zetaDelta -zeta only

theorem State.drawStamp_ok {pcs : Piece → Prop} {b0 : State} (s : State) (hok : Ok pcs b0 s)
    (hp0 : pcs .free := by assumption) :
    Ok2 pcs b0 (State.drawStamp s) := by
  delta State.drawStamp
  repeat' first
    | with_reducible assumption | extract_lets | intro _ | with_reducible apply ok2_ite
    | with_reducible apply State.drawWord_ok | with_reducible apply State.drawWord_ok'
    | (refine ok2_eq (by with_reducible assumption) ?_) | split | with_reducible apply ok2_mk
    | dsimp +zetaDelta -zeta only

theorem State.drawStamp_ok' {pcs : Piece → Prop} {b0 : State} (s : State) (hok : Ok pcs b0 s)
    (hp0 : pcs .free := by assumption) :
    Ok pcs b0 (State.drawStamp s).2 := State.drawStamp_ok s hok hp0

theorem State.morFill_ok {pcs : Piece → Prop} {b0 : State} (s : State) (n : Nat) (hok : Ok pcs b0 s)
    (hp0 : pcs .free := by assumption) (hp1 : pcs .regs := by assumption) (hp2 : pcs .mem := by assumption)
    (hp3 : pcs .host := by assumption) (hp4 : pcs .mor := by assumption) :
    Ok pcs b0 (State.morFill s n) := by
  delta State.morFill
  repeat' first
    | with_reducible assumption | extract_lets | intro _ | with_reducible apply ok_ite
    | with_reducible apply State.drawStamp_ok | with_reducible apply State.drawStamp_ok'
    | with_reducible apply State.drawWord_ok | with_reducible apply State.drawWord_ok'
    | with_reducible apply State.morStore_ok | (refine ok2_eq (by with_reducible assumption) ?_) | split
    | dsimp +zetaDelta -zeta only

theorem State.morTail_ok {pcs : Piece → Prop} {b0 : State} (s : State) (hok : Ok pcs b0 s)
    (hp0 : pcs .host := by assumption) (hp1 : pcs .irq := by assumption) :
    Ok pcs b0 (State.morTail s) := by
  delta State.morTail
  repeat' first
    | with_reducible assumption | extract_lets | intro _ | with_reducible apply ok_ite
    | with_reducible apply State.post_ok | with_reducible apply State.raise_ok | split
    | dsimp +zetaDelta -zeta only

theorem State.morLossRec_ok {pcs : Piece → Prop} {b0 : State} (s : State) (hok : Ok pcs b0 s)
    (hp0 : pcs .free := by assumption) (hp1 : pcs .regs := by assumption) (hp2 : pcs .mem := by assumption)
    (hp3 : pcs .host := by assumption) (hp4 : pcs .irq := by assumption) (hp5 : pcs .mor := by assumption) :
    Ok pcs b0 (State.morLossRec s) := by
  delta State.morLossRec
  repeat' first
    | with_reducible assumption | extract_lets | intro _ | with_reducible apply ok_ite
    | with_reducible apply State.morFill_ok | with_reducible apply State.drawStamp_ok
    | with_reducible apply State.drawStamp_ok' | with_reducible apply State.drawWord_ok
    | with_reducible apply State.drawWord_ok' | with_reducible apply State.morStore_ok
    | with_reducible apply State.withMor_ok | with_reducible apply State.raise_ok
    | (refine ok2_eq (by with_reducible assumption) ?_) | split | dsimp +zetaDelta -zeta only

theorem State.morLost_ok {pcs : Piece → Prop} {b0 : State} (s : State) (hok : Ok pcs b0 s)
    (hp0 : pcs .regs := by assumption) (hp1 : pcs .mor := by assumption) :
    Ok pcs b0 (State.morLost s) := by
  delta State.morLost
  repeat' first
    | with_reducible assumption | extract_lets | intro _ | with_reducible apply State.satAdd_ok
    | with_reducible apply State.withMor_ok | split | dsimp +zetaDelta -zeta only

theorem State.morRecord_ok {pcs : Piece → Prop} {b0 : State} (s : State) (c : Cand) (trig : Bool)
    (hok : Ok pcs b0 s) (hp0 : pcs .free := by assumption) (hp1 : pcs .regs := by assumption)
    (hp2 : pcs .mem := by assumption) (hp3 : pcs .host := by assumption) (hp4 : pcs .irq := by assumption)
    (hp5 : pcs .mor := by assumption) :
    Ok pcs b0 (State.morRecord s c trig) := by
  delta State.morRecord
  repeat' first
    | with_reducible assumption | extract_lets | intro _ | with_reducible apply ok_ite
    | with_reducible apply State.morLost_ok | with_reducible apply State.morLossRec_ok
    | with_reducible apply State.morFill_ok | with_reducible apply State.morStore_ok
    | with_reducible apply State.withMor_ok | with_reducible apply State.morTail_ok | split
    | dsimp +zetaDelta -zeta only

theorem State.morTrigger_ok {pcs : Piece → Prop} {b0 : State} (s : State) (t : Nat) (hok : Ok pcs b0 s)
    (hp0 : pcs .regs := by assumption) (hp1 : pcs .irq := by assumption) (hp2 : pcs .mor := by assumption) :
    Ok pcs b0 (State.morTrigger s t) := by
  delta State.morTrigger
  repeat' first
    | with_reducible assumption | extract_lets | intro _ | with_reducible apply ok_ite
    | with_reducible apply State.setB_ok | with_reducible apply State.withMor_ok
    | with_reducible apply State.raise_ok | split | dsimp +zetaDelta -zeta only

theorem State.morSample_ok {pcs : Piece → Prop} {b0 : State} (s : State) (c : Cand) (hok : Ok pcs b0 s)
    (hp0 : pcs .lanes := by assumption) :
    Ok2 pcs b0 (State.morSample s c) := by
  delta State.morSample
  repeat' first
    | with_reducible assumption | extract_lets | intro _ | with_reducible apply ok2_ite
    | with_reducible apply ok_ite | with_reducible apply State.modLane_ok | split | with_reducible apply ok2_mk
    | dsimp +zetaDelta -zeta only

theorem State.morSample_ok' {pcs : Piece → Prop} {b0 : State} (s : State) (c : Cand) (hok : Ok pcs b0 s)
    (hp0 : pcs .lanes := by assumption) :
    Ok pcs b0 (State.morSample s c).2 := State.morSample_ok s c hok hp0

theorem State.morStep_ok {pcs : Piece → Prop} {b0 : State} (s : State) (force : Bool) (hok : Ok pcs b0 s)
    (hp0 : pcs .free := by assumption) (hp1 : pcs .regs := by assumption) (hp2 : pcs .mem := by assumption)
    (hp3 : pcs .host := by assumption) (hp4 : pcs .lanes := by assumption) (hp5 : pcs .firn := by assumption)
    (hp6 : pcs .irq := by assumption) (hp7 : pcs .mor := by assumption) :
    Ok2 pcs b0 (State.morStep s force) := by
  delta State.morStep
  repeat' first
    | with_reducible assumption | extract_lets | intro _ | with_reducible apply ok2_ite
    | with_reducible apply ok_ite | with_reducible apply State.withMor_ok | with_reducible apply State.release_ok
    | with_reducible apply State.morSample_ok | with_reducible apply State.morSample_ok'
    | with_reducible apply State.morTrigger_ok | with_reducible apply State.morRecord_ok
    | (refine ok2_eq (by with_reducible assumption) ?_) | split | with_reducible apply ok2_mk
    | dsimp +zetaDelta -zeta only

theorem State.morStep_ok' {pcs : Piece → Prop} {b0 : State} (s : State) (force : Bool) (hok : Ok pcs b0 s)
    (hp0 : pcs .free := by assumption) (hp1 : pcs .regs := by assumption) (hp2 : pcs .mem := by assumption)
    (hp3 : pcs .host := by assumption) (hp4 : pcs .lanes := by assumption) (hp5 : pcs .firn := by assumption)
    (hp6 : pcs .irq := by assumption) (hp7 : pcs .mor := by assumption) :
    Ok pcs b0 (State.morStep s force).2 := State.morStep_ok s force hok hp0 hp1 hp2 hp3 hp4 hp5 hp6 hp7

theorem State.morDrain_ok {pcs : Piece → Prop} {b0 : State} (s : State) (a1 : Nat) (hok : Ok pcs b0 s)
    (hp0 : pcs .free := by assumption) (hp1 : pcs .regs := by assumption) (hp2 : pcs .mem := by assumption)
    (hp3 : pcs .host := by assumption) (hp4 : pcs .lanes := by assumption) (hp5 : pcs .firn := by assumption)
    (hp6 : pcs .irq := by assumption) (hp7 : pcs .mor := by assumption) :
    Ok pcs b0 (State.morDrain s a1) := by
  induction a1 generalizing s <;> unfold State.morDrain
  all_goals repeat' first
    | apply_assumption | extract_lets | intro _ | with_reducible apply State.morStep_ok
    | with_reducible apply State.morStep_ok' | (refine ok2_eq (by with_reducible assumption) ?_) | split
    | dsimp +zetaDelta -zeta only

theorem State.morDiscard_ok {pcs : Piece → Prop} {b0 : State} (s : State) (hok : Ok pcs b0 s)
    (hp0 : pcs .regs := by assumption) (hp1 : pcs .firn := by assumption) (hp2 : pcs .irq := by assumption)
    (hp3 : pcs .mor := by assumption) :
    Ok pcs b0 (State.morDiscard s) := by
  delta State.morDiscard
  repeat' first
    | with_reducible assumption | extract_lets | intro _ | with_reducible apply State.release_ok
    | with_reducible apply State.withMor_ok | with_reducible apply ok_foldl | with_reducible apply ok2_foldl
    | with_reducible apply ok_foldl2 | with_reducible apply ok_ite2 | with_reducible apply ok1_foldl
    | with_reducible apply ok_foldl1 | with_reducible apply ok_ite1 | split | dsimp +zetaDelta -zeta only

theorem State.morGather_ok {pcs : Piece → Prop} {b0 : State} (s : State) (hok : Ok pcs b0 s)
    (hp0 : pcs .regs := by assumption) (hp1 : pcs .col := by assumption) (hp2 : pcs .mor := by assumption) :
    Ok pcs b0 (State.morGather s) := by
  delta State.morGather
  repeat' first
    | with_reducible assumption | extract_lets | intro _ | with_reducible apply ok_ite
    | with_reducible apply State.setVoq_ok | with_reducible apply State.satAdd_ok
    | with_reducible apply State.withMor_ok | with_reducible apply ok_foldl | with_reducible apply ok2_foldl
    | with_reducible apply ok_foldl2 | with_reducible apply ok_ite2 | with_reducible apply ok1_foldl
    | with_reducible apply ok_foldl1 | with_reducible apply ok_ite1 | split | dsimp +zetaDelta -zeta only

theorem State.morFreeze_ok {pcs : Piece → Prop} {b0 : State} (s : State) (short : Bool) (hok : Ok pcs b0 s)
    (hp0 : pcs .free := by assumption) (hp1 : pcs .regs := by assumption) (hp2 : pcs .mem := by assumption)
    (hp3 : pcs .host := by assumption) (hp4 : pcs .lanes := by assumption) (hp5 : pcs .col := by assumption)
    (hp6 : pcs .firn := by assumption) (hp7 : pcs .irq := by assumption) (hp8 : pcs .mor := by assumption) :
    Ok pcs b0 (State.morFreeze s short) := by
  delta State.morFreeze
  repeat' first
    | with_reducible assumption | extract_lets | intro _ | with_reducible apply ok_ite
    | with_reducible apply State.morGather_ok | with_reducible apply State.morDiscard_ok
    | with_reducible apply State.morDrain_ok | with_reducible apply State.setB_ok
    | with_reducible apply State.withMor_ok | with_reducible apply State.morHeader_ok
    | with_reducible apply State.raise_ok | split | dsimp +zetaDelta -zeta only

theorem execMorRecordWrite_ok {pcs : Piece → Prop} {b0 : State} (s : State) (hok : Ok pcs b0 s)
    (hp0 : pcs .free := by assumption) (hp1 : pcs .regs := by assumption) (hp2 : pcs .mem := by assumption)
    (hp3 : pcs .host := by assumption) (hp4 : pcs .lanes := by assumption) (hp5 : pcs .col := by assumption)
    (hp6 : pcs .firn := by assumption) (hp7 : pcs .irq := by assumption) (hp8 : pcs .mor := by assumption) :
    OkO pcs b0 (execMorRecordWrite s) := by
  delta execMorRecordWrite
  repeat' first
    | with_reducible assumption | extract_lets | intro _ | with_reducible apply okO_next
    | with_reducible apply okO_ite | with_reducible apply ok_ite | with_reducible apply State.morStep_ok
    | with_reducible apply State.morStep_ok' | with_reducible apply State.morFreeze_ok
    | with_reducible apply State.setB_ok | (refine ok2_eq (by with_reducible assumption) ?_) | split
    | dsimp +zetaDelta -zeta only

theorem execPostWindowEnd_ok {pcs : Piece → Prop} {b0 : State} (s : State) (hok : Ok pcs b0 s)
    (hp0 : pcs .free := by assumption) (hp1 : pcs .regs := by assumption) (hp2 : pcs .mem := by assumption)
    (hp3 : pcs .host := by assumption) (hp4 : pcs .lanes := by assumption) (hp5 : pcs .col := by assumption)
    (hp6 : pcs .firn := by assumption) (hp7 : pcs .irq := by assumption) (hp8 : pcs .mor := by assumption) :
    OkO pcs b0 (execPostWindowEnd s) := by
  delta execPostWindowEnd
  repeat' first
    | with_reducible assumption | extract_lets | intro _ | with_reducible apply okO_next
    | with_reducible apply okO_ite | with_reducible apply ok_ite | with_reducible apply State.morFreeze_ok | split
    | dsimp +zetaDelta -zeta only

theorem execMorHeaderWrite_ok {pcs : Piece → Prop} {b0 : State} (s : State) (hok : Ok pcs b0 s)
    (hp0 : pcs .mem := by assumption) (hp1 : pcs .mor := by assumption) :
    OkO pcs b0 (execMorHeaderWrite s) := by
  delta execMorHeaderWrite
  repeat' first
    | with_reducible assumption | extract_lets | intro _ | with_reducible apply okO_next
    | with_reducible apply okO_ite | with_reducible apply ok_ite | with_reducible apply State.morHeader_ok
    | with_reducible apply State.withMor_ok | split | dsimp +zetaDelta -zeta only

theorem State.hheadWrite_ok {pcs : Piece → Prop} {b0 : State} (s : State) (w : Agent) (v : Word) (hok : Ok pcs b0 s)
    (hp0 : pcs .regs := by assumption) :
    Ok pcs b0 (State.hheadWrite s w v) := by
  delta State.hheadWrite
  repeat' first
    | with_reducible assumption | extract_lets | intro _ | with_reducible apply ok_ite
    | with_reducible apply State.setF_ok | with_reducible apply State.clampBy_ok | split
    | dsimp +zetaDelta -zeta only

theorem execMorHheadWrite_ok {pcs : Piece → Prop} {b0 : State} (f : Fn) (v : Word) (s : State) (hok : Ok pcs b0 s)
    (hp0 : pcs .regs := by assumption) :
    OkO pcs b0 (execMorHheadWrite f v s) := by
  delta execMorHheadWrite
  repeat' first
    | with_reducible assumption | extract_lets | intro _ | with_reducible apply okO_next
    | with_reducible apply okO_ite | with_reducible apply ok_ite | with_reducible apply State.hheadWrite_ok | split
    | dsimp +zetaDelta -zeta only

theorem State.dringCut_ok {pcs : Piece → Prop} {b0 : State} (s : State) (hok : Ok pcs b0 s)
    (hp0 : pcs .mor := by assumption) :
    Ok pcs b0 (State.dringCut s) := by
  delta State.dringCut
  repeat' first
    | with_reducible assumption | extract_lets | intro _ | with_reducible apply ok_ite
    | with_reducible apply State.withMor_ok | split | dsimp +zetaDelta -zeta only

theorem State.dringFit_ok {pcs : Piece → Prop} {b0 : State} (s : State) (hok : Ok pcs b0 s)
    (hp0 : pcs .regs := by assumption) (hp1 : pcs .mor := by assumption) :
    Ok pcs b0 (State.dringFit s) := by
  delta State.dringFit
  repeat' first
    | with_reducible assumption | extract_lets | intro _ | with_reducible apply ok_ite
    | with_reducible apply State.setF_ok | with_reducible apply State.dringCut_ok | split
    | dsimp +zetaDelta -zeta only

theorem execBlockStartMoraine_ok {pcs : Piece → Prop} {b0 : State} (f : Fn) (d : Words8) (s : State)
    (hok : Ok pcs b0 s) (hp0 : pcs .regs := by assumption) (hp1 : pcs .host := by assumption)
    (hp2 : pcs .rings := by assumption) (hp3 : pcs .irq := by assumption) (hp4 : pcs .mor := by assumption) :
    OkO pcs b0 (execBlockStartMoraine f d s) := by
  delta execBlockStartMoraine
  repeat' first
    | with_reducible assumption | extract_lets | intro _ | with_reducible apply okO_next
    | with_reducible apply okO_ite | with_reducible apply ok_ite | with_reducible apply blockCmd_ok
    | with_reducible apply blockCmd_ok' | with_reducible apply State.dringFit_ok
    | with_reducible apply State.withMor_ok | with_reducible apply State.setF_ok
    | with_reducible apply State.adminDone_ok | split | dsimp +zetaDelta -zeta only

theorem execBlockStopMoraine_ok {pcs : Piece → Prop} {b0 : State} (f : Fn) (d : Words8) (s : State)
    (hok : Ok pcs b0 s) (hp0 : pcs .regs := by assumption) (hp1 : pcs .mem := by assumption)
    (hp2 : pcs .host := by assumption) (hp3 : pcs .rings := by assumption) (hp4 : pcs .irq := by assumption)
    (hp5 : pcs .mor := by assumption) :
    OkO pcs b0 (execBlockStopMoraine f d s) := by
  delta execBlockStopMoraine
  repeat' first
    | with_reducible assumption | extract_lets | intro _ | with_reducible apply okO_next
    | with_reducible apply okO_ite | with_reducible apply blockCmd_ok | with_reducible apply blockCmd_ok'
    | with_reducible apply State.morHeader_ok | with_reducible apply State.withMor_ok
    | with_reducible apply State.adminDone_ok | split | dsimp +zetaDelta -zeta only

theorem execArm_ok {pcs : Piece → Prop} {b0 : State} (f : Fn) (d : Words8) (s : State) (hok : Ok pcs b0 s)
    (hp0 : pcs .regs := by assumption) (hp1 : pcs .host := by assumption) (hp2 : pcs .rings := by assumption)
    (hp3 : pcs .irq := by assumption) :
    OkO pcs b0 (execArm f d s) := by
  delta execArm
  repeat' first
    | with_reducible assumption | extract_lets | intro _ | with_reducible apply okO_next
    | with_reducible apply okO_ite | with_reducible apply ok_ite | with_reducible apply adminSub_ok
    | with_reducible apply adminSub_ok' | with_reducible apply State.adminRefuse_ok
    | with_reducible apply State.setB_ok | with_reducible apply State.adminDone_ok | split
    | dsimp +zetaDelta -zeta only

theorem execTrigger_ok {pcs : Piece → Prop} {b0 : State} (f : Fn) (d : Words8) (s : State) (hok : Ok pcs b0 s)
    (hp0 : pcs .regs := by assumption) (hp1 : pcs .host := by assumption) (hp2 : pcs .rings := by assumption)
    (hp3 : pcs .irq := by assumption) (hp4 : pcs .mor := by assumption) :
    OkO pcs b0 (execTrigger f d s) := by
  delta execTrigger
  repeat' first
    | with_reducible assumption | extract_lets | intro _ | with_reducible apply okO_next
    | with_reducible apply okO_ite | with_reducible apply ok_ite | with_reducible apply adminSub_ok
    | with_reducible apply adminSub_ok' | with_reducible apply State.withMor_ok
    | with_reducible apply State.morTrigger_ok | with_reducible apply State.adminDone_ok
    | with_reducible apply State.adminRefuse_ok | split | dsimp +zetaDelta -zeta only

theorem execFreeze_ok {pcs : Piece → Prop} {b0 : State} (f : Fn) (d : Words8) (s : State) (hok : Ok pcs b0 s)
    (hp0 : pcs .free := by assumption) (hp1 : pcs .regs := by assumption) (hp2 : pcs .mem := by assumption)
    (hp3 : pcs .host := by assumption) (hp4 : pcs .lanes := by assumption) (hp5 : pcs .col := by assumption)
    (hp6 : pcs .firn := by assumption) (hp7 : pcs .rings := by assumption) (hp8 : pcs .irq := by assumption)
    (hp9 : pcs .mor := by assumption) :
    OkO pcs b0 (execFreeze f d s) := by
  delta execFreeze
  repeat' first
    | with_reducible assumption | extract_lets | intro _ | with_reducible apply okO_next
    | with_reducible apply okO_ite | with_reducible apply ok_ite | with_reducible apply adminSub_ok
    | with_reducible apply adminSub_ok' | with_reducible apply State.adminRefuse_ok
    | with_reducible apply State.morFreeze_ok | with_reducible apply State.adminDone_ok | split
    | dsimp +zetaDelta -zeta only

theorem execDump_ok {pcs : Piece → Prop} {b0 : State} (f : Fn) (d : Words8) (s : State) (hok : Ok pcs b0 s)
    (hp0 : pcs .regs := by assumption) (hp1 : pcs .host := by assumption) (hp2 : pcs .rings := by assumption)
    (hp3 : pcs .irq := by assumption) (hp4 : pcs .mor := by assumption) :
    OkO pcs b0 (execDump f d s) := by
  delta execDump
  repeat' first
    | with_reducible assumption | extract_lets | intro _ | with_reducible apply okO_next
    | with_reducible apply okO_ite | with_reducible apply ok_ite | with_reducible apply adminSub_ok
    | with_reducible apply adminSub_ok' | with_reducible apply State.adminRefuse_ok
    | with_reducible apply State.clamp_ok | with_reducible apply State.withMor_ok | split
    | dsimp +zetaDelta -zeta only

theorem execDumpDone_ok {pcs : Piece → Prop} {b0 : State} (s : State) (hok : Ok pcs b0 s)
    (hp0 : pcs .host := by assumption) (hp1 : pcs .rings := by assumption) (hp2 : pcs .irq := by assumption)
    (hp3 : pcs .mor := by assumption) :
    OkO pcs b0 (execDumpDone s) := by
  delta execDumpDone
  repeat' first
    | with_reducible assumption | extract_lets | intro _ | with_reducible apply okO_next
    | with_reducible apply okO_ite | with_reducible apply State.withMor_ok | with_reducible apply State.post_ok
    | with_reducible apply State.adminDone2_ok | split | dsimp +zetaDelta -zeta only

theorem execHringRestart_ok {pcs : Piece → Prop} {b0 : State} (f : Fn) (d : Words8) (s : State) (hok : Ok pcs b0 s)
    (hp0 : pcs .regs := by assumption) (hp1 : pcs .host := by assumption) (hp2 : pcs .rings := by assumption)
    (hp3 : pcs .irq := by assumption) (hp4 : pcs .mor := by assumption) :
    OkO pcs b0 (execHringRestart f d s) := by
  delta execHringRestart
  repeat' first
    | with_reducible assumption | extract_lets | intro _ | with_reducible apply okO_next
    | with_reducible apply okO_ite | with_reducible apply ok_ite | with_reducible apply adminSub_ok
    | with_reducible apply adminSub_ok' | with_reducible apply State.setF_ok | with_reducible apply State.setB_ok
    | with_reducible apply State.withMor_ok | with_reducible apply State.adminDone_ok
    | with_reducible apply State.adminRefuse_ok | split | dsimp +zetaDelta -zeta only

theorem execClear_ok {pcs : Piece → Prop} {b0 : State} (f : Fn) (d : Words8) (s : State) (hok : Ok pcs b0 s)
    (hp0 : pcs .host := by assumption) (hp1 : pcs .rings := by assumption) (hp2 : pcs .irq := by assumption)
    (hp3 : pcs .mor := by assumption) :
    OkO pcs b0 (execClear f d s) := by
  delta execClear
  repeat' first
    | with_reducible assumption | extract_lets | intro _ | with_reducible apply okO_next
    | with_reducible apply okO_ite | with_reducible apply ok_ite | with_reducible apply adminSub_ok
    | with_reducible apply adminSub_ok' | with_reducible apply State.withMor_ok
    | with_reducible apply State.adminDone_ok | with_reducible apply State.adminRefuse_ok | split
    | dsimp +zetaDelta -zeta only

theorem execRecStatus_ok {pcs : Piece → Prop} {b0 : State} (f : Fn) (d : Words8) (s : State) (hok : Ok pcs b0 s)
    (hp0 : pcs .regs := by assumption) (hp1 : pcs .host := by assumption) (hp2 : pcs .rings := by assumption)
    (hp3 : pcs .irq := by assumption) :
    OkO pcs b0 (execRecStatus f d s) := by
  delta execRecStatus
  repeat' first
    | with_reducible assumption | extract_lets | intro _ | with_reducible apply okO_next
    | with_reducible apply okO_ite | with_reducible apply ok_ite | with_reducible apply adminCmd_ok
    | with_reducible apply adminCmd_ok' | with_reducible apply State.clamp_ok
    | with_reducible apply State.adminCpl_ok | split | dsimp +zetaDelta -zeta only
end Sys2Proof.Machine
end

