-- ==== Sys2Proof/Laws/OkTx.lean ====
section
/-! SUPPORT. The transmit orders: every operation of Machine/Tx.lean keeps the queue and a sane state, and changes no
piece but the ones it names. -/
namespace Sys2Proof.Machine
set_option Elab.async false

theorem State.setObjWord_ok {pcs : Piece → Prop} {b0 : State} (s : State) (q : Nat) (o : Nat) (w : Nat) (v : Word)
    (hok : Ok pcs b0 s) (hp0 : pcs .mem := by assumption) (hp1 : pcs .poison := by assumption) :
    Ok pcs b0 (State.setObjWord s q o w v) := by
  delta State.setObjWord
  repeat' first
    | with_reducible assumption | extract_lets | intro _ | with_reducible apply State.wr32_ok
    | with_reducible apply State.heal_ok | split | dsimp +zetaDelta -zeta only

theorem State.setObjBits_ok {pcs : Piece → Prop} {b0 : State} (s : State) (q : Nat) (o : Nat) (w : Nat) (lsb : Nat)
    (n : Nat) (v : Nat) (hok : Ok pcs b0 s) (hp0 : pcs .mem := by assumption) (hp1 : pcs .poison := by assumption) :
    Ok pcs b0 (State.setObjBits s q o w lsb n v) := by
  delta State.setObjBits
  repeat' first
    | with_reducible assumption | extract_lets | intro _ | with_reducible apply State.setObjWord_ok | split
    | dsimp +zetaDelta -zeta only

theorem State.objEvent_ok {pcs : Piece → Prop} {b0 : State} (s : State) (q : Nat) (o : Nat) (bus : Nat) (irq : Bool)
    (hok : Ok pcs b0 s) (hp0 : pcs .regs := by assumption) (hp1 : pcs .irq := by assumption) :
    Ok pcs b0 (State.objEvent s q o bus irq) := by
  delta State.objEvent
  repeat' first
    | with_reducible assumption | extract_lets | intro _ | with_reducible apply ok_ite
    | with_reducible apply State.setF_ok | with_reducible apply State.raise_ok | split
    | dsimp +zetaDelta -zeta only

theorem State.objCount_ok {pcs : Piece → Prop} {b0 : State} (s : State) (q : Nat) (o : Nat) (lsb : Nat)
    (hok : Ok pcs b0 s) (hp0 : pcs .mem := by assumption) (hp1 : pcs .poison := by assumption) :
    Ok pcs b0 (State.objCount s q o lsb) := by
  delta State.objCount
  repeat' first
    | with_reducible assumption | extract_lets | intro _ | with_reducible apply State.setObjBits_ok | split
    | dsimp +zetaDelta -zeta only

theorem State.objFrames_ok {pcs : Piece → Prop} {b0 : State} (s : State) (q : Nat) (o : Nat) (hok : Ok pcs b0 s)
    (hp0 : pcs .mem := by assumption) (hp1 : pcs .poison := by assumption) :
    Ok pcs b0 (State.objFrames s q o) := by
  delta State.objFrames
  repeat' first
    | with_reducible assumption | extract_lets | intro _ | with_reducible apply State.setObjBits_ok | split
    | dsimp +zetaDelta -zeta only

theorem State.objStamp_ok {pcs : Piece → Prop} {b0 : State} (s : State) (q : Nat) (o : Nat) (t : Stamp)
    (hok : Ok pcs b0 s) (hp0 : pcs .mem := by assumption) (hp1 : pcs .poison := by assumption) :
    Ok pcs b0 (State.objStamp s q o t) := by
  delta State.objStamp
  repeat' first
    | with_reducible assumption | extract_lets | intro _ | with_reducible apply State.setObjWord_ok | split
    | dsimp +zetaDelta -zeta only

theorem State.modEntry_ok {pcs : Piece → Prop} {b0 : State} (s : State) (b : Nat) (id : Nat) (g : Entry → Entry)
    (hok : Ok pcs b0 s) (hp0 : pcs .tx := by assumption) :
    Ok pcs b0 (State.modEntry s b id g) := by
  delta State.modEntry
  repeat' first
    | with_reducible assumption | extract_lets | intro _ | with_reducible apply ok_ite
    | with_reducible apply State.modBus_ok | split | dsimp +zetaDelta -zeta only

theorem State.releaseEntry_ok {pcs : Piece → Prop} {b0 : State} (s : State) (b : Nat) (fid : Option Nat)
    (hok : Ok pcs b0 s) (hp0 : pcs .regs := by assumption) (hp1 : pcs .firn := by assumption)
    (hp2 : pcs .irq := by assumption) :
    Ok pcs b0 (State.releaseEntry s b fid) := by
  delta State.releaseEntry
  repeat' first
    | with_reducible assumption | extract_lets | intro _ | with_reducible apply ok_ite
    | with_reducible apply State.release_ok | split | dsimp +zetaDelta -zeta only

theorem State.dropEntry_ok {pcs : Piece → Prop} {b0 : State} (s : State) (b : Nat) (e : Entry) (hok : Ok pcs b0 s)
    (hp0 : pcs .regs := by assumption) (hp1 : pcs .tx := by assumption) (hp2 : pcs .firn := by assumption)
    (hp3 : pcs .irq := by assumption) :
    Ok pcs b0 (State.dropEntry s b e) := by
  delta State.dropEntry
  repeat' first
    | with_reducible assumption | extract_lets | intro _ | with_reducible apply State.modBus_ok
    | with_reducible apply State.releaseEntry_ok | split | dsimp +zetaDelta -zeta only

theorem State.txCpl_ok {pcs : Piece → Prop} {b0 : State} (s : State) (sq : Nat) (tag : Word) (tsReq : Bool)
    (b : Nat) (attempts : Nat) (st : Status) (laneB : Bool) (stamp : Option Stamp) (hok : Ok pcs b0 s)
    (hp0 : pcs .host := by assumption) (hp1 : pcs .rings := by assumption) (hp2 : pcs .irq := by assumption) :
    Ok pcs b0 (State.txCpl s sq tag tsReq b attempts st laneB stamp) := by
  delta State.txCpl
  repeat' first
    | with_reducible assumption | extract_lets | intro _ | with_reducible apply ok_ite
    | with_reducible apply State.sqComplete_ok | split | dsimp +zetaDelta -zeta only

theorem State.countTxo_ok {pcs : Piece → Prop} {b0 : State} (s : State) (b : Nat) (st : Status) (hok : Ok pcs b0 s)
    (hp0 : pcs .regs := by assumption) :
    Ok pcs b0 (State.countTxo s b st) := by
  delta State.countTxo
  repeat' first
    | with_reducible assumption | extract_lets | intro _ | with_reducible apply State.satAdd_ok | split
    | dsimp +zetaDelta -zeta only

theorem State.objDone_ok {pcs : Piece → Prop} {b0 : State} (s : State) (q : Nat) (o : Nat) (bus : Nat) (st : Status)
    (stamp : Option Stamp) (irq : Bool) (keep : Bool) (hok : Ok pcs b0 s) (hp0 : pcs .regs := by assumption)
    (hp1 : pcs .mem := by assumption) (hp2 : pcs .irq := by assumption) (hp3 : pcs .poison := by assumption) :
    Ok pcs b0 (State.objDone s q o bus st stamp irq keep) := by
  delta State.objDone
  repeat' first
    | with_reducible assumption | extract_lets | intro _ | with_reducible apply ok_ite
    | with_reducible apply State.setObjBits_ok | with_reducible apply State.objFrames_ok
    | with_reducible apply State.objStamp_ok | with_reducible apply State.objEvent_ok | split
    | dsimp +zetaDelta -zeta only

theorem State.tell_ok {pcs : Piece → Prop} {b0 : State} (s : State) (b : Nat) (e : Entry) (st : Status)
    (laneB : Bool) (stamp : Option Stamp) (hok : Ok pcs b0 s) (hp0 : pcs .regs := by assumption)
    (hp1 : pcs .mem := by assumption) (hp2 : pcs .host := by assumption) (hp3 : pcs .rings := by assumption)
    (hp4 : pcs .irq := by assumption) (hp5 : pcs .poison := by assumption) :
    Ok pcs b0 (State.tell s b e st laneB stamp) := by
  delta State.tell
  repeat' first
    | with_reducible assumption | extract_lets | intro _ | with_reducible apply ok_ite
    | with_reducible apply State.countTxo_ok | with_reducible apply State.txCpl_ok
    | with_reducible apply State.objDone_ok | with_reducible apply State.satAdd_ok | split
    | dsimp +zetaDelta -zeta only

theorem State.fail_ok {pcs : Piece → Prop} {b0 : State} (s : State) (b : Nat) (e : Entry) (st : Status)
    (hok : Ok pcs b0 s) (hp0 : pcs .regs := by assumption) (hp1 : pcs .mem := by assumption)
    (hp2 : pcs .host := by assumption) (hp3 : pcs .tx := by assumption) (hp4 : pcs .firn := by assumption)
    (hp5 : pcs .rings := by assumption) (hp6 : pcs .irq := by assumption) (hp7 : pcs .poison := by assumption) :
    Ok pcs b0 (State.fail s b e st) := by
  delta State.fail
  repeat' first
    | with_reducible assumption | extract_lets | intro _ | with_reducible apply State.tell_ok
    | with_reducible apply State.dropEntry_ok | split | dsimp +zetaDelta -zeta only

theorem State.trailLost_ok {pcs : Piece → Prop} {b0 : State} (s : State) (b : Nat) (hok : Ok pcs b0 s)
    (hp0 : pcs .regs := by assumption) :
    Ok pcs b0 (State.trailLost s b) := by
  delta State.trailLost
  repeat' first
    | with_reducible assumption | extract_lets | intro _ | with_reducible apply State.satAdd_ok | split
    | dsimp +zetaDelta -zeta only

theorem State.dropCopy_ok {pcs : Piece → Prop} {b0 : State} (s : State) (b : Nat) (id : Nat) (lane : Nat)
    (hok : Ok pcs b0 s) (hp0 : pcs .regs := by assumption) (hp1 : pcs .tx := by assumption)
    (hp2 : pcs .firn := by assumption) (hp3 : pcs .irq := by assumption) :
    Ok pcs b0 (State.dropCopy s b id lane) := by
  delta State.dropCopy
  repeat' first
    | with_reducible assumption | extract_lets | intro _ | with_reducible apply ok_ite
    | with_reducible apply State.modEntry_ok | with_reducible apply State.dropEntry_ok | split
    | dsimp +zetaDelta -zeta only

theorem State.endTrail_ok {pcs : Piece → Prop} {b0 : State} (s : State) (b : Nat) (id : Nat) (lane : Nat)
    (hok : Ok pcs b0 s) (hp0 : pcs .regs := by assumption) (hp1 : pcs .tx := by assumption)
    (hp2 : pcs .firn := by assumption) (hp3 : pcs .irq := by assumption) :
    Ok pcs b0 (State.endTrail s b id lane) := by
  delta State.endTrail
  repeat' first
    | with_reducible assumption | extract_lets | intro _ | with_reducible apply State.trailLost_ok
    | with_reducible apply State.dropCopy_ok | split | dsimp +zetaDelta -zeta only

theorem State.enter_ok {pcs : Piece → Prop} {b0 : State} (s : State) (b : Nat) (e : Entry) (hok : Ok pcs b0 s)
    (hp0 : pcs .regs := by assumption) (hp1 : pcs .mem := by assumption) (hp2 : pcs .host := by assumption)
    (hp3 : pcs .tx := by assumption) (hp4 : pcs .firn := by assumption) (hp5 : pcs .rings := by assumption)
    (hp6 : pcs .irq := by assumption) (hp7 : pcs .poison := by assumption) :
    Ok pcs b0 (State.enter s b e) := by
  delta State.enter
  repeat' first
    | with_reducible assumption | extract_lets | intro _ | with_reducible apply ok_ite
    | with_reducible apply State.withNextEnt_ok | with_reducible apply State.modBus_ok
    | with_reducible apply State.fail_ok | split | dsimp +zetaDelta -zeta only

theorem State.laneDownCopy_ok {pcs : Piece → Prop} {b0 : State} (s : State) (b : Nat) (l : Nat) (id : Nat)
    (hok : Ok pcs b0 s) (hp0 : pcs .regs := by assumption) (hp1 : pcs .mem := by assumption)
    (hp2 : pcs .host := by assumption) (hp3 : pcs .tx := by assumption) (hp4 : pcs .firn := by assumption)
    (hp5 : pcs .rings := by assumption) (hp6 : pcs .irq := by assumption) (hp7 : pcs .poison := by assumption) :
    Ok pcs b0 (State.laneDownCopy s b l id) := by
  delta State.laneDownCopy
  repeat' first
    | with_reducible assumption | extract_lets | intro _ | with_reducible apply ok_ite
    | with_reducible apply State.endTrail_ok | with_reducible apply State.fail_ok
    | with_reducible apply State.modEntry_ok | split | dsimp +zetaDelta -zeta only

theorem State.laneDownCopies_ok {pcs : Piece → Prop} {b0 : State} (s : State) (b : Nat) (l : Nat)
    (hok : Ok pcs b0 s) (hp0 : pcs .regs := by assumption) (hp1 : pcs .mem := by assumption)
    (hp2 : pcs .host := by assumption) (hp3 : pcs .tx := by assumption) (hp4 : pcs .firn := by assumption)
    (hp5 : pcs .rings := by assumption) (hp6 : pcs .irq := by assumption) (hp7 : pcs .poison := by assumption) :
    Ok pcs b0 (State.laneDownCopies s b l) := by
  delta State.laneDownCopies
  repeat' first
    | with_reducible assumption | extract_lets | intro _ | with_reducible apply State.laneDownCopy_ok
    | with_reducible apply ok_foldl | with_reducible apply ok2_foldl | with_reducible apply ok_foldl2
    | with_reducible apply ok_ite2 | with_reducible apply ok1_foldl | with_reducible apply ok_foldl1
    | with_reducible apply ok_ite1 | split | dsimp +zetaDelta -zeta only

theorem State.laneUpCopies_ok {pcs : Piece → Prop} {b0 : State} (s : State) (b : Nat) (l : Nat) (hok : Ok pcs b0 s)
    (hp0 : pcs .tx := by assumption) :
    Ok pcs b0 (State.laneUpCopies s b l) := by
  delta State.laneUpCopies
  repeat' first
    | with_reducible assumption | extract_lets | intro _ | with_reducible apply ok_ite
    | with_reducible apply State.modBus_ok | split | dsimp +zetaDelta -zeta only

theorem State.stopTrail_ok {pcs : Piece → Prop} {b0 : State} (s : State) (b : Nat) (id : Nat) (l : Nat)
    (hok : Ok pcs b0 s) (hp0 : pcs .regs := by assumption) (hp1 : pcs .tx := by assumption)
    (hp2 : pcs .firn := by assumption) (hp3 : pcs .irq := by assumption) :
    Ok pcs b0 (State.stopTrail s b id l) := by
  delta State.stopTrail
  repeat' first
    | with_reducible assumption | extract_lets | intro _ | with_reducible apply ok_ite
    | with_reducible apply State.modEntry_ok | with_reducible apply State.endTrail_ok | split
    | dsimp +zetaDelta -zeta only

theorem State.makeTrail_ok {pcs : Piece → Prop} {b0 : State} (s : State) (b : Nat) (e : Entry) (l : Nat)
    (hok : Ok pcs b0 s) (hp0 : pcs .regs := by assumption) (hp1 : pcs .tx := by assumption)
    (hp2 : pcs .firn := by assumption) (hp3 : pcs .irq := by assumption) :
    Ok pcs b0 (State.makeTrail s b e l) := by
  delta State.makeTrail
  repeat' first
    | with_reducible assumption | extract_lets | intro _ | with_reducible apply ok_ite
    | with_reducible apply State.stopTrail_ok | with_reducible apply State.modEntry_ok
    | with_reducible apply ok_foldl | with_reducible apply ok2_foldl | with_reducible apply ok_foldl2
    | with_reducible apply ok_ite2 | with_reducible apply ok1_foldl | with_reducible apply ok_foldl1
    | with_reducible apply ok_ite1 | split | dsimp +zetaDelta -zeta only

theorem State.copySuccess_ok {pcs : Piece → Prop} {b0 : State} (s : State) (b : Nat) (l : Nat) (id : Nat)
    (t : Stamp) (hok : Ok pcs b0 s) (hp0 : pcs .regs := by assumption) (hp1 : pcs .mem := by assumption)
    (hp2 : pcs .host := by assumption) (hp3 : pcs .tx := by assumption) (hp4 : pcs .firn := by assumption)
    (hp5 : pcs .rings := by assumption) (hp6 : pcs .irq := by assumption) (hp7 : pcs .poison := by assumption) :
    Ok pcs b0 (State.copySuccess s b l id t) := by
  delta State.copySuccess
  repeat' first
    | with_reducible assumption | extract_lets | intro _ | with_reducible apply ok_ite
    | with_reducible apply State.satAdd_ok | with_reducible apply State.dropCopy_ok
    | with_reducible apply State.tell_ok | with_reducible apply State.withNextDone_ok
    | with_reducible apply State.dropEntry_ok | with_reducible apply State.modEntry_ok
    | with_reducible apply State.makeTrail_ok | with_reducible apply ok_foldl | with_reducible apply ok2_foldl
    | with_reducible apply ok_foldl2 | with_reducible apply ok_ite2 | with_reducible apply ok1_foldl
    | with_reducible apply ok_foldl1 | with_reducible apply ok_ite1 | split | dsimp +zetaDelta -zeta only

theorem State.copyFailed_ok {pcs : Piece → Prop} {b0 : State} (s : State) (b : Nat) (l : Nat) (id : Nat)
    (erred : Bool) (hok : Ok pcs b0 s) (hp0 : pcs .regs := by assumption) (hp1 : pcs .mem := by assumption)
    (hp2 : pcs .host := by assumption) (hp3 : pcs .tx := by assumption) (hp4 : pcs .firn := by assumption)
    (hp5 : pcs .rings := by assumption) (hp6 : pcs .irq := by assumption) (hp7 : pcs .poison := by assumption) :
    Ok pcs b0 (State.copyFailed s b l id erred) := by
  delta State.copyFailed
  repeat' first
    | with_reducible assumption | extract_lets | intro _ | with_reducible apply ok_ite
    | with_reducible apply State.modEntry_ok | with_reducible apply State.endTrail_ok
    | with_reducible apply State.fail_ok | split | dsimp +zetaDelta -zeta only

theorem State.markEntry_ok {pcs : Piece → Prop} {b0 : State} (s : State) (b : Nat) (e : Entry) (m : Mark)
    (hok : Ok pcs b0 s) (hp0 : pcs .regs := by assumption) (hp1 : pcs .mem := by assumption)
    (hp2 : pcs .host := by assumption) (hp3 : pcs .tx := by assumption) (hp4 : pcs .firn := by assumption)
    (hp5 : pcs .rings := by assumption) (hp6 : pcs .irq := by assumption) (hp7 : pcs .poison := by assumption) :
    Ok pcs b0 (State.markEntry s b e m) := by
  delta State.markEntry
  repeat' first
    | with_reducible assumption | extract_lets | intro _ | with_reducible apply ok_ite
    | with_reducible apply State.modEntry_ok | with_reducible apply State.fail_ok | split
    | dsimp +zetaDelta -zeta only

theorem State.expireEntry_ok {pcs : Piece → Prop} {b0 : State} (s : State) (b : Nat) (e : Entry) (hok : Ok pcs b0 s)
    (hp0 : pcs .regs := by assumption) (hp1 : pcs .mem := by assumption) (hp2 : pcs .host := by assumption)
    (hp3 : pcs .tx := by assumption) (hp4 : pcs .firn := by assumption) (hp5 : pcs .rings := by assumption)
    (hp6 : pcs .irq := by assumption) (hp7 : pcs .poison := by assumption) :
    Ok pcs b0 (State.expireEntry s b e) := by
  delta State.expireEntry
  repeat' first
    | with_reducible assumption | extract_lets | intro _ | with_reducible apply ok_ite
    | with_reducible apply State.modEntry_ok | with_reducible apply State.endTrail_ok
    | with_reducible apply State.fail_ok | with_reducible apply ok_foldl | with_reducible apply ok2_foldl
    | with_reducible apply ok_foldl2 | with_reducible apply ok_ite2 | with_reducible apply ok1_foldl
    | with_reducible apply ok_foldl1 | with_reducible apply ok_ite1 | split | dsimp +zetaDelta -zeta only

theorem State.expireDue_ok {pcs : Piece → Prop} {b0 : State} (s : State) (b : Nat) (hok : Ok pcs b0 s)
    (hp0 : pcs .regs := by assumption) (hp1 : pcs .mem := by assumption) (hp2 : pcs .host := by assumption)
    (hp3 : pcs .tx := by assumption) (hp4 : pcs .firn := by assumption) (hp5 : pcs .rings := by assumption)
    (hp6 : pcs .irq := by assumption) (hp7 : pcs .poison := by assumption) :
    Ok pcs b0 (State.expireDue s b) := by
  delta State.expireDue
  repeat' first
    | with_reducible assumption | extract_lets | intro _ | with_reducible apply State.expireEntry_ok
    | with_reducible apply ok_foldl | with_reducible apply ok2_foldl | with_reducible apply ok_foldl2
    | with_reducible apply ok_ite2 | with_reducible apply ok1_foldl | with_reducible apply ok_foldl1
    | with_reducible apply ok_ite1 | split | dsimp +zetaDelta -zeta only

theorem State.objEnter_ok {pcs : Piece → Prop} {b0 : State} (s : State) (q : Nat) (o : Nat) (rel : Nat) (req : Bool)
    (hok : Ok pcs b0 s) (hp0 : pcs .regs := by assumption) (hp1 : pcs .mem := by assumption)
    (hp2 : pcs .host := by assumption) (hp3 : pcs .tx := by assumption) (hp4 : pcs .firn := by assumption)
    (hp5 : pcs .rings := by assumption) (hp6 : pcs .irq := by assumption) (hp7 : pcs .poison := by assumption) :
    Ok pcs b0 (State.objEnter s q o rel req) := by
  delta State.objEnter
  repeat' first
    | with_reducible assumption | extract_lets | intro _ | with_reducible apply ok_ite
    | with_reducible apply State.countTxo_ok | with_reducible apply State.objDone_ok
    | with_reducible apply State.enter_ok | with_reducible apply State.expireDue_ok | split
    | dsimp +zetaDelta -zeta only

theorem State.objInstance_ok {pcs : Piece → Prop} {b0 : State} (s : State) (q : Nat) (o : Nat) (periodic : Bool)
    (hok : Ok pcs b0 s) (hp0 : pcs .regs := by assumption) (hp1 : pcs .mem := by assumption)
    (hp2 : pcs .host := by assumption) (hp3 : pcs .tx := by assumption) (hp4 : pcs .objs := by assumption)
    (hp5 : pcs .firn := by assumption) (hp6 : pcs .rings := by assumption) (hp7 : pcs .irq := by assumption)
    (hp8 : pcs .poison := by assumption) :
    Ok pcs b0 (State.objInstance s q o periodic) := by
  delta State.objInstance
  repeat' first
    | with_reducible assumption | extract_lets | intro _ | with_reducible apply ok_ite
    | with_reducible apply State.objCount_ok | with_reducible apply State.modObj_ok
    | with_reducible apply State.dropEntry_ok | with_reducible apply State.objEnter_ok | split
    | dsimp +zetaDelta -zeta only

theorem State.objAfter_ok {pcs : Piece → Prop} {b0 : State} (s : State) (q : Nat) (o : Nat) (hok : Ok pcs b0 s)
    (hp0 : pcs .regs := by assumption) (hp1 : pcs .mem := by assumption) (hp2 : pcs .host := by assumption)
    (hp3 : pcs .tx := by assumption) (hp4 : pcs .objs := by assumption) (hp5 : pcs .firn := by assumption)
    (hp6 : pcs .rings := by assumption) (hp7 : pcs .irq := by assumption) (hp8 : pcs .poison := by assumption) :
    Ok pcs b0 (State.objAfter s q o) := by
  delta State.objAfter
  repeat' first
    | with_reducible assumption | extract_lets | intro _ | with_reducible apply ok_ite
    | with_reducible apply State.modObj_ok | with_reducible apply State.dropEntry_ok
    | with_reducible apply State.objEnter_ok | split | dsimp +zetaDelta -zeta only

theorem State.afterAttempt_ok {pcs : Piece → Prop} {b0 : State} (s : State) (b : Nat) (src : TxSrc)
    (hok : Ok pcs b0 s) (hp0 : pcs .regs := by assumption) (hp1 : pcs .mem := by assumption)
    (hp2 : pcs .host := by assumption) (hp3 : pcs .tx := by assumption) (hp4 : pcs .objs := by assumption)
    (hp5 : pcs .firn := by assumption) (hp6 : pcs .rings := by assumption) (hp7 : pcs .irq := by assumption)
    (hp8 : pcs .poison := by assumption) :
    Ok pcs b0 (State.afterAttempt s b src) := by
  delta State.afterAttempt
  repeat' first
    | with_reducible assumption | extract_lets | intro _ | with_reducible apply State.objAfter_ok | split
    | dsimp +zetaDelta -zeta only
end Sys2Proof.Machine
end

