-- ==== Sys2Proof/Laws/OkTiming.lean ====
section
/-! SUPPORT. Lane timing: every operation of Machine/Timing.lean keeps the queue and a sane state, and changes no
piece but the ones it names. -/
namespace Sys2Proof.Machine
set_option Elab.async false

theorem State.clampReg_ok {pcs : Piece → Prop} {b0 : State} (s : State) (a : Nat) (c : Word → Word × Nat)
    (hok : Ok pcs b0 s) (hp0 : pcs .regs := by assumption) :
    Ok1 pcs b0 (State.clampReg s a c) := by
  delta State.clampReg
  repeat' first
    | with_reducible assumption | extract_lets | intro _ | with_reducible apply ok1_ite
    | with_reducible apply ok_ite | with_reducible apply State.setReg_ok | split | with_reducible apply ok1_mk
    | dsimp +zetaDelta -zeta only

theorem State.clampReg_ok' {pcs : Piece → Prop} {b0 : State} (s : State) (a : Nat) (c : Word → Word × Nat)
    (hok : Ok pcs b0 s) (hp0 : pcs .regs := by assumption) :
    Ok pcs b0 (State.clampReg s a c).1 := State.clampReg_ok s a c hok hp0

theorem State.pwmClamp_ok {pcs : Piece → Prop} {b0 : State} (s : State) (l : Nat) (hok : Ok pcs b0 s)
    (hp0 : pcs .free := by assumption) (hp1 : pcs .regs := by assumption) :
    Ok1 pcs b0 (State.pwmClamp s l) := by
  delta State.pwmClamp
  repeat' first
    | with_reducible assumption | extract_lets | intro _ | with_reducible apply ok1_ite
    | with_reducible apply ok_ite | with_reducible apply State.setF_ok | with_reducible apply State.setB_ok
    | with_reducible apply State.drawWord_ok | with_reducible apply State.drawWord_ok'
    | (refine ok2_eq (by with_reducible assumption) ?_) | split | with_reducible apply ok1_mk
    | dsimp +zetaDelta -zeta only

theorem State.pwmClamp_ok' {pcs : Piece → Prop} {b0 : State} (s : State) (l : Nat) (hok : Ok pcs b0 s)
    (hp0 : pcs .free := by assumption) (hp1 : pcs .regs := by assumption) :
    Ok pcs b0 (State.pwmClamp s l).1 := State.pwmClamp_ok s l hok hp0 hp1

theorem State.timingClamp_ok {pcs : Piece → Prop} {b0 : State} (s : State) (l : Nat) (a : Nat) (n : Nat)
    (hok : Ok pcs b0 s) (hp0 : pcs .regs := by assumption) :
    Ok pcs b0 (State.timingClamp s l a n) := by
  delta State.timingClamp
  repeat' first
    | with_reducible assumption | extract_lets | intro _ | with_reducible apply State.clamp_ok | split
    | dsimp +zetaDelta -zeta only

theorem State.reclamp_ok {pcs : Piece → Prop} {b0 : State} (s : State) (l : Nat) (a : Nat) (c : Word → Word × Nat)
    (hok : Ok pcs b0 s) (hp0 : pcs .regs := by assumption) :
    Ok pcs b0 (State.reclamp s l a c) := by
  delta State.reclamp
  repeat' first
    | with_reducible assumption | extract_lets | intro _ | with_reducible apply State.clampReg_ok
    | with_reducible apply State.clampReg_ok' | with_reducible apply State.timingClamp_ok
    | (refine ok1_eq (by with_reducible assumption) ?_) | split | dsimp +zetaDelta -zeta only

theorem State.leaveOffClamps_ok {pcs : Piece → Prop} {b0 : State} (s : State) (l : Nat) (hok : Ok pcs b0 s)
    (hp0 : pcs .free := by assumption) (hp1 : pcs .regs := by assumption) :
    Ok pcs b0 (State.leaveOffClamps s l) := by
  have step (x : State) (a : Nat) (c : Word → Word × Nat) (h : Ok pcs b0 x) : Ok pcs b0 (x.reclamp l a c) := State.reclamp_ok _ _ _ _ h
  exact State.timingClamp_ok _ _ _ _ (State.pwmClamp_ok' _ _ (ok_foldl (fun _ _ h => step _ _ _ (step _ _ _ (step _ _ _ h)))
    (step _ _ _ (step _ _ _ (step _ _ _ hok)))))

theorem State.copyCand_ok {pcs : Piece → Prop} {b0 : State} (s : State) (l : Nat) (n : Nat) (hok : Ok pcs b0 s)
    (hp0 : pcs .free := by assumption) (hp1 : pcs .regs := by assumption) :
    Ok pcs b0 (State.copyCand s l n) := by
  delta State.copyCand
  repeat' first
    | with_reducible assumption | extract_lets | intro _ | with_reducible apply State.setReg_ok
    | with_reducible apply State.pwmClamp_ok | with_reducible apply State.pwmClamp_ok'
    | (refine ok1_eq (by with_reducible assumption) ?_) | split | dsimp +zetaDelta -zeta only

theorem State.tdcMeasure_ok {pcs : Piece → Prop} {b0 : State} (s : State) (l : Nat) (edge : Option Nat)
    (hok : Ok pcs b0 s) (hp0 : pcs .regs := by assumption) (hp1 : pcs .lanes := by assumption) :
    Ok pcs b0 (State.tdcMeasure s l edge) := by
  delta State.tdcMeasure
  repeat' first
    | with_reducible assumption | extract_lets | intro _ | with_reducible apply ok_ite
    | with_reducible apply State.setF_ok | with_reducible apply State.modLane_ok
    | with_reducible apply State.setB_ok | split | dsimp +zetaDelta -zeta only

theorem State.sspCheck_ok {pcs : Piece → Prop} {b0 : State} (s : State) (l : Nat) (fmt : Format) (hok : Ok pcs b0 s)
    (hp0 : pcs .regs := by assumption) :
    Ok pcs b0 (State.sspCheck s l fmt) := by
  delta State.sspCheck
  repeat' first
    | with_reducible assumption | extract_lets | intro _ | with_reducible apply ok_ite
    | with_reducible apply State.setB_ok | split | dsimp +zetaDelta -zeta only

theorem State.loopDelay_ok {pcs : Piece → Prop} {b0 : State} (s : State) (l : Nat) (fr : Frame) (loop : Option
    (Option Nat)) (hok : Ok pcs b0 s) (hp0 : pcs .regs := by assumption) (hp1 : pcs .lanes := by assumption) :
    Ok pcs b0 (State.loopDelay s l fr loop) := by
  delta State.loopDelay
  repeat' first
    | with_reducible assumption | extract_lets | intro _ | with_reducible apply ok_ite
    | with_reducible apply State.tdcMeasure_ok | with_reducible apply State.sspCheck_ok | split
    | dsimp +zetaDelta -zeta only
end Sys2Proof.Machine
end

