-- ==== Sys2Proof/Laws/OkLane.lean ====
section
/-! SUPPORT. Lane states: every operation of Machine/Lane.lean keeps the queue and a sane state, and changes no
piece but the ones it names. -/
namespace Sys2Proof.Machine
set_option Elab.async false

theorem State.pinStart_ok {pcs : Piece → Prop} {b0 : State} (s : State) (l : Nat) (hok : Ok pcs b0 s)
    (hp0 : pcs .regs := by assumption) (hp1 : pcs .pins := by assumption) :
    Ok pcs b0 (State.pinStart s l) := by
  delta State.pinStart
  repeat' first
    | with_reducible assumption | extract_lets | intro _ | with_reducible apply State.setF_ok
    | with_reducible apply State.setB_ok | with_reducible apply State.modPin_ok | split
    | dsimp +zetaDelta -zeta only

theorem State.pinStop_ok {pcs : Piece → Prop} {b0 : State} (s : State) (l : Nat) (hok : Ok pcs b0 s)
    (hp0 : pcs .regs := by assumption) (hp1 : pcs .pins := by assumption) :
    Ok pcs b0 (State.pinStop s l) := by
  delta State.pinStop
  repeat' first
    | with_reducible assumption | extract_lets | intro _ | with_reducible apply State.setF_ok
    | with_reducible apply State.setB_ok | with_reducible apply State.modPin_ok | split
    | dsimp +zetaDelta -zeta only

theorem State.nominalPhase_ok {pcs : Piece → Prop} {b0 : State} (s : State) (l : Nat) (hok : Ok pcs b0 s)
    (hp0 : pcs .pins := by assumption) :
    Ok pcs b0 (State.nominalPhase s l) := by
  delta State.nominalPhase
  repeat' first
    | with_reducible assumption | extract_lets | intro _ | with_reducible apply State.modPin_ok | split
    | dsimp +zetaDelta -zeta only

theorem State.codecErr_ok {pcs : Piece → Prop} {b0 : State} (s : State) (l : Nat) (k : ErrKind) (hok : Ok pcs b0 s)
    (hp0 : pcs .pins := by assumption) :
    Ok pcs b0 (State.codecErr s l k) := by
  delta State.codecErr
  repeat' first
    | with_reducible assumption | extract_lets | intro _ | with_reducible apply ok_ite
    | with_reducible apply State.modPin_ok | split | dsimp +zetaDelta -zeta only

theorem State.addTec_ok {pcs : Piece → Prop} {b0 : State} (s : State) (l : Nat) (n : Nat) (hok : Ok pcs b0 s)
    (hp0 : pcs .regs := by assumption) :
    Ok pcs b0 (State.addTec s l n) := by
  delta State.addTec
  repeat' first
    | with_reducible assumption | extract_lets | intro _ | with_reducible apply State.setF_ok | split
    | dsimp +zetaDelta -zeta only

theorem State.addRec_ok {pcs : Piece → Prop} {b0 : State} (s : State) (l : Nat) (n : Nat) (hok : Ok pcs b0 s)
    (hp0 : pcs .regs := by assumption) :
    Ok pcs b0 (State.addRec s l n) := by
  delta State.addRec
  repeat' first
    | with_reducible assumption | extract_lets | intro _ | with_reducible apply State.setF_ok | split
    | dsimp +zetaDelta -zeta only

theorem State.subTec_ok {pcs : Piece → Prop} {b0 : State} (s : State) (l : Nat) (hok : Ok pcs b0 s)
    (hp0 : pcs .regs := by assumption) :
    Ok pcs b0 (State.subTec s l) := by
  delta State.subTec
  repeat' first
    | with_reducible assumption | extract_lets | intro _ | with_reducible apply ok_ite
    | with_reducible apply State.setF_ok | split | dsimp +zetaDelta -zeta only

theorem State.goodRec_ok {pcs : Piece → Prop} {b0 : State} (s : State) (l : Nat) (hok : Ok pcs b0 s)
    (hp0 : pcs .regs := by assumption) :
    Ok pcs b0 (State.goodRec s l) := by
  delta State.goodRec
  repeat' first
    | with_reducible assumption | extract_lets | intro _ | with_reducible apply ok_ite
    | with_reducible apply State.setF_ok | split | dsimp +zetaDelta -zeta only

theorem State.judgeErr_ok {pcs : Piece → Prop} {b0 : State} (s : State) (l : Nat) (hok : Ok pcs b0 s)
    (hp0 : pcs .regs := by assumption) :
    Ok pcs b0 (State.judgeErr s l) := by
  delta State.judgeErr
  repeat' first
    | with_reducible assumption | extract_lets | intro _ | with_reducible apply State.setF_ok
    | with_reducible apply State.setB_ok | split | dsimp +zetaDelta -zeta only

theorem State.setSt_ok {pcs : Piece → Prop} {b0 : State} (s : State) (l : Nat) (st : Nat) (cause : Nat)
    (hok : Ok pcs b0 s) (hp0 : pcs .regs := by assumption) :
    Ok pcs b0 (State.setSt s l st cause) := by
  delta State.setSt
  repeat' first
    | with_reducible assumption | extract_lets | intro _ | with_reducible apply State.setF_ok | split
    | dsimp +zetaDelta -zeta only

theorem State.setPrev_ok {pcs : Piece → Prop} {b0 : State} (s : State) (l : Nat) (st : Nat) (cause : Nat)
    (hok : Ok pcs b0 s) (hp0 : pcs .regs := by assumption) :
    Ok pcs b0 (State.setPrev s l st cause) := by
  delta State.setPrev
  repeat' first
    | with_reducible assumption | extract_lets | intro _ | with_reducible apply State.setF_ok | split
    | dsimp +zetaDelta -zeta only

theorem State.setHostRet_ok {pcs : Piece → Prop} {b0 : State} (s : State) (l : Nat) (st : Nat) (hok : Ok pcs b0 s)
    (hp0 : pcs .regs := by assumption) :
    Ok pcs b0 (State.setHostRet s l st) := by
  delta State.setHostRet
  repeat' first
    | with_reducible assumption | extract_lets | intro _ | with_reducible apply State.setF_ok | split
    | dsimp +zetaDelta -zeta only

theorem State.toHostHold_ok {pcs : Piece → Prop} {b0 : State} (s : State) (l : Nat) (hok : Ok pcs b0 s)
    (hp0 : pcs .regs := by assumption) :
    Ok pcs b0 (State.toHostHold s l) := by
  delta State.toHostHold
  repeat' first
    | with_reducible assumption | extract_lets | intro _ | with_reducible apply State.setSt_ok
    | with_reducible apply State.setPrev_ok | with_reducible apply State.setHostRet_ok | split
    | dsimp +zetaDelta -zeta only

theorem State.holdExpire_ok {pcs : Piece → Prop} {b0 : State} (s : State) (l : Nat) (hok : Ok pcs b0 s)
    (hp0 : pcs .regs := by assumption) (hp1 : pcs .mem := by assumption) (hp2 : pcs .host := by assumption)
    (hp3 : pcs .lanes := by assumption) (hp4 : pcs .tx := by assumption) (hp5 : pcs .firn := by assumption)
    (hp6 : pcs .rings := by assumption) (hp7 : pcs .irq := by assumption) (hp8 : pcs .poison := by assumption) :
    Ok pcs b0 (State.holdExpire s l) := by
  delta State.holdExpire
  repeat' first
    | with_reducible assumption | extract_lets | intro _ | with_reducible apply State.expireDue_ok
    | with_reducible apply State.modLane_ok | with_reducible apply State.setB_ok
    | with_reducible apply State.raise_ok | with_reducible apply State.laneDownCopies_ok | split
    | dsimp +zetaDelta -zeta only

theorem State.holdMove_ok {pcs : Piece → Prop} {b0 : State} (s : State) (l : Nat) (h0 : Bool) (hok : Ok pcs b0 s)
    (hp0 : pcs .regs := by assumption) (hp1 : pcs .mem := by assumption) (hp2 : pcs .host := by assumption)
    (hp3 : pcs .lanes := by assumption) (hp4 : pcs .tx := by assumption) (hp5 : pcs .firn := by assumption)
    (hp6 : pcs .rings := by assumption) (hp7 : pcs .irq := by assumption) (hp8 : pcs .poison := by assumption) :
    Ok pcs b0 (State.holdMove s l h0) := by
  delta State.holdMove
  repeat' first
    | with_reducible assumption | extract_lets | intro _ | with_reducible apply ok_ite
    | with_reducible apply State.setB_ok | with_reducible apply State.modLane_ok
    | with_reducible apply State.holdExpire_ok | split | dsimp +zetaDelta -zeta only

theorem State.tellState_ok {pcs : Piece → Prop} {b0 : State} (s : State) (l : Nat) (hok : Ok pcs b0 s)
    (hp0 : pcs .lanes := by assumption) (hp1 : pcs .irq := by assumption) :
    Ok pcs b0 (State.tellState s l) := by
  delta State.tellState
  repeat' first
    | with_reducible assumption | extract_lets | intro _ | with_reducible apply ok_ite
    | with_reducible apply State.modLane_ok | with_reducible apply State.raise_ok | split
    | dsimp +zetaDelta -zeta only

theorem State.laneNotify_ok {pcs : Piece → Prop} {b0 : State} (s : State) (l : Nat) (v0 : Nat × Nat × Nat × Nat)
    (p0 : Nat) (hok : Ok pcs b0 s) (hp0 : pcs .regs := by assumption) (hp1 : pcs .lanes := by assumption)
    (hp2 : pcs .irq := by assumption) :
    Ok pcs b0 (State.laneNotify s l v0 p0) := by
  delta State.laneNotify
  repeat' first
    | with_reducible assumption | extract_lets | intro _ | with_reducible apply ok_ite
    | with_reducible apply State.setB_ok | with_reducible apply State.satAdd_ok
    | with_reducible apply State.tellState_ok | split | dsimp +zetaDelta -zeta only

theorem State.laneStep_ok {pcs : Piece → Prop} {b0 : State} (s : State) (l : Nat) (g : State → State)
    (hok : Ok pcs b0 s) (h_g : ∀ s, Ok pcs b0 s → Ok pcs b0 (g s)) (hp0 : pcs .regs := by assumption)
    (hp1 : pcs .mem := by assumption) (hp2 : pcs .host := by assumption) (hp3 : pcs .lanes := by assumption)
    (hp4 : pcs .tx := by assumption) (hp5 : pcs .firn := by assumption) (hp6 : pcs .rings := by assumption)
    (hp7 : pcs .irq := by assumption) (hp8 : pcs .poison := by assumption) :
    Ok pcs b0 (State.laneStep s l g) := by
  delta State.laneStep
  repeat' first
    | with_reducible assumption | extract_lets | intro _ | with_reducible apply ok_ite
    | with_reducible apply State.holdExpire_ok | with_reducible apply State.judgeErr_ok
    | with_reducible apply State.holdMove_ok | with_reducible apply State.modLane_ok
    | with_reducible apply State.laneUpCopies_ok | with_reducible apply State.laneDownCopies_ok
    | with_reducible apply State.laneNotify_ok | with_reducible apply h_g | split | dsimp +zetaDelta -zeta only

theorem State.violate_ok {pcs : Piece → Prop} {b0 : State} (s : State) (l : Nat) (ty : Nat) (field : Nat)
    (bitpos : Nat) (v : Nat) (fr : Option Frame) (role : Bool) (hok : Ok pcs b0 s)
    (hp0 : pcs .regs := by assumption) (hp1 : pcs .irq := by assumption) (hp2 : pcs .poison := by assumption) :
    Ok pcs b0 (State.violate s l ty field bitpos v fr role) := by
  delta State.violate
  repeat' first
    | with_reducible assumption | extract_lets | intro _ | with_reducible apply ok_ite
    | with_reducible apply State.satAdd_ok | with_reducible apply State.setReg_ok
    | with_reducible apply State.heal_ok | with_reducible apply State.setF_ok | with_reducible apply State.setB_ok
    | with_reducible apply State.raise_ok | split | dsimp +zetaDelta -zeta only

theorem State.violateNow_ok {pcs : Piece → Prop} {b0 : State} (s : State) (l : Nat) (ty : Nat) (field : Nat)
    (bitpos : Nat) (fr : Option Frame) (role : Bool) (hok : Ok pcs b0 s) (hp0 : pcs .regs := by assumption)
    (hp1 : pcs .irq := by assumption) (hp2 : pcs .poison := by assumption) :
    Ok pcs b0 (State.violateNow s l ty field bitpos fr role) := by
  delta State.violateNow
  repeat' first
    | with_reducible assumption | extract_lets | intro _ | with_reducible apply State.violate_ok | split
    | dsimp +zetaDelta -zeta only

theorem State.flagErrors_ok {pcs : Piece → Prop} {b0 : State} (s : State) (l : Nat) (field : Nat)
    (fr : Option Frame) (tx : Bool) (a5 : List (Nat × Nat)) (hok : Ok pcs b0 s) (hp0 : pcs .regs := by assumption)
    (hp1 : pcs .irq := by assumption) (hp2 : pcs .poison := by assumption) :
    Ok pcs b0 (State.flagErrors s l field fr tx a5) := by
  induction a5 generalizing s l field fr tx <;> unfold State.flagErrors
  all_goals repeat' first
    | apply_assumption | extract_lets | intro _ | with_reducible apply ok_ite
    | with_reducible apply State.violate_ok | with_reducible apply State.satAdd_ok | split
    | dsimp +zetaDelta -zeta only

theorem State.setRouteState_ok {pcs : Piece → Prop} {b0 : State} (s : State) (n : Nat) (v : Word)
    (hok : Ok pcs b0 s) (hp0 : pcs .mem := by assumption) (hp1 : pcs .poison := by assumption) :
    Ok pcs b0 (State.setRouteState s n v) := by
  delta State.setRouteState
  repeat' first
    | with_reducible assumption | extract_lets | intro _ | with_reducible apply State.wr32_ok
    | with_reducible apply State.heal_ok | split | dsimp +zetaDelta -zeta only

theorem State.fallBack_ok {pcs : Piece → Prop} {b0 : State} (s : State) (n : Nat) (b : Nat) (hok : Ok pcs b0 s)
    (hp0 : pcs .mem := by assumption) (hp1 : pcs .irq := by assumption) (hp2 : pcs .poison := by assumption) :
    Ok pcs b0 (State.fallBack s n b) := by
  delta State.fallBack
  repeat' first
    | with_reducible assumption | extract_lets | intro _ | with_reducible apply ok_ite
    | with_reducible apply State.setRouteState_ok | with_reducible apply State.raise_ok | split
    | dsimp +zetaDelta -zeta only

theorem State.countKill_ok {pcs : Piece → Prop} {b0 : State} (s : State) (x : CtRx) (hok : Ok pcs b0 s)
    (hp0 : pcs .regs := by assumption) (hp1 : pcs .mem := by assumption) (hp2 : pcs .routes := by assumption)
    (hp3 : pcs .irq := by assumption) (hp4 : pcs .poison := by assumption) :
    Ok pcs b0 (State.countKill s x) := by
  delta State.countKill
  repeat' first
    | with_reducible assumption | extract_lets | intro _ | with_reducible apply ok_ite
    | with_reducible apply State.satAdd_ok | with_reducible apply State.setRouteState_ok
    | with_reducible apply State.modKillsOf_ok | with_reducible apply State.fallBack_ok | split
    | dsimp +zetaDelta -zeta only

theorem State.ctWhole_ok {pcs : Piece → Prop} {b0 : State} (s : State) (l : Nat) (fr : Frame) (hok : Ok pcs b0 s)
    (hp0 : pcs .regs := by assumption) (hp1 : pcs .mem := by assumption) (hp2 : pcs .lanes := by assumption)
    (hp3 : pcs .tx := by assumption) :
    Ok pcs b0 (State.ctWhole s l fr) := by
  delta State.ctWhole
  repeat' first
    | with_reducible assumption | extract_lets | intro _ | with_reducible apply ok_ite
    | with_reducible apply State.modLane_ok | with_reducible apply State.fillCells_ok
    | with_reducible apply State.satAdd_ok | with_reducible apply State.modEntry_ok | split
    | dsimp +zetaDelta -zeta only

theorem State.killSend_ok {pcs : Piece → Prop} {b0 : State} (s : State) (l : Nat) (hok : Ok pcs b0 s)
    (hp0 : pcs .regs := by assumption) (hp1 : pcs .mem := by assumption) (hp2 : pcs .lanes := by assumption)
    (hp3 : pcs .tx := by assumption) (hp4 : pcs .routes := by assumption) (hp5 : pcs .col := by assumption)
    (hp6 : pcs .irq := by assumption) (hp7 : pcs .poison := by assumption) :
    Ok pcs b0 (State.killSend s l) := by
  delta State.killSend
  repeat' first
    | with_reducible assumption | extract_lets | intro _ | with_reducible apply State.ctWhole_ok
    | with_reducible apply State.countKill_ok | with_reducible apply State.modLane_ok
    | with_reducible apply State.modCtq_ok | with_reducible apply State.modEntry_ok | split
    | dsimp +zetaDelta -zeta only

theorem State.ctChecked_ok {pcs : Piece → Prop} {b0 : State} (s : State) (l : Nat) (past : Option Frame)
    (hok : Ok pcs b0 s) (hp0 : pcs .lanes := by assumption) :
    Ok pcs b0 (State.ctChecked s l past) := by
  delta State.ctChecked
  repeat' first
    | with_reducible assumption | extract_lets | intro _ | with_reducible apply ok_ite
    | with_reducible apply State.modLane_ok | split | dsimp +zetaDelta -zeta only

theorem State.seekStart_ok {pcs : Piece → Prop} {b0 : State} (s : State) (l : Nat) (cause : SeekCause)
    (hok : Ok pcs b0 s) (hp0 : pcs .regs := by assumption) (hp1 : pcs .lanes := by assumption)
    (hp2 : pcs .pins := by assumption) :
    Ok pcs b0 (State.seekStart s l cause) := by
  delta State.seekStart
  repeat' first
    | with_reducible assumption | extract_lets | intro _ | with_reducible apply ok_ite
    | with_reducible apply State.setHostRet_ok | with_reducible apply State.setSt_ok
    | with_reducible apply State.setPrev_ok | with_reducible apply State.setF_ok
    | with_reducible apply State.setB_ok | with_reducible apply State.wrapInc_ok
    | with_reducible apply State.modLane_ok | with_reducible apply State.nominalPhase_ok | split
    | dsimp +zetaDelta -zeta only

theorem State.setBo_ok {pcs : Piece → Prop} {b0 : State} (s : State) (l : Nat) (ts : List Nat) (hok : Ok pcs b0 s)
    (hp0 : pcs .regs := by assumption) (hp1 : pcs .lanes := by assumption) :
    Ok pcs b0 (State.setBo s l ts) := by
  delta State.setBo
  repeat' first
    | with_reducible assumption | extract_lets | intro _ | with_reducible apply State.setF_ok
    | with_reducible apply State.modLane_ok | split | dsimp +zetaDelta -zeta only

theorem State.busOff_ok {pcs : Piece → Prop} {b0 : State} (s : State) (l : Nat) (hok : Ok pcs b0 s)
    (hp0 : pcs .regs := by assumption) (hp1 : pcs .lanes := by assumption) :
    Ok pcs b0 (State.busOff s l) := by
  delta State.busOff
  repeat' first
    | with_reducible assumption | extract_lets | intro _ | with_reducible apply ok_ite
    | with_reducible apply State.wrapInc_ok | with_reducible apply State.setBo_ok
    | with_reducible apply State.modLane_ok | with_reducible apply State.setHostRet_ok
    | with_reducible apply State.setPrev_ok | with_reducible apply State.setSt_ok | split
    | dsimp +zetaDelta -zeta only

theorem State.busOffIf_ok {pcs : Piece → Prop} {b0 : State} (s : State) (l : Nat) (hok : Ok pcs b0 s)
    (hp0 : pcs .regs := by assumption) (hp1 : pcs .lanes := by assumption) :
    Ok pcs b0 (State.busOffIf s l) := by
  delta State.busOffIf
  repeat' first
    | with_reducible assumption | extract_lets | intro _ | with_reducible apply ok_ite
    | with_reducible apply State.busOff_ok | split | dsimp +zetaDelta -zeta only

theorem State.liftAll_ok {pcs : Piece → Prop} {b0 : State} (s : State) (l : Nat) (hok : Ok pcs b0 s)
    (hp0 : pcs .regs := by assumption) :
    Ok pcs b0 (State.liftAll s l) := by
  delta State.liftAll
  repeat' first
    | with_reducible assumption | extract_lets | intro _ | with_reducible apply State.setB_ok
    | with_reducible apply ok_foldl | with_reducible apply ok2_foldl | with_reducible apply ok_foldl2
    | with_reducible apply ok_ite2 | with_reducible apply ok1_foldl | with_reducible apply ok_foldl1
    | with_reducible apply ok_ite1 | split | dsimp +zetaDelta -zeta only

theorem State.declaredFirst_ok {pcs : Piece → Prop} {b0 : State} (s : State) (l : Nat) (hok : Ok pcs b0 s)
    (hp0 : pcs .free := by assumption) (hp1 : pcs .regs := by assumption) :
    Ok pcs b0 (State.declaredFirst s l) := by
  delta State.declaredFirst
  repeat' first
    | with_reducible assumption | extract_lets | intro _ | with_reducible apply ok_ite
    | with_reducible apply State.copyCand_ok | split | dsimp +zetaDelta -zeta only

theorem State.laneOff_ok {pcs : Piece → Prop} {b0 : State} (s : State) (l : Nat) (hok : Ok pcs b0 s)
    (hp0 : pcs .free := by assumption) (hp1 : pcs .regs := by assumption) (hp2 : pcs .mem := by assumption)
    (hp3 : pcs .host := by assumption) (hp4 : pcs .lanes := by assumption) (hp5 : pcs .pins := by assumption)
    (hp6 : pcs .tx := by assumption) (hp7 : pcs .routes := by assumption) (hp8 : pcs .col := by assumption)
    (hp9 : pcs .firn := by assumption) (hp10 : pcs .rings := by assumption) (hp11 : pcs .irq := by assumption)
    (hp12 : pcs .poison := by assumption) :
    Ok pcs b0 (State.laneOff s l) := by
  delta State.laneOff
  repeat' first
    | with_reducible assumption | extract_lets | intro _ | with_reducible apply State.killSend_ok
    | with_reducible apply State.laneStep_ok | with_reducible apply State.declaredFirst_ok
    | with_reducible apply State.setSt_ok | with_reducible apply State.setPrev_ok
    | with_reducible apply State.setHostRet_ok | with_reducible apply State.setF_ok
    | with_reducible apply State.liftAll_ok | with_reducible apply State.setB_ok
    | with_reducible apply State.modLane_ok | with_reducible apply State.pinStop_ok | split
    | dsimp +zetaDelta -zeta only

theorem State.setVioLow_ok {pcs : Piece → Prop} {b0 : State} (s : State) (b : Nat) (low : Bool) (hok : Ok pcs b0 s)
    (hp0 : pcs .power := by assumption) :
    Ok pcs b0 (State.setVioLow s b low) := by
  delta State.setVioLow
  repeat' first
    | with_reducible assumption | extract_lets | intro _ | with_reducible apply ok_ite
    | with_reducible apply State.withPower_ok | split | dsimp +zetaDelta -zeta only

theorem State.sawRecessive_ok {pcs : Piece → Prop} {b0 : State} (s : State) (l : Nat) (hok : Ok pcs b0 s)
    (hp0 : pcs .power := by assumption) :
    Ok pcs b0 (State.sawRecessive s l) := by
  delta State.sawRecessive
  repeat' first
    | with_reducible assumption | extract_lets | intro _ | with_reducible apply ok_ite
    | with_reducible apply State.setVioLow_ok | split | dsimp +zetaDelta -zeta only

theorem State.laneToInit_ok {pcs : Piece → Prop} {b0 : State} (s : State) (l : Nat) (hok : Ok pcs b0 s)
    (hp0 : pcs .free := by assumption) (hp1 : pcs .regs := by assumption) (hp2 : pcs .mem := by assumption)
    (hp3 : pcs .host := by assumption) (hp4 : pcs .lanes := by assumption) (hp5 : pcs .pins := by assumption)
    (hp6 : pcs .tx := by assumption) (hp7 : pcs .firn := by assumption) (hp8 : pcs .rings := by assumption)
    (hp9 : pcs .irq := by assumption) (hp10 : pcs .poison := by assumption) :
    Ok pcs b0 (State.laneToInit s l) := by
  delta State.laneToInit
  repeat' first
    | with_reducible assumption | extract_lets | intro _ | with_reducible apply State.leaveOffClamps_ok
    | with_reducible apply State.laneStep_ok | with_reducible apply State.setSt_ok
    | with_reducible apply State.setF_ok | with_reducible apply State.modLane_ok
    | with_reducible apply State.pinStart_ok | split | dsimp +zetaDelta -zeta only

theorem State.guardsStart_ok {pcs : Piece → Prop} {b0 : State} (s : State) (l : Nat) (hok : Ok pcs b0 s)
    (hp0 : pcs .lanes := by assumption) :
    Ok pcs b0 (State.guardsStart s l) := by
  delta State.guardsStart
  repeat' first
    | with_reducible assumption | extract_lets | intro _ | with_reducible apply ok_ite
    | with_reducible apply State.modLane_ok | with_reducible apply ok_foldl | with_reducible apply ok2_foldl
    | with_reducible apply ok_foldl2 | with_reducible apply ok_ite2 | with_reducible apply ok1_foldl
    | with_reducible apply ok_foldl1 | with_reducible apply ok_ite1 | split | dsimp +zetaDelta -zeta only

theorem State.leaveInit_ok {pcs : Piece → Prop} {b0 : State} (s : State) (l : Nat) (hok : Ok pcs b0 s)
    (hp0 : pcs .regs := by assumption) (hp1 : pcs .lanes := by assumption) (hp2 : pcs .pins := by assumption) :
    Ok pcs b0 (State.leaveInit s l) := by
  delta State.leaveInit
  repeat' first
    | with_reducible assumption | extract_lets | intro _ | with_reducible apply ok_ite
    | with_reducible apply State.guardsStart_ok | with_reducible apply State.seekStart_ok
    | with_reducible apply State.setSt_ok | split | dsimp +zetaDelta -zeta only

theorem State.laneResumed_ok {pcs : Piece → Prop} {b0 : State} (s : State) (l : Nat) (hok : Ok pcs b0 s)
    (hp0 : pcs .regs := by assumption) (hp1 : pcs .lanes := by assumption) :
    Ok pcs b0 (State.laneResumed s l) := by
  delta State.laneResumed
  repeat' first
    | with_reducible assumption | extract_lets | intro _ | with_reducible apply ok_ite
    | with_reducible apply State.setSt_ok | with_reducible apply State.setPrev_ok
    | with_reducible apply State.modLane_ok | with_reducible apply State.toHostHold_ok | split
    | dsimp +zetaDelta -zeta only

theorem State.rebind_ok {pcs : Piece → Prop} {b0 : State} (s : State) (l : Nat) (n : Nat) (hok : Ok pcs b0 s)
    (hp0 : pcs .lanes := by assumption) (hp1 : pcs .tx := by assumption) (hp2 : pcs .objs := by assumption) :
    Ok pcs b0 (State.rebind s l n) := by
  delta State.rebind
  repeat' first
    | with_reducible assumption | extract_lets | intro _ | with_reducible apply ok_ite
    | with_reducible apply State.modLane_ok | with_reducible apply State.modBus_ok
    | with_reducible apply State.modObj_ok | with_reducible apply ok_foldl | with_reducible apply ok2_foldl
    | with_reducible apply ok_foldl2 | with_reducible apply ok_ite2 | with_reducible apply ok1_foldl
    | with_reducible apply ok_foldl1 | with_reducible apply ok_ite1 | split | dsimp +zetaDelta -zeta only

theorem State.attemptFailed_ok {pcs : Piece → Prop} {b0 : State} (s : State) (l : Nat) (a : Attempt) (erred : Bool)
    (hok : Ok pcs b0 s) (hp0 : pcs .regs := by assumption) (hp1 : pcs .mem := by assumption)
    (hp2 : pcs .host := by assumption) (hp3 : pcs .lanes := by assumption) (hp4 : pcs .tx := by assumption)
    (hp5 : pcs .objs := by assumption) (hp6 : pcs .firn := by assumption) (hp7 : pcs .rings := by assumption)
    (hp8 : pcs .irq := by assumption) (hp9 : pcs .poison := by assumption) :
    Ok pcs b0 (State.attemptFailed s l a erred) := by
  delta State.attemptFailed
  repeat' first
    | with_reducible assumption | extract_lets | intro _ | with_reducible apply State.modLane_ok
    | with_reducible apply State.copyFailed_ok | with_reducible apply State.afterAttempt_ok | split
    | dsimp +zetaDelta -zeta only

theorem State.dropOut_ok {pcs : Piece → Prop} {b0 : State} (s : State) (l : Nat) (loop : Option (Option Nat))
    (hok : Ok pcs b0 s) (hp0 : pcs .regs := by assumption) (hp1 : pcs .mem := by assumption)
    (hp2 : pcs .host := by assumption) (hp3 : pcs .lanes := by assumption) (hp4 : pcs .tx := by assumption)
    (hp5 : pcs .objs := by assumption) (hp6 : pcs .routes := by assumption) (hp7 : pcs .col := by assumption)
    (hp8 : pcs .firn := by assumption) (hp9 : pcs .rings := by assumption) (hp10 : pcs .irq := by assumption)
    (hp11 : pcs .poison := by assumption) :
    Ok pcs b0 (State.dropOut s l loop) := by
  delta State.dropOut
  repeat' first
    | with_reducible assumption | extract_lets | intro _ | with_reducible apply State.killSend_ok
    | with_reducible apply State.loopDelay_ok | with_reducible apply State.attemptFailed_ok | split
    | dsimp +zetaDelta -zeta only

theorem State.busBind_ok {pcs : Piece → Prop} {b0 : State} (s : State) (l : Nat) (n : Nat) (hok : Ok pcs b0 s)
    (hp0 : pcs .regs := by assumption) (hp1 : pcs .mem := by assumption) (hp2 : pcs .host := by assumption)
    (hp3 : pcs .lanes := by assumption) (hp4 : pcs .pins := by assumption) (hp5 : pcs .tx := by assumption)
    (hp6 : pcs .objs := by assumption) (hp7 : pcs .routes := by assumption) (hp8 : pcs .col := by assumption)
    (hp9 : pcs .firn := by assumption) (hp10 : pcs .rings := by assumption) (hp11 : pcs .irq := by assumption)
    (hp12 : pcs .poison := by assumption) :
    Ok pcs b0 (State.busBind s l n) := by
  delta State.busBind
  repeat' first
    | with_reducible assumption | extract_lets | intro _ | with_reducible apply ok_ite
    | with_reducible apply State.rebind_ok | with_reducible apply State.setF_ok
    | with_reducible apply State.killSend_ok | with_reducible apply State.laneStep_ok
    | with_reducible apply State.guardsStart_ok | with_reducible apply State.seekStart_ok | split
    | dsimp +zetaDelta -zeta only

theorem State.laneDo_ok {pcs : Piece → Prop} {b0 : State} (s : State) (r : AdminRef) (d : Words8)
    (hok : Ok pcs b0 s) (hp0 : pcs .free := by assumption) (hp1 : pcs .regs := by assumption)
    (hp2 : pcs .mem := by assumption) (hp3 : pcs .host := by assumption) (hp4 : pcs .lanes := by assumption)
    (hp5 : pcs .pins := by assumption) (hp6 : pcs .tx := by assumption) (hp7 : pcs .objs := by assumption)
    (hp8 : pcs .routes := by assumption) (hp9 : pcs .col := by assumption) (hp10 : pcs .firn := by assumption)
    (hp11 : pcs .rings := by assumption) (hp12 : pcs .irq := by assumption) (hp13 : pcs .poison := by assumption) :
    Ok pcs b0 (State.laneDo s r d) := by
  delta State.laneDo
  repeat' first
    | with_reducible assumption | extract_lets | intro _ | with_reducible apply ok_ite
    | with_reducible apply State.adminRefuse_ok | with_reducible apply State.laneToInit_ok
    | with_reducible apply State.adminDone_ok | with_reducible apply State.modLane_ok
    | with_reducible apply State.laneOff_ok | with_reducible apply State.laneStep_ok
    | with_reducible apply State.setSt_ok | with_reducible apply State.setPrev_ok
    | with_reducible apply State.laneResumed_ok | with_reducible apply State.busBind_ok | split
    | dsimp +zetaDelta -zeta only

theorem State.laneCmd_ok {pcs : Piece → Prop} {b0 : State} (s : State) (r : AdminRef) (d : Words8)
    (hok : Ok pcs b0 s) (hp0 : pcs .free := by assumption) (hp1 : pcs .regs := by assumption)
    (hp2 : pcs .mem := by assumption) (hp3 : pcs .host := by assumption) (hp4 : pcs .lanes := by assumption)
    (hp5 : pcs .pins := by assumption) (hp6 : pcs .tx := by assumption) (hp7 : pcs .objs := by assumption)
    (hp8 : pcs .routes := by assumption) (hp9 : pcs .col := by assumption) (hp10 : pcs .firn := by assumption)
    (hp11 : pcs .rings := by assumption) (hp12 : pcs .irq := by assumption) (hp13 : pcs .poison := by assumption) :
    Ok pcs b0 (State.laneCmd s r d) := by
  delta State.laneCmd
  repeat' first
    | with_reducible assumption | extract_lets | intro _ | with_reducible apply ok_ite
    | with_reducible apply State.withHeld_ok | with_reducible apply State.laneDo_ok | split
    | dsimp +zetaDelta -zeta only

theorem State.laneRejudge_ok {pcs : Piece → Prop} {b0 : State} (s : State) (l : Nat) (hok : Ok pcs b0 s)
    (hp0 : pcs .free := by assumption) (hp1 : pcs .regs := by assumption) (hp2 : pcs .mem := by assumption)
    (hp3 : pcs .host := by assumption) (hp4 : pcs .lanes := by assumption) (hp5 : pcs .pins := by assumption)
    (hp6 : pcs .tx := by assumption) (hp7 : pcs .objs := by assumption) (hp8 : pcs .routes := by assumption)
    (hp9 : pcs .col := by assumption) (hp10 : pcs .firn := by assumption) (hp11 : pcs .rings := by assumption)
    (hp12 : pcs .irq := by assumption) (hp13 : pcs .poison := by assumption) :
    Ok pcs b0 (State.laneRejudge s l) := by
  delta State.laneRejudge
  repeat' first
    | with_reducible assumption | extract_lets | intro _ | with_reducible apply State.laneCmd_ok
    | with_reducible apply State.withHeld_ok | with_reducible apply ok_foldl | with_reducible apply ok2_foldl
    | with_reducible apply ok_foldl2 | with_reducible apply ok_ite2 | with_reducible apply ok1_foldl
    | with_reducible apply ok_foldl1 | with_reducible apply ok_ite1 | split | dsimp +zetaDelta -zeta only

theorem State.frameEnd_ok {pcs : Piece → Prop} {b0 : State} (s : State) (l : Nat) (hok : Ok pcs b0 s)
    (hp0 : pcs .free := by assumption) (hp1 : pcs .regs := by assumption) (hp2 : pcs .mem := by assumption)
    (hp3 : pcs .host := by assumption) (hp4 : pcs .lanes := by assumption) (hp5 : pcs .pins := by assumption)
    (hp6 : pcs .tx := by assumption) (hp7 : pcs .objs := by assumption) (hp8 : pcs .routes := by assumption)
    (hp9 : pcs .col := by assumption) (hp10 : pcs .firn := by assumption) (hp11 : pcs .rings := by assumption)
    (hp12 : pcs .irq := by assumption) (hp13 : pcs .poison := by assumption) :
    Ok pcs b0 (State.frameEnd s l) := by
  delta State.frameEnd
  repeat' first
    | with_reducible assumption | extract_lets | intro _ | with_reducible apply ok_ite
    | with_reducible apply State.modLane_ok | with_reducible apply State.laneOff_ok
    | with_reducible apply State.adminDone?_ok | with_reducible apply State.adminDone_ok
    | with_reducible apply State.busBind_ok | with_reducible apply State.laneStep_ok
    | with_reducible apply State.setSt_ok | with_reducible apply State.setPrev_ok
    | with_reducible apply State.adminRefuse_ok | with_reducible apply State.laneRejudge_ok | split
    | dsimp +zetaDelta -zeta only
end Sys2Proof.Machine
end

