-- ==== Sys2Proof/Laws/OkDist.lean ====
section
/-! SUPPORT. Time distribution: every operation of Machine/Dist.lean keeps the queue and a sane state, and changes no
piece but the ones it names. -/
namespace Sys2Proof.Machine
set_option Elab.async false

theorem State.bdFrame_ok {pcs : Piece → Prop} {b0 : State} (s : State) (c : Nat) (id : Nat) (data : List Byte)
    (hok : Ok pcs b0 s) (hp0 : pcs .free := by assumption) :
    Ok2 pcs b0 (State.bdFrame s c id data) := by
  delta State.bdFrame
  repeat' first
    | with_reducible assumption | extract_lets | intro _ | with_reducible apply ok2_ite
    | with_reducible apply ok_ite | with_reducible apply State.drawWord_ok
    | with_reducible apply State.drawWord_ok' | (refine ok2_eq (by with_reducible assumption) ?_) | split
    | with_reducible apply ok2_mk | dsimp +zetaDelta -zeta only

theorem State.bdFrame_ok' {pcs : Piece → Prop} {b0 : State} (s : State) (c : Nat) (id : Nat) (data : List Byte)
    (hok : Ok pcs b0 s) (hp0 : pcs .free := by assumption) :
    Ok pcs b0 (State.bdFrame s c id data).2 := State.bdFrame_ok s c id data hok hp0

theorem State.fupEnter_ok {pcs : Piece → Prop} {b0 : State} (s : State) (c : Nat) (sync : Frame) (t : Stamp)
    (hok : Ok pcs b0 s) (hp0 : pcs .free := by assumption) (hp1 : pcs .regs := by assumption)
    (hp2 : pcs .mem := by assumption) (hp3 : pcs .host := by assumption) (hp4 : pcs .tx := by assumption)
    (hp5 : pcs .firn := by assumption) (hp6 : pcs .rings := by assumption) (hp7 : pcs .irq := by assumption)
    (hp8 : pcs .poison := by assumption) :
    Ok pcs b0 (State.fupEnter s c sync t) := by
  delta State.fupEnter
  repeat' first
    | with_reducible assumption | extract_lets | intro _ | with_reducible apply ok_ite
    | with_reducible apply State.bdFrame_ok | with_reducible apply State.bdFrame_ok'
    | with_reducible apply State.enter_ok | (refine ok2_eq (by with_reducible assumption) ?_) | split
    | dsimp +zetaDelta -zeta only

theorem State.syncEnter_ok {pcs : Piece → Prop} {b0 : State} (s : State) (c : Nat) (hok : Ok pcs b0 s)
    (hp0 : pcs .free := by assumption) (hp1 : pcs .regs := by assumption) (hp2 : pcs .mem := by assumption)
    (hp3 : pcs .host := by assumption) (hp4 : pcs .tx := by assumption) (hp5 : pcs .firn := by assumption)
    (hp6 : pcs .rings := by assumption) (hp7 : pcs .irq := by assumption) (hp8 : pcs .poison := by assumption) :
    Ok pcs b0 (State.syncEnter s c) := by
  delta State.syncEnter
  repeat' first
    | with_reducible assumption | extract_lets | intro _ | with_reducible apply State.dropEntry_ok
    | with_reducible apply State.satAdd_ok | with_reducible apply State.wrapInc_ok
    | with_reducible apply State.bdFrame_ok | with_reducible apply State.bdFrame_ok'
    | with_reducible apply State.enter_ok | (refine ok2_eq (by with_reducible assumption) ?_) | split
    | dsimp +zetaDelta -zeta only

theorem execSyncRelease_ok {pcs : Piece → Prop} {b0 : State} (c : Fin 16) (s : State) (hok : Ok pcs b0 s)
    (hp0 : pcs .free := by assumption) (hp1 : pcs .time := by assumption) (hp2 : pcs .regs := by assumption)
    (hp3 : pcs .mem := by assumption) (hp4 : pcs .host := by assumption) (hp5 : pcs .tx := by assumption)
    (hp6 : pcs .firn := by assumption) (hp7 : pcs .rings := by assumption) (hp8 : pcs .irq := by assumption)
    (hp9 : pcs .poison := by assumption) :
    OkO pcs b0 (execSyncRelease c s) := by
  delta execSyncRelease
  repeat' first
    | with_reducible assumption | extract_lets | intro _ | with_reducible apply okO_next
    | with_reducible apply okO_ite | with_reducible apply ok_ite | with_reducible apply State.setBd_ok
    | with_reducible apply State.syncEnter_ok | split | dsimp +zetaDelta -zeta only

theorem State.afterSuccess_ok {pcs : Piece → Prop} {b0 : State} (s : State) (src : TxSrc) (fr : Frame) (t : Stamp)
    (hok : Ok pcs b0 s) (hp0 : pcs .free := by assumption) (hp1 : pcs .regs := by assumption)
    (hp2 : pcs .mem := by assumption) (hp3 : pcs .host := by assumption) (hp4 : pcs .tx := by assumption)
    (hp5 : pcs .firn := by assumption) (hp6 : pcs .rings := by assumption) (hp7 : pcs .irq := by assumption)
    (hp8 : pcs .poison := by assumption) :
    Ok pcs b0 (State.afterSuccess s src fr t) := by
  delta State.afterSuccess
  repeat' first
    | with_reducible assumption | extract_lets | intro _ | with_reducible apply State.fupEnter_ok | split
    | dsimp +zetaDelta -zeta only
end Sys2Proof.Machine
end

