-- ==== Sys2Proof/Laws/OkLaneCmd.lean ====
section
/-! SUPPORT. The lane commands: every operation of Machine/LaneCmd.lean keeps the queue and a sane state, and changes no
piece but the ones it names. -/
namespace Sys2Proof.Machine
set_option Elab.async false

theorem execLaneStart_ok {pcs : Piece → Prop} {b0 : State} (f : Fn) (d : Words8) (s : State) (hok : Ok pcs b0 s)
    (hp0 : pcs .free := by assumption) (hp1 : pcs .regs := by assumption) (hp2 : pcs .mem := by assumption)
    (hp3 : pcs .host := by assumption) (hp4 : pcs .lanes := by assumption) (hp5 : pcs .pins := by assumption)
    (hp6 : pcs .tx := by assumption) (hp7 : pcs .objs := by assumption) (hp8 : pcs .routes := by assumption)
    (hp9 : pcs .col := by assumption) (hp10 : pcs .firn := by assumption) (hp11 : pcs .rings := by assumption)
    (hp12 : pcs .irq := by assumption) (hp13 : pcs .poison := by assumption) :
    OkO pcs b0 (execLaneStart f d s) := by
  delta execLaneStart
  repeat' first
    | with_reducible assumption | extract_lets | intro _ | with_reducible apply okO_next
    | with_reducible apply okO_ite | with_reducible apply adminCmd_ok | with_reducible apply adminCmd_ok'
    | with_reducible apply State.laneCmd_ok | split | dsimp +zetaDelta -zeta only

theorem execLaneStop_ok {pcs : Piece → Prop} {b0 : State} (f : Fn) (d : StopDesc) (s : State) (hok : Ok pcs b0 s)
    (hp0 : pcs .free := by assumption) (hp1 : pcs .regs := by assumption) (hp2 : pcs .mem := by assumption)
    (hp3 : pcs .host := by assumption) (hp4 : pcs .lanes := by assumption) (hp5 : pcs .pins := by assumption)
    (hp6 : pcs .tx := by assumption) (hp7 : pcs .objs := by assumption) (hp8 : pcs .routes := by assumption)
    (hp9 : pcs .col := by assumption) (hp10 : pcs .firn := by assumption) (hp11 : pcs .rings := by assumption)
    (hp12 : pcs .irq := by assumption) (hp13 : pcs .poison := by assumption) :
    OkO pcs b0 (execLaneStop f d s) := by
  delta execLaneStop
  repeat' first
    | with_reducible assumption | extract_lets | intro _ | with_reducible apply okO_next
    | with_reducible apply okO_ite | with_reducible apply adminCmd_ok | with_reducible apply adminCmd_ok'
    | with_reducible apply State.ctChecked_ok | with_reducible apply State.laneCmd_ok | split
    | dsimp +zetaDelta -zeta only

theorem execLaneSuspend_ok {pcs : Piece → Prop} {b0 : State} (f : Fn) (d : Words8) (s : State) (hok : Ok pcs b0 s)
    (hp0 : pcs .free := by assumption) (hp1 : pcs .regs := by assumption) (hp2 : pcs .mem := by assumption)
    (hp3 : pcs .host := by assumption) (hp4 : pcs .lanes := by assumption) (hp5 : pcs .pins := by assumption)
    (hp6 : pcs .tx := by assumption) (hp7 : pcs .objs := by assumption) (hp8 : pcs .routes := by assumption)
    (hp9 : pcs .col := by assumption) (hp10 : pcs .firn := by assumption) (hp11 : pcs .rings := by assumption)
    (hp12 : pcs .irq := by assumption) (hp13 : pcs .poison := by assumption) :
    OkO pcs b0 (execLaneSuspend f d s) := by
  delta execLaneSuspend
  repeat' first
    | with_reducible assumption | extract_lets | intro _ | with_reducible apply okO_next
    | with_reducible apply okO_ite | with_reducible apply adminCmd_ok | with_reducible apply adminCmd_ok'
    | with_reducible apply State.laneCmd_ok | split | dsimp +zetaDelta -zeta only

theorem execLaneResume_ok {pcs : Piece → Prop} {b0 : State} (f : Fn) (d : Words8) (s : State) (hok : Ok pcs b0 s)
    (hp0 : pcs .free := by assumption) (hp1 : pcs .regs := by assumption) (hp2 : pcs .mem := by assumption)
    (hp3 : pcs .host := by assumption) (hp4 : pcs .lanes := by assumption) (hp5 : pcs .pins := by assumption)
    (hp6 : pcs .tx := by assumption) (hp7 : pcs .objs := by assumption) (hp8 : pcs .routes := by assumption)
    (hp9 : pcs .col := by assumption) (hp10 : pcs .firn := by assumption) (hp11 : pcs .rings := by assumption)
    (hp12 : pcs .irq := by assumption) (hp13 : pcs .poison := by assumption) :
    OkO pcs b0 (execLaneResume f d s) := by
  delta execLaneResume
  repeat' first
    | with_reducible assumption | extract_lets | intro _ | with_reducible apply okO_next
    | with_reducible apply okO_ite | with_reducible apply adminCmd_ok | with_reducible apply adminCmd_ok'
    | with_reducible apply State.laneCmd_ok | split | dsimp +zetaDelta -zeta only

theorem execBusoffRecover_ok {pcs : Piece → Prop} {b0 : State} (f : Fn) (d : Words8) (s : State) (hok : Ok pcs b0 s)
    (hp0 : pcs .free := by assumption) (hp1 : pcs .regs := by assumption) (hp2 : pcs .mem := by assumption)
    (hp3 : pcs .host := by assumption) (hp4 : pcs .lanes := by assumption) (hp5 : pcs .pins := by assumption)
    (hp6 : pcs .tx := by assumption) (hp7 : pcs .objs := by assumption) (hp8 : pcs .routes := by assumption)
    (hp9 : pcs .col := by assumption) (hp10 : pcs .firn := by assumption) (hp11 : pcs .rings := by assumption)
    (hp12 : pcs .irq := by assumption) (hp13 : pcs .poison := by assumption) :
    OkO pcs b0 (execBusoffRecover f d s) := by
  delta execBusoffRecover
  repeat' first
    | with_reducible assumption | extract_lets | intro _ | with_reducible apply okO_next
    | with_reducible apply okO_ite | with_reducible apply adminCmd_ok | with_reducible apply adminCmd_ok'
    | with_reducible apply State.laneCmd_ok | split | dsimp +zetaDelta -zeta only

theorem execBusBind_ok {pcs : Piece → Prop} {b0 : State} (f : Fn) (d : StopDesc) (s : State) (hok : Ok pcs b0 s)
    (hp0 : pcs .free := by assumption) (hp1 : pcs .regs := by assumption) (hp2 : pcs .mem := by assumption)
    (hp3 : pcs .host := by assumption) (hp4 : pcs .lanes := by assumption) (hp5 : pcs .pins := by assumption)
    (hp6 : pcs .tx := by assumption) (hp7 : pcs .objs := by assumption) (hp8 : pcs .routes := by assumption)
    (hp9 : pcs .col := by assumption) (hp10 : pcs .firn := by assumption) (hp11 : pcs .rings := by assumption)
    (hp12 : pcs .irq := by assumption) (hp13 : pcs .poison := by assumption) :
    OkO pcs b0 (execBusBind f d s) := by
  delta execBusBind
  repeat' first
    | with_reducible assumption | extract_lets | intro _ | with_reducible apply okO_next
    | with_reducible apply okO_ite | with_reducible apply adminCmd_ok | with_reducible apply adminCmd_ok'
    | with_reducible apply State.ctChecked_ok | with_reducible apply State.laneCmd_ok | split
    | dsimp +zetaDelta -zeta only

theorem execLctlSettleExpiry_ok {pcs : Piece → Prop} {b0 : State} (l : LaneId) (s : State) (hok : Ok pcs b0 s)
    (hp0 : pcs .regs := by assumption) (hp1 : pcs .lanes := by assumption) :
    OkO pcs b0 (execLctlSettleExpiry l s) := by
  delta execLctlSettleExpiry
  repeat' first
    | with_reducible assumption | extract_lets | intro _ | with_reducible apply okO_next
    | with_reducible apply okO_ite | with_reducible apply ok_ite | with_reducible apply State.modLane_ok
    | with_reducible apply State.setB_ok | split | dsimp +zetaDelta -zeta only

theorem execIntegrationComplete_ok {pcs : Piece → Prop} {b0 : State} (l : LaneId) (s : State) (hok : Ok pcs b0 s)
    (hp0 : pcs .regs := by assumption) (hp1 : pcs .mem := by assumption) (hp2 : pcs .host := by assumption)
    (hp3 : pcs .lanes := by assumption) (hp4 : pcs .pins := by assumption) (hp5 : pcs .tx := by assumption)
    (hp6 : pcs .firn := by assumption) (hp7 : pcs .rings := by assumption) (hp8 : pcs .irq := by assumption)
    (hp9 : pcs .power := by assumption) (hp10 : pcs .poison := by assumption) :
    OkO pcs b0 (execIntegrationComplete l s) := by
  delta execIntegrationComplete
  repeat' first
    | with_reducible assumption | extract_lets | intro _ | with_reducible apply okO_next
    | with_reducible apply okO_ite | with_reducible apply ok_ite | with_reducible apply State.sawRecessive_ok
    | with_reducible apply State.laneStep_ok | with_reducible apply State.leaveInit_ok | split
    | dsimp +zetaDelta -zeta only

theorem execRejoinAfterIdle_ok {pcs : Piece → Prop} {b0 : State} (l : LaneId) (s : State) (hok : Ok pcs b0 s)
    (hp0 : pcs .lanes := by assumption) (hp1 : pcs .power := by assumption) :
    OkO pcs b0 (execRejoinAfterIdle l s) := by
  delta execRejoinAfterIdle
  repeat' first
    | with_reducible assumption | extract_lets | intro _ | with_reducible apply okO_next
    | with_reducible apply okO_ite | with_reducible apply State.sawRecessive_ok
    | with_reducible apply State.modLane_ok | split | dsimp +zetaDelta -zeta only

theorem execRecoveryComplete_ok {pcs : Piece → Prop} {b0 : State} (l : LaneId) (s : State) (hok : Ok pcs b0 s)
    (hp0 : pcs .regs := by assumption) (hp1 : pcs .mem := by assumption) (hp2 : pcs .host := by assumption)
    (hp3 : pcs .lanes := by assumption) (hp4 : pcs .pins := by assumption) (hp5 : pcs .tx := by assumption)
    (hp6 : pcs .firn := by assumption) (hp7 : pcs .rings := by assumption) (hp8 : pcs .irq := by assumption)
    (hp9 : pcs .power := by assumption) (hp10 : pcs .poison := by assumption) :
    OkO pcs b0 (execRecoveryComplete l s) := by
  delta execRecoveryComplete
  repeat' first
    | with_reducible assumption | extract_lets | intro _ | with_reducible apply okO_next
    | with_reducible apply okO_ite | with_reducible apply ok_ite | with_reducible apply State.sawRecessive_ok
    | with_reducible apply State.laneStep_ok | with_reducible apply State.setF_ok
    | with_reducible apply State.seekStart_ok | with_reducible apply State.setSt_ok
    | with_reducible apply State.toHostHold_ok | split | dsimp +zetaDelta -zeta only

theorem execBoCountAge_ok {pcs : Piece → Prop} {b0 : State} (l : LaneId) (s : State) (hok : Ok pcs b0 s)
    (hp0 : pcs .regs := by assumption) (hp1 : pcs .lanes := by assumption) :
    OkO pcs b0 (execBoCountAge l s) := by
  delta execBoCountAge
  repeat' first
    | with_reducible assumption | extract_lets | intro _ | with_reducible apply okO_next
    | with_reducible apply okO_ite | with_reducible apply State.setBo_ok | split | dsimp +zetaDelta -zeta only

theorem State.stuckHold_ok {pcs : Piece → Prop} {b0 : State} (s : State) (l : Nat) (hok : Ok pcs b0 s)
    (hp0 : pcs .regs := by assumption) :
    Ok pcs b0 (State.stuckHold s l) := by
  delta State.stuckHold
  repeat' first
    | with_reducible assumption | extract_lets | intro _ | with_reducible apply ok_ite
    | with_reducible apply State.setHostRet_ok | with_reducible apply State.setPrev_ok
    | with_reducible apply State.setSt_ok | split | dsimp +zetaDelta -zeta only

theorem execStuckDominant_ok {pcs : Piece → Prop} {b0 : State} (l : LaneId) (x : StuckSeen) (s : State)
    (hok : Ok pcs b0 s) (hp0 : pcs .free := by assumption) (hp1 : pcs .regs := by assumption)
    (hp2 : pcs .mem := by assumption) (hp3 : pcs .host := by assumption) (hp4 : pcs .lanes := by assumption)
    (hp5 : pcs .pins := by assumption) (hp6 : pcs .tx := by assumption) (hp7 : pcs .objs := by assumption)
    (hp8 : pcs .routes := by assumption) (hp9 : pcs .col := by assumption) (hp10 : pcs .firn := by assumption)
    (hp11 : pcs .rings := by assumption) (hp12 : pcs .irq := by assumption) (hp13 : pcs .power := by assumption)
    (hp14 : pcs .poison := by assumption) :
    OkO pcs b0 (execStuckDominant l x s) := by
  delta execStuckDominant
  repeat' first
    | with_reducible assumption | extract_lets | intro _ | with_reducible apply okO_next
    | with_reducible apply okO_ite | with_reducible apply ok_ite | with_reducible apply State.setVioLow_ok
    | with_reducible apply State.violate_ok | with_reducible apply State.ctChecked_ok
    | with_reducible apply State.dropOut_ok | with_reducible apply State.nominalPhase_ok
    | with_reducible apply State.laneStep_ok | with_reducible apply State.stuckHold_ok
    | with_reducible apply State.modLane_ok | with_reducible apply State.frameEnd_ok | split
    | dsimp +zetaDelta -zeta only

theorem execSelfTestFaultFound_ok {pcs : Piece → Prop} {b0 : State} (l : LaneId) (s : State) (hok : Ok pcs b0 s)
    (hp0 : pcs .regs := by assumption) (hp1 : pcs .mem := by assumption) (hp2 : pcs .host := by assumption)
    (hp3 : pcs .lanes := by assumption) (hp4 : pcs .tx := by assumption) (hp5 : pcs .firn := by assumption)
    (hp6 : pcs .rings := by assumption) (hp7 : pcs .irq := by assumption) (hp8 : pcs .power := by assumption)
    (hp9 : pcs .poison := by assumption) :
    OkO pcs b0 (execSelfTestFaultFound l s) := by
  delta execSelfTestFaultFound
  repeat' first
    | with_reducible assumption | extract_lets | intro _ | with_reducible apply okO_next
    | with_reducible apply okO_ite | with_reducible apply ok_ite | with_reducible apply State.sawRecessive_ok
    | with_reducible apply State.violateNow_ok | with_reducible apply State.laneStep_ok
    | with_reducible apply State.setSt_ok | with_reducible apply State.setPrev_ok
    | with_reducible apply State.setHostRet_ok | with_reducible apply State.modLane_ok | split
    | dsimp +zetaDelta -zeta only

theorem execSelfTestWindowEnd_ok {pcs : Piece → Prop} {b0 : State} (l : LaneId) (s : State) (hok : Ok pcs b0 s)
    (hp0 : pcs .lanes := by assumption) :
    OkO pcs b0 (execSelfTestWindowEnd l s) := by
  delta execSelfTestWindowEnd
  repeat' first
    | with_reducible assumption | extract_lets | intro _ | with_reducible apply okO_next
    | with_reducible apply okO_ite | with_reducible apply ok_ite | with_reducible apply State.modLane_ok | split
    | dsimp +zetaDelta -zeta only

theorem execStuckFaultEnd_ok {pcs : Piece → Prop} {b0 : State} (l : LaneId) (s : State) (hok : Ok pcs b0 s)
    (hp0 : pcs .regs := by assumption) (hp1 : pcs .mem := by assumption) (hp2 : pcs .host := by assumption)
    (hp3 : pcs .lanes := by assumption) (hp4 : pcs .pins := by assumption) (hp5 : pcs .tx := by assumption)
    (hp6 : pcs .firn := by assumption) (hp7 : pcs .rings := by assumption) (hp8 : pcs .irq := by assumption)
    (hp9 : pcs .power := by assumption) (hp10 : pcs .poison := by assumption) :
    OkO pcs b0 (execStuckFaultEnd l s) := by
  delta execStuckFaultEnd
  repeat' first
    | with_reducible assumption | extract_lets | intro _ | with_reducible apply okO_next
    | with_reducible apply okO_ite | with_reducible apply ok_ite | with_reducible apply State.sawRecessive_ok
    | with_reducible apply State.laneStep_ok | with_reducible apply State.modLane_ok
    | with_reducible apply State.toHostHold_ok | with_reducible apply State.setSt_ok
    | with_reducible apply State.setPrev_ok | with_reducible apply State.leaveInit_ok | split
    | dsimp +zetaDelta -zeta only

theorem State.seekNext_ok {pcs : Piece → Prop} {b0 : State} (s : State) (l : Nat) (k : Seek) (hok : Ok pcs b0 s)
    (hp0 : pcs .regs := by assumption) (hp1 : pcs .lanes := by assumption) :
    Ok pcs b0 (State.seekNext s l k) := by
  delta State.seekNext
  repeat' first
    | with_reducible assumption | extract_lets | intro _ | with_reducible apply ok_ite
    | with_reducible apply State.setF_ok | with_reducible apply State.modLane_ok | split
    | dsimp +zetaDelta -zeta only

theorem State.seekMember_ok {pcs : Piece → Prop} {b0 : State} (s : State) (l : Nat) (k : Seek) (hok : Ok pcs b0 s)
    (hp0 : pcs .regs := by assumption) (hp1 : pcs .lanes := by assumption) :
    Ok pcs b0 (State.seekMember s l k) := by
  delta State.seekMember
  repeat' first
    | with_reducible assumption | extract_lets | intro _ | with_reducible apply State.setF_ok
    | with_reducible apply State.modLane_ok | split | dsimp +zetaDelta -zeta only

theorem State.declare_ok {pcs : Piece → Prop} {b0 : State} (s : State) (l : Nat) (i : Nat) (k : Seek) (unver : Bool)
    (hok : Ok pcs b0 s) (hp0 : pcs .regs := by assumption) (hp1 : pcs .lanes := by assumption)
    (hp2 : pcs .irq := by assumption) :
    Ok pcs b0 (State.declare s l i k unver) := by
  delta State.declare
  repeat' first
    | with_reducible assumption | extract_lets | intro _ | with_reducible apply ok_ite
    | with_reducible apply State.setB_ok | with_reducible apply State.setF_ok
    | with_reducible apply State.modLane_ok | with_reducible apply State.raise_ok | split
    | dsimp +zetaDelta -zeta only

theorem execSeekFrameEnd_ok {pcs : Piece → Prop} {b0 : State} (l : LaneId) (fr : Frame) (good : Bool) (s : State)
    (hok : Ok pcs b0 s) (hp0 : pcs .regs := by assumption) (hp1 : pcs .lanes := by assumption)
    (hp2 : pcs .pins := by assumption) (hp3 : pcs .irq := by assumption) :
    OkO pcs b0 (execSeekFrameEnd l fr good s) := by
  delta execSeekFrameEnd
  repeat' first
    | with_reducible assumption | extract_lets | intro _ | with_reducible apply okO_next
    | with_reducible apply okO_ite | with_reducible apply ok_ite | with_reducible apply State.nominalPhase_ok
    | with_reducible apply State.declare_ok | with_reducible apply State.seekMember_ok
    | with_reducible apply State.seekNext_ok | with_reducible apply State.modLane_ok | split
    | dsimp +zetaDelta -zeta only

theorem execSeekDwellExpiry_ok {pcs : Piece → Prop} {b0 : State} (l : LaneId) (s : State) (hok : Ok pcs b0 s)
    (hp0 : pcs .regs := by assumption) (hp1 : pcs .lanes := by assumption) :
    OkO pcs b0 (execSeekDwellExpiry l s) := by
  delta execSeekDwellExpiry
  repeat' first
    | with_reducible assumption | extract_lets | intro _ | with_reducible apply okO_next
    | with_reducible apply okO_ite | with_reducible apply ok_ite | with_reducible apply State.seekNext_ok | split
    | dsimp +zetaDelta -zeta only

theorem execSeekTimeout_ok {pcs : Piece → Prop} {b0 : State} (l : LaneId) (s : State) (hok : Ok pcs b0 s)
    (hp0 : pcs .regs := by assumption) (hp1 : pcs .lanes := by assumption) (hp2 : pcs .irq := by assumption) :
    OkO pcs b0 (execSeekTimeout l s) := by
  delta execSeekTimeout
  repeat' first
    | with_reducible assumption | extract_lets | intro _ | with_reducible apply okO_next
    | with_reducible apply okO_ite | with_reducible apply ok_ite | with_reducible apply State.declare_ok
    | with_reducible apply State.modLane_ok | with_reducible apply State.setB_ok
    | with_reducible apply State.raise_ok | split | dsimp +zetaDelta -zeta only

theorem State.seekRejoin_ok {pcs : Piece → Prop} {b0 : State} (s : State) (l : Nat) (hok : Ok pcs b0 s)
    (hp0 : pcs .regs := by assumption) :
    Ok pcs b0 (State.seekRejoin s l) := by
  delta State.seekRejoin
  repeat' first
    | with_reducible assumption | extract_lets | intro _ | with_reducible apply ok_ite
    | with_reducible apply State.setSt_ok | with_reducible apply State.toHostHold_ok | split
    | dsimp +zetaDelta -zeta only

theorem execDeclaredTimingApply_ok {pcs : Piece → Prop} {b0 : State} (l : LaneId) (s : State) (hok : Ok pcs b0 s)
    (hp0 : pcs .free := by assumption) (hp1 : pcs .regs := by assumption) (hp2 : pcs .mem := by assumption)
    (hp3 : pcs .host := by assumption) (hp4 : pcs .lanes := by assumption) (hp5 : pcs .tx := by assumption)
    (hp6 : pcs .firn := by assumption) (hp7 : pcs .rings := by assumption) (hp8 : pcs .irq := by assumption)
    (hp9 : pcs .poison := by assumption) :
    OkO pcs b0 (execDeclaredTimingApply l s) := by
  delta execDeclaredTimingApply
  repeat' first
    | with_reducible assumption | extract_lets | intro _ | with_reducible apply okO_next
    | with_reducible apply okO_ite | with_reducible apply ok_ite | with_reducible apply State.modLane_ok
    | with_reducible apply State.laneStep_ok | with_reducible apply State.copyCand_ok
    | with_reducible apply State.seekRejoin_ok | with_reducible apply State.setB_ok
    | with_reducible apply State.setSt_ok | split | dsimp +zetaDelta -zeta only

theorem execGuardWindowEnd_ok {pcs : Piece → Prop} {b0 : State} (l : LaneId) (g : Fin 16) (s : State)
    (hok : Ok pcs b0 s) (hp0 : pcs .regs := by assumption) (hp1 : pcs .lanes := by assumption) :
    OkO pcs b0 (execGuardWindowEnd l g s) := by
  delta execGuardWindowEnd
  repeat' first
    | with_reducible assumption | extract_lets | intro _ | with_reducible apply okO_next
    | with_reducible apply okO_ite | with_reducible apply ok_ite | with_reducible apply State.setB_ok
    | with_reducible apply State.modLane_ok | split | dsimp +zetaDelta -zeta only

theorem execQuarantineLift_ok {pcs : Piece → Prop} {b0 : State} (f : Fn) (l : LaneId) (g : Fin 16) (s : State)
    (hok : Ok pcs b0 s) (hp0 : pcs .regs := by assumption) :
    OkO pcs b0 (execQuarantineLift f l g s) := by
  delta execQuarantineLift
  repeat' first
    | with_reducible assumption | extract_lets | intro _ | with_reducible apply okO_next
    | with_reducible apply okO_ite | with_reducible apply ok_ite | with_reducible apply State.setB_ok | split
    | dsimp +zetaDelta -zeta only

theorem State.vlogClear_ok {pcs : Piece → Prop} {b0 : State} (s : State) (l : Nat) (hok : Ok pcs b0 s)
    (hp0 : pcs .regs := by assumption) (hp1 : pcs .poison := by assumption) :
    Ok pcs b0 (State.vlogClear s l) := by
  delta State.vlogClear
  repeat' first
    | with_reducible assumption | extract_lets | intro _ | with_reducible apply State.setReg_ok
    | with_reducible apply State.withPoison_ok | with_reducible apply State.setF_ok
    | with_reducible apply State.setB_ok | with_reducible apply ok_foldl | with_reducible apply ok2_foldl
    | with_reducible apply ok_foldl2 | with_reducible apply ok_ite2 | with_reducible apply ok1_foldl
    | with_reducible apply ok_foldl1 | with_reducible apply ok_ite1 | split | dsimp +zetaDelta -zeta only

theorem execVlogClear_ok {pcs : Piece → Prop} {b0 : State} (f : Fn) (l : LaneId) (s : State) (hok : Ok pcs b0 s)
    (hp0 : pcs .regs := by assumption) (hp1 : pcs .poison := by assumption) :
    OkO pcs b0 (execVlogClear f l s) := by
  delta execVlogClear
  repeat' first
    | with_reducible assumption | extract_lets | intro _ | with_reducible apply okO_next
    | with_reducible apply okO_ite | with_reducible apply ok_ite | with_reducible apply State.vlogClear_ok | split
    | dsimp +zetaDelta -zeta only

theorem execHoldExpiry_ok {pcs : Piece → Prop} {b0 : State} (l : LaneId) (s : State) (hok : Ok pcs b0 s)
    (hp0 : pcs .regs := by assumption) (hp1 : pcs .mem := by assumption) (hp2 : pcs .host := by assumption)
    (hp3 : pcs .lanes := by assumption) (hp4 : pcs .tx := by assumption) (hp5 : pcs .firn := by assumption)
    (hp6 : pcs .rings := by assumption) (hp7 : pcs .irq := by assumption) (hp8 : pcs .poison := by assumption) :
    OkO pcs b0 (execHoldExpiry l s) := by
  delta execHoldExpiry
  repeat' first
    | with_reducible assumption | extract_lets | intro _ | with_reducible apply okO_next
    | with_reducible apply okO_ite | with_reducible apply ok_ite | with_reducible apply State.laneStep_ok | split
    | dsimp +zetaDelta -zeta only

theorem execTrailMsExpiry_ok {pcs : Piece → Prop} {b0 : State} (l : LaneId) (ent : Nat) (s : State)
    (hok : Ok pcs b0 s) (hp0 : pcs .regs := by assumption) (hp1 : pcs .tx := by assumption)
    (hp2 : pcs .firn := by assumption) (hp3 : pcs .irq := by assumption) :
    OkO pcs b0 (execTrailMsExpiry l ent s) := by
  delta execTrailMsExpiry
  repeat' first
    | with_reducible assumption | extract_lets | intro _ | with_reducible apply okO_next
    | with_reducible apply okO_ite | with_reducible apply ok_ite | with_reducible apply State.stopTrail_ok | split
    | dsimp +zetaDelta -zeta only

theorem execDupEntryExpiry_ok {pcs : Piece → Prop} {b0 : State} (l : DupSeen) (s : State) (hok : Ok pcs b0 s)
    (hp0 : pcs .regs := by assumption) (hp1 : pcs .lanes := by assumption) :
    OkO pcs b0 (execDupEntryExpiry l s) := by
  delta execDupEntryExpiry
  repeat' first
    | with_reducible assumption | extract_lets | intro _ | with_reducible apply okO_next
    | with_reducible apply okO_ite | with_reducible apply ok_ite | with_reducible apply State.modLane_ok
    | with_reducible apply State.satAdd_ok | split | dsimp +zetaDelta -zeta only
end Sys2Proof.Machine
end

