-- ==== Sys2Proof/Laws/OkLaneBus.lean ====
section
/-! SUPPORT. Bus events: every operation of Machine/LaneBus.lean keeps the queue and a sane state, and changes no
piece but the ones it names. -/
namespace Sys2Proof.Machine
set_option Elab.async false

theorem State.copyGone_ok {pcs : Piece → Prop} {b0 : State} (s : State) (b : Nat) (id : Nat) (l : Nat)
    (hok : Ok pcs b0 s) (hp0 : pcs .regs := by assumption) (hp1 : pcs .mem := by assumption)
    (hp2 : pcs .host := by assumption) (hp3 : pcs .tx := by assumption) (hp4 : pcs .firn := by assumption)
    (hp5 : pcs .rings := by assumption) (hp6 : pcs .irq := by assumption) (hp7 : pcs .poison := by assumption) :
    Ok pcs b0 (State.copyGone s b id l) := by
  delta State.copyGone
  repeat' first
    | with_reducible assumption | extract_lets | intro _ | with_reducible apply ok_ite
    | with_reducible apply State.endTrail_ok | with_reducible apply State.modEntry_ok
    | with_reducible apply State.fail_ok | split | dsimp +zetaDelta -zeta only

theorem State.sof_ok {pcs : Piece → Prop} {b0 : State} (s : State) (l : Nat) (e : Entry) (joined : Option Edge)
    (hok : Ok pcs b0 s) (hp0 : pcs .regs := by assumption) (hp1 : pcs .lanes := by assumption)
    (hp2 : pcs .tx := by assumption) :
    Ok pcs b0 (State.sof s l e joined) := by
  delta State.sof
  repeat' first
    | with_reducible assumption | extract_lets | intro _ | with_reducible apply ok_ite
    | with_reducible apply State.stampWith_ok | with_reducible apply State.stampWith_ok'
    | with_reducible apply State.laneStamp_ok | with_reducible apply State.laneStamp_ok'
    | with_reducible apply State.satAdd_ok | with_reducible apply State.modEntry_ok
    | with_reducible apply State.modLane_ok | (refine ok2_eq (by with_reducible assumption) ?_) | split
    | dsimp +zetaDelta -zeta only

theorem execTxSof_ok {pcs : Piece → Prop} {b0 : State} (l : LaneId) (joined : Option Edge) (s : State)
    (hok : Ok pcs b0 s) (hp0 : pcs .regs := by assumption) (hp1 : pcs .mem := by assumption)
    (hp2 : pcs .host := by assumption) (hp3 : pcs .lanes := by assumption) (hp4 : pcs .tx := by assumption)
    (hp5 : pcs .firn := by assumption) (hp6 : pcs .rings := by assumption) (hp7 : pcs .irq := by assumption)
    (hp8 : pcs .poison := by assumption) :
    OkO pcs b0 (execTxSof l joined s) := by
  delta execTxSof
  repeat' first
    | with_reducible assumption | extract_lets | intro _ | with_reducible apply okO_next
    | with_reducible apply okO_ite | with_reducible apply ok_ite | with_reducible apply State.expireDue_ok
    | with_reducible apply State.satAdd_ok | with_reducible apply State.copyGone_ok
    | with_reducible apply State.lbHeal_ok | with_reducible apply State.sof_ok | split
    | dsimp +zetaDelta -zeta only

theorem State.killCopy_ok {pcs : Piece → Prop} {b0 : State} (s : State) (b : Nat) (id : Nat) (l : Nat)
    (hok : Ok pcs b0 s) (hp0 : pcs .regs := by assumption) (hp1 : pcs .tx := by assumption)
    (hp2 : pcs .firn := by assumption) (hp3 : pcs .irq := by assumption) :
    Ok pcs b0 (State.killCopy s b id l) := by
  delta State.killCopy
  repeat' first
    | with_reducible assumption | extract_lets | intro _ | with_reducible apply ok_ite
    | with_reducible apply State.modEntry_ok | with_reducible apply State.dropEntry_ok | split
    | dsimp +zetaDelta -zeta only

theorem execArbLost_ok {pcs : Piece → Prop} {b0 : State} (l : LaneId) (s : State) (hok : Ok pcs b0 s)
    (hp0 : pcs .free := by assumption) (hp1 : pcs .regs := by assumption) (hp2 : pcs .mem := by assumption)
    (hp3 : pcs .host := by assumption) (hp4 : pcs .lanes := by assumption) (hp5 : pcs .pins := by assumption)
    (hp6 : pcs .tx := by assumption) (hp7 : pcs .objs := by assumption) (hp8 : pcs .routes := by assumption)
    (hp9 : pcs .col := by assumption) (hp10 : pcs .firn := by assumption) (hp11 : pcs .rings := by assumption)
    (hp12 : pcs .irq := by assumption) (hp13 : pcs .poison := by assumption) :
    OkO pcs b0 (execArbLost l s) := by
  delta execArbLost
  repeat' first
    | with_reducible assumption | extract_lets | intro _ | with_reducible apply okO_next
    | with_reducible apply okO_ite | with_reducible apply ok_ite | with_reducible apply State.modLane_ok
    | with_reducible apply State.killCopy_ok | with_reducible apply State.attemptFailed_ok
    | with_reducible apply State.frameEnd_ok | split | dsimp +zetaDelta -zeta only

theorem State.morAttempt_ok {pcs : Piece → Prop} {b0 : State} (s : State) (l : Nat) (status : Nat) (a : Attempt)
    (e : Entry) (detail : Word) (hok : Ok pcs b0 s) (hp0 : pcs .free := by assumption)
    (hp1 : pcs .regs := by assumption) (hp2 : pcs .mem := by assumption) (hp3 : pcs .col := by assumption)
    (hp4 : pcs .firn := by assumption) (hp5 : pcs .rings := by assumption) (hp6 : pcs .irq := by assumption)
    (hp7 : pcs .mor := by assumption) (hp8 : pcs .poison := by assumption) :
    Ok pcs b0 (State.morAttempt s l status a e detail) := by
  delta State.morAttempt
  repeat' first
    | with_reducible assumption | extract_lets | intro _ | with_reducible apply State.morTx_ok | split
    | dsimp +zetaDelta -zeta only

theorem execTxSuccess_ok {pcs : Piece → Prop} {b0 : State} (l : LaneId) (loop : Option Nat) (s : State)
    (hok : Ok pcs b0 s) (hp0 : pcs .free := by assumption) (hp1 : pcs .regs := by assumption)
    (hp2 : pcs .mem := by assumption) (hp3 : pcs .host := by assumption) (hp4 : pcs .lanes := by assumption)
    (hp5 : pcs .pins := by assumption) (hp6 : pcs .tx := by assumption) (hp7 : pcs .objs := by assumption)
    (hp8 : pcs .routes := by assumption) (hp9 : pcs .col := by assumption) (hp10 : pcs .firn := by assumption)
    (hp11 : pcs .rings := by assumption) (hp12 : pcs .irq := by assumption) (hp13 : pcs .mor := by assumption)
    (hp14 : pcs .poison := by assumption) :
    OkO pcs b0 (execTxSuccess l loop s) := by
  delta execTxSuccess
  repeat' first
    | with_reducible assumption | extract_lets | intro _ | with_reducible apply okO_next
    | with_reducible apply okO_ite | with_reducible apply State.loopDelay_ok
    | with_reducible apply State.morAttempt_ok | with_reducible apply State.nominalPhase_ok
    | with_reducible apply State.laneStep_ok | with_reducible apply State.subTec_ok
    | with_reducible apply State.modLane_ok | with_reducible apply State.copySuccess_ok
    | with_reducible apply State.afterAttempt_ok | with_reducible apply State.afterSuccess_ok
    | with_reducible apply State.frameEnd_ok | split | dsimp +zetaDelta -zeta only

theorem State.txErrCount_ok {pcs : Piece → Prop} {b0 : State} (s : State) (l : Nat) (x : TxErr) (hok : Ok pcs b0 s)
    (hp0 : pcs .regs := by assumption) :
    Ok pcs b0 (State.txErrCount s l x) := by
  delta State.txErrCount
  repeat' first
    | with_reducible assumption | extract_lets | intro _ | with_reducible apply ok_ite
    | with_reducible apply State.addTec_ok | split | dsimp +zetaDelta -zeta only

theorem State.killedCopy_ok {pcs : Piece → Prop} {b0 : State} (s : State) (b : Nat) (id : Nat) (l : Nat)
    (hok : Ok pcs b0 s) (hp0 : pcs .regs := by assumption) (hp1 : pcs .mem := by assumption)
    (hp2 : pcs .host := by assumption) (hp3 : pcs .tx := by assumption) (hp4 : pcs .firn := by assumption)
    (hp5 : pcs .rings := by assumption) (hp6 : pcs .irq := by assumption) (hp7 : pcs .poison := by assumption) :
    Ok pcs b0 (State.killedCopy s b id l) := by
  delta State.killedCopy
  repeat' first
    | with_reducible assumption | extract_lets | intro _ | with_reducible apply ok_ite
    | with_reducible apply State.killCopy_ok | with_reducible apply State.copyGone_ok | split
    | dsimp +zetaDelta -zeta only

theorem State.killedXl_ok {pcs : Piece → Prop} {b0 : State} (s : State) (l : Nat) (a : Attempt) (e : Entry)
    (x : TxErr) (hok : Ok pcs b0 s) (hp0 : pcs .free := by assumption) (hp1 : pcs .regs := by assumption)
    (hp2 : pcs .mem := by assumption) (hp3 : pcs .host := by assumption) (hp4 : pcs .lanes := by assumption)
    (hp5 : pcs .tx := by assumption) (hp6 : pcs .col := by assumption) (hp7 : pcs .firn := by assumption)
    (hp8 : pcs .rings := by assumption) (hp9 : pcs .irq := by assumption) (hp10 : pcs .mor := by assumption)
    (hp11 : pcs .poison := by assumption) :
    Ok pcs b0 (State.killedXl s l a e x) := by
  delta State.killedXl
  repeat' first
    | with_reducible assumption | extract_lets | intro _ | with_reducible apply ok_ite
    | with_reducible apply State.violate_ok | with_reducible apply State.satAdd_ok
    | with_reducible apply State.morAttempt_ok | with_reducible apply State.modLane_ok
    | with_reducible apply State.killedCopy_ok | with_reducible apply State.laneStep_ok
    | with_reducible apply State.addTec_ok | with_reducible apply State.busOffIf_ok | split
    | dsimp +zetaDelta -zeta only

theorem execTxError_ok {pcs : Piece → Prop} {b0 : State} (l : LaneId) (x : TxErr) (s : State) (hok : Ok pcs b0 s)
    (hp0 : pcs .free := by assumption) (hp1 : pcs .regs := by assumption) (hp2 : pcs .mem := by assumption)
    (hp3 : pcs .host := by assumption) (hp4 : pcs .lanes := by assumption) (hp5 : pcs .pins := by assumption)
    (hp6 : pcs .tx := by assumption) (hp7 : pcs .objs := by assumption) (hp8 : pcs .routes := by assumption)
    (hp9 : pcs .col := by assumption) (hp10 : pcs .firn := by assumption) (hp11 : pcs .rings := by assumption)
    (hp12 : pcs .irq := by assumption) (hp13 : pcs .mor := by assumption) (hp14 : pcs .poison := by assumption) :
    OkO pcs b0 (execTxError l x s) := by
  delta execTxError
  repeat' first
    | with_reducible assumption | extract_lets | intro _ | with_reducible apply okO_next
    | with_reducible apply okO_ite | with_reducible apply ok_ite | with_reducible apply State.loopDelay_ok
    | with_reducible apply State.nominalPhase_ok | with_reducible apply State.codecErr_ok
    | with_reducible apply State.modLane_ok | with_reducible apply State.killedXl_ok
    | with_reducible apply State.frameEnd_ok | with_reducible apply State.violate_ok
    | with_reducible apply State.satAdd_ok | with_reducible apply State.morAttempt_ok
    | with_reducible apply State.flagErrors_ok | with_reducible apply State.attemptFailed_ok
    | with_reducible apply State.laneStep_ok | with_reducible apply State.addTec_ok
    | with_reducible apply State.txErrCount_ok | with_reducible apply State.busOffIf_ok | split
    | dsimp +zetaDelta -zeta only

theorem State.rxErrCount_ok {pcs : Piece → Prop} {b0 : State} (s : State) (l : Nat) (x : RxErr) (hok : Ok pcs b0 s)
    (hp0 : pcs .regs := by assumption) :
    Ok pcs b0 (State.rxErrCount s l x) := by
  delta State.rxErrCount
  repeat' first
    | with_reducible assumption | extract_lets | intro _ | with_reducible apply ok_ite
    | with_reducible apply State.addRec_ok | split | dsimp +zetaDelta -zeta only

theorem State.receptionLost_ok {pcs : Piece → Prop} {b0 : State} (s : State) (l : Nat) (x : RxErr)
    (hok : Ok pcs b0 s) (hp0 : pcs .regs := by assumption) (hp1 : pcs .mem := by assumption)
    (hp2 : pcs .lanes := by assumption) (hp3 : pcs .tx := by assumption) (hp4 : pcs .routes := by assumption)
    (hp5 : pcs .col := by assumption) (hp6 : pcs .irq := by assumption) (hp7 : pcs .poison := by assumption) :
    Ok pcs b0 (State.receptionLost s l x) := by
  delta State.receptionLost
  repeat' first
    | with_reducible assumption | extract_lets | intro _ | with_reducible apply ok_ite
    | with_reducible apply State.satAdd_ok | with_reducible apply State.ctWhole_ok
    | with_reducible apply State.killSend_ok | with_reducible apply State.modLane_ok | split
    | dsimp +zetaDelta -zeta only

theorem execRxError_ok {pcs : Piece → Prop} {b0 : State} (l : LaneId) (x : RxErr) (s : State) (hok : Ok pcs b0 s)
    (hp0 : pcs .free := by assumption) (hp1 : pcs .regs := by assumption) (hp2 : pcs .mem := by assumption)
    (hp3 : pcs .host := by assumption) (hp4 : pcs .lanes := by assumption) (hp5 : pcs .pins := by assumption)
    (hp6 : pcs .tx := by assumption) (hp7 : pcs .routes := by assumption) (hp8 : pcs .col := by assumption)
    (hp9 : pcs .firn := by assumption) (hp10 : pcs .rings := by assumption) (hp11 : pcs .irq := by assumption)
    (hp12 : pcs .mor := by assumption) (hp13 : pcs .poison := by assumption) :
    OkO pcs b0 (execRxError l x s) := by
  delta execRxError
  repeat' first
    | with_reducible assumption | extract_lets | intro _ | with_reducible apply okO_next
    | with_reducible apply okO_ite | with_reducible apply ok_ite | with_reducible apply State.violate_ok
    | with_reducible apply State.nominalPhase_ok | with_reducible apply State.codecErr_ok
    | with_reducible apply State.satAdd_ok | with_reducible apply State.rxStamp_ok
    | with_reducible apply State.rxStamp_ok' | with_reducible apply State.sof_ok
    | with_reducible apply State.morRxErr_ok | with_reducible apply State.receptionLost_ok
    | with_reducible apply State.laneStep_ok | with_reducible apply State.modLane_ok
    | with_reducible apply State.addRec_ok | with_reducible apply State.rxErrCount_ok
    | (refine ok2_eq (by with_reducible assumption) ?_) | split | dsimp +zetaDelta -zeta only

theorem execProtocolException_ok {pcs : Piece → Prop} {b0 : State} (l : LaneId) (x : RxErr) (s : State)
    (hok : Ok pcs b0 s) (hp0 : pcs .regs := by assumption) (hp1 : pcs .mem := by assumption)
    (hp2 : pcs .lanes := by assumption) (hp3 : pcs .pins := by assumption) (hp4 : pcs .tx := by assumption)
    (hp5 : pcs .routes := by assumption) (hp6 : pcs .col := by assumption) (hp7 : pcs .irq := by assumption)
    (hp8 : pcs .poison := by assumption) :
    OkO pcs b0 (execProtocolException l x s) := by
  delta execProtocolException
  repeat' first
    | with_reducible assumption | extract_lets | intro _ | with_reducible apply okO_next
    | with_reducible apply okO_ite | with_reducible apply ok_ite | with_reducible apply State.violate_ok
    | with_reducible apply State.nominalPhase_ok | with_reducible apply State.receptionLost_ok
    | with_reducible apply State.modLane_ok | split | dsimp +zetaDelta -zeta only

theorem execOverloadFrame_ok {pcs : Piece → Prop} {b0 : State} (l : LaneId) (x : Ovld) (s : State)
    (hok : Ok pcs b0 s) (hp0 : pcs .regs := by assumption) (hp1 : pcs .mem := by assumption)
    (hp2 : pcs .host := by assumption) (hp3 : pcs .lanes := by assumption) (hp4 : pcs .tx := by assumption)
    (hp5 : pcs .firn := by assumption) (hp6 : pcs .rings := by assumption) (hp7 : pcs .irq := by assumption)
    (hp8 : pcs .poison := by assumption) :
    OkO pcs b0 (execOverloadFrame l x s) := by
  delta execOverloadFrame
  repeat' first
    | with_reducible assumption | extract_lets | intro _ | with_reducible apply okO_next
    | with_reducible apply okO_ite | with_reducible apply ok_ite | with_reducible apply State.satAdd_ok
    | with_reducible apply State.flagErrors_ok | with_reducible apply State.laneStep_ok
    | with_reducible apply State.addTec_ok | with_reducible apply State.addRec_ok
    | with_reducible apply State.busOffIf_ok | split | dsimp +zetaDelta -zeta only

theorem State.killAttempt_ok {pcs : Piece → Prop} {b0 : State} (s : State) (l : Nat) (a : Attempt) (e : Entry)
    (x : KillSeen) (hok : Ok pcs b0 s) (hp0 : pcs .free := by assumption) (hp1 : pcs .regs := by assumption)
    (hp2 : pcs .mem := by assumption) (hp3 : pcs .host := by assumption) (hp4 : pcs .lanes := by assumption)
    (hp5 : pcs .pins := by assumption) (hp6 : pcs .tx := by assumption) (hp7 : pcs .objs := by assumption)
    (hp8 : pcs .routes := by assumption) (hp9 : pcs .col := by assumption) (hp10 : pcs .firn := by assumption)
    (hp11 : pcs .rings := by assumption) (hp12 : pcs .irq := by assumption) (hp13 : pcs .mor := by assumption)
    (hp14 : pcs .poison := by assumption) :
    Ok pcs b0 (State.killAttempt s l a e x) := by
  delta State.killAttempt
  repeat' first
    | with_reducible assumption | extract_lets | intro _ | with_reducible apply ok_ite
    | with_reducible apply State.laneStep_ok | with_reducible apply State.addTec_ok
    | with_reducible apply State.modEntry_ok | with_reducible apply State.loopDelay_ok
    | with_reducible apply State.nominalPhase_ok | with_reducible apply State.morAttempt_ok
    | with_reducible apply State.flagErrors_ok | with_reducible apply State.modLane_ok
    | with_reducible apply State.killedCopy_ok | with_reducible apply State.busOffIf_ok
    | with_reducible apply State.frameEnd_ok | split | dsimp +zetaDelta -zeta only

theorem execCtKillArrival_ok {pcs : Piece → Prop} {b0 : State} (l : KillSeen) (s : State) (hok : Ok pcs b0 s)
    (hp0 : pcs .free := by assumption) (hp1 : pcs .regs := by assumption) (hp2 : pcs .mem := by assumption)
    (hp3 : pcs .host := by assumption) (hp4 : pcs .lanes := by assumption) (hp5 : pcs .pins := by assumption)
    (hp6 : pcs .tx := by assumption) (hp7 : pcs .objs := by assumption) (hp8 : pcs .routes := by assumption)
    (hp9 : pcs .col := by assumption) (hp10 : pcs .firn := by assumption) (hp11 : pcs .rings := by assumption)
    (hp12 : pcs .irq := by assumption) (hp13 : pcs .mor := by assumption) (hp14 : pcs .poison := by assumption) :
    OkO pcs b0 (execCtKillArrival l s) := by
  delta execCtKillArrival
  repeat' first
    | with_reducible assumption | extract_lets | intro _ | with_reducible apply okO_next
    | with_reducible apply okO_ite | with_reducible apply ok_ite | with_reducible apply State.killAttempt_ok
    | with_reducible apply State.killCopy_ok | with_reducible apply State.satAdd_ok
    | with_reducible apply State.modEntry_ok | with_reducible apply State.lbHeal_ok | split
    | dsimp +zetaDelta -zeta only
end Sys2Proof.Machine
end

