-- ==== Sys2Proof/Laws/OkFilter.lean ====
section
/-! SUPPORT. Acceptance filters: every operation of Machine/Filter.lean keeps the queue and a sane state, and changes no
piece but the ones it names. -/
namespace Sys2Proof.Machine
set_option Elab.async false

theorem State.setRec4_ok {pcs : Piece → Prop} {b0 : State} (s : State) (a : Nat) (r : Rec4) (hok : Ok pcs b0 s)
    (hp0 : pcs .mem := by assumption) :
    Ok pcs b0 (State.setRec4 s a r) := by
  delta State.setRec4
  repeat' first
    | with_reducible assumption | extract_lets | intro _ | with_reducible apply State.wr32_ok | split
    | dsimp +zetaDelta -zeta only

theorem State.healRec_ok {pcs : Piece → Prop} {b0 : State} (s : State) (m : Nat) (n : Nat) (hok : Ok pcs b0 s)
    (hp0 : pcs .poison := by assumption) :
    Ok pcs b0 (State.healRec s m n) := by
  delta State.healRec
  repeat' first
    | with_reducible assumption | extract_lets | intro _ | with_reducible apply State.heal_ok | split
    | dsimp +zetaDelta -zeta only

theorem State.cacheReload_ok {pcs : Piece → Prop} {b0 : State} (s : State) (b : Nat) (hok : Ok pcs b0 s)
    (hp0 : pcs .filters := by assumption) :
    Ok pcs b0 (State.cacheReload s b) := by
  delta State.cacheReload
  repeat' first
    | with_reducible assumption | extract_lets | intro _ | with_reducible apply ok_ite
    | with_reducible apply State.modCache_ok | split | dsimp +zetaDelta -zeta only

theorem State.cacheParity_ok {pcs : Piece → Prop} {b0 : State} (s : State) (b : Nat) (l : Nat) (current : Bool)
    (hok : Ok pcs b0 s) (hp0 : pcs .regs := by assumption) (hp1 : pcs .irq := by assumption) :
    Ok pcs b0 (State.cacheParity s b l current) := by
  delta State.cacheParity
  repeat' first
    | with_reducible assumption | extract_lets | intro _ | with_reducible apply ok_ite
    | with_reducible apply State.setF_ok | with_reducible apply State.setB_ok | with_reducible apply State.raise_ok
    | split | dsimp +zetaDelta -zeta only

theorem State.walkBacklog_ok {pcs : Piece → Prop} {b0 : State} (s : State) (l : Nat) (c : Nat) (hok : Ok pcs b0 s)
    (hp0 : pcs .free := by assumption) (hp1 : pcs .regs := by assumption) :
    Ok pcs b0 (State.walkBacklog s l c) := by
  delta State.walkBacklog
  repeat' first
    | with_reducible assumption | extract_lets | intro _ | with_reducible apply State.drawWord_ok
    | with_reducible apply State.drawWord_ok' | with_reducible apply State.setF_ok
    | (refine ok2_eq (by with_reducible assumption) ?_) | split | dsimp +zetaDelta -zeta only

theorem State.walkErrs_ok {pcs : Piece → Prop} {b0 : State} (s : State) (base : Nat) (n : Nat) (ecc : List
    (Nat × BitVec 7)) (hok : Ok pcs b0 s) (hp0 : pcs .regs := by assumption) (hp1 : pcs .irq := by assumption)
    (hp2 : pcs .boot := by assumption) (hp3 : pcs .poison := by assumption) :
    Ok pcs b0 (State.walkErrs s base n ecc) := by
  delta State.walkErrs
  repeat' first
    | with_reducible assumption | extract_lets | intro _ | with_reducible apply ok_ite
    | with_reducible apply State.eccUncorrectable_ok | with_reducible apply ok_foldl
    | with_reducible apply ok2_foldl | with_reducible apply ok_foldl2 | with_reducible apply ok_ite2
    | with_reducible apply ok1_foldl | with_reducible apply ok_foldl1 | with_reducible apply ok_ite1 | split
    | dsimp +zetaDelta -zeta only

theorem State.walkFrame_ok {pcs : Piece → Prop} {b0 : State} (s : State) (l : Nat) (fr : Frame) (late : Bool)
    (err : WalkErr) (old : Option FltList) (hok : Ok pcs b0 s) (hp0 : pcs .free := by assumption)
    (hp1 : pcs .regs := by assumption) (hp2 : pcs .irq := by assumption) (hp3 : pcs .boot := by assumption)
    (hp4 : pcs .poison := by assumption) :
    Ok2 pcs b0 (State.walkFrame s l fr late err old) := by
  delta State.walkFrame
  repeat' first
    | with_reducible assumption | extract_lets | intro _ | with_reducible apply ok2_ite
    | with_reducible apply ok_ite | with_reducible apply State.cacheParity_ok
    | with_reducible apply State.walkBacklog_ok | with_reducible apply State.walkErrs_ok | split
    | with_reducible apply ok2_mk | dsimp +zetaDelta -zeta only

theorem State.walkFrame_ok' {pcs : Piece → Prop} {b0 : State} (s : State) (l : Nat) (fr : Frame) (late : Bool)
    (err : WalkErr) (old : Option FltList) (hok : Ok pcs b0 s) (hp0 : pcs .free := by assumption)
    (hp1 : pcs .regs := by assumption) (hp2 : pcs .irq := by assumption) (hp3 : pcs .boot := by assumption)
    (hp4 : pcs .poison := by assumption) :
    Ok pcs b0 (State.walkFrame s l fr late err old).2 := State.walkFrame_ok s l fr late err old hok hp0 hp1 hp2 hp3 hp4

theorem State.fltLoadTake_ok {pcs : Piece → Prop} {b0 : State} (s : State) (r : AdminRef) (d : Words8)
    (hok : Ok pcs b0 s) (hp0 : pcs .host := by assumption) (hp1 : pcs .filters := by assumption)
    (hp2 : pcs .rings := by assumption) (hp3 : pcs .irq := by assumption) :
    Ok pcs b0 (State.fltLoadTake s r d) := by
  delta State.fltLoadTake
  repeat' first
    | with_reducible assumption | extract_lets | intro _ | with_reducible apply ok_ite
    | with_reducible apply State.adminBusy_ok | with_reducible apply State.adminRefuse_ok
    | with_reducible apply State.setFlt_ok | split | dsimp +zetaDelta -zeta only

theorem execFltLoad_ok {pcs : Piece → Prop} {b0 : State} (f : Fn) (d : Words8) (s : State) (hok : Ok pcs b0 s)
    (hp0 : pcs .host := by assumption) (hp1 : pcs .filters := by assumption) (hp2 : pcs .rings := by assumption)
    (hp3 : pcs .irq := by assumption) :
    OkO pcs b0 (execFltLoad f d s) := by
  delta execFltLoad
  repeat' first
    | with_reducible assumption | extract_lets | intro _ | with_reducible apply okO_next
    | with_reducible apply okO_ite | with_reducible apply adminCmd_ok | with_reducible apply adminCmd_ok'
    | with_reducible apply State.fltLoadTake_ok | split | dsimp +zetaDelta -zeta only

theorem State.writeElems_ok {pcs : Piece → Prop} {b0 : State} (s : State) (e : Nat) (xs : List Rec4)
    (hok : Ok pcs b0 s) (hp0 : pcs .mem := by assumption) (hp1 : pcs .poison := by assumption) :
    Ok pcs b0 (State.writeElems s e xs) := by
  induction xs generalizing s e with
  | nil => exact hok
  | cons x xs ih => unfold State.writeElems; exact ih _ _ (State.healRec_ok _ _ _ (State.setRec4_ok _ _ _ hok))

theorem State.smearElems_ok {pcs : Piece → Prop} {b0 : State} (s : State) (e : Nat) (n : Nat) (hok : Ok pcs b0 s)
    (hp0 : pcs .free := by assumption) (hp1 : pcs .mem := by assumption) (hp2 : pcs .poison := by assumption) :
    Ok pcs b0 (State.smearElems s e n) := by
  induction n generalizing s e with
  | zero => exact hok
  | succ n ih =>
    unfold State.smearElems
    exact ih _ _ (State.healRec_ok _ _ _ (State.setRec4_ok _ _ _ (State.drawWord_ok _ (State.drawWord_ok _ (State.drawWord_ok _
      (State.drawWord_ok _ hok))))))

theorem State.fltRefuse_ok {pcs : Piece → Prop} {b0 : State} (s : State) (b : Nat) (x : FltLoad) (c : Cause)
    (hok : Ok pcs b0 s) (hp0 : pcs .host := by assumption) (hp1 : pcs .filters := by assumption)
    (hp2 : pcs .rings := by assumption) (hp3 : pcs .irq := by assumption) :
    Ok pcs b0 (State.fltRefuse s b x c) := by
  delta State.fltRefuse
  repeat' first
    | with_reducible assumption | extract_lets | intro _ | with_reducible apply State.setFlt_ok
    | with_reducible apply State.adminRefuse_ok | split | dsimp +zetaDelta -zeta only

theorem execFltLoadTransferDone_ok {pcs : Piece → Prop} {b0 : State} (b : LaneId) (els : List Rec4) (s : State)
    (hok : Ok pcs b0 s) (hp0 : pcs .free := by assumption) (hp1 : pcs .mem := by assumption)
    (hp2 : pcs .host := by assumption) (hp3 : pcs .filters := by assumption) (hp4 : pcs .rings := by assumption)
    (hp5 : pcs .irq := by assumption) (hp6 : pcs .poison := by assumption) :
    OkO pcs b0 (execFltLoadTransferDone b els s) := by
  delta execFltLoadTransferDone
  repeat' first
    | with_reducible assumption | extract_lets | intro _ | with_reducible apply okO_next
    | with_reducible apply okO_ite | with_reducible apply ok_ite | with_reducible apply State.fltRefuse_ok
    | with_reducible apply State.smearElems_ok | with_reducible apply State.modCache_ok
    | with_reducible apply State.writeElems_ok | with_reducible apply State.setFlt_ok | split
    | dsimp +zetaDelta -zeta only

theorem State.keepList_ok {pcs : Piece → Prop} {b0 : State} (s : State) (b : Nat) (hok : Ok pcs b0 s)
    (hp0 : pcs .lanes := by assumption) :
    Ok pcs b0 (State.keepList s b) := by
  delta State.keepList
  repeat' first
    | with_reducible assumption | extract_lets | intro _ | with_reducible apply ok_ite
    | with_reducible apply State.modLane_ok | with_reducible apply ok_foldl | with_reducible apply ok2_foldl
    | with_reducible apply ok_foldl2 | with_reducible apply ok_ite2 | with_reducible apply ok1_foldl
    | with_reducible apply ok_foldl1 | with_reducible apply ok_ite1 | split | dsimp +zetaDelta -zeta only

theorem execFltLoadCommit_ok {pcs : Piece → Prop} {b0 : State} (b : FltCommit) (s : State) (hok : Ok pcs b0 s)
    (hp0 : pcs .regs := by assumption) (hp1 : pcs .host := by assumption) (hp2 : pcs .lanes := by assumption)
    (hp3 : pcs .filters := by assumption) (hp4 : pcs .rings := by assumption) (hp5 : pcs .irq := by assumption) :
    OkO pcs b0 (execFltLoadCommit b s) := by
  delta execFltLoadCommit
  repeat' first
    | with_reducible assumption | extract_lets | intro _ | with_reducible apply okO_next
    | with_reducible apply okO_ite | with_reducible apply ok_ite | with_reducible apply State.fltRefuse_ok
    | with_reducible apply State.keepList_ok | with_reducible apply State.setF_ok
    | with_reducible apply State.setB_ok | with_reducible apply State.modCache_ok
    | with_reducible apply State.setFlt_ok | with_reducible apply State.clamp_ok
    | with_reducible apply State.adminDone_ok | split | dsimp +zetaDelta -zeta only

theorem State.fltEmpty_ok {pcs : Piece → Prop} {b0 : State} (s : State) (b : Nat) (hok : Ok pcs b0 s)
    (hp0 : pcs .regs := by assumption) (hp1 : pcs .lanes := by assumption) (hp2 : pcs .filters := by assumption) :
    Ok pcs b0 (State.fltEmpty s b) := by
  delta State.fltEmpty
  repeat' first
    | with_reducible assumption | extract_lets | intro _ | with_reducible apply State.keepList_ok
    | with_reducible apply State.setF_ok | with_reducible apply State.setB_ok
    | with_reducible apply State.modFlt_ok | split | dsimp +zetaDelta -zeta only
end Sys2Proof.Machine
end

