-- ==== Sys2Proof/Laws/OkObj.lean ====
section
/-! SUPPORT. Message objects: every operation of Machine/Obj.lean keeps the queue and a sane state, and changes no
piece but the ones it names. -/
namespace Sys2Proof.Machine
set_option Elab.async false

theorem State.objPayload_ok {pcs : Piece → Prop} {b0 : State} (s : State) (q : Nat) (o : Nat) (bs : List Byte)
    (hok : Ok pcs b0 s) (hp0 : pcs .mem := by assumption) (hp1 : pcs .poison := by assumption) :
    Ok pcs b0 (State.objPayload s q o bs) := by
  delta State.objPayload
  repeat' first
    | with_reducible assumption | extract_lets | intro _ | with_reducible apply State.setObjWord_ok
    | with_reducible apply ok_foldl | with_reducible apply ok2_foldl | with_reducible apply ok_foldl2
    | with_reducible apply ok_ite2 | with_reducible apply ok1_foldl | with_reducible apply ok_foldl1
    | with_reducible apply ok_ite1 | split | dsimp +zetaDelta -zeta only

theorem State.objSeal_ok {pcs : Piece → Prop} {b0 : State} (s : State) (q : Nat) (o : Nat) (hok : Ok pcs b0 s)
    (hp0 : pcs .mem := by assumption) (hp1 : pcs .poison := by assumption) :
    Ok pcs b0 (State.objSeal s q o) := by
  delta State.objSeal
  repeat' first
    | with_reducible assumption | extract_lets | intro _ | with_reducible apply State.setObjWord_ok | split
    | dsimp +zetaDelta -zeta only

theorem State.objApply_ok {pcs : Piece → Prop} {b0 : State} (s : State) (q : Nat) (o : Nat) (x : Shadow)
    (count : Bool) (hok : Ok pcs b0 s) (hp0 : pcs .mem := by assumption) (hp1 : pcs .poison := by assumption) :
    Ok pcs b0 (State.objApply s q o x count) := by
  delta State.objApply
  repeat' first
    | with_reducible assumption | extract_lets | intro _ | with_reducible apply ok_ite
    | with_reducible apply State.setObjWord_ok | with_reducible apply State.objStamp_ok
    | with_reducible apply State.objPayload_ok | with_reducible apply State.setObjBits_ok
    | with_reducible apply State.objSeal_ok | with_reducible apply State.objCount_ok | split
    | dsimp +zetaDelta -zeta only

theorem State.objReceive_ok {pcs : Piece → Prop} {b0 : State} (s : State) (b : Nat) (o : Nat) (fr : Frame)
    (t : Stamp) (hok : Ok pcs b0 s) (hp0 : pcs .regs := by assumption) (hp1 : pcs .mem := by assumption)
    (hp2 : pcs .objs := by assumption) (hp3 : pcs .irq := by assumption) (hp4 : pcs .poison := by assumption) :
    Ok2 pcs b0 (State.objReceive s b o fr t) := by
  delta State.objReceive
  repeat' first
    | with_reducible assumption | extract_lets | intro _ | with_reducible apply ok2_ite
    | with_reducible apply ok_ite | with_reducible apply State.objCount_ok
    | with_reducible apply State.objFrames_ok | with_reducible apply State.setObj_ok
    | with_reducible apply State.objApply_ok | with_reducible apply State.objEvent_ok | split
    | with_reducible apply ok2_mk | dsimp +zetaDelta -zeta only

theorem State.objReceive_ok' {pcs : Piece → Prop} {b0 : State} (s : State) (b : Nat) (o : Nat) (fr : Frame)
    (t : Stamp) (hok : Ok pcs b0 s) (hp0 : pcs .regs := by assumption) (hp1 : pcs .mem := by assumption)
    (hp2 : pcs .objs := by assumption) (hp3 : pcs .irq := by assumption) (hp4 : pcs .poison := by assumption) :
    Ok pcs b0 (State.objReceive s b o fr t).2 := State.objReceive_ok s b o fr t hok hp0 hp1 hp2 hp3 hp4

theorem execObjectWord0Read_ok {pcs : Piece → Prop} {b0 : State} (f : Fn) (q : QuadId) (o : ObjId) (s : State)
    (hok : Ok pcs b0 s) (hp0 : pcs .free := by assumption) (hp1 : pcs .objs := by assumption) :
    OkO pcs b0 (execObjectWord0Read f q o s) := by
  delta execObjectWord0Read
  repeat' first
    | with_reducible assumption | extract_lets | intro _ | with_reducible apply okO_next
    | with_reducible apply okO_ite | with_reducible apply ok_ite | with_reducible apply State.withReadData_ok
    | with_reducible apply State.setObj_ok | split | dsimp +zetaDelta -zeta only

theorem State.objLockEnd_ok {pcs : Piece → Prop} {b0 : State} (s : State) (q : Nat) (o : Nat) (hok : Ok pcs b0 s)
    (hp0 : pcs .mem := by assumption) (hp1 : pcs .objs := by assumption) (hp2 : pcs .poison := by assumption) :
    Ok pcs b0 (State.objLockEnd s q o) := by
  delta State.objLockEnd
  repeat' first
    | with_reducible assumption | extract_lets | intro _ | with_reducible apply State.setObj_ok
    | with_reducible apply State.objApply_ok | with_reducible apply State.setObjBits_ok | split
    | dsimp +zetaDelta -zeta only

theorem execObjLockTimeout_ok {pcs : Piece → Prop} {b0 : State} (q : QuadId) (o : ObjId) (s : State)
    (hok : Ok pcs b0 s) (hp0 : pcs .mem := by assumption) (hp1 : pcs .objs := by assumption)
    (hp2 : pcs .poison := by assumption) :
    OkO pcs b0 (execObjLockTimeout q o s) := by
  delta execObjLockTimeout
  repeat' first
    | with_reducible assumption | extract_lets | intro _ | with_reducible apply okO_next
    | with_reducible apply okO_ite | with_reducible apply ok_ite | with_reducible apply State.objLockEnd_ok | split
    | dsimp +zetaDelta -zeta only

theorem execObjectWrite_ok {pcs : Piece → Prop} {b0 : State} (f : Fn) (q : QuadId) (o : ObjId) (w : Fin 32)
    (v : Word) (be : BitVec 4) (s : State) (hok : Ok pcs b0 s) (hp0 : pcs .regs := by assumption)
    (hp1 : pcs .objs := by assumption) :
    OkO pcs b0 (execObjectWrite f q o w v be s) := by
  delta execObjectWrite
  repeat' first
    | with_reducible assumption | extract_lets | intro _ | with_reducible apply okO_next
    | with_reducible apply okO_ite | with_reducible apply ok_ite | with_reducible apply State.clamp_ok
    | with_reducible apply State.setObj_ok | split | dsimp +zetaDelta -zeta only

theorem State.objPutStaged_ok {pcs : Piece → Prop} {b0 : State} (s : State) (q : Nat) (o : Nat) (k : ObjLock)
    (hok : Ok pcs b0 s) (hp0 : pcs .mem := by assumption) (hp1 : pcs .poison := by assumption) :
    Ok pcs b0 (State.objPutStaged s q o k) := by
  delta State.objPutStaged
  repeat' first
    | with_reducible assumption | extract_lets | intro _ | with_reducible apply ok_ite
    | with_reducible apply State.setObjBits_ok | with_reducible apply State.setObjWord_ok
    | with_reducible apply ok_foldl | with_reducible apply ok2_foldl | with_reducible apply ok_foldl2
    | with_reducible apply ok_ite2 | with_reducible apply ok1_foldl | with_reducible apply ok_foldl1
    | with_reducible apply ok_ite1 | split | dsimp +zetaDelta -zeta only

theorem State.objClamp_ok {pcs : Piece → Prop} {b0 : State} (s : State) (q : Nat) (o : Nat) (k : ObjLock)
    (en0 : Bool) (bus0 : Nat) (hok : Ok pcs b0 s) (hp0 : pcs .mem := by assumption)
    (hp1 : pcs .poison := by assumption) :
    Ok1 pcs b0 (State.objClamp s q o k en0 bus0) := by
  delta State.objClamp
  repeat' first
    | with_reducible assumption | extract_lets | intro _ | with_reducible apply ok1_ite
    | with_reducible apply ok_ite | with_reducible apply State.setObjBits_ok | split | with_reducible apply ok1_mk
    | dsimp +zetaDelta -zeta only

theorem State.objClamp_ok' {pcs : Piece → Prop} {b0 : State} (s : State) (q : Nat) (o : Nat) (k : ObjLock)
    (en0 : Bool) (bus0 : Nat) (hok : Ok pcs b0 s) (hp0 : pcs .mem := by assumption)
    (hp1 : pcs .poison := by assumption) :
    Ok pcs b0 (State.objClamp s q o k en0 bus0).1 := State.objClamp_ok s q o k en0 bus0 hok hp0 hp1

theorem State.objEnd_ok {pcs : Piece → Prop} {b0 : State} (s : State) (q : Nat) (o : Nat) (irq : Bool)
    (hok : Ok pcs b0 s) (hp0 : pcs .regs := by assumption) (hp1 : pcs .mem := by assumption)
    (hp2 : pcs .host := by assumption) (hp3 : pcs .tx := by assumption) (hp4 : pcs .objs := by assumption)
    (hp5 : pcs .firn := by assumption) (hp6 : pcs .rings := by assumption) (hp7 : pcs .irq := by assumption)
    (hp8 : pcs .poison := by assumption) :
    Ok pcs b0 (State.objEnd s q o irq) := by
  delta State.objEnd
  repeat' first
    | with_reducible assumption | extract_lets | intro _ | with_reducible apply State.modObj_ok
    | with_reducible apply State.modEntry_ok | with_reducible apply State.markEntry_ok | split
    | dsimp +zetaDelta -zeta only

theorem State.objRenew_ok {pcs : Piece → Prop} {b0 : State} (s : State) (q : Nat) (o : Nat) (hok : Ok pcs b0 s)
    (hp0 : pcs .regs := by assumption) (hp1 : pcs .mem := by assumption) (hp2 : pcs .host := by assumption)
    (hp3 : pcs .tx := by assumption) (hp4 : pcs .firn := by assumption) (hp5 : pcs .rings := by assumption)
    (hp6 : pcs .irq := by assumption) (hp7 : pcs .poison := by assumption) :
    Ok pcs b0 (State.objRenew s q o) := by
  delta State.objRenew
  repeat' first
    | with_reducible assumption | extract_lets | intro _ | with_reducible apply ok_ite
    | with_reducible apply State.fail_ok | with_reducible apply State.modEntry_ok
    | with_reducible apply State.expireEntry_ok | split | dsimp +zetaDelta -zeta only

theorem State.objStart_ok {pcs : Piece → Prop} {b0 : State} (s : State) (q : Nat) (o : Nat) (hok : Ok pcs b0 s)
    (hp0 : pcs .regs := by assumption) (hp1 : pcs .mem := by assumption) (hp2 : pcs .host := by assumption)
    (hp3 : pcs .tx := by assumption) (hp4 : pcs .objs := by assumption) (hp5 : pcs .firn := by assumption)
    (hp6 : pcs .rings := by assumption) (hp7 : pcs .irq := by assumption) (hp8 : pcs .poison := by assumption) :
    Ok pcs b0 (State.objStart s q o) := by
  delta State.objStart
  repeat' first
    | with_reducible assumption | extract_lets | intro _ | with_reducible apply State.modObj_ok
    | with_reducible apply State.objInstance_ok | split | dsimp +zetaDelta -zeta only

theorem State.objCancel_ok {pcs : Piece → Prop} {b0 : State} (s : State) (q : Nat) (o : Nat) (hok : Ok pcs b0 s)
    (hp0 : pcs .regs := by assumption) (hp1 : pcs .mem := by assumption) (hp2 : pcs .host := by assumption)
    (hp3 : pcs .tx := by assumption) (hp4 : pcs .firn := by assumption) (hp5 : pcs .rings := by assumption)
    (hp6 : pcs .irq := by assumption) (hp7 : pcs .poison := by assumption) :
    Ok pcs b0 (State.objCancel s q o) := by
  delta State.objCancel
  repeat' first
    | with_reducible assumption | extract_lets | intro _ | with_reducible apply State.expireDue_ok
    | with_reducible apply State.markEntry_ok | split | dsimp +zetaDelta -zeta only

theorem State.objMove_ok {pcs : Piece → Prop} {b0 : State} (s : State) (q : Nat) (o : Nat) (b : Nat)
    (hok : Ok pcs b0 s) (hp0 : pcs .objs := by assumption) :
    Ok pcs b0 (State.objMove s q o b) := by
  delta State.objMove
  repeat' first
    | with_reducible assumption | extract_lets | intro _ | with_reducible apply State.modObj_ok | split
    | dsimp +zetaDelta -zeta only

theorem State.objPublish_ok {pcs : Piece → Prop} {b0 : State} (s : State) (q : Nat) (o : Nat) (f : Nat)
    (k : ObjLock) (hok : Ok pcs b0 s) (hp0 : pcs .regs := by assumption) (hp1 : pcs .mem := by assumption)
    (hp2 : pcs .host := by assumption) (hp3 : pcs .tx := by assumption) (hp4 : pcs .objs := by assumption)
    (hp5 : pcs .firn := by assumption) (hp6 : pcs .rings := by assumption) (hp7 : pcs .irq := by assumption)
    (hp8 : pcs .poison := by assumption) :
    Ok pcs b0 (State.objPublish s q o f k) := by
  delta State.objPublish
  repeat' first
    | with_reducible assumption | extract_lets | intro _ | with_reducible apply ok_ite
    | with_reducible apply State.objPutStaged_ok | with_reducible apply State.objClamp_ok
    | with_reducible apply State.objClamp_ok' | with_reducible apply State.clamp_ok
    | with_reducible apply State.objSeal_ok | with_reducible apply State.setObjWord_ok
    | with_reducible apply State.objRenew_ok | with_reducible apply State.objEnd_ok
    | with_reducible apply State.objMove_ok | with_reducible apply State.objCancel_ok
    | with_reducible apply State.objStart_ok | with_reducible apply State.modObj_ok
    | with_reducible apply State.setObjBits_ok | with_reducible apply State.objInstance_ok
    | (refine ok1_eq (by with_reducible assumption) ?_) | split | dsimp +zetaDelta -zeta only

theorem State.objRelease_ok {pcs : Piece → Prop} {b0 : State} (s : State) (q : Nat) (o : Nat) (f : Nat)
    (k : ObjLock) (hok : Ok pcs b0 s) (hp0 : pcs .regs := by assumption) (hp1 : pcs .mem := by assumption)
    (hp2 : pcs .host := by assumption) (hp3 : pcs .tx := by assumption) (hp4 : pcs .objs := by assumption)
    (hp5 : pcs .firn := by assumption) (hp6 : pcs .rings := by assumption) (hp7 : pcs .irq := by assumption)
    (hp8 : pcs .poison := by assumption) :
    Ok pcs b0 (State.objRelease s q o f k) := by
  delta State.objRelease
  repeat' first
    | with_reducible assumption | extract_lets | intro _ | with_reducible apply ok_ite
    | with_reducible apply State.setObj_ok | with_reducible apply State.objApply_ok
    | with_reducible apply State.setObjBits_ok | with_reducible apply State.objPublish_ok | split
    | dsimp +zetaDelta -zeta only

theorem execObjectRelease_ok {pcs : Piece → Prop} {b0 : State} (f : Fn) (q : QuadId) (o : ObjId) (s : State)
    (hok : Ok pcs b0 s) (hp0 : pcs .free := by assumption) (hp1 : pcs .regs := by assumption)
    (hp2 : pcs .mem := by assumption) (hp3 : pcs .host := by assumption) (hp4 : pcs .tx := by assumption)
    (hp5 : pcs .objs := by assumption) (hp6 : pcs .firn := by assumption) (hp7 : pcs .rings := by assumption)
    (hp8 : pcs .irq := by assumption) (hp9 : pcs .poison := by assumption) :
    OkO pcs b0 (execObjectRelease f q o s) := by
  delta execObjectRelease
  repeat' first
    | with_reducible assumption | extract_lets | intro _ | with_reducible apply okO_next
    | with_reducible apply okO_ite | with_reducible apply ok_ite | with_reducible apply State.withReadData_ok
    | with_reducible apply State.objRelease_ok | split | dsimp +zetaDelta -zeta only

theorem execPeriodicRelease_ok {pcs : Piece → Prop} {b0 : State} (q : QuadId) (o : ObjId) (s : State)
    (hok : Ok pcs b0 s) (hp0 : pcs .regs := by assumption) (hp1 : pcs .mem := by assumption)
    (hp2 : pcs .host := by assumption) (hp3 : pcs .tx := by assumption) (hp4 : pcs .objs := by assumption)
    (hp5 : pcs .firn := by assumption) (hp6 : pcs .rings := by assumption) (hp7 : pcs .irq := by assumption)
    (hp8 : pcs .poison := by assumption) :
    OkO pcs b0 (execPeriodicRelease q o s) := by
  delta execPeriodicRelease
  repeat' first
    | with_reducible assumption | extract_lets | intro _ | with_reducible apply okO_next
    | with_reducible apply okO_ite | with_reducible apply ok_ite | with_reducible apply State.modObj_ok
    | with_reducible apply State.objInstance_ok | split | dsimp +zetaDelta -zeta only

theorem State.objRebind_ok {pcs : Piece → Prop} {b0 : State} (s : State) (q : Nat) (o : Nat) (hok : Ok pcs b0 s)
    (hp0 : pcs .mem := by assumption) (hp1 : pcs .objs := by assumption) (hp2 : pcs .poison := by assumption) :
    Ok pcs b0 (State.objRebind s q o) := by
  delta State.objRebind
  repeat' first
    | with_reducible assumption | extract_lets | intro _ | with_reducible apply ok_ite
    | with_reducible apply State.setObjBits_ok | with_reducible apply State.modObj_ok
    | with_reducible apply State.objMove_ok | split | dsimp +zetaDelta -zeta only

theorem State.resetRegs_ok {pcs : Piece → Prop} {b0 : State} (s : State) (a1 : List Nat) (hok : Ok pcs b0 s)
    (hp0 : pcs .regs := by assumption) :
    Ok pcs b0 (State.resetRegs s a1) := by
  induction a1 generalizing s <;> unfold State.resetRegs
  all_goals repeat' first
    | apply_assumption | extract_lets | intro _ | with_reducible apply State.setReg_ok | split
    | dsimp +zetaDelta -zeta only

theorem State.enterPair_ok {pcs : Piece → Prop} {b0 : State} (s : State) (q : Nat) (hok : Ok pcs b0 s)
    (hp0 : pcs .regs := by assumption) (hp1 : pcs .filters := by assumption) :
    Ok pcs b0 (State.enterPair s q) := by
  delta State.enterPair
  repeat' first
    | with_reducible assumption | extract_lets | intro _ | with_reducible apply State.resetRegs_ok
    | with_reducible apply State.setF_ok | with_reducible apply State.modFlt_ok | with_reducible apply ok_foldl
    | with_reducible apply ok2_foldl | with_reducible apply ok_foldl2 | with_reducible apply ok_ite2
    | with_reducible apply ok1_foldl | with_reducible apply ok_foldl1 | with_reducible apply ok_ite1 | split
    | dsimp +zetaDelta -zeta only

theorem State.modeWrite_ok {pcs : Piece → Prop} {b0 : State} (s : State) (w : Agent) (q : Nat) (mode : Nat)
    (hok : Ok pcs b0 s) (hp0 : pcs .regs := by assumption) (hp1 : pcs .mem := by assumption)
    (hp2 : pcs .objs := by assumption) (hp3 : pcs .filters := by assumption) (hp4 : pcs .poison := by assumption) :
    Ok pcs b0 (State.modeWrite s w q mode) := by
  delta State.modeWrite
  repeat' first
    | with_reducible assumption | extract_lets | intro _ | with_reducible apply ok_ite
    | with_reducible apply State.clampBy_ok | with_reducible apply State.setF_ok
    | with_reducible apply State.enterPair_ok | with_reducible apply State.objRebind_ok
    | with_reducible apply ok_foldl | with_reducible apply ok2_foldl | with_reducible apply ok_foldl2
    | with_reducible apply ok_ite2 | with_reducible apply ok1_foldl | with_reducible apply ok_foldl1
    | with_reducible apply ok_ite1 | split | dsimp +zetaDelta -zeta only

theorem execQuadModeWrite_ok {pcs : Piece → Prop} {b0 : State} (f : Fn) (q : QuadId) (mode : BitVec 2) (s : State)
    (hok : Ok pcs b0 s) (hp0 : pcs .regs := by assumption) (hp1 : pcs .mem := by assumption)
    (hp2 : pcs .objs := by assumption) (hp3 : pcs .filters := by assumption) (hp4 : pcs .poison := by assumption) :
    OkO pcs b0 (execQuadModeWrite f q mode s) := by
  delta execQuadModeWrite
  repeat' first
    | with_reducible assumption | extract_lets | intro _ | with_reducible apply okO_next
    | with_reducible apply okO_ite | with_reducible apply ok_ite | with_reducible apply State.modeWrite_ok | split
    | dsimp +zetaDelta -zeta only

theorem State.gateWrite_ok {pcs : Piece → Prop} {b0 : State} (s : State) (w : Agent) (q : Nat) (gate : Bool)
    (hok : Ok pcs b0 s) (hp0 : pcs .regs := by assumption) :
    Ok pcs b0 (State.gateWrite s w q gate) := by
  delta State.gateWrite
  repeat' first
    | with_reducible assumption | extract_lets | intro _ | with_reducible apply ok_ite
    | with_reducible apply State.setB_ok | with_reducible apply State.clampBy_ok | split
    | dsimp +zetaDelta -zeta only

theorem execQuadGateWrite_ok {pcs : Piece → Prop} {b0 : State} (f : Fn) (q : QuadId) (gate : Bool) (s : State)
    (hok : Ok pcs b0 s) (hp0 : pcs .regs := by assumption) :
    OkO pcs b0 (execQuadGateWrite f q gate s) := by
  delta execQuadGateWrite
  repeat' first
    | with_reducible assumption | extract_lets | intro _ | with_reducible apply okO_next
    | with_reducible apply okO_ite | with_reducible apply ok_ite | with_reducible apply State.gateWrite_ok | split
    | dsimp +zetaDelta -zeta only

theorem execQuadGatedDone_ok {pcs : Piece → Prop} {b0 : State} (q : QuadId) (s : State) (hok : Ok pcs b0 s)
    (hp0 : pcs .regs := by assumption) :
    OkO pcs b0 (execQuadGatedDone q s) := by
  delta execQuadGatedDone
  repeat' first
    | with_reducible assumption | extract_lets | intro _ | with_reducible apply okO_next
    | with_reducible apply okO_ite | with_reducible apply ok_ite | with_reducible apply State.setB_ok | split
    | dsimp +zetaDelta -zeta only

theorem execQuadUngateDone_ok {pcs : Piece → Prop} {b0 : State} (q : QuadId) (s : State) (hok : Ok pcs b0 s)
    (hp0 : pcs .regs := by assumption) (hp1 : pcs .filters := by assumption) (hp2 : pcs .irq := by assumption) :
    OkO pcs b0 (execQuadUngateDone q s) := by
  delta execQuadUngateDone
  repeat' first
    | with_reducible assumption | extract_lets | intro _ | with_reducible apply okO_next
    | with_reducible apply okO_ite | with_reducible apply ok_ite | with_reducible apply State.cacheReload_ok
    | with_reducible apply State.setB_ok | with_reducible apply State.raise_ok | with_reducible apply ok_foldl
    | with_reducible apply ok2_foldl | with_reducible apply ok_foldl2 | with_reducible apply ok_ite2
    | with_reducible apply ok1_foldl | with_reducible apply ok_foldl1 | with_reducible apply ok_ite1 | split
    | dsimp +zetaDelta -zeta only
end Sys2Proof.Machine
end

