-- ==== Sys2Proof/Laws/OkRoute.lean ====
section
/-! SUPPORT. The router: every operation of Machine/Route.lean keeps the queue and a sane state, and changes no
piece but the ones it names. -/
namespace Sys2Proof.Machine
set_option Elab.async false

theorem State.pathPort_ok {pcs : Piece → Prop} {b0 : State} (s : State) (d : Nat) (hok : Ok pcs b0 s)
    (hp0 : pcs .regs := by assumption) (hp1 : pcs .irq := by assumption) :
    Ok2 pcs b0 (State.pathPort s d) := by
  delta State.pathPort
  repeat' first
    | with_reducible assumption | extract_lets | intro _ | with_reducible apply ok2_ite
    | with_reducible apply ok_ite | with_reducible apply State.setB_ok | with_reducible apply State.raise_ok
    | split | with_reducible apply ok2_mk | dsimp +zetaDelta -zeta only

theorem State.pathPort_ok' {pcs : Piece → Prop} {b0 : State} (s : State) (d : Nat) (hok : Ok pcs b0 s)
    (hp0 : pcs .regs := by assumption) (hp1 : pcs .irq := by assumption) :
    Ok pcs b0 (State.pathPort s d).2 := State.pathPort_ok s d hok hp0 hp1

theorem State.dropRec_ok {pcs : Piece → Prop} {b0 : State} (s : State) (k : Look) (out : Nat) (kind : Nat) (q : Nat)
    (hok : Ok pcs b0 s) (hp0 : pcs .free := by assumption) (hp1 : pcs .regs := by assumption)
    (hp2 : pcs .mem := by assumption) (hp3 : pcs .col := by assumption) (hp4 : pcs .firn := by assumption)
    (hp5 : pcs .rings := by assumption) (hp6 : pcs .irq := by assumption) (hp7 : pcs .mor := by assumption)
    (hp8 : pcs .poison := by assumption) :
    Ok pcs b0 (State.dropRec s k out kind q) := by
  delta State.dropRec
  repeat' first
    | with_reducible assumption | extract_lets | intro _ | with_reducible apply State.morDrop_ok | split
    | dsimp +zetaDelta -zeta only

theorem State.noRoute_ok {pcs : Piece → Prop} {b0 : State} (s : State) (k : Look) (out : Option Nat)
    (hok : Ok pcs b0 s) (hp0 : pcs .free := by assumption) (hp1 : pcs .regs := by assumption)
    (hp2 : pcs .mem := by assumption) (hp3 : pcs .col := by assumption) (hp4 : pcs .firn := by assumption)
    (hp5 : pcs .rings := by assumption) (hp6 : pcs .irq := by assumption) (hp7 : pcs .mor := by assumption)
    (hp8 : pcs .poison := by assumption) :
    Ok pcs b0 (State.noRoute s k out) := by
  delta State.noRoute
  repeat' first
    | with_reducible assumption | extract_lets | intro _ | with_reducible apply State.satAdd_ok
    | with_reducible apply State.dropRec_ok | with_reducible apply State.drawWord_ok
    | with_reducible apply State.drawWord_ok' | (refine ok2_eq (by with_reducible assumption) ?_) | split
    | dsimp +zetaDelta -zeta only

theorem State.deletedDrop_ok {pcs : Piece → Prop} {b0 : State} (s : State) (q : Nat) (hok : Ok pcs b0 s)
    (hp0 : pcs .rings := by assumption) :
    Ok pcs b0 (State.deletedDrop s q) := by
  delta State.deletedDrop
  repeat' first
    | with_reducible assumption | extract_lets | intro _ | with_reducible apply ok_ite
    | with_reducible apply State.modCq_ok | split | dsimp +zetaDelta -zeta only

theorem State.hopLane_ok {pcs : Piece → Prop} {b0 : State} (s : State) (k : Look) (b : Nat) (hok : Ok pcs b0 s)
    (hp0 : pcs .free := by assumption) (hp1 : pcs .regs := by assumption) (hp2 : pcs .mem := by assumption)
    (hp3 : pcs .col := by assumption) (hp4 : pcs .firn := by assumption) (hp5 : pcs .rings := by assumption)
    (hp6 : pcs .irq := by assumption) (hp7 : pcs .mor := by assumption) (hp8 : pcs .poison := by assumption) :
    Ok2 pcs b0 (State.hopLane s k b) := by
  delta State.hopLane
  repeat' first
    | with_reducible assumption | extract_lets | intro _ | with_reducible apply ok2_ite
    | with_reducible apply ok_ite | with_reducible apply State.noRoute_ok | with_reducible apply State.satAdd_ok
    | with_reducible apply State.dropRec_ok | split | with_reducible apply ok2_mk | dsimp +zetaDelta -zeta only

theorem State.hopLane_ok' {pcs : Piece → Prop} {b0 : State} (s : State) (k : Look) (b : Nat) (hok : Ok pcs b0 s)
    (hp0 : pcs .free := by assumption) (hp1 : pcs .regs := by assumption) (hp2 : pcs .mem := by assumption)
    (hp3 : pcs .col := by assumption) (hp4 : pcs .firn := by assumption) (hp5 : pcs .rings := by assumption)
    (hp6 : pcs .irq := by assumption) (hp7 : pcs .mor := by assumption) (hp8 : pcs .poison := by assumption) :
    Ok pcs b0 (State.hopLane s k b).2 := State.hopLane_ok s k b hok hp0 hp1 hp2 hp3 hp4 hp5 hp6 hp7 hp8

theorem State.hopRemote_ok {pcs : Piece → Prop} {b0 : State} (s : State) (k : Look) (a : Nat) (hok : Ok pcs b0 s)
    (hp0 : pcs .free := by assumption) (hp1 : pcs .regs := by assumption) (hp2 : pcs .mem := by assumption)
    (hp3 : pcs .col := by assumption) (hp4 : pcs .firn := by assumption) (hp5 : pcs .rings := by assumption)
    (hp6 : pcs .irq := by assumption) (hp7 : pcs .mor := by assumption) (hp8 : pcs .poison := by assumption) :
    Ok2 pcs b0 (State.hopRemote s k a) := by
  delta State.hopRemote
  repeat' first
    | with_reducible assumption | extract_lets | intro _ | with_reducible apply ok2_ite
    | with_reducible apply ok_ite | with_reducible apply State.hopLane_ok | with_reducible apply State.hopLane_ok'
    | with_reducible apply State.pathPort_ok | with_reducible apply State.pathPort_ok'
    | with_reducible apply State.satAdd_ok | (refine ok2_eq (by with_reducible assumption) ?_) | split
    | with_reducible apply ok2_mk | dsimp +zetaDelta -zeta only

theorem State.hopRemote_ok' {pcs : Piece → Prop} {b0 : State} (s : State) (k : Look) (a : Nat) (hok : Ok pcs b0 s)
    (hp0 : pcs .free := by assumption) (hp1 : pcs .regs := by assumption) (hp2 : pcs .mem := by assumption)
    (hp3 : pcs .col := by assumption) (hp4 : pcs .firn := by assumption) (hp5 : pcs .rings := by assumption)
    (hp6 : pcs .irq := by assumption) (hp7 : pcs .mor := by assumption) (hp8 : pcs .poison := by assumption) :
    Ok pcs b0 (State.hopRemote s k a).2 := State.hopRemote_ok s k a hok hp0 hp1 hp2 hp3 hp4 hp5 hp6 hp7 hp8

theorem State.hopRing_ok {pcs : Piece → Prop} {b0 : State} (s : State) (k : Look) (rings : List (Nat × Nat × Nat))
    (q : Nat) (hok : Ok pcs b0 s) (hp0 : pcs .free := by assumption) (hp1 : pcs .regs := by assumption)
    (hp2 : pcs .mem := by assumption) (hp3 : pcs .col := by assumption) (hp4 : pcs .firn := by assumption)
    (hp5 : pcs .rings := by assumption) (hp6 : pcs .irq := by assumption) (hp7 : pcs .mor := by assumption)
    (hp8 : pcs .poison := by assumption) :
    Ok2 pcs b0 (State.hopRing s k rings q) := by
  delta State.hopRing
  repeat' first
    | with_reducible assumption | extract_lets | intro _ | with_reducible apply ok2_ite
    | with_reducible apply State.deletedDrop_ok | with_reducible apply State.noRoute_ok | split
    | with_reducible apply ok2_mk | dsimp +zetaDelta -zeta only

theorem State.hopRing_ok' {pcs : Piece → Prop} {b0 : State} (s : State) (k : Look) (rings : List (Nat × Nat × Nat))
    (q : Nat) (hok : Ok pcs b0 s) (hp0 : pcs .free := by assumption) (hp1 : pcs .regs := by assumption)
    (hp2 : pcs .mem := by assumption) (hp3 : pcs .col := by assumption) (hp4 : pcs .firn := by assumption)
    (hp5 : pcs .rings := by assumption) (hp6 : pcs .irq := by assumption) (hp7 : pcs .mor := by assumption)
    (hp8 : pcs .poison := by assumption) :
    Ok pcs b0 (State.hopRing s k rings q).2 := State.hopRing_ok s k rings q hok hp0 hp1 hp2 hp3 hp4 hp5 hp6 hp7 hp8

theorem State.hopMember_ok {pcs : Piece → Prop} {b0 : State} (s : State) (k : Look) (rings : List (Nat × Nat × Nat))
    (w : Word) (hok : Ok pcs b0 s) (hp0 : pcs .free := by assumption) (hp1 : pcs .regs := by assumption)
    (hp2 : pcs .mem := by assumption) (hp3 : pcs .col := by assumption) (hp4 : pcs .firn := by assumption)
    (hp5 : pcs .rings := by assumption) (hp6 : pcs .irq := by assumption) (hp7 : pcs .mor := by assumption)
    (hp8 : pcs .poison := by assumption) :
    Ok2 pcs b0 (State.hopMember s k rings w) := by
  delta State.hopMember
  repeat' first
    | with_reducible assumption | extract_lets | intro _ | with_reducible apply ok2_ite
    | with_reducible apply ok_ite | with_reducible apply State.hopLane_ok | with_reducible apply State.hopLane_ok'
    | with_reducible apply State.hopRemote_ok | with_reducible apply State.hopRemote_ok'
    | with_reducible apply State.hopRing_ok | with_reducible apply State.hopRing_ok'
    | (refine ok2_eq (by with_reducible assumption) ?_) | split | with_reducible apply ok2_mk
    | dsimp +zetaDelta -zeta only

theorem State.hopMember_ok' {pcs : Piece → Prop} {b0 : State} (s : State) (k : Look) (rings : List
    (Nat × Nat × Nat)) (w : Word) (hok : Ok pcs b0 s) (hp0 : pcs .free := by assumption)
    (hp1 : pcs .regs := by assumption) (hp2 : pcs .mem := by assumption) (hp3 : pcs .col := by assumption)
    (hp4 : pcs .firn := by assumption) (hp5 : pcs .rings := by assumption) (hp6 : pcs .irq := by assumption)
    (hp7 : pcs .mor := by assumption) (hp8 : pcs .poison := by assumption) :
    Ok pcs b0 (State.hopMember s k rings w).2 := State.hopMember_ok s k rings w hok hp0 hp1 hp2 hp3 hp4 hp5 hp6 hp7 hp8

theorem State.hopMembers_ok {pcs : Piece → Prop} {b0 : State} (s : State) (k : Look) (rings : List
    (Nat × Nat × Nat)) (a3 : List Word) (hok : Ok pcs b0 s) (hp0 : pcs .free := by assumption)
    (hp1 : pcs .regs := by assumption) (hp2 : pcs .mem := by assumption) (hp3 : pcs .col := by assumption)
    (hp4 : pcs .firn := by assumption) (hp5 : pcs .rings := by assumption) (hp6 : pcs .irq := by assumption)
    (hp7 : pcs .mor := by assumption) (hp8 : pcs .poison := by assumption) :
    Ok2 pcs b0 (State.hopMembers s k rings a3) := by
  induction a3 generalizing s k rings <;> unfold State.hopMembers
  all_goals repeat' first
    | apply_assumption | extract_lets | intro _ | with_reducible apply ok2_ite
    | with_reducible apply State.hopMember_ok | with_reducible apply State.hopMember_ok'
    | (refine ok2_eq (by with_reducible assumption) ?_) | split | with_reducible apply ok2_mk
    | dsimp +zetaDelta -zeta only

theorem State.hopMembers_ok' {pcs : Piece → Prop} {b0 : State} (s : State) (k : Look) (rings : List
    (Nat × Nat × Nat)) (a3 : List Word) (hok : Ok pcs b0 s) (hp0 : pcs .free := by assumption)
    (hp1 : pcs .regs := by assumption) (hp2 : pcs .mem := by assumption) (hp3 : pcs .col := by assumption)
    (hp4 : pcs .firn := by assumption) (hp5 : pcs .rings := by assumption) (hp6 : pcs .irq := by assumption)
    (hp7 : pcs .mor := by assumption) (hp8 : pcs .poison := by assumption) :
    Ok pcs b0 (State.hopMembers s k rings a3).2 := State.hopMembers_ok s k rings a3 hok hp0 hp1 hp2 hp3 hp4 hp5 hp6 hp7 hp8

theorem State.hopsOf_ok {pcs : Piece → Prop} {b0 : State} (s : State) (k : Look) (r : Looked) (hok : Ok pcs b0 s)
    (hp0 : pcs .free := by assumption) (hp1 : pcs .regs := by assumption) (hp2 : pcs .mem := by assumption)
    (hp3 : pcs .col := by assumption) (hp4 : pcs .firn := by assumption) (hp5 : pcs .rings := by assumption)
    (hp6 : pcs .irq := by assumption) (hp7 : pcs .mor := by assumption) (hp8 : pcs .poison := by assumption) :
    Ok2 pcs b0 (State.hopsOf s k r) := by
  delta State.hopsOf
  repeat' first
    | with_reducible assumption | extract_lets | intro _ | with_reducible apply ok2_ite
    | with_reducible apply ok_ite | with_reducible apply State.noRoute_ok | with_reducible apply State.hopLane_ok
    | with_reducible apply State.hopLane_ok' | with_reducible apply State.hopRemote_ok
    | with_reducible apply State.hopRemote_ok' | with_reducible apply State.hopMembers_ok
    | with_reducible apply State.hopMembers_ok' | with_reducible apply State.hopRing_ok
    | with_reducible apply State.hopRing_ok' | (refine ok2_eq (by with_reducible assumption) ?_) | split
    | with_reducible apply ok2_mk | dsimp +zetaDelta -zeta only

theorem State.hopsOf_ok' {pcs : Piece → Prop} {b0 : State} (s : State) (k : Look) (r : Looked) (hok : Ok pcs b0 s)
    (hp0 : pcs .free := by assumption) (hp1 : pcs .regs := by assumption) (hp2 : pcs .mem := by assumption)
    (hp3 : pcs .col := by assumption) (hp4 : pcs .firn := by assumption) (hp5 : pcs .rings := by assumption)
    (hp6 : pcs .irq := by assumption) (hp7 : pcs .mor := by assumption) (hp8 : pcs .poison := by assumption) :
    Ok pcs b0 (State.hopsOf s k r).2 := State.hopsOf_ok s k r hok hp0 hp1 hp2 hp3 hp4 hp5 hp6 hp7 hp8

theorem State.admissionRecs_ok {pcs : Piece → Prop} {b0 : State} (s : State) (s0 : State)
    (put : State → OutReq → Nat → Nat → State) (n : Nat) (asked : List OutReq) (got : List OutReq)
    (hok : Ok pcs b0 s) (hok1 : Ok pcs b0 s0) (h_put : ∀ s x y z, Ok pcs b0 s → Ok pcs b0 (put s x y z))  :
    Ok pcs b0 (State.admissionRecs s s0 put n asked got) := by
  delta State.admissionRecs
  repeat' first
    | with_reducible assumption | extract_lets | intro _ | with_reducible apply ok_ite | with_reducible apply h_put
    | with_reducible apply ok_foldl | with_reducible apply ok2_foldl | with_reducible apply ok_foldl2
    | with_reducible apply ok_ite2 | with_reducible apply ok1_foldl | with_reducible apply ok_foldl1
    | with_reducible apply ok_ite1 | split | dsimp +zetaDelta -zeta only

theorem State.offerFrame_ok {pcs : Piece → Prop} {b0 : State} (s : State) (k : Look) (outs : List OutReq)
    (hok : Ok pcs b0 s) (hp0 : pcs .free := by assumption) (hp1 : pcs .regs := by assumption)
    (hp2 : pcs .mem := by assumption) (hp3 : pcs .col := by assumption) (hp4 : pcs .firn := by assumption)
    (hp5 : pcs .rings := by assumption) (hp6 : pcs .irq := by assumption) (hp7 : pcs .mor := by assumption)
    (hp8 : pcs .poison := by assumption) :
    Ok2 pcs b0 (State.offerFrame s k outs) := by
  delta State.offerFrame
  repeat' first
    | with_reducible assumption | extract_lets | intro _ | with_reducible apply ok2_ite
    | with_reducible apply State.takeIn_ok | with_reducible apply State.takeIn_ok'
    | with_reducible apply State.admissionRecs_ok | with_reducible apply State.dropRec_ok
    | (refine ok2_eq (by with_reducible assumption) ?_) | split | with_reducible apply ok2_mk
    | dsimp +zetaDelta -zeta only

theorem State.offerFrame_ok' {pcs : Piece → Prop} {b0 : State} (s : State) (k : Look) (outs : List OutReq)
    (hok : Ok pcs b0 s) (hp0 : pcs .free := by assumption) (hp1 : pcs .regs := by assumption)
    (hp2 : pcs .mem := by assumption) (hp3 : pcs .col := by assumption) (hp4 : pcs .firn := by assumption)
    (hp5 : pcs .rings := by assumption) (hp6 : pcs .irq := by assumption) (hp7 : pcs .mor := by assumption)
    (hp8 : pcs .poison := by assumption) :
    Ok pcs b0 (State.offerFrame s k outs).2 := State.offerFrame_ok s k outs hok hp0 hp1 hp2 hp3 hp4 hp5 hp6 hp7 hp8

theorem State.nextSeq_ok {pcs : Piece → Prop} {b0 : State} (s : State) (hok : Ok pcs b0 s)
    (hp0 : pcs .stack := by assumption) :
    Ok2 pcs b0 (State.nextSeq s) := by
  delta State.nextSeq
  repeat' first
    | with_reducible assumption | extract_lets | intro _ | with_reducible apply ok2_ite
    | with_reducible apply State.withStack_ok | split | with_reducible apply ok2_mk | dsimp +zetaDelta -zeta only

theorem State.nextSeq_ok' {pcs : Piece → Prop} {b0 : State} (s : State) (hok : Ok pcs b0 s)
    (hp0 : pcs .stack := by assumption) :
    Ok pcs b0 (State.nextSeq s).2 := State.nextSeq_ok s hok hp0

theorem State.stackData_ok {pcs : Piece → Prop} {b0 : State} (s : State) (k : Look) (addr : Nat) (hok : Ok pcs b0 s)
    (hp0 : pcs .stack := by assumption) :
    Ok2 pcs b0 (State.stackData s k addr) := by
  delta State.stackData
  repeat' first
    | with_reducible assumption | extract_lets | intro _ | with_reducible apply ok2_ite
    | with_reducible apply State.nextSeq_ok | with_reducible apply State.nextSeq_ok'
    | (refine ok2_eq (by with_reducible assumption) ?_) | split | with_reducible apply ok2_mk
    | dsimp +zetaDelta -zeta only

theorem State.stackData_ok' {pcs : Piece → Prop} {b0 : State} (s : State) (k : Look) (addr : Nat)
    (hok : Ok pcs b0 s) (hp0 : pcs .stack := by assumption) :
    Ok pcs b0 (State.stackData s k addr).2 := State.stackData_ok s k addr hok hp0

theorem State.stackCopies_ok {pcs : Piece → Prop} {b0 : State} (s : State) (k : Look) (fid : Nat) (hs : List Hop)
    (hok : Ok pcs b0 s) (hp0 : pcs .stack := by assumption) :
    Ok2 pcs b0 (State.stackCopies s k fid hs) := by
  induction hs generalizing s with
  | nil => exact hok
  | cons h hs ih =>
    cases h with
    | remote d a => unfold State.stackCopies; exact ih _ (State.stackData_ok _ _ _ hok)
    | _ => unfold State.stackCopies; exact ih _ hok

theorem State.stackCopies_ok' {pcs : Piece → Prop} {b0 : State} (s : State) (k : Look) (fid : Nat) (hs : List Hop)
    (hok : Ok pcs b0 s) (hp0 : pcs .stack := by assumption) :
    Ok pcs b0 (State.stackCopies s k fid hs).2 := State.stackCopies_ok s k fid hs hok hp0

theorem State.enqueueHops_ok {pcs : Piece → Prop} {b0 : State} (s : State) (k : Look) (laneB : Bool) (fid : Nat)
    (hops : List Hop) (o : OutReq) (hok : Ok pcs b0 s) (hp0 : pcs .col := by assumption)
    (hp1 : pcs .stack := by assumption) :
    Ok pcs b0 (State.enqueueHops s k laneB fid hops o) := by
  delta State.enqueueHops
  repeat' first
    | with_reducible assumption | extract_lets | intro _ | with_reducible apply ok_ite
    | with_reducible apply State.enqueue_ok | with_reducible apply State.stackCopies_ok
    | with_reducible apply State.stackCopies_ok' | (refine ok2_eq (by with_reducible assumption) ?_) | split
    | dsimp +zetaDelta -zeta only

theorem State.sendHops_ok {pcs : Piece → Prop} {b0 : State} (s : State) (k : Look) (laneB : Bool) (hops : List Hop)
    (hok : Ok pcs b0 s) (hp0 : pcs .free := by assumption) (hp1 : pcs .regs := by assumption)
    (hp2 : pcs .mem := by assumption) (hp3 : pcs .col := by assumption) (hp4 : pcs .firn := by assumption)
    (hp5 : pcs .rings := by assumption) (hp6 : pcs .irq := by assumption) (hp7 : pcs .mor := by assumption)
    (hp8 : pcs .stack := by assumption) (hp9 : pcs .poison := by assumption) :
    Ok pcs b0 (State.sendHops s k laneB hops) := by
  delta State.sendHops
  repeat' first
    | with_reducible assumption | extract_lets | intro _ | with_reducible apply State.offerFrame_ok
    | with_reducible apply State.offerFrame_ok' | with_reducible apply State.enqueueHops_ok
    | (refine ok2_eq (by with_reducible assumption) ?_) | exact ok2_snd (by with_reducible assumption)
    | with_reducible apply ok_foldl | with_reducible apply ok2_foldl | with_reducible apply ok_foldl2
    | with_reducible apply ok_ite2 | with_reducible apply ok1_foldl | with_reducible apply ok_foldl1
    | with_reducible apply ok_ite1 | split | dsimp +zetaDelta -zeta only

theorem State.forward_ok {pcs : Piece → Prop} {b0 : State} (s : State) (k : Look) (laneB : Bool) (n : Nat)
    (r : Looked) (hok : Ok pcs b0 s) (hp0 : pcs .free := by assumption) (hp1 : pcs .regs := by assumption)
    (hp2 : pcs .mem := by assumption) (hp3 : pcs .col := by assumption) (hp4 : pcs .firn := by assumption)
    (hp5 : pcs .rings := by assumption) (hp6 : pcs .irq := by assumption) (hp7 : pcs .mor := by assumption)
    (hp8 : pcs .stack := by assumption) (hp9 : pcs .poison := by assumption) (hp10 : pcs .engs := by assumption) :
    Ok pcs b0 (State.forward s k laneB n r) := by
  delta State.forward
  repeat' first
    | with_reducible assumption | extract_lets | intro _ | with_reducible apply ok_ite
    | with_reducible apply State.hopsOf_ok | with_reducible apply State.hopsOf_ok'
    | with_reducible apply State.sendHops_ok | with_reducible apply State.hookCall_ok
    | with_reducible apply State.satAdd_ok | (refine ok2_eq (by with_reducible assumption) ?_) | split
    | dsimp +zetaDelta -zeta only
end Sys2Proof.Machine
end

