-- ==== Sys2Proof/Laws/OkRecv.lean ====
section
/-! SUPPORT. Reception: every operation of Machine/Recv.lean keeps the queue and a sane state, and changes no
piece but the ones it names. -/
namespace Sys2Proof.Machine
set_option Elab.async false

theorem State.noTarget_ok {pcs : Piece → Prop} {b0 : State} (s : State) (b : Nat) (hok : Ok pcs b0 s)
    (hp0 : pcs .regs := by assumption) :
    Ok pcs b0 (State.noTarget s b) := by
  delta State.noTarget
  repeat' first
    | with_reducible assumption | extract_lets | intro _ | with_reducible apply State.satAdd_ok | split
    | dsimp +zetaDelta -zeta only

theorem State.routeLook_ok {pcs : Piece → Prop} {b0 : State} (s : State) (k : Look) (n : Nat)
    (looked : Option Looked) (hok : Ok pcs b0 s) (hp0 : pcs .regs := by assumption)
    (hp1 : pcs .firn := by assumption) :
    Ok2 pcs b0 (State.routeLook s k n looked) := by
  delta State.routeLook
  repeat' first
    | with_reducible assumption | extract_lets | intro _ | with_reducible apply ok2_ite
    | with_reducible apply ok_ite | with_reducible apply State.satAdd_ok | with_reducible apply State.meter_ok
    | with_reducible apply State.meter_ok' | (refine ok2_eq (by with_reducible assumption) ?_) | split
    | with_reducible apply ok2_mk | dsimp +zetaDelta -zeta only

theorem State.routeLook_ok' {pcs : Piece → Prop} {b0 : State} (s : State) (k : Look) (n : Nat)
    (looked : Option Looked) (hok : Ok pcs b0 s) (hp0 : pcs .regs := by assumption)
    (hp1 : pcs .firn := by assumption) :
    Ok pcs b0 (State.routeLook s k n looked).2 := State.routeLook_ok s k n looked hok hp0 hp1

theorem State.act_ok {pcs : Piece → Prop} {b0 : State} (s : State) (k : Look) (laneB : Bool) (a : Option
    (Nat × Nat)) (hok : Ok pcs b0 s) (hp0 : pcs .free := by assumption) (hp1 : pcs .regs := by assumption)
    (hp2 : pcs .mem := by assumption) (hp3 : pcs .objs := by assumption) (hp4 : pcs .col := by assumption)
    (hp5 : pcs .firn := by assumption) (hp6 : pcs .rings := by assumption) (hp7 : pcs .irq := by assumption)
    (hp8 : pcs .mor := by assumption) (hp9 : pcs .stack := by assumption) (hp10 : pcs .poison := by assumption) :
    Ok pcs b0 (State.act s k laneB a) := by
  delta State.act
  repeat' first
    | with_reducible assumption | extract_lets | intro _ | with_reducible apply ok_ite
    | with_reducible apply State.noTarget_ok | with_reducible apply State.deletedDrop_ok
    | with_reducible apply State.sendHops_ok | with_reducible apply State.objReceive_ok
    | with_reducible apply State.objReceive_ok' | with_reducible apply State.satAdd_ok
    | (refine ok2_eq (by with_reducible assumption) ?_) | split | dsimp +zetaDelta -zeta only

theorem State.acted_ok {pcs : Piece → Prop} {b0 : State} (s : State) (k : Look) (laneB : Bool) (a : Option
    (Nat × Nat)) (record : Bool) (looked : Option Looked) (hok : Ok pcs b0 s) (hp0 : pcs .free := by assumption)
    (hp1 : pcs .regs := by assumption) (hp2 : pcs .mem := by assumption) (hp3 : pcs .objs := by assumption)
    (hp4 : pcs .col := by assumption) (hp5 : pcs .firn := by assumption) (hp6 : pcs .rings := by assumption)
    (hp7 : pcs .irq := by assumption) (hp8 : pcs .mor := by assumption) (hp9 : pcs .stack := by assumption)
    (hp10 : pcs .poison := by assumption) (hp11 : pcs .engs := by assumption) :
    Ok pcs b0 (State.acted s k laneB a record looked) := by
  delta State.acted
  repeat' first
    | with_reducible assumption | extract_lets | intro _ | with_reducible apply State.routeLook_ok
    | with_reducible apply State.routeLook_ok' | with_reducible apply State.morRx_ok
    | with_reducible apply State.forward_ok | with_reducible apply State.act_ok
    | (refine ok2_eq (by with_reducible assumption) ?_) | split | dsimp +zetaDelta -zeta only

theorem State.hookDone_ok {pcs : Piece → Prop} {b0 : State} (s : State) (e : Nat) (c : HookCall) (r : Option
    (List Word)) (hok : Ok pcs b0 s) (hp0 : pcs .free := by assumption) (hp1 : pcs .regs := by assumption)
    (hp2 : pcs .mem := by assumption) (hp3 : pcs .objs := by assumption) (hp4 : pcs .col := by assumption)
    (hp5 : pcs .firn := by assumption) (hp6 : pcs .rings := by assumption) (hp7 : pcs .irq := by assumption)
    (hp8 : pcs .mor := by assumption) (hp9 : pcs .stack := by assumption) (hp10 : pcs .poison := by assumption)
    (hp11 : pcs .engs := by assumption) :
    Ok pcs b0 (State.hookDone s e c r) := by
  delta State.hookDone
  repeat' first
    | with_reducible assumption | extract_lets | intro _ | with_reducible apply ok_ite
    | with_reducible apply State.acted_ok | with_reducible apply State.sendHops_ok
    | with_reducible apply State.satAdd_ok | with_reducible apply State.tick_ok | split
    | dsimp +zetaDelta -zeta only

theorem State.hookDrop_ok {pcs : Piece → Prop} {b0 : State} (s : State) (e : Nat) (hok : Ok pcs b0 s)
    (hp0 : pcs .free := by assumption) (hp1 : pcs .regs := by assumption) (hp2 : pcs .mem := by assumption)
    (hp3 : pcs .objs := by assumption) (hp4 : pcs .col := by assumption) (hp5 : pcs .firn := by assumption)
    (hp6 : pcs .rings := by assumption) (hp7 : pcs .irq := by assumption) (hp8 : pcs .mor := by assumption)
    (hp9 : pcs .stack := by assumption) (hp10 : pcs .poison := by assumption) (hp11 : pcs .engs := by assumption) :
    Ok pcs b0 (State.hookDrop s e) :=
  ok_foldl (fun _ _ h => State.hookDone_ok _ _ _ _ h)
    (State.modEng_ok _ _ _ hok fun _ h => ⟨h.os, h.rs, fun _ hx => h.saved _ (List.mem_append_right _ hx)⟩)

theorem State.carryOut_ok {pcs : Piece → Prop} {b0 : State} (s : State) (l : Nat) (fr : Frame) (t : Stamp)
    (seq : Nat) (d : Decision) (hok : Ok pcs b0 s) (hp0 : pcs .free := by assumption)
    (hp1 : pcs .regs := by assumption) (hp2 : pcs .mem := by assumption) (hp3 : pcs .objs := by assumption)
    (hp4 : pcs .col := by assumption) (hp5 : pcs .firn := by assumption) (hp6 : pcs .rings := by assumption)
    (hp7 : pcs .irq := by assumption) (hp8 : pcs .mor := by assumption) (hp9 : pcs .stack := by assumption)
    (hp10 : pcs .poison := by assumption) (hp11 : pcs .engs := by assumption) :
    Ok pcs b0 (State.carryOut s l fr t seq d) := by
  delta State.carryOut
  repeat' first
    | with_reducible assumption | extract_lets | intro _ | with_reducible apply ok_ite
    | with_reducible apply State.satAdd_ok | with_reducible apply State.ingressMeter_ok
    | with_reducible apply State.ingressMeter_ok' | with_reducible apply State.acted_ok
    | with_reducible apply State.hookCall_ok | (refine ok2_eq (by with_reducible assumption) ?_) | split
    | dsimp +zetaDelta -zeta only

theorem State.guardSees_ok {pcs : Piece → Prop} {b0 : State} (s : State) (l : Nat) (g : Nat) (fr : Frame)
    (hok : Ok pcs b0 s) (hp0 : pcs .regs := by assumption) (hp1 : pcs .lanes := by assumption)
    (hp2 : pcs .irq := by assumption) (hp3 : pcs .poison := by assumption) :
    Ok2 pcs b0 (State.guardSees s l g fr) := by
  delta State.guardSees
  repeat' first
    | with_reducible assumption | extract_lets | intro _ | with_reducible apply ok2_ite
    | with_reducible apply ok_ite | with_reducible apply State.modLane_ok | with_reducible apply State.setB_ok
    | with_reducible apply State.violateNow_ok | split | with_reducible apply ok2_mk | dsimp +zetaDelta -zeta only

theorem State.guardSees_ok' {pcs : Piece → Prop} {b0 : State} (s : State) (l : Nat) (g : Nat) (fr : Frame)
    (hok : Ok pcs b0 s) (hp0 : pcs .regs := by assumption) (hp1 : pcs .lanes := by assumption)
    (hp2 : pcs .irq := by assumption) (hp3 : pcs .poison := by assumption) :
    Ok pcs b0 (State.guardSees s l g fr).2 := State.guardSees_ok s l g fr hok hp0 hp1 hp2 hp3

theorem State.guardsSee_ok {pcs : Piece → Prop} {b0 : State} (s : State) (l : Nat) (fr : Frame) (hok : Ok pcs b0 s)
    (hp0 : pcs .regs := by assumption) (hp1 : pcs .lanes := by assumption) (hp2 : pcs .irq := by assumption)
    (hp3 : pcs .poison := by assumption) :
    Ok2 pcs b0 (State.guardsSee s l fr) := by
  delta State.guardsSee
  repeat' first
    | with_reducible assumption | extract_lets | intro _ | with_reducible apply ok2_ite
    | with_reducible apply State.guardSees_ok | with_reducible apply State.guardSees_ok'
    | (refine ok2_eq (by with_reducible assumption) ?_) | exact ok2_snd (by with_reducible assumption)
    | with_reducible apply ok_foldl | with_reducible apply ok2_foldl | with_reducible apply ok_foldl2
    | with_reducible apply ok_ite2 | with_reducible apply ok1_foldl | with_reducible apply ok_foldl1
    | with_reducible apply ok_ite1 | split | with_reducible apply ok2_mk | dsimp +zetaDelta -zeta only

theorem State.guardsSee_ok' {pcs : Piece → Prop} {b0 : State} (s : State) (l : Nat) (fr : Frame) (hok : Ok pcs b0 s)
    (hp0 : pcs .regs := by assumption) (hp1 : pcs .lanes := by assumption) (hp2 : pcs .irq := by assumption)
    (hp3 : pcs .poison := by assumption) :
    Ok pcs b0 (State.guardsSee s l fr).2 := State.guardsSee_ok s l fr hok hp0 hp1 hp2 hp3

theorem State.openEnter_ok {pcs : Piece → Prop} {b0 : State} (s : State) (a : Nat) (l : Nat) (e : OpenEnt)
    (hok : Ok pcs b0 s) (hp0 : pcs .regs := by assumption) (hp1 : pcs .lanes := by assumption) :
    Ok pcs b0 (State.openEnter s a l e) := by
  delta State.openEnter
  repeat' first
    | with_reducible assumption | extract_lets | intro _ | with_reducible apply ok_ite
    | with_reducible apply State.satAdd_ok | with_reducible apply State.modLane_ok | split
    | dsimp +zetaDelta -zeta only

theorem State.judgeDup_ok {pcs : Piece → Prop} {b0 : State} (s : State) (l : Nat) (fr : Frame) (sof : Int)
    (hok : Ok pcs b0 s) (hp0 : pcs .regs := by assumption) (hp1 : pcs .lanes := by assumption) :
    Ok2 pcs b0 (State.judgeDup s l fr sof) := by
  delta State.judgeDup
  repeat' first
    | with_reducible assumption | extract_lets | intro _ | with_reducible apply ok2_ite
    | with_reducible apply ok_ite | with_reducible apply State.sof_ok | with_reducible apply State.modLane_ok
    | with_reducible apply State.satAdd_ok | with_reducible apply State.openEnter_ok | split
    | with_reducible apply ok2_mk | dsimp +zetaDelta -zeta only

theorem State.judgeDup_ok' {pcs : Piece → Prop} {b0 : State} (s : State) (l : Nat) (fr : Frame) (sof : Int)
    (hok : Ok pcs b0 s) (hp0 : pcs .regs := by assumption) (hp1 : pcs .lanes := by assumption) :
    Ok pcs b0 (State.judgeDup s l fr sof).2 := State.judgeDup_ok s l fr sof hok hp0 hp1

theorem State.countLate_ok {pcs : Piece → Prop} {b0 : State} (s : State) (l : Nat) (hok : Ok pcs b0 s)
    (hp0 : pcs .regs := by assumption) :
    Ok pcs b0 (State.countLate s l) := by
  delta State.countLate
  repeat' first
    | with_reducible assumption | extract_lets | intro _ | with_reducible apply State.satAdd_ok | split
    | dsimp +zetaDelta -zeta only

theorem State.ctValid_ok {pcs : Piece → Prop} {b0 : State} (s : State) (l : Nat) (fr : Frame) (t : Stamp)
    (d : Option Decision) (hok : Ok pcs b0 s) (hp0 : pcs .free := by assumption) (hp1 : pcs .regs := by assumption)
    (hp2 : pcs .mem := by assumption) (hp3 : pcs .lanes := by assumption) (hp4 : pcs .tx := by assumption)
    (hp5 : pcs .col := by assumption) (hp6 : pcs .firn := by assumption) (hp7 : pcs .rings := by assumption)
    (hp8 : pcs .irq := by assumption) (hp9 : pcs .mor := by assumption) (hp10 : pcs .poison := by assumption) :
    Ok pcs b0 (State.ctValid s l fr t d) := by
  delta State.ctValid
  repeat' first
    | with_reducible assumption | extract_lets | intro _ | with_reducible apply ok_ite
    | with_reducible apply State.ctWhole_ok | with_reducible apply State.satAdd_ok
    | with_reducible apply State.morRx_ok | split | dsimp +zetaDelta -zeta only

theorem State.validFiltered_ok {pcs : Piece → Prop} {b0 : State} (s : State) (l : Nat) (sof : Int) (fr : Frame)
    (t : Stamp) (d : Option Decision) (hok : Ok pcs b0 s) (hp0 : pcs .free := by assumption)
    (hp1 : pcs .regs := by assumption) (hp2 : pcs .mem := by assumption) (hp3 : pcs .lanes := by assumption)
    (hp4 : pcs .objs := by assumption) (hp5 : pcs .col := by assumption) (hp6 : pcs .firn := by assumption)
    (hp7 : pcs .rings := by assumption) (hp8 : pcs .irq := by assumption) (hp9 : pcs .mor := by assumption)
    (hp10 : pcs .stack := by assumption) (hp11 : pcs .poison := by assumption) (hp12 : pcs .engs := by assumption) :
    Ok pcs b0 (State.validFiltered s l sof fr t d) := by
  delta State.validFiltered
  repeat' first
    | with_reducible assumption | extract_lets | intro _ | with_reducible apply ok_ite
    | with_reducible apply State.sof_ok | with_reducible apply State.withNextValid_ok
    | with_reducible apply State.countLate_ok | with_reducible apply State.judgeDup_ok
    | with_reducible apply State.judgeDup_ok' | with_reducible apply State.morRx_ok
    | with_reducible apply State.carryOut_ok | with_reducible apply State.ingressMeter_ok
    | with_reducible apply State.ingressMeter_ok' | with_reducible apply State.modLane_ok
    | (refine ok2_eq (by with_reducible assumption) ?_) | split | dsimp +zetaDelta -zeta only

theorem State.lengthChecks_ok {pcs : Piece → Prop} {b0 : State} (s : State) (l : Nat) (fr : Frame) (sof : Sof)
    (hok : Ok pcs b0 s) (hp0 : pcs .regs := by assumption) (hp1 : pcs .irq := by assumption)
    (hp2 : pcs .poison := by assumption) :
    Ok pcs b0 (State.lengthChecks s l fr sof) := by
  delta State.lengthChecks
  repeat' first
    | with_reducible assumption | extract_lets | intro _ | with_reducible apply ok_ite
    | with_reducible apply State.sof_ok | with_reducible apply State.violate_ok | split
    | dsimp +zetaDelta -zeta only

theorem State.frameIsValid_ok {pcs : Piece → Prop} {b0 : State} (s : State) (l : Nat) (fr : Frame) (sof : Sof)
    (d : Option Decision) (hok : Ok pcs b0 s) (hp0 : pcs .free := by assumption) (hp1 : pcs .regs := by assumption)
    (hp2 : pcs .mem := by assumption) (hp3 : pcs .host := by assumption) (hp4 : pcs .lanes := by assumption)
    (hp5 : pcs .pins := by assumption) (hp6 : pcs .tx := by assumption) (hp7 : pcs .objs := by assumption)
    (hp8 : pcs .routes := by assumption) (hp9 : pcs .col := by assumption) (hp10 : pcs .firn := by assumption)
    (hp11 : pcs .rings := by assumption) (hp12 : pcs .irq := by assumption) (hp13 : pcs .mor := by assumption)
    (hp14 : pcs .stack := by assumption) (hp15 : pcs .poison := by assumption) (hp16 : pcs .engs := by assumption) :
    Ok pcs b0 (State.frameIsValid s l fr sof d) := by
  delta State.frameIsValid
  repeat' first
    | with_reducible assumption | extract_lets | intro _ | with_reducible apply ok_ite
    | with_reducible apply State.sof_ok | with_reducible apply State.nominalPhase_ok
    | with_reducible apply State.rxStamp_ok | with_reducible apply State.rxStamp_ok'
    | with_reducible apply State.laneStep_ok | with_reducible apply State.goodRec_ok
    | with_reducible apply State.modLane_ok | with_reducible apply State.killSend_ok
    | with_reducible apply State.lbHeal_ok | with_reducible apply State.satAdd_ok
    | with_reducible apply State.lengthChecks_ok | with_reducible apply State.guardsSee_ok
    | with_reducible apply State.guardsSee_ok' | with_reducible apply State.morRx_ok
    | with_reducible apply State.ctValid_ok | with_reducible apply State.validFiltered_ok
    | (refine ok2_eq (by with_reducible assumption) ?_) | split | dsimp +zetaDelta -zeta only

theorem execFrameValid_ok {pcs : Piece → Prop} {b0 : State} (l : LaneId) (fr : Frame) (sof : Sof) (_h : Unit)
    (s : State) (hok : Ok pcs b0 s) (hp0 : pcs .free := by assumption) (hp1 : pcs .regs := by assumption)
    (hp2 : pcs .mem := by assumption) (hp3 : pcs .host := by assumption) (hp4 : pcs .lanes := by assumption)
    (hp5 : pcs .pins := by assumption) (hp6 : pcs .tx := by assumption) (hp7 : pcs .objs := by assumption)
    (hp8 : pcs .routes := by assumption) (hp9 : pcs .col := by assumption) (hp10 : pcs .firn := by assumption)
    (hp11 : pcs .rings := by assumption) (hp12 : pcs .irq := by assumption) (hp13 : pcs .mor := by assumption)
    (hp14 : pcs .stack := by assumption) (hp15 : pcs .poison := by assumption) (hp16 : pcs .engs := by assumption) :
    OkO pcs b0 (execFrameValid l fr sof _h s) := by
  delta execFrameValid
  repeat' first
    | with_reducible assumption | extract_lets | intro _ | with_reducible apply okO_next
    | with_reducible apply okO_ite | with_reducible apply ok_ite | with_reducible apply State.sof_ok
    | with_reducible apply State.frameIsValid_ok | with_reducible apply State.modLane_ok | split
    | dsimp +zetaDelta -zeta only

theorem execFilterDecision_ok {pcs : Piece → Prop} {b0 : State} (l : LaneId) (fr : Frame) (_sof : Sof) (late : Bool)
    (err : WalkErr) (_h : Unit) (s : State) (hok : Ok pcs b0 s) (hp0 : pcs .free := by assumption)
    (hp1 : pcs .regs := by assumption) (hp2 : pcs .mem := by assumption) (hp3 : pcs .lanes := by assumption)
    (hp4 : pcs .objs := by assumption) (hp5 : pcs .col := by assumption) (hp6 : pcs .firn := by assumption)
    (hp7 : pcs .rings := by assumption) (hp8 : pcs .irq := by assumption) (hp9 : pcs .mor := by assumption)
    (hp10 : pcs .stack := by assumption) (hp11 : pcs .boot := by assumption) (hp12 : pcs .poison := by assumption)
    (hp13 : pcs .engs := by assumption) :
    OkO pcs b0 (execFilterDecision l fr _sof late err _h s) := by
  delta execFilterDecision
  repeat' first
    | with_reducible assumption | extract_lets | intro _ | with_reducible apply okO_next
    | with_reducible apply okO_ite | with_reducible apply ok_ite | with_reducible apply State.modLane_ok
    | with_reducible apply State.walkFrame_ok | with_reducible apply State.walkFrame_ok'
    | with_reducible apply State.morRx_ok | with_reducible apply State.carryOut_ok
    | (refine ok2_eq (by with_reducible assumption) ?_) | split | dsimp +zetaDelta -zeta only

theorem State.ctStart_ok {pcs : Piece → Prop} {b0 : State} (s : State) (l : Nat) (b : Nat) (n : Nat) (fid : Nat)
    (fr : Frame) (tc : Nat) (hok : Ok pcs b0 s) (hp0 : pcs .free := by assumption)
    (hp1 : pcs .regs := by assumption) (hp2 : pcs .mem := by assumption) (hp3 : pcs .host := by assumption)
    (hp4 : pcs .lanes := by assumption) (hp5 : pcs .tx := by assumption) (hp6 : pcs .col := by assumption)
    (hp7 : pcs .firn := by assumption) (hp8 : pcs .rings := by assumption) (hp9 : pcs .irq := by assumption)
    (hp10 : pcs .mor := by assumption) (hp11 : pcs .poison := by assumption) :
    Ok pcs b0 (State.ctStart s l b n fid fr tc) := by
  delta State.ctStart
  repeat' first
    | with_reducible assumption | extract_lets | intro _ | with_reducible apply ok_ite
    | with_reducible apply State.modLane_ok | with_reducible apply State.withNextEnt_ok
    | with_reducible apply State.satAdd_ok | with_reducible apply State.morDrop_ok
    | with_reducible apply State.releaseEntry_ok | with_reducible apply State.modCtq_ok
    | with_reducible apply State.enter_ok | with_reducible apply ok_foldl | with_reducible apply ok2_foldl
    | with_reducible apply ok_foldl2 | with_reducible apply ok_ite2 | with_reducible apply ok1_foldl
    | with_reducible apply ok_foldl1 | with_reducible apply ok_ite1 | split | dsimp +zetaDelta -zeta only

theorem State.ctConsider_ok {pcs : Piece → Prop} {b0 : State} (s : State) (l : Nat) (n : Nat) (fr : Frame)
    (r : Rec4) (d : Decision) (paused : Bool) (hok : Ok pcs b0 s) (hp0 : pcs .free := by assumption)
    (hp1 : pcs .regs := by assumption) (hp2 : pcs .mem := by assumption) (hp3 : pcs .host := by assumption)
    (hp4 : pcs .lanes := by assumption) (hp5 : pcs .tx := by assumption) (hp6 : pcs .col := by assumption)
    (hp7 : pcs .firn := by assumption) (hp8 : pcs .rings := by assumption) (hp9 : pcs .irq := by assumption)
    (hp10 : pcs .mor := by assumption) (hp11 : pcs .poison := by assumption) :
    Ok pcs b0 (State.ctConsider s l n fr r d paused) := by
  delta State.ctConsider
  repeat' first
    | with_reducible assumption | extract_lets | intro _ | with_reducible apply ok_ite
    | with_reducible apply State.ingressMeter_ok | with_reducible apply State.ingressMeter_ok'
    | with_reducible apply State.meter_ok | with_reducible apply State.meter_ok'
    | with_reducible apply State.modLane_ok | with_reducible apply State.takeIn_ok
    | with_reducible apply State.takeIn_ok' | with_reducible apply State.ctStart_ok
    | with_reducible apply State.satAdd_ok | (refine ok2_eq (by with_reducible assumption) ?_) | split
    | dsimp +zetaDelta -zeta only

theorem execCutThroughLookup_ok {pcs : Piece → Prop} {b0 : State} (l : LaneId) (fr : Frame) (paused : Bool)
    (s : State) (hok : Ok pcs b0 s) (hp0 : pcs .free := by assumption) (hp1 : pcs .regs := by assumption)
    (hp2 : pcs .mem := by assumption) (hp3 : pcs .host := by assumption) (hp4 : pcs .lanes := by assumption)
    (hp5 : pcs .tx := by assumption) (hp6 : pcs .col := by assumption) (hp7 : pcs .firn := by assumption)
    (hp8 : pcs .rings := by assumption) (hp9 : pcs .irq := by assumption) (hp10 : pcs .mor := by assumption)
    (hp11 : pcs .poison := by assumption) :
    OkO pcs b0 (execCutThroughLookup l fr paused s) := by
  delta execCutThroughLookup
  repeat' first
    | with_reducible assumption | extract_lets | intro _ | with_reducible apply okO_next
    | with_reducible apply okO_ite | with_reducible apply ok_ite | with_reducible apply State.ctConsider_ok | split
    | dsimp +zetaDelta -zeta only
end Sys2Proof.Machine
end

