-- ==== Sys2Proof/Laws/OkCol.lean ====
section
/-! SUPPORT. Col: every operation of Machine/Col.lean keeps the queue and a sane state, and changes no
piece but the ones it names. -/
namespace Sys2Proof.Machine
set_option Elab.async false

theorem State.releaseAt_ok {pcs : Piece → Prop} {b0 : State} (s : State) (p : Nat) (fid : Nat) (hok : Ok pcs b0 s)
    (hp0 : pcs .regs := by assumption) (hp1 : pcs .firn := by assumption) (hp2 : pcs .irq := by assumption) :
    Ok pcs b0 (State.releaseAt s p fid) := by
  delta State.releaseAt
  repeat' first
    | with_reducible assumption | extract_lets | intro _ | with_reducible apply State.release_ok | split
    | dsimp +zetaDelta -zeta only

theorem State.cqRelease_ok {pcs : Piece → Prop} {b0 : State} (s : State) (p : Nat) (q : Nat) (fid : Nat)
    (hok : Ok pcs b0 s) (hp0 : pcs .regs := by assumption) (hp1 : pcs .firn := by assumption)
    (hp2 : pcs .irq := by assumption) :
    Ok pcs b0 (State.cqRelease s p q fid) := by
  delta State.cqRelease
  repeat' first
    | with_reducible assumption | extract_lets | intro _ | with_reducible apply ok_ite
    | with_reducible apply State.unheld_ok | with_reducible apply State.setFrame_ok
    | with_reducible apply State.releaseAt_ok | split | dsimp +zetaDelta -zeta only

theorem State.holdAt_ok {pcs : Piece → Prop} {b0 : State} (s : State) (p : Nat) (c : Nat) (fid : Nat)
    (hok : Ok pcs b0 s) (hp0 : pcs .regs := by assumption) (hp1 : pcs .firn := by assumption)
    (hp2 : pcs .irq := by assumption) :
    Ok pcs b0 (State.holdAt s p c fid) := by
  delta State.holdAt
  repeat' first
    | with_reducible assumption | extract_lets | intro _ | with_reducible apply State.modCell_ok
    | with_reducible apply State.setFrame_ok | with_reducible apply State.modChg_ok
    | with_reducible apply State.checkLow_ok | with_reducible apply ok_foldl | with_reducible apply ok2_foldl
    | with_reducible apply ok_foldl2 | with_reducible apply ok_ite2 | with_reducible apply ok1_foldl
    | with_reducible apply ok_foldl1 | with_reducible apply ok_ite1 | split | dsimp +zetaDelta -zeta only

theorem State.rehome_ok {pcs : Piece → Prop} {b0 : State} (s : State) (p : Nat) (p' : Nat) (q : Nat) (fid : Nat)
    (hok : Ok pcs b0 s) (hp0 : pcs .regs := by assumption) (hp1 : pcs .firn := by assumption)
    (hp2 : pcs .irq := by assumption) :
    Ok pcs b0 (State.rehome s p p' q fid) := by
  delta State.rehome
  repeat' first
    | with_reducible assumption | extract_lets | intro _ | with_reducible apply ok_ite
    | with_reducible apply State.setFrame_ok | with_reducible apply State.holdAt_ok
    | with_reducible apply State.releaseAt_ok | split | dsimp +zetaDelta -zeta only

theorem State.ethRelease_ok {pcs : Piece → Prop} {b0 : State} (s : State) (e : Nat) (fid : Option Nat)
    (hok : Ok pcs b0 s) (hp0 : pcs .regs := by assumption) (hp1 : pcs .firn := by assumption)
    (hp2 : pcs .irq := by assumption) :
    Ok pcs b0 (State.ethRelease s e fid) := by
  delta State.ethRelease
  repeat' first
    | with_reducible assumption | extract_lets | intro _ | with_reducible apply ok_ite
    | with_reducible apply State.releaseAt_ok | split | dsimp +zetaDelta -zeta only

theorem State.deliverBuses_ok {pcs : Piece → Prop} {b0 : State} (s : State) (p : Nat) (fid : Nat) (tc : Nat)
    (fr : Frame) (bs : List Nat) (hok : Ok pcs b0 s) (hp0 : pcs .free := by assumption)
    (hp1 : pcs .regs := by assumption) (hp2 : pcs .mem := by assumption) (hp3 : pcs .host := by assumption)
    (hp4 : pcs .tx := by assumption) (hp5 : pcs .col := by assumption) (hp6 : pcs .firn := by assumption)
    (hp7 : pcs .rings := by assumption) (hp8 : pcs .irq := by assumption) (hp9 : pcs .mor := by assumption)
    (hp10 : pcs .poison := by assumption) :
    Ok pcs b0 (State.deliverBuses s p fid tc fr bs) := by
  delta State.deliverBuses
  repeat' first
    | with_reducible assumption | extract_lets | intro _ | with_reducible apply ok_ite
    | with_reducible apply State.enter_ok | with_reducible apply State.satAdd_ok
    | with_reducible apply State.morDrop_ok | with_reducible apply State.releaseEntry_ok
    | with_reducible apply ok_foldl | with_reducible apply ok2_foldl | with_reducible apply ok_foldl2
    | with_reducible apply ok_ite2 | with_reducible apply ok1_foldl | with_reducible apply ok_foldl1
    | with_reducible apply ok_ite1 | split | dsimp +zetaDelta -zeta only

theorem State.deliverRings_ok {pcs : Piece → Prop} {b0 : State} (s : State) (p : Nat) (fid : Nat) (tc : Nat)
    (items : List (Nat × RxItem)) (hok : Ok pcs b0 s) (hp0 : pcs .free := by assumption)
    (hp1 : pcs .regs := by assumption) (hp2 : pcs .mem := by assumption) (hp3 : pcs .col := by assumption)
    (hp4 : pcs .firn := by assumption) (hp5 : pcs .rings := by assumption) (hp6 : pcs .irq := by assumption)
    (hp7 : pcs .mor := by assumption) (hp8 : pcs .poison := by assumption) :
    Ok pcs b0 (State.deliverRings s p fid tc items) := by
  delta State.deliverRings
  repeat' first
    | with_reducible assumption | extract_lets | intro _ | with_reducible apply ok_ite
    | with_reducible apply State.setCq_ok | with_reducible apply State.rehome_ok
    | with_reducible apply State.deletedDrop_ok | with_reducible apply State.cqRelease_ok
    | with_reducible apply State.satAdd_ok | with_reducible apply State.morDrop_ok | with_reducible apply ok_foldl
    | with_reducible apply ok2_foldl | with_reducible apply ok_foldl2 | with_reducible apply ok_ite2
    | with_reducible apply ok1_foldl | with_reducible apply ok_foldl1 | with_reducible apply ok_ite1 | split
    | dsimp +zetaDelta -zeta only

theorem State.ethFree_ok {pcs : Piece → Prop} {b0 : State} (s : State) (e : Nat) (x : Egress) (hok : Ok pcs b0 s)
    (hp0 : pcs .regs := by assumption) (hp1 : pcs .firn := by assumption) (hp2 : pcs .irq := by assumption) :
    Ok pcs b0 (State.ethFree s e x) := by
  delta State.ethFree
  repeat' first
    | with_reducible assumption | extract_lets | intro _ | with_reducible apply ok_ite
    | with_reducible apply State.satAdd_ok | with_reducible apply State.ethRelease_ok | split
    | dsimp +zetaDelta -zeta only

theorem State.deliverEth_ok {pcs : Piece → Prop} {b0 : State} (s : State) (e : Nat) (xs : List Egress)
    (hok : Ok pcs b0 s) (hp0 : pcs .regs := by assumption) (hp1 : pcs .firn := by assumption)
    (hp2 : pcs .irq := by assumption) (hp3 : pcs .eths := by assumption) :
    Ok pcs b0 (State.deliverEth s e xs) := by
  delta State.deliverEth
  repeat' first
    | with_reducible assumption | extract_lets | intro _ | with_reducible apply State.modEth_ok
    | with_reducible apply State.ethFree_ok | with_reducible apply ok_foldl | with_reducible apply ok2_foldl
    | with_reducible apply ok_foldl2 | with_reducible apply ok_ite2 | with_reducible apply ok1_foldl
    | with_reducible apply ok_foldl1 | with_reducible apply ok_ite1 | split | dsimp +zetaDelta -zeta only

theorem execCtKillWindowEnd_ok {pcs : Piece → Prop} {b0 : State} (s : State) (hok : Ok pcs b0 s)
    (hp0 : pcs .mem := by assumption) (hp1 : pcs .routes := by assumption) (hp2 : pcs .irq := by assumption)
    (hp3 : pcs .poison := by assumption) :
    OkO pcs b0 (execCtKillWindowEnd s) := by
  unfold execCtKillWindowEnd
  split
  · exact okO_next hok
  · dsimp only
    exact okO_ite (okO_next (State.withKillDue_ok _ _ (State.withKills_ok _ _ (ok_foldl (fun _ _ h => State.fallBack_ok _ _ _ h) hok) rfl)))
      (okO_next hok)

theorem State.routeSet_ok {pcs : Piece → Prop} {b0 : State} (s : State) (group : Bool) (n : Nat) (r : Rec4)
    (hok : Ok pcs b0 s) (hp0 : pcs .regs := by assumption) (hp1 : pcs .mem := by assumption)
    (hp2 : pcs .routes := by assumption) (hp3 : pcs .poison := by assumption) :
    Ok1 pcs b0 (State.routeSet s group n r) := by
  delta State.routeSet
  repeat' first
    | with_reducible assumption | extract_lets | intro _ | with_reducible apply ok1_ite
    | with_reducible apply ok_ite | with_reducible apply State.setReg_ok | with_reducible apply State.setRec4_ok
    | with_reducible apply State.healRec_ok | with_reducible apply State.modGen_ok
    | with_reducible apply State.setKillsOf_ok | split | with_reducible apply ok1_mk | dsimp +zetaDelta -zeta only

theorem State.routeSet_ok' {pcs : Piece → Prop} {b0 : State} (s : State) (group : Bool) (n : Nat) (r : Rec4)
    (hok : Ok pcs b0 s) (hp0 : pcs .regs := by assumption) (hp1 : pcs .mem := by assumption)
    (hp2 : pcs .routes := by assumption) (hp3 : pcs .poison := by assumption) :
    Ok pcs b0 (State.routeSet s group n r).1 := State.routeSet_ok s group n r hok hp0 hp1 hp2 hp3

theorem State.routeRun_ok {pcs : Piece → Prop} {b0 : State} (s : State) (group : Bool) (n : Nat) (a3 : List Rec4)
    (hok : Ok pcs b0 s) (hp0 : pcs .regs := by assumption) (hp1 : pcs .mem := by assumption)
    (hp2 : pcs .routes := by assumption) (hp3 : pcs .poison := by assumption) :
    Ok1 pcs b0 (State.routeRun s group n a3) := by
  induction a3 generalizing s group n <;> unfold State.routeRun
  all_goals repeat' first
    | apply_assumption | extract_lets | intro _ | with_reducible apply ok1_ite
    | with_reducible apply State.routeSet_ok | with_reducible apply State.routeSet_ok'
    | (refine ok1_eq (by with_reducible assumption) ?_) | split | with_reducible apply ok1_mk
    | dsimp +zetaDelta -zeta only

theorem State.routeRun_ok' {pcs : Piece → Prop} {b0 : State} (s : State) (group : Bool) (n : Nat) (a3 : List Rec4)
    (hok : Ok pcs b0 s) (hp0 : pcs .regs := by assumption) (hp1 : pcs .mem := by assumption)
    (hp2 : pcs .routes := by assumption) (hp3 : pcs .poison := by assumption) :
    Ok pcs b0 (State.routeRun s group n a3).1 := State.routeRun_ok s group n a3 hok hp0 hp1 hp2 hp3

theorem State.rtLoadTake_ok {pcs : Piece → Prop} {b0 : State} (s : State) (r : AdminRef) (d : Words8)
    (hok : Ok pcs b0 s) (hp0 : pcs .regs := by assumption) (hp1 : pcs .host := by assumption)
    (hp2 : pcs .routes := by assumption) (hp3 : pcs .rings := by assumption) (hp4 : pcs .irq := by assumption) :
    Ok pcs b0 (State.rtLoadTake s r d) := by
  delta State.rtLoadTake
  repeat' first
    | with_reducible assumption | extract_lets | intro _ | with_reducible apply ok_ite
    | with_reducible apply State.adminBusy_ok | with_reducible apply State.adminRefuse_ok
    | with_reducible apply State.clamp_ok | with_reducible apply State.withRtLoad_ok | split
    | dsimp +zetaDelta -zeta only

theorem execRtLoad_ok {pcs : Piece → Prop} {b0 : State} (f : Fn) (d : Words8) (s : State) (hok : Ok pcs b0 s)
    (hp0 : pcs .regs := by assumption) (hp1 : pcs .host := by assumption) (hp2 : pcs .routes := by assumption)
    (hp3 : pcs .rings := by assumption) (hp4 : pcs .irq := by assumption) :
    OkO pcs b0 (execRtLoad f d s) := by
  delta execRtLoad
  repeat' first
    | with_reducible assumption | extract_lets | intro _ | with_reducible apply okO_next
    | with_reducible apply okO_ite | with_reducible apply adminCmd_ok | with_reducible apply adminCmd_ok'
    | with_reducible apply State.rtLoadTake_ok | split | dsimp +zetaDelta -zeta only

theorem execRtLoadCommit_ok {pcs : Piece → Prop} {b0 : State} (recs : List Rec4) (s : State) (hok : Ok pcs b0 s)
    (hp0 : pcs .regs := by assumption) (hp1 : pcs .mem := by assumption) (hp2 : pcs .host := by assumption)
    (hp3 : pcs .routes := by assumption) (hp4 : pcs .rings := by assumption) (hp5 : pcs .irq := by assumption)
    (hp6 : pcs .poison := by assumption) :
    OkO pcs b0 (execRtLoadCommit recs s) := by
  delta execRtLoadCommit
  repeat' first
    | with_reducible assumption | extract_lets | intro _ | with_reducible apply okO_next
    | with_reducible apply okO_ite | with_reducible apply ok_ite | with_reducible apply State.withRtLoad_ok
    | with_reducible apply State.routeRun_ok | with_reducible apply State.routeRun_ok'
    | with_reducible apply State.clamp_ok | with_reducible apply State.adminDone_ok
    | (refine ok1_eq (by with_reducible assumption) ?_) | split | dsimp +zetaDelta -zeta only
end Sys2Proof.Machine
end

