-- ==== Sys2Proof/Laws/OkDesc.lean ====
section
/-! SUPPORT. Descriptors: every operation of Machine/Desc.lean keeps the queue and a sane state, and changes no
piece but the ones it names. -/
namespace Sys2Proof.Machine
set_option Elab.async false

theorem State.ethCpl_ok {pcs : Piece → Prop} {b0 : State} (s : State) (x : Fetched) (st : Status) (attempts : Nat)
    (stamp : Option Stamp) (hok : Ok pcs b0 s) (hp0 : pcs .host := by assumption)
    (hp1 : pcs .rings := by assumption) (hp2 : pcs .irq := by assumption) :
    Ok pcs b0 (State.ethCpl s x st attempts stamp) := by
  delta State.ethCpl
  repeat' first
    | with_reducible assumption | extract_lets | intro _ | with_reducible apply ok_ite
    | with_reducible apply State.sqComplete_ok | split | dsimp +zetaDelta -zeta only

theorem State.fetchedCpl_ok {pcs : Piece → Prop} {b0 : State} (s : State) (x : Fetched) (st : Status)
    (hok : Ok pcs b0 s) (hp0 : pcs .host := by assumption) (hp1 : pcs .rings := by assumption)
    (hp2 : pcs .irq := by assumption) :
    Ok pcs b0 (State.fetchedCpl s x st) := by
  delta State.fetchedCpl
  repeat' first
    | with_reducible assumption | extract_lets | intro _ | with_reducible apply State.ethCpl_ok
    | with_reducible apply State.txCpl_ok | split | dsimp +zetaDelta -zeta only

theorem State.uncross_ok {pcs : Piece → Prop} {b0 : State} (s : State) (x : Fetched) (hok : Ok pcs b0 s)
    (hp0 : pcs .regs := by assumption) (hp1 : pcs .col := by assumption) (hp2 : pcs .firn := by assumption)
    (hp3 : pcs .irq := by assumption) :
    Ok pcs b0 (State.uncross s x) := by
  delta State.uncross
  repeat' first
    | with_reducible assumption | extract_lets | intro _ | with_reducible apply State.modVoq_ok
    | with_reducible apply State.releaseAt_ok | split | dsimp +zetaDelta -zeta only

theorem State.ethDropWhere_ok {pcs : Piece → Prop} {b0 : State} (s : State) (e : Nat) (out : Egress → Bool)
    (g : State → Egress → State) (hok : Ok pcs b0 s) (h_g : ∀ s x, Ok pcs b0 s → Ok pcs b0 (g s x))
    (hp0 : pcs .regs := by assumption) (hp1 : pcs .firn := by assumption) (hp2 : pcs .irq := by assumption)
    (hp3 : pcs .eths := by assumption) :
    Ok pcs b0 (State.ethDropWhere s e out g) := by
  delta State.ethDropWhere
  repeat' first
    | with_reducible assumption | extract_lets | intro _ | with_reducible apply State.modEth_ok
    | with_reducible apply State.ethRelease_ok | with_reducible apply h_g | with_reducible apply ok_foldl
    | with_reducible apply ok2_foldl | with_reducible apply ok_foldl2 | with_reducible apply ok_ite2
    | with_reducible apply ok1_foldl | with_reducible apply ok_foldl1 | with_reducible apply ok_ite1 | split
    | dsimp +zetaDelta -zeta only

theorem State.ethExpireDue_ok {pcs : Piece → Prop} {b0 : State} (s : State) (e : Nat) (hok : Ok pcs b0 s)
    (hp0 : pcs .regs := by assumption) (hp1 : pcs .host := by assumption) (hp2 : pcs .firn := by assumption)
    (hp3 : pcs .rings := by assumption) (hp4 : pcs .irq := by assumption) (hp5 : pcs .eths := by assumption) :
    Ok pcs b0 (State.ethExpireDue s e) := by
  delta State.ethExpireDue
  repeat' first
    | with_reducible assumption | extract_lets | intro _ | with_reducible apply State.ethDropWhere_ok
    | with_reducible apply State.ethCpl_ok | split | dsimp +zetaDelta -zeta only

theorem State.descEnter_ok {pcs : Piece → Prop} {b0 : State} (s : State) (x : Fetched) (fid : Nat)
    (data : List Byte) (hok : Ok pcs b0 s) (hp0 : pcs .regs := by assumption) (hp1 : pcs .mem := by assumption)
    (hp2 : pcs .host := by assumption) (hp3 : pcs .tx := by assumption) (hp4 : pcs .firn := by assumption)
    (hp5 : pcs .rings := by assumption) (hp6 : pcs .irq := by assumption) (hp7 : pcs .eths := by assumption)
    (hp8 : pcs .poison := by assumption) :
    Ok pcs b0 (State.descEnter s x fid data) := by
  delta State.descEnter
  repeat' first
    | with_reducible assumption | extract_lets | intro _ | with_reducible apply ok_ite
    | with_reducible apply State.enter_ok | with_reducible apply State.ethCpl_ok
    | with_reducible apply State.ethRelease_ok | with_reducible apply State.modEth_ok | split
    | dsimp +zetaDelta -zeta only

theorem State.descAdmit_ok {pcs : Piece → Prop} {b0 : State} (s : State) (x : Fetched) (data : List Byte)
    (hok : Ok pcs b0 s) (hp0 : pcs .free := by assumption) (hp1 : pcs .regs := by assumption)
    (hp2 : pcs .mem := by assumption) (hp3 : pcs .tx := by assumption) (hp4 : pcs .col := by assumption)
    (hp5 : pcs .firn := by assumption) (hp6 : pcs .irq := by assumption) (hp7 : pcs .poison := by assumption) :
    Ok pcs b0 (State.descAdmit s x data) := by
  delta State.descAdmit
  repeat' first
    | with_reducible assumption | extract_lets | intro _ | with_reducible apply State.admitWaiting_ok
    | with_reducible apply State.admitWaiting_ok' | with_reducible apply State.withFetched_ok
    | with_reducible apply State.enqueue_ok | (refine ok2_eq (by with_reducible assumption) ?_) | split
    | dsimp +zetaDelta -zeta only

theorem State.descReady_ok {pcs : Piece → Prop} {b0 : State} (s : State) (x : Fetched) (data : List Byte)
    (hok : Ok pcs b0 s) (hp0 : pcs .free := by assumption) (hp1 : pcs .regs := by assumption)
    (hp2 : pcs .mem := by assumption) (hp3 : pcs .tx := by assumption) (hp4 : pcs .col := by assumption)
    (hp5 : pcs .firn := by assumption) (hp6 : pcs .irq := by assumption) (hp7 : pcs .poison := by assumption) :
    Ok pcs b0 (State.descReady s x data) := by
  delta State.descReady
  repeat' first
    | with_reducible assumption | extract_lets | intro _ | with_reducible apply ok_ite
    | with_reducible apply State.descAdmit_ok | with_reducible apply State.withFetched_ok | split
    | dsimp +zetaDelta -zeta only

theorem State.descFetched_ok {pcs : Piece → Prop} {b0 : State} (s : State) (x : Fetched) (hok : Ok pcs b0 s)
    (hp0 : pcs .free := by assumption) (hp1 : pcs .regs := by assumption) (hp2 : pcs .mem := by assumption)
    (hp3 : pcs .host := by assumption) (hp4 : pcs .tx := by assumption) (hp5 : pcs .col := by assumption)
    (hp6 : pcs .firn := by assumption) (hp7 : pcs .rings := by assumption) (hp8 : pcs .irq := by assumption)
    (hp9 : pcs .poison := by assumption) :
    Ok pcs b0 (State.descFetched s x) := by
  delta State.descFetched
  repeat' first
    | with_reducible assumption | extract_lets | intro _ | with_reducible apply ok_ite
    | with_reducible apply State.fetchedCpl_ok | with_reducible apply State.descReady_ok
    | with_reducible apply State.withFetched_ok | split | dsimp +zetaDelta -zeta only

theorem execTxPayloadReadDone_ok {pcs : Piece → Prop} {b0 : State} (n : RingId) (data : List Byte) (s : State)
    (hok : Ok pcs b0 s) (hp0 : pcs .free := by assumption) (hp1 : pcs .regs := by assumption)
    (hp2 : pcs .mem := by assumption) (hp3 : pcs .tx := by assumption) (hp4 : pcs .col := by assumption)
    (hp5 : pcs .firn := by assumption) (hp6 : pcs .irq := by assumption) (hp7 : pcs .poison := by assumption) :
    OkO pcs b0 (execTxPayloadReadDone n data s) := by
  delta execTxPayloadReadDone
  repeat' first
    | with_reducible assumption | extract_lets | intro _ | with_reducible apply okO_next
    | with_reducible apply okO_ite | with_reducible apply State.withFetched_ok
    | with_reducible apply State.descReady_ok | split | dsimp +zetaDelta -zeta only

theorem execTx_ok {pcs : Piece → Prop} {b0 : State} (n : RingId) (d : TxFetch) (s : State) (hok : Ok pcs b0 s)
    (hp0 : pcs .free := by assumption) (hp1 : pcs .regs := by assumption) (hp2 : pcs .mem := by assumption)
    (hp3 : pcs .host := by assumption) (hp4 : pcs .tx := by assumption) (hp5 : pcs .col := by assumption)
    (hp6 : pcs .firn := by assumption) (hp7 : pcs .rings := by assumption) (hp8 : pcs .irq := by assumption)
    (hp9 : pcs .poison := by assumption) :
    OkO pcs b0 (execTx n d s) := by
  delta execTx
  repeat' first
    | with_reducible assumption | extract_lets | intro _ | with_reducible apply okO_next
    | with_reducible apply okO_ite | with_reducible apply ok_ite | with_reducible apply State.sqFetch_ok
    | with_reducible apply State.clamp_ok | with_reducible apply State.setTurn_ok
    | with_reducible apply State.descFetched_ok | split | dsimp +zetaDelta -zeta only

theorem execEthTx_ok {pcs : Piece → Prop} {b0 : State} (n : RingId) (d : Words8) (s : State) (hok : Ok pcs b0 s)
    (hp0 : pcs .free := by assumption) (hp1 : pcs .regs := by assumption) (hp2 : pcs .mem := by assumption)
    (hp3 : pcs .host := by assumption) (hp4 : pcs .tx := by assumption) (hp5 : pcs .col := by assumption)
    (hp6 : pcs .firn := by assumption) (hp7 : pcs .rings := by assumption) (hp8 : pcs .irq := by assumption)
    (hp9 : pcs .poison := by assumption) :
    OkO pcs b0 (execEthTx n d s) := by
  delta execEthTx
  repeat' first
    | with_reducible assumption | extract_lets | intro _ | with_reducible apply okO_next
    | with_reducible apply okO_ite | with_reducible apply ok_ite | with_reducible apply State.sqFetch_ok
    | with_reducible apply State.clamp_ok | with_reducible apply State.ethCpl_ok
    | with_reducible apply State.descFetched_ok | split | dsimp +zetaDelta -zeta only

theorem execRxbuf_ok {pcs : Piece → Prop} {b0 : State} (n : RingId) (d : Words8) (s : State) (hok : Ok pcs b0 s)
    (hp0 : pcs .regs := by assumption) (hp1 : pcs .host := by assumption) (hp2 : pcs .rings := by assumption)
    (hp3 : pcs .irq := by assumption) :
    OkO pcs b0 (execRxbuf n d s) := by
  delta execRxbuf
  repeat' first
    | with_reducible assumption | extract_lets | intro _ | with_reducible apply okO_next
    | with_reducible apply okO_ite | with_reducible apply ok_ite | with_reducible apply State.sqFetch_ok
    | with_reducible apply State.clamp_ok | with_reducible apply State.modCq_ok
    | with_reducible apply State.sqComplete_ok | split | dsimp +zetaDelta -zeta only

theorem execIoNop_ok {pcs : Piece → Prop} {b0 : State} (n : RingId) (d : Words8) (s : State) (hok : Ok pcs b0 s)
    (hp0 : pcs .regs := by assumption) (hp1 : pcs .host := by assumption) (hp2 : pcs .rings := by assumption)
    (hp3 : pcs .irq := by assumption) :
    OkO pcs b0 (execIoNop n d s) := by
  delta execIoNop
  repeat' first
    | with_reducible assumption | extract_lets | intro _ | with_reducible apply okO_next
    | with_reducible apply okO_ite | with_reducible apply ok_ite | with_reducible apply State.sqFetch_ok
    | with_reducible apply State.clamp_ok | with_reducible apply State.sqComplete_ok | split
    | dsimp +zetaDelta -zeta only

theorem State.postBufs_ok {pcs : Piece → Prop} {b0 : State} (s : State) (f : Nat) (size : Nat) (data : List Byte)
    (a4 : List Buf) (hok : Ok pcs b0 s) (hp0 : pcs .host := by assumption) :
    Ok pcs b0 (State.postBufs s f size data a4) := by
  induction a4 generalizing s f size data <;> unfold State.postBufs
  all_goals repeat' first
    | apply_assumption | extract_lets | intro _ | with_reducible apply State.post_ok | split
    | dsimp +zetaDelta -zeta only

theorem execRxCompletionWrite_ok {pcs : Piece → Prop} {b0 : State} (n : RingId) (s : State) (hok : Ok pcs b0 s)
    (hp0 : pcs .regs := by assumption) (hp1 : pcs .host := by assumption) (hp2 : pcs .firn := by assumption)
    (hp3 : pcs .rings := by assumption) (hp4 : pcs .irq := by assumption) :
    OkO pcs b0 (execRxCompletionWrite n s) := by
  delta execRxCompletionWrite
  repeat' first
    | with_reducible assumption | extract_lets | intro _ | with_reducible apply okO_next
    | with_reducible apply okO_ite | with_reducible apply ok_ite | with_reducible apply State.setCq_ok
    | with_reducible apply State.satAdd_ok | with_reducible apply State.cqRelease_ok
    | with_reducible apply State.postBufs_ok | with_reducible apply State.cqWrite_ok | split
    | dsimp +zetaDelta -zeta only

theorem execDeadlineExpiry_ok {pcs : Piece → Prop} {b0 : State} (dst : Fin 132) (ent : Nat) (s : State)
    (hok : Ok pcs b0 s) (hp0 : pcs .regs := by assumption) (hp1 : pcs .mem := by assumption)
    (hp2 : pcs .host := by assumption) (hp3 : pcs .tx := by assumption) (hp4 : pcs .firn := by assumption)
    (hp5 : pcs .rings := by assumption) (hp6 : pcs .irq := by assumption) (hp7 : pcs .eths := by assumption)
    (hp8 : pcs .poison := by assumption) :
    OkO pcs b0 (execDeadlineExpiry dst ent s) := by
  delta execDeadlineExpiry
  repeat' first
    | with_reducible assumption | extract_lets | intro _ | with_reducible apply okO_next
    | with_reducible apply okO_ite | with_reducible apply ok_ite | with_reducible apply State.expireEntry_ok
    | with_reducible apply State.modEth_ok | with_reducible apply State.ethCpl_ok
    | with_reducible apply State.ethRelease_ok | split | dsimp +zetaDelta -zeta only
end Sys2Proof.Machine
end

