-- ==== Sys2Proof/Laws/OkSlot.lean ====
section
/-! SUPPORT. Frames in Col slots: every operation of Machine/Slot.lean keeps the queue and a sane state, and changes no
piece but the ones it names. -/
namespace Sys2Proof.Machine
set_option Elab.async false

theorem State.descArrive_ok {pcs : Piece → Prop} {b0 : State} (s : State) (p : Nat) (fid : Nat) (hok : Ok pcs b0 s)
    (hp0 : pcs .regs := by assumption) (hp1 : pcs .mem := by assumption) (hp2 : pcs .host := by assumption)
    (hp3 : pcs .tx := by assumption) (hp4 : pcs .firn := by assumption) (hp5 : pcs .rings := by assumption)
    (hp6 : pcs .irq := by assumption) (hp7 : pcs .eths := by assumption) (hp8 : pcs .poison := by assumption) :
    Ok pcs b0 (State.descArrive s p fid) := by
  delta State.descArrive
  repeat' first
    | with_reducible assumption | extract_lets | intro _ | with_reducible apply State.withFetched_ok
    | with_reducible apply State.descEnter_ok | with_reducible apply State.releaseAt_ok | split
    | dsimp +zetaDelta -zeta only

theorem State.deliver_ok {pcs : Piece → Prop} {b0 : State} (s : State) (p : Nat) (x : VoqItem) (hok : Ok pcs b0 s)
    (hp0 : pcs .free := by assumption) (hp1 : pcs .regs := by assumption) (hp2 : pcs .mem := by assumption)
    (hp3 : pcs .host := by assumption) (hp4 : pcs .tx := by assumption) (hp5 : pcs .col := by assumption)
    (hp6 : pcs .firn := by assumption) (hp7 : pcs .rings := by assumption) (hp8 : pcs .irq := by assumption)
    (hp9 : pcs .mor := by assumption) (hp10 : pcs .eths := by assumption) (hp11 : pcs .poison := by assumption) :
    Ok pcs b0 (State.deliver s p x) := by
  delta State.deliver
  repeat' first
    | with_reducible assumption | extract_lets | intro _ | with_reducible apply ok_ite
    | with_reducible apply State.deliverBuses_ok | with_reducible apply State.deliverRings_ok
    | with_reducible apply State.deliverEth_ok | with_reducible apply State.withMor_ok
    | with_reducible apply State.descArrive_ok | with_reducible apply State.releaseAt_ok | split
    | dsimp +zetaDelta -zeta only

theorem State.ctReady_ok {pcs : Piece → Prop} {b0 : State} (s : State) (hok : Ok pcs b0 s)
    (hp0 : pcs .free := by assumption) :
    Ok2 pcs b0 (State.ctReady s) := by
  delta State.ctReady
  repeat' first
    | with_reducible assumption | extract_lets | intro _ | with_reducible apply ok2_ite
    | with_reducible apply ok_ite | with_reducible apply State.drawWord_ok
    | with_reducible apply State.drawWord_ok' | (refine ok2_eq (by with_reducible assumption) ?_)
    | exact ok2_snd (by with_reducible assumption) | with_reducible apply ok_foldl | with_reducible apply ok2_foldl
    | with_reducible apply ok_foldl2 | with_reducible apply ok_ite2 | with_reducible apply ok1_foldl
    | with_reducible apply ok_foldl1 | with_reducible apply ok_ite1 | split | with_reducible apply ok2_mk
    | dsimp +zetaDelta -zeta only

theorem State.ctReady_ok' {pcs : Piece → Prop} {b0 : State} (s : State) (hok : Ok pcs b0 s)
    (hp0 : pcs .free := by assumption) :
    Ok pcs b0 (State.ctReady s).2 := State.ctReady_ok s hok hp0

theorem State.movePtrs_ok {pcs : Piece → Prop} {b0 : State} (s : State) (m : SlotMatch) (hok : Ok pcs b0 s)
    (hp0 : pcs .col := by assumption) :
    Ok pcs b0 (State.movePtrs s m) := by
  delta State.movePtrs
  repeat' first
    | with_reducible assumption | extract_lets | intro _ | with_reducible apply State.modPtr_ok | split
    | dsimp +zetaDelta -zeta only

theorem State.slotRound_ok {pcs : Piece → Prop} {b0 : State} (s : State) (ready : List (Nat × Nat)) (first : Bool)
    (ms : List SlotMatch) (hok : Ok pcs b0 s) (hp0 : pcs .col := by assumption) :
    Ok2 pcs b0 (State.slotRound s ready first ms) := by
  delta State.slotRound
  repeat' first
    | with_reducible assumption | extract_lets | intro _ | with_reducible apply ok2_ite
    | with_reducible apply ok_ite | with_reducible apply State.movePtrs_ok | with_reducible apply ok_foldl
    | with_reducible apply ok2_foldl | with_reducible apply ok_foldl2 | with_reducible apply ok_ite2
    | with_reducible apply ok1_foldl | with_reducible apply ok_foldl1 | with_reducible apply ok_ite1 | split
    | with_reducible apply ok2_mk | dsimp +zetaDelta -zeta only

theorem State.slotRound_ok' {pcs : Piece → Prop} {b0 : State} (s : State) (ready : List (Nat × Nat)) (first : Bool)
    (ms : List SlotMatch) (hok : Ok pcs b0 s) (hp0 : pcs .col := by assumption) :
    Ok pcs b0 (State.slotRound s ready first ms).2 := State.slotRound_ok s ready first ms hok hp0

theorem State.slotRounds_ok {pcs : Piece → Prop} {b0 : State} (s : State) (ready : List (Nat × Nat)) (first : Bool)
    (ms : List SlotMatch) (a4 : Nat) (hok : Ok pcs b0 s) (hp0 : pcs .col := by assumption) :
    Ok2 pcs b0 (State.slotRounds s ready first ms a4) := by
  induction a4 generalizing s ready first ms <;> unfold State.slotRounds
  all_goals repeat' first
    | apply_assumption | extract_lets | intro _ | with_reducible apply ok2_ite
    | with_reducible apply State.slotRound_ok | with_reducible apply State.slotRound_ok'
    | (refine ok2_eq (by with_reducible assumption) ?_) | split | with_reducible apply ok2_mk
    | dsimp +zetaDelta -zeta only

theorem State.slotRounds_ok' {pcs : Piece → Prop} {b0 : State} (s : State) (ready : List (Nat × Nat)) (first : Bool)
    (ms : List SlotMatch) (a4 : Nat) (hok : Ok pcs b0 s) (hp0 : pcs .col := by assumption) :
    Ok pcs b0 (State.slotRounds s ready first ms a4).2 := State.slotRounds_ok s ready first ms a4 hok hp0

theorem State.moveCell_ok {pcs : Piece → Prop} {b0 : State} (s : State) (m : SlotMatch) (hok : Ok pcs b0 s)
    (hp0 : pcs .free := by assumption) (hp1 : pcs .regs := by assumption) (hp2 : pcs .mem := by assumption)
    (hp3 : pcs .host := by assumption) (hp4 : pcs .tx := by assumption) (hp5 : pcs .col := by assumption)
    (hp6 : pcs .firn := by assumption) (hp7 : pcs .rings := by assumption) (hp8 : pcs .irq := by assumption)
    (hp9 : pcs .mor := by assumption) (hp10 : pcs .eths := by assumption) (hp11 : pcs .poison := by assumption) :
    Ok pcs b0 (State.moveCell s m) := by
  delta State.moveCell
  repeat' first
    | with_reducible assumption | extract_lets | intro _ | with_reducible apply ok_ite
    | with_reducible apply State.satAdd_ok | with_reducible apply State.setCtq_ok
    | with_reducible apply State.setVoq_ok | with_reducible apply State.deliver_ok | split
    | dsimp +zetaDelta -zeta only

theorem execColSlot_ok {pcs : Piece → Prop} {b0 : State} (s : State) (hok : Ok pcs b0 s)
    (hp0 : pcs .free := by assumption) (hp1 : pcs .regs := by assumption) (hp2 : pcs .mem := by assumption)
    (hp3 : pcs .host := by assumption) (hp4 : pcs .tx := by assumption) (hp5 : pcs .col := by assumption)
    (hp6 : pcs .firn := by assumption) (hp7 : pcs .rings := by assumption) (hp8 : pcs .irq := by assumption)
    (hp9 : pcs .mor := by assumption) (hp10 : pcs .eths := by assumption) (hp11 : pcs .poison := by assumption) :
    OkO pcs b0 (execColSlot s) := by
  delta execColSlot
  repeat' first
    | with_reducible assumption | extract_lets | intro _ | with_reducible apply okO_next
    | with_reducible apply okO_ite | with_reducible apply ok_ite | with_reducible apply State.ctReady_ok
    | with_reducible apply State.ctReady_ok' | with_reducible apply State.slotRounds_ok
    | with_reducible apply State.slotRounds_ok' | with_reducible apply State.moveCell_ok
    | (refine ok2_eq (by with_reducible assumption) ?_) | exact ok2_snd (by with_reducible assumption)
    | with_reducible apply ok_foldl | with_reducible apply ok2_foldl | with_reducible apply ok_foldl2
    | with_reducible apply ok_ite2 | with_reducible apply ok1_foldl | with_reducible apply ok_foldl1
    | with_reducible apply ok_ite1 | split | dsimp +zetaDelta -zeta only
end Sys2Proof.Machine
end

