-- ==== Sys2Proof/Laws/OkRing.lean ====
section
/-! SUPPORT. Rings and functions: every operation of Machine/Ring.lean keeps the queue and a sane state, and changes no
piece but the ones it names. -/
namespace Sys2Proof.Machine
set_option Elab.async false

theorem execSqTailDoorbell_ok {pcs : Piece → Prop} {b0 : State} (f : Fn) (n : RingId) (v : Word) (s : State)
    (hok : Ok pcs b0 s) (hp0 : pcs .regs := by assumption) (hp1 : pcs .rings := by assumption)
    (hp2 : pcs .irq := by assumption) :
    OkO pcs b0 (execSqTailDoorbell f n v s) := by
  delta execSqTailDoorbell
  repeat' first
    | with_reducible assumption | extract_lets | intro _ | with_reducible apply okO_next
    | with_reducible apply okO_ite | with_reducible apply ok_ite | with_reducible apply State.setSq_ok
    | with_reducible apply State.clamp_ok | with_reducible apply State.raiseIf_ok | split
    | dsimp +zetaDelta -zeta only

theorem execCqHeadDoorbell_ok {pcs : Piece → Prop} {b0 : State} (f : Fn) (n : RingId) (v : Word) (s : State)
    (hok : Ok pcs b0 s) (hp0 : pcs .regs := by assumption) (hp1 : pcs .rings := by assumption) :
    OkO pcs b0 (execCqHeadDoorbell f n v s) := by
  delta execCqHeadDoorbell
  repeat' first
    | with_reducible assumption | extract_lets | intro _ | with_reducible apply okO_next
    | with_reducible apply okO_ite | with_reducible apply ok_ite | with_reducible apply State.setCq_ok
    | with_reducible apply State.clamp_ok | split | dsimp +zetaDelta -zeta only

theorem execAdminSqTailDoorbell_ok {pcs : Piece → Prop} {b0 : State} (f : Fn) (v : Word) (s : State)
    (hok : Ok pcs b0 s) (hp0 : pcs .regs := by assumption) (hp1 : pcs .rings := by assumption) :
    OkO pcs b0 (execAdminSqTailDoorbell f v s) := by
  delta execAdminSqTailDoorbell
  repeat' first
    | with_reducible assumption | extract_lets | intro _ | with_reducible apply okO_next
    | with_reducible apply okO_ite | with_reducible apply ok_ite | with_reducible apply State.modFunc_ok
    | with_reducible apply State.clamp_ok | split | dsimp +zetaDelta -zeta only

theorem execAdminCqHeadDoorbell_ok {pcs : Piece → Prop} {b0 : State} (f : Fn) (v : Word) (s : State)
    (hok : Ok pcs b0 s) (hp0 : pcs .regs := by assumption) (hp1 : pcs .rings := by assumption) :
    OkO pcs b0 (execAdminCqHeadDoorbell f v s) := by
  delta execAdminCqHeadDoorbell
  repeat' first
    | with_reducible assumption | extract_lets | intro _ | with_reducible apply okO_next
    | with_reducible apply okO_ite | with_reducible apply ok_ite | with_reducible apply State.setFunc_ok
    | with_reducible apply State.clamp_ok | split | dsimp +zetaDelta -zeta only

theorem execAdminNop_ok {pcs : Piece → Prop} {b0 : State} (f : Fn) (d : Words8) (s : State) (hok : Ok pcs b0 s)
    (hp0 : pcs .host := by assumption) (hp1 : pcs .rings := by assumption) (hp2 : pcs .irq := by assumption) :
    OkO pcs b0 (execAdminNop f d s) := by
  delta execAdminNop
  repeat' first
    | with_reducible assumption | extract_lets | intro _ | with_reducible apply okO_next
    | with_reducible apply okO_ite | with_reducible apply adminCmd_ok | with_reducible apply adminCmd_ok'
    | with_reducible apply State.adminDone_ok | split | dsimp +zetaDelta -zeta only

theorem execAdminOpcodeUnknown_ok {pcs : Piece → Prop} {b0 : State} (f : Fn) (d : Words8) (s : State)
    (hok : Ok pcs b0 s) (hp0 : pcs .host := by assumption) (hp1 : pcs .rings := by assumption)
    (hp2 : pcs .irq := by assumption) :
    OkO pcs b0 (execAdminOpcodeUnknown f d s) := by
  delta execAdminOpcodeUnknown
  repeat' first
    | with_reducible assumption | extract_lets | intro _ | with_reducible apply okO_next
    | with_reducible apply okO_ite | with_reducible apply ok_ite | with_reducible apply adminCmd_ok
    | with_reducible apply adminCmd_ok' | with_reducible apply State.adminRefuse_ok | split
    | dsimp +zetaDelta -zeta only

theorem execFuncEnable_ok {pcs : Piece → Prop} {b0 : State} (f : Fn) (d : Words8) (s : State) (hok : Ok pcs b0 s)
    (hp0 : pcs .regs := by assumption) (hp1 : pcs .host := by assumption) (hp2 : pcs .rings := by assumption)
    (hp3 : pcs .irq := by assumption) :
    OkO pcs b0 (execFuncEnable f d s) := by
  delta execFuncEnable
  repeat' first
    | with_reducible assumption | extract_lets | intro _ | with_reducible apply okO_next
    | with_reducible apply okO_ite | with_reducible apply ok_ite | with_reducible apply adminCmd_ok
    | with_reducible apply adminCmd_ok' | with_reducible apply State.adminRefuse_ok
    | with_reducible apply State.setB_ok | with_reducible apply State.adminDone_ok | split
    | dsimp +zetaDelta -zeta only

theorem State.createCq_ok {pcs : Piece → Prop} {b0 : State} (s : State) (r : AdminRef) (d : Words8)
    (hok : Ok pcs b0 s) (hp0 : pcs .regs := by assumption) (hp1 : pcs .host := by assumption)
    (hp2 : pcs .rings := by assumption) (hp3 : pcs .irq := by assumption) :
    Ok pcs b0 (State.createCq s r d) := by
  delta State.createCq
  repeat' first
    | with_reducible assumption | extract_lets | intro _ | with_reducible apply ok_ite
    | with_reducible apply State.adminRefuse_ok | with_reducible apply State.clamp_ok
    | with_reducible apply State.setCq_ok | with_reducible apply State.adminDone_ok | split
    | dsimp +zetaDelta -zeta only

theorem execRingCreateCq_ok {pcs : Piece → Prop} {b0 : State} (f : Fn) (d : Words8) (s : State) (hok : Ok pcs b0 s)
    (hp0 : pcs .regs := by assumption) (hp1 : pcs .host := by assumption) (hp2 : pcs .rings := by assumption)
    (hp3 : pcs .irq := by assumption) :
    OkO pcs b0 (execRingCreateCq f d s) := by
  delta execRingCreateCq
  repeat' first
    | with_reducible assumption | extract_lets | intro _ | with_reducible apply okO_next
    | with_reducible apply okO_ite | with_reducible apply adminCmd_ok | with_reducible apply adminCmd_ok'
    | with_reducible apply State.createCq_ok | split | dsimp +zetaDelta -zeta only

theorem State.createSq_ok {pcs : Piece → Prop} {b0 : State} (s : State) (r : AdminRef) (d : Words8)
    (hok : Ok pcs b0 s) (hp0 : pcs .regs := by assumption) (hp1 : pcs .host := by assumption)
    (hp2 : pcs .rings := by assumption) (hp3 : pcs .irq := by assumption) :
    Ok pcs b0 (State.createSq s r d) := by
  delta State.createSq
  repeat' first
    | with_reducible assumption | extract_lets | intro _ | with_reducible apply ok_ite
    | with_reducible apply State.adminRefuse_ok | with_reducible apply State.clamp_ok
    | with_reducible apply State.setSq_ok | with_reducible apply State.adminDone_ok | split
    | dsimp +zetaDelta -zeta only

theorem State.sqExpireDue_ok {pcs : Piece → Prop} {b0 : State} (s : State) (n : Nat) (hok : Ok pcs b0 s)
    (hp0 : pcs .regs := by assumption) (hp1 : pcs .mem := by assumption) (hp2 : pcs .host := by assumption)
    (hp3 : pcs .tx := by assumption) (hp4 : pcs .firn := by assumption) (hp5 : pcs .rings := by assumption)
    (hp6 : pcs .irq := by assumption) (hp7 : pcs .eths := by assumption) (hp8 : pcs .poison := by assumption) :
    Ok pcs b0 (State.sqExpireDue s n) := by
  delta State.sqExpireDue
  repeat' first
    | with_reducible assumption | extract_lets | intro _ | with_reducible apply ok_ite
    | with_reducible apply State.expireEntry_ok | with_reducible apply State.ethExpireDue_ok
    | with_reducible apply ok_foldl | with_reducible apply ok2_foldl | with_reducible apply ok_foldl2
    | with_reducible apply ok_ite2 | with_reducible apply ok1_foldl | with_reducible apply ok_foldl1
    | with_reducible apply ok_ite1 | split | dsimp +zetaDelta -zeta only

theorem State.markWire_ok {pcs : Piece → Prop} {b0 : State} (s : State) (e : Nat) (m : Mark) (hok : Ok pcs b0 s)
    (hp0 : pcs .eths := by assumption) :
    Ok pcs b0 (State.markWire s e m) := by
  delta State.markWire
  repeat' first
    | with_reducible assumption | extract_lets | intro _ | with_reducible apply ok_ite
    | with_reducible apply State.modEth_ok | split | dsimp +zetaDelta -zeta only

theorem State.markSq_ok {pcs : Piece → Prop} {b0 : State} (s : State) (n : Nat) (m : Mark) (hok : Ok pcs b0 s)
    (hp0 : pcs .regs := by assumption) (hp1 : pcs .mem := by assumption) (hp2 : pcs .host := by assumption)
    (hp3 : pcs .tx := by assumption) (hp4 : pcs .col := by assumption) (hp5 : pcs .firn := by assumption)
    (hp6 : pcs .rings := by assumption) (hp7 : pcs .irq := by assumption) (hp8 : pcs .eths := by assumption)
    (hp9 : pcs .poison := by assumption) :
    Ok pcs b0 (State.markSq s n m) := by
  delta State.markSq
  repeat' first
    | with_reducible assumption | extract_lets | intro _ | with_reducible apply ok_ite
    | with_reducible apply State.withFetched_ok | with_reducible apply State.uncross_ok
    | with_reducible apply State.fetchedCpl_ok | with_reducible apply State.markEntry_ok
    | with_reducible apply State.ethDropWhere_ok | with_reducible apply State.ethCpl_ok
    | with_reducible apply State.markWire_ok | with_reducible apply ok_foldl | with_reducible apply ok2_foldl
    | with_reducible apply ok_foldl2 | with_reducible apply ok_ite2 | with_reducible apply ok1_foldl
    | with_reducible apply ok_foldl1 | with_reducible apply ok_ite1 | split | dsimp +zetaDelta -zeta only

theorem State.deleteSq_ok {pcs : Piece → Prop} {b0 : State} (s : State) (r : AdminRef) (d : Words8)
    (hok : Ok pcs b0 s) (hp0 : pcs .regs := by assumption) (hp1 : pcs .mem := by assumption)
    (hp2 : pcs .host := by assumption) (hp3 : pcs .tx := by assumption) (hp4 : pcs .col := by assumption)
    (hp5 : pcs .firn := by assumption) (hp6 : pcs .rings := by assumption) (hp7 : pcs .irq := by assumption)
    (hp8 : pcs .eths := by assumption) (hp9 : pcs .poison := by assumption) :
    Ok pcs b0 (State.deleteSq s r d) := by
  delta State.deleteSq
  repeat' first
    | with_reducible assumption | extract_lets | intro _ | with_reducible apply ok_ite
    | with_reducible apply State.adminRefuse_ok | with_reducible apply State.sqExpireDue_ok
    | with_reducible apply State.modSq_ok | with_reducible apply State.markSq_ok | split
    | dsimp +zetaDelta -zeta only

theorem State.sqCmd_ok {pcs : Piece → Prop} {b0 : State} (s : State) (r : AdminRef) (d : Words8) (hok : Ok pcs b0 s)
    (hp0 : pcs .regs := by assumption) (hp1 : pcs .mem := by assumption) (hp2 : pcs .host := by assumption)
    (hp3 : pcs .tx := by assumption) (hp4 : pcs .col := by assumption) (hp5 : pcs .firn := by assumption)
    (hp6 : pcs .rings := by assumption) (hp7 : pcs .irq := by assumption) (hp8 : pcs .eths := by assumption)
    (hp9 : pcs .poison := by assumption) :
    Ok pcs b0 (State.sqCmd s r d) := by
  delta State.sqCmd
  repeat' first
    | with_reducible assumption | extract_lets | intro _ | with_reducible apply ok_ite
    | with_reducible apply State.withHeld_ok | with_reducible apply State.createSq_ok
    | with_reducible apply State.deleteSq_ok | split | dsimp +zetaDelta -zeta only

theorem State.sqRejudge_ok {pcs : Piece → Prop} {b0 : State} (s : State) (n : Nat) (hok : Ok pcs b0 s)
    (hp0 : pcs .regs := by assumption) (hp1 : pcs .mem := by assumption) (hp2 : pcs .host := by assumption)
    (hp3 : pcs .tx := by assumption) (hp4 : pcs .col := by assumption) (hp5 : pcs .firn := by assumption)
    (hp6 : pcs .rings := by assumption) (hp7 : pcs .irq := by assumption) (hp8 : pcs .eths := by assumption)
    (hp9 : pcs .poison := by assumption) :
    Ok pcs b0 (State.sqRejudge s n) := by
  delta State.sqRejudge
  repeat' first
    | with_reducible assumption | extract_lets | intro _ | with_reducible apply State.sqCmd_ok
    | with_reducible apply State.withHeld_ok | with_reducible apply ok_foldl | with_reducible apply ok2_foldl
    | with_reducible apply ok_foldl2 | with_reducible apply ok_ite2 | with_reducible apply ok1_foldl
    | with_reducible apply ok_foldl1 | with_reducible apply ok_ite1 | split | dsimp +zetaDelta -zeta only

theorem execRingCreateSq_ok {pcs : Piece → Prop} {b0 : State} (f : Fn) (d : Words8) (s : State) (hok : Ok pcs b0 s)
    (hp0 : pcs .regs := by assumption) (hp1 : pcs .mem := by assumption) (hp2 : pcs .host := by assumption)
    (hp3 : pcs .tx := by assumption) (hp4 : pcs .col := by assumption) (hp5 : pcs .firn := by assumption)
    (hp6 : pcs .rings := by assumption) (hp7 : pcs .irq := by assumption) (hp8 : pcs .eths := by assumption)
    (hp9 : pcs .poison := by assumption) :
    OkO pcs b0 (execRingCreateSq f d s) := by
  delta execRingCreateSq
  repeat' first
    | with_reducible assumption | extract_lets | intro _ | with_reducible apply okO_next
    | with_reducible apply okO_ite | with_reducible apply adminCmd_ok | with_reducible apply adminCmd_ok'
    | with_reducible apply State.sqCmd_ok | split | dsimp +zetaDelta -zeta only

theorem execRingDeleteSq_ok {pcs : Piece → Prop} {b0 : State} (f : Fn) (d : Words8) (s : State) (hok : Ok pcs b0 s)
    (hp0 : pcs .regs := by assumption) (hp1 : pcs .mem := by assumption) (hp2 : pcs .host := by assumption)
    (hp3 : pcs .tx := by assumption) (hp4 : pcs .col := by assumption) (hp5 : pcs .firn := by assumption)
    (hp6 : pcs .rings := by assumption) (hp7 : pcs .irq := by assumption) (hp8 : pcs .eths := by assumption)
    (hp9 : pcs .poison := by assumption) :
    OkO pcs b0 (execRingDeleteSq f d s) := by
  delta execRingDeleteSq
  repeat' first
    | with_reducible assumption | extract_lets | intro _ | with_reducible apply okO_next
    | with_reducible apply okO_ite | with_reducible apply ok_ite | with_reducible apply adminCmd_ok
    | with_reducible apply adminCmd_ok' | with_reducible apply State.sqCmd_ok | split | dsimp +zetaDelta -zeta only

theorem execRingDeleteSqCommit_ok {pcs : Piece → Prop} {b0 : State} (n : RingId) (s : State) (hok : Ok pcs b0 s)
    (hp0 : pcs .regs := by assumption) (hp1 : pcs .mem := by assumption) (hp2 : pcs .host := by assumption)
    (hp3 : pcs .tx := by assumption) (hp4 : pcs .col := by assumption) (hp5 : pcs .firn := by assumption)
    (hp6 : pcs .rings := by assumption) (hp7 : pcs .irq := by assumption) (hp8 : pcs .eths := by assumption)
    (hp9 : pcs .poison := by assumption) :
    OkO pcs b0 (execRingDeleteSqCommit n s) := by
  delta execRingDeleteSqCommit
  repeat' first
    | with_reducible assumption | extract_lets | intro _ | with_reducible apply okO_next
    | with_reducible apply okO_ite | with_reducible apply ok_ite | with_reducible apply State.setSq_ok
    | with_reducible apply State.adminDone2_ok | with_reducible apply State.sqRejudge_ok | split
    | dsimp +zetaDelta -zeta only

theorem State.deleteCq_ok {pcs : Piece → Prop} {b0 : State} (s : State) (r : AdminRef) (d : Words8)
    (hok : Ok pcs b0 s) (hp0 : pcs .regs := by assumption) (hp1 : pcs .host := by assumption)
    (hp2 : pcs .firn := by assumption) (hp3 : pcs .rings := by assumption) (hp4 : pcs .irq := by assumption) :
    Ok pcs b0 (State.deleteCq s r d) := by
  delta State.deleteCq
  repeat' first
    | with_reducible assumption | extract_lets | intro _ | with_reducible apply ok_ite
    | with_reducible apply State.adminRefuse_ok | with_reducible apply State.setCq_ok
    | with_reducible apply State.cqRelease_ok | with_reducible apply State.satAdd_ok
    | with_reducible apply State.adminDone_ok | with_reducible apply ok_foldl | with_reducible apply ok2_foldl
    | with_reducible apply ok_foldl2 | with_reducible apply ok_ite2 | with_reducible apply ok1_foldl
    | with_reducible apply ok_foldl1 | with_reducible apply ok_ite1 | split | dsimp +zetaDelta -zeta only

theorem execRingDeleteCq_ok {pcs : Piece → Prop} {b0 : State} (f : Fn) (d : Words8) (s : State) (hok : Ok pcs b0 s)
    (hp0 : pcs .regs := by assumption) (hp1 : pcs .host := by assumption) (hp2 : pcs .firn := by assumption)
    (hp3 : pcs .rings := by assumption) (hp4 : pcs .irq := by assumption) :
    OkO pcs b0 (execRingDeleteCq f d s) := by
  delta execRingDeleteCq
  repeat' first
    | with_reducible assumption | extract_lets | intro _ | with_reducible apply okO_next
    | with_reducible apply okO_ite | with_reducible apply ok_ite | with_reducible apply adminCmd_ok
    | with_reducible apply adminCmd_ok' | with_reducible apply State.deleteCq_ok | split
    | dsimp +zetaDelta -zeta only

theorem State.adoptCq_ok {pcs : Piece → Prop} {b0 : State} (s : State) (f : Nat) (n : Nat) (hok : Ok pcs b0 s)
    (hp0 : pcs .regs := by assumption) (hp1 : pcs .firn := by assumption) (hp2 : pcs .rings := by assumption)
    (hp3 : pcs .irq := by assumption) :
    Ok pcs b0 (State.adoptCq s f n) := by
  delta State.adoptCq
  repeat' first
    | with_reducible assumption | extract_lets | intro _ | with_reducible apply State.setCq_ok
    | with_reducible apply State.rehome_ok | with_reducible apply ok_foldl | with_reducible apply ok2_foldl
    | with_reducible apply ok_foldl2 | with_reducible apply ok_ite2 | with_reducible apply ok1_foldl
    | with_reducible apply ok_foldl1 | with_reducible apply ok_ite1 | split | dsimp +zetaDelta -zeta only

theorem State.adopt_ok {pcs : Piece → Prop} {b0 : State} (s : State) (r : AdminRef) (d : Words8) (hok : Ok pcs b0 s)
    (hp0 : pcs .regs := by assumption) (hp1 : pcs .host := by assumption) (hp2 : pcs .firn := by assumption)
    (hp3 : pcs .rings := by assumption) (hp4 : pcs .irq := by assumption) :
    Ok pcs b0 (State.adopt s r d) := by
  delta State.adopt
  repeat' first
    | with_reducible assumption | extract_lets | intro _ | with_reducible apply ok_ite
    | with_reducible apply State.adminRefuse_ok | with_reducible apply State.clamp_ok
    | with_reducible apply State.adoptCq_ok | with_reducible apply State.adminDone2_ok
    | with_reducible apply ok_foldl | with_reducible apply ok2_foldl | with_reducible apply ok_foldl2
    | with_reducible apply ok_ite2 | with_reducible apply ok1_foldl | with_reducible apply ok_foldl1
    | with_reducible apply ok_ite1 | split | dsimp +zetaDelta -zeta only

theorem execAdoptRings_ok {pcs : Piece → Prop} {b0 : State} (f : Fn) (d : Words8) (s : State) (hok : Ok pcs b0 s)
    (hp0 : pcs .regs := by assumption) (hp1 : pcs .host := by assumption) (hp2 : pcs .firn := by assumption)
    (hp3 : pcs .rings := by assumption) (hp4 : pcs .irq := by assumption) :
    OkO pcs b0 (execAdoptRings f d s) := by
  delta execAdoptRings
  repeat' first
    | with_reducible assumption | extract_lets | intro _ | with_reducible apply okO_next
    | with_reducible apply okO_ite | with_reducible apply adminCmd_ok | with_reducible apply adminCmd_ok'
    | with_reducible apply State.adopt_ok | split | dsimp +zetaDelta -zeta only

theorem State.cancelTag_ok {pcs : Piece → Prop} {b0 : State} (s t : State) (n : Nat) (tag : Word)
    (hok : Ok pcs b0 s) (h : s.cancelTag n tag = some t) (hp0 : pcs .regs := by assumption)
    (hp1 : pcs .mem := by assumption) (hp2 : pcs .host := by assumption) (hp3 : pcs .tx := by assumption)
    (hp4 : pcs .col := by assumption) (hp5 : pcs .firn := by assumption) (hp6 : pcs .rings := by assumption)
    (hp7 : pcs .irq := by assumption) (hp8 : pcs .eths := by assumption) (hp9 : pcs .poison := by assumption) :
    Ok pcs b0 t := by
  unfold State.cancelTag at h
  split at h
  · cases h; exact State.markEntry_ok _ _ _ _ hok
  split at h
  · cases h; exact State.markWire_ok _ _ _ hok
  split at h
  · split at h
    · dsimp only at h
      split at h <;> cases h
      · exact State.ethRelease_ok _ _ _ (State.ethCpl_ok _ _ _ _ _ (State.modEth_ok _ _ _ hok))
      · exact State.modEth_ok _ _ _ hok
    · cases h
  · obtain ⟨r, _, rfl⟩ := Option.map_eq_some_iff.1 h
    exact State.fetchedCpl_ok _ _ _ (State.uncross_ok _ _ (State.withFetched_ok _ _ hok))


theorem execTxCancel_ok {pcs : Piece → Prop} {b0 : State} (f : Fn) (d : Words8) (s : State) (hok : Ok pcs b0 s)
    (hp0 : pcs .regs := by assumption) (hp1 : pcs .mem := by assumption) (hp2 : pcs .host := by assumption)
    (hp3 : pcs .tx := by assumption) (hp4 : pcs .col := by assumption) (hp5 : pcs .firn := by assumption)
    (hp6 : pcs .rings := by assumption) (hp7 : pcs .irq := by assumption) (hp8 : pcs .eths := by assumption)
    (hp9 : pcs .poison := by assumption) :
    OkO pcs b0 (execTxCancel f d s) := by
  refine adminCmd_ok _ _ _ _ _ hok fun s r h => ?_
  refine ok_ite (State.adminRefuse_ok _ _ _ h) ?_
  have h' := State.sqExpireDue_ok _ (ringOf d) h
  dsimp only
  split
  · next t ht => exact State.adminDone_ok _ _ (State.cancelTag_ok _ _ _ _ h' ht)
  · exact State.adminRefuse_ok _ _ _ h'

theorem execTxAbort_ok {pcs : Piece → Prop} {b0 : State} (f : Fn) (d : Words8) (s : State) (hok : Ok pcs b0 s)
    (hp0 : pcs .regs := by assumption) (hp1 : pcs .mem := by assumption) (hp2 : pcs .host := by assumption)
    (hp3 : pcs .tx := by assumption) (hp4 : pcs .col := by assumption) (hp5 : pcs .firn := by assumption)
    (hp6 : pcs .rings := by assumption) (hp7 : pcs .irq := by assumption) (hp8 : pcs .eths := by assumption)
    (hp9 : pcs .poison := by assumption) :
    OkO pcs b0 (execTxAbort f d s) := by
  delta execTxAbort
  repeat' first
    | with_reducible assumption | extract_lets | intro _ | with_reducible apply okO_next
    | with_reducible apply okO_ite | with_reducible apply ok_ite | with_reducible apply adminCmd_ok
    | with_reducible apply adminCmd_ok' | with_reducible apply State.adminRefuse_ok
    | with_reducible apply State.sqExpireDue_ok | with_reducible apply State.markSq_ok
    | with_reducible apply State.adminDone2_ok | split | dsimp +zetaDelta -zeta only
end Sys2Proof.Machine
end

