-- ==== Sys2Proof/Laws/OkEth.lean ====
section
/-! SUPPORT. Ethernet ports: every operation of Machine/Eth.lean keeps the queue and a sane state, and changes no
piece but the ones it names. -/
namespace Sys2Proof.Machine
set_option Elab.async false

theorem State.ptpSend_ok {pcs : Piece → Prop} {b0 : State} (s : State) (e : Nat) (bs : List Byte) (ingress : Nat)
    (port : Nat) (event : Bool) (hok : Ok pcs b0 s) (hp0 : pcs .regs := by assumption) :
    Ok2 pcs b0 (State.ptpSend s e bs ingress port event) := by
  delta State.ptpSend
  repeat' first
    | with_reducible assumption | extract_lets | intro _ | with_reducible apply ok2_ite
    | with_reducible apply ok_ite | with_reducible apply State.satAdd_ok | split | with_reducible apply ok2_mk
    | dsimp +zetaDelta -zeta only

theorem State.ptpSend_ok' {pcs : Piece → Prop} {b0 : State} (s : State) (e : Nat) (bs : List Byte) (ingress : Nat)
    (port : Nat) (event : Bool) (hok : Ok pcs b0 s) (hp0 : pcs .regs := by assumption) :
    Ok pcs b0 (State.ptpSend s e bs ingress port event).2 := State.ptpSend_ok s e bs ingress port event hok hp0

theorem State.portDrain_ok {pcs : Piece → Prop} {b0 : State} (s : State) (e : Nat) (hok : Ok pcs b0 s)
    (hp0 : pcs .regs := by assumption) (hp1 : pcs .host := by assumption) (hp2 : pcs .firn := by assumption)
    (hp3 : pcs .rings := by assumption) (hp4 : pcs .irq := by assumption) (hp5 : pcs .eths := by assumption) :
    Ok pcs b0 (State.portDrain s e) := by
  delta State.portDrain
  repeat' first
    | with_reducible assumption | extract_lets | intro _ | with_reducible apply State.ethExpireDue_ok
    | with_reducible apply State.modEth_ok | with_reducible apply State.setB_ok
    | with_reducible apply State.ethCpl_ok | with_reducible apply State.ethRelease_ok
    | with_reducible apply State.ethFree_ok | with_reducible apply ok_foldl | with_reducible apply ok2_foldl
    | with_reducible apply ok_foldl2 | with_reducible apply ok_ite2 | with_reducible apply ok1_foldl
    | with_reducible apply ok_foldl1 | with_reducible apply ok_ite1 | split | dsimp +zetaDelta -zeta only

theorem State.holdOut_ok {pcs : Piece → Prop} {b0 : State} (s : State) (e : Nat) (hok : Ok pcs b0 s)
    (hp0 : pcs .regs := by assumption) (hp1 : pcs .host := by assumption) (hp2 : pcs .firn := by assumption)
    (hp3 : pcs .rings := by assumption) (hp4 : pcs .irq := by assumption) (hp5 : pcs .eths := by assumption) :
    Ok pcs b0 (State.holdOut s e) := by
  delta State.holdOut
  repeat' first
    | with_reducible assumption | extract_lets | intro _ | with_reducible apply ok_ite
    | with_reducible apply State.portDrain_ok | with_reducible apply State.setB_ok
    | with_reducible apply State.raise_ok | split | dsimp +zetaDelta -zeta only

theorem execPortHoldExpiry_ok {pcs : Piece → Prop} {b0 : State} (e : PortId) (s : State) (hok : Ok pcs b0 s)
    (hp0 : pcs .regs := by assumption) (hp1 : pcs .host := by assumption) (hp2 : pcs .firn := by assumption)
    (hp3 : pcs .rings := by assumption) (hp4 : pcs .irq := by assumption) (hp5 : pcs .eths := by assumption) :
    OkO pcs b0 (execPortHoldExpiry e s) := by
  delta execPortHoldExpiry
  repeat' first
    | with_reducible assumption | extract_lets | intro _ | with_reducible apply okO_next
    | with_reducible apply okO_ite | with_reducible apply State.holdOut_ok | split | dsimp +zetaDelta -zeta only

theorem State.linkChange_ok {pcs : Piece → Prop} {b0 : State} (s : State) (e : Nat) (up : Bool) (hok : Ok pcs b0 s)
    (hp0 : pcs .regs := by assumption) (hp1 : pcs .irq := by assumption) :
    Ok pcs b0 (State.linkChange s e up) := by
  delta State.linkChange
  repeat' first
    | with_reducible assumption | extract_lets | intro _ | with_reducible apply State.setB_ok
    | with_reducible apply State.satAdd_ok | with_reducible apply State.raise_ok | split
    | dsimp +zetaDelta -zeta only

theorem State.moveFrame_ok {pcs : Piece → Prop} {b0 : State} (s : State) (e : Nat) (a : Nat) (g : Egress)
    (hok : Ok pcs b0 s) (hp0 : pcs .regs := by assumption) (hp1 : pcs .firn := by assumption)
    (hp2 : pcs .irq := by assumption) (hp3 : pcs .eths := by assumption) :
    Ok pcs b0 (State.moveFrame s e a g) := by
  delta State.moveFrame
  repeat' first
    | with_reducible assumption | extract_lets | intro _ | with_reducible apply ok_ite
    | with_reducible apply State.modEth_ok | with_reducible apply State.holdAt_ok
    | with_reducible apply State.ethRelease_ok | split | dsimp +zetaDelta -zeta only

theorem State.queueToAlt_ok {pcs : Piece → Prop} {b0 : State} (s : State) (e : Nat) (a : Nat) (hok : Ok pcs b0 s)
    (hp0 : pcs .regs := by assumption) (hp1 : pcs .firn := by assumption) (hp2 : pcs .irq := by assumption)
    (hp3 : pcs .eths := by assumption) :
    Ok pcs b0 (State.queueToAlt s e a) := by
  delta State.queueToAlt
  repeat' first
    | with_reducible assumption | extract_lets | intro _ | with_reducible apply State.modEth_ok
    | with_reducible apply State.moveFrame_ok | with_reducible apply ok_foldl | with_reducible apply ok2_foldl
    | with_reducible apply ok_foldl2 | with_reducible apply ok_ite2 | with_reducible apply ok1_foldl
    | with_reducible apply ok_foldl1 | with_reducible apply ok_ite1 | split | dsimp +zetaDelta -zeta only

theorem State.itemToAlt_ok {pcs : Piece → Prop} {b0 : State} (s : State) (e : Nat) (a : Nat) (k : Nat) (x : VoqItem)
    (hok : Ok pcs b0 s) (hp0 : pcs .regs := by assumption) (hp1 : pcs .col := by assumption)
    (hp2 : pcs .firn := by assumption) (hp3 : pcs .irq := by assumption) :
    Ok pcs b0 (State.itemToAlt s e a k x) := by
  delta State.itemToAlt
  repeat' first
    | with_reducible assumption | extract_lets | intro _ | with_reducible apply ok_ite
    | with_reducible apply State.modVoq_ok | with_reducible apply State.holdAt_ok
    | with_reducible apply State.ethRelease_ok | split | dsimp +zetaDelta -zeta only

theorem State.voqsToAlt_ok {pcs : Piece → Prop} {b0 : State} (s : State) (e : Nat) (a : Nat) (hok : Ok pcs b0 s)
    (hp0 : pcs .regs := by assumption) (hp1 : pcs .col := by assumption) (hp2 : pcs .firn := by assumption)
    (hp3 : pcs .irq := by assumption) :
    Ok pcs b0 (State.voqsToAlt s e a) := by
  delta State.voqsToAlt
  repeat' first
    | with_reducible assumption | extract_lets | intro _ | with_reducible apply State.itemToAlt_ok
    | with_reducible apply ok_foldl | with_reducible apply ok2_foldl | with_reducible apply ok_foldl2
    | with_reducible apply ok_ite2 | with_reducible apply ok1_foldl | with_reducible apply ok_foldl1
    | with_reducible apply ok_ite1 | split | dsimp +zetaDelta -zeta only

theorem State.allToAlt_ok {pcs : Piece → Prop} {b0 : State} (s : State) (e : Nat) (hok : Ok pcs b0 s)
    (hp0 : pcs .regs := by assumption) (hp1 : pcs .col := by assumption) (hp2 : pcs .firn := by assumption)
    (hp3 : pcs .irq := by assumption) (hp4 : pcs .eths := by assumption) :
    Ok pcs b0 (State.allToAlt s e) := by
  delta State.allToAlt
  repeat' first
    | with_reducible assumption | extract_lets | intro _ | with_reducible apply ok_ite
    | with_reducible apply State.setB_ok | with_reducible apply State.raise_ok
    | with_reducible apply State.queueToAlt_ok | with_reducible apply State.voqsToAlt_ok
    | with_reducible apply ok_foldl | with_reducible apply ok2_foldl | with_reducible apply ok_foldl2
    | with_reducible apply ok_ite2 | with_reducible apply ok1_foldl | with_reducible apply ok_foldl1
    | with_reducible apply ok_ite1 | split | dsimp +zetaDelta -zeta only

theorem execEthLinkDown_ok {pcs : Piece → Prop} {b0 : State} (e : PortId) (s : State) (hok : Ok pcs b0 s)
    (hp0 : pcs .regs := by assumption) (hp1 : pcs .col := by assumption) (hp2 : pcs .firn := by assumption)
    (hp3 : pcs .irq := by assumption) (hp4 : pcs .eths := by assumption) :
    OkO pcs b0 (execEthLinkDown e s) := by
  delta execEthLinkDown
  repeat' first
    | with_reducible assumption | extract_lets | intro _ | with_reducible apply okO_next
    | with_reducible apply okO_ite | with_reducible apply ok_ite | with_reducible apply State.linkChange_ok
    | with_reducible apply State.setB_ok | with_reducible apply State.modEth_ok
    | with_reducible apply State.allToAlt_ok | split | dsimp +zetaDelta -zeta only

theorem execEthLinkUp_ok {pcs : Piece → Prop} {b0 : State} (e : PortId) (speed : BitVec 2) (s : State)
    (hok : Ok pcs b0 s) (hp0 : pcs .regs := by assumption) (hp1 : pcs .host := by assumption)
    (hp2 : pcs .firn := by assumption) (hp3 : pcs .rings := by assumption) (hp4 : pcs .irq := by assumption)
    (hp5 : pcs .eths := by assumption) :
    OkO pcs b0 (execEthLinkUp e speed s) := by
  delta execEthLinkUp
  repeat' first
    | with_reducible assumption | extract_lets | intro _ | with_reducible apply okO_next
    | with_reducible apply okO_ite | with_reducible apply ok_ite | with_reducible apply State.holdOut_ok
    | with_reducible apply State.linkChange_ok | with_reducible apply State.setF_ok
    | with_reducible apply State.setB_ok | with_reducible apply State.modEth_ok | split
    | dsimp +zetaDelta -zeta only

theorem State.portOff_ok {pcs : Piece → Prop} {b0 : State} (s : State) (e : Nat) (hok : Ok pcs b0 s)
    (hp0 : pcs .regs := by assumption) (hp1 : pcs .host := by assumption) (hp2 : pcs .col := by assumption)
    (hp3 : pcs .firn := by assumption) (hp4 : pcs .rings := by assumption) (hp5 : pcs .irq := by assumption)
    (hp6 : pcs .eths := by assumption) :
    Ok pcs b0 (State.portOff s e) := by
  delta State.portOff
  repeat' first
    | with_reducible assumption | extract_lets | intro _ | with_reducible apply ok_ite
    | with_reducible apply State.portDrain_ok | with_reducible apply State.setB_ok
    | with_reducible apply State.linkChange_ok | with_reducible apply State.allToAlt_ok | split
    | dsimp +zetaDelta -zeta only

theorem State.portDo_ok {pcs : Piece → Prop} {b0 : State} (s : State) (r : AdminRef) (d : Words8)
    (hok : Ok pcs b0 s) (hp0 : pcs .regs := by assumption) (hp1 : pcs .host := by assumption)
    (hp2 : pcs .col := by assumption) (hp3 : pcs .firn := by assumption) (hp4 : pcs .rings := by assumption)
    (hp5 : pcs .irq := by assumption) (hp6 : pcs .eths := by assumption) :
    Ok pcs b0 (State.portDo s r d) := by
  delta State.portDo
  repeat' first
    | with_reducible assumption | extract_lets | intro _ | with_reducible apply ok_ite
    | with_reducible apply State.adminRefuse_ok | with_reducible apply State.setB_ok
    | with_reducible apply State.adminDone_ok | with_reducible apply State.modEth_ok
    | with_reducible apply State.portOff_ok | split | dsimp +zetaDelta -zeta only

theorem State.portCmd_ok {pcs : Piece → Prop} {b0 : State} (s : State) (r : AdminRef) (d : Words8)
    (hok : Ok pcs b0 s) (hp0 : pcs .regs := by assumption) (hp1 : pcs .host := by assumption)
    (hp2 : pcs .col := by assumption) (hp3 : pcs .firn := by assumption) (hp4 : pcs .rings := by assumption)
    (hp5 : pcs .irq := by assumption) (hp6 : pcs .eths := by assumption) :
    Ok pcs b0 (State.portCmd s r d) := by
  delta State.portCmd
  repeat' first
    | with_reducible assumption | extract_lets | intro _ | with_reducible apply ok_ite
    | with_reducible apply State.withHeld_ok | with_reducible apply State.portDo_ok | split
    | dsimp +zetaDelta -zeta only

theorem State.portRejudge_ok {pcs : Piece → Prop} {b0 : State} (s : State) (e : Nat) (hok : Ok pcs b0 s)
    (hp0 : pcs .regs := by assumption) (hp1 : pcs .host := by assumption) (hp2 : pcs .col := by assumption)
    (hp3 : pcs .firn := by assumption) (hp4 : pcs .rings := by assumption) (hp5 : pcs .irq := by assumption)
    (hp6 : pcs .eths := by assumption) :
    Ok pcs b0 (State.portRejudge s e) := by
  delta State.portRejudge
  repeat' first
    | with_reducible assumption | extract_lets | intro _ | with_reducible apply State.portCmd_ok
    | with_reducible apply State.withHeld_ok | with_reducible apply ok_foldl | with_reducible apply ok2_foldl
    | with_reducible apply ok_foldl2 | with_reducible apply ok_ite2 | with_reducible apply ok1_foldl
    | with_reducible apply ok_foldl1 | with_reducible apply ok_ite1 | split | dsimp +zetaDelta -zeta only

theorem execPortEnable_ok {pcs : Piece → Prop} {b0 : State} (f : Fn) (d : Words8) (s : State) (hok : Ok pcs b0 s)
    (hp0 : pcs .regs := by assumption) (hp1 : pcs .host := by assumption) (hp2 : pcs .col := by assumption)
    (hp3 : pcs .firn := by assumption) (hp4 : pcs .rings := by assumption) (hp5 : pcs .irq := by assumption)
    (hp6 : pcs .eths := by assumption) :
    OkO pcs b0 (execPortEnable f d s) := by
  delta execPortEnable
  repeat' first
    | with_reducible assumption | extract_lets | intro _ | with_reducible apply okO_next
    | with_reducible apply okO_ite | with_reducible apply adminCmd_ok | with_reducible apply adminCmd_ok'
    | with_reducible apply State.portCmd_ok | split | dsimp +zetaDelta -zeta only

theorem execPortDisable_ok {pcs : Piece → Prop} {b0 : State} (f : Fn) (d : Words8) (s : State) (hok : Ok pcs b0 s)
    (hp0 : pcs .regs := by assumption) (hp1 : pcs .host := by assumption) (hp2 : pcs .col := by assumption)
    (hp3 : pcs .firn := by assumption) (hp4 : pcs .rings := by assumption) (hp5 : pcs .irq := by assumption)
    (hp6 : pcs .eths := by assumption) :
    OkO pcs b0 (execPortDisable f d s) := by
  delta execPortDisable
  repeat' first
    | with_reducible assumption | extract_lets | intro _ | with_reducible apply okO_next
    | with_reducible apply okO_ite | with_reducible apply adminCmd_ok | with_reducible apply adminCmd_ok'
    | with_reducible apply State.portCmd_ok | split | dsimp +zetaDelta -zeta only

theorem State.egressBytes_ok {pcs : Piece → Prop} {b0 : State} (s : State) (e : Nat) (a2 : EgKind)
    (hok : Ok pcs b0 s) (hp0 : pcs .regs := by assumption) :
    Ok2 pcs b0 (State.egressBytes s e a2) := by
  delta State.egressBytes
  repeat' first
    | with_reducible assumption | extract_lets | intro _ | with_reducible apply ok2_ite
    | with_reducible apply State.ptpSend_ok | with_reducible apply State.ptpSend_ok'
    | (refine ok2_eq (by with_reducible assumption) ?_) | split | with_reducible apply ok2_mk
    | dsimp +zetaDelta -zeta only

theorem State.egressBytes_ok' {pcs : Piece → Prop} {b0 : State} (s : State) (e : Nat) (a2 : EgKind)
    (hok : Ok pcs b0 s) (hp0 : pcs .regs := by assumption) :
    Ok pcs b0 (State.egressBytes s e a2).2 := State.egressBytes_ok s e a2 hok hp0

theorem State.egressPoisoned_ok {pcs : Piece → Prop} {b0 : State} (s : State) (e : Nat) (g : Egress)
    (hok : Ok pcs b0 s) (hp0 : pcs .regs := by assumption) (hp1 : pcs .host := by assumption)
    (hp2 : pcs .firn := by assumption) (hp3 : pcs .rings := by assumption) (hp4 : pcs .irq := by assumption) :
    Ok pcs b0 (State.egressPoisoned s e g) := by
  delta State.egressPoisoned
  repeat' first
    | with_reducible assumption | extract_lets | intro _ | with_reducible apply State.satAdd_ok
    | with_reducible apply State.ethCpl_ok | with_reducible apply State.ethRelease_ok | split
    | dsimp +zetaDelta -zeta only

theorem execEthTxStart_ok {pcs : Piece → Prop} {b0 : State} (e : PortId) (s : State) (hok : Ok pcs b0 s)
    (hp0 : pcs .regs := by assumption) (hp1 : pcs .host := by assumption) (hp2 : pcs .firn := by assumption)
    (hp3 : pcs .rings := by assumption) (hp4 : pcs .irq := by assumption) (hp5 : pcs .eths := by assumption) :
    OkO pcs b0 (execEthTxStart e s) := by
  delta execEthTxStart
  repeat' first
    | with_reducible assumption | extract_lets | intro _ | with_reducible apply okO_next
    | with_reducible apply okO_ite | with_reducible apply ok_ite | with_reducible apply State.modEth_ok
    | with_reducible apply State.egressPoisoned_ok | with_reducible apply State.egressBytes_ok
    | with_reducible apply State.egressBytes_ok' | (refine ok2_eq (by with_reducible assumption) ?_) | split
    | dsimp +zetaDelta -zeta only

theorem State.wireEnd_ok {pcs : Piece → Prop} {b0 : State} (s : State) (e : Nat) (w : OnWire) (hok : Ok pcs b0 s)
    (hp0 : pcs .free := by assumption) (hp1 : pcs .regs := by assumption) (hp2 : pcs .mem := by assumption)
    (hp3 : pcs .host := by assumption) (hp4 : pcs .col := by assumption) (hp5 : pcs .firn := by assumption)
    (hp6 : pcs .rings := by assumption) (hp7 : pcs .irq := by assumption) (hp8 : pcs .mor := by assumption)
    (hp9 : pcs .eths := by assumption) (hp10 : pcs .poison := by assumption) :
    Ok pcs b0 (State.wireEnd s e w) := by
  delta State.wireEnd
  repeat' first
    | with_reducible assumption | extract_lets | intro _ | with_reducible apply State.modEth_ok
    | with_reducible apply State.morEth_ok | with_reducible apply State.ethCpl_ok
    | with_reducible apply State.ethRelease_ok | with_reducible apply State.portOff_ok
    | with_reducible apply State.adminDone?_ok | with_reducible apply State.adminDone_ok
    | with_reducible apply State.portRejudge_ok | split | dsimp +zetaDelta -zeta only

theorem ethDropRec_ok {pcs : Piece → Prop} {b0 : State} (e : Nat) (bs : List Byte) (len : Nat) (colour : Nat)
    (s : State) (o : OutReq) (kind : Nat) (q : Nat) (hok : Ok pcs b0 s) (hp0 : pcs .free := by assumption)
    (hp1 : pcs .regs := by assumption) (hp2 : pcs .mem := by assumption) (hp3 : pcs .col := by assumption)
    (hp4 : pcs .firn := by assumption) (hp5 : pcs .rings := by assumption) (hp6 : pcs .irq := by assumption)
    (hp7 : pcs .mor := by assumption) (hp8 : pcs .poison := by assumption) :
    Ok pcs b0 (ethDropRec e bs len colour s o kind q) := by
  delta ethDropRec
  repeat' first
    | with_reducible assumption | extract_lets | intro _ | with_reducible apply State.morDrop_ok | split
    | dsimp +zetaDelta -zeta only

theorem State.ethAdmit_ok {pcs : Piece → Prop} {b0 : State} (s : State) (e : Nat) (fr : EthFrame) (t : Stamp)
    (colour : Nat) (ports : List Nat) (cq : Option (Nat × Nat × Nat)) (hok : Ok pcs b0 s)
    (hp0 : pcs .free := by assumption) (hp1 : pcs .regs := by assumption) (hp2 : pcs .mem := by assumption)
    (hp3 : pcs .col := by assumption) (hp4 : pcs .firn := by assumption) (hp5 : pcs .rings := by assumption)
    (hp6 : pcs .irq := by assumption) (hp7 : pcs .mor := by assumption) (hp8 : pcs .poison := by assumption) :
    Ok pcs b0 (State.ethAdmit s e fr t colour ports cq) := by
  delta State.ethAdmit
  repeat' first
    | with_reducible assumption | extract_lets | intro _ | with_reducible apply ok_ite
    | with_reducible apply State.takeIn_ok | with_reducible apply State.takeIn_ok'
    | with_reducible apply State.admissionRecs_ok | with_reducible apply ethDropRec_ok
    | with_reducible apply State.withNextValid_ok | with_reducible apply State.enqueue_ok
    | (refine ok2_eq (by with_reducible assumption) ?_) | exact ok2_snd (by with_reducible assumption)
    | with_reducible apply ok_foldl | with_reducible apply ok2_foldl | with_reducible apply ok_foldl2
    | with_reducible apply ok_ite2 | with_reducible apply ok1_foldl | with_reducible apply ok_foldl1
    | with_reducible apply ok_ite1 | split | dsimp +zetaDelta -zeta only

theorem State.ethBadFcs_ok {pcs : Piece → Prop} {b0 : State} (s : State) (e : Nat) (hok : Ok pcs b0 s)
    (hp0 : pcs .regs := by assumption) :
    Ok pcs b0 (State.ethBadFcs s e) := by
  delta State.ethBadFcs
  repeat' first
    | with_reducible assumption | extract_lets | intro _ | with_reducible apply State.satAdd_ok | split
    | dsimp +zetaDelta -zeta only

theorem State.ethRx_ok {pcs : Piece → Prop} {b0 : State} (s : State) (e : Nat) (fr : EthFrame) (hok : Ok pcs b0 s)
    (hp0 : pcs .free := by assumption) (hp1 : pcs .regs := by assumption) (hp2 : pcs .mem := by assumption)
    (hp3 : pcs .col := by assumption) (hp4 : pcs .firn := by assumption) (hp5 : pcs .rings := by assumption)
    (hp6 : pcs .irq := by assumption) (hp7 : pcs .mor := by assumption) (hp8 : pcs .poison := by assumption) :
    Ok pcs b0 (State.ethRx s e fr) := by
  delta State.ethRx
  repeat' first
    | with_reducible assumption | extract_lets | intro _ | with_reducible apply ok_ite
    | with_reducible apply State.ingressMeter_ok | with_reducible apply State.ingressMeter_ok'
    | with_reducible apply State.morEth_ok | with_reducible apply State.satAdd_ok
    | with_reducible apply State.deletedDrop_ok | with_reducible apply State.ethAdmit_ok
    | (refine ok2_eq (by with_reducible assumption) ?_) | split | dsimp +zetaDelta -zeta only

theorem execEthFrameRx_ok {pcs : Piece → Prop} {b0 : State} (e : PortId) (fr : EthFrame) (s : State)
    (hok : Ok pcs b0 s) (hp0 : pcs .free := by assumption) (hp1 : pcs .regs := by assumption)
    (hp2 : pcs .mem := by assumption) (hp3 : pcs .col := by assumption) (hp4 : pcs .firn := by assumption)
    (hp5 : pcs .rings := by assumption) (hp6 : pcs .irq := by assumption) (hp7 : pcs .mor := by assumption)
    (hp8 : pcs .poison := by assumption) :
    OkO pcs b0 (execEthFrameRx e fr s) := by
  delta execEthFrameRx
  repeat' first
    | with_reducible assumption | extract_lets | intro _ | with_reducible apply okO_next
    | with_reducible apply okO_ite | with_reducible apply ok_ite | with_reducible apply State.ethBadFcs_ok
    | with_reducible apply State.ethRx_ok | split | dsimp +zetaDelta -zeta only
end Sys2Proof.Machine
end

