-- ==== Sys2Proof/Laws/OkFlr.lean ====
section
/-! SUPPORT. Function-level reset: every operation of Machine/Flr.lean keeps the queue and a sane state, and changes no
piece but the ones it names. -/
namespace Sys2Proof.Machine
set_option Elab.async false

theorem State.flrDropped_ok {pcs : Piece → Prop} {b0 : State} (s : State) (f : Nat) (n : Nat) (hok : Ok pcs b0 s)
    (hp0 : pcs .regs := by assumption) :
    Ok pcs b0 (State.flrDropped s f n) := by
  delta State.flrDropped
  repeat' first
    | with_reducible assumption | extract_lets | intro _ | with_reducible apply State.satAdd_ok | split
    | dsimp +zetaDelta -zeta only

theorem State.flrEntry_ok {pcs : Piece → Prop} {b0 : State} (s : State) (f : Nat) (b : Nat) (e : Entry)
    (hok : Ok pcs b0 s) (hp0 : pcs .regs := by assumption) (hp1 : pcs .tx := by assumption)
    (hp2 : pcs .firn := by assumption) (hp3 : pcs .irq := by assumption) :
    Ok pcs b0 (State.flrEntry s f b e) := by
  delta State.flrEntry
  repeat' first
    | with_reducible assumption | extract_lets | intro _ | with_reducible apply ok_ite
    | with_reducible apply State.modEntry_ok | with_reducible apply State.dropEntry_ok
    | with_reducible apply State.flrDropped_ok | split | dsimp +zetaDelta -zeta only

theorem State.flrBuses_ok {pcs : Piece → Prop} {b0 : State} (s : State) (f : Nat) (hok : Ok pcs b0 s)
    (hp0 : pcs .regs := by assumption) (hp1 : pcs .tx := by assumption) (hp2 : pcs .firn := by assumption)
    (hp3 : pcs .irq := by assumption) :
    Ok pcs b0 (State.flrBuses s f) := by
  delta State.flrBuses
  repeat' first
    | with_reducible assumption | extract_lets | intro _ | with_reducible apply State.flrEntry_ok
    | with_reducible apply ok_foldl | with_reducible apply ok2_foldl | with_reducible apply ok_foldl2
    | with_reducible apply ok_ite2 | with_reducible apply ok1_foldl | with_reducible apply ok_foldl1
    | with_reducible apply ok_ite1 | split | dsimp +zetaDelta -zeta only

theorem State.flrEth_ok {pcs : Piece → Prop} {b0 : State} (s : State) (f : Nat) (e : Nat) (hok : Ok pcs b0 s)
    (hp0 : pcs .regs := by assumption) (hp1 : pcs .firn := by assumption) (hp2 : pcs .irq := by assumption)
    (hp3 : pcs .eths := by assumption) :
    Ok pcs b0 (State.flrEth s f e) := by
  delta State.flrEth
  repeat' first
    | with_reducible assumption | extract_lets | intro _ | with_reducible apply ok_ite
    | with_reducible apply State.ethDropWhere_ok | with_reducible apply State.flrDropped_ok
    | with_reducible apply State.modEth_ok | split | dsimp +zetaDelta -zeta only

theorem State.flrEntries_ok {pcs : Piece → Prop} {b0 : State} (s : State) (f : Nat) (hok : Ok pcs b0 s)
    (hp0 : pcs .regs := by assumption) (hp1 : pcs .tx := by assumption) (hp2 : pcs .col := by assumption)
    (hp3 : pcs .firn := by assumption) (hp4 : pcs .irq := by assumption) (hp5 : pcs .eths := by assumption) :
    Ok pcs b0 (State.flrEntries s f) := by
  delta State.flrEntries
  repeat' first
    | with_reducible assumption | extract_lets | intro _ | with_reducible apply State.uncross_ok
    | with_reducible apply State.withFetched_ok | with_reducible apply State.flrDropped_ok
    | with_reducible apply State.flrBuses_ok | with_reducible apply State.flrEth_ok | with_reducible apply ok_foldl
    | with_reducible apply ok2_foldl | with_reducible apply ok_foldl2 | with_reducible apply ok_ite2
    | with_reducible apply ok1_foldl | with_reducible apply ok_foldl1 | with_reducible apply ok_ite1 | split
    | dsimp +zetaDelta -zeta only

theorem State.flrLanes_ok {pcs : Piece → Prop} {b0 : State} (s : State) (f : Nat) (hok : Ok pcs b0 s)
    (hp0 : pcs .free := by assumption) (hp1 : pcs .regs := by assumption) (hp2 : pcs .mem := by assumption)
    (hp3 : pcs .host := by assumption) (hp4 : pcs .lanes := by assumption) (hp5 : pcs .pins := by assumption)
    (hp6 : pcs .tx := by assumption) (hp7 : pcs .objs := by assumption) (hp8 : pcs .routes := by assumption)
    (hp9 : pcs .col := by assumption) (hp10 : pcs .firn := by assumption) (hp11 : pcs .rings := by assumption)
    (hp12 : pcs .irq := by assumption) (hp13 : pcs .poison := by assumption) :
    Ok pcs b0 (State.flrLanes s f) := by
  delta State.flrLanes
  repeat' first
    | with_reducible assumption | extract_lets | intro _ | with_reducible apply ok_ite
    | with_reducible apply State.modLane_ok | with_reducible apply State.laneRejudge_ok
    | with_reducible apply ok_foldl | with_reducible apply ok2_foldl | with_reducible apply ok_foldl2
    | with_reducible apply ok_ite2 | with_reducible apply ok1_foldl | with_reducible apply ok_foldl1
    | with_reducible apply ok_ite1 | split | dsimp +zetaDelta -zeta only

theorem State.flrLoads_ok {pcs : Piece → Prop} {b0 : State} (s : State) (f : Nat) (hok : Ok pcs b0 s)
    (hp0 : pcs .free := by assumption) (hp1 : pcs .mem := by assumption) (hp2 : pcs .filters := by assumption)
    (hp3 : pcs .poison := by assumption) :
    Ok pcs b0 (State.flrLoads s f) := by
  delta State.flrLoads
  repeat' first
    | with_reducible assumption | extract_lets | intro _ | with_reducible apply ok_ite
    | with_reducible apply State.smearElems_ok | with_reducible apply State.setFlt_ok
    | with_reducible apply ok_foldl | with_reducible apply ok2_foldl | with_reducible apply ok_foldl2
    | with_reducible apply ok_ite2 | with_reducible apply ok1_foldl | with_reducible apply ok_foldl1
    | with_reducible apply ok_ite1 | split | dsimp +zetaDelta -zeta only

theorem State.sendVolt_ok {pcs : Piece → Prop} {b0 : State} (s : State) (mode : Nat) (hok : Ok pcs b0 s)
    (hp0 : pcs .regs := by assumption) (hp1 : pcs .power := by assumption) :
    Ok pcs b0 (State.sendVolt s mode) := by
  delta State.sendVolt
  repeat' first
    | with_reducible assumption | extract_lets | intro _ | with_reducible apply ok_ite
    | with_reducible apply State.setF_ok | with_reducible apply State.withPower_ok | split
    | dsimp +zetaDelta -zeta only

theorem State.moveDrop_ok {pcs : Piece → Prop} {b0 : State} (s : State) (f : Nat) (hok : Ok pcs b0 s)
    (hp0 : pcs .regs := by assumption) (hp1 : pcs .power := by assumption) :
    Ok pcs b0 (State.moveDrop s f) := by
  delta State.moveDrop
  repeat' first
    | with_reducible assumption | extract_lets | intro _ | with_reducible apply ok_ite
    | with_reducible apply State.withPower_ok | with_reducible apply State.setB_ok
    | with_reducible apply State.sendVolt_ok | split | dsimp +zetaDelta -zeta only

theorem State.flrBlocks_ok {pcs : Piece → Prop} {b0 : State} (s : State) (f : Nat) (hok : Ok pcs b0 s)
    (hp0 : pcs .regs := by assumption) (hp1 : pcs .routes := by assumption) (hp2 : pcs .mor := by assumption)
    (hp3 : pcs .stack := by assumption) (hp4 : pcs .eths := by assumption) (hp5 : pcs .power := by assumption)
    (hp6 : pcs .boot := by assumption) :
    Ok pcs b0 (State.flrBlocks s f) := by
  delta State.flrBlocks
  repeat' first
    | with_reducible assumption | extract_lets | intro _ | with_reducible apply ok_ite
    | with_reducible apply State.withRtLoad_ok | with_reducible apply State.withPolLoad_ok
    | with_reducible apply State.withMor_ok | with_reducible apply State.withStack_ok
    | with_reducible apply State.withBoot_ok | with_reducible apply State.moveDrop_ok
    | with_reducible apply State.modEth_ok | with_reducible apply ok_foldl | with_reducible apply ok2_foldl
    | with_reducible apply ok_foldl2 | with_reducible apply ok_ite2 | with_reducible apply ok1_foldl
    | with_reducible apply ok_foldl1 | with_reducible apply ok_ite1 | split | dsimp +zetaDelta -zeta only

theorem State.flrPorts_ok {pcs : Piece → Prop} {b0 : State} (s : State) (f : Nat) (hok : Ok pcs b0 s)
    (hp0 : pcs .regs := by assumption) (hp1 : pcs .host := by assumption) (hp2 : pcs .routes := by assumption)
    (hp3 : pcs .col := by assumption) (hp4 : pcs .firn := by assumption) (hp5 : pcs .rings := by assumption)
    (hp6 : pcs .irq := by assumption) (hp7 : pcs .mor := by assumption) (hp8 : pcs .stack := by assumption)
    (hp9 : pcs .eths := by assumption) (hp10 : pcs .power := by assumption) (hp11 : pcs .boot := by assumption) :
    Ok pcs b0 (State.flrPorts s f) := by
  delta State.flrPorts
  repeat' first
    | with_reducible assumption | extract_lets | intro _ | with_reducible apply State.portRejudge_ok
    | with_reducible apply State.flrBlocks_ok | with_reducible apply ok_foldl | with_reducible apply ok2_foldl
    | with_reducible apply ok_foldl2 | with_reducible apply ok_ite2 | with_reducible apply ok1_foldl
    | with_reducible apply ok_foldl1 | with_reducible apply ok_ite1 | split | dsimp +zetaDelta -zeta only

theorem State.flrLocks_ok {pcs : Piece → Prop} {b0 : State} (s : State) (f : Nat) (hok : Ok pcs b0 s)
    (hp0 : pcs .mem := by assumption) (hp1 : pcs .objs := by assumption) (hp2 : pcs .poison := by assumption) :
    Ok pcs b0 (State.flrLocks s f) := by
  delta State.flrLocks
  repeat' first
    | with_reducible assumption | extract_lets | intro _ | with_reducible apply ok_ite
    | with_reducible apply State.objLockEnd_ok | with_reducible apply ok_foldl | with_reducible apply ok2_foldl
    | with_reducible apply ok_foldl2 | with_reducible apply ok_ite2 | with_reducible apply ok1_foldl
    | with_reducible apply ok_foldl1 | with_reducible apply ok_ite1 | split | dsimp +zetaDelta -zeta only

theorem State.flrRings_ok {pcs : Piece → Prop} {b0 : State} (s : State) (f : Nat) (hok : Ok pcs b0 s)
    (hp0 : pcs .regs := by assumption) (hp1 : pcs .mem := by assumption) (hp2 : pcs .host := by assumption)
    (hp3 : pcs .tx := by assumption) (hp4 : pcs .col := by assumption) (hp5 : pcs .firn := by assumption)
    (hp6 : pcs .rings := by assumption) (hp7 : pcs .irq := by assumption) (hp8 : pcs .eths := by assumption)
    (hp9 : pcs .poison := by assumption) :
    Ok pcs b0 (State.flrRings s f) := by
  delta State.flrRings
  repeat' first
    | with_reducible assumption | extract_lets | intro _ | with_reducible apply ok_ite
    | with_reducible apply State.setSq_ok | with_reducible apply State.sqRejudge_ok
    | with_reducible apply State.setCq_ok | with_reducible apply ok_foldl | with_reducible apply ok2_foldl
    | with_reducible apply ok_foldl2 | with_reducible apply ok_ite2 | with_reducible apply ok1_foldl
    | with_reducible apply ok_foldl1 | with_reducible apply ok_ite1 | split | dsimp +zetaDelta -zeta only

theorem State.flrBlock_ok {pcs : Piece → Prop} {b0 : State} (s : State) (f : Nat) (hok : Ok pcs b0 s)
    (hp0 : pcs .regs := by assumption) (hp1 : pcs .rings := by assumption) (hp2 : pcs .irq := by assumption) :
    Ok pcs b0 (State.flrBlock s f) := by
  delta State.flrBlock
  repeat' first
    | with_reducible assumption | extract_lets | intro _ | with_reducible apply ok_ite
    | with_reducible apply State.setFunc_ok | with_reducible apply State.resetRegs_ok
    | with_reducible apply State.setB_ok | with_reducible apply State.wrapInc_ok
    | with_reducible apply State.raise_ok | split | dsimp +zetaDelta -zeta only

theorem State.funcReset_ok {pcs : Piece → Prop} {b0 : State} (s : State) (f : Nat) (hok : Ok pcs b0 s)
    (hp0 : pcs .free := by assumption) (hp1 : pcs .regs := by assumption) (hp2 : pcs .mem := by assumption)
    (hp3 : pcs .host := by assumption) (hp4 : pcs .lanes := by assumption) (hp5 : pcs .pins := by assumption)
    (hp6 : pcs .tx := by assumption) (hp7 : pcs .objs := by assumption) (hp8 : pcs .filters := by assumption)
    (hp9 : pcs .routes := by assumption) (hp10 : pcs .col := by assumption) (hp11 : pcs .firn := by assumption)
    (hp12 : pcs .rings := by assumption) (hp13 : pcs .irq := by assumption) (hp14 : pcs .mor := by assumption)
    (hp15 : pcs .stack := by assumption) (hp16 : pcs .eths := by assumption) (hp17 : pcs .power := by assumption)
    (hp18 : pcs .boot := by assumption) (hp19 : pcs .poison := by assumption) :
    Ok pcs b0 (State.funcReset s f) := by
  delta State.funcReset
  repeat' first
    | with_reducible assumption | extract_lets | intro _ | with_reducible apply State.withHeld_ok
    | with_reducible apply State.flrEntries_ok | with_reducible apply State.flrLanes_ok
    | with_reducible apply State.flrLoads_ok | with_reducible apply State.flrPorts_ok
    | with_reducible apply State.flrLocks_ok | with_reducible apply State.cirqueFlr_ok
    | with_reducible apply State.flrRings_ok | with_reducible apply State.flrBlock_ok | split
    | dsimp +zetaDelta -zeta only

theorem execFlr_ok {pcs : Piece → Prop} {b0 : State} (f : Fn) (s : State) (hok : Ok pcs b0 s)
    (hp0 : pcs .free := by assumption) (hp1 : pcs .regs := by assumption) (hp2 : pcs .mem := by assumption)
    (hp3 : pcs .host := by assumption) (hp4 : pcs .lanes := by assumption) (hp5 : pcs .pins := by assumption)
    (hp6 : pcs .tx := by assumption) (hp7 : pcs .objs := by assumption) (hp8 : pcs .filters := by assumption)
    (hp9 : pcs .routes := by assumption) (hp10 : pcs .col := by assumption) (hp11 : pcs .firn := by assumption)
    (hp12 : pcs .rings := by assumption) (hp13 : pcs .irq := by assumption) (hp14 : pcs .mor := by assumption)
    (hp15 : pcs .stack := by assumption) (hp16 : pcs .eths := by assumption) (hp17 : pcs .power := by assumption)
    (hp18 : pcs .boot := by assumption) (hp19 : pcs .poison := by assumption) :
    OkO pcs b0 (execFlr f s) := by
  delta execFlr
  repeat' first
    | with_reducible assumption | extract_lets | intro _ | with_reducible apply okO_next
    | with_reducible apply okO_ite | with_reducible apply State.funcReset_ok | split | dsimp +zetaDelta -zeta only

theorem execFuncLinkLoss_ok {pcs : Piece → Prop} {b0 : State} (f : Fn) (s : State) (hok : Ok pcs b0 s)
    (hp0 : pcs .free := by assumption) (hp1 : pcs .regs := by assumption) (hp2 : pcs .mem := by assumption)
    (hp3 : pcs .host := by assumption) (hp4 : pcs .lanes := by assumption) (hp5 : pcs .pins := by assumption)
    (hp6 : pcs .tx := by assumption) (hp7 : pcs .objs := by assumption) (hp8 : pcs .filters := by assumption)
    (hp9 : pcs .routes := by assumption) (hp10 : pcs .col := by assumption) (hp11 : pcs .firn := by assumption)
    (hp12 : pcs .rings := by assumption) (hp13 : pcs .irq := by assumption) (hp14 : pcs .mor := by assumption)
    (hp15 : pcs .stack := by assumption) (hp16 : pcs .eths := by assumption) (hp17 : pcs .power := by assumption)
    (hp18 : pcs .boot := by assumption) (hp19 : pcs .poison := by assumption) :
    OkO pcs b0 (execFuncLinkLoss f s) := by
  delta execFuncLinkLoss
  repeat' first
    | with_reducible assumption | extract_lets | intro _ | with_reducible apply okO_next
    | with_reducible apply okO_ite | with_reducible apply State.modFunc_ok
    | with_reducible apply State.funcReset_ok | split | dsimp +zetaDelta -zeta only

theorem execPcieLinkUp_ok {pcs : Piece → Prop} {b0 : State} (f : Fn) (s : State) (hok : Ok pcs b0 s)
    (hp0 : pcs .rings := by assumption) :
    OkO pcs b0 (execPcieLinkUp f s) := by
  delta execPcieLinkUp
  repeat' first
    | with_reducible assumption | extract_lets | intro _ | with_reducible apply okO_next
    | with_reducible apply okO_ite | with_reducible apply ok_ite | with_reducible apply State.modFunc_ok | split
    | dsimp +zetaDelta -zeta only
end Sys2Proof.Machine
end

