-- ==== Sys2Proof/Laws/OkStack.lean ====
section
/-! SUPPORT. The stack: every operation of Machine/Stack.lean keeps the queue and a sane state, and changes no
piece but the ones it names. -/
namespace Sys2Proof.Machine
set_option Elab.async false

theorem State.modStack_ok {pcs : Piece → Prop} {b0 : State} (s : State) (g : Stack → Stack) (hok : Ok pcs b0 s)
    (hp0 : pcs .stack := by assumption) :
    Ok pcs b0 (State.modStack s g) := by
  delta State.modStack
  repeat' first
    | with_reducible assumption | extract_lets | intro _ | with_reducible apply State.withStack_ok | split
    | dsimp +zetaDelta -zeta only

theorem State.seAdmit_ok {pcs : Piece → Prop} {b0 : State} (s : State) (w : SeWait) (hok : Ok pcs b0 s)
    (hp0 : pcs .free := by assumption) (hp1 : pcs .regs := by assumption) (hp2 : pcs .mem := by assumption)
    (hp3 : pcs .col := by assumption) (hp4 : pcs .firn := by assumption) (hp5 : pcs .irq := by assumption)
    (hp6 : pcs .stack := by assumption) (hp7 : pcs .poison := by assumption) :
    Ok pcs b0 (State.seAdmit s w) := by
  delta State.seAdmit
  repeat' first
    | with_reducible assumption | extract_lets | intro _ | with_reducible apply ok_ite
    | with_reducible apply State.satAdd_ok | with_reducible apply State.admitWaiting_ok
    | with_reducible apply State.admitWaiting_ok' | with_reducible apply State.enqueue_ok
    | with_reducible apply State.modStack_ok | with_reducible apply State.releaseAt_ok
    | (refine ok2_eq (by with_reducible assumption) ?_) | split | dsimp +zetaDelta -zeta only

theorem State.seOffer_ok {pcs : Piece → Prop} {b0 : State} (s : State) (w : SeWait) (hok : Ok pcs b0 s)
    (hp0 : pcs .free := by assumption) (hp1 : pcs .regs := by assumption) (hp2 : pcs .mem := by assumption)
    (hp3 : pcs .tx := by assumption) (hp4 : pcs .col := by assumption) (hp5 : pcs .firn := by assumption)
    (hp6 : pcs .irq := by assumption) (hp7 : pcs .stack := by assumption) (hp8 : pcs .poison := by assumption) :
    Ok pcs b0 (State.seOffer s w) := by
  delta State.seOffer
  repeat' first
    | with_reducible assumption | extract_lets | intro _ | with_reducible apply ok_ite
    | with_reducible apply State.seAdmit_ok | with_reducible apply State.withSeWait_ok | split
    | dsimp +zetaDelta -zeta only

theorem execWaitingAdmissionGrant_ok {pcs : Piece → Prop} {b0 : State} (p : ColPort) (s : State) (hok : Ok pcs b0 s)
    (hp0 : pcs .free := by assumption) (hp1 : pcs .regs := by assumption) (hp2 : pcs .mem := by assumption)
    (hp3 : pcs .tx := by assumption) (hp4 : pcs .col := by assumption) (hp5 : pcs .firn := by assumption)
    (hp6 : pcs .irq := by assumption) (hp7 : pcs .stack := by assumption) (hp8 : pcs .poison := by assumption) :
    OkO pcs b0 (execWaitingAdmissionGrant p s) := by
  delta execWaitingAdmissionGrant
  repeat' first
    | with_reducible assumption | extract_lets | intro _ | with_reducible apply okO_next
    | with_reducible apply okO_ite | with_reducible apply ok_ite | with_reducible apply State.withFetched_ok
    | with_reducible apply State.descAdmit_ok | with_reducible apply State.withSeWait_ok
    | with_reducible apply State.seAdmit_ok | split | dsimp +zetaDelta -zeta only

theorem State.seSend_ok {pcs : Piece → Prop} {b0 : State} (s : State) (e : Nat) (tc : Nat) (k : EgKind)
    (hok : Ok pcs b0 s) (hp0 : pcs .free := by assumption) (hp1 : pcs .regs := by assumption)
    (hp2 : pcs .mem := by assumption) (hp3 : pcs .tx := by assumption) (hp4 : pcs .col := by assumption)
    (hp5 : pcs .firn := by assumption) (hp6 : pcs .irq := by assumption) (hp7 : pcs .stack := by assumption)
    (hp8 : pcs .poison := by assumption) :
    Ok pcs b0 (State.seSend s e tc k) := by
  delta State.seSend
  repeat' first
    | with_reducible assumption | extract_lets | intro _ | with_reducible apply State.seOffer_ok | split
    | dsimp +zetaDelta -zeta only

theorem State.control_ok {pcs : Piece → Prop} {b0 : State} (s : State) (all : Bool) (dst : Nat) (ty : Nat)
    (payload : List Byte) (hok : Ok pcs b0 s) (hp0 : pcs .stack := by assumption) :
    Ok2 pcs b0 (State.control s all dst ty payload) := by
  delta State.control
  repeat' first
    | with_reducible assumption | extract_lets | intro _ | with_reducible apply ok2_ite
    | with_reducible apply State.nextSeq_ok | with_reducible apply State.nextSeq_ok'
    | (refine ok2_eq (by with_reducible assumption) ?_) | split | with_reducible apply ok2_mk
    | dsimp +zetaDelta -zeta only

theorem State.control_ok' {pcs : Piece → Prop} {b0 : State} (s : State) (all : Bool) (dst : Nat) (ty : Nat)
    (payload : List Byte) (hok : Ok pcs b0 s) (hp0 : pcs .stack := by assumption) :
    Ok pcs b0 (State.control s all dst ty payload).2 := State.control_ok s all dst ty payload hok hp0

theorem State.sendTo_ok {pcs : Piece → Prop} {b0 : State} (s : State) (d : Nat) (ty : Nat) (payload : List Byte)
    (hok : Ok pcs b0 s) (hp0 : pcs .free := by assumption) (hp1 : pcs .regs := by assumption)
    (hp2 : pcs .mem := by assumption) (hp3 : pcs .tx := by assumption) (hp4 : pcs .col := by assumption)
    (hp5 : pcs .firn := by assumption) (hp6 : pcs .irq := by assumption) (hp7 : pcs .stack := by assumption)
    (hp8 : pcs .poison := by assumption) :
    Ok pcs b0 (State.sendTo s d ty payload) := by
  delta State.sendTo
  repeat' first
    | with_reducible assumption | extract_lets | intro _ | with_reducible apply State.pathPort_ok
    | with_reducible apply State.pathPort_ok' | with_reducible apply State.control_ok
    | with_reducible apply State.control_ok' | with_reducible apply State.seSend_ok
    | (refine ok2_eq (by with_reducible assumption) ?_) | split | dsimp +zetaDelta -zeta only

theorem State.sendAll_ok {pcs : Piece → Prop} {b0 : State} (s : State) (ty : Nat) (payload : List Byte)
    (hok : Ok pcs b0 s) (hp0 : pcs .free := by assumption) (hp1 : pcs .regs := by assumption)
    (hp2 : pcs .mem := by assumption) (hp3 : pcs .tx := by assumption) (hp4 : pcs .col := by assumption)
    (hp5 : pcs .firn := by assumption) (hp6 : pcs .irq := by assumption) (hp7 : pcs .stack := by assumption)
    (hp8 : pcs .poison := by assumption) :
    Ok pcs b0 (State.sendAll s ty payload) := by
  delta State.sendAll
  repeat' first
    | with_reducible assumption | extract_lets | intro _ | with_reducible apply State.control_ok
    | with_reducible apply State.control_ok' | with_reducible apply State.seSend_ok
    | (refine ok2_eq (by with_reducible assumption) ?_) | exact ok2_snd (by with_reducible assumption)
    | with_reducible apply ok_foldl | with_reducible apply ok2_foldl | with_reducible apply ok_foldl2
    | with_reducible apply ok_ite2 | with_reducible apply ok1_foldl | with_reducible apply ok_foldl1
    | with_reducible apply ok_ite1 | split | dsimp +zetaDelta -zeta only

theorem State.nak_ok {pcs : Piece → Prop} {b0 : State} (s : State) (x : StackIn) (cause : Nat) (hok : Ok pcs b0 s)
    (hp0 : pcs .free := by assumption) (hp1 : pcs .regs := by assumption) (hp2 : pcs .mem := by assumption)
    (hp3 : pcs .tx := by assumption) (hp4 : pcs .col := by assumption) (hp5 : pcs .firn := by assumption)
    (hp6 : pcs .irq := by assumption) (hp7 : pcs .stack := by assumption) (hp8 : pcs .poison := by assumption) :
    Ok pcs b0 (State.nak s x cause) := by
  delta State.nak
  repeat' first
    | with_reducible assumption | extract_lets | intro _ | with_reducible apply ok_ite
    | with_reducible apply State.pathPort_ok | with_reducible apply State.pathPort_ok'
    | with_reducible apply State.modStack_ok | with_reducible apply State.satAdd_ok
    | with_reducible apply State.sendTo_ok | (refine ok2_eq (by with_reducible assumption) ?_) | split
    | dsimp +zetaDelta -zeta only

theorem State.stackViolation_ok {pcs : Piece → Prop} {b0 : State} (s : State) (e : Nat) (x : StackIn) (cause : Nat)
    (hok : Ok pcs b0 s) (hp0 : pcs .free := by assumption) (hp1 : pcs .regs := by assumption)
    (hp2 : pcs .mem := by assumption) (hp3 : pcs .tx := by assumption) (hp4 : pcs .col := by assumption)
    (hp5 : pcs .firn := by assumption) (hp6 : pcs .irq := by assumption) (hp7 : pcs .stack := by assumption)
    (hp8 : pcs .poison := by assumption) :
    Ok pcs b0 (State.stackViolation s e x cause) := by
  delta State.stackViolation
  repeat' first
    | with_reducible assumption | extract_lets | intro _ | with_reducible apply ok_ite
    | with_reducible apply State.setF_ok | with_reducible apply State.setReg_ok
    | with_reducible apply State.satAdd_ok | with_reducible apply State.raise_ok
    | with_reducible apply State.nak_ok | split | dsimp +zetaDelta -zeta only

theorem State.stackCopiesTo_ok {pcs : Piece → Prop} {b0 : State} (s : State) (e : Nat) (bs : List Byte)
    (x : StackIn) (colour : Nat) (ports : List Nat) (mine : Bool) (hok : Ok pcs b0 s)
    (hp0 : pcs .free := by assumption) (hp1 : pcs .regs := by assumption) (hp2 : pcs .mem := by assumption)
    (hp3 : pcs .col := by assumption) (hp4 : pcs .firn := by assumption) (hp5 : pcs .rings := by assumption)
    (hp6 : pcs .irq := by assumption) (hp7 : pcs .mor := by assumption) (hp8 : pcs .poison := by assumption) :
    Ok2 pcs b0 (State.stackCopiesTo s e bs x colour ports mine) := by
  delta State.stackCopiesTo
  repeat' first
    | with_reducible assumption | extract_lets | intro _ | with_reducible apply ok2_ite
    | with_reducible apply ok_ite | with_reducible apply State.takeIn_ok | with_reducible apply State.takeIn_ok'
    | with_reducible apply State.admissionRecs_ok | with_reducible apply ethDropRec_ok
    | with_reducible apply State.satAdd_ok | with_reducible apply State.enqueue_ok
    | (refine ok2_eq (by with_reducible assumption) ?_) | exact ok2_snd (by with_reducible assumption)
    | with_reducible apply ok_foldl | with_reducible apply ok2_foldl | with_reducible apply ok_foldl2
    | with_reducible apply ok_ite2 | with_reducible apply ok1_foldl | with_reducible apply ok_foldl1
    | with_reducible apply ok_ite1 | split | with_reducible apply ok2_mk | dsimp +zetaDelta -zeta only

theorem State.stackCopiesTo_ok' {pcs : Piece → Prop} {b0 : State} (s : State) (e : Nat) (bs : List Byte)
    (x : StackIn) (colour : Nat) (ports : List Nat) (mine : Bool) (hok : Ok pcs b0 s)
    (hp0 : pcs .free := by assumption) (hp1 : pcs .regs := by assumption) (hp2 : pcs .mem := by assumption)
    (hp3 : pcs .col := by assumption) (hp4 : pcs .firn := by assumption) (hp5 : pcs .rings := by assumption)
    (hp6 : pcs .irq := by assumption) (hp7 : pcs .mor := by assumption) (hp8 : pcs .poison := by assumption) :
    Ok pcs b0 (State.stackCopiesTo s e bs x colour ports mine).2 := State.stackCopiesTo_ok s e bs x colour ports mine hok hp0 hp1 hp2 hp3 hp4 hp5 hp6 hp7 hp8

theorem State.relayOne_ok {pcs : Piece → Prop} {b0 : State} (s : State) (e : Nat) (bs : List Byte) (x : StackIn)
    (colour : Nat) (hok : Ok pcs b0 s) (hp0 : pcs .free := by assumption) (hp1 : pcs .regs := by assumption)
    (hp2 : pcs .mem := by assumption) (hp3 : pcs .tx := by assumption) (hp4 : pcs .col := by assumption)
    (hp5 : pcs .firn := by assumption) (hp6 : pcs .rings := by assumption) (hp7 : pcs .irq := by assumption)
    (hp8 : pcs .mor := by assumption) (hp9 : pcs .stack := by assumption) (hp10 : pcs .poison := by assumption) :
    Ok pcs b0 (State.relayOne s e bs x colour) := by
  delta State.relayOne
  repeat' first
    | with_reducible assumption | extract_lets | intro _ | with_reducible apply ok_ite
    | with_reducible apply State.stackViolation_ok | with_reducible apply State.pathPort_ok
    | with_reducible apply State.pathPort_ok' | with_reducible apply State.stackCopiesTo_ok
    | with_reducible apply State.stackCopiesTo_ok' | (refine ok2_eq (by with_reducible assumption) ?_) | split
    | dsimp +zetaDelta -zeta only

theorem State.acceptAll_ok {pcs : Piece → Prop} {b0 : State} (s : State) (x : StackIn) (hok : Ok pcs b0 s)
    (hp0 : pcs .stack := by assumption) :
    Ok2 pcs b0 (State.acceptAll s x) := by
  delta State.acceptAll
  repeat' first
    | with_reducible assumption | extract_lets | intro _ | with_reducible apply ok2_ite
    | with_reducible apply ok_ite | with_reducible apply State.modStack_ok | split | with_reducible apply ok2_mk
    | dsimp +zetaDelta -zeta only

theorem State.acceptAll_ok' {pcs : Piece → Prop} {b0 : State} (s : State) (x : StackIn) (hok : Ok pcs b0 s)
    (hp0 : pcs .stack := by assumption) :
    Ok pcs b0 (State.acceptAll s x).2 := State.acceptAll_ok s x hok hp0

theorem State.stackAccept_ok {pcs : Piece → Prop} {b0 : State} (s : State) (e : Nat) (bs : List Byte) (x : StackIn)
    (colour : Nat) (ports : List Nat) (act : State → StackIn → Nat → State) (hok : Ok pcs b0 s)
    (h_act : ∀ s x y, Ok pcs b0 s → Ok pcs b0 (act s x y)) (hp0 : pcs .free := by assumption)
    (hp1 : pcs .regs := by assumption) (hp2 : pcs .mem := by assumption) (hp3 : pcs .col := by assumption)
    (hp4 : pcs .firn := by assumption) (hp5 : pcs .rings := by assumption) (hp6 : pcs .irq := by assumption)
    (hp7 : pcs .mor := by assumption) (hp8 : pcs .poison := by assumption) :
    Ok pcs b0 (State.stackAccept s e bs x colour ports act) := by
  delta State.stackAccept
  repeat' first
    | with_reducible assumption | extract_lets | intro _ | with_reducible apply ok_ite
    | with_reducible apply State.act_ok | with_reducible apply State.stackCopiesTo_ok
    | with_reducible apply State.stackCopiesTo_ok' | with_reducible apply h_act
    | (refine ok2_eq (by with_reducible assumption) ?_) | split | dsimp +zetaDelta -zeta only

theorem State.stackTake_ok {pcs : Piece → Prop} {b0 : State} (s : State) (e : Nat) (bs : List Byte) (x : StackIn)
    (colour : Nat) (act : State → StackIn → Nat → State) (hok : Ok pcs b0 s)
    (h_act : ∀ s x y, Ok pcs b0 s → Ok pcs b0 (act s x y)) (hp0 : pcs .free := by assumption)
    (hp1 : pcs .regs := by assumption) (hp2 : pcs .mem := by assumption) (hp3 : pcs .tx := by assumption)
    (hp4 : pcs .col := by assumption) (hp5 : pcs .firn := by assumption) (hp6 : pcs .rings := by assumption)
    (hp7 : pcs .irq := by assumption) (hp8 : pcs .mor := by assumption) (hp9 : pcs .stack := by assumption)
    (hp10 : pcs .poison := by assumption) :
    Ok pcs b0 (State.stackTake s e bs x colour act) := by
  delta State.stackTake
  repeat' first
    | with_reducible assumption | extract_lets | intro _ | with_reducible apply ok_ite
    | with_reducible apply State.act_ok | with_reducible apply State.acceptAll_ok
    | with_reducible apply State.acceptAll_ok' | with_reducible apply State.stackAccept_ok
    | with_reducible apply State.stackViolation_ok | with_reducible apply State.relayOne_ok
    | with_reducible apply h_act | (refine ok2_eq (by with_reducible assumption) ?_) | split
    | dsimp +zetaDelta -zeta only

theorem State.stackRx_ok {pcs : Piece → Prop} {b0 : State} (s : State) (e : Nat) (fr : EthFrame)
    (act : State → StackIn → Nat → State) (hok : Ok pcs b0 s) (h_act : ∀ s x y, Ok pcs b0 s → Ok pcs b0 (act s x y))
    (hp0 : pcs .free := by assumption) (hp1 : pcs .regs := by assumption) (hp2 : pcs .mem := by assumption)
    (hp3 : pcs .tx := by assumption) (hp4 : pcs .col := by assumption) (hp5 : pcs .firn := by assumption)
    (hp6 : pcs .rings := by assumption) (hp7 : pcs .irq := by assumption) (hp8 : pcs .mor := by assumption)
    (hp9 : pcs .stack := by assumption) (hp10 : pcs .poison := by assumption) :
    Ok pcs b0 (State.stackRx s e fr act) := by
  delta State.stackRx
  repeat' first
    | with_reducible assumption | extract_lets | intro _ | with_reducible apply ok_ite
    | with_reducible apply State.act_ok | with_reducible apply State.morEth_ok
    | with_reducible apply State.stackViolation_ok | with_reducible apply State.ingressMeter_ok
    | with_reducible apply State.ingressMeter_ok' | with_reducible apply State.stackTake_ok
    | with_reducible apply h_act | (refine ok2_eq (by with_reducible assumption) ?_) | split
    | dsimp +zetaDelta -zeta only

theorem stackFrame_ok {pcs : Piece → Prop} {b0 : State} (e : PortId) (fr : EthFrame) (ty : Nat → Bool) (s : State)
    (act : State → StackIn → Nat → State) (hok : Ok pcs b0 s) (h_act : ∀ s x y, Ok pcs b0 s → Ok pcs b0 (act s x y))
    (hp0 : pcs .free := by assumption) (hp1 : pcs .regs := by assumption) (hp2 : pcs .mem := by assumption)
    (hp3 : pcs .tx := by assumption) (hp4 : pcs .col := by assumption) (hp5 : pcs .firn := by assumption)
    (hp6 : pcs .rings := by assumption) (hp7 : pcs .irq := by assumption) (hp8 : pcs .mor := by assumption)
    (hp9 : pcs .stack := by assumption) (hp10 : pcs .poison := by assumption) :
    OkO pcs b0 (stackFrame e fr ty s act) := by
  delta stackFrame
  repeat' first
    | with_reducible assumption | extract_lets | intro _ | with_reducible apply okO_next
    | with_reducible apply okO_ite | with_reducible apply ok_ite | with_reducible apply State.act_ok
    | with_reducible apply State.stackRx_ok | with_reducible apply State.ethBadFcs_ok | with_reducible apply h_act
    | split | dsimp +zetaDelta -zeta only

theorem State.stackDataIn_ok {pcs : Piece → Prop} {b0 : State} (s : State) (e : Nat) (x : StackIn) (colour : Nat)
    (hok : Ok pcs b0 s) (hp0 : pcs .free := by assumption) (hp1 : pcs .regs := by assumption)
    (hp2 : pcs .mem := by assumption) (hp3 : pcs .col := by assumption) (hp4 : pcs .firn := by assumption)
    (hp5 : pcs .rings := by assumption) (hp6 : pcs .irq := by assumption) (hp7 : pcs .mor := by assumption)
    (hp8 : pcs .poison := by assumption) :
    Ok pcs b0 (State.stackDataIn s e x colour) := by
  delta State.stackDataIn
  repeat' first
    | with_reducible assumption | extract_lets | intro _ | with_reducible apply State.takeIn_ok
    | with_reducible apply State.takeIn_ok' | with_reducible apply State.morDrop_ok
    | with_reducible apply State.admissionRecs_ok | with_reducible apply State.enqueue_ok
    | (refine ok2_eq (by with_reducible assumption) ?_) | split | dsimp +zetaDelta -zeta only

theorem execStackDataRx_ok {pcs : Piece → Prop} {b0 : State} (e : PortId) (fr : EthFrame) (s : State)
    (hok : Ok pcs b0 s) (hp0 : pcs .free := by assumption) (hp1 : pcs .regs := by assumption)
    (hp2 : pcs .mem := by assumption) (hp3 : pcs .tx := by assumption) (hp4 : pcs .col := by assumption)
    (hp5 : pcs .firn := by assumption) (hp6 : pcs .rings := by assumption) (hp7 : pcs .irq := by assumption)
    (hp8 : pcs .mor := by assumption) (hp9 : pcs .stack := by assumption) (hp10 : pcs .poison := by assumption) :
    OkO pcs b0 (execStackDataRx e fr s) := by
  delta execStackDataRx
  repeat' first
    | with_reducible assumption | extract_lets | intro _ | with_reducible apply okO_next
    | with_reducible apply okO_ite | with_reducible apply stackFrame_ok | with_reducible apply stackFrame_ok'
    | with_reducible apply State.stackDataIn_ok | split | dsimp +zetaDelta -zeta only

theorem State.setRole_ok {pcs : Piece → Prop} {b0 : State} (s : State) (role : Nat) (standby : Bool)
    (hok : Ok pcs b0 s) (hp0 : pcs .regs := by assumption) (hp1 : pcs .irq := by assumption) :
    Ok pcs b0 (State.setRole s role standby) := by
  delta State.setRole
  repeat' first
    | with_reducible assumption | extract_lets | intro _ | with_reducible apply ok_ite
    | with_reducible apply State.setF_ok | with_reducible apply State.setB_ok | with_reducible apply State.raise_ok
    | split | dsimp +zetaDelta -zeta only

theorem State.heartbeat_ok {pcs : Piece → Prop} {b0 : State} (s : State) (hok : Ok pcs b0 s)
    (hp0 : pcs .free := by assumption) (hp1 : pcs .regs := by assumption) (hp2 : pcs .mem := by assumption)
    (hp3 : pcs .tx := by assumption) (hp4 : pcs .col := by assumption) (hp5 : pcs .firn := by assumption)
    (hp6 : pcs .irq := by assumption) (hp7 : pcs .stack := by assumption) (hp8 : pcs .poison := by assumption) :
    Ok pcs b0 (State.heartbeat s) := by
  delta State.heartbeat
  repeat' first
    | with_reducible assumption | extract_lets | intro _ | with_reducible apply State.sendAll_ok | split
    | dsimp +zetaDelta -zeta only

theorem State.heartbeatStart_ok {pcs : Piece → Prop} {b0 : State} (s : State) (hok : Ok pcs b0 s)
    (hp0 : pcs .free := by assumption) (hp1 : pcs .regs := by assumption) (hp2 : pcs .mem := by assumption)
    (hp3 : pcs .tx := by assumption) (hp4 : pcs .col := by assumption) (hp5 : pcs .firn := by assumption)
    (hp6 : pcs .irq := by assumption) (hp7 : pcs .stack := by assumption) (hp8 : pcs .poison := by assumption) :
    Ok pcs b0 (State.heartbeatStart s) := by
  delta State.heartbeatStart
  repeat' first
    | with_reducible assumption | extract_lets | intro _ | with_reducible apply State.modStack_ok
    | with_reducible apply State.heartbeat_ok | split | dsimp +zetaDelta -zeta only

theorem State.lead_ok {pcs : Piece → Prop} {b0 : State} (s : State) (role : Nat) (hok : Ok pcs b0 s)
    (hp0 : pcs .free := by assumption) (hp1 : pcs .regs := by assumption) (hp2 : pcs .mem := by assumption)
    (hp3 : pcs .tx := by assumption) (hp4 : pcs .col := by assumption) (hp5 : pcs .firn := by assumption)
    (hp6 : pcs .irq := by assumption) (hp7 : pcs .stack := by assumption) (hp8 : pcs .poison := by assumption) :
    Ok pcs b0 (State.lead s role) := by
  delta State.lead
  repeat' first
    | with_reducible assumption | extract_lets | intro _ | with_reducible apply State.setRole_ok
    | with_reducible apply State.modStack_ok | with_reducible apply State.heartbeatStart_ok | split
    | dsimp +zetaDelta -zeta only

theorem execHeartbeatTimer_ok {pcs : Piece → Prop} {b0 : State} (s : State) (hok : Ok pcs b0 s)
    (hp0 : pcs .free := by assumption) (hp1 : pcs .regs := by assumption) (hp2 : pcs .mem := by assumption)
    (hp3 : pcs .tx := by assumption) (hp4 : pcs .col := by assumption) (hp5 : pcs .firn := by assumption)
    (hp6 : pcs .irq := by assumption) (hp7 : pcs .stack := by assumption) (hp8 : pcs .poison := by assumption) :
    OkO pcs b0 (execHeartbeatTimer s) := by
  delta execHeartbeatTimer
  repeat' first
    | with_reducible assumption | extract_lets | intro _ | with_reducible apply okO_next
    | with_reducible apply okO_ite | with_reducible apply ok_ite | with_reducible apply State.modStack_ok
    | with_reducible apply State.heartbeat_ok | split | dsimp +zetaDelta -zeta only

theorem execMasterListenEnd_ok {pcs : Piece → Prop} {b0 : State} (s : State) (hok : Ok pcs b0 s)
    (hp0 : pcs .free := by assumption) (hp1 : pcs .regs := by assumption) (hp2 : pcs .mem := by assumption)
    (hp3 : pcs .tx := by assumption) (hp4 : pcs .col := by assumption) (hp5 : pcs .firn := by assumption)
    (hp6 : pcs .irq := by assumption) (hp7 : pcs .stack := by assumption) (hp8 : pcs .poison := by assumption) :
    OkO pcs b0 (execMasterListenEnd s) := by
  delta execMasterListenEnd
  repeat' first
    | with_reducible assumption | extract_lets | intro _ | with_reducible apply okO_next
    | with_reducible apply okO_ite | with_reducible apply ok_ite | with_reducible apply State.modStack_ok
    | with_reducible apply State.setRole_ok | with_reducible apply State.heartbeatStart_ok
    | with_reducible apply State.lead_ok | split | dsimp +zetaDelta -zeta only

theorem execMasterLost_ok {pcs : Piece → Prop} {b0 : State} (s : State) (hok : Ok pcs b0 s)
    (hp0 : pcs .free := by assumption) (hp1 : pcs .regs := by assumption) (hp2 : pcs .mem := by assumption)
    (hp3 : pcs .tx := by assumption) (hp4 : pcs .col := by assumption) (hp5 : pcs .firn := by assumption)
    (hp6 : pcs .irq := by assumption) (hp7 : pcs .stack := by assumption) (hp8 : pcs .poison := by assumption) :
    OkO pcs b0 (execMasterLost s) := by
  delta execMasterLost
  repeat' first
    | with_reducible assumption | extract_lets | intro _ | with_reducible apply okO_next
    | with_reducible apply okO_ite | with_reducible apply ok_ite | with_reducible apply State.modStack_ok
    | with_reducible apply State.setB_ok | with_reducible apply State.satAdd_ok
    | with_reducible apply State.raise_ok | with_reducible apply State.lead_ok | split
    | dsimp +zetaDelta -zeta only

theorem execBroadcastSeqForget_ok {pcs : Piece → Prop} {b0 : State} (backup : Bool) (s : State) (hok : Ok pcs b0 s)
    (hp0 : pcs .stack := by assumption) :
    OkO pcs b0 (execBroadcastSeqForget backup s) := by
  delta execBroadcastSeqForget
  repeat' first
    | with_reducible assumption | extract_lets | intro _ | with_reducible apply okO_next
    | with_reducible apply okO_ite | with_reducible apply ok_ite | with_reducible apply State.modStack_ok | split
    | dsimp +zetaDelta -zeta only

theorem State.heartbeatIn_ok {pcs : Piece → Prop} {b0 : State} (s : State) (x : StackIn) (hok : Ok pcs b0 s)
    (hp0 : pcs .regs := by assumption) (hp1 : pcs .irq := by assumption) (hp2 : pcs .stack := by assumption) :
    Ok pcs b0 (State.heartbeatIn s x) := by
  delta State.heartbeatIn
  repeat' first
    | with_reducible assumption | extract_lets | intro _ | with_reducible apply ok_ite
    | with_reducible apply State.modStack_ok | with_reducible apply State.lead_ok
    | with_reducible apply State.setF_ok | with_reducible apply State.setRole_ok
    | with_reducible apply State.setB_ok | with_reducible apply State.raise_ok | split
    | dsimp +zetaDelta -zeta only

theorem execHeartbeatRx_ok {pcs : Piece → Prop} {b0 : State} (e : PortId) (fr : EthFrame) (s : State)
    (hok : Ok pcs b0 s) (hp0 : pcs .free := by assumption) (hp1 : pcs .regs := by assumption)
    (hp2 : pcs .mem := by assumption) (hp3 : pcs .tx := by assumption) (hp4 : pcs .col := by assumption)
    (hp5 : pcs .firn := by assumption) (hp6 : pcs .rings := by assumption) (hp7 : pcs .irq := by assumption)
    (hp8 : pcs .mor := by assumption) (hp9 : pcs .stack := by assumption) (hp10 : pcs .poison := by assumption) :
    OkO pcs b0 (execHeartbeatRx e fr s) := by
  delta execHeartbeatRx
  repeat' first
    | with_reducible assumption | extract_lets | intro _ | with_reducible apply okO_next
    | with_reducible apply okO_ite | with_reducible apply stackFrame_ok | with_reducible apply stackFrame_ok'
    | with_reducible apply State.heartbeatIn_ok | split | dsimp +zetaDelta -zeta only

theorem execHandoverRx_ok {pcs : Piece → Prop} {b0 : State} (e : PortId) (fr : EthFrame) (s : State)
    (hok : Ok pcs b0 s) (hp0 : pcs .free := by assumption) (hp1 : pcs .regs := by assumption)
    (hp2 : pcs .mem := by assumption) (hp3 : pcs .tx := by assumption) (hp4 : pcs .col := by assumption)
    (hp5 : pcs .firn := by assumption) (hp6 : pcs .rings := by assumption) (hp7 : pcs .irq := by assumption)
    (hp8 : pcs .mor := by assumption) (hp9 : pcs .stack := by assumption) (hp10 : pcs .poison := by assumption) :
    OkO pcs b0 (execHandoverRx e fr s) := by
  delta execHandoverRx
  repeat' first
    | with_reducible assumption | extract_lets | intro _ | with_reducible apply okO_next
    | with_reducible apply okO_ite | with_reducible apply ok_ite | with_reducible apply stackFrame_ok
    | with_reducible apply stackFrame_ok' | with_reducible apply State.setF_ok | with_reducible apply State.lead_ok
    | split | dsimp +zetaDelta -zeta only

theorem execNakRx_ok {pcs : Piece → Prop} {b0 : State} (e : PortId) (fr : EthFrame) (s : State) (hok : Ok pcs b0 s)
    (hp0 : pcs .free := by assumption) (hp1 : pcs .regs := by assumption) (hp2 : pcs .mem := by assumption)
    (hp3 : pcs .tx := by assumption) (hp4 : pcs .col := by assumption) (hp5 : pcs .firn := by assumption)
    (hp6 : pcs .rings := by assumption) (hp7 : pcs .irq := by assumption) (hp8 : pcs .mor := by assumption)
    (hp9 : pcs .stack := by assumption) (hp10 : pcs .poison := by assumption) :
    OkO pcs b0 (execNakRx e fr s) := by
  delta execNakRx
  repeat' first
    | with_reducible assumption | extract_lets | intro _ | with_reducible apply okO_next
    | with_reducible apply okO_ite | with_reducible apply stackFrame_ok | with_reducible apply stackFrame_ok'
    | with_reducible apply State.satAdd_ok | with_reducible apply State.raise_ok | split
    | dsimp +zetaDelta -zeta only

theorem execHandover_ok {pcs : Piece → Prop} {b0 : State} (f : Fn) (d : Words8) (s : State) (hok : Ok pcs b0 s)
    (hp0 : pcs .free := by assumption) (hp1 : pcs .regs := by assumption) (hp2 : pcs .mem := by assumption)
    (hp3 : pcs .host := by assumption) (hp4 : pcs .tx := by assumption) (hp5 : pcs .col := by assumption)
    (hp6 : pcs .firn := by assumption) (hp7 : pcs .rings := by assumption) (hp8 : pcs .irq := by assumption)
    (hp9 : pcs .stack := by assumption) (hp10 : pcs .poison := by assumption) :
    OkO pcs b0 (execHandover f d s) := by
  delta execHandover
  repeat' first
    | with_reducible assumption | extract_lets | intro _ | with_reducible apply okO_next
    | with_reducible apply okO_ite | with_reducible apply ok_ite | with_reducible apply adminSub_ok
    | with_reducible apply adminSub_ok' | with_reducible apply State.sendTo_ok
    | with_reducible apply State.adminDone_ok | with_reducible apply State.adminRefuse_ok | split
    | dsimp +zetaDelta -zeta only

theorem execStackStatus_ok {pcs : Piece → Prop} {b0 : State} (f : Fn) (d : Words8) (s : State) (hok : Ok pcs b0 s)
    (hp0 : pcs .regs := by assumption) (hp1 : pcs .host := by assumption) (hp2 : pcs .rings := by assumption)
    (hp3 : pcs .irq := by assumption) :
    OkO pcs b0 (execStackStatus f d s) := by
  delta execStackStatus
  repeat' first
    | with_reducible assumption | extract_lets | intro _ | with_reducible apply okO_next
    | with_reducible apply okO_ite | with_reducible apply ok_ite | with_reducible apply adminCmd_ok
    | with_reducible apply adminCmd_ok' | with_reducible apply State.clamp_ok
    | with_reducible apply State.adminCpl_ok | split | dsimp +zetaDelta -zeta only

theorem State.stackStart_ok {pcs : Piece → Prop} {b0 : State} (s : State) (hok : Ok pcs b0 s)
    (hp0 : pcs .regs := by assumption) (hp1 : pcs .irq := by assumption) (hp2 : pcs .stack := by assumption) :
    Ok pcs b0 (State.stackStart s) := by
  delta State.stackStart
  repeat' first
    | with_reducible assumption | extract_lets | intro _ | with_reducible apply ok_ite
    | with_reducible apply State.modStack_ok | with_reducible apply State.setRole_ok | split
    | dsimp +zetaDelta -zeta only

theorem execBlockStartStack_ok {pcs : Piece → Prop} {b0 : State} (f : Fn) (d : Words8) (s : State)
    (hok : Ok pcs b0 s) (hp0 : pcs .regs := by assumption) (hp1 : pcs .host := by assumption)
    (hp2 : pcs .rings := by assumption) (hp3 : pcs .irq := by assumption) (hp4 : pcs .stack := by assumption) :
    OkO pcs b0 (execBlockStartStack f d s) := by
  delta execBlockStartStack
  repeat' first
    | with_reducible assumption | extract_lets | intro _ | with_reducible apply okO_next
    | with_reducible apply okO_ite | with_reducible apply ok_ite | with_reducible apply blockCmd_ok
    | with_reducible apply blockCmd_ok' | with_reducible apply State.adminRefuse_ok
    | with_reducible apply State.stackStart_ok | with_reducible apply State.adminDone_ok | split
    | dsimp +zetaDelta -zeta only

theorem State.unstage_ok {pcs : Piece → Prop} {b0 : State} (s : State) (hok : Ok pcs b0 s)
    (hp0 : pcs .regs := by assumption) (hp1 : pcs .firn := by assumption) (hp2 : pcs .irq := by assumption)
    (hp3 : pcs .stack := by assumption) :
    Ok pcs b0 (State.unstage s) := by
  delta State.unstage
  repeat' first
    | with_reducible assumption | extract_lets | intro _ | with_reducible apply State.releaseAt_ok
    | with_reducible apply State.modStack_ok | with_reducible apply ok_foldl | with_reducible apply ok2_foldl
    | with_reducible apply ok_foldl2 | with_reducible apply ok_ite2 | with_reducible apply ok1_foldl
    | with_reducible apply ok_foldl1 | with_reducible apply ok_ite1 | split | dsimp +zetaDelta -zeta only

theorem State.stackStop_ok {pcs : Piece → Prop} {b0 : State} (s : State) (hok : Ok pcs b0 s)
    (hp0 : pcs .regs := by assumption) (hp1 : pcs .tx := by assumption) (hp2 : pcs .firn := by assumption)
    (hp3 : pcs .irq := by assumption) (hp4 : pcs .stack := by assumption) (hp5 : pcs .eths := by assumption) :
    Ok pcs b0 (State.stackStop s) := by
  delta State.stackStop
  repeat' first
    | with_reducible assumption | extract_lets | intro _ | with_reducible apply State.modEth_ok
    | with_reducible apply State.ethFree_ok | with_reducible apply State.withSeWait_ok
    | with_reducible apply State.unstage_ok | with_reducible apply State.setRole_ok
    | with_reducible apply State.modStack_ok | with_reducible apply ok_foldl | with_reducible apply ok2_foldl
    | with_reducible apply ok_foldl2 | with_reducible apply ok_ite2 | with_reducible apply ok1_foldl
    | with_reducible apply ok_foldl1 | with_reducible apply ok_ite1 | split | dsimp +zetaDelta -zeta only

theorem execBlockStopStack_ok {pcs : Piece → Prop} {b0 : State} (f : Fn) (d : Words8) (s : State)
    (hok : Ok pcs b0 s) (hp0 : pcs .regs := by assumption) (hp1 : pcs .host := by assumption)
    (hp2 : pcs .tx := by assumption) (hp3 : pcs .firn := by assumption) (hp4 : pcs .rings := by assumption)
    (hp5 : pcs .irq := by assumption) (hp6 : pcs .stack := by assumption) (hp7 : pcs .eths := by assumption) :
    OkO pcs b0 (execBlockStopStack f d s) := by
  delta execBlockStopStack
  repeat' first
    | with_reducible assumption | extract_lets | intro _ | with_reducible apply okO_next
    | with_reducible apply okO_ite | with_reducible apply blockCmd_ok | with_reducible apply blockCmd_ok'
    | with_reducible apply State.stackStop_ok | with_reducible apply State.adminDone_ok | split
    | dsimp +zetaDelta -zeta only

theorem State.stage_ok {pcs : Piece → Prop} {b0 : State} (s : State) (epoch : Nat) (group : Bool) (first : Nat)
    (recs : List Rec4) (hok : Ok pcs b0 s) (hp0 : pcs .free := by assumption) (hp1 : pcs .regs := by assumption)
    (hp2 : pcs .mem := by assumption) (hp3 : pcs .tx := by assumption) (hp4 : pcs .col := by assumption)
    (hp5 : pcs .firn := by assumption) (hp6 : pcs .irq := by assumption) (hp7 : pcs .stack := by assumption)
    (hp8 : pcs .poison := by assumption) :
    Ok pcs b0 (State.stage s epoch group first recs) :=
  ok_ite hok (State.seOffer_ok _ _ (ok_ite hok (State.modStack_ok _ _ (State.unstage_ok _ hok))))

theorem execRoutePushRx_ok {pcs : Piece → Prop} {b0 : State} (e : PortId) (fr : EthFrame) (s : State)
    (hok : Ok pcs b0 s) (hp0 : pcs .free := by assumption) (hp1 : pcs .regs := by assumption)
    (hp2 : pcs .mem := by assumption) (hp3 : pcs .tx := by assumption) (hp4 : pcs .col := by assumption)
    (hp5 : pcs .firn := by assumption) (hp6 : pcs .rings := by assumption) (hp7 : pcs .irq := by assumption)
    (hp8 : pcs .mor := by assumption) (hp9 : pcs .stack := by assumption) (hp10 : pcs .poison := by assumption) :
    OkO pcs b0 (execRoutePushRx e fr s) := by
  delta execRoutePushRx
  repeat' first
    | with_reducible assumption | extract_lets | intro _ | with_reducible apply okO_next
    | with_reducible apply okO_ite | with_reducible apply stackFrame_ok | with_reducible apply stackFrame_ok'
    | with_reducible apply State.stage_ok | split | dsimp +zetaDelta -zeta only

theorem State.pushFrames_ok {pcs : Piece → Prop} {b0 : State} (s : State) (all : Bool) (dev : Nat) (epoch : Nat)
    (group : Bool) (first : Nat) (rs : List Rec4) (a7 : Nat) (hok : Ok pcs b0 s) (hp0 : pcs .free := by assumption)
    (hp1 : pcs .regs := by assumption) (hp2 : pcs .mem := by assumption) (hp3 : pcs .tx := by assumption)
    (hp4 : pcs .col := by assumption) (hp5 : pcs .firn := by assumption) (hp6 : pcs .irq := by assumption)
    (hp7 : pcs .stack := by assumption) (hp8 : pcs .poison := by assumption) :
    Ok pcs b0 (State.pushFrames s all dev epoch group first rs a7) := by
  induction a7 generalizing s all dev epoch group first rs <;> unfold State.pushFrames
  all_goals repeat' first
    | apply_assumption | extract_lets | intro _ | with_reducible apply ok_ite
    | with_reducible apply State.sendAll_ok | with_reducible apply State.sendTo_ok | split
    | dsimp +zetaDelta -zeta only

theorem State.routePush_ok {pcs : Piece → Prop} {b0 : State} (s : State) (r : AdminRef) (d : Words8)
    (recs : List Rec4) (clamps : Nat) (hok : Ok pcs b0 s) (hp0 : pcs .free := by assumption)
    (hp1 : pcs .regs := by assumption) (hp2 : pcs .mem := by assumption) (hp3 : pcs .host := by assumption)
    (hp4 : pcs .tx := by assumption) (hp5 : pcs .col := by assumption) (hp6 : pcs .firn := by assumption)
    (hp7 : pcs .rings := by assumption) (hp8 : pcs .irq := by assumption) (hp9 : pcs .stack := by assumption)
    (hp10 : pcs .poison := by assumption) :
    Ok pcs b0 (State.routePush s r d recs clamps) := by
  delta State.routePush
  repeat' first
    | with_reducible assumption | extract_lets | intro _ | with_reducible apply ok_ite
    | with_reducible apply State.adminRefuse_ok | with_reducible apply State.withStack_ok
    | with_reducible apply State.clamp_ok | with_reducible apply State.stage_ok
    | with_reducible apply State.pushFrames_ok | with_reducible apply State.adminDone_ok
    | with_reducible apply ok_foldl | with_reducible apply ok2_foldl | with_reducible apply ok_foldl2
    | with_reducible apply ok_ite2 | with_reducible apply ok1_foldl | with_reducible apply ok_foldl1
    | with_reducible apply ok_ite1 | split | dsimp +zetaDelta -zeta only

theorem execRoutePush_ok {pcs : Piece → Prop} {b0 : State} (f : Fn) (d : Words8) (recs : List Rec4) (s : State)
    (hok : Ok pcs b0 s) (hp0 : pcs .free := by assumption) (hp1 : pcs .regs := by assumption)
    (hp2 : pcs .mem := by assumption) (hp3 : pcs .host := by assumption) (hp4 : pcs .tx := by assumption)
    (hp5 : pcs .col := by assumption) (hp6 : pcs .firn := by assumption) (hp7 : pcs .rings := by assumption)
    (hp8 : pcs .irq := by assumption) (hp9 : pcs .stack := by assumption) (hp10 : pcs .poison := by assumption) :
    OkO pcs b0 (execRoutePush f d recs s) := by
  delta execRoutePush
  repeat' first
    | with_reducible assumption | extract_lets | intro _ | with_reducible apply okO_next
    | with_reducible apply okO_ite | with_reducible apply ok_ite | with_reducible apply adminSub_ok
    | with_reducible apply adminSub_ok' | with_reducible apply State.routePush_ok | split
    | dsimp +zetaDelta -zeta only

theorem State.epochAnswer_ok {pcs : Piece → Prop} {b0 : State} (s : State) (epoch : Nat) (ok : Bool)
    (dst : Option Nat) (hok : Ok pcs b0 s) (hp0 : pcs .free := by assumption) (hp1 : pcs .regs := by assumption)
    (hp2 : pcs .mem := by assumption) (hp3 : pcs .tx := by assumption) (hp4 : pcs .col := by assumption)
    (hp5 : pcs .firn := by assumption) (hp6 : pcs .irq := by assumption) (hp7 : pcs .stack := by assumption)
    (hp8 : pcs .poison := by assumption) :
    Ok pcs b0 (State.epochAnswer s epoch ok dst) := by
  delta State.epochAnswer
  repeat' first
    | with_reducible assumption | extract_lets | intro _ | with_reducible apply ok_ite
    | with_reducible apply State.sendTo_ok | with_reducible apply State.modStack_ok | split
    | dsimp +zetaDelta -zeta only

theorem State.commitTake_ok {pcs : Piece → Prop} {b0 : State} (s : State) (epoch : Nat) (count : Nat) (sec : Nat)
    (ns : Nat) (src : Option Nat) (hok : Ok pcs b0 s) (hp0 : pcs .free := by assumption)
    (hp1 : pcs .regs := by assumption) (hp2 : pcs .mem := by assumption) (hp3 : pcs .tx := by assumption)
    (hp4 : pcs .col := by assumption) (hp5 : pcs .firn := by assumption) (hp6 : pcs .irq := by assumption)
    (hp7 : pcs .stack := by assumption) (hp8 : pcs .poison := by assumption) :
    Ok pcs b0 (State.commitTake s epoch count sec ns src) := by
  delta State.commitTake
  repeat' first
    | with_reducible assumption | extract_lets | intro _ | with_reducible apply ok_ite
    | with_reducible apply State.modStack_ok | with_reducible apply State.act_ok
    | with_reducible apply State.unstage_ok | with_reducible apply State.raise_ok
    | with_reducible apply State.epochAnswer_ok | split | dsimp +zetaDelta -zeta only

theorem execEpochCommitRx_ok {pcs : Piece → Prop} {b0 : State} (e : PortId) (fr : EthFrame) (s : State)
    (hok : Ok pcs b0 s) (hp0 : pcs .free := by assumption) (hp1 : pcs .regs := by assumption)
    (hp2 : pcs .mem := by assumption) (hp3 : pcs .tx := by assumption) (hp4 : pcs .col := by assumption)
    (hp5 : pcs .firn := by assumption) (hp6 : pcs .rings := by assumption) (hp7 : pcs .irq := by assumption)
    (hp8 : pcs .mor := by assumption) (hp9 : pcs .stack := by assumption) (hp10 : pcs .poison := by assumption) :
    OkO pcs b0 (execEpochCommitRx e fr s) := by
  delta execEpochCommitRx
  repeat' first
    | with_reducible assumption | extract_lets | intro _ | with_reducible apply okO_next
    | with_reducible apply okO_ite | with_reducible apply stackFrame_ok | with_reducible apply stackFrame_ok'
    | with_reducible apply State.commitTake_ok | split | dsimp +zetaDelta -zeta only

theorem State.applyStaged_ok {pcs : Piece → Prop} {b0 : State} (s : State) (hok : Ok pcs b0 s)
    (hp0 : pcs .regs := by assumption) (hp1 : pcs .mem := by assumption) (hp2 : pcs .routes := by assumption)
    (hp3 : pcs .poison := by assumption) :
    Ok pcs b0 (State.applyStaged s) := by
  delta State.applyStaged
  repeat' first
    | with_reducible assumption | extract_lets | intro _ | with_reducible apply State.routeSet_ok
    | with_reducible apply State.routeSet_ok' | (refine ok1_eq (by with_reducible assumption) ?_)
    | exact ok1_fst (by with_reducible assumption) | with_reducible apply ok_foldl | with_reducible apply ok2_foldl
    | with_reducible apply ok_foldl2 | with_reducible apply ok_ite2 | with_reducible apply ok1_foldl
    | with_reducible apply ok_foldl1 | with_reducible apply ok_ite1 | split | dsimp +zetaDelta -zeta only

theorem execEpochActivation_ok {pcs : Piece → Prop} {b0 : State} (s : State) (hok : Ok pcs b0 s)
    (hp0 : pcs .free := by assumption) (hp1 : pcs .regs := by assumption) (hp2 : pcs .mem := by assumption)
    (hp3 : pcs .tx := by assumption) (hp4 : pcs .routes := by assumption) (hp5 : pcs .col := by assumption)
    (hp6 : pcs .firn := by assumption) (hp7 : pcs .irq := by assumption) (hp8 : pcs .stack := by assumption)
    (hp9 : pcs .poison := by assumption) :
    OkO pcs b0 (execEpochActivation s) := by
  delta execEpochActivation
  repeat' first
    | with_reducible assumption | extract_lets | intro _ | with_reducible apply okO_next
    | with_reducible apply okO_ite | with_reducible apply ok_ite | with_reducible apply State.act_ok
    | with_reducible apply State.applyStaged_ok | with_reducible apply State.unstage_ok
    | with_reducible apply State.modStack_ok | with_reducible apply State.setF_ok
    | with_reducible apply State.raise_ok | with_reducible apply State.epochAnswer_ok | split
    | dsimp +zetaDelta -zeta only

theorem execEpochAckRx_ok {pcs : Piece → Prop} {b0 : State} (e : PortId) (fr : EthFrame) (s : State)
    (hok : Ok pcs b0 s) (hp0 : pcs .free := by assumption) (hp1 : pcs .regs := by assumption)
    (hp2 : pcs .mem := by assumption) (hp3 : pcs .tx := by assumption) (hp4 : pcs .col := by assumption)
    (hp5 : pcs .firn := by assumption) (hp6 : pcs .rings := by assumption) (hp7 : pcs .irq := by assumption)
    (hp8 : pcs .mor := by assumption) (hp9 : pcs .stack := by assumption) (hp10 : pcs .poison := by assumption) :
    OkO pcs b0 (execEpochAckRx e fr s) := by
  delta execEpochAckRx
  repeat' first
    | with_reducible assumption | extract_lets | intro _ | with_reducible apply okO_next
    | with_reducible apply okO_ite | with_reducible apply ok_ite | with_reducible apply stackFrame_ok
    | with_reducible apply stackFrame_ok' | with_reducible apply State.modStack_ok | split
    | dsimp +zetaDelta -zeta only

theorem State.epochCommit_ok {pcs : Piece → Prop} {b0 : State} (s : State) (r : AdminRef) (d : Words8)
    (hok : Ok pcs b0 s) (hp0 : pcs .free := by assumption) (hp1 : pcs .regs := by assumption)
    (hp2 : pcs .mem := by assumption) (hp3 : pcs .host := by assumption) (hp4 : pcs .tx := by assumption)
    (hp5 : pcs .col := by assumption) (hp6 : pcs .firn := by assumption) (hp7 : pcs .rings := by assumption)
    (hp8 : pcs .irq := by assumption) (hp9 : pcs .stack := by assumption) (hp10 : pcs .poison := by assumption) :
    Ok pcs b0 (State.epochCommit s r d) := by
  delta State.epochCommit
  repeat' first
    | with_reducible assumption | extract_lets | intro _ | with_reducible apply ok_ite
    | with_reducible apply State.lead_ok | with_reducible apply State.adminRefuse_ok
    | with_reducible apply State.adminBusy_ok | with_reducible apply State.modStack_ok
    | with_reducible apply State.clamp_ok | with_reducible apply State.commitTake_ok
    | with_reducible apply State.sendTo_ok | with_reducible apply ok_foldl | with_reducible apply ok2_foldl
    | with_reducible apply ok_foldl2 | with_reducible apply ok_ite2 | with_reducible apply ok1_foldl
    | with_reducible apply ok_foldl1 | with_reducible apply ok_ite1 | split | dsimp +zetaDelta -zeta only

theorem execEpochCommit_ok {pcs : Piece → Prop} {b0 : State} (f : Fn) (d : Words8) (s : State) (hok : Ok pcs b0 s)
    (hp0 : pcs .free := by assumption) (hp1 : pcs .regs := by assumption) (hp2 : pcs .mem := by assumption)
    (hp3 : pcs .host := by assumption) (hp4 : pcs .tx := by assumption) (hp5 : pcs .col := by assumption)
    (hp6 : pcs .firn := by assumption) (hp7 : pcs .rings := by assumption) (hp8 : pcs .irq := by assumption)
    (hp9 : pcs .stack := by assumption) (hp10 : pcs .poison := by assumption) :
    OkO pcs b0 (execEpochCommit f d s) := by
  delta execEpochCommit
  repeat' first
    | with_reducible assumption | extract_lets | intro _ | with_reducible apply okO_next
    | with_reducible apply okO_ite | with_reducible apply adminSub_ok | with_reducible apply adminSub_ok'
    | with_reducible apply State.epochCommit_ok | split | dsimp +zetaDelta -zeta only

theorem execEpochCommitDone_ok {pcs : Piece → Prop} {b0 : State} (s : State) (hok : Ok pcs b0 s)
    (hp0 : pcs .host := by assumption) (hp1 : pcs .rings := by assumption) (hp2 : pcs .irq := by assumption)
    (hp3 : pcs .stack := by assumption) :
    OkO pcs b0 (execEpochCommitDone s) := by
  delta execEpochCommitDone
  repeat' first
    | with_reducible assumption | extract_lets | intro _ | with_reducible apply okO_next
    | with_reducible apply okO_ite | with_reducible apply ok_ite | with_reducible apply State.modStack_ok
    | with_reducible apply State.adminCpl_ok | split | dsimp +zetaDelta -zeta only
end Sys2Proof.Machine
end

