-- ==== Sys2Proof/Laws/OkSync.lean ====
section
/-! SUPPORT. PTP: every operation of Machine/Sync.lean keeps the queue and a sane state, and changes no
piece but the ones it names. -/
namespace Sys2Proof.Machine
set_option Elab.async false

theorem State.ptpMsg_ok {pcs : Piece → Prop} {b0 : State} (s : State) (e : Nat) (ty : Nat) (flags : Nat) (seq : Nat)
    (control : Nat) (interval : Nat) (body : List Byte) (hok : Ok pcs b0 s) (hp0 : pcs .free := by assumption) :
    Ok2 pcs b0 (State.ptpMsg s e ty flags seq control interval body) := by
  delta State.ptpMsg
  repeat' first
    | with_reducible assumption | extract_lets | intro _ | with_reducible apply ok2_ite
    | with_reducible apply State.control_ok | with_reducible apply State.control_ok'
    | with_reducible apply State.drawWord_ok | with_reducible apply State.drawWord_ok'
    | (refine ok2_eq (by with_reducible assumption) ?_) | split | with_reducible apply ok2_mk
    | dsimp +zetaDelta -zeta only

theorem State.ptpMsg_ok' {pcs : Piece → Prop} {b0 : State} (s : State) (e : Nat) (ty : Nat) (flags : Nat)
    (seq : Nat) (control : Nat) (interval : Nat) (body : List Byte) (hok : Ok pcs b0 s)
    (hp0 : pcs .free := by assumption) :
    Ok pcs b0 (State.ptpMsg s e ty flags seq control interval body).2 := State.ptpMsg_ok s e ty flags seq control interval body hok hp0

theorem State.syncOn_ok {pcs : Piece → Prop} {b0 : State} (s : State) (seq : Nat) (e : Nat) (hok : Ok pcs b0 s)
    (hp0 : pcs .free := by assumption) (hp1 : pcs .regs := by assumption) (hp2 : pcs .mem := by assumption)
    (hp3 : pcs .tx := by assumption) (hp4 : pcs .col := by assumption) (hp5 : pcs .firn := by assumption)
    (hp6 : pcs .irq := by assumption) (hp7 : pcs .stack := by assumption) (hp8 : pcs .poison := by assumption) :
    Ok pcs b0 (State.syncOn s seq e) := by
  delta State.syncOn
  repeat' first
    | with_reducible assumption | extract_lets | intro _ | with_reducible apply State.ptpMsg_ok
    | with_reducible apply State.ptpMsg_ok' | with_reducible apply State.seSend_ok
    | (refine ok2_eq (by with_reducible assumption) ?_) | split | dsimp +zetaDelta -zeta only

theorem execSyncTxTimer_ok {pcs : Piece → Prop} {b0 : State} (s : State) (hok : Ok pcs b0 s)
    (hp0 : pcs .free := by assumption) (hp1 : pcs .regs := by assumption) (hp2 : pcs .mem := by assumption)
    (hp3 : pcs .tx := by assumption) (hp4 : pcs .col := by assumption) (hp5 : pcs .firn := by assumption)
    (hp6 : pcs .irq := by assumption) (hp7 : pcs .stack := by assumption) (hp8 : pcs .poison := by assumption) :
    OkO pcs b0 (execSyncTxTimer s) := by
  delta execSyncTxTimer
  repeat' first
    | with_reducible assumption | extract_lets | intro _ | with_reducible apply okO_next
    | with_reducible apply okO_ite | with_reducible apply ok_ite | with_reducible apply State.modStack_ok
    | with_reducible apply State.syncOn_ok | with_reducible apply ok_foldl | with_reducible apply ok2_foldl
    | with_reducible apply ok_foldl2 | with_reducible apply ok_ite2 | with_reducible apply ok1_foldl
    | with_reducible apply ok_foldl1 | with_reducible apply ok_ite1 | split | dsimp +zetaDelta -zeta only

theorem State.followUp_ok {pcs : Piece → Prop} {b0 : State} (s : State) (e : Nat) (seq : Nat) (t : Stamp)
    (hok : Ok pcs b0 s) (hp0 : pcs .free := by assumption) (hp1 : pcs .regs := by assumption)
    (hp2 : pcs .mem := by assumption) (hp3 : pcs .tx := by assumption) (hp4 : pcs .col := by assumption)
    (hp5 : pcs .firn := by assumption) (hp6 : pcs .irq := by assumption) (hp7 : pcs .stack := by assumption)
    (hp8 : pcs .poison := by assumption) :
    Ok pcs b0 (State.followUp s e seq t) := by
  delta State.followUp
  repeat' first
    | with_reducible assumption | extract_lets | intro _ | with_reducible apply State.ptpMsg_ok
    | with_reducible apply State.ptpMsg_ok' | with_reducible apply State.seSend_ok
    | (refine ok2_eq (by with_reducible assumption) ?_) | split | dsimp +zetaDelta -zeta only

theorem execEthFrameTxEnd_ok {pcs : Piece → Prop} {b0 : State} (e : PortId) (s : State) (hok : Ok pcs b0 s)
    (hp0 : pcs .free := by assumption) (hp1 : pcs .regs := by assumption) (hp2 : pcs .mem := by assumption)
    (hp3 : pcs .host := by assumption) (hp4 : pcs .tx := by assumption) (hp5 : pcs .col := by assumption)
    (hp6 : pcs .firn := by assumption) (hp7 : pcs .rings := by assumption) (hp8 : pcs .irq := by assumption)
    (hp9 : pcs .mor := by assumption) (hp10 : pcs .stack := by assumption) (hp11 : pcs .eths := by assumption)
    (hp12 : pcs .poison := by assumption) :
    OkO pcs b0 (execEthFrameTxEnd e s) := by
  delta execEthFrameTxEnd
  repeat' first
    | with_reducible assumption | extract_lets | intro _ | with_reducible apply okO_next
    | with_reducible apply okO_ite | with_reducible apply ok_ite | with_reducible apply State.wireEnd_ok
    | with_reducible apply State.followUp_ok | with_reducible apply State.modStack_ok | split
    | dsimp +zetaDelta -zeta only

theorem State.ptpIn_ok {pcs : Piece → Prop} {b0 : State} (s : State) (e : Nat) (x : PtpIn) (act : State → State)
    (hok : Ok pcs b0 s) (h_act : ∀ s, Ok pcs b0 s → Ok pcs b0 (act s)) (hp0 : pcs .free := by assumption)
    (hp1 : pcs .regs := by assumption) (hp2 : pcs .mem := by assumption) (hp3 : pcs .col := by assumption)
    (hp4 : pcs .firn := by assumption) (hp5 : pcs .rings := by assumption) (hp6 : pcs .irq := by assumption)
    (hp7 : pcs .mor := by assumption) (hp8 : pcs .poison := by assumption) :
    Ok pcs b0 (State.ptpIn s e x act) := by
  delta State.ptpIn
  repeat' first
    | with_reducible assumption | extract_lets | intro _ | with_reducible apply State.act_ok
    | with_reducible apply State.takeIn_ok | with_reducible apply State.takeIn_ok'
    | with_reducible apply State.enqueue_ok | with_reducible apply State.admissionRecs_ok
    | with_reducible apply ethDropRec_ok | with_reducible apply h_act
    | (refine ok2_eq (by with_reducible assumption) ?_) | split | dsimp +zetaDelta -zeta only

theorem execDelayReqRx_ok {pcs : Piece → Prop} {b0 : State} (e : PortId) (src : Nat) (x : PtpIn) (ingress : Nat)
    (s : State) (hok : Ok pcs b0 s) (hp0 : pcs .free := by assumption) (hp1 : pcs .regs := by assumption)
    (hp2 : pcs .mem := by assumption) (hp3 : pcs .tx := by assumption) (hp4 : pcs .col := by assumption)
    (hp5 : pcs .firn := by assumption) (hp6 : pcs .rings := by assumption) (hp7 : pcs .irq := by assumption)
    (hp8 : pcs .mor := by assumption) (hp9 : pcs .stack := by assumption) (hp10 : pcs .poison := by assumption) :
    OkO pcs b0 (execDelayReqRx e src x ingress s) := by
  delta execDelayReqRx
  repeat' first
    | with_reducible assumption | extract_lets | intro _ | with_reducible apply okO_next
    | with_reducible apply okO_ite | with_reducible apply ok_ite | with_reducible apply State.ptpIn_ok
    | with_reducible apply State.ptpMsg_ok | with_reducible apply State.ptpMsg_ok'
    | with_reducible apply State.seSend_ok | (refine ok2_eq (by with_reducible assumption) ?_) | split
    | dsimp +zetaDelta -zeta only

theorem execSyncRx_ok {pcs : Piece → Prop} {b0 : State} (e : PortId) (x : PtpIn) (ingress : Nat) (s : State)
    (hok : Ok pcs b0 s) (hp0 : pcs .free := by assumption) (hp1 : pcs .regs := by assumption)
    (hp2 : pcs .mem := by assumption) (hp3 : pcs .tx := by assumption) (hp4 : pcs .col := by assumption)
    (hp5 : pcs .firn := by assumption) (hp6 : pcs .rings := by assumption) (hp7 : pcs .irq := by assumption)
    (hp8 : pcs .mor := by assumption) (hp9 : pcs .stack := by assumption) (hp10 : pcs .poison := by assumption) :
    OkO pcs b0 (execSyncRx e x ingress s) := by
  delta execSyncRx
  repeat' first
    | with_reducible assumption | extract_lets | intro _ | with_reducible apply okO_next
    | with_reducible apply okO_ite | with_reducible apply ok_ite | with_reducible apply State.ptpIn_ok
    | with_reducible apply State.modStack_ok | with_reducible apply State.ptpMsg_ok
    | with_reducible apply State.ptpMsg_ok' | with_reducible apply State.seSend_ok
    | (refine ok2_eq (by with_reducible assumption) ?_) | split | dsimp +zetaDelta -zeta only

theorem State.servoRate_ok {pcs : Piece → Prop} {b0 : State} (s : State) (hok : Ok pcs b0 s)
    (hp0 : pcs .free := by assumption) (hp1 : pcs .regs := by assumption) :
    Ok pcs b0 (State.servoRate s) := by
  delta State.servoRate
  repeat' first
    | with_reducible assumption | extract_lets | intro _ | with_reducible apply State.drawWord_ok
    | with_reducible apply State.drawWord_ok' | with_reducible apply State.setF_ok
    | (refine ok2_eq (by with_reducible assumption) ?_) | split | dsimp +zetaDelta -zeta only

theorem State.servo_ok {pcs : Piece → Prop} {b0 : State} (s : State) (o : Int) (hok : Ok pcs b0 s)
    (hp0 : pcs .free := by assumption) (hp1 : pcs .time := by assumption) (hp2 : pcs .regs := by assumption)
    (hp3 : pcs .irq := by assumption) (hp4 : pcs .stack := by assumption) :
    Ok pcs b0 (State.servo s o) := by
  delta State.servo
  repeat' first
    | with_reducible assumption | extract_lets | intro _ | with_reducible apply ok_ite
    | with_reducible apply State.modStack_ok | with_reducible apply State.setB_ok
    | with_reducible apply State.servoRate_ok | with_reducible apply State.slewWrite_ok
    | with_reducible apply State.judgeStep_ok | with_reducible apply State.judgeStep_ok'
    | (refine ok1_eq (by with_reducible assumption) ?_) | split | dsimp +zetaDelta -zeta only

theorem execFollowUpRx_ok {pcs : Piece → Prop} {b0 : State} (e : PortId) (x : PtpIn) (origin : Nat) (corr : Int)
    (s : State) (hok : Ok pcs b0 s) (hp0 : pcs .free := by assumption) (hp1 : pcs .time := by assumption)
    (hp2 : pcs .regs := by assumption) (hp3 : pcs .mem := by assumption) (hp4 : pcs .col := by assumption)
    (hp5 : pcs .firn := by assumption) (hp6 : pcs .rings := by assumption) (hp7 : pcs .irq := by assumption)
    (hp8 : pcs .mor := by assumption) (hp9 : pcs .stack := by assumption) (hp10 : pcs .poison := by assumption) :
    OkO pcs b0 (execFollowUpRx e x origin corr s) := by
  delta execFollowUpRx
  repeat' first
    | with_reducible assumption | extract_lets | intro _ | with_reducible apply okO_next
    | with_reducible apply okO_ite | with_reducible apply ok_ite | with_reducible apply State.ptpIn_ok
    | with_reducible apply State.modStack_ok | with_reducible apply State.servo_ok | split
    | dsimp +zetaDelta -zeta only

theorem execDelayRespRx_ok {pcs : Piece → Prop} {b0 : State} (e : PortId) (x : PtpIn) (recv : Nat) (s : State)
    (hok : Ok pcs b0 s) (hp0 : pcs .free := by assumption) (hp1 : pcs .regs := by assumption)
    (hp2 : pcs .mem := by assumption) (hp3 : pcs .col := by assumption) (hp4 : pcs .firn := by assumption)
    (hp5 : pcs .rings := by assumption) (hp6 : pcs .irq := by assumption) (hp7 : pcs .mor := by assumption)
    (hp8 : pcs .stack := by assumption) (hp9 : pcs .poison := by assumption) :
    OkO pcs b0 (execDelayRespRx e x recv s) := by
  delta execDelayRespRx
  repeat' first
    | with_reducible assumption | extract_lets | intro _ | with_reducible apply okO_next
    | with_reducible apply okO_ite | with_reducible apply ok_ite | with_reducible apply State.ptpIn_ok
    | with_reducible apply State.modStack_ok | split | dsimp +zetaDelta -zeta only
end Sys2Proof.Machine
end

