-- ==== Sys2Proof/Laws/OkPower.lean ====
section
/-! SUPPORT. Power modes: every operation of Machine/Power.lean keeps the queue and a sane state, and changes no
piece but the ones it names. -/
namespace Sys2Proof.Machine
set_option Elab.async false

theorem State.noteTj_ok {pcs : Piece → Prop} {b0 : State} (s : State) (tj : BitVec 9) (hok : Ok pcs b0 s)
    (hp0 : pcs .regs := by assumption) (hp1 : pcs .power := by assumption) :
    Ok pcs b0 (State.noteTj s tj) := by
  delta State.noteTj
  repeat' first
    | with_reducible assumption | extract_lets | intro _ | with_reducible apply ok_ite
    | with_reducible apply State.setF_ok | with_reducible apply State.withPower_ok | split
    | dsimp +zetaDelta -zeta only

theorem State.moveStart_ok {pcs : Piece → Prop} {b0 : State} (s : State) (m : Move) (mode : Nat) (hok : Ok pcs b0 s)
    (hp0 : pcs .regs := by assumption) (hp1 : pcs .power := by assumption) :
    Ok pcs b0 (State.moveStart s m mode) := by
  delta State.moveStart
  repeat' first
    | with_reducible assumption | extract_lets | intro _ | with_reducible apply State.sendVolt_ok
    | with_reducible apply State.setB_ok | with_reducible apply State.withPower_ok | split
    | dsimp +zetaDelta -zeta only

theorem State.moveEnd_ok {pcs : Piece → Prop} {b0 : State} (s : State) (hok : Ok pcs b0 s)
    (hp0 : pcs .regs := by assumption) (hp1 : pcs .power := by assumption) :
    Ok pcs b0 (State.moveEnd s) := by
  delta State.moveEnd
  repeat' first
    | with_reducible assumption | extract_lets | intro _ | with_reducible apply State.withPower_ok
    | with_reducible apply State.setB_ok | split | dsimp +zetaDelta -zeta only

theorem State.adminRefuse?_ok {pcs : Piece → Prop} {b0 : State} (s : State) (r : Option AdminRef) (c : Cause)
    (hok : Ok pcs b0 s) (hp0 : pcs .host := by assumption) (hp1 : pcs .rings := by assumption)
    (hp2 : pcs .irq := by assumption) :
    Ok pcs b0 (State.adminRefuse? s r c) := by
  delta State.adminRefuse?
  repeat' first
    | with_reducible assumption | extract_lets | intro _ | with_reducible apply State.adminRefuse_ok | split
    | dsimp +zetaDelta -zeta only

theorem execPowerMode_ok {pcs : Piece → Prop} {b0 : State} (f : Fn) (d : Words8) (s : State) (hok : Ok pcs b0 s)
    (hp0 : pcs .regs := by assumption) (hp1 : pcs .host := by assumption) (hp2 : pcs .rings := by assumption)
    (hp3 : pcs .irq := by assumption) (hp4 : pcs .power := by assumption) :
    OkO pcs b0 (execPowerMode f d s) := by
  delta execPowerMode
  repeat' first
    | with_reducible assumption | extract_lets | intro _ | with_reducible apply okO_next
    | with_reducible apply okO_ite | with_reducible apply ok_ite | with_reducible apply adminCmd_ok
    | with_reducible apply adminCmd_ok' | with_reducible apply State.adminRefuse_ok
    | with_reducible apply State.clamp_ok | with_reducible apply State.adminDone_ok
    | with_reducible apply State.adminBusy_ok | with_reducible apply State.moveStart_ok | split
    | dsimp +zetaDelta -zeta only

theorem execPowerModeSettleEnd_ok {pcs : Piece → Prop} {b0 : State} (s : State) (hok : Ok pcs b0 s)
    (hp0 : pcs .regs := by assumption) (hp1 : pcs .host := by assumption) (hp2 : pcs .rings := by assumption)
    (hp3 : pcs .irq := by assumption) (hp4 : pcs .power := by assumption) :
    OkO pcs b0 (execPowerModeSettleEnd s) := by
  delta execPowerModeSettleEnd
  repeat' first
    | with_reducible assumption | extract_lets | intro _ | with_reducible apply okO_next
    | with_reducible apply okO_ite | with_reducible apply ok_ite | with_reducible apply State.moveEnd_ok
    | with_reducible apply State.adminRefuse?_ok | with_reducible apply State.adminRefuse_ok
    | with_reducible apply State.setF_ok | with_reducible apply State.setB_ok | with_reducible apply State.raise_ok
    | with_reducible apply State.clamp_ok | with_reducible apply State.adminDone_ok | split
    | dsimp +zetaDelta -zeta only

theorem State.moveFault_ok {pcs : Piece → Prop} {b0 : State} (s : State) (m : Move) (hok : Ok pcs b0 s)
    (hp0 : pcs .regs := by assumption) (hp1 : pcs .host := by assumption) (hp2 : pcs .rings := by assumption)
    (hp3 : pcs .irq := by assumption) (hp4 : pcs .power := by assumption) :
    Ok pcs b0 (State.moveFault s m) := by
  delta State.moveFault
  repeat' first
    | with_reducible assumption | extract_lets | intro _ | with_reducible apply State.moveEnd_ok
    | with_reducible apply State.setB_ok | with_reducible apply State.raise_ok
    | with_reducible apply State.sendVolt_ok | with_reducible apply State.adminRefuse?_ok
    | with_reducible apply State.adminRefuse_ok | split | dsimp +zetaDelta -zeta only

theorem execPmbusWriteNack_ok {pcs : Piece → Prop} {b0 : State} (s : State) (hok : Ok pcs b0 s)
    (hp0 : pcs .regs := by assumption) (hp1 : pcs .host := by assumption) (hp2 : pcs .rings := by assumption)
    (hp3 : pcs .irq := by assumption) (hp4 : pcs .power := by assumption) :
    OkO pcs b0 (execPmbusWriteNack s) := by
  delta execPmbusWriteNack
  repeat' first
    | with_reducible assumption | extract_lets | intro _ | with_reducible apply okO_next
    | with_reducible apply okO_ite | with_reducible apply ok_ite | with_reducible apply State.withPower_ok
    | with_reducible apply State.moveFault_ok | split | dsimp +zetaDelta -zeta only

theorem execPwrGoodFallDuringMove_ok {pcs : Piece → Prop} {b0 : State} (s : State) (hok : Ok pcs b0 s)
    (hp0 : pcs .regs := by assumption) (hp1 : pcs .host := by assumption) (hp2 : pcs .rings := by assumption)
    (hp3 : pcs .irq := by assumption) (hp4 : pcs .snow := by assumption) (hp5 : pcs .power := by assumption) :
    OkO pcs b0 (execPwrGoodFallDuringMove s) := by
  delta execPwrGoodFallDuringMove
  repeat' first
    | with_reducible assumption | extract_lets | intro _ | with_reducible apply okO_next
    | with_reducible apply okO_ite | with_reducible apply State.moveFault_ok
    | with_reducible apply State.setLevel_ok | split | dsimp +zetaDelta -zeta only

theorem execThermalStepDown_ok {pcs : Piece → Prop} {b0 : State} (tj : BitVec 9) (s : State) (hok : Ok pcs b0 s)
    (hp0 : pcs .regs := by assumption) (hp1 : pcs .power := by assumption) :
    OkO pcs b0 (execThermalStepDown tj s) := by
  delta execThermalStepDown
  repeat' first
    | with_reducible assumption | extract_lets | intro _ | with_reducible apply okO_next
    | with_reducible apply okO_ite | with_reducible apply ok_ite | with_reducible apply State.noteTj_ok
    | with_reducible apply State.moveStart_ok | with_reducible apply State.withPower_ok | split
    | dsimp +zetaDelta -zeta only

theorem execTjAlarmCross_ok {pcs : Piece → Prop} {b0 : State} (tj : BitVec 9) (s : State) (hok : Ok pcs b0 s)
    (hp0 : pcs .regs := by assumption) (hp1 : pcs .irq := by assumption) (hp2 : pcs .power := by assumption) :
    OkO pcs b0 (execTjAlarmCross tj s) := by
  delta execTjAlarmCross
  repeat' first
    | with_reducible assumption | extract_lets | intro _ | with_reducible apply okO_next
    | with_reducible apply okO_ite | with_reducible apply ok_ite | with_reducible apply State.noteTj_ok
    | with_reducible apply State.withPower_ok | with_reducible apply State.raise_ok | split
    | dsimp +zetaDelta -zeta only

theorem execTjAlarmRearm_ok {pcs : Piece → Prop} {b0 : State} (tj : BitVec 9) (s : State) (hok : Ok pcs b0 s)
    (hp0 : pcs .regs := by assumption) (hp1 : pcs .power := by assumption) :
    OkO pcs b0 (execTjAlarmRearm tj s) := by
  delta execTjAlarmRearm
  repeat' first
    | with_reducible assumption | extract_lets | intro _ | with_reducible apply okO_next
    | with_reducible apply okO_ite | with_reducible apply ok_ite | with_reducible apply State.noteTj_ok
    | with_reducible apply State.withPower_ok | split | dsimp +zetaDelta -zeta only
end Sys2Proof.Machine
end

