-- ==== Sys2Proof/Laws/OkSnow.lean ====
section
/-! SUPPORT. Snowline: every operation of Machine/Snow.lean keeps the queue and a sane state, and changes no
piece but the ones it names. -/
namespace Sys2Proof.Machine
set_option Elab.async false

theorem State.modSnow_ok {pcs : Piece → Prop} {b0 : State} (s : State) (g : Snow → Snow) (hok : Ok pcs b0 s)
    (hp0 : pcs .snow := by assumption) :
    Ok pcs b0 (State.modSnow s g) := by
  delta State.modSnow
  repeat' first
    | with_reducible assumption | extract_lets | intro _ | with_reducible apply State.withSnow_ok | split
    | dsimp +zetaDelta -zeta only

theorem State.wakeCause_ok {pcs : Piece → Prop} {b0 : State} (s : State) (bit : Nat) (hok : Ok pcs b0 s)
    (hp0 : pcs .regs := by assumption) (hp1 : pcs .snow := by assumption) :
    Ok pcs b0 (State.wakeCause s bit) := by
  delta State.wakeCause
  repeat' first
    | with_reducible assumption | extract_lets | intro _ | with_reducible apply ok_ite
    | with_reducible apply State.setF_ok | with_reducible apply State.modSnow_ok
    | with_reducible apply State.setReg_ok | split | dsimp +zetaDelta -zeta only

theorem State.powerEnable_ok {pcs : Piece → Prop} {b0 : State} (s : State) (hok : Ok pcs b0 s)
    (hp0 : pcs .snow := by assumption) :
    Ok pcs b0 (State.powerEnable s) := by
  delta State.powerEnable
  repeat' first
    | with_reducible assumption | extract_lets | intro _ | with_reducible apply State.modSnow_ok | split
    | dsimp +zetaDelta -zeta only

theorem State.wake_ok {pcs : Piece → Prop} {b0 : State} (s : State) (hok : Ok pcs b0 s)
    (hp0 : pcs .snow := by assumption) :
    Ok pcs b0 (State.wake s) := by
  delta State.wake
  repeat' first
    | with_reducible assumption | extract_lets | intro _ | with_reducible apply State.modSnow_ok
    | with_reducible apply State.powerEnable_ok | split | dsimp +zetaDelta -zeta only

theorem State.watched_ok {pcs : Piece → Prop} {b0 : State} (s : State) (bit : Nat) (hok : Ok pcs b0 s)
    (hp0 : pcs .regs := by assumption) (hp1 : pcs .snow := by assumption) :
    Ok pcs b0 (State.watched s bit) := by
  delta State.watched
  repeat' first
    | with_reducible assumption | extract_lets | intro _ | with_reducible apply State.wakeCause_ok
    | with_reducible apply State.wake_ok | split | dsimp +zetaDelta -zeta only

theorem State.watchedPin_ok {pcs : Piece → Prop} {b0 : State} (s : State) (en : Bool) (bit : Nat) (src : Nat)
    (hok : Ok pcs b0 s) (hp0 : pcs .regs := by assumption) (hp1 : pcs .irq := by assumption)
    (hp2 : pcs .snow := by assumption) :
    Ok pcs b0 (State.watchedPin s en bit src) := by
  delta State.watchedPin
  repeat' first
    | with_reducible assumption | extract_lets | intro _ | with_reducible apply ok_ite
    | with_reducible apply State.watched_ok | with_reducible apply State.wakeCause_ok
    | with_reducible apply State.raiseIf_ok | with_reducible apply State.wake_ok | split
    | dsimp +zetaDelta -zeta only

theorem State.laneWake_ok {pcs : Piece → Prop} {b0 : State} (s : State) (n : Nat) (code : Nat) (hok : Ok pcs b0 s)
    (hp0 : pcs .regs := by assumption) (hp1 : pcs .snow := by assumption) :
    Ok pcs b0 (State.laneWake s n code) := by
  delta State.laneWake
  repeat' first
    | with_reducible assumption | extract_lets | intro _ | with_reducible apply ok_ite
    | with_reducible apply State.setF_ok | with_reducible apply State.modSnow_ok
    | with_reducible apply State.watched_ok | split | dsimp +zetaDelta -zeta only

theorem execWupDetected_ok {pcs : Piece → Prop} {b0 : State} (n : Fin 16) (s : State) (hok : Ok pcs b0 s)
    (hp0 : pcs .regs := by assumption) (hp1 : pcs .snow := by assumption) :
    OkO pcs b0 (execWupDetected n s) := by
  delta execWupDetected
  repeat' first
    | with_reducible assumption | extract_lets | intro _ | with_reducible apply okO_next
    | with_reducible apply okO_ite | with_reducible apply ok_ite | with_reducible apply State.laneWake_ok | split
    | dsimp +zetaDelta -zeta only

theorem State.setFrameErr_ok {pcs : Piece → Prop} {b0 : State} (s : State) (n : Nat) (v : Nat) (hok : Ok pcs b0 s)
    (hp0 : pcs .snow := by assumption) :
    Ok pcs b0 (State.setFrameErr s n v) := by
  delta State.setFrameErr
  repeat' first
    | with_reducible assumption | extract_lets | intro _ | with_reducible apply State.modSnow_ok | split
    | dsimp +zetaDelta -zeta only

theorem State.swError_ok {pcs : Piece → Prop} {b0 : State} (s : State) (n : Nat) (hok : Ok pcs b0 s)
    (hp0 : pcs .regs := by assumption) (hp1 : pcs .snow := by assumption) :
    Ok pcs b0 (State.swError s n) := by
  delta State.swError
  repeat' first
    | with_reducible assumption | extract_lets | intro _ | with_reducible apply ok_ite
    | with_reducible apply State.setFrameErr_ok | with_reducible apply State.laneWake_ok | split
    | dsimp +zetaDelta -zeta only

theorem execSwFrameEnd_ok {pcs : Piece → Prop} {b0 : State} (n : Fin 16) (fr : Frame) (good : Bool) (s : State)
    (hok : Ok pcs b0 s) (hp0 : pcs .regs := by assumption) (hp1 : pcs .snow := by assumption) :
    OkO pcs b0 (execSwFrameEnd n fr good s) := by
  delta execSwFrameEnd
  repeat' first
    | with_reducible assumption | extract_lets | intro _ | with_reducible apply okO_next
    | with_reducible apply okO_ite | with_reducible apply ok_ite | with_reducible apply State.swError_ok
    | with_reducible apply State.setFrameErr_ok | with_reducible apply State.laneWake_ok | split
    | dsimp +zetaDelta -zeta only

theorem execWakePin_ok {pcs : Piece → Prop} {b0 : State} (i : Fin 2) (s : State) (hok : Ok pcs b0 s)
    (hp0 : pcs .regs := by assumption) (hp1 : pcs .irq := by assumption) (hp2 : pcs .snow := by assumption) :
    OkO pcs b0 (execWakePin i s) := by
  delta execWakePin
  repeat' first
    | with_reducible assumption | extract_lets | intro _ | with_reducible apply okO_next
    | with_reducible apply okO_ite | with_reducible apply ok_ite | with_reducible apply State.watchedPin_ok
    | with_reducible apply State.setLevel_ok | split | dsimp +zetaDelta -zeta only

theorem execGpioWake_ok {pcs : Piece → Prop} {b0 : State} (i : Fin 4) (s : State) (hok : Ok pcs b0 s)
    (hp0 : pcs .regs := by assumption) (hp1 : pcs .irq := by assumption) (hp2 : pcs .snow := by assumption) :
    OkO pcs b0 (execGpioWake i s) := by
  delta execGpioWake
  repeat' first
    | with_reducible assumption | extract_lets | intro _ | with_reducible apply okO_next
    | with_reducible apply okO_ite | with_reducible apply State.watchedPin_ok
    | with_reducible apply State.setLevel_ok | split | dsimp +zetaDelta -zeta only

theorem execPerstWake_ok {pcs : Piece → Prop} {b0 : State} (f : Fn) (deassert : Bool) (s : State)
    (hok : Ok pcs b0 s) (hp0 : pcs .regs := by assumption) (hp1 : pcs .snow := by assumption) :
    OkO pcs b0 (execPerstWake f deassert s) := by
  delta execPerstWake
  repeat' first
    | with_reducible assumption | extract_lets | intro _ | with_reducible apply okO_next
    | with_reducible apply okO_ite | with_reducible apply ok_ite | with_reducible apply State.watched_ok | split
    | dsimp +zetaDelta -zeta only

theorem execRtcAlarm_ok {pcs : Piece → Prop} {b0 : State} (s : State) (hok : Ok pcs b0 s)
    (hp0 : pcs .regs := by assumption) (hp1 : pcs .irq := by assumption) (hp2 : pcs .snow := by assumption) :
    OkO pcs b0 (execRtcAlarm s) := by
  delta execRtcAlarm
  repeat' first
    | with_reducible assumption | extract_lets | intro _ | with_reducible apply okO_next
    | with_reducible apply okO_ite | with_reducible apply ok_ite | with_reducible apply State.modSnow_ok
    | with_reducible apply State.watchedPin_ok | split | dsimp +zetaDelta -zeta only

theorem execBlockStartSnowline_ok {pcs : Piece → Prop} {b0 : State} (f : Fn) (d : Words8) (s : State)
    (hok : Ok pcs b0 s) (hp0 : pcs .regs := by assumption) (hp1 : pcs .host := by assumption)
    (hp2 : pcs .rings := by assumption) (hp3 : pcs .irq := by assumption) :
    OkO pcs b0 (execBlockStartSnowline f d s) := by
  delta execBlockStartSnowline
  repeat' first
    | with_reducible assumption | extract_lets | intro _ | with_reducible apply okO_next
    | with_reducible apply okO_ite | with_reducible apply blockCmd_ok | with_reducible apply blockCmd_ok'
    | with_reducible apply State.setB_ok | with_reducible apply State.adminDone_ok | split
    | dsimp +zetaDelta -zeta only

theorem execBlockStopSnowline_ok {pcs : Piece → Prop} {b0 : State} (f : Fn) (d : Words8) (s : State)
    (hok : Ok pcs b0 s) (hp0 : pcs .regs := by assumption) (hp1 : pcs .host := by assumption)
    (hp2 : pcs .rings := by assumption) (hp3 : pcs .irq := by assumption) :
    OkO pcs b0 (execBlockStopSnowline f d s) := by
  delta execBlockStopSnowline
  repeat' first
    | with_reducible assumption | extract_lets | intro _ | with_reducible apply okO_next
    | with_reducible apply okO_ite | with_reducible apply blockCmd_ok | with_reducible apply blockCmd_ok'
    | with_reducible apply State.setB_ok | with_reducible apply State.adminDone_ok | split
    | dsimp +zetaDelta -zeta only

theorem execPwrGoodRise_ok {pcs : Piece → Prop} {b0 : State} (s : State) (hok : Ok pcs b0 s)
    (hp0 : pcs .snow := by assumption) :
    OkO pcs b0 (execPwrGoodRise s) := by
  delta execPwrGoodRise
  repeat' first
    | with_reducible assumption | extract_lets | intro _ | with_reducible apply okO_next
    | with_reducible apply okO_ite | with_reducible apply ok_ite | with_reducible apply State.setLevel_ok
    | with_reducible apply State.modSnow_ok | split | dsimp +zetaDelta -zeta only

theorem State.powerDisable_ok {pcs : Piece → Prop} {b0 : State} (s : State) (hok : Ok pcs b0 s)
    (hp0 : pcs .snow := by assumption) :
    Ok pcs b0 (State.powerDisable s) := by
  delta State.powerDisable
  repeat' first
    | with_reducible assumption | extract_lets | intro _ | with_reducible apply State.modSnow_ok | split
    | dsimp +zetaDelta -zeta only

theorem execPgTimeout_ok {pcs : Piece → Prop} {b0 : State} (s : State) (hok : Ok pcs b0 s)
    (hp0 : pcs .regs := by assumption) (hp1 : pcs .snow := by assumption) :
    OkO pcs b0 (execPgTimeout s) := by
  delta execPgTimeout
  repeat' first
    | with_reducible assumption | extract_lets | intro _ | with_reducible apply okO_next
    | with_reducible apply okO_ite | with_reducible apply ok_ite | with_reducible apply State.setB_ok
    | with_reducible apply State.satAdd_ok | with_reducible apply State.powerDisable_ok
    | with_reducible apply State.setLevel_ok | split | dsimp +zetaDelta -zeta only

theorem execPwrEnNHoldEnd_ok {pcs : Piece → Prop} {b0 : State} (s : State) (hok : Ok pcs b0 s)
    (hp0 : pcs .snow := by assumption) :
    OkO pcs b0 (execPwrEnNHoldEnd s) := by
  delta execPwrEnNHoldEnd
  repeat' first
    | with_reducible assumption | extract_lets | intro _ | with_reducible apply okO_next
    | with_reducible apply okO_ite | with_reducible apply ok_ite | with_reducible apply State.powerEnable_ok
    | with_reducible apply State.modSnow_ok | split | dsimp +zetaDelta -zeta only

theorem execResetDelayEnd_ok {pcs : Piece → Prop} {b0 : State} (s : State) (hok : Ok pcs b0 s)
    (hp0 : pcs .regs := by assumption) (hp1 : pcs .snow := by assumption) (hp2 : pcs .boot := by assumption) :
    OkO pcs b0 (execResetDelayEnd s) := by
  delta execResetDelayEnd
  repeat' first
    | with_reducible assumption | extract_lets | intro _ | with_reducible apply okO_next
    | with_reducible apply okO_ite | with_reducible apply ok_ite | with_reducible apply State.setB_ok
    | with_reducible apply State.withBoot_ok | with_reducible apply State.modSnow_ok | split
    | dsimp +zetaDelta -zeta only

theorem execVaonPowerUp_ok {pcs : Piece → Prop} {b0 : State} (s : State) (hok : Ok pcs b0 s)
    (hp0 : pcs .time := by assumption) (hp1 : pcs .regs := by assumption) (hp2 : pcs .mem := by assumption)
    (hp3 : pcs .lanes := by assumption) (hp4 : pcs .pins := by assumption) (hp5 : pcs .tx := by assumption)
    (hp6 : pcs .objs := by assumption) (hp7 : pcs .filters := by assumption) (hp8 : pcs .routes := by assumption)
    (hp9 : pcs .col := by assumption) (hp10 : pcs .firn := by assumption) (hp11 : pcs .rings := by assumption)
    (hp12 : pcs .irq := by assumption) (hp13 : pcs .mor := by assumption) (hp14 : pcs .stack := by assumption)
    (hp15 : pcs .eths := by assumption) (hp16 : pcs .snow := by assumption) (hp17 : pcs .power := by assumption)
    (hp18 : pcs .boot := by assumption) (hp19 : pcs .poison := by assumption) (hp20 : pcs .engs := by assumption) :
    OkO pcs b0 (execVaonPowerUp s) :=
  okO_next (State.powerEnable_ok _ ⟨hok.pending, sane_fresh (by constructor <;> rfl) rfl rfl,
    fun k hk => by cases k <;> first | exact hok.frame _ hk | exact absurd ‹_› hk⟩)
end Sys2Proof.Machine
end

