-- ==== Sys2Proof/Laws/OkBoot.lean ====
section
/-! SUPPORT. Boot and reset: every operation of Machine/Boot.lean keeps the queue and a sane state, and changes no
piece but the ones it names. -/
namespace Sys2Proof.Machine
set_option Elab.async false

theorem State.segCopy_ok {pcs : Piece → Prop} {b0 : State} (s : State) (img : List Byte) (pe : Nat) (x : Segment)
    (hok : Ok pcs b0 s) (hp0 : pcs .mem := by assumption) (hp1 : pcs .poison := by assumption) :
    Ok pcs b0 (State.segCopy s img pe x) := by
  delta State.segCopy
  repeat' first
    | with_reducible assumption | extract_lets | intro _ | with_reducible apply ok_ite
    | with_reducible apply State.wrBytes_ok | with_reducible apply State.healRun_ok | with_reducible apply ok_foldl
    | with_reducible apply ok2_foldl | with_reducible apply ok_foldl2 | with_reducible apply ok_ite2
    | with_reducible apply ok1_foldl | with_reducible apply ok_foldl1 | with_reducible apply ok_ite1 | split
    | dsimp +zetaDelta -zeta only

theorem State.imgCopy_ok {pcs : Piece → Prop} {b0 : State} (s : State) (img : List Byte) (hok : Ok pcs b0 s)
    (hp0 : pcs .mem := by assumption) (hp1 : pcs .poison := by assumption) :
    Ok pcs b0 (State.imgCopy s img) := by
  delta State.imgCopy
  repeat' first
    | with_reducible assumption | extract_lets | intro _ | with_reducible apply State.segCopy_ok
    | with_reducible apply ok_foldl | with_reducible apply ok2_foldl | with_reducible apply ok_foldl2
    | with_reducible apply ok_ite2 | with_reducible apply ok1_foldl | with_reducible apply ok_foldl1
    | with_reducible apply ok_ite1 | split | dsimp +zetaDelta -zeta only

theorem State.engineReset_ok {pcs : Piece → Prop} {b0 : State} (s : State) (e : Nat) (hok : Ok pcs b0 s)
    (hp0 : pcs .free := by assumption) (hp1 : pcs .regs := by assumption) (hp2 : pcs .mem := by assumption)
    (hp3 : pcs .objs := by assumption) (hp4 : pcs .col := by assumption) (hp5 : pcs .firn := by assumption)
    (hp6 : pcs .rings := by assumption) (hp7 : pcs .irq := by assumption) (hp8 : pcs .mor := by assumption)
    (hp9 : pcs .stack := by assumption) (hp10 : pcs .poison := by assumption) (hp11 : pcs .engs := by assumption) :
    Ok pcs b0 (State.engineReset s e) :=
  State.resetRegs_ok _ _ (State.setEng_ok _ _ _ (State.withPoison_ok _ _ (State.withMem_ok _ _ (State.hookDrop_ok _ _ hok)
    (Tab.wf_filter _ _ _ (State.hookDrop_ok _ _ hok).sane.canon.mem)))
    (⟨Nat.zero_le _, Nat.zero_le _, fun _ h => by cases h⟩ : ({} : Eng).Fits))

theorem State.engineStart_ok {pcs : Piece → Prop} {b0 : State} (s : State) (e : Nat) (hok : Ok pcs b0 s)
    (hp0 : pcs .regs := by assumption) (hp1 : pcs .boot := by assumption) (hp2 : pcs .engs := by assumption) :
    Ok pcs b0 (State.engineStart s e) := by
  have h := State.modEng_ok s e (fun x => { x with stopped := false, hook := if e < 32 then s.rd32 (engBase e + 0x4000) else 0, home := true,
                                                   waiting := true, ie := true, il := 0 }) hok fun _ h => by exact h.of rfl rfl
  exact State.withBoot_ok _ _ (ok_ite (State.setF_ok _ _ _ (State.setF_ok _ _ _ h)) h)

theorem State.pinLoad_ok {pcs : Piece → Prop} {b0 : State} (s : State) (l : Nat) (hok : Ok pcs b0 s)
    (hp0 : pcs .free := by assumption) (hp1 : pcs .regs := by assumption) :
    Ok pcs b0 (State.pinLoad s l) :=
  State.setF_ok _ _ _ (State.setF_ok _ _ _ (State.drawWord_ok' _ (ok_foldl (fun _ _ h => State.setReg_ok _ _ _ (State.drawWord_ok' _ h)) hok)))

theorem State.quadPinLoad_ok {pcs : Piece → Prop} {b0 : State} (s : State) (q : Nat) (hok : Ok pcs b0 s)
    (hp0 : pcs .free := by assumption) (hp1 : pcs .regs := by assumption) :
    Ok pcs b0 (State.quadPinLoad s q) := by
  delta State.quadPinLoad
  repeat' first
    | with_reducible assumption | extract_lets | intro _ | with_reducible apply State.pinLoad_ok
    | with_reducible apply ok_foldl | with_reducible apply ok2_foldl | with_reducible apply ok_foldl2
    | with_reducible apply ok_ite2 | with_reducible apply ok1_foldl | with_reducible apply ok_foldl1
    | with_reducible apply ok_ite1 | split | dsimp +zetaDelta -zeta only

theorem execMainResetRelease_ok {pcs : Piece → Prop} {b0 : State} (p : Straps) (s : State) (hok : Ok pcs b0 s)
    (hp0 : pcs .regs := by assumption) (hp1 : pcs .rings := by assumption) (hp2 : pcs .power := by assumption)
    (hp3 : pcs .boot := by assumption) :
    OkO pcs b0 (execMainResetRelease p s) := by
  delta execMainResetRelease
  repeat' first
    | with_reducible assumption | extract_lets | intro _ | with_reducible apply okO_next
    | with_reducible apply okO_ite | with_reducible apply ok_ite | with_reducible apply State.modBoot_ok
    | with_reducible apply State.setF_ok | with_reducible apply State.setReg_ok
    | with_reducible apply State.withPower_ok | with_reducible apply State.modFunc_ok | split
    | dsimp +zetaDelta -zeta only

theorem State.bootLenWrite_ok {pcs : Piece → Prop} {b0 : State} (s : State) (f : Nat) (v : Word) (hok : Ok pcs b0 s)
    (hp0 : pcs .regs := by assumption) :
    Ok pcs b0 (State.bootLenWrite s f v) := by
  delta State.bootLenWrite
  repeat' first
    | with_reducible assumption | extract_lets | intro _ | with_reducible apply ok_ite
    | with_reducible apply State.clamp_ok | with_reducible apply State.setF_ok | split
    | dsimp +zetaDelta -zeta only

theorem execBootMailboxGo_ok {pcs : Piece → Prop} {b0 : State} (f : Fn) (v : Word) (s : State) (hok : Ok pcs b0 s)
    (hp0 : pcs .regs := by assumption) :
    OkO pcs b0 (execBootMailboxGo f v s) := by
  delta execBootMailboxGo
  repeat' first
    | with_reducible assumption | extract_lets | intro _ | with_reducible apply okO_next
    | with_reducible apply okO_ite | with_reducible apply ok_ite | with_reducible apply State.bootLenWrite_ok
    | split | dsimp +zetaDelta -zeta only

theorem State.bootFallback_ok {pcs : Piece → Prop} {b0 : State} (s : State) (hok : Ok pcs b0 s)
    (hp0 : pcs .regs := by assumption) (hp1 : pcs .boot := by assumption) :
    Ok pcs b0 (State.bootFallback s) := by
  delta State.bootFallback
  repeat' first
    | with_reducible assumption | extract_lets | intro _ | with_reducible apply ok_ite
    | with_reducible apply State.setF_ok | with_reducible apply State.modBoot_ok | split
    | dsimp +zetaDelta -zeta only

theorem State.bootSuccess_ok {pcs : Piece → Prop} {b0 : State} (s : State) (img : List Byte) (hok : Ok pcs b0 s)
    (hp0 : pcs .regs := by assumption) (hp1 : pcs .boot := by assumption) (hp2 : pcs .engs := by assumption) :
    Ok pcs b0 (State.bootSuccess s img) := by
  delta State.bootSuccess
  repeat' first
    | with_reducible assumption | extract_lets | intro _ | with_reducible apply State.modBoot_ok
    | with_reducible apply State.setReg_ok | with_reducible apply State.setF_ok
    | with_reducible apply State.setB_ok | with_reducible apply State.engineStart_ok
    | with_reducible apply ok_foldl | with_reducible apply ok2_foldl | with_reducible apply ok_foldl2
    | with_reducible apply ok_ite2 | with_reducible apply ok1_foldl | with_reducible apply ok_foldl1
    | with_reducible apply ok_ite1 | split | dsimp +zetaDelta -zeta only

theorem State.bootFailed_ok {pcs : Piece → Prop} {b0 : State} (s : State) (c : Nat) (hok : Ok pcs b0 s)
    (hp0 : pcs .regs := by assumption) (hp1 : pcs .boot := by assumption) :
    Ok pcs b0 (State.bootFailed s c) := by
  delta State.bootFailed
  repeat' first
    | with_reducible assumption | extract_lets | intro _ | with_reducible apply State.setF_ok
    | with_reducible apply State.bootFallback_ok | split | dsimp +zetaDelta -zeta only

theorem State.verifyEnd_ok {pcs : Piece → Prop} {b0 : State} (s : State) (hok : Ok pcs b0 s)
    (hp0 : pcs .regs := by assumption) (hp1 : pcs .mem := by assumption) (hp2 : pcs .boot := by assumption)
    (hp3 : pcs .poison := by assumption) (hp4 : pcs .engs := by assumption) :
    Ok pcs b0 (State.verifyEnd s) := by
  delta State.verifyEnd
  repeat' first
    | with_reducible assumption | extract_lets | intro _ | with_reducible apply ok_ite
    | with_reducible apply State.modBoot_ok | with_reducible apply State.imgCopy_ok
    | with_reducible apply State.bootSuccess_ok | with_reducible apply State.bootFailed_ok | split
    | dsimp +zetaDelta -zeta only

theorem execImageReadDone_ok {pcs : Piece → Prop} {b0 : State} (img : Option (List Byte)) (s : State)
    (hok : Ok pcs b0 s) (hp0 : pcs .regs := by assumption) (hp1 : pcs .mem := by assumption)
    (hp2 : pcs .boot := by assumption) (hp3 : pcs .poison := by assumption) (hp4 : pcs .engs := by assumption) :
    OkO pcs b0 (execImageReadDone img s) := by
  delta execImageReadDone
  repeat' first
    | with_reducible assumption | extract_lets | intro _ | with_reducible apply okO_next
    | with_reducible apply okO_ite | with_reducible apply ok_ite | with_reducible apply State.verifyEnd_ok
    | with_reducible apply State.bootFailed_ok | with_reducible apply State.modBoot_ok
    | with_reducible apply State.setF_ok | split | dsimp +zetaDelta -zeta only

theorem State.wakeSources_ok {pcs : Piece → Prop} {b0 : State} (s : State) (hok : Ok pcs b0 s)
    (hp0 : pcs .irq := by assumption) :
    Ok pcs b0 (State.wakeSources s) := by
  delta State.wakeSources
  repeat' first
    | with_reducible assumption | extract_lets | intro _ | with_reducible apply State.raiseIf_ok | split
    | dsimp +zetaDelta -zeta only

theorem execBootDone_ok {pcs : Piece → Prop} {b0 : State} (s : State) (hok : Ok pcs b0 s)
    (hp0 : pcs .free := by assumption) (hp1 : pcs .regs := by assumption) (hp2 : pcs .mem := by assumption)
    (hp3 : pcs .routes := by assumption) (hp4 : pcs .irq := by assumption) (hp5 : pcs .boot := by assumption)
    (hp6 : pcs .poison := by assumption) (hp7 : pcs .engs := by assumption) :
    OkO pcs b0 (execBootDone s) := by
  delta execBootDone
  repeat' first
    | with_reducible assumption | extract_lets | intro _ | with_reducible apply okO_next
    | with_reducible apply okO_ite | with_reducible apply ok_ite | with_reducible apply State.verifyEnd_ok
    | with_reducible apply State.quadPinLoad_ok | with_reducible apply State.setB_ok
    | with_reducible apply State.withKillDue_ok | with_reducible apply State.wakeSources_ok
    | with_reducible apply ok_foldl | with_reducible apply ok2_foldl | with_reducible apply ok_foldl2
    | with_reducible apply ok_ite2 | with_reducible apply ok1_foldl | with_reducible apply ok_foldl1
    | with_reducible apply ok_ite1 | split | dsimp +zetaDelta -zeta only

theorem State.lockEndsIn_ok {pcs : Piece → Prop} {b0 : State} (t : State) (objs : Tab Obj) (hok : Ok pcs b0 t)
    (hp0 : pcs .mem := by assumption) (hp1 : pcs .poison := by assumption) :
    Ok pcs b0 (State.lockEndsIn t objs) := by
  delta State.lockEndsIn
  repeat' first
    | with_reducible assumption | extract_lets | intro _ | with_reducible apply ok_ite
    | with_reducible apply State.setObjBits_ok | with_reducible apply ok_foldl | with_reducible apply ok2_foldl
    | with_reducible apply ok_foldl2 | with_reducible apply ok_ite2 | with_reducible apply ok1_foldl
    | with_reducible apply ok_foldl1 | with_reducible apply ok_ite1 | split | dsimp +zetaDelta -zeta only

theorem State.deviceReset_ok {pcs : Piece → Prop} {b0 : State} (s : State) (held : Bool) (hok : Ok pcs b0 s)
    (hp0 : pcs .time := by assumption) (hp1 : pcs .regs := by assumption) (hp2 : pcs .mem := by assumption)
    (hp3 : pcs .lanes := by assumption) (hp4 : pcs .pins := by assumption) (hp5 : pcs .tx := by assumption)
    (hp6 : pcs .objs := by assumption) (hp7 : pcs .filters := by assumption) (hp8 : pcs .routes := by assumption)
    (hp9 : pcs .col := by assumption) (hp10 : pcs .firn := by assumption) (hp11 : pcs .rings := by assumption)
    (hp12 : pcs .irq := by assumption) (hp13 : pcs .mor := by assumption) (hp14 : pcs .stack := by assumption)
    (hp15 : pcs .eths := by assumption) (hp16 : pcs .power := by assumption) (hp17 : pcs .boot := by assumption)
    (hp18 : pcs .poison := by assumption) (hp19 : pcs .engs := by assumption) :
    Ok pcs b0 (State.deviceReset s held) := by
  have hc : Canon State.reset := by constructor <;> rfl
  exact State.lockEndsIn_ok _ _ ⟨hok.pending, sane_fresh { hc with
      regs := Tab.wf_filter _ _ _ hok.sane.canon.regs
      mem := Tab.wf_filter _ _ _ hok.sane.canon.mem } rfl rfl,
    fun k hk => by cases k <;> first | exact hok.frame _ hk | exact absurd ‹_› hk⟩

theorem State.mainReset_ok {pcs : Piece → Prop} {b0 : State} (s : State) (held : Bool) (hok : Ok pcs b0 s)
    (hp0 : pcs .time := by assumption) (hp1 : pcs .regs := by assumption) (hp2 : pcs .mem := by assumption)
    (hp3 : pcs .lanes := by assumption) (hp4 : pcs .pins := by assumption) (hp5 : pcs .tx := by assumption)
    (hp6 : pcs .objs := by assumption) (hp7 : pcs .filters := by assumption) (hp8 : pcs .routes := by assumption)
    (hp9 : pcs .col := by assumption) (hp10 : pcs .firn := by assumption) (hp11 : pcs .rings := by assumption)
    (hp12 : pcs .irq := by assumption) (hp13 : pcs .mor := by assumption) (hp14 : pcs .stack := by assumption)
    (hp15 : pcs .eths := by assumption) (hp16 : pcs .snow := by assumption) (hp17 : pcs .power := by assumption)
    (hp18 : pcs .boot := by assumption) (hp19 : pcs .poison := by assumption) (hp20 : pcs .engs := by assumption) :
    Ok pcs b0 (State.mainReset s held) := by
  delta State.mainReset
  repeat' first
    | with_reducible assumption | extract_lets | intro _ | with_reducible apply State.deviceReset_ok
    | with_reducible apply State.modSnow_ok | split | dsimp +zetaDelta -zeta only

theorem execSysReset_ok {pcs : Piece → Prop} {b0 : State} (s : State) (hok : Ok pcs b0 s)
    (hp0 : pcs .time := by assumption) (hp1 : pcs .regs := by assumption) (hp2 : pcs .mem := by assumption)
    (hp3 : pcs .lanes := by assumption) (hp4 : pcs .pins := by assumption) (hp5 : pcs .tx := by assumption)
    (hp6 : pcs .objs := by assumption) (hp7 : pcs .filters := by assumption) (hp8 : pcs .routes := by assumption)
    (hp9 : pcs .col := by assumption) (hp10 : pcs .firn := by assumption) (hp11 : pcs .rings := by assumption)
    (hp12 : pcs .irq := by assumption) (hp13 : pcs .mor := by assumption) (hp14 : pcs .stack := by assumption)
    (hp15 : pcs .eths := by assumption) (hp16 : pcs .snow := by assumption) (hp17 : pcs .power := by assumption)
    (hp18 : pcs .boot := by assumption) (hp19 : pcs .poison := by assumption) (hp20 : pcs .engs := by assumption) :
    OkO pcs b0 (execSysReset s) := by
  delta execSysReset
  repeat' first
    | with_reducible assumption | extract_lets | intro _ | with_reducible apply okO_next
    | with_reducible apply okO_ite | with_reducible apply ok_ite | with_reducible apply State.mainReset_ok
    | with_reducible apply State.setB_ok | split | dsimp +zetaDelta -zeta only

theorem State.keyReset_ok {pcs : Piece → Prop} {b0 : State} (s : State) (hok : Ok pcs b0 s)
    (hp0 : pcs .time := by assumption) (hp1 : pcs .regs := by assumption) (hp2 : pcs .mem := by assumption)
    (hp3 : pcs .lanes := by assumption) (hp4 : pcs .pins := by assumption) (hp5 : pcs .tx := by assumption)
    (hp6 : pcs .objs := by assumption) (hp7 : pcs .filters := by assumption) (hp8 : pcs .routes := by assumption)
    (hp9 : pcs .col := by assumption) (hp10 : pcs .firn := by assumption) (hp11 : pcs .rings := by assumption)
    (hp12 : pcs .irq := by assumption) (hp13 : pcs .mor := by assumption) (hp14 : pcs .stack := by assumption)
    (hp15 : pcs .eths := by assumption) (hp16 : pcs .snow := by assumption) (hp17 : pcs .power := by assumption)
    (hp18 : pcs .boot := by assumption) (hp19 : pcs .poison := by assumption) (hp20 : pcs .engs := by assumption) :
    Ok pcs b0 (State.keyReset s) := by
  delta State.keyReset
  repeat' first
    | with_reducible assumption | extract_lets | intro _ | with_reducible apply ok_ite
    | with_reducible apply State.mainReset_ok | with_reducible apply State.setB_ok | split
    | dsimp +zetaDelta -zeta only

theorem execDeviceResetKey_ok {pcs : Piece → Prop} {b0 : State} (w : Agent) (s : State) (hok : Ok pcs b0 s)
    (hp0 : pcs .time := by assumption) (hp1 : pcs .regs := by assumption) (hp2 : pcs .mem := by assumption)
    (hp3 : pcs .lanes := by assumption) (hp4 : pcs .pins := by assumption) (hp5 : pcs .tx := by assumption)
    (hp6 : pcs .objs := by assumption) (hp7 : pcs .filters := by assumption) (hp8 : pcs .routes := by assumption)
    (hp9 : pcs .col := by assumption) (hp10 : pcs .firn := by assumption) (hp11 : pcs .rings := by assumption)
    (hp12 : pcs .irq := by assumption) (hp13 : pcs .mor := by assumption) (hp14 : pcs .stack := by assumption)
    (hp15 : pcs .eths := by assumption) (hp16 : pcs .snow := by assumption) (hp17 : pcs .power := by assumption)
    (hp18 : pcs .boot := by assumption) (hp19 : pcs .poison := by assumption) (hp20 : pcs .engs := by assumption) :
    OkO pcs b0 (execDeviceResetKey w s) := by
  delta execDeviceResetKey
  repeat' first
    | with_reducible assumption | extract_lets | intro _ | with_reducible apply okO_next
    | with_reducible apply okO_ite | with_reducible apply ok_ite | with_reducible apply State.keyReset_ok | split
    | dsimp +zetaDelta -zeta only

theorem execThermalShutdown_ok {pcs : Piece → Prop} {b0 : State} (tj : BitVec 9) (s : State) (hok : Ok pcs b0 s)
    (hp0 : pcs .time := by assumption) (hp1 : pcs .regs := by assumption) (hp2 : pcs .mem := by assumption)
    (hp3 : pcs .lanes := by assumption) (hp4 : pcs .pins := by assumption) (hp5 : pcs .tx := by assumption)
    (hp6 : pcs .objs := by assumption) (hp7 : pcs .filters := by assumption) (hp8 : pcs .routes := by assumption)
    (hp9 : pcs .col := by assumption) (hp10 : pcs .firn := by assumption) (hp11 : pcs .rings := by assumption)
    (hp12 : pcs .irq := by assumption) (hp13 : pcs .mor := by assumption) (hp14 : pcs .stack := by assumption)
    (hp15 : pcs .eths := by assumption) (hp16 : pcs .snow := by assumption) (hp17 : pcs .power := by assumption)
    (hp18 : pcs .boot := by assumption) (hp19 : pcs .poison := by assumption) (hp20 : pcs .engs := by assumption) :
    OkO pcs b0 (execThermalShutdown tj s) := by
  delta execThermalShutdown
  repeat' first
    | with_reducible assumption | extract_lets | intro _ | with_reducible apply okO_next
    | with_reducible apply okO_ite | with_reducible apply ok_ite | with_reducible apply State.mainReset_ok
    | with_reducible apply State.setB_ok | split | dsimp +zetaDelta -zeta only

theorem execThermalRelease_ok {pcs : Piece → Prop} {b0 : State} (tj : BitVec 9) (s : State) (hok : Ok pcs b0 s)
    (hp0 : pcs .regs := by assumption) (hp1 : pcs .power := by assumption) (hp2 : pcs .boot := by assumption) :
    OkO pcs b0 (execThermalRelease tj s) := by
  delta execThermalRelease
  repeat' first
    | with_reducible assumption | extract_lets | intro _ | with_reducible apply okO_next
    | with_reducible apply okO_ite | with_reducible apply ok_ite | with_reducible apply State.noteTj_ok
    | with_reducible apply State.modBoot_ok | split | dsimp +zetaDelta -zeta only

theorem State.standbyLane_ok {pcs : Piece → Prop} {b0 : State} (s : State) (l : Nat) (hok : Ok pcs b0 s)
    (hp0 : pcs .free := by assumption) (hp1 : pcs .regs := by assumption) (hp2 : pcs .mem := by assumption)
    (hp3 : pcs .host := by assumption) (hp4 : pcs .lanes := by assumption) (hp5 : pcs .pins := by assumption)
    (hp6 : pcs .tx := by assumption) (hp7 : pcs .routes := by assumption) (hp8 : pcs .col := by assumption)
    (hp9 : pcs .firn := by assumption) (hp10 : pcs .rings := by assumption) (hp11 : pcs .irq := by assumption)
    (hp12 : pcs .poison := by assumption) :
    Ok pcs b0 (State.standbyLane s l) := by
  delta State.standbyLane
  repeat' first
    | with_reducible assumption | extract_lets | intro _ | with_reducible apply ok_ite
    | with_reducible apply State.modLane_ok | with_reducible apply State.laneOff_ok | split
    | dsimp +zetaDelta -zeta only

theorem State.standbyPort_ok {pcs : Piece → Prop} {b0 : State} (s : State) (e : Nat) (hok : Ok pcs b0 s)
    (hp0 : pcs .regs := by assumption) (hp1 : pcs .host := by assumption) (hp2 : pcs .col := by assumption)
    (hp3 : pcs .firn := by assumption) (hp4 : pcs .rings := by assumption) (hp5 : pcs .irq := by assumption)
    (hp6 : pcs .eths := by assumption) :
    Ok pcs b0 (State.standbyPort s e) := by
  delta State.standbyPort
  repeat' first
    | with_reducible assumption | extract_lets | intro _ | with_reducible apply ok_ite
    | with_reducible apply State.modEth_ok | with_reducible apply State.portOff_ok | split
    | dsimp +zetaDelta -zeta only

theorem State.keyStandby_ok {pcs : Piece → Prop} {b0 : State} (s : State) (hok : Ok pcs b0 s)
    (hp0 : pcs .free := by assumption) (hp1 : pcs .regs := by assumption) (hp2 : pcs .mem := by assumption)
    (hp3 : pcs .host := by assumption) (hp4 : pcs .lanes := by assumption) (hp5 : pcs .pins := by assumption)
    (hp6 : pcs .tx := by assumption) (hp7 : pcs .routes := by assumption) (hp8 : pcs .col := by assumption)
    (hp9 : pcs .firn := by assumption) (hp10 : pcs .rings := by assumption) (hp11 : pcs .irq := by assumption)
    (hp12 : pcs .eths := by assumption) (hp13 : pcs .snow := by assumption) (hp14 : pcs .poison := by assumption) :
    Ok pcs b0 (State.keyStandby s) := by
  delta State.keyStandby
  repeat' first
    | with_reducible assumption | extract_lets | intro _ | with_reducible apply ok_ite
    | with_reducible apply State.standbyLane_ok | with_reducible apply State.standbyPort_ok
    | with_reducible apply State.modSnow_ok | with_reducible apply ok_foldl | with_reducible apply ok2_foldl
    | with_reducible apply ok_foldl2 | with_reducible apply ok_ite2 | with_reducible apply ok1_foldl
    | with_reducible apply ok_foldl1 | with_reducible apply ok_ite1 | split | dsimp +zetaDelta -zeta only

theorem execStandbyKey_ok {pcs : Piece → Prop} {b0 : State} (w : Agent) (s : State) (hok : Ok pcs b0 s)
    (hp0 : pcs .free := by assumption) (hp1 : pcs .regs := by assumption) (hp2 : pcs .mem := by assumption)
    (hp3 : pcs .host := by assumption) (hp4 : pcs .lanes := by assumption) (hp5 : pcs .pins := by assumption)
    (hp6 : pcs .tx := by assumption) (hp7 : pcs .routes := by assumption) (hp8 : pcs .col := by assumption)
    (hp9 : pcs .firn := by assumption) (hp10 : pcs .rings := by assumption) (hp11 : pcs .irq := by assumption)
    (hp12 : pcs .eths := by assumption) (hp13 : pcs .snow := by assumption) (hp14 : pcs .poison := by assumption) :
    OkO pcs b0 (execStandbyKey w s) := by
  delta execStandbyKey
  repeat' first
    | with_reducible assumption | extract_lets | intro _ | with_reducible apply okO_next
    | with_reducible apply okO_ite | with_reducible apply ok_ite | with_reducible apply State.keyStandby_ok | split
    | dsimp +zetaDelta -zeta only

theorem execStandbyRailsOff_ok {pcs : Piece → Prop} {b0 : State} (s : State) (hok : Ok pcs b0 s)
    (hp0 : pcs .free := by assumption) (hp1 : pcs .time := by assumption) (hp2 : pcs .regs := by assumption)
    (hp3 : pcs .mem := by assumption) (hp4 : pcs .host := by assumption) (hp5 : pcs .lanes := by assumption)
    (hp6 : pcs .pins := by assumption) (hp7 : pcs .tx := by assumption) (hp8 : pcs .objs := by assumption)
    (hp9 : pcs .filters := by assumption) (hp10 : pcs .routes := by assumption) (hp11 : pcs .col := by assumption)
    (hp12 : pcs .firn := by assumption) (hp13 : pcs .rings := by assumption) (hp14 : pcs .irq := by assumption)
    (hp15 : pcs .mor := by assumption) (hp16 : pcs .stack := by assumption) (hp17 : pcs .eths := by assumption)
    (hp18 : pcs .snow := by assumption) (hp19 : pcs .power := by assumption) (hp20 : pcs .boot := by assumption)
    (hp21 : pcs .poison := by assumption) (hp22 : pcs .engs := by assumption) :
    OkO pcs b0 (execStandbyRailsOff s) := by
  delta execStandbyRailsOff
  repeat' first
    | with_reducible assumption | extract_lets | intro _ | with_reducible apply okO_next
    | with_reducible apply okO_ite | with_reducible apply ok_ite | with_reducible apply State.standbyLane_ok
    | with_reducible apply State.standbyPort_ok | with_reducible apply State.morHeader_ok
    | with_reducible apply State.modBoot_ok | with_reducible apply State.deviceReset_ok
    | with_reducible apply State.modSnow_ok | with_reducible apply State.powerDisable_ok
    | with_reducible apply ok_foldl | with_reducible apply ok2_foldl | with_reducible apply ok_foldl2
    | with_reducible apply ok_ite2 | with_reducible apply ok1_foldl | with_reducible apply ok_foldl1
    | with_reducible apply ok_ite1 | split | dsimp +zetaDelta -zeta only

theorem execImageLoad_ok {pcs : Piece → Prop} {b0 : State} (f : Fn) (d : Words8) (s : State) (hok : Ok pcs b0 s)
    (hp0 : pcs .host := by assumption) (hp1 : pcs .rings := by assumption) (hp2 : pcs .irq := by assumption)
    (hp3 : pcs .boot := by assumption) :
    OkO pcs b0 (execImageLoad f d s) := by
  delta execImageLoad
  repeat' first
    | with_reducible assumption | extract_lets | intro _ | with_reducible apply okO_next
    | with_reducible apply okO_ite | with_reducible apply ok_ite | with_reducible apply adminCmd_ok
    | with_reducible apply adminCmd_ok' | with_reducible apply State.adminRefuse_ok
    | with_reducible apply State.modBoot_ok | split | dsimp +zetaDelta -zeta only

theorem State.imageApply_ok {pcs : Piece → Prop} {b0 : State} (s : State) (img : List Byte) (pe : Nat) (se : Nat)
    (hok : Ok pcs b0 s) (hp0 : pcs .free := by assumption) (hp1 : pcs .regs := by assumption)
    (hp2 : pcs .mem := by assumption) (hp3 : pcs .objs := by assumption) (hp4 : pcs .col := by assumption)
    (hp5 : pcs .firn := by assumption) (hp6 : pcs .rings := by assumption) (hp7 : pcs .irq := by assumption)
    (hp8 : pcs .mor := by assumption) (hp9 : pcs .stack := by assumption) (hp10 : pcs .boot := by assumption)
    (hp11 : pcs .poison := by assumption) (hp12 : pcs .engs := by assumption) :
    Ok pcs b0 (State.imageApply s img pe se) := by
  delta State.imageApply
  repeat' first
    | with_reducible assumption | extract_lets | intro _ | with_reducible apply ok_ite
    | with_reducible apply State.engineReset_ok | with_reducible apply State.engineStart_ok
    | with_reducible apply State.imgCopy_ok | with_reducible apply State.quadPinLoad_ok
    | with_reducible apply ok_foldl | with_reducible apply ok2_foldl | with_reducible apply ok_foldl2
    | with_reducible apply ok_ite2 | with_reducible apply ok1_foldl | with_reducible apply ok_foldl1
    | with_reducible apply ok_ite1 | split | dsimp +zetaDelta -zeta only

theorem execImageLoadCommit_ok {pcs : Piece → Prop} {b0 : State} (img : List Byte) (s : State) (hok : Ok pcs b0 s)
    (hp0 : pcs .free := by assumption) (hp1 : pcs .regs := by assumption) (hp2 : pcs .mem := by assumption)
    (hp3 : pcs .host := by assumption) (hp4 : pcs .objs := by assumption) (hp5 : pcs .col := by assumption)
    (hp6 : pcs .firn := by assumption) (hp7 : pcs .rings := by assumption) (hp8 : pcs .irq := by assumption)
    (hp9 : pcs .mor := by assumption) (hp10 : pcs .stack := by assumption) (hp11 : pcs .boot := by assumption)
    (hp12 : pcs .poison := by assumption) (hp13 : pcs .engs := by assumption) :
    OkO pcs b0 (execImageLoadCommit img s) := by
  delta execImageLoadCommit
  repeat' first
    | with_reducible assumption | extract_lets | intro _ | with_reducible apply okO_next
    | with_reducible apply okO_ite | with_reducible apply ok_ite | with_reducible apply State.modBoot_ok
    | with_reducible apply State.setF_ok | with_reducible apply State.imageApply_ok
    | with_reducible apply State.adminDone_ok | with_reducible apply State.adminRefuse_ok | split
    | dsimp +zetaDelta -zeta only
end Sys2Proof.Machine
end

