-- ==== Sys2Proof/Laws/OkPin.lean ====
section
/-! SUPPORT. The pin engines: every operation of Machine/Pin.lean keeps the queue and a sane state, and changes no
piece but the ones it names. -/
namespace Sys2Proof.Machine
set_option Elab.async false

theorem State.codecTake_ok {pcs : Piece → Prop} {b0 : State} (s : State) (l : Nat) (hok : Ok pcs b0 s)
    (hp0 : pcs .regs := by assumption) (hp1 : pcs .pins := by assumption) :
    Ok2 pcs b0 (State.codecTake s l) := by
  delta State.codecTake
  repeat' first
    | with_reducible assumption | extract_lets | intro _ | with_reducible apply ok2_ite
    | with_reducible apply State.modPin_ok | with_reducible apply State.setB_ok | split
    | with_reducible apply ok2_mk | dsimp +zetaDelta -zeta only

theorem State.codecTake_ok' {pcs : Piece → Prop} {b0 : State} (s : State) (l : Nat) (hok : Ok pcs b0 s)
    (hp0 : pcs .regs := by assumption) (hp1 : pcs .pins := by assumption) :
    Ok pcs b0 (State.codecTake s l).2 := State.codecTake_ok s l hok hp0 hp1

theorem State.tapShift_ok {pcs : Piece → Prop} {b0 : State} (s : State) (l : Nat) (rx : Bool) (v : Bool)
    (hok : Ok pcs b0 s) (hp0 : pcs .regs := by assumption) :
    Ok pcs b0 (State.tapShift s l rx v) := by
  delta State.tapShift
  repeat' first
    | with_reducible assumption | extract_lets | intro _ | with_reducible apply ok_ite
    | with_reducible apply State.setReg_ok | split | dsimp +zetaDelta -zeta only

theorem State.pinSeen1_ok {pcs : Piece → Prop} {b0 : State} (l : Nat) (s : State) (a2 : PinSeen) (hok : Ok pcs b0 s)
    (hp0 : pcs .regs := by assumption) (hp1 : pcs .pins := by assumption) :
    Ok pcs b0 (State.pinSeen1 l s a2) := by
  delta State.pinSeen1
  repeat' first
    | with_reducible assumption | extract_lets | intro _ | with_reducible apply ok_ite
    | with_reducible apply State.modPin_ok | with_reducible apply State.tapShift_ok
    | with_reducible apply State.codecTake_ok | with_reducible apply State.codecTake_ok'
    | (refine ok2_eq (by with_reducible assumption) ?_) | split | dsimp +zetaDelta -zeta only

theorem State.pinSee_ok {pcs : Piece → Prop} {b0 : State} (s : State) (l : Nat) (xs : List PinSeen)
    (hok : Ok pcs b0 s) (hp0 : pcs .regs := by assumption) (hp1 : pcs .pins := by assumption) :
    Ok pcs b0 (State.pinSee s l xs) := by
  delta State.pinSee
  repeat' first
    | with_reducible assumption | extract_lets | intro _ | with_reducible apply ok_ite
    | with_reducible apply State.pinSeen1_ok | with_reducible apply ok_foldl | with_reducible apply ok2_foldl
    | with_reducible apply ok_foldl2 | with_reducible apply ok_ite2 | with_reducible apply ok1_foldl
    | with_reducible apply ok_foldl1 | with_reducible apply ok_ite1 | split | dsimp +zetaDelta -zeta only

theorem State.pinSwitch_ok {pcs : Piece → Prop} {b0 : State} (s : State) (l : Nat) (hok : Ok pcs b0 s)
    (hp0 : pcs .regs := by assumption) (hp1 : pcs .lanes := by assumption) (hp2 : pcs .pins := by assumption) :
    Ok pcs b0 (State.pinSwitch s l) := by
  delta State.pinSwitch
  repeat' first
    | with_reducible assumption | extract_lets | intro _ | with_reducible apply ok_ite
    | with_reducible apply State.modLane_ok | with_reducible apply State.setF_ok
    | with_reducible apply State.setB_ok | with_reducible apply State.modPin_ok | split
    | dsimp +zetaDelta -zeta only

theorem State.pinSettle_ok {pcs : Piece → Prop} {b0 : State} (s : State) (l : Nat) (hok : Ok pcs b0 s)
    (hp0 : pcs .regs := by assumption) (hp1 : pcs .lanes := by assumption) (hp2 : pcs .pins := by assumption) :
    Ok pcs b0 (State.pinSettle s l) := by
  delta State.pinSettle
  repeat' first
    | with_reducible assumption | extract_lets | intro _ | with_reducible apply ok_ite
    | with_reducible apply State.pinSwitch_ok | split | dsimp +zetaDelta -zeta only

theorem State.pinDone_ok {pcs : Piece → Prop} {b0 : State} (s : State) (l : Nat) (dl : Nat) (target : Option Nat)
    (hok : Ok pcs b0 s) (hp0 : pcs .pins := by assumption) :
    Ok pcs b0 (State.pinDone s l dl target) := by
  delta State.pinDone
  repeat' first
    | with_reducible assumption | extract_lets | intro _ | with_reducible apply State.modPin_ok | split
    | dsimp +zetaDelta -zeta only

theorem State.pinStall_ok {pcs : Piece → Prop} {b0 : State} (s : State) (l : Nat) (hok : Ok pcs b0 s)
    (hp0 : pcs .pins := by assumption) :
    Ok pcs b0 (State.pinStall s l) := by
  delta State.pinStall
  repeat' first
    | with_reducible assumption | extract_lets | intro _ | with_reducible apply State.modPin_ok | split
    | dsimp +zetaDelta -zeta only

theorem pinRun_ok {pcs : Piece → Prop} {b0 : State} (s : State) (l : LaneId) (x : PinArg) (i : PinOp)
    (body : State → State) (hok : Ok pcs b0 s) (h_body : ∀ s, Ok pcs b0 s → Ok pcs b0 (body s))
    (hp0 : pcs .regs := by assumption) (hp1 : pcs .lanes := by assumption) (hp2 : pcs .pins := by assumption) :
    OkO pcs b0 (pinRun s l x i body) := by
  delta pinRun
  repeat' first
    | with_reducible assumption | extract_lets | intro _ | with_reducible apply okO_next
    | with_reducible apply okO_ite | with_reducible apply ok_ite | with_reducible apply State.pinSee_ok
    | with_reducible apply State.pinSettle_ok | with_reducible apply h_body | split | dsimp +zetaDelta -zeta only

theorem pinPlain_ok {pcs : Piece → Prop} {b0 : State} (s : State) (l : LaneId) (x : PinArg) (i : PinOp)
    (g : State → State) (hok : Ok pcs b0 s) (h_g : ∀ s, Ok pcs b0 s → Ok pcs b0 (g s))
    (hp0 : pcs .regs := by assumption) (hp1 : pcs .lanes := by assumption) (hp2 : pcs .pins := by assumption) :
    OkO pcs b0 (pinPlain s l x i g) := by
  delta pinPlain
  repeat' first
    | with_reducible assumption | extract_lets | intro _ | with_reducible apply okO_next
    | with_reducible apply okO_ite | with_reducible apply pinRun_ok | with_reducible apply pinRun_ok'
    | with_reducible apply State.pinDone_ok | with_reducible apply h_g | split | dsimp +zetaDelta -zeta only

theorem State.pinPush_ok {pcs : Piece → Prop} {b0 : State} (s : State) (l : Nat) (hok : Ok pcs b0 s)
    (hp0 : pcs .regs := by assumption) (hp1 : pcs .pins := by assumption) :
    Ok pcs b0 (State.pinPush s l) := by
  delta State.pinPush
  repeat' first
    | with_reducible assumption | extract_lets | intro _ | with_reducible apply ok_ite
    | with_reducible apply State.modPin_ok | with_reducible apply State.setB_ok
    | with_reducible apply State.satAdd_ok | split | dsimp +zetaDelta -zeta only

theorem State.pinPull_ok {pcs : Piece → Prop} {b0 : State} (s : State) (l : Nat) (hok : Ok pcs b0 s)
    (hp0 : pcs .regs := by assumption) (hp1 : pcs .pins := by assumption) :
    Ok pcs b0 (State.pinPull s l) := by
  delta State.pinPull
  repeat' first
    | with_reducible assumption | extract_lets | intro _ | with_reducible apply State.modPin_ok
    | with_reducible apply State.setB_ok | with_reducible apply State.satAdd_ok | split
    | dsimp +zetaDelta -zeta only

theorem State.brHolds_ok {pcs : Piece → Prop} {b0 : State} (s : State) (l : Nat) (c : Nat) (hok : Ok pcs b0 s)
    (hp0 : pcs .pins := by assumption) :
    Ok2 pcs b0 (State.brHolds s l c) := by
  delta State.brHolds
  repeat' first
    | with_reducible assumption | extract_lets | intro _ | with_reducible apply ok2_ite
    | with_reducible apply ok_ite | with_reducible apply State.modPin_ok | split | with_reducible apply ok2_mk
    | dsimp +zetaDelta -zeta only

theorem State.brHolds_ok' {pcs : Piece → Prop} {b0 : State} (s : State) (l : Nat) (c : Nat) (hok : Ok pcs b0 s)
    (hp0 : pcs .pins := by assumption) :
    Ok pcs b0 (State.brHolds s l c).2 := State.brHolds_ok s l c hok hp0

theorem State.shinBits_ok {pcs : Piece → Prop} {b0 : State} (s : State) (l : Nat) (k : Nat) (n : Nat)
    (hok : Ok pcs b0 s) (hp0 : pcs .free := by assumption) :
    Ok2 pcs b0 (State.shinBits s l k n) := by
  delta State.shinBits
  repeat' first
    | with_reducible assumption | extract_lets | intro _ | with_reducible apply ok2_ite
    | with_reducible apply ok_ite | with_reducible apply State.drawWord_ok
    | with_reducible apply State.drawWord_ok' | (refine ok2_eq (by with_reducible assumption) ?_) | split
    | with_reducible apply ok2_mk | dsimp +zetaDelta -zeta only

theorem State.shinBits_ok' {pcs : Piece → Prop} {b0 : State} (s : State) (l : Nat) (k : Nat) (n : Nat)
    (hok : Ok pcs b0 s) (hp0 : pcs .free := by assumption) :
    Ok pcs b0 (State.shinBits s l k n).2 := State.shinBits_ok s l k n hok hp0

theorem State.xFrom_ok {pcs : Piece → Prop} {b0 : State} (s : State) (bits : List Bool) (hok : Ok pcs b0 s)
    (hp0 : pcs .free := by assumption) :
    Ok2 pcs b0 (State.xFrom s bits) := by
  delta State.xFrom
  repeat' first
    | with_reducible assumption | extract_lets | intro _ | with_reducible apply ok2_ite
    | with_reducible apply ok_ite | with_reducible apply State.drawWord_ok
    | with_reducible apply State.drawWord_ok' | (refine ok2_eq (by with_reducible assumption) ?_)
    | exact ok2_snd (by with_reducible assumption) | with_reducible apply ok_foldl | with_reducible apply ok2_foldl
    | with_reducible apply ok_foldl2 | with_reducible apply ok_ite2 | with_reducible apply ok1_foldl
    | with_reducible apply ok_foldl1 | with_reducible apply ok_ite1 | split | with_reducible apply ok2_mk
    | dsimp +zetaDelta -zeta only

theorem State.xFrom_ok' {pcs : Piece → Prop} {b0 : State} (s : State) (bits : List Bool) (hok : Ok pcs b0 s)
    (hp0 : pcs .free := by assumption) :
    Ok pcs b0 (State.xFrom s bits).2 := State.xFrom_ok s bits hok hp0

theorem State.pinShout_ok {pcs : Piece → Prop} {b0 : State} (s : State) (l : Nat) (k : Nat) (n : Nat)
    (hok : Ok pcs b0 s) (hp0 : pcs .free := by assumption) (hp1 : pcs .pins := by assumption) :
    Ok pcs b0 (State.pinShout s l k n) := by
  delta State.pinShout
  repeat' first
    | with_reducible assumption | extract_lets | intro _ | with_reducible apply ok_ite
    | with_reducible apply State.modPin_ok | with_reducible apply State.xFrom_ok
    | with_reducible apply State.xFrom_ok' | (refine ok2_eq (by with_reducible assumption) ?_) | split
    | dsimp +zetaDelta -zeta only

theorem execBr_ok {pcs : Piece → Prop} {b0 : State} (l : LaneId) (x : PinArg) (c : BitVec 3) (a : BitVec 5)
    (s : State) (hok : Ok pcs b0 s) (hp0 : pcs .regs := by assumption) (hp1 : pcs .lanes := by assumption)
    (hp2 : pcs .pins := by assumption) :
    OkO pcs b0 (execBr l x c a s) := by
  delta execBr
  repeat' first
    | with_reducible assumption | extract_lets | intro _ | with_reducible apply okO_next
    | with_reducible apply okO_ite | with_reducible apply ok_ite | with_reducible apply pinRun_ok
    | with_reducible apply pinRun_ok' | with_reducible apply State.brHolds_ok
    | with_reducible apply State.brHolds_ok' | with_reducible apply State.pinDone_ok
    | (refine ok2_eq (by with_reducible assumption) ?_) | split | dsimp +zetaDelta -zeta only

theorem execAwait_ok {pcs : Piece → Prop} {b0 : State} (l : LaneId) (x : PinArg) (lv : Bool) (i : BitVec 4)
    (pulse : Bool) (s : State) (hok : Ok pcs b0 s) (hp0 : pcs .regs := by assumption)
    (hp1 : pcs .lanes := by assumption) (hp2 : pcs .pins := by assumption) :
    OkO pcs b0 (execAwait l x lv i pulse s) := by
  delta execAwait
  repeat' first
    | with_reducible assumption | extract_lets | intro _ | with_reducible apply okO_next
    | with_reducible apply okO_ite | with_reducible apply ok_ite | with_reducible apply pinRun_ok
    | with_reducible apply pinRun_ok' | with_reducible apply State.pinDone_ok
    | with_reducible apply State.pinStall_ok | split | dsimp +zetaDelta -zeta only

theorem execShin_ok {pcs : Piece → Prop} {b0 : State} (l : LaneId) (x : PinArg) (k : BitVec 3) (n : BitVec 5)
    (s : State) (hok : Ok pcs b0 s) (hp0 : pcs .free := by assumption) (hp1 : pcs .regs := by assumption)
    (hp2 : pcs .lanes := by assumption) (hp3 : pcs .pins := by assumption) :
    OkO pcs b0 (execShin l x k n s) := by
  delta execShin
  repeat' first
    | with_reducible assumption | extract_lets | intro _ | with_reducible apply okO_next
    | with_reducible apply okO_ite | with_reducible apply ok_ite | with_reducible apply pinRun_ok
    | with_reducible apply pinRun_ok' | with_reducible apply State.pinStall_ok
    | with_reducible apply State.shinBits_ok | with_reducible apply State.shinBits_ok'
    | with_reducible apply State.modPin_ok | with_reducible apply State.pinPush_ok
    | with_reducible apply State.pinDone_ok | (refine ok2_eq (by with_reducible assumption) ?_) | split
    | dsimp +zetaDelta -zeta only

theorem execShout_ok {pcs : Piece → Prop} {b0 : State} (l : LaneId) (x : PinArg) (k : BitVec 3) (n : BitVec 5)
    (s : State) (hok : Ok pcs b0 s) (hp0 : pcs .free := by assumption) (hp1 : pcs .regs := by assumption)
    (hp2 : pcs .lanes := by assumption) (hp3 : pcs .pins := by assumption) :
    OkO pcs b0 (execShout l x k n s) := by
  delta execShout
  repeat' first
    | with_reducible assumption | extract_lets | intro _ | with_reducible apply okO_next
    | with_reducible apply okO_ite | with_reducible apply ok_ite | with_reducible apply pinRun_ok
    | with_reducible apply pinRun_ok' | with_reducible apply State.pinStall_ok
    | with_reducible apply State.pinPull_ok | with_reducible apply State.pinShout_ok
    | with_reducible apply State.pinDone_ok | split | dsimp +zetaDelta -zeta only

theorem execPush_ok {pcs : Piece → Prop} {b0 : State} (l : LaneId) (x : PinArg) (thr : Bool) (s : State)
    (hok : Ok pcs b0 s) (hp0 : pcs .regs := by assumption) (hp1 : pcs .lanes := by assumption)
    (hp2 : pcs .pins := by assumption) :
    OkO pcs b0 (execPush l x thr s) := by
  delta execPush
  repeat' first
    | with_reducible assumption | extract_lets | intro _ | with_reducible apply okO_next
    | with_reducible apply okO_ite | with_reducible apply ok_ite | with_reducible apply pinRun_ok
    | with_reducible apply pinRun_ok' | with_reducible apply State.pinDone_ok
    | with_reducible apply State.pinStall_ok | with_reducible apply State.pinPush_ok | split
    | dsimp +zetaDelta -zeta only

theorem execPushN_ok {pcs : Piece → Prop} {b0 : State} (l : LaneId) (x : PinArg) (thr : Bool) (s : State)
    (hok : Ok pcs b0 s) (hp0 : pcs .regs := by assumption) (hp1 : pcs .lanes := by assumption)
    (hp2 : pcs .pins := by assumption) :
    OkO pcs b0 (execPushN l x thr s) := by
  delta execPushN
  repeat' first
    | with_reducible assumption | extract_lets | intro _ | with_reducible apply okO_next
    | with_reducible apply okO_ite | with_reducible apply ok_ite | with_reducible apply pinRun_ok
    | with_reducible apply pinRun_ok' | with_reducible apply State.pinPush_ok
    | with_reducible apply State.pinDone_ok | split | dsimp +zetaDelta -zeta only

theorem execPull_ok {pcs : Piece → Prop} {b0 : State} (l : LaneId) (x : PinArg) (thr : Bool) (s : State)
    (hok : Ok pcs b0 s) (hp0 : pcs .regs := by assumption) (hp1 : pcs .lanes := by assumption)
    (hp2 : pcs .pins := by assumption) :
    OkO pcs b0 (execPull l x thr s) := by
  delta execPull
  repeat' first
    | with_reducible assumption | extract_lets | intro _ | with_reducible apply okO_next
    | with_reducible apply okO_ite | with_reducible apply ok_ite | with_reducible apply pinRun_ok
    | with_reducible apply pinRun_ok' | with_reducible apply State.pinDone_ok
    | with_reducible apply State.pinStall_ok | with_reducible apply State.pinPull_ok | split
    | dsimp +zetaDelta -zeta only

theorem execPullN_ok {pcs : Piece → Prop} {b0 : State} (l : LaneId) (x : PinArg) (thr : Bool) (s : State)
    (hok : Ok pcs b0 s) (hp0 : pcs .regs := by assumption) (hp1 : pcs .lanes := by assumption)
    (hp2 : pcs .pins := by assumption) :
    OkO pcs b0 (execPullN l x thr s) := by
  delta execPullN
  repeat' first
    | with_reducible assumption | extract_lets | intro _ | with_reducible apply okO_next
    | with_reducible apply okO_ite | with_reducible apply ok_ite | with_reducible apply pinRun_ok
    | with_reducible apply pinRun_ok' | with_reducible apply State.pinPull_ok
    | with_reducible apply State.pinDone_ok | split | dsimp +zetaDelta -zeta only

theorem execSetx_ok {pcs : Piece → Prop} {b0 : State} (l : LaneId) (x : PinArg) (v : BitVec 8) (s : State)
    (hok : Ok pcs b0 s) (hp0 : pcs .regs := by assumption) (hp1 : pcs .lanes := by assumption)
    (hp2 : pcs .pins := by assumption) :
    OkO pcs b0 (execSetx l x v s) := by
  delta execSetx
  repeat' first
    | with_reducible assumption | extract_lets | intro _ | with_reducible apply okO_next
    | with_reducible apply okO_ite | with_reducible apply pinPlain_ok | with_reducible apply pinPlain_ok'
    | with_reducible apply State.modPin_ok | split | dsimp +zetaDelta -zeta only

theorem execDrive_ok {pcs : Piece → Prop} {b0 : State} (l : LaneId) (x : PinArg) (k : BitVec 2) (s : State)
    (hok : Ok pcs b0 s) (hp0 : pcs .regs := by assumption) (hp1 : pcs .lanes := by assumption)
    (hp2 : pcs .pins := by assumption) :
    OkO pcs b0 (execDrive l x k s) := by
  delta execDrive
  repeat' first
    | with_reducible assumption | extract_lets | intro _ | with_reducible apply okO_next
    | with_reducible apply okO_ite | with_reducible apply ok_ite | with_reducible apply pinPlain_ok
    | with_reducible apply pinPlain_ok' | with_reducible apply State.modPin_ok | split
    | dsimp +zetaDelta -zeta only

theorem State.codecSet_ok {pcs : Piece → Prop} {b0 : State} (s : State) (l : Nat) (x : CodecCmd) (hok : Ok pcs b0 s)
    (hp0 : pcs .pins := by assumption) :
    Ok pcs b0 (State.codecSet s l x) := by
  delta State.codecSet
  repeat' first
    | with_reducible assumption | extract_lets | intro _ | with_reducible apply State.modPin_ok | split
    | dsimp +zetaDelta -zeta only

theorem execCrcReset_ok {pcs : Piece → Prop} {b0 : State} (l : LaneId) (x : PinArg) (k : BitVec 3) (s : State)
    (hok : Ok pcs b0 s) (hp0 : pcs .regs := by assumption) (hp1 : pcs .lanes := by assumption)
    (hp2 : pcs .pins := by assumption) :
    OkO pcs b0 (execCrcReset l x k s) := by
  delta execCrcReset
  repeat' first
    | with_reducible assumption | extract_lets | intro _ | with_reducible apply okO_next
    | with_reducible apply okO_ite | with_reducible apply pinPlain_ok | with_reducible apply pinPlain_ok'
    | with_reducible apply State.codecSet_ok | split | dsimp +zetaDelta -zeta only

theorem execStuffDyn_ok {pcs : Piece → Prop} {b0 : State} (l : LaneId) (x : PinArg) (s : State) (hok : Ok pcs b0 s)
    (hp0 : pcs .regs := by assumption) (hp1 : pcs .lanes := by assumption) (hp2 : pcs .pins := by assumption) :
    OkO pcs b0 (execStuffDyn l x s) := by
  delta execStuffDyn
  repeat' first
    | with_reducible assumption | extract_lets | intro _ | with_reducible apply okO_next
    | with_reducible apply okO_ite | with_reducible apply pinPlain_ok | with_reducible apply pinPlain_ok'
    | with_reducible apply State.codecSet_ok | split | dsimp +zetaDelta -zeta only

theorem execStuffFixedFd_ok {pcs : Piece → Prop} {b0 : State} (l : LaneId) (x : PinArg) (s : State)
    (hok : Ok pcs b0 s) (hp0 : pcs .regs := by assumption) (hp1 : pcs .lanes := by assumption)
    (hp2 : pcs .pins := by assumption) :
    OkO pcs b0 (execStuffFixedFd l x s) := by
  delta execStuffFixedFd
  repeat' first
    | with_reducible assumption | extract_lets | intro _ | with_reducible apply okO_next
    | with_reducible apply okO_ite | with_reducible apply pinPlain_ok | with_reducible apply pinPlain_ok'
    | with_reducible apply State.codecSet_ok | split | dsimp +zetaDelta -zeta only

theorem execStuffFixedXl_ok {pcs : Piece → Prop} {b0 : State} (l : LaneId) (x : PinArg) (s : State)
    (hok : Ok pcs b0 s) (hp0 : pcs .regs := by assumption) (hp1 : pcs .lanes := by assumption)
    (hp2 : pcs .pins := by assumption) :
    OkO pcs b0 (execStuffFixedXl l x s) := by
  delta execStuffFixedXl
  repeat' first
    | with_reducible assumption | extract_lets | intro _ | with_reducible apply okO_next
    | with_reducible apply okO_ite | with_reducible apply pinPlain_ok | with_reducible apply pinPlain_ok'
    | with_reducible apply State.codecSet_ok | split | dsimp +zetaDelta -zeta only

theorem execStuffOff_ok {pcs : Piece → Prop} {b0 : State} (l : LaneId) (x : PinArg) (s : State) (hok : Ok pcs b0 s)
    (hp0 : pcs .regs := by assumption) (hp1 : pcs .lanes := by assumption) (hp2 : pcs .pins := by assumption) :
    OkO pcs b0 (execStuffOff l x s) := by
  delta execStuffOff
  repeat' first
    | with_reducible assumption | extract_lets | intro _ | with_reducible apply okO_next
    | with_reducible apply okO_ite | with_reducible apply pinPlain_ok | with_reducible apply pinPlain_ok'
    | with_reducible apply State.codecSet_ok | split | dsimp +zetaDelta -zeta only

theorem execCrcSend_ok {pcs : Piece → Prop} {b0 : State} (l : LaneId) (x : PinArg) (k : BitVec 3) (s : State)
    (hok : Ok pcs b0 s) (hp0 : pcs .regs := by assumption) (hp1 : pcs .lanes := by assumption)
    (hp2 : pcs .pins := by assumption) :
    OkO pcs b0 (execCrcSend l x k s) := by
  delta execCrcSend
  repeat' first
    | with_reducible assumption | extract_lets | intro _ | with_reducible apply okO_next
    | with_reducible apply okO_ite | with_reducible apply pinPlain_ok | with_reducible apply pinPlain_ok'
    | with_reducible apply State.codecSet_ok | split | dsimp +zetaDelta -zeta only

theorem execCrcCheck_ok {pcs : Piece → Prop} {b0 : State} (l : LaneId) (x : PinArg) (k : BitVec 3) (_h : Unit)
    (s : State) (hok : Ok pcs b0 s) (hp0 : pcs .regs := by assumption) (hp1 : pcs .lanes := by assumption)
    (hp2 : pcs .pins := by assumption) :
    OkO pcs b0 (execCrcCheck l x k _h s) := by
  delta execCrcCheck
  repeat' first
    | with_reducible assumption | extract_lets | intro _ | with_reducible apply okO_next
    | with_reducible apply okO_ite | with_reducible apply pinPlain_ok | with_reducible apply pinPlain_ok'
    | with_reducible apply State.codecSet_ok | split | dsimp +zetaDelta -zeta only

theorem execPhaseData_ok {pcs : Piece → Prop} {b0 : State} (l : LaneId) (x : PinArg) (s : State) (hok : Ok pcs b0 s)
    (hp0 : pcs .regs := by assumption) (hp1 : pcs .lanes := by assumption) (hp2 : pcs .pins := by assumption) :
    OkO pcs b0 (execPhaseData l x s) := by
  delta execPhaseData
  repeat' first
    | with_reducible assumption | extract_lets | intro _ | with_reducible apply okO_next
    | with_reducible apply okO_ite | with_reducible apply pinPlain_ok | with_reducible apply pinPlain_ok'
    | with_reducible apply State.codecSet_ok | split | dsimp +zetaDelta -zeta only

theorem execPhaseNominal_ok {pcs : Piece → Prop} {b0 : State} (l : LaneId) (x : PinArg) (s : State)
    (hok : Ok pcs b0 s) (hp0 : pcs .regs := by assumption) (hp1 : pcs .lanes := by assumption)
    (hp2 : pcs .pins := by assumption) :
    OkO pcs b0 (execPhaseNominal l x s) := by
  delta execPhaseNominal
  repeat' first
    | with_reducible assumption | extract_lets | intro _ | with_reducible apply okO_next
    | with_reducible apply okO_ite | with_reducible apply pinPlain_ok | with_reducible apply pinPlain_ok'
    | with_reducible apply State.codecSet_ok | split | dsimp +zetaDelta -zeta only

theorem execErrClear_ok {pcs : Piece → Prop} {b0 : State} (l : LaneId) (x : PinArg) (s : State) (hok : Ok pcs b0 s)
    (hp0 : pcs .regs := by assumption) (hp1 : pcs .lanes := by assumption) (hp2 : pcs .pins := by assumption) :
    OkO pcs b0 (execErrClear l x s) := by
  delta execErrClear
  repeat' first
    | with_reducible assumption | extract_lets | intro _ | with_reducible apply okO_next
    | with_reducible apply okO_ite | with_reducible apply pinPlain_ok | with_reducible apply pinPlain_ok'
    | with_reducible apply State.codecSet_ok | split | dsimp +zetaDelta -zeta only

theorem execTdcStart_ok {pcs : Piece → Prop} {b0 : State} (l : LaneId) (x : PinArg) (s : State) (hok : Ok pcs b0 s)
    (hp0 : pcs .regs := by assumption) (hp1 : pcs .lanes := by assumption) (hp2 : pcs .pins := by assumption) :
    OkO pcs b0 (execTdcStart l x s) := by
  delta execTdcStart
  repeat' first
    | with_reducible assumption | extract_lets | intro _ | with_reducible apply okO_next
    | with_reducible apply okO_ite | with_reducible apply pinPlain_ok | with_reducible apply pinPlain_ok'
    | with_reducible apply State.codecSet_ok | split | dsimp +zetaDelta -zeta only

theorem execSig_ok {pcs : Piece → Prop} {b0 : State} (l : LaneId) (x : PinArg) (v : BitVec 3) (s : State)
    (hok : Ok pcs b0 s) (hp0 : pcs .regs := by assumption) (hp1 : pcs .lanes := by assumption)
    (hp2 : pcs .pins := by assumption) :
    OkO pcs b0 (execSig l x v s) := by
  delta execSig
  repeat' first
    | with_reducible assumption | extract_lets | intro _ | with_reducible apply okO_next
    | with_reducible apply okO_ite | with_reducible apply pinPlain_ok | with_reducible apply pinPlain_ok'
    | with_reducible apply State.modPin_ok | split | dsimp +zetaDelta -zeta only

theorem execCopy_ok {pcs : Piece → Prop} {b0 : State} (l : LaneId) (x : PinArg) (k : BitVec 4) (s : State)
    (hok : Ok pcs b0 s) (hp0 : pcs .regs := by assumption) (hp1 : pcs .lanes := by assumption)
    (hp2 : pcs .pins := by assumption) :
    OkO pcs b0 (execCopy l x k s) := by
  delta execCopy
  repeat' first
    | with_reducible assumption | extract_lets | intro _ | with_reducible apply okO_next
    | with_reducible apply okO_ite | with_reducible apply ok_ite | with_reducible apply pinPlain_ok
    | with_reducible apply pinPlain_ok' | with_reducible apply State.modPin_ok | split
    | dsimp +zetaDelta -zeta only

theorem execPinNop_ok {pcs : Piece → Prop} {b0 : State} (l : LaneId) (x : PinArg) (s : State) (hok : Ok pcs b0 s)
    (hp0 : pcs .regs := by assumption) (hp1 : pcs .lanes := by assumption) (hp2 : pcs .pins := by assumption) :
    OkO pcs b0 (execPinNop l x s) := by
  delta execPinNop
  repeat' first
    | with_reducible assumption | extract_lets | intro _ | with_reducible apply okO_next
    | with_reducible apply okO_ite | with_reducible apply pinPlain_ok | with_reducible apply pinPlain_ok' | split
    | dsimp +zetaDelta -zeta only

theorem execPinReservedOp_ok {pcs : Piece → Prop} {b0 : State} (l : LaneId) (s : State) (hok : Ok pcs b0 s)
    (hp0 : pcs .regs := by assumption) (hp1 : pcs .lanes := by assumption) (hp2 : pcs .pins := by assumption) :
    OkO pcs b0 (execPinReservedOp l s) := by
  delta execPinReservedOp
  repeat' first
    | with_reducible assumption | extract_lets | intro _ | with_reducible apply okO_next
    | with_reducible apply okO_ite | with_reducible apply pinRun_ok | with_reducible apply pinRun_ok'
    | with_reducible apply State.setB_ok | with_reducible apply State.pinDone_ok | split
    | dsimp +zetaDelta -zeta only

theorem State.switchWrite_ok {pcs : Piece → Prop} {b0 : State} (s : State) (w : Agent) (l : Nat) (v : Nat)
    (hok : Ok pcs b0 s) (hp0 : pcs .regs := by assumption) (hp1 : pcs .lanes := by assumption)
    (hp2 : pcs .pins := by assumption) :
    Ok pcs b0 (State.switchWrite s w l v) := by
  delta State.switchWrite
  repeat' first
    | with_reducible assumption | extract_lets | intro _ | with_reducible apply ok_ite
    | with_reducible apply State.pinSettle_ok | with_reducible apply State.clampBy_ok
    | with_reducible apply State.modPin_ok | with_reducible apply State.setB_ok
    | with_reducible apply State.pinSwitch_ok | split | dsimp +zetaDelta -zeta only

theorem execSwitchAtEnd_ok {pcs : Piece → Prop} {b0 : State} (w : Agent) (l : LaneId) (s : State)
    (hok : Ok pcs b0 s) (hp0 : pcs .regs := by assumption) (hp1 : pcs .lanes := by assumption)
    (hp2 : pcs .pins := by assumption) :
    OkO pcs b0 (execSwitchAtEnd w l s) := by
  delta execSwitchAtEnd
  repeat' first
    | with_reducible assumption | extract_lets | intro _ | with_reducible apply okO_next
    | with_reducible apply okO_ite | with_reducible apply ok_ite | with_reducible apply State.switchWrite_ok
    | split | dsimp +zetaDelta -zeta only

theorem execSwitchNow_ok {pcs : Piece → Prop} {b0 : State} (w : Agent) (l : LaneId) (s : State) (hok : Ok pcs b0 s)
    (hp0 : pcs .regs := by assumption) (hp1 : pcs .lanes := by assumption) (hp2 : pcs .pins := by assumption) :
    OkO pcs b0 (execSwitchNow w l s) := by
  delta execSwitchNow
  repeat' first
    | with_reducible assumption | extract_lets | intro _ | with_reducible apply okO_next
    | with_reducible apply okO_ite | with_reducible apply ok_ite | with_reducible apply State.switchWrite_ok
    | split | dsimp +zetaDelta -zeta only

theorem execSwitchWithdraw_ok {pcs : Piece → Prop} {b0 : State} (w : Agent) (l : LaneId) (s : State)
    (hok : Ok pcs b0 s) (hp0 : pcs .regs := by assumption) (hp1 : pcs .lanes := by assumption)
    (hp2 : pcs .pins := by assumption) :
    OkO pcs b0 (execSwitchWithdraw w l s) := by
  delta execSwitchWithdraw
  repeat' first
    | with_reducible assumption | extract_lets | intro _ | with_reducible apply okO_next
    | with_reducible apply okO_ite | with_reducible apply ok_ite | with_reducible apply State.switchWrite_ok
    | split | dsimp +zetaDelta -zeta only

theorem State.progWrite_ok {pcs : Piece → Prop} {b0 : State} (s : State) (w : Agent) (l : Nat) (k : Nat) (v : Word)
    (hok : Ok pcs b0 s) (hp0 : pcs .regs := by assumption) (hp1 : pcs .lanes := by assumption)
    (hp2 : pcs .pins := by assumption) (hp3 : pcs .poison := by assumption) :
    Ok pcs b0 (State.progWrite s w l k v) := by
  delta State.progWrite
  repeat' first
    | with_reducible assumption | extract_lets | intro _ | with_reducible apply ok_ite
    | with_reducible apply State.pinSettle_ok | with_reducible apply State.setB_ok
    | with_reducible apply State.clampBy_ok | with_reducible apply State.setReg_ok
    | with_reducible apply State.heal_ok | split | dsimp +zetaDelta -zeta only

theorem execPeprogWrite_ok {pcs : Piece → Prop} {b0 : State} (w : Agent) (l : LaneId) (k : Fin 32) (v : Word)
    (s : State) (hok : Ok pcs b0 s) (hp0 : pcs .regs := by assumption) (hp1 : pcs .lanes := by assumption)
    (hp2 : pcs .pins := by assumption) (hp3 : pcs .poison := by assumption) :
    OkO pcs b0 (execPeprogWrite w l k v s) := by
  delta execPeprogWrite
  repeat' first
    | with_reducible assumption | extract_lets | intro _ | with_reducible apply okO_next
    | with_reducible apply okO_ite | with_reducible apply ok_ite | with_reducible apply State.progWrite_ok | split
    | dsimp +zetaDelta -zeta only
end Sys2Proof.Machine
end

