-- ==== Sys2Proof/Laws/OkAccess.lean ====
section
/-! SUPPORT. Register accesses: every operation of Machine/Access.lean keeps the queue and a sane state, and changes no
piece but the ones it names. -/
namespace Sys2Proof.Machine
set_option Elab.async false

theorem State.clampsBy_ok {pcs : Piece → Prop} {b0 : State} (s : State) (w : Agent) (n : Nat) (hok : Ok pcs b0 s)
    (hp0 : pcs .regs := by assumption) :
    Ok pcs b0 (State.clampsBy s w n) := by
  delta State.clampsBy
  repeat' first
    | with_reducible assumption | extract_lets | intro _ | with_reducible apply State.clamp_ok | split
    | dsimp +zetaDelta -zeta only

theorem State.fieldsWrite_ok {pcs : Piece → Prop} {b0 : State} (s : State) (w : Agent) (r : RegRow) (a : Nat)
    (v : Word) (setup : Bool) (hok : Ok pcs b0 s) (hp0 : pcs .regs := by assumption) :
    Ok pcs b0 (State.fieldsWrite s w r a v setup) := by
  delta State.fieldsWrite
  repeat' first
    | with_reducible assumption | extract_lets | intro _ | with_reducible apply ok_ite
    | with_reducible apply State.clampBy_ok | with_reducible apply State.setReg_ok
    | with_reducible apply State.clampsBy_ok | with_reducible apply ok_foldl | with_reducible apply ok2_foldl
    | with_reducible apply ok_foldl2 | with_reducible apply ok_ite2 | with_reducible apply ok1_foldl
    | with_reducible apply ok_foldl1 | with_reducible apply ok_ite1 | split | dsimp +zetaDelta -zeta only

theorem State.plainWrite_ok {pcs : Piece → Prop} {b0 : State} (s : State) (w : Agent) (r : RegRow) (a : Nat)
    (v : Word) (hok : Ok pcs b0 s) (hp0 : pcs .regs := by assumption) :
    Ok pcs b0 (State.plainWrite s w r a v) := by
  delta State.plainWrite
  repeat' first
    | with_reducible assumption | extract_lets | intro _ | with_reducible apply State.fieldsWrite_ok | split
    | dsimp +zetaDelta -zeta only

theorem State.timedBy_ok {pcs : Piece → Prop} {b0 : State} (s : State) (w : Agent) (l : Nat) (a : Nat)
    (hok : Ok pcs b0 s) (hp0 : pcs .lanes := by assumption) :
    Ok pcs b0 (State.timedBy s w l a) := by
  delta State.timedBy
  repeat' first
    | with_reducible assumption | extract_lets | intro _ | with_reducible apply State.modLane_ok | split
    | dsimp +zetaDelta -zeta only

theorem State.timingWrite_ok {pcs : Piece → Prop} {b0 : State} (s : State) (w : Agent) (l : Nat) (nom : Bool)
    (a : Nat) (v : Word) (c : Word → Word × Nat) (hok : Ok pcs b0 s) (hp0 : pcs .regs := by assumption)
    (hp1 : pcs .lanes := by assumption) :
    Ok pcs b0 (State.timingWrite s w l nom a v c) := by
  delta State.timingWrite
  repeat' first
    | with_reducible assumption | extract_lets | intro _ | with_reducible apply ok_ite
    | with_reducible apply State.setReg_ok | with_reducible apply State.clampsBy_ok
    | with_reducible apply State.timedBy_ok | with_reducible apply State.clampBy_ok | split
    | dsimp +zetaDelta -zeta only

theorem State.xlcfgWrite_ok {pcs : Piece → Prop} {b0 : State} (s : State) (w : Agent) (l : Nat) (r : RegRow)
    (a : Nat) (v : Word) (hok : Ok pcs b0 s) (hp0 : pcs .free := by assumption) (hp1 : pcs .regs := by assumption)
    (hp2 : pcs .lanes := by assumption) :
    Ok pcs b0 (State.xlcfgWrite s w l r a v) := by
  delta State.xlcfgWrite
  repeat' first
    | with_reducible assumption | extract_lets | intro _ | with_reducible apply ok_ite
    | with_reducible apply State.setReg_ok | with_reducible apply State.pwmClamp_ok
    | with_reducible apply State.pwmClamp_ok' | with_reducible apply State.clampsBy_ok
    | with_reducible apply State.timedBy_ok | with_reducible apply State.clampBy_ok
    | (refine ok1_eq (by with_reducible assumption) ?_) | split | dsimp +zetaDelta -zeta only

theorem State.fltcfgWrite_ok {pcs : Piece → Prop} {b0 : State} (s : State) (w : Agent) (l : Nat) (v : Word)
    (hok : Ok pcs b0 s) (hp0 : pcs .regs := by assumption) (hp1 : pcs .lanes := by assumption)
    (hp2 : pcs .filters := by assumption) :
    Ok pcs b0 (State.fltcfgWrite s w l v) := by
  delta State.fltcfgWrite
  repeat' first
    | with_reducible assumption | extract_lets | intro _ | with_reducible apply ok_ite
    | with_reducible apply State.setF_ok | with_reducible apply State.clampsBy_ok
    | with_reducible apply State.fltEmpty_ok | with_reducible apply State.clampBy_ok | split
    | dsimp +zetaDelta -zeta only

theorem State.pebankWrite_ok {pcs : Piece → Prop} {b0 : State} (s : State) (w : Agent) (l : Nat) (r : RegRow)
    (a : Nat) (v : Word) (hok : Ok pcs b0 s) (hp0 : pcs .regs := by assumption) (hp1 : pcs .lanes := by assumption)
    (hp2 : pcs .pins := by assumption) :
    Ok pcs b0 (State.pebankWrite s w l r a v) := by
  delta State.pebankWrite
  repeat' first
    | with_reducible assumption | extract_lets | intro _ | with_reducible apply ok_ite
    | with_reducible apply State.pinSettle_ok | with_reducible apply State.fieldsWrite_ok
    | with_reducible apply State.switchWrite_ok | with_reducible apply State.clampBy_ok | split
    | dsimp +zetaDelta -zeta only

theorem State.laneWrite_ok {pcs : Piece → Prop} {b0 : State} (s : State) (w : Agent) (r : RegRow) (a : Nat)
    (v : Word) (hok : Ok pcs b0 s) (hp0 : pcs .free := by assumption) (hp1 : pcs .regs := by assumption)
    (hp2 : pcs .lanes := by assumption) (hp3 : pcs .pins := by assumption) (hp4 : pcs .filters := by assumption)
    (hp5 : pcs .poison := by assumption) :
    Ok pcs b0 (State.laneWrite s w r a v) := by
  delta State.laneWrite
  repeat' first
    | with_reducible assumption | extract_lets | intro _ | with_reducible apply ok_ite
    | with_reducible apply State.timingWrite_ok | with_reducible apply State.xlcfgWrite_ok
    | with_reducible apply State.plainWrite_ok | with_reducible apply State.fieldsWrite_ok
    | with_reducible apply State.keepCorr_ok | with_reducible apply State.vlogClear_ok
    | with_reducible apply State.clampBy_ok | with_reducible apply State.fltcfgWrite_ok
    | with_reducible apply State.pebankWrite_ok | with_reducible apply State.pinSettle_ok
    | with_reducible apply State.progWrite_ok | split | dsimp +zetaDelta -zeta only

theorem State.quadCtrlWrite_ok {pcs : Piece → Prop} {b0 : State} (s : State) (w : Agent) (q : Nat) (v : Word)
    (hok : Ok pcs b0 s) (hp0 : pcs .regs := by assumption) (hp1 : pcs .mem := by assumption)
    (hp2 : pcs .objs := by assumption) (hp3 : pcs .filters := by assumption) (hp4 : pcs .poison := by assumption) :
    Ok pcs b0 (State.quadCtrlWrite s w q v) := by
  delta State.quadCtrlWrite
  repeat' first
    | with_reducible assumption | extract_lets | intro _ | with_reducible apply ok_ite
    | with_reducible apply State.gateWrite_ok | with_reducible apply State.modeWrite_ok
    | with_reducible apply State.clampBy_ok | split | dsimp +zetaDelta -zeta only

theorem State.reserveWrite_ok {pcs : Piece → Prop} {b0 : State} (s : State) (w : Agent) (p : Nat) (v : Word)
    (hok : Ok pcs b0 s) (hp0 : pcs .regs := by assumption) (hp1 : pcs .firn := by assumption)
    (hp2 : pcs .irq := by assumption) :
    Ok pcs b0 (State.reserveWrite s w p v) := by
  delta State.reserveWrite
  repeat' first
    | with_reducible assumption | extract_lets | intro _ | with_reducible apply ok_ite
    | with_reducible apply State.setF_ok | with_reducible apply State.clampsBy_ok
    | with_reducible apply State.checkLow_ok | with_reducible apply State.clampBy_ok | split
    | dsimp +zetaDelta -zeta only

theorem State.profClamp_ok {pcs : Piece → Prop} {b0 : State} (x : State × Nat) (f : Fld) (lo : Nat) (hi : Nat)
    (hokx : Ok1 pcs b0 x) (hp0 : pcs .regs := by assumption) :
    Ok1 pcs b0 (State.profClamp x f lo hi) :=
  ok_ite hokx (State.setF_ok _ _ _ hokx)

theorem State.profClamp_ok' {pcs : Piece → Prop} {b0 : State} (x : State × Nat) (f : Fld) (lo : Nat) (hi : Nat)
    (hokx : Ok1 pcs b0 x) (hp0 : pcs .regs := by assumption) :
    Ok pcs b0 (State.profClamp x f lo hi).1 := State.profClamp_ok x f lo hi hokx hp0

theorem State.profClamps_ok {pcs : Piece → Prop} {b0 : State} (s : State) (i : Nat) (hok : Ok pcs b0 s)
    (hp0 : pcs .regs := by assumption) :
    Ok1 pcs b0 (State.profClamps s i) := by
  delta State.profClamps
  repeat' first
    | with_reducible assumption | extract_lets | intro _ | with_reducible apply ok1_ite
    | with_reducible apply State.profClamp_ok | with_reducible apply State.profClamp_ok'
    | (refine ok1_eq (by with_reducible assumption) ?_) | split | with_reducible apply ok1_mk
    | dsimp +zetaDelta -zeta only

theorem State.profClamps_ok' {pcs : Piece → Prop} {b0 : State} (s : State) (i : Nat) (hok : Ok pcs b0 s)
    (hp0 : pcs .regs := by assumption) :
    Ok pcs b0 (State.profClamps s i).1 := State.profClamps_ok s i hok hp0

theorem State.profWrite_ok {pcs : Piece → Prop} {b0 : State} (s : State) (w : Agent) (i : Nat) (a : Nat) (v : Word)
    (hok : Ok pcs b0 s) (hp0 : pcs .regs := by assumption) :
    Ok pcs b0 (State.profWrite s w i a v) := by
  delta State.profWrite
  repeat' first
    | with_reducible assumption | extract_lets | intro _ | with_reducible apply ok_ite
    | with_reducible apply State.setReg_ok | with_reducible apply State.profClamps_ok
    | with_reducible apply State.profClamps_ok' | with_reducible apply State.clampsBy_ok
    | with_reducible apply State.clampBy_ok | (refine ok1_eq (by with_reducible assumption) ?_) | split
    | dsimp +zetaDelta -zeta only

theorem State.loadedWrite_ok {pcs : Piece → Prop} {b0 : State} (s : State) (w : Agent) (r : RegRow) (a : Nat)
    (v : Word) (hok : Ok pcs b0 s) (hp0 : pcs .regs := by assumption) :
    Ok pcs b0 (State.loadedWrite s w r a v) := by
  delta State.loadedWrite
  repeat' first
    | with_reducible assumption | extract_lets | intro _ | with_reducible apply State.clamp_ok
    | with_reducible apply State.setReg_ok | split | dsimp +zetaDelta -zeta only

theorem State.fabricWrite_ok {pcs : Piece → Prop} {b0 : State} (s : State) (w : Agent) (r : RegRow) (a : Nat)
    (v : Word) (hok : Ok pcs b0 s) (hp0 : pcs .regs := by assumption) (hp1 : pcs .mem := by assumption)
    (hp2 : pcs .objs := by assumption) (hp3 : pcs .filters := by assumption) (hp4 : pcs .firn := by assumption)
    (hp5 : pcs .irq := by assumption) (hp6 : pcs .poison := by assumption) :
    Ok pcs b0 (State.fabricWrite s w r a v) := by
  delta State.fabricWrite
  repeat' first
    | with_reducible assumption | extract_lets | intro _ | with_reducible apply ok_ite
    | with_reducible apply State.quadCtrlWrite_ok | with_reducible apply State.loadedWrite_ok
    | with_reducible apply State.clampBy_ok | with_reducible apply State.plainWrite_ok
    | with_reducible apply State.checkLow_ok | with_reducible apply State.reserveWrite_ok
    | with_reducible apply State.profWrite_ok | split | dsimp +zetaDelta -zeta only

theorem State.doorbellWrite_ok {pcs : Piece → Prop} {b0 : State} (s : State) (w : Agent) (v : Word)
    (hok : Ok pcs b0 s) (hp0 : pcs .regs := by assumption) (hp1 : pcs .irq := by assumption) :
    Ok pcs b0 (State.doorbellWrite s w v) := by
  delta State.doorbellWrite
  repeat' first
    | with_reducible assumption | extract_lets | intro _ | with_reducible apply ok_ite
    | with_reducible apply State.clamp_ok | with_reducible apply State.raise_ok | split
    | dsimp +zetaDelta -zeta only

theorem State.completeWrite_ok {pcs : Piece → Prop} {b0 : State} (s : State) (w : Agent) (t : Nat) (v : Word)
    (hok : Ok pcs b0 s) (hp0 : pcs .regs := by assumption) (hp1 : pcs .irq := by assumption) :
    Ok pcs b0 (State.completeWrite s w t v) := by
  delta State.completeWrite
  repeat' first
    | with_reducible assumption | extract_lets | intro _ | with_reducible apply ok_ite
    | with_reducible apply State.complete_ok | with_reducible apply State.complete_ok'
    | with_reducible apply State.clampBy_ok | (refine ok2_eq (by with_reducible assumption) ?_) | split
    | dsimp +zetaDelta -zeta only

theorem State.idleWrite_ok {pcs : Piece → Prop} {b0 : State} (s : State) (w : Agent) (t : Nat) (b : Bool)
    (hok : Ok pcs b0 s) (hp0 : pcs .regs := by assumption) (hp1 : pcs .irq := by assumption) :
    Ok pcs b0 (State.idleWrite s w t b) := by
  delta State.idleWrite
  repeat' first
    | with_reducible assumption | extract_lets | intro _ | with_reducible apply ok_ite
    | with_reducible apply State.clampBy_ok | with_reducible apply State.modTgt_ok | split
    | dsimp +zetaDelta -zeta only

theorem State.cirqueWrite_ok {pcs : Piece → Prop} {b0 : State} (s : State) (w : Agent) (r : RegRow) (a : Nat)
    (v : Word) (hok : Ok pcs b0 s) (hp0 : pcs .regs := by assumption) (hp1 : pcs .irq := by assumption) :
    Ok pcs b0 (State.cirqueWrite s w r a v) := by
  delta State.cirqueWrite
  repeat' first
    | with_reducible assumption | extract_lets | intro _ | with_reducible apply ok_ite
    | with_reducible apply State.doorbellWrite_ok | with_reducible apply State.srcWrite_ok
    | with_reducible apply State.completeWrite_ok | with_reducible apply State.idleWrite_ok
    | with_reducible apply State.plainWrite_ok | with_reducible apply State.clampBy_ok | split
    | dsimp +zetaDelta -zeta only

theorem State.causeWrite_ok {pcs : Piece → Prop} {b0 : State} (s : State) (w : Agent) (r : RegRow) (a : Nat)
    (v : Word) (hok : Ok pcs b0 s) (hp0 : pcs .regs := by assumption) :
    Ok pcs b0 (State.causeWrite s w r a v) := by
  delta State.causeWrite
  repeat' first
    | with_reducible assumption | extract_lets | intro _ | with_reducible apply ok_ite
    | with_reducible apply State.plainWrite_ok | with_reducible apply State.setF_ok | with_reducible apply ok_foldl
    | with_reducible apply ok2_foldl | with_reducible apply ok_foldl2 | with_reducible apply ok_ite2
    | with_reducible apply ok1_foldl | with_reducible apply ok_foldl1 | with_reducible apply ok_ite1 | split
    | dsimp +zetaDelta -zeta only

theorem State.tbWrite_ok {pcs : Piece → Prop} {b0 : State} (s : State) (w : Agent) (r : RegRow) (a : Nat) (v : Word)
    (hok : Ok pcs b0 s) (hp0 : pcs .time := by assumption) (hp1 : pcs .regs := by assumption) :
    Ok pcs b0 (State.tbWrite s w r a v) := by
  delta State.tbWrite
  repeat' first
    | with_reducible assumption | extract_lets | intro _ | with_reducible apply ok_ite
    | with_reducible apply State.slewWrite_ok | with_reducible apply State.plainWrite_ok
    | with_reducible apply State.tbSetWrite_ok | with_reducible apply State.setF_ok
    | with_reducible apply State.clampBy_ok | with_reducible apply State.setB_ok
    | with_reducible apply State.setBd_ok | split | dsimp +zetaDelta -zeta only

theorem State.morWrite_ok {pcs : Piece → Prop} {b0 : State} (s : State) (w : Agent) (r : RegRow) (a : Nat)
    (v : Word) (hok : Ok pcs b0 s) (hp0 : pcs .regs := by assumption) (hp1 : pcs .mor := by assumption) :
    Ok pcs b0 (State.morWrite s w r a v) := by
  delta State.morWrite
  repeat' first
    | with_reducible assumption | extract_lets | intro _ | with_reducible apply ok_ite
    | with_reducible apply State.hheadWrite_ok | with_reducible apply State.plainWrite_ok
    | with_reducible apply State.dringFit_ok | with_reducible apply State.clampBy_ok | split
    | dsimp +zetaDelta -zeta only

theorem State.engWrite_ok {pcs : Piece → Prop} {b0 : State} (s : State) (w : Agent) (r : RegRow) (a : Nat)
    (v : Word) (hok : Ok pcs b0 s) (hp0 : pcs .regs := by assumption) :
    Ok pcs b0 (State.engWrite s w r a v) := by
  delta State.engWrite
  repeat' first
    | with_reducible assumption | extract_lets | intro _ | with_reducible apply ok_ite
    | with_reducible apply State.setReg_ok | with_reducible apply State.clampBy_ok
    | with_reducible apply State.plainWrite_ok | split | dsimp +zetaDelta -zeta only

theorem State.actionWrite_ok {pcs : Piece → Prop} {b0 : State} (s : State) (w : Agent) (v : Word)
    (hok : Ok pcs b0 s) (hp0 : pcs .free := by assumption) (hp1 : pcs .time := by assumption)
    (hp2 : pcs .regs := by assumption) (hp3 : pcs .mem := by assumption) (hp4 : pcs .host := by assumption)
    (hp5 : pcs .lanes := by assumption) (hp6 : pcs .pins := by assumption) (hp7 : pcs .tx := by assumption)
    (hp8 : pcs .objs := by assumption) (hp9 : pcs .filters := by assumption) (hp10 : pcs .routes := by assumption)
    (hp11 : pcs .col := by assumption) (hp12 : pcs .firn := by assumption) (hp13 : pcs .rings := by assumption)
    (hp14 : pcs .irq := by assumption) (hp15 : pcs .mor := by assumption) (hp16 : pcs .stack := by assumption)
    (hp17 : pcs .eths := by assumption) (hp18 : pcs .snow := by assumption) (hp19 : pcs .power := by assumption)
    (hp20 : pcs .boot := by assumption) (hp21 : pcs .poison := by assumption) (hp22 : pcs .engs := by assumption) :
    Ok pcs b0 (State.actionWrite s w v) := by
  delta State.actionWrite
  repeat' first
    | with_reducible assumption | extract_lets | intro _ | with_reducible apply ok_ite
    | with_reducible apply State.keyReset_ok | with_reducible apply State.keyStandby_ok
    | with_reducible apply State.clampBy_ok | split | dsimp +zetaDelta -zeta only

theorem State.resumeKeep_ok {pcs : Piece → Prop} {b0 : State} (s : State) (hok : Ok pcs b0 s)
    (hp0 : pcs .mem := by assumption) :
    Ok pcs b0 (State.resumeKeep s) := by
  delta State.resumeKeep
  repeat' first
    | with_reducible assumption | extract_lets | intro _ | with_reducible apply ok_ite
    | with_reducible apply State.wrBytes_ok | split | dsimp +zetaDelta -zeta only

theorem State.glbWrite_ok {pcs : Piece → Prop} {b0 : State} (s : State) (w : Agent) (r : RegRow) (a : Nat)
    (v : Word) (hok : Ok pcs b0 s) (hp0 : pcs .free := by assumption) (hp1 : pcs .time := by assumption)
    (hp2 : pcs .regs := by assumption) (hp3 : pcs .mem := by assumption) (hp4 : pcs .host := by assumption)
    (hp5 : pcs .lanes := by assumption) (hp6 : pcs .pins := by assumption) (hp7 : pcs .tx := by assumption)
    (hp8 : pcs .objs := by assumption) (hp9 : pcs .filters := by assumption) (hp10 : pcs .routes := by assumption)
    (hp11 : pcs .col := by assumption) (hp12 : pcs .firn := by assumption) (hp13 : pcs .rings := by assumption)
    (hp14 : pcs .irq := by assumption) (hp15 : pcs .mor := by assumption) (hp16 : pcs .stack := by assumption)
    (hp17 : pcs .eths := by assumption) (hp18 : pcs .snow := by assumption) (hp19 : pcs .power := by assumption)
    (hp20 : pcs .boot := by assumption) (hp21 : pcs .poison := by assumption) (hp22 : pcs .engs := by assumption) :
    Ok pcs b0 (State.glbWrite s w r a v) := by
  delta State.glbWrite
  repeat' first
    | with_reducible assumption | extract_lets | intro _ | with_reducible apply ok_ite
    | with_reducible apply State.actionWrite_ok | with_reducible apply State.bootLenWrite_ok
    | with_reducible apply State.plainWrite_ok | with_reducible apply State.clamp_ok
    | with_reducible apply State.resumeKeep_ok | with_reducible apply State.dringFit_ok
    | with_reducible apply State.modBoot_ok | split | dsimp +zetaDelta -zeta only

theorem State.regWrite_ok {pcs : Piece → Prop} {b0 : State} (s : State) (w : Agent) (r : RegRow) (a : Nat)
    (v : Word) (hok : Ok pcs b0 s) (hp0 : pcs .free := by assumption) (hp1 : pcs .time := by assumption)
    (hp2 : pcs .regs := by assumption) (hp3 : pcs .mem := by assumption) (hp4 : pcs .host := by assumption)
    (hp5 : pcs .lanes := by assumption) (hp6 : pcs .pins := by assumption) (hp7 : pcs .tx := by assumption)
    (hp8 : pcs .objs := by assumption) (hp9 : pcs .filters := by assumption) (hp10 : pcs .routes := by assumption)
    (hp11 : pcs .col := by assumption) (hp12 : pcs .firn := by assumption) (hp13 : pcs .rings := by assumption)
    (hp14 : pcs .irq := by assumption) (hp15 : pcs .mor := by assumption) (hp16 : pcs .stack := by assumption)
    (hp17 : pcs .eths := by assumption) (hp18 : pcs .snow := by assumption) (hp19 : pcs .power := by assumption)
    (hp20 : pcs .boot := by assumption) (hp21 : pcs .poison := by assumption) (hp22 : pcs .engs := by assumption) :
    Ok pcs b0 (State.regWrite s w r a v) := by
  delta State.regWrite
  repeat' first
    | with_reducible assumption | extract_lets | intro _ | with_reducible apply ok_ite
    | with_reducible apply State.glbWrite_ok | with_reducible apply State.cirqueWrite_ok
    | with_reducible apply State.tbWrite_ok | with_reducible apply State.fabricWrite_ok
    | with_reducible apply State.morWrite_ok | with_reducible apply State.setReg_ok
    | with_reducible apply State.plainWrite_ok | with_reducible apply State.causeWrite_ok
    | with_reducible apply State.laneWrite_ok | with_reducible apply State.engWrite_ok | split
    | dsimp +zetaDelta -zeta only

theorem State.keepStale_ok {pcs : Piece → Prop} {b0 : State} (s : State) (e : Nat) (k : Nat) (hok : Ok pcs b0 s)
    (hp0 : pcs .engs := by assumption) :
    Ok pcs b0 (State.keepStale s e k) := by
  unfold State.keepStale
  exact State.modEng_ok _ _ _ hok fun _ h => by exact h.of rfl rfl

theorem State.engStore_ok {pcs : Piece → Prop} {b0 : State} (s : State) (e : Nat) (own : Bool) (d : Bool) (o : Nat)
    (a : Nat) (v : Word) (hok : Ok pcs b0 s) (hp0 : pcs .mem := by assumption) (hp1 : pcs .poison := by assumption)
    (hp2 : pcs .engs := by assumption) :
    Ok pcs b0 (State.engStore s e own d o a v) :=
  State.heal_ok _ _ _ _ (State.wr32_ok _ _ _ (ok_ite hok (ok_ite (State.keepStale_ok _ _ _ hok)
    (State.modEng_ok _ _ _ hok fun _ h => by exact h.of rfl rfl))))

theorem State.busWrite_ok {pcs : Piece → Prop} {b0 : State} (s : State) (w : Agent) (a : Nat) (v : Word)
    (hok : Ok pcs b0 s) (hp0 : pcs .free := by assumption) (hp1 : pcs .time := by assumption)
    (hp2 : pcs .regs := by assumption) (hp3 : pcs .mem := by assumption) (hp4 : pcs .host := by assumption)
    (hp5 : pcs .lanes := by assumption) (hp6 : pcs .pins := by assumption) (hp7 : pcs .tx := by assumption)
    (hp8 : pcs .objs := by assumption) (hp9 : pcs .filters := by assumption) (hp10 : pcs .routes := by assumption)
    (hp11 : pcs .col := by assumption) (hp12 : pcs .firn := by assumption) (hp13 : pcs .rings := by assumption)
    (hp14 : pcs .irq := by assumption) (hp15 : pcs .mor := by assumption) (hp16 : pcs .stack := by assumption)
    (hp17 : pcs .eths := by assumption) (hp18 : pcs .snow := by assumption) (hp19 : pcs .power := by assumption)
    (hp20 : pcs .boot := by assumption) (hp21 : pcs .poison := by assumption) (hp22 : pcs .engs := by assumption) :
    Ok pcs b0 (State.busWrite s w a v) := by
  delta State.busWrite
  repeat' first
    | with_reducible assumption | extract_lets | intro _ | with_reducible apply ok_ite
    | with_reducible apply State.engStore_ok | with_reducible apply State.clamp_ok
    | with_reducible apply State.wr32_ok | with_reducible apply State.heal_ok
    | with_reducible apply State.regWrite_ok | split | dsimp +zetaDelta -zeta only

theorem State.pinLevel_ok {pcs : Piece → Prop} {b0 : State} (s : State) (b : Nat) (hok : Ok pcs b0 s)
    (hp0 : pcs .free := by assumption) (hp1 : pcs .snow := by assumption) :
    Ok2 pcs b0 (State.pinLevel s b) := by
  delta State.pinLevel
  repeat' first
    | with_reducible assumption | extract_lets | intro _ | with_reducible apply ok2_ite
    | with_reducible apply State.drawWord_ok | with_reducible apply State.drawWord_ok'
    | with_reducible apply State.setLevel_ok | (refine ok2_eq (by with_reducible assumption) ?_) | split
    | with_reducible apply ok2_mk | dsimp +zetaDelta -zeta only

theorem State.pinLevel_ok' {pcs : Piece → Prop} {b0 : State} (s : State) (b : Nat) (hok : Ok pcs b0 s)
    (hp0 : pcs .free := by assumption) (hp1 : pcs .snow := by assumption) :
    Ok pcs b0 (State.pinLevel s b).2 := State.pinLevel_ok s b hok hp0 hp1

theorem State.regRead_ok {pcs : Piece → Prop} {b0 : State} (s : State) (w : Agent) (r : RegRow) (a : Nat)
    (hok : Ok pcs b0 s) (hp0 : pcs .free := by assumption) (hp1 : pcs .time := by assumption)
    (hp2 : pcs .regs := by assumption) (hp3 : pcs .irq := by assumption) (hp4 : pcs .snow := by assumption) :
    Ok2 pcs b0 (State.regRead s w r a) := by
  delta State.regRead
  repeat' first
    | with_reducible assumption | extract_lets | intro _ | with_reducible apply ok2_ite
    | with_reducible apply ok_ite | with_reducible apply State.claim_ok | with_reducible apply State.claim_ok'
    | with_reducible apply State.tbCapture_ok | with_reducible apply State.pinLevel_ok
    | with_reducible apply State.pinLevel_ok' | with_reducible apply State.setReg_ok
    | with_reducible apply State.setF_ok | (refine ok2_eq (by with_reducible assumption) ?_)
    | exact ok2_snd (by with_reducible assumption) | with_reducible apply ok_foldl | with_reducible apply ok2_foldl
    | with_reducible apply ok_foldl2 | with_reducible apply ok_ite2 | with_reducible apply ok1_foldl
    | with_reducible apply ok_foldl1 | with_reducible apply ok_ite1 | split | with_reducible apply ok2_mk
    | dsimp +zetaDelta -zeta only

theorem State.regRead_ok' {pcs : Piece → Prop} {b0 : State} (s : State) (w : Agent) (r : RegRow) (a : Nat)
    (hok : Ok pcs b0 s) (hp0 : pcs .free := by assumption) (hp1 : pcs .time := by assumption)
    (hp2 : pcs .regs := by assumption) (hp3 : pcs .irq := by assumption) (hp4 : pcs .snow := by assumption) :
    Ok pcs b0 (State.regRead s w r a).2 := State.regRead_ok s w r a hok hp0 hp1 hp2 hp3 hp4

theorem State.busRead_ok {pcs : Piece → Prop} {b0 : State} (s : State) (w : Agent) (a : Nat) (hok : Ok pcs b0 s)
    (hp0 : pcs .free := by assumption) (hp1 : pcs .time := by assumption) (hp2 : pcs .regs := by assumption)
    (hp3 : pcs .lanes := by assumption) (hp4 : pcs .pins := by assumption) (hp5 : pcs .irq := by assumption)
    (hp6 : pcs .snow := by assumption) :
    Ok2 pcs b0 (State.busRead s w a) := by
  delta State.busRead
  repeat' first
    | with_reducible assumption | extract_lets | intro _ | with_reducible apply ok2_ite
    | with_reducible apply ok_ite | with_reducible apply State.drawWord_ok
    | with_reducible apply State.drawWord_ok' | with_reducible apply State.pinSettle_ok
    | with_reducible apply State.regRead_ok | with_reducible apply State.regRead_ok'
    | (refine ok2_eq (by with_reducible assumption) ?_) | split | with_reducible apply ok2_mk
    | dsimp +zetaDelta -zeta only

theorem State.busRead_ok' {pcs : Piece → Prop} {b0 : State} (s : State) (w : Agent) (a : Nat) (hok : Ok pcs b0 s)
    (hp0 : pcs .free := by assumption) (hp1 : pcs .time := by assumption) (hp2 : pcs .regs := by assumption)
    (hp3 : pcs .lanes := by assumption) (hp4 : pcs .pins := by assumption) (hp5 : pcs .irq := by assumption)
    (hp6 : pcs .snow := by assumption) :
    Ok pcs b0 (State.busRead s w a).2 := State.busRead_ok s w a hok hp0 hp1 hp2 hp3 hp4 hp5 hp6

theorem execRegisterWrite_ok {pcs : Piece → Prop} {b0 : State} (w : Agent) (a : WordIx) (v : Word) (be : BitVec 4)
    (s : State) (hok : Ok pcs b0 s) (hp0 : pcs .free := by assumption) (hp1 : pcs .time := by assumption)
    (hp2 : pcs .regs := by assumption) (hp3 : pcs .mem := by assumption) (hp4 : pcs .host := by assumption)
    (hp5 : pcs .lanes := by assumption) (hp6 : pcs .pins := by assumption) (hp7 : pcs .tx := by assumption)
    (hp8 : pcs .objs := by assumption) (hp9 : pcs .filters := by assumption) (hp10 : pcs .routes := by assumption)
    (hp11 : pcs .col := by assumption) (hp12 : pcs .firn := by assumption) (hp13 : pcs .rings := by assumption)
    (hp14 : pcs .irq := by assumption) (hp15 : pcs .mor := by assumption) (hp16 : pcs .stack := by assumption)
    (hp17 : pcs .eths := by assumption) (hp18 : pcs .snow := by assumption) (hp19 : pcs .power := by assumption)
    (hp20 : pcs .boot := by assumption) (hp21 : pcs .poison := by assumption) (hp22 : pcs .engs := by assumption) :
    OkO pcs b0 (execRegisterWrite w a v be s) := by
  delta execRegisterWrite
  repeat' first
    | with_reducible assumption | extract_lets | intro _ | with_reducible apply okO_next
    | with_reducible apply okO_ite | with_reducible apply ok_ite | with_reducible apply State.busWrite_ok
    | with_reducible apply State.clampBy_ok | split | dsimp +zetaDelta -zeta only

theorem State.readAt_ok {pcs : Piece → Prop} {b0 : State} (s : State) (r : Agent) (a : ReadAt) (hok : Ok pcs b0 s)
    (hp0 : pcs .free := by assumption) (hp1 : pcs .time := by assumption) (hp2 : pcs .regs := by assumption)
    (hp3 : pcs .lanes := by assumption) (hp4 : pcs .pins := by assumption) (hp5 : pcs .irq := by assumption)
    (hp6 : pcs .snow := by assumption) :
    Ok2 pcs b0 (State.readAt s r a) := by
  delta State.readAt
  repeat' first
    | with_reducible assumption | extract_lets | intro _ | with_reducible apply ok2_ite
    | with_reducible apply ok_ite | with_reducible apply State.busRead_ok | with_reducible apply State.busRead_ok'
    | (refine ok2_eq (by with_reducible assumption) ?_) | split | with_reducible apply ok2_mk
    | dsimp +zetaDelta -zeta only

theorem State.readAt_ok' {pcs : Piece → Prop} {b0 : State} (s : State) (r : Agent) (a : ReadAt) (hok : Ok pcs b0 s)
    (hp0 : pcs .free := by assumption) (hp1 : pcs .time := by assumption) (hp2 : pcs .regs := by assumption)
    (hp3 : pcs .lanes := by assumption) (hp4 : pcs .pins := by assumption) (hp5 : pcs .irq := by assumption)
    (hp6 : pcs .snow := by assumption) :
    Ok pcs b0 (State.readAt s r a).2 := State.readAt_ok s r a hok hp0 hp1 hp2 hp3 hp4 hp5 hp6

theorem execRcFieldRead_ok {pcs : Piece → Prop} {b0 : State} (r : Agent) (a : ReadAt) (s : State)
    (hok : Ok pcs b0 s) (hp0 : pcs .free := by assumption) (hp1 : pcs .time := by assumption)
    (hp2 : pcs .regs := by assumption) (hp3 : pcs .lanes := by assumption) (hp4 : pcs .pins := by assumption)
    (hp5 : pcs .irq := by assumption) (hp6 : pcs .snow := by assumption) :
    OkO pcs b0 (execRcFieldRead r a s) := by
  delta execRcFieldRead
  repeat' first
    | with_reducible assumption | extract_lets | intro _ | with_reducible apply okO_next
    | with_reducible apply okO_ite | with_reducible apply ok_ite | with_reducible apply State.readAt_ok
    | with_reducible apply State.readAt_ok' | with_reducible apply State.withReadData_ok
    | (refine ok2_eq (by with_reducible assumption) ?_) | split | dsimp +zetaDelta -zeta only
end Sys2Proof.Machine
end

