-- ==== Sys2Proof/Laws/OkOperands.lean ====
section
/-! SUPPORT. The engine operand forms: every operation of Machine/Operands.lean keeps the queue and a sane state, and changes no
piece but the ones it names. -/
namespace Sys2Proof.Machine
set_option Elab.async false

theorem State.storeNat_ok {pcs : Piece → Prop} {b0 : State} (s : State) (e : Nat) (k : Nat) (n : Nat) (v : Nat)
    (hok : Ok pcs b0 s) (hp0 : pcs .mem := by assumption) :
    Ok pcs b0 (State.storeNat s e k n v) := by
  delta State.storeNat
  repeat' first
    | with_reducible assumption | extract_lets | intro _ | with_reducible apply ok_ite
    | with_reducible apply State.wrBytes_ok | with_reducible apply State.wr32_ok | split
    | dsimp +zetaDelta -zeta only

theorem State.engLoad_ok {pcs : Piece → Prop} {b0 : State} (s : State) (e a sz : Nat) (r : Word × Nat × State)
    (hok : Ok pcs b0 s) (h : s.engLoad e a sz = .ok r) (hp0 : pcs .free := by assumption)
    (hp1 : pcs .time := by assumption) (hp2 : pcs .regs := by assumption) (hp3 : pcs .lanes := by assumption)
    (hp4 : pcs .pins := by assumption) (hp5 : pcs .irq := by assumption) (hp6 : pcs .snow := by assumption) :
    Ok pcs b0 r.2.2 := by
  unfold State.engLoad at h
  split at h
  · cases h
  split at h
  · cases h
  split at h
  · split at h
    · split at h
      · cases h; exact State.busRead_ok' _ _ _ hok
      · cases h
    · cases h
  · split at h <;> cases h <;> exact hok


theorem State.engPut_ok {pcs : Piece → Prop} {b0 : State} (s : State) (e a sz : Nat) (v : Word) (r : Nat × State)
    (hok : Ok pcs b0 s) (h : s.engPut e a sz v = .ok r) (hp0 : pcs .free := by assumption)
    (hp1 : pcs .time := by assumption) (hp2 : pcs .regs := by assumption) (hp3 : pcs .mem := by assumption)
    (hp4 : pcs .host := by assumption) (hp5 : pcs .lanes := by assumption) (hp6 : pcs .pins := by assumption)
    (hp7 : pcs .tx := by assumption) (hp8 : pcs .objs := by assumption) (hp9 : pcs .filters := by assumption)
    (hp10 : pcs .routes := by assumption) (hp11 : pcs .col := by assumption) (hp12 : pcs .firn := by assumption)
    (hp13 : pcs .rings := by assumption) (hp14 : pcs .irq := by assumption) (hp15 : pcs .mor := by assumption)
    (hp16 : pcs .stack := by assumption) (hp17 : pcs .eths := by assumption) (hp18 : pcs .snow := by assumption)
    (hp19 : pcs .power := by assumption) (hp20 : pcs .boot := by assumption) (hp21 : pcs .poison := by assumption)
    (hp22 : pcs .engs := by assumption) :
    Ok pcs b0 r.2 := by
  unfold State.engPut at h
  split at h
  · cases h
  split at h
  · split at h
    · cases h; exact State.busWrite_ok _ _ _ _ hok
    · cases h
  · cases h
  · split at h
    · cases h; exact hok
    · dsimp only at h
      have hk : ∀ p : Place, Ok pcs b0 (match p with | .own false o => s.keepStale e (o / 4) | _ => s) := fun p => by
        split
        · exact State.keepStale_ok _ _ _ hok
        · exact hok
      injection h with h
      subst h
      dsimp only
      split
      · exact State.heal_ok _ _ _ _ (State.storeNat_ok _ _ _ _ _ (hk _))
      · exact State.storeNat_ok _ _ _ _ _ (hk _)


theorem State.msPush_ok {pcs : Piece → Prop} {b0 : State} (s : State) (e : Nat) (v : Word) (hok : Ok pcs b0 s)
    (hp0 : pcs .regs := by assumption) (hp1 : pcs .mem := by assumption) (hp2 : pcs .poison := by assumption) :
    Ok pcs b0 (State.msPush s e v) := by
  delta State.msPush
  repeat' first
    | with_reducible assumption | extract_lets | intro _ | with_reducible apply State.wr32_ok
    | with_reducible apply State.heal_ok | with_reducible apply State.setMsp_ok | split
    | dsimp +zetaDelta -zeta only

theorem State.msPop_ok {pcs : Piece → Prop} {b0 : State} (s : State) (e : Nat) (hok : Ok pcs b0 s)
    (hp0 : pcs .regs := by assumption) :
    Ok2 pcs b0 (State.msPop s e) := by
  delta State.msPop
  repeat' first
    | with_reducible assumption | extract_lets | intro _ | with_reducible apply ok2_ite
    | with_reducible apply State.setMsp_ok | split | with_reducible apply ok2_mk | dsimp +zetaDelta -zeta only

theorem State.msPop_ok' {pcs : Piece → Prop} {b0 : State} (s : State) (e : Nat) (hok : Ok pcs b0 s)
    (hp0 : pcs .regs := by assumption) :
    Ok pcs b0 (State.msPop s e).2 := State.msPop_ok s e hok hp0

theorem State.rsPush_ok {pcs : Piece → Prop} {b0 : State} (s : State) (e v : Nat) (t : State) (hok : Ok pcs b0 s)
    (h : s.rsPush e v = .ok t) (hp0 : pcs .regs := by assumption) (hp1 : pcs .mem := by assumption)
    (hp2 : pcs .poison := by assumption) (hp3 : pcs .engs := by assumption) :
    Ok pcs b0 t := by
  have hp : ∀ g : Eng, g.Fits → (g.rsPut v).Fits := fun g h => ⟨h.os, Nat.min_le_left _ _, h.saved⟩
  have hb := State.setEng_ok s e _ hok (hp _ (hok.fits e))
  unfold State.rsPush at h
  dsimp only at h
  split at h
  · cases h; exact hb
  split at h
  · cases h
  · cases h; exact hb
  split at h
  · cases h
    exact State.modEng_ok _ _ _ (State.msPush_ok _ _ _ hok) fun _ h => by exact (hp _ h).of rfl rfl
  · cases h


theorem State.rsPop_ok {pcs : Piece → Prop} {b0 : State} (s : State) (e : Nat) (r : Nat × Bool × State)
    (hok : Ok pcs b0 s) (h : s.rsPop e = .ok r) (hp0 : pcs .regs := by assumption)
    (hp1 : pcs .engs := by assumption) :
    Ok pcs b0 r.2.2 := by
  have hf := hok.fits e
  unfold State.rsPop at h
  dsimp only at h
  split at h
  · cases h; exact State.setEng_ok _ _ _ hok ⟨hf.os, by have := hf.rs; dsimp only; omega, hf.saved⟩
  split at h
  · cases h
  · cases h; exact State.setEng_ok _ _ _ hok (by exact hf.of rfl rfl)
  split at h
  · cases h
  split at h
  · cases h
  · cases h; dsimp only; exact State.modEng_ok _ _ _ (State.msPop_ok' _ _ hok) fun _ h => by exact h.of rfl rfl


theorem State.rsRefill_ok {pcs : Piece → Prop} {b0 : State} (s : State) (e : Nat) (n : Nat) (hok : Ok pcs b0 s)
    (hp0 : pcs .regs := by assumption) (hp1 : pcs .engs := by assumption) :
    Ok pcs b0 (State.rsRefill s e n) := by
  induction n generalizing s with
  | zero => exact hok
  | succ n ih =>
    unfold State.rsRefill
    exact ih _ (State.modEng_ok _ _ _ (State.msPop_ok' _ _ hok) fun _ h => ⟨h.os, Nat.min_le_left _ _, h.saved⟩)
end Sys2Proof.Machine
end

