-- ==== Sys2Proof/Laws/OkEng.lean ====
section
/-! SUPPORT. The engine core: every operation of Machine/Eng.lean keeps the queue and a sane state, and changes no
piece but the ones it names. -/
namespace Sys2Proof.Machine
set_option Elab.async false

/-- The same of the end of an engine instruction that has its effect. -/
structure OkE (w : Piece → Prop) (b : State) (x : EngEnd) : Prop where
  out : ∀ s n c, x = .ok s n c → Ok w b s

theorem okE_fault {w : Piece → Prop} {b0 : State} {c : EngFault} : OkE w b0 (.fault c) := ⟨fun _ _ _ h => by cases h⟩

theorem okE_ok {w : Piece → Prop} {b0 s : State} {n : Nat} {c : Ctl} (h : Ok w b0 s) : OkE w b0 (.ok s n c) :=
  ⟨fun _ _ _ e => by cases e; exact h⟩

theorem okE_ite {w : Piece → Prop} {b0 : State} {c : Prop} [Decidable c] {x y : EngEnd} (hx : OkE w b0 x) (hy : OkE w b0 y) :
    OkE w b0 (if c then x else y) := by split <;> assumption

theorem Eng.Fits.mk' {x g : Eng} (h1 : g.os = x.os ∧ g.rsd = x.rsd ∧ g.saves = x.saves) (h : x.Fits) : g.Fits :=
  h.of h1.1 h1.2.1 h1.2.2

theorem Eng.iterate_fits {g : Eng} (n : Nat) (h : g.Fits) : (g.iterate n).Fits := by
  refine Eng.Fits.mk' ?_ h
  unfold Eng.iterate
  dsimp only
  refine ⟨?_, ?_, ?_⟩ <;> (repeat' split) <;> rfl

theorem Eng.Fits.pop {g : Eng} {a : Word} {os : List Word} (h : g.Fits) (ho : g.os = a :: os) : os.length ≤ 16 := by
  have := h.os; rw [ho] at this; simp only [List.length_cons] at this; omega


theorem State.haltLane_ok {pcs : Piece → Prop} {b0 : State} (s : State) (l : Nat) (hok : Ok pcs b0 s)
    (hp0 : pcs .free := by assumption) (hp1 : pcs .regs := by assumption) (hp2 : pcs .mem := by assumption)
    (hp3 : pcs .host := by assumption) (hp4 : pcs .lanes := by assumption) (hp5 : pcs .pins := by assumption)
    (hp6 : pcs .tx := by assumption) (hp7 : pcs .objs := by assumption) (hp8 : pcs .routes := by assumption)
    (hp9 : pcs .col := by assumption) (hp10 : pcs .firn := by assumption) (hp11 : pcs .rings := by assumption)
    (hp12 : pcs .irq := by assumption) (hp13 : pcs .poison := by assumption) :
    Ok pcs b0 (State.haltLane s l) := by
  delta State.haltLane
  repeat' first
    | with_reducible assumption | extract_lets | intro _ | with_reducible apply ok_ite
    | with_reducible apply State.laneOff_ok | with_reducible apply State.afterAttempt_ok
    | with_reducible apply State.adminDone?_ok | with_reducible apply State.adminDone_ok
    | with_reducible apply State.busBind_ok | with_reducible apply State.adminRefuse_ok
    | with_reducible apply State.laneRejudge_ok | rfl | exact ⟨rfl, rfl⟩ | split | dsimp +zetaDelta -zeta only

theorem State.engHalt_ok {pcs : Piece → Prop} {b0 : State} (s : State) (e : Nat) (cause : Nat) (hok : Ok pcs b0 s)
    (hp0 : pcs .free := by assumption) (hp1 : pcs .regs := by assumption) (hp2 : pcs .mem := by assumption)
    (hp3 : pcs .host := by assumption) (hp4 : pcs .lanes := by assumption) (hp5 : pcs .pins := by assumption)
    (hp6 : pcs .tx := by assumption) (hp7 : pcs .objs := by assumption) (hp8 : pcs .routes := by assumption)
    (hp9 : pcs .col := by assumption) (hp10 : pcs .firn := by assumption) (hp11 : pcs .rings := by assumption)
    (hp12 : pcs .irq := by assumption) (hp13 : pcs .mor := by assumption) (hp14 : pcs .stack := by assumption)
    (hp15 : pcs .poison := by assumption) (hp16 : pcs .engs := by assumption) :
    Ok pcs b0 (State.engHalt s e cause) := by
  have h := State.raise_ok _ (976 + e) (State.modEng_ok (s.hookDrop e) e
    (fun g => { g with halted := true, haltCause := cause, waiting := false, home := false }) (State.hookDrop_ok _ _ hok)
    fun _ h => by exact h.of rfl rfl)
  exact ok_ite (ok_foldl (fun _ _ h => State.haltLane_ok _ _ h) h) h

theorem State.engSteps_ok {pcs : Piece → Prop} {b0 : State} (s : State) (e : Nat) (n : Nat) (hok : Ok pcs b0 s)
    (hp0 : pcs .regs := by assumption) :
    Ok pcs b0 (State.engSteps s e n) := by
  delta State.engSteps
  repeat' first
    | with_reducible assumption | extract_lets | intro _ | with_reducible apply State.satAdd_ok | rfl
    | exact ⟨rfl, rfl⟩ | split | dsimp +zetaDelta -zeta only

theorem State.engCount_ok {pcs : Piece → Prop} {b0 : State} (s : State) (e : Nat) (g : Eng) (w : Word) (cost : Nat)
    (hok : Ok pcs b0 s) (hp0 : pcs .regs := by assumption) :
    Ok pcs b0 (State.engCount s e g w cost) := by
  delta State.engCount
  repeat' first
    | with_reducible assumption | extract_lets | intro _ | with_reducible apply ok_ite
    | with_reducible apply State.engSteps_ok | with_reducible apply State.satAdd_ok | rfl | exact ⟨rfl, rfl⟩
    | split | dsimp +zetaDelta -zeta only

theorem State.entryPush_ok {pcs : Piece → Prop} {b0 : State} (s : State) (e : Nat) (pc : Nat) (hok : Ok pcs b0 s)
    (hp0 : pcs .regs := by assumption) (hp1 : pcs .mem := by assumption) (hp2 : pcs .poison := by assumption) :
    Ok2 pcs b0 (State.entryPush s e pc) := by
  delta State.entryPush
  repeat' first
    | with_reducible assumption | extract_lets | intro _ | with_reducible apply ok2_ite
    | with_reducible apply ok_ite | with_reducible apply State.msPush_ok | rfl | exact ⟨rfl, rfl⟩ | split
    | with_reducible apply ok2_mk | dsimp +zetaDelta -zeta only

theorem State.entryPush_ok' {pcs : Piece → Prop} {b0 : State} (s : State) (e : Nat) (pc : Nat) (hok : Ok pcs b0 s)
    (hp0 : pcs .regs := by assumption) (hp1 : pcs .mem := by assumption) (hp2 : pcs .poison := by assumption) :
    Ok pcs b0 (State.entryPush s e pc).2 := State.entryPush_ok s e pc hok hp0 hp1 hp2

theorem State.engE3_ok {pcs : Piece → Prop} {b0 : State} (s : State) (e : Nat) (n : Nat) (p : Nat) (trp : Bool)
    (hok : Ok pcs b0 s) (hp0 : pcs .regs := by assumption) (hp1 : pcs .irq := by assumption)
    (hp2 : pcs .engs := by assumption) :
    Ok pcs b0 (State.engE3 s e n p trp) := by
  unfold State.engE3
  exact State.modEng_ok _ _ _ (State.commitAt_ok _ _ (State.setReg_ok _ _ _ (State.claimSrc_ok' _ _ _ hok))) fun _ h => by exact h.of rfl rfl

theorem State.engX1_ok {pcs : Piece → Prop} {b0 : State} (s : State) (e : Nat) (x : EFrame) (hok : Ok pcs b0 s)
    (hp0 : pcs .regs := by assumption) (hp1 : pcs .irq := by assumption) :
    Ok pcs b0 (State.engX1 s e x) := by
  delta State.engX1
  repeat' first
    | with_reducible assumption | extract_lets | intro _ | with_reducible apply ok_ite
    | with_reducible apply State.complete_ok | with_reducible apply State.complete_ok'
    | (refine ok2_eq (by with_reducible assumption) ?_) | rfl | exact ⟨rfl, rfl⟩ | split
    | dsimp +zetaDelta -zeta only

theorem State.engX23_ok {pcs : Piece → Prop} {b0 : State} (s : State) (e : Nat) (x : EFrame) (xs : List EFrame)
    (n pc : Nat) (st : Word) (hok :
    Ok pcs b0 s)
    (hxs : ∀ y ∈ xs, y.save.os.length ≤ 16 ∧ y.save.rsd ≤ 8) (hp0 : pcs .regs := by assumption) (hp1 : pcs .engs := by assumption) : Ok pcs b0 (s.engX23 e x xs n pc st) := by
  unfold State.engX23
  refine State.modEng_ok _ _ _ (State.msPop_ok' _ _ (State.msPop_ok' _ _ (State.rsRefill_ok _ _ _ hok))) fun g hg => ⟨hg.os, hg.rs, ?_⟩
  exact fun y hy => (List.mem_append.1 hy).elim (fun hy => hg.saved y (List.mem_append_left _ hy)) fun hy => by
    obtain ⟨z, hz, rfl⟩ := List.mem_map.1 hy
    exact hxs z hz


theorem State.engReti_ok {pcs : Piece → Prop} {b0 : State} (s : State) (e : Nat) (r : Nat × State)
    (hok : Ok pcs b0 s) (h : s.engReti e = .ok r) (hp0 : pcs .regs := by assumption)
    (hp1 : pcs .irq := by assumption) (hp2 : pcs .engs := by assumption) :
    Ok pcs b0 r.2 := by
  have hf := hok.fits e
  have h1 := fun x => State.engX1_ok s e x hok
  unfold State.engReti at h
  dsimp only at h
  split at h
  · cases h
  next x xs hx =>
  have hxs : ∀ y ∈ xs, y.save.os.length ≤ 16 ∧ y.save.rsd ≤ 8 := fun y hy =>
    hf.saved _ (List.mem_append_right _ (List.mem_map_of_mem (hx ▸ List.mem_cons_of_mem _ hy)))
  split at h
  · cases h
  split at h
  · next m p hc =>
    injection h with h
    subst h
    dsimp only
    refine State.satAdd_ok _ _ _ (State.engE3_ok _ _ _ _ _ (State.modEng_ok _ _
      (fun g => { g with frames := { x with trap := false, level := p, save := s.stacks e } :: xs }) (h1 _) fun g hg => ⟨hg.os, hg.rs, ?_⟩))
    exact fun y hy => (List.mem_append.1 hy).elim (fun hy => hg.saved y (List.mem_append_left _ hy)) fun hy =>
      (List.mem_cons.1 hy).elim (fun hy => by subst hy; exact ⟨hf.os, hf.rs⟩) fun hy => by
        obtain ⟨z, hz, rfl⟩ := List.mem_map.1 hy
        exact hxs z hz
  split at h
  · cases h
  split at h
  · cases h
  · injection h with h
    subst h
    dsimp only
    exact State.engX23_ok _ _ _ _ _ _ _ (h1 _) hxs


theorem State.trapEntry_ok {pcs : Piece → Prop} {b0 : State} (s : State) (e : Nat) (cause : Nat) (pc : Nat)
    (swi : Option Nat) (cnt : State → State) (hok : Ok pcs b0 s) (h_cnt : ∀ s, Ok pcs b0 s → Ok pcs b0 (cnt s))
    (hp0 : pcs .free := by assumption) (hp1 : pcs .regs := by assumption) (hp2 : pcs .mem := by assumption)
    (hp3 : pcs .host := by assumption) (hp4 : pcs .lanes := by assumption) (hp5 : pcs .pins := by assumption)
    (hp6 : pcs .tx := by assumption) (hp7 : pcs .objs := by assumption) (hp8 : pcs .routes := by assumption)
    (hp9 : pcs .col := by assumption) (hp10 : pcs .firn := by assumption) (hp11 : pcs .rings := by assumption)
    (hp12 : pcs .irq := by assumption) (hp13 : pcs .mor := by assumption) (hp14 : pcs .stack := by assumption)
    (hp15 : pcs .poison := by assumption) (hp16 : pcs .engs := by assumption) :
    Ok pcs b0 (State.trapEntry s e cause pc swi cnt) := by
  have hp := State.entryPush_ok' s e pc hok
  delta State.trapEntry
  refine ok_ite (State.engHalt_ok _ _ _ hok) (ok_ite (State.engHalt_ok _ _ _ hp) (h_cnt _ ?_))
  have h := fun g hg => State.satAdd_ok _ (F.ENG_TRAPINFO.TRAPS e) 1 (State.setF_ok _ (F.ENG_TRAPINFO.PC e) pc
    (State.setF_ok _ (F.ENG_TRAPINFO.CAUSE e) cause (State.modEng_ok _ e g hp hg)))
  have hg : ∀ g : Eng, g.Fits → ({ g with
      frames := { trap := true, rss := g.rss, home := g.home } :: g.frames, trp := true, ie := false, rpt := false,
      pc := 4 * cause, slotA := none, waiting := false, home := false, divPend := false, rcWritten := false, first := false } : Eng).Fits :=
    fun g h => ⟨h.os, h.rs, fun y hy => (List.mem_append.1 hy).elim (fun hy => h.saved y (List.mem_append_left _ hy)) fun hy =>
      (List.mem_cons.1 hy).elim (fun hy => by subst hy; exact ⟨Nat.zero_le _, Nat.zero_le _⟩) fun hy =>
        h.saved y (List.mem_append_right _ hy)⟩
  cases swi with
  | none => exact h _ hg
  | some c => exact State.setF_ok _ _ _ (h _ hg)

theorem State.hookEnd_ok {pcs : Piece → Prop} {b0 : State} (s : State) (e : Nat) (r : Option (List Word))
    (hok : Ok pcs b0 s) (hp0 : pcs .free := by assumption) (hp1 : pcs .regs := by assumption)
    (hp2 : pcs .mem := by assumption) (hp3 : pcs .objs := by assumption) (hp4 : pcs .col := by assumption)
    (hp5 : pcs .firn := by assumption) (hp6 : pcs .rings := by assumption) (hp7 : pcs .irq := by assumption)
    (hp8 : pcs .mor := by assumption) (hp9 : pcs .stack := by assumption) (hp10 : pcs .poison := by assumption)
    (hp11 : pcs .engs := by assumption) :
    Ok pcs b0 (State.hookEnd s e r) := by
  unfold State.hookEnd
  split
  · next c xs b hc hb =>
    exact State.hookBegin_ok _ _ (State.hookDone_ok _ _ _ _ (State.hookBack_ok _ _ _ hok
      ((hok.fits e).saved _ (List.mem_append_left _ (by rw [hb]; exact List.mem_singleton_self _)))))
  · exact hok

theorem State.hookFault_ok {pcs : Piece → Prop} {b0 : State} (s : State) (e : Nat) (frames : List EFrame) (hok :
    Ok pcs b0 s)
    (hf : ∀ x ∈ frames, x.save.os.length ≤ 16 ∧ x.save.rsd ≤ 8) (hp0 : pcs .free := by assumption) (hp1 : pcs .regs := by assumption) (hp2 : pcs .mem := by assumption) (hp3 : pcs .host := by assumption) (hp4 : pcs .lanes := by assumption) (hp5 : pcs .pins := by assumption) (hp6 : pcs .tx := by assumption) (hp7 : pcs .objs := by assumption) (hp8 : pcs .routes := by assumption) (hp9 : pcs .col := by assumption) (hp10 : pcs .firn := by assumption) (hp11 : pcs .rings := by assumption) (hp12 : pcs .irq := by assumption) (hp13 : pcs .mor := by assumption) (hp14 : pcs .stack := by assumption) (hp15 : pcs .boot := by assumption) (hp16 : pcs .poison := by assumption) (hp17 : pcs .engs := by assumption) : Ok pcs b0 (s.hookFault e frames) := by
  unfold State.hookFault
  have hs := State.satAdd_ok s (F.ENG_HOOKCNT.FAULT e) 1 hok
  cases frames with
  | nil => exact State.hookEnd_ok _ _ _ hs
  | cons x xs =>
    dsimp only
    have h := State.modEng_ok _ e
      (fun g => { g with frames := x :: xs, trp := false, il := BitVec.ofNat 4 x.level, pc := 4 * (16 + x.level) }) (State.unwind_ok _ e x.save hs (hf x List.mem_cons_self)) fun g hg =>
      ⟨hg.os, hg.rs, fun y hy => (List.mem_append.1 hy).elim (fun hy => hg.saved y (List.mem_append_left _ hy)) fun hy => by
        obtain ⟨z, hz, rfl⟩ := List.mem_map.1 hy
        exact hf z hz⟩
    split
    · next n t ht => exact State.hookBegin_ok _ _ (State.engSteps_ok _ _ _ (State.engReti_ok _ _ _ h ht))
    · exact State.trapEntry_ok _ _ _ _ _ _ h fun _ h => State.engSteps_ok _ _ _ h
    · exact State.trapEntry_ok _ _ _ _ _ _ (State.eccMet_ok _ _ _ _ h) fun _ h => State.engSteps_ok _ _ _ h


theorem State.engTrap_ok {pcs : Piece → Prop} {b0 : State} (s : State) (e : Nat) (cause : Nat) (pc : Nat)
    (at_ : Nat) (swi : Option Nat) (cnt : State → State) (hok : Ok pcs b0 s) (h_cnt : ∀ s, Ok pcs b0 s → Ok pcs b0
    (cnt s)) (hp0 : pcs .free := by assumption) (hp1 : pcs .regs := by assumption) (hp2 : pcs .mem := by assumption)
    (hp3 : pcs .host := by assumption) (hp4 : pcs .lanes := by assumption) (hp5 : pcs .pins := by assumption)
    (hp6 : pcs .tx := by assumption) (hp7 : pcs .objs := by assumption) (hp8 : pcs .routes := by assumption)
    (hp9 : pcs .col := by assumption) (hp10 : pcs .firn := by assumption) (hp11 : pcs .rings := by assumption)
    (hp12 : pcs .irq := by assumption) (hp13 : pcs .mor := by assumption) (hp14 : pcs .stack := by assumption)
    (hp15 : pcs .boot := by assumption) (hp16 : pcs .poison := by assumption) (hp17 : pcs .engs := by assumption) :
    Ok pcs b0 (State.engTrap s e cause pc at_ swi cnt) := by
  have h := State.trapEntry_ok s e cause pc swi cnt hok h_cnt
  unfold State.engTrap
  dsimp only
  split
  · exact State.hookFault_ok _ _ _ h fun x hx => (hok.fits e).saved _ (List.mem_append_right _ (List.mem_map_of_mem hx))
  · exact h

theorem State.engFault_ok {pcs : Piece → Prop} {b0 : State} (s : State) (e : Nat) (x : EngFault) (hok : Ok pcs b0 s)
    (hp0 : pcs .free := by assumption) (hp1 : pcs .regs := by assumption) (hp2 : pcs .mem := by assumption)
    (hp3 : pcs .host := by assumption) (hp4 : pcs .lanes := by assumption) (hp5 : pcs .pins := by assumption)
    (hp6 : pcs .tx := by assumption) (hp7 : pcs .objs := by assumption) (hp8 : pcs .routes := by assumption)
    (hp9 : pcs .col := by assumption) (hp10 : pcs .firn := by assumption) (hp11 : pcs .rings := by assumption)
    (hp12 : pcs .irq := by assumption) (hp13 : pcs .mor := by assumption) (hp14 : pcs .stack := by assumption)
    (hp15 : pcs .boot := by assumption) (hp16 : pcs .poison := by assumption) (hp17 : pcs .engs := by assumption) :
    Ok pcs b0 (State.engFault s e x) := by
  delta State.engFault
  repeat' first
    | with_reducible assumption | extract_lets | intro _ | with_reducible apply ok_ite
    | with_reducible apply State.engTrap_ok | with_reducible apply State.engSteps_ok
    | with_reducible apply State.eccMet_ok | rfl | exact ⟨rfl, rfl⟩ | split | dsimp +zetaDelta -zeta only

theorem State.hookReturn_ok {pcs : Piece → Prop} {b0 : State} (s : State) (e : Nat) (hok : Ok pcs b0 s)
    (hp0 : pcs .free := by assumption) (hp1 : pcs .regs := by assumption) (hp2 : pcs .mem := by assumption)
    (hp3 : pcs .objs := by assumption) (hp4 : pcs .col := by assumption) (hp5 : pcs .firn := by assumption)
    (hp6 : pcs .rings := by assumption) (hp7 : pcs .irq := by assumption) (hp8 : pcs .mor := by assumption)
    (hp9 : pcs .stack := by assumption) (hp10 : pcs .poison := by assumption) (hp11 : pcs .engs := by assumption) :
    Ok pcs b0 (State.hookReturn s e) := by
  delta State.hookReturn
  repeat' first
    | with_reducible assumption | extract_lets | intro _ | with_reducible apply ok_ite
    | with_reducible apply State.hookEnd_ok | with_reducible apply State.satAdd_ok | rfl | exact ⟨rfl, rfl⟩ | split
    | dsimp +zetaDelta -zeta only

theorem State.divTrap_ok {pcs : Piece → Prop} {b0 : State} (s : State) (e : Nat) (at_ : Nat) (hok : Ok pcs b0 s)
    (hp0 : pcs .free := by assumption) (hp1 : pcs .regs := by assumption) (hp2 : pcs .mem := by assumption)
    (hp3 : pcs .host := by assumption) (hp4 : pcs .lanes := by assumption) (hp5 : pcs .pins := by assumption)
    (hp6 : pcs .tx := by assumption) (hp7 : pcs .objs := by assumption) (hp8 : pcs .routes := by assumption)
    (hp9 : pcs .col := by assumption) (hp10 : pcs .firn := by assumption) (hp11 : pcs .rings := by assumption)
    (hp12 : pcs .irq := by assumption) (hp13 : pcs .mor := by assumption) (hp14 : pcs .stack := by assumption)
    (hp15 : pcs .boot := by assumption) (hp16 : pcs .poison := by assumption) (hp17 : pcs .engs := by assumption) :
    Ok pcs b0 (State.divTrap s e at_) :=
  ok_ite (State.engTrap_ok _ _ _ _ _ _ _ (State.setEng_ok _ _ _ hok (by exact (hok.fits e).of rfl rfl)) fun _ h => State.engSteps_ok _ _ _ h) hok

theorem State.engSeq_ok {pcs : Piece → Prop} {b0 : State} (s : State) (e : Nat) (w : Word) (cost : Nat)
    (hok : Ok pcs b0 s) (hp0 : pcs .free := by assumption) (hp1 : pcs .regs := by assumption)
    (hp2 : pcs .mem := by assumption) (hp3 : pcs .host := by assumption) (hp4 : pcs .lanes := by assumption)
    (hp5 : pcs .pins := by assumption) (hp6 : pcs .tx := by assumption) (hp7 : pcs .objs := by assumption)
    (hp8 : pcs .routes := by assumption) (hp9 : pcs .col := by assumption) (hp10 : pcs .firn := by assumption)
    (hp11 : pcs .rings := by assumption) (hp12 : pcs .irq := by assumption) (hp13 : pcs .mor := by assumption)
    (hp14 : pcs .stack := by assumption) (hp15 : pcs .boot := by assumption) (hp16 : pcs .poison := by assumption)
    (hp17 : pcs .engs := by assumption) :
    Ok pcs b0 (State.engSeq s e w cost) := by
  have h := State.setEng_ok s e { s.eng e with pc := pcAfter w (s.eng e).pc, slotA := if isPairWord w && (s.eng e).pc % 2 == 0 then some cost else none } hok
    (by exact (hok.fits e).of rfl rfl)
  exact ok_ite (State.divTrap_ok _ _ _ (State.setEng_ok _ _ _ hok (Eng.iterate_fits _ (hok.fits e)))) (ok_ite h (State.divTrap_ok _ _ _ h))

theorem State.engRep_ok {pcs : Piece → Prop} {b0 : State} (s : State) (e : Nat) (w : Word) (n : Nat)
    (hok : Ok pcs b0 s) (hp0 : pcs .engs := by assumption) :
    Ok pcs b0 (State.engRep s e w n) :=
  ok_ite (State.setEng_ok _ _ _ hok (by exact (hok.fits e).of rfl rfl)) (State.setEng_ok _ _ _ hok (by exact (hok.fits e).of rfl rfl))

theorem State.engRet_ok {pcs : Piece → Prop} {b0 : State} (s : State) (e : Nat) (pc : Nat) (hok : Ok pcs b0 s)
    (hp0 : pcs .free := by assumption) (hp1 : pcs .regs := by assumption) (hp2 : pcs .mem := by assumption)
    (hp3 : pcs .objs := by assumption) (hp4 : pcs .col := by assumption) (hp5 : pcs .firn := by assumption)
    (hp6 : pcs .rings := by assumption) (hp7 : pcs .irq := by assumption) (hp8 : pcs .mor := by assumption)
    (hp9 : pcs .stack := by assumption) (hp10 : pcs .poison := by assumption) (hp11 : pcs .engs := by assumption) :
    Ok pcs b0 (State.engRet s e pc) := by
  delta State.engRet
  repeat' first
    | with_reducible assumption | extract_lets | intro _ | with_reducible apply ok_ite
    | with_reducible apply State.modEng_ok | with_reducible apply State.hookReturn_ok | rfl | exact ⟨rfl, rfl⟩
    | (apply Eng.Fits.of (by assumption) <;> rfl) | (apply Ok.fits_of (by assumption) <;> rfl) | split
    | dsimp +zetaDelta -zeta only

theorem State.engDone_ok {pcs : Piece → Prop} {b0 : State} (s : State) (e : Nat) (g : Eng) (w : Word) (cost : Nat)
    (c : Ctl) (hok : Ok pcs b0 s) (hp0 : pcs .free := by assumption) (hp1 : pcs .regs := by assumption)
    (hp2 : pcs .mem := by assumption) (hp3 : pcs .host := by assumption) (hp4 : pcs .lanes := by assumption)
    (hp5 : pcs .pins := by assumption) (hp6 : pcs .tx := by assumption) (hp7 : pcs .objs := by assumption)
    (hp8 : pcs .routes := by assumption) (hp9 : pcs .col := by assumption) (hp10 : pcs .firn := by assumption)
    (hp11 : pcs .rings := by assumption) (hp12 : pcs .irq := by assumption) (hp13 : pcs .mor := by assumption)
    (hp14 : pcs .stack := by assumption) (hp15 : pcs .boot := by assumption) (hp16 : pcs .poison := by assumption)
    (hp17 : pcs .engs := by assumption) :
    Ok pcs b0 (State.engDone s e g w cost c) := by
  have hc := State.engCount_ok s e g w cost hok
  unfold State.engDone
  cases c with
  | done => exact State.hookBegin_ok _ _ hc
  | seq => exact State.engSeq_ok _ _ _ _ hc
  | jump p => exact State.modEng_ok _ _ _ hc fun _ h => by exact h.of rfl rfl
  | ret p => exact State.engRet_ok _ _ _ hc
  | divide =>
    exact State.engSeq_ok _ _ _ _ (State.modEng_ok _ _ _ hc fun _ h => by exact h.of rfl rfl)
  | swi k => exact State.engTrap_ok _ _ _ _ _ _ _ hok fun _ h => State.engCount_ok _ _ _ _ _ h
  | rep n => exact State.engRep_ok _ _ _ _ hc

theorem engDo_ok {pcs : Piece → Prop} {b0 : State} (s : State) (e : EngId) (i : EngOp) (body : State → EngEnd) (hok :
    Ok pcs b0 s)
    (hb : ∀ s, Ok pcs b0 s → OkE pcs b0 (body s)) (hp0 : pcs .free := by assumption) (hp1 : pcs .regs := by assumption) (hp2 : pcs .mem := by assumption) (hp3 : pcs .host := by assumption) (hp4 : pcs .lanes := by assumption) (hp5 : pcs .pins := by assumption) (hp6 : pcs .tx := by assumption) (hp7 : pcs .objs := by assumption) (hp8 : pcs .routes := by assumption) (hp9 : pcs .col := by assumption) (hp10 : pcs .firn := by assumption) (hp11 : pcs .rings := by assumption) (hp12 : pcs .irq := by assumption) (hp13 : pcs .mor := by assumption) (hp14 : pcs .stack := by assumption) (hp15 : pcs .boot := by assumption) (hp16 : pcs .poison := by assumption) (hp17 : pcs .engs := by assumption) : OkO pcs b0 (engDo s e i body) := by
  have h' := State.modEng_ok s e.val (fun g => { g with waiting := false }) hok fun _ h => by exact h.of rfl rfl
  delta engDo
  refine okO_ite (okO_next hok) (okO_ite (okO_next (State.engFault_ok _ _ _ h')) (okO_ite (okO_next (State.engFault_ok _ _ _ h'))
    (okO_ite ?_ (okO_next hok))))
  have hE := hb _ h'
  split
  · next t c k ht => exact okO_next (State.engDone_ok _ _ _ _ _ _ (hE.1 _ _ _ ht))
  · exact okO_next (State.engFault_ok _ _ _ h')


theorem pushOne_ok {pcs : Piece → Prop} {b0 : State} (s : State) (e : Nat) (cost : Nat) (v : Word)
    (hok : Ok pcs b0 s) (hp0 : pcs .engs := by assumption) :
    OkE pcs b0 (pushOne s e cost v) := by
  have hf := hok.fits e
  unfold pushOne
  dsimp only
  split
  · exact okE_fault
  · next h => exact okE_ok (State.setEng_ok _ _ _ hok ⟨Nat.lt_of_not_le h, hf.rs, hf.saved⟩)

theorem unary_ok {pcs : Piece → Prop} {b0 : State} (s : State) (e cost : Nat) (f : Eng → Word → Word × Eng) (hok :
    Ok pcs b0 s)
    (hf : ∀ g a, (f g a).2.rsd = g.rsd ∧ (f g a).2.saves = g.saves) (hp0 : pcs .engs := by assumption) : OkE pcs b0 (unary s e cost f) := by
  have hg := hok.fits e
  unfold unary
  dsimp only
  split
  · next a os h => exact okE_ok (State.setEng_ok _ _ _ hok ⟨by have := hg.os; rw [h] at this; exact this, by rw [(hf _ _).1]; exact hg.rs, fun y hy => hg.saved y (by rw [← (hf (s.eng e) a).2]; exact hy)⟩)
  · exact okE_fault


theorem binary_ok {pcs : Piece → Prop} {b0 : State} (s : State) (e cost : Nat) (f : Eng → Word → Word → Word × Eng)
    (hok :
    Ok pcs b0 s)
    (hf : ∀ g a b, (f g a b).2.rsd = g.rsd ∧ (f g a b).2.saves = g.saves) (hp0 : pcs .engs := by assumption) : OkE pcs b0 (binary s e cost f) := by
  have hg := hok.fits e
  unfold binary
  dsimp only
  split
  · next b a os h =>
    refine okE_ok (State.setEng_ok _ _ _ hok ⟨?_, by rw [(hf _ _ _).1]; exact hg.rs, fun y hy => hg.saved y (by rw [← (hf (s.eng e) a b).2]; exact hy)⟩)
    have := hg.os; rw [h] at this; simp only [List.length_cons] at *; omega
  · exact okE_fault


theorem shuffle_ok {pcs : Piece → Prop} {b0 : State} (s : State) (e : Nat) (n : Nat) (f : List Word → List Word)
    (hok : Ok pcs b0 s) (hp0 : pcs .engs := by assumption) :
    OkE pcs b0 (shuffle s e n f) := by
  unfold shuffle
  dsimp only
  split
  · exact okE_fault
  split
  · exact okE_fault
  · next h => exact okE_ok (State.setEng_ok _ _ _ hok ⟨Nat.le_of_not_lt h, (hok.fits e).rs, (hok.fits e).saved⟩)

theorem plain_ok {pcs : Piece → Prop} {b0 : State} (s : State) (e : Nat) (f : Eng → Eng) (hok : Ok pcs b0 s)
    (hf : ∀ x, x.Fits → (f x).Fits) (hp0 : pcs .engs := by assumption) :
    OkE pcs b0 (plain s e f) :=
  okE_ok (State.modEng_ok _ _ _ hok hf)


theorem State.engEntry_ok {pcs : Piece → Prop} {b0 : State} (s : State) (e : Nat) (hok : Ok pcs b0 s)
    (hp0 : pcs .free := by assumption) (hp1 : pcs .regs := by assumption) (hp2 : pcs .mem := by assumption)
    (hp3 : pcs .host := by assumption) (hp4 : pcs .lanes := by assumption) (hp5 : pcs .pins := by assumption)
    (hp6 : pcs .tx := by assumption) (hp7 : pcs .objs := by assumption) (hp8 : pcs .routes := by assumption)
    (hp9 : pcs .col := by assumption) (hp10 : pcs .firn := by assumption) (hp11 : pcs .rings := by assumption)
    (hp12 : pcs .irq := by assumption) (hp13 : pcs .mor := by assumption) (hp14 : pcs .stack := by assumption)
    (hp15 : pcs .poison := by assumption) (hp16 : pcs .engs := by assumption) :
    Ok pcs b0 (State.engEntry s e) := by
  have hp := State.entryPush_ok' s e (s.eng e).pc hok
  delta State.engEntry
  refine ok_ite ?_ hok
  split
  · refine ok_ite hok (ok_ite (State.engHalt_ok _ _ _ hp) ?_)
    refine State.engSteps_ok _ _ _ (State.engE3_ok _ _ _ _ _ (State.modEng_ok _ _ _ hp fun g h => ⟨h.os, h.rs, ?_⟩))
    have hf := hp.fits e
    exact fun x hx => (List.mem_append.1 hx).elim (fun hx => h.saved x (List.mem_append_left _ hx)) fun hx =>
      (List.mem_cons.1 hx).elim (fun hx => by subst hx; exact ⟨hf.os, hf.rs⟩) fun hx => h.saved x (List.mem_append_right _ hx)
  · refine ok_ite (State.engHalt_ok _ _ _ hp) ?_
    exact State.engSteps_ok _ _ _ (State.satAdd_ok _ _ _ (State.modEng_ok _ _ _ (State.setMsp_ok _ _ _ hp)
      fun _ h => by exact h.of rfl rfl))
end Sys2Proof.Machine
end

