-- ==== Sys2Proof/Laws/OkEngLong.lean ====
section
/-! SUPPORT. The long engine instructions: every operation of Machine/EngLong.lean keeps the queue and a sane state, and changes no
piece but the ones it names. -/
namespace Sys2Proof.Machine
set_option Elab.async false

theorem loadPush_ok {pcs : Piece → Prop} {b0 : State} (s : State) (e : Nat) (k : Nat) (a : Nat) (sz : Nat)
    (hok : Ok pcs b0 s) (hp0 : pcs .free := by assumption) (hp1 : pcs .time := by assumption)
    (hp2 : pcs .regs := by assumption) (hp3 : pcs .lanes := by assumption) (hp4 : pcs .pins := by assumption)
    (hp5 : pcs .irq := by assumption) (hp6 : pcs .snow := by assumption) (hp7 : pcs .engs := by assumption) :
    OkE pcs b0 (loadPush s e k a sz) := by
  unfold loadPush
  dsimp only
  split
  · exact okE_fault
  split
  · exact okE_fault
  split
  · exact okE_fault
  · next h _ v c t ht =>
    refine okE_ok (State.modEng_ok _ _ _ (State.engLoad_ok _ _ _ _ _ hok ht) fun x hx => ⟨?_, hx.rs, hx.saved⟩)
    simp only [List.length_cons, List.length_drop]
    omega

theorem storePop_ok {pcs : Piece → Prop} {b0 : State} (s : State) (e : Nat) (k : Nat) (addr : List Word → Nat)
    (sz : Nat) (hok : Ok pcs b0 s) (hp0 : pcs .free := by assumption) (hp1 : pcs .time := by assumption)
    (hp2 : pcs .regs := by assumption) (hp3 : pcs .mem := by assumption) (hp4 : pcs .host := by assumption)
    (hp5 : pcs .lanes := by assumption) (hp6 : pcs .pins := by assumption) (hp7 : pcs .tx := by assumption)
    (hp8 : pcs .objs := by assumption) (hp9 : pcs .filters := by assumption) (hp10 : pcs .routes := by assumption)
    (hp11 : pcs .col := by assumption) (hp12 : pcs .firn := by assumption) (hp13 : pcs .rings := by assumption)
    (hp14 : pcs .irq := by assumption) (hp15 : pcs .mor := by assumption) (hp16 : pcs .stack := by assumption)
    (hp17 : pcs .eths := by assumption) (hp18 : pcs .snow := by assumption) (hp19 : pcs .power := by assumption)
    (hp20 : pcs .boot := by assumption) (hp21 : pcs .poison := by assumption) (hp22 : pcs .engs := by assumption) :
    OkE pcs b0 (storePop s e k addr sz) := by
  unfold storePop
  dsimp only
  split
  · exact okE_fault
  next x rest hd =>
  split
  · exact okE_fault
  · next c t ht =>
    refine okE_ok (State.modEng_ok _ _ _ (State.engPut_ok _ _ _ _ _ _ hok ht) fun y hy => ⟨?_, hy.rs, hy.saved⟩)
    have := congrArg List.length hd
    have hl := (hok.fits e).os
    simp only [List.length_drop, List.length_cons] at this ⊢
    omega

theorem jumpIf_ok {pcs : Piece → Prop} {b0 : State} (_s : State) (_e : Nat) (s : State) (b : Bool) (w : Nat)
    (hok : Ok pcs b0 _s) (hok1 : Ok pcs b0 s)  :
    OkE pcs b0 (jumpIf _s _e s b w) := by
  delta jumpIf
  repeat' first
    | with_reducible assumption | extract_lets | intro _ | exact okE_fault | with_reducible apply okE_ok
    | with_reducible apply okE_ite | with_reducible apply ok_ite | rfl | exact ⟨rfl, rfl⟩ | split
    | dsimp +zetaDelta -zeta only

theorem popJump_ok {pcs : Piece → Prop} {b0 : State} (s : State) (e : Nat) (p : Word → Bool) (w : Nat)
    (hok : Ok pcs b0 s) (hp0 : pcs .engs := by assumption) :
    OkE pcs b0 (popJump s e p w) := by
  unfold popJump
  dsimp only
  split
  · exact okE_fault
  · next a os h => exact jumpIf_ok _ _ _ _ _ hok (State.setEng_ok _ _ _ hok ⟨(hok.fits e).pop h, (hok.fits e).rs, (hok.fits e).saved⟩)

theorem callTo_ok {pcs : Piece → Prop} {b0 : State} (s0 : State) (e : Nat) (s : State) (w : Nat)
    (hok : Ok pcs b0 s0) (hok1 : Ok pcs b0 s) (hp0 : pcs .regs := by assumption) (hp1 : pcs .mem := by assumption)
    (hp2 : pcs .poison := by assumption) (hp3 : pcs .engs := by assumption) :
    OkE pcs b0 (callTo s0 e s w) := by
  delta callTo
  repeat' first
    | with_reducible assumption | extract_lets | intro _ | exact okE_fault | with_reducible apply okE_ok
    | with_reducible apply okE_ite | with_reducible apply ok_ite
    | (refine State.rsPush_ok _ _ _ _ ?_ (by assumption)) | rfl | exact ⟨rfl, rfl⟩ | split
    | dsimp +zetaDelta -zeta only

theorem repPop_ok {pcs : Piece → Prop} {b0 : State} (s : State) (e : Nat) (hok : Ok pcs b0 s)
    (hp0 : pcs .engs := by assumption) :
    OkE pcs b0 (repPop s e) := by
  unfold repPop
  dsimp only
  split
  · exact okE_fault
  · next a os h => exact okE_ite okE_fault (okE_ok (State.setEng_ok _ _ _ hok ⟨(hok.fits e).pop h, (hok.fits e).rs, (hok.fits e).saved⟩))

theorem execLnop_ok {pcs : Piece → Prop} {b0 : State} (e : EngId) (s : State) (hok : Ok pcs b0 s)
    (hp0 : pcs .free := by assumption) (hp1 : pcs .regs := by assumption) (hp2 : pcs .mem := by assumption)
    (hp3 : pcs .host := by assumption) (hp4 : pcs .lanes := by assumption) (hp5 : pcs .pins := by assumption)
    (hp6 : pcs .tx := by assumption) (hp7 : pcs .objs := by assumption) (hp8 : pcs .routes := by assumption)
    (hp9 : pcs .col := by assumption) (hp10 : pcs .firn := by assumption) (hp11 : pcs .rings := by assumption)
    (hp12 : pcs .irq := by assumption) (hp13 : pcs .mor := by assumption) (hp14 : pcs .stack := by assumption)
    (hp15 : pcs .boot := by assumption) (hp16 : pcs .poison := by assumption) (hp17 : pcs .engs := by assumption) :
    OkO pcs b0 (execLnop e s) := by
  delta execLnop
  repeat' first
    | with_reducible assumption | extract_lets | intro _ | with_reducible apply okO_next
    | with_reducible apply okO_ite | with_reducible apply engDo_ok | with_reducible apply engDo_ok'
    | with_reducible apply plain_ok | with_reducible apply plain_ok' | rfl | exact ⟨rfl, rfl⟩
    | (apply Eng.Fits.of (by assumption) <;> rfl) | (apply Ok.fits_of (by assumption) <;> rfl) | split
    | dsimp +zetaDelta -zeta only

theorem execLit_ok {pcs : Piece → Prop} {b0 : State} (e : EngId) (v : BitVec 24) (s : State) (hok : Ok pcs b0 s)
    (hp0 : pcs .free := by assumption) (hp1 : pcs .regs := by assumption) (hp2 : pcs .mem := by assumption)
    (hp3 : pcs .host := by assumption) (hp4 : pcs .lanes := by assumption) (hp5 : pcs .pins := by assumption)
    (hp6 : pcs .tx := by assumption) (hp7 : pcs .objs := by assumption) (hp8 : pcs .routes := by assumption)
    (hp9 : pcs .col := by assumption) (hp10 : pcs .firn := by assumption) (hp11 : pcs .rings := by assumption)
    (hp12 : pcs .irq := by assumption) (hp13 : pcs .mor := by assumption) (hp14 : pcs .stack := by assumption)
    (hp15 : pcs .boot := by assumption) (hp16 : pcs .poison := by assumption) (hp17 : pcs .engs := by assumption) :
    OkO pcs b0 (execLit e v s) := by
  delta execLit
  repeat' first
    | with_reducible assumption | extract_lets | intro _ | with_reducible apply okO_next
    | with_reducible apply okO_ite | with_reducible apply engDo_ok | with_reducible apply engDo_ok'
    | with_reducible apply pushOne_ok | with_reducible apply pushOne_ok' | rfl | exact ⟨rfl, rfl⟩ | split
    | dsimp +zetaDelta -zeta only

theorem execLitu_ok {pcs : Piece → Prop} {b0 : State} (e : EngId) (v : BitVec 24) (s : State) (hok : Ok pcs b0 s)
    (hp0 : pcs .free := by assumption) (hp1 : pcs .regs := by assumption) (hp2 : pcs .mem := by assumption)
    (hp3 : pcs .host := by assumption) (hp4 : pcs .lanes := by assumption) (hp5 : pcs .pins := by assumption)
    (hp6 : pcs .tx := by assumption) (hp7 : pcs .objs := by assumption) (hp8 : pcs .routes := by assumption)
    (hp9 : pcs .col := by assumption) (hp10 : pcs .firn := by assumption) (hp11 : pcs .rings := by assumption)
    (hp12 : pcs .irq := by assumption) (hp13 : pcs .mor := by assumption) (hp14 : pcs .stack := by assumption)
    (hp15 : pcs .boot := by assumption) (hp16 : pcs .poison := by assumption) (hp17 : pcs .engs := by assumption) :
    OkO pcs b0 (execLitu e v s) := by
  delta execLitu
  repeat' first
    | with_reducible assumption | extract_lets | intro _ | with_reducible apply okO_next
    | with_reducible apply okO_ite | with_reducible apply engDo_ok | with_reducible apply engDo_ok'
    | with_reducible apply pushOne_ok | with_reducible apply pushOne_ok' | rfl | exact ⟨rfl, rfl⟩ | split
    | dsimp +zetaDelta -zeta only

theorem execSethi_ok {pcs : Piece → Prop} {b0 : State} (e : EngId) (v : BitVec 8) (s : State) (hok : Ok pcs b0 s)
    (hp0 : pcs .free := by assumption) (hp1 : pcs .regs := by assumption) (hp2 : pcs .mem := by assumption)
    (hp3 : pcs .host := by assumption) (hp4 : pcs .lanes := by assumption) (hp5 : pcs .pins := by assumption)
    (hp6 : pcs .tx := by assumption) (hp7 : pcs .objs := by assumption) (hp8 : pcs .routes := by assumption)
    (hp9 : pcs .col := by assumption) (hp10 : pcs .firn := by assumption) (hp11 : pcs .rings := by assumption)
    (hp12 : pcs .irq := by assumption) (hp13 : pcs .mor := by assumption) (hp14 : pcs .stack := by assumption)
    (hp15 : pcs .boot := by assumption) (hp16 : pcs .poison := by assumption) (hp17 : pcs .engs := by assumption) :
    OkO pcs b0 (execSethi e v s) := by
  delta execSethi
  repeat' first
    | with_reducible assumption | extract_lets | intro _ | with_reducible apply okO_next
    | with_reducible apply okO_ite | with_reducible apply engDo_ok | with_reducible apply engDo_ok'
    | with_reducible apply unary_ok | with_reducible apply unary_ok' | rfl | exact ⟨rfl, rfl⟩ | split
    | dsimp +zetaDelta -zeta only

theorem execAddi_ok {pcs : Piece → Prop} {b0 : State} (e : EngId) (v : BitVec 24) (s : State) (hok : Ok pcs b0 s)
    (hp0 : pcs .free := by assumption) (hp1 : pcs .regs := by assumption) (hp2 : pcs .mem := by assumption)
    (hp3 : pcs .host := by assumption) (hp4 : pcs .lanes := by assumption) (hp5 : pcs .pins := by assumption)
    (hp6 : pcs .tx := by assumption) (hp7 : pcs .objs := by assumption) (hp8 : pcs .routes := by assumption)
    (hp9 : pcs .col := by assumption) (hp10 : pcs .firn := by assumption) (hp11 : pcs .rings := by assumption)
    (hp12 : pcs .irq := by assumption) (hp13 : pcs .mor := by assumption) (hp14 : pcs .stack := by assumption)
    (hp15 : pcs .boot := by assumption) (hp16 : pcs .poison := by assumption) (hp17 : pcs .engs := by assumption) :
    OkO pcs b0 (execAddi e v s) := by
  delta execAddi
  repeat' first
    | with_reducible assumption | extract_lets | intro _ | with_reducible apply okO_next
    | with_reducible apply okO_ite | with_reducible apply engDo_ok | with_reducible apply engDo_ok'
    | with_reducible apply unary_ok | with_reducible apply unary_ok' | rfl | exact ⟨rfl, rfl⟩ | split
    | dsimp +zetaDelta -zeta only

theorem execCmpi_ok {pcs : Piece → Prop} {b0 : State} (e : EngId) (v : BitVec 24) (s : State) (hok : Ok pcs b0 s)
    (hp0 : pcs .free := by assumption) (hp1 : pcs .regs := by assumption) (hp2 : pcs .mem := by assumption)
    (hp3 : pcs .host := by assumption) (hp4 : pcs .lanes := by assumption) (hp5 : pcs .pins := by assumption)
    (hp6 : pcs .tx := by assumption) (hp7 : pcs .objs := by assumption) (hp8 : pcs .routes := by assumption)
    (hp9 : pcs .col := by assumption) (hp10 : pcs .firn := by assumption) (hp11 : pcs .rings := by assumption)
    (hp12 : pcs .irq := by assumption) (hp13 : pcs .mor := by assumption) (hp14 : pcs .stack := by assumption)
    (hp15 : pcs .boot := by assumption) (hp16 : pcs .poison := by assumption) (hp17 : pcs .engs := by assumption) :
    OkO pcs b0 (execCmpi e v s) := by
  delta execCmpi
  repeat' first
    | with_reducible assumption | extract_lets | intro _ | with_reducible apply okO_next
    | with_reducible apply okO_ite | with_reducible apply engDo_ok | with_reducible apply engDo_ok'
    | with_reducible apply unary_ok | with_reducible apply unary_ok' | rfl | exact ⟨rfl, rfl⟩ | split
    | dsimp +zetaDelta -zeta only

theorem execLda_ok {pcs : Piece → Prop} {b0 : State} (e : EngId) (v : BitVec 24) (s : State) (hok : Ok pcs b0 s)
    (hp0 : pcs .free := by assumption) (hp1 : pcs .time := by assumption) (hp2 : pcs .regs := by assumption)
    (hp3 : pcs .mem := by assumption) (hp4 : pcs .host := by assumption) (hp5 : pcs .lanes := by assumption)
    (hp6 : pcs .pins := by assumption) (hp7 : pcs .tx := by assumption) (hp8 : pcs .objs := by assumption)
    (hp9 : pcs .routes := by assumption) (hp10 : pcs .col := by assumption) (hp11 : pcs .firn := by assumption)
    (hp12 : pcs .rings := by assumption) (hp13 : pcs .irq := by assumption) (hp14 : pcs .mor := by assumption)
    (hp15 : pcs .stack := by assumption) (hp16 : pcs .snow := by assumption) (hp17 : pcs .boot := by assumption)
    (hp18 : pcs .poison := by assumption) (hp19 : pcs .engs := by assumption) :
    OkO pcs b0 (execLda e v s) := by
  delta execLda
  repeat' first
    | with_reducible assumption | extract_lets | intro _ | with_reducible apply okO_next
    | with_reducible apply okO_ite | with_reducible apply engDo_ok | with_reducible apply engDo_ok'
    | with_reducible apply loadPush_ok | with_reducible apply loadPush_ok' | rfl | exact ⟨rfl, rfl⟩ | split
    | dsimp +zetaDelta -zeta only

theorem execSta_ok {pcs : Piece → Prop} {b0 : State} (e : EngId) (v : BitVec 24) (s : State) (hok : Ok pcs b0 s)
    (hp0 : pcs .free := by assumption) (hp1 : pcs .time := by assumption) (hp2 : pcs .regs := by assumption)
    (hp3 : pcs .mem := by assumption) (hp4 : pcs .host := by assumption) (hp5 : pcs .lanes := by assumption)
    (hp6 : pcs .pins := by assumption) (hp7 : pcs .tx := by assumption) (hp8 : pcs .objs := by assumption)
    (hp9 : pcs .filters := by assumption) (hp10 : pcs .routes := by assumption) (hp11 : pcs .col := by assumption)
    (hp12 : pcs .firn := by assumption) (hp13 : pcs .rings := by assumption) (hp14 : pcs .irq := by assumption)
    (hp15 : pcs .mor := by assumption) (hp16 : pcs .stack := by assumption) (hp17 : pcs .eths := by assumption)
    (hp18 : pcs .snow := by assumption) (hp19 : pcs .power := by assumption) (hp20 : pcs .boot := by assumption)
    (hp21 : pcs .poison := by assumption) (hp22 : pcs .engs := by assumption) :
    OkO pcs b0 (execSta e v s) := by
  delta execSta
  repeat' first
    | with_reducible assumption | extract_lets | intro _ | with_reducible apply okO_next
    | with_reducible apply okO_ite | with_reducible apply engDo_ok | with_reducible apply engDo_ok'
    | with_reducible apply storePop_ok | with_reducible apply storePop_ok' | rfl | exact ⟨rfl, rfl⟩ | split
    | dsimp +zetaDelta -zeta only

theorem execJz_ok {pcs : Piece → Prop} {b0 : State} (e : EngId) (v : BitVec 24) (s : State) (hok : Ok pcs b0 s)
    (hp0 : pcs .free := by assumption) (hp1 : pcs .regs := by assumption) (hp2 : pcs .mem := by assumption)
    (hp3 : pcs .host := by assumption) (hp4 : pcs .lanes := by assumption) (hp5 : pcs .pins := by assumption)
    (hp6 : pcs .tx := by assumption) (hp7 : pcs .objs := by assumption) (hp8 : pcs .routes := by assumption)
    (hp9 : pcs .col := by assumption) (hp10 : pcs .firn := by assumption) (hp11 : pcs .rings := by assumption)
    (hp12 : pcs .irq := by assumption) (hp13 : pcs .mor := by assumption) (hp14 : pcs .stack := by assumption)
    (hp15 : pcs .boot := by assumption) (hp16 : pcs .poison := by assumption) (hp17 : pcs .engs := by assumption) :
    OkO pcs b0 (execJz e v s) := by
  delta execJz
  repeat' first
    | with_reducible assumption | extract_lets | intro _ | with_reducible apply okO_next
    | with_reducible apply okO_ite | with_reducible apply engDo_ok | with_reducible apply engDo_ok'
    | with_reducible apply popJump_ok | with_reducible apply popJump_ok' | rfl | exact ⟨rfl, rfl⟩ | split
    | dsimp +zetaDelta -zeta only

theorem execJnz_ok {pcs : Piece → Prop} {b0 : State} (e : EngId) (v : BitVec 24) (s : State) (hok : Ok pcs b0 s)
    (hp0 : pcs .free := by assumption) (hp1 : pcs .regs := by assumption) (hp2 : pcs .mem := by assumption)
    (hp3 : pcs .host := by assumption) (hp4 : pcs .lanes := by assumption) (hp5 : pcs .pins := by assumption)
    (hp6 : pcs .tx := by assumption) (hp7 : pcs .objs := by assumption) (hp8 : pcs .routes := by assumption)
    (hp9 : pcs .col := by assumption) (hp10 : pcs .firn := by assumption) (hp11 : pcs .rings := by assumption)
    (hp12 : pcs .irq := by assumption) (hp13 : pcs .mor := by assumption) (hp14 : pcs .stack := by assumption)
    (hp15 : pcs .boot := by assumption) (hp16 : pcs .poison := by assumption) (hp17 : pcs .engs := by assumption) :
    OkO pcs b0 (execJnz e v s) := by
  delta execJnz
  repeat' first
    | with_reducible assumption | extract_lets | intro _ | with_reducible apply okO_next
    | with_reducible apply okO_ite | with_reducible apply engDo_ok | with_reducible apply engDo_ok'
    | with_reducible apply popJump_ok | with_reducible apply popJump_ok' | rfl | exact ⟨rfl, rfl⟩ | split
    | dsimp +zetaDelta -zeta only

theorem execCall_ok {pcs : Piece → Prop} {b0 : State} (e : EngId) (v : BitVec 24) (s : State) (hok : Ok pcs b0 s)
    (hp0 : pcs .free := by assumption) (hp1 : pcs .regs := by assumption) (hp2 : pcs .mem := by assumption)
    (hp3 : pcs .host := by assumption) (hp4 : pcs .lanes := by assumption) (hp5 : pcs .pins := by assumption)
    (hp6 : pcs .tx := by assumption) (hp7 : pcs .objs := by assumption) (hp8 : pcs .routes := by assumption)
    (hp9 : pcs .col := by assumption) (hp10 : pcs .firn := by assumption) (hp11 : pcs .rings := by assumption)
    (hp12 : pcs .irq := by assumption) (hp13 : pcs .mor := by assumption) (hp14 : pcs .stack := by assumption)
    (hp15 : pcs .boot := by assumption) (hp16 : pcs .poison := by assumption) (hp17 : pcs .engs := by assumption) :
    OkO pcs b0 (execCall e v s) := by
  delta execCall
  repeat' first
    | with_reducible assumption | extract_lets | intro _ | with_reducible apply okO_next
    | with_reducible apply okO_ite | with_reducible apply engDo_ok | with_reducible apply engDo_ok'
    | with_reducible apply callTo_ok | with_reducible apply callTo_ok' | rfl | exact ⟨rfl, rfl⟩ | split
    | dsimp +zetaDelta -zeta only

theorem execRepLong_ok {pcs : Piece → Prop} {b0 : State} (e : EngId) (s : State) (hok : Ok pcs b0 s)
    (hp0 : pcs .free := by assumption) (hp1 : pcs .regs := by assumption) (hp2 : pcs .mem := by assumption)
    (hp3 : pcs .host := by assumption) (hp4 : pcs .lanes := by assumption) (hp5 : pcs .pins := by assumption)
    (hp6 : pcs .tx := by assumption) (hp7 : pcs .objs := by assumption) (hp8 : pcs .routes := by assumption)
    (hp9 : pcs .col := by assumption) (hp10 : pcs .firn := by assumption) (hp11 : pcs .rings := by assumption)
    (hp12 : pcs .irq := by assumption) (hp13 : pcs .mor := by assumption) (hp14 : pcs .stack := by assumption)
    (hp15 : pcs .boot := by assumption) (hp16 : pcs .poison := by assumption) (hp17 : pcs .engs := by assumption) :
    OkO pcs b0 (execRepLong e s) := by
  delta execRepLong
  repeat' first
    | with_reducible assumption | extract_lets | intro _ | with_reducible apply okO_next
    | with_reducible apply okO_ite | with_reducible apply engDo_ok | with_reducible apply engDo_ok'
    | with_reducible apply repPop_ok | with_reducible apply repPop_ok' | rfl | exact ⟨rfl, rfl⟩ | split
    | dsimp +zetaDelta -zeta only

theorem execJcc_ok {pcs : Piece → Prop} {b0 : State} (e : EngId) (c : BitVec 4) (v : BitVec 24) (s : State)
    (hok : Ok pcs b0 s) (hp0 : pcs .free := by assumption) (hp1 : pcs .regs := by assumption)
    (hp2 : pcs .mem := by assumption) (hp3 : pcs .host := by assumption) (hp4 : pcs .lanes := by assumption)
    (hp5 : pcs .pins := by assumption) (hp6 : pcs .tx := by assumption) (hp7 : pcs .objs := by assumption)
    (hp8 : pcs .routes := by assumption) (hp9 : pcs .col := by assumption) (hp10 : pcs .firn := by assumption)
    (hp11 : pcs .rings := by assumption) (hp12 : pcs .irq := by assumption) (hp13 : pcs .mor := by assumption)
    (hp14 : pcs .stack := by assumption) (hp15 : pcs .boot := by assumption) (hp16 : pcs .poison := by assumption)
    (hp17 : pcs .engs := by assumption) :
    OkO pcs b0 (execJcc e c v s) := by
  delta execJcc
  repeat' first
    | with_reducible assumption | extract_lets | intro _ | with_reducible apply okO_next
    | with_reducible apply okO_ite | with_reducible apply engDo_ok | with_reducible apply engDo_ok'
    | with_reducible apply jumpIf_ok | with_reducible apply jumpIf_ok' | rfl | exact ⟨rfl, rfl⟩ | split
    | dsimp +zetaDelta -zeta only
end Sys2Proof.Machine
end

