-- ==== Sys2Proof/Laws/OkEngAlu.lean ====
section
/-! SUPPORT. The engine arithmetic: every operation of Machine/EngAlu.lean keeps the queue and a sane state, and changes no
piece but the ones it names. -/
namespace Sys2Proof.Machine
set_option Elab.async false

theorem execNop_ok {pcs : Piece → Prop} {b0 : State} (e : EngId) (s : State) (hok : Ok pcs b0 s)
    (hp0 : pcs .free := by assumption) (hp1 : pcs .regs := by assumption) (hp2 : pcs .mem := by assumption)
    (hp3 : pcs .host := by assumption) (hp4 : pcs .lanes := by assumption) (hp5 : pcs .pins := by assumption)
    (hp6 : pcs .tx := by assumption) (hp7 : pcs .objs := by assumption) (hp8 : pcs .routes := by assumption)
    (hp9 : pcs .col := by assumption) (hp10 : pcs .firn := by assumption) (hp11 : pcs .rings := by assumption)
    (hp12 : pcs .irq := by assumption) (hp13 : pcs .mor := by assumption) (hp14 : pcs .stack := by assumption)
    (hp15 : pcs .boot := by assumption) (hp16 : pcs .poison := by assumption) (hp17 : pcs .engs := by assumption) :
    OkO pcs b0 (execNop e s) := by
  delta execNop
  repeat' first
    | with_reducible assumption | extract_lets | intro _ | with_reducible apply okO_next
    | with_reducible apply okO_ite | with_reducible apply engDo_ok | with_reducible apply engDo_ok'
    | with_reducible apply plain_ok | with_reducible apply plain_ok' | rfl | exact ⟨rfl, rfl⟩
    | (apply Eng.Fits.of (by assumption) <;> rfl) | (apply Ok.fits_of (by assumption) <;> rfl) | split
    | dsimp +zetaDelta -zeta only

theorem execDup_ok {pcs : Piece → Prop} {b0 : State} (e : EngId) (s : State) (hok : Ok pcs b0 s)
    (hp0 : pcs .free := by assumption) (hp1 : pcs .regs := by assumption) (hp2 : pcs .mem := by assumption)
    (hp3 : pcs .host := by assumption) (hp4 : pcs .lanes := by assumption) (hp5 : pcs .pins := by assumption)
    (hp6 : pcs .tx := by assumption) (hp7 : pcs .objs := by assumption) (hp8 : pcs .routes := by assumption)
    (hp9 : pcs .col := by assumption) (hp10 : pcs .firn := by assumption) (hp11 : pcs .rings := by assumption)
    (hp12 : pcs .irq := by assumption) (hp13 : pcs .mor := by assumption) (hp14 : pcs .stack := by assumption)
    (hp15 : pcs .boot := by assumption) (hp16 : pcs .poison := by assumption) (hp17 : pcs .engs := by assumption) :
    OkO pcs b0 (execDup e s) := by
  delta execDup
  repeat' first
    | with_reducible assumption | extract_lets | intro _ | with_reducible apply okO_next
    | with_reducible apply okO_ite | with_reducible apply engDo_ok | with_reducible apply engDo_ok'
    | with_reducible apply shuffle_ok | with_reducible apply shuffle_ok' | rfl | exact ⟨rfl, rfl⟩ | split
    | dsimp +zetaDelta -zeta only

theorem execDrop_ok {pcs : Piece → Prop} {b0 : State} (e : EngId) (s : State) (hok : Ok pcs b0 s)
    (hp0 : pcs .free := by assumption) (hp1 : pcs .regs := by assumption) (hp2 : pcs .mem := by assumption)
    (hp3 : pcs .host := by assumption) (hp4 : pcs .lanes := by assumption) (hp5 : pcs .pins := by assumption)
    (hp6 : pcs .tx := by assumption) (hp7 : pcs .objs := by assumption) (hp8 : pcs .routes := by assumption)
    (hp9 : pcs .col := by assumption) (hp10 : pcs .firn := by assumption) (hp11 : pcs .rings := by assumption)
    (hp12 : pcs .irq := by assumption) (hp13 : pcs .mor := by assumption) (hp14 : pcs .stack := by assumption)
    (hp15 : pcs .boot := by assumption) (hp16 : pcs .poison := by assumption) (hp17 : pcs .engs := by assumption) :
    OkO pcs b0 (execDrop e s) := by
  delta execDrop
  repeat' first
    | with_reducible assumption | extract_lets | intro _ | with_reducible apply okO_next
    | with_reducible apply okO_ite | with_reducible apply engDo_ok | with_reducible apply engDo_ok'
    | with_reducible apply shuffle_ok | with_reducible apply shuffle_ok' | rfl | exact ⟨rfl, rfl⟩ | split
    | dsimp +zetaDelta -zeta only

theorem execSwap_ok {pcs : Piece → Prop} {b0 : State} (e : EngId) (s : State) (hok : Ok pcs b0 s)
    (hp0 : pcs .free := by assumption) (hp1 : pcs .regs := by assumption) (hp2 : pcs .mem := by assumption)
    (hp3 : pcs .host := by assumption) (hp4 : pcs .lanes := by assumption) (hp5 : pcs .pins := by assumption)
    (hp6 : pcs .tx := by assumption) (hp7 : pcs .objs := by assumption) (hp8 : pcs .routes := by assumption)
    (hp9 : pcs .col := by assumption) (hp10 : pcs .firn := by assumption) (hp11 : pcs .rings := by assumption)
    (hp12 : pcs .irq := by assumption) (hp13 : pcs .mor := by assumption) (hp14 : pcs .stack := by assumption)
    (hp15 : pcs .boot := by assumption) (hp16 : pcs .poison := by assumption) (hp17 : pcs .engs := by assumption) :
    OkO pcs b0 (execSwap e s) := by
  delta execSwap
  repeat' first
    | with_reducible assumption | extract_lets | intro _ | with_reducible apply okO_next
    | with_reducible apply okO_ite | with_reducible apply engDo_ok | with_reducible apply engDo_ok'
    | with_reducible apply shuffle_ok | with_reducible apply shuffle_ok' | rfl | exact ⟨rfl, rfl⟩ | split
    | dsimp +zetaDelta -zeta only

theorem execOver_ok {pcs : Piece → Prop} {b0 : State} (e : EngId) (s : State) (hok : Ok pcs b0 s)
    (hp0 : pcs .free := by assumption) (hp1 : pcs .regs := by assumption) (hp2 : pcs .mem := by assumption)
    (hp3 : pcs .host := by assumption) (hp4 : pcs .lanes := by assumption) (hp5 : pcs .pins := by assumption)
    (hp6 : pcs .tx := by assumption) (hp7 : pcs .objs := by assumption) (hp8 : pcs .routes := by assumption)
    (hp9 : pcs .col := by assumption) (hp10 : pcs .firn := by assumption) (hp11 : pcs .rings := by assumption)
    (hp12 : pcs .irq := by assumption) (hp13 : pcs .mor := by assumption) (hp14 : pcs .stack := by assumption)
    (hp15 : pcs .boot := by assumption) (hp16 : pcs .poison := by assumption) (hp17 : pcs .engs := by assumption) :
    OkO pcs b0 (execOver e s) := by
  delta execOver
  repeat' first
    | with_reducible assumption | extract_lets | intro _ | with_reducible apply okO_next
    | with_reducible apply okO_ite | with_reducible apply engDo_ok | with_reducible apply engDo_ok'
    | with_reducible apply shuffle_ok | with_reducible apply shuffle_ok' | rfl | exact ⟨rfl, rfl⟩ | split
    | dsimp +zetaDelta -zeta only

theorem execRot_ok {pcs : Piece → Prop} {b0 : State} (e : EngId) (s : State) (hok : Ok pcs b0 s)
    (hp0 : pcs .free := by assumption) (hp1 : pcs .regs := by assumption) (hp2 : pcs .mem := by assumption)
    (hp3 : pcs .host := by assumption) (hp4 : pcs .lanes := by assumption) (hp5 : pcs .pins := by assumption)
    (hp6 : pcs .tx := by assumption) (hp7 : pcs .objs := by assumption) (hp8 : pcs .routes := by assumption)
    (hp9 : pcs .col := by assumption) (hp10 : pcs .firn := by assumption) (hp11 : pcs .rings := by assumption)
    (hp12 : pcs .irq := by assumption) (hp13 : pcs .mor := by assumption) (hp14 : pcs .stack := by assumption)
    (hp15 : pcs .boot := by assumption) (hp16 : pcs .poison := by assumption) (hp17 : pcs .engs := by assumption) :
    OkO pcs b0 (execRot e s) := by
  delta execRot
  repeat' first
    | with_reducible assumption | extract_lets | intro _ | with_reducible apply okO_next
    | with_reducible apply okO_ite | with_reducible apply engDo_ok | with_reducible apply engDo_ok'
    | with_reducible apply shuffle_ok | with_reducible apply shuffle_ok' | rfl | exact ⟨rfl, rfl⟩ | split
    | dsimp +zetaDelta -zeta only

theorem execPick_ok {pcs : Piece → Prop} {b0 : State} (e : EngId) (n : BitVec 4) (s : State) (hok : Ok pcs b0 s)
    (hp0 : pcs .free := by assumption) (hp1 : pcs .regs := by assumption) (hp2 : pcs .mem := by assumption)
    (hp3 : pcs .host := by assumption) (hp4 : pcs .lanes := by assumption) (hp5 : pcs .pins := by assumption)
    (hp6 : pcs .tx := by assumption) (hp7 : pcs .objs := by assumption) (hp8 : pcs .routes := by assumption)
    (hp9 : pcs .col := by assumption) (hp10 : pcs .firn := by assumption) (hp11 : pcs .rings := by assumption)
    (hp12 : pcs .irq := by assumption) (hp13 : pcs .mor := by assumption) (hp14 : pcs .stack := by assumption)
    (hp15 : pcs .boot := by assumption) (hp16 : pcs .poison := by assumption) (hp17 : pcs .engs := by assumption) :
    OkO pcs b0 (execPick e n s) := by
  delta execPick
  repeat' first
    | with_reducible assumption | extract_lets | intro _ | with_reducible apply okO_next
    | with_reducible apply okO_ite | with_reducible apply engDo_ok | with_reducible apply engDo_ok'
    | with_reducible apply shuffle_ok | with_reducible apply shuffle_ok' | rfl | exact ⟨rfl, rfl⟩ | split
    | dsimp +zetaDelta -zeta only

theorem execSlit_ok {pcs : Piece → Prop} {b0 : State} (e : EngId) (v : BitVec 9) (s : State) (hok : Ok pcs b0 s)
    (hp0 : pcs .free := by assumption) (hp1 : pcs .regs := by assumption) (hp2 : pcs .mem := by assumption)
    (hp3 : pcs .host := by assumption) (hp4 : pcs .lanes := by assumption) (hp5 : pcs .pins := by assumption)
    (hp6 : pcs .tx := by assumption) (hp7 : pcs .objs := by assumption) (hp8 : pcs .routes := by assumption)
    (hp9 : pcs .col := by assumption) (hp10 : pcs .firn := by assumption) (hp11 : pcs .rings := by assumption)
    (hp12 : pcs .irq := by assumption) (hp13 : pcs .mor := by assumption) (hp14 : pcs .stack := by assumption)
    (hp15 : pcs .boot := by assumption) (hp16 : pcs .poison := by assumption) (hp17 : pcs .engs := by assumption) :
    OkO pcs b0 (execSlit e v s) := by
  delta execSlit
  repeat' first
    | with_reducible assumption | extract_lets | intro _ | with_reducible apply okO_next
    | with_reducible apply okO_ite | with_reducible apply engDo_ok | with_reducible apply engDo_ok'
    | with_reducible apply pushOne_ok | with_reducible apply pushOne_ok' | rfl | exact ⟨rfl, rfl⟩ | split
    | dsimp +zetaDelta -zeta only

theorem execAdd_ok {pcs : Piece → Prop} {b0 : State} (e : EngId) (s : State) (hok : Ok pcs b0 s)
    (hp0 : pcs .free := by assumption) (hp1 : pcs .regs := by assumption) (hp2 : pcs .mem := by assumption)
    (hp3 : pcs .host := by assumption) (hp4 : pcs .lanes := by assumption) (hp5 : pcs .pins := by assumption)
    (hp6 : pcs .tx := by assumption) (hp7 : pcs .objs := by assumption) (hp8 : pcs .routes := by assumption)
    (hp9 : pcs .col := by assumption) (hp10 : pcs .firn := by assumption) (hp11 : pcs .rings := by assumption)
    (hp12 : pcs .irq := by assumption) (hp13 : pcs .mor := by assumption) (hp14 : pcs .stack := by assumption)
    (hp15 : pcs .boot := by assumption) (hp16 : pcs .poison := by assumption) (hp17 : pcs .engs := by assumption) :
    OkO pcs b0 (execAdd e s) := by
  delta execAdd
  repeat' first
    | with_reducible assumption | extract_lets | intro _ | with_reducible apply okO_next
    | with_reducible apply okO_ite | with_reducible apply engDo_ok | with_reducible apply engDo_ok'
    | with_reducible apply binary_ok | with_reducible apply binary_ok' | rfl | exact ⟨rfl, rfl⟩ | split
    | dsimp +zetaDelta -zeta only

theorem execSub_ok {pcs : Piece → Prop} {b0 : State} (e : EngId) (s : State) (hok : Ok pcs b0 s)
    (hp0 : pcs .free := by assumption) (hp1 : pcs .regs := by assumption) (hp2 : pcs .mem := by assumption)
    (hp3 : pcs .host := by assumption) (hp4 : pcs .lanes := by assumption) (hp5 : pcs .pins := by assumption)
    (hp6 : pcs .tx := by assumption) (hp7 : pcs .objs := by assumption) (hp8 : pcs .routes := by assumption)
    (hp9 : pcs .col := by assumption) (hp10 : pcs .firn := by assumption) (hp11 : pcs .rings := by assumption)
    (hp12 : pcs .irq := by assumption) (hp13 : pcs .mor := by assumption) (hp14 : pcs .stack := by assumption)
    (hp15 : pcs .boot := by assumption) (hp16 : pcs .poison := by assumption) (hp17 : pcs .engs := by assumption) :
    OkO pcs b0 (execSub e s) := by
  delta execSub
  repeat' first
    | with_reducible assumption | extract_lets | intro _ | with_reducible apply okO_next
    | with_reducible apply okO_ite | with_reducible apply engDo_ok | with_reducible apply engDo_ok'
    | with_reducible apply binary_ok | with_reducible apply binary_ok' | rfl | exact ⟨rfl, rfl⟩ | split
    | dsimp +zetaDelta -zeta only

theorem execAdc_ok {pcs : Piece → Prop} {b0 : State} (e : EngId) (s : State) (hok : Ok pcs b0 s)
    (hp0 : pcs .free := by assumption) (hp1 : pcs .regs := by assumption) (hp2 : pcs .mem := by assumption)
    (hp3 : pcs .host := by assumption) (hp4 : pcs .lanes := by assumption) (hp5 : pcs .pins := by assumption)
    (hp6 : pcs .tx := by assumption) (hp7 : pcs .objs := by assumption) (hp8 : pcs .routes := by assumption)
    (hp9 : pcs .col := by assumption) (hp10 : pcs .firn := by assumption) (hp11 : pcs .rings := by assumption)
    (hp12 : pcs .irq := by assumption) (hp13 : pcs .mor := by assumption) (hp14 : pcs .stack := by assumption)
    (hp15 : pcs .boot := by assumption) (hp16 : pcs .poison := by assumption) (hp17 : pcs .engs := by assumption) :
    OkO pcs b0 (execAdc e s) := by
  delta execAdc
  repeat' first
    | with_reducible assumption | extract_lets | intro _ | with_reducible apply okO_next
    | with_reducible apply okO_ite | with_reducible apply engDo_ok | with_reducible apply engDo_ok'
    | with_reducible apply binary_ok | with_reducible apply binary_ok' | rfl | exact ⟨rfl, rfl⟩ | split
    | dsimp +zetaDelta -zeta only

theorem execSbc_ok {pcs : Piece → Prop} {b0 : State} (e : EngId) (s : State) (hok : Ok pcs b0 s)
    (hp0 : pcs .free := by assumption) (hp1 : pcs .regs := by assumption) (hp2 : pcs .mem := by assumption)
    (hp3 : pcs .host := by assumption) (hp4 : pcs .lanes := by assumption) (hp5 : pcs .pins := by assumption)
    (hp6 : pcs .tx := by assumption) (hp7 : pcs .objs := by assumption) (hp8 : pcs .routes := by assumption)
    (hp9 : pcs .col := by assumption) (hp10 : pcs .firn := by assumption) (hp11 : pcs .rings := by assumption)
    (hp12 : pcs .irq := by assumption) (hp13 : pcs .mor := by assumption) (hp14 : pcs .stack := by assumption)
    (hp15 : pcs .boot := by assumption) (hp16 : pcs .poison := by assumption) (hp17 : pcs .engs := by assumption) :
    OkO pcs b0 (execSbc e s) := by
  delta execSbc
  repeat' first
    | with_reducible assumption | extract_lets | intro _ | with_reducible apply okO_next
    | with_reducible apply okO_ite | with_reducible apply engDo_ok | with_reducible apply engDo_ok'
    | with_reducible apply binary_ok | with_reducible apply binary_ok' | rfl | exact ⟨rfl, rfl⟩ | split
    | dsimp +zetaDelta -zeta only

theorem execAdds_ok {pcs : Piece → Prop} {b0 : State} (e : EngId) (s : State) (hok : Ok pcs b0 s)
    (hp0 : pcs .free := by assumption) (hp1 : pcs .regs := by assumption) (hp2 : pcs .mem := by assumption)
    (hp3 : pcs .host := by assumption) (hp4 : pcs .lanes := by assumption) (hp5 : pcs .pins := by assumption)
    (hp6 : pcs .tx := by assumption) (hp7 : pcs .objs := by assumption) (hp8 : pcs .routes := by assumption)
    (hp9 : pcs .col := by assumption) (hp10 : pcs .firn := by assumption) (hp11 : pcs .rings := by assumption)
    (hp12 : pcs .irq := by assumption) (hp13 : pcs .mor := by assumption) (hp14 : pcs .stack := by assumption)
    (hp15 : pcs .boot := by assumption) (hp16 : pcs .poison := by assumption) (hp17 : pcs .engs := by assumption) :
    OkO pcs b0 (execAdds e s) := by
  delta execAdds
  repeat' first
    | with_reducible assumption | extract_lets | intro _ | with_reducible apply okO_next
    | with_reducible apply okO_ite | with_reducible apply engDo_ok | with_reducible apply engDo_ok'
    | with_reducible apply binary_ok | with_reducible apply binary_ok' | rfl | exact ⟨rfl, rfl⟩ | split
    | dsimp +zetaDelta -zeta only

theorem execSubs_ok {pcs : Piece → Prop} {b0 : State} (e : EngId) (s : State) (hok : Ok pcs b0 s)
    (hp0 : pcs .free := by assumption) (hp1 : pcs .regs := by assumption) (hp2 : pcs .mem := by assumption)
    (hp3 : pcs .host := by assumption) (hp4 : pcs .lanes := by assumption) (hp5 : pcs .pins := by assumption)
    (hp6 : pcs .tx := by assumption) (hp7 : pcs .objs := by assumption) (hp8 : pcs .routes := by assumption)
    (hp9 : pcs .col := by assumption) (hp10 : pcs .firn := by assumption) (hp11 : pcs .rings := by assumption)
    (hp12 : pcs .irq := by assumption) (hp13 : pcs .mor := by assumption) (hp14 : pcs .stack := by assumption)
    (hp15 : pcs .boot := by assumption) (hp16 : pcs .poison := by assumption) (hp17 : pcs .engs := by assumption) :
    OkO pcs b0 (execSubs e s) := by
  delta execSubs
  repeat' first
    | with_reducible assumption | extract_lets | intro _ | with_reducible apply okO_next
    | with_reducible apply okO_ite | with_reducible apply engDo_ok | with_reducible apply engDo_ok'
    | with_reducible apply binary_ok | with_reducible apply binary_ok' | rfl | exact ⟨rfl, rfl⟩ | split
    | dsimp +zetaDelta -zeta only

theorem execMul_ok {pcs : Piece → Prop} {b0 : State} (e : EngId) (s : State) (hok : Ok pcs b0 s)
    (hp0 : pcs .free := by assumption) (hp1 : pcs .regs := by assumption) (hp2 : pcs .mem := by assumption)
    (hp3 : pcs .host := by assumption) (hp4 : pcs .lanes := by assumption) (hp5 : pcs .pins := by assumption)
    (hp6 : pcs .tx := by assumption) (hp7 : pcs .objs := by assumption) (hp8 : pcs .routes := by assumption)
    (hp9 : pcs .col := by assumption) (hp10 : pcs .firn := by assumption) (hp11 : pcs .rings := by assumption)
    (hp12 : pcs .irq := by assumption) (hp13 : pcs .mor := by assumption) (hp14 : pcs .stack := by assumption)
    (hp15 : pcs .boot := by assumption) (hp16 : pcs .poison := by assumption) (hp17 : pcs .engs := by assumption) :
    OkO pcs b0 (execMul e s) := by
  delta execMul
  repeat' first
    | with_reducible assumption | extract_lets | intro _ | with_reducible apply okO_next
    | with_reducible apply okO_ite | with_reducible apply engDo_ok | with_reducible apply engDo_ok'
    | with_reducible apply binary_ok | with_reducible apply binary_ok' | rfl | exact ⟨rfl, rfl⟩ | split
    | dsimp +zetaDelta -zeta only

theorem execMulh_ok {pcs : Piece → Prop} {b0 : State} (e : EngId) (u : Bool) (s : State) (hok : Ok pcs b0 s)
    (hp0 : pcs .free := by assumption) (hp1 : pcs .regs := by assumption) (hp2 : pcs .mem := by assumption)
    (hp3 : pcs .host := by assumption) (hp4 : pcs .lanes := by assumption) (hp5 : pcs .pins := by assumption)
    (hp6 : pcs .tx := by assumption) (hp7 : pcs .objs := by assumption) (hp8 : pcs .routes := by assumption)
    (hp9 : pcs .col := by assumption) (hp10 : pcs .firn := by assumption) (hp11 : pcs .rings := by assumption)
    (hp12 : pcs .irq := by assumption) (hp13 : pcs .mor := by assumption) (hp14 : pcs .stack := by assumption)
    (hp15 : pcs .boot := by assumption) (hp16 : pcs .poison := by assumption) (hp17 : pcs .engs := by assumption) :
    OkO pcs b0 (execMulh e u s) := by
  delta execMulh
  repeat' first
    | with_reducible assumption | extract_lets | intro _ | with_reducible apply okO_next
    | with_reducible apply okO_ite | with_reducible apply ok_ite | with_reducible apply engDo_ok
    | with_reducible apply engDo_ok' | with_reducible apply binary_ok | with_reducible apply binary_ok' | rfl
    | exact ⟨rfl, rfl⟩ | split | dsimp +zetaDelta -zeta only

theorem divide_ok {pcs : Piece → Prop} {b0 : State} (s : State) (e : Nat) (sgn : Bool) (hok : Ok pcs b0 s)
    (hp0 : pcs .engs := by assumption) :
    OkE pcs b0 (divide s e sgn) := by
  unfold divide
  dsimp only
  split
  · next b a os h =>
    refine okE_ok (State.setEng_ok _ _ _ hok ⟨?_, (hok.fits e).rs, (hok.fits e).saved⟩)
    have := (hok.fits e).os; rw [h] at this; exact this
  · exact okE_fault

theorem execDiv_ok {pcs : Piece → Prop} {b0 : State} (e : EngId) (s : State) (hok : Ok pcs b0 s)
    (hp0 : pcs .free := by assumption) (hp1 : pcs .regs := by assumption) (hp2 : pcs .mem := by assumption)
    (hp3 : pcs .host := by assumption) (hp4 : pcs .lanes := by assumption) (hp5 : pcs .pins := by assumption)
    (hp6 : pcs .tx := by assumption) (hp7 : pcs .objs := by assumption) (hp8 : pcs .routes := by assumption)
    (hp9 : pcs .col := by assumption) (hp10 : pcs .firn := by assumption) (hp11 : pcs .rings := by assumption)
    (hp12 : pcs .irq := by assumption) (hp13 : pcs .mor := by assumption) (hp14 : pcs .stack := by assumption)
    (hp15 : pcs .boot := by assumption) (hp16 : pcs .poison := by assumption) (hp17 : pcs .engs := by assumption) :
    OkO pcs b0 (execDiv e s) := by
  delta execDiv
  repeat' first
    | with_reducible assumption | extract_lets | intro _ | with_reducible apply okO_next
    | with_reducible apply okO_ite | with_reducible apply engDo_ok | with_reducible apply engDo_ok'
    | with_reducible apply divide_ok | with_reducible apply divide_ok' | rfl | exact ⟨rfl, rfl⟩ | split
    | dsimp +zetaDelta -zeta only

theorem execDivu_ok {pcs : Piece → Prop} {b0 : State} (e : EngId) (s : State) (hok : Ok pcs b0 s)
    (hp0 : pcs .free := by assumption) (hp1 : pcs .regs := by assumption) (hp2 : pcs .mem := by assumption)
    (hp3 : pcs .host := by assumption) (hp4 : pcs .lanes := by assumption) (hp5 : pcs .pins := by assumption)
    (hp6 : pcs .tx := by assumption) (hp7 : pcs .objs := by assumption) (hp8 : pcs .routes := by assumption)
    (hp9 : pcs .col := by assumption) (hp10 : pcs .firn := by assumption) (hp11 : pcs .rings := by assumption)
    (hp12 : pcs .irq := by assumption) (hp13 : pcs .mor := by assumption) (hp14 : pcs .stack := by assumption)
    (hp15 : pcs .boot := by assumption) (hp16 : pcs .poison := by assumption) (hp17 : pcs .engs := by assumption) :
    OkO pcs b0 (execDivu e s) := by
  delta execDivu
  repeat' first
    | with_reducible assumption | extract_lets | intro _ | with_reducible apply okO_next
    | with_reducible apply okO_ite | with_reducible apply engDo_ok | with_reducible apply engDo_ok'
    | with_reducible apply divide_ok | with_reducible apply divide_ok' | rfl | exact ⟨rfl, rfl⟩ | split
    | dsimp +zetaDelta -zeta only

theorem execNeg_ok {pcs : Piece → Prop} {b0 : State} (e : EngId) (s : State) (hok : Ok pcs b0 s)
    (hp0 : pcs .free := by assumption) (hp1 : pcs .regs := by assumption) (hp2 : pcs .mem := by assumption)
    (hp3 : pcs .host := by assumption) (hp4 : pcs .lanes := by assumption) (hp5 : pcs .pins := by assumption)
    (hp6 : pcs .tx := by assumption) (hp7 : pcs .objs := by assumption) (hp8 : pcs .routes := by assumption)
    (hp9 : pcs .col := by assumption) (hp10 : pcs .firn := by assumption) (hp11 : pcs .rings := by assumption)
    (hp12 : pcs .irq := by assumption) (hp13 : pcs .mor := by assumption) (hp14 : pcs .stack := by assumption)
    (hp15 : pcs .boot := by assumption) (hp16 : pcs .poison := by assumption) (hp17 : pcs .engs := by assumption) :
    OkO pcs b0 (execNeg e s) := by
  delta execNeg
  repeat' first
    | with_reducible assumption | extract_lets | intro _ | with_reducible apply okO_next
    | with_reducible apply okO_ite | with_reducible apply engDo_ok | with_reducible apply engDo_ok'
    | with_reducible apply unary_ok | with_reducible apply unary_ok' | rfl | exact ⟨rfl, rfl⟩ | split
    | dsimp +zetaDelta -zeta only

theorem execAbs_ok {pcs : Piece → Prop} {b0 : State} (e : EngId) (s : State) (hok : Ok pcs b0 s)
    (hp0 : pcs .free := by assumption) (hp1 : pcs .regs := by assumption) (hp2 : pcs .mem := by assumption)
    (hp3 : pcs .host := by assumption) (hp4 : pcs .lanes := by assumption) (hp5 : pcs .pins := by assumption)
    (hp6 : pcs .tx := by assumption) (hp7 : pcs .objs := by assumption) (hp8 : pcs .routes := by assumption)
    (hp9 : pcs .col := by assumption) (hp10 : pcs .firn := by assumption) (hp11 : pcs .rings := by assumption)
    (hp12 : pcs .irq := by assumption) (hp13 : pcs .mor := by assumption) (hp14 : pcs .stack := by assumption)
    (hp15 : pcs .boot := by assumption) (hp16 : pcs .poison := by assumption) (hp17 : pcs .engs := by assumption) :
    OkO pcs b0 (execAbs e s) := by
  delta execAbs
  repeat' first
    | with_reducible assumption | extract_lets | intro _ | with_reducible apply okO_next
    | with_reducible apply okO_ite | with_reducible apply ok_ite | with_reducible apply engDo_ok
    | with_reducible apply engDo_ok' | with_reducible apply unary_ok | with_reducible apply unary_ok' | rfl
    | exact ⟨rfl, rfl⟩ | split | dsimp +zetaDelta -zeta only

theorem execAnd_ok {pcs : Piece → Prop} {b0 : State} (e : EngId) (s : State) (hok : Ok pcs b0 s)
    (hp0 : pcs .free := by assumption) (hp1 : pcs .regs := by assumption) (hp2 : pcs .mem := by assumption)
    (hp3 : pcs .host := by assumption) (hp4 : pcs .lanes := by assumption) (hp5 : pcs .pins := by assumption)
    (hp6 : pcs .tx := by assumption) (hp7 : pcs .objs := by assumption) (hp8 : pcs .routes := by assumption)
    (hp9 : pcs .col := by assumption) (hp10 : pcs .firn := by assumption) (hp11 : pcs .rings := by assumption)
    (hp12 : pcs .irq := by assumption) (hp13 : pcs .mor := by assumption) (hp14 : pcs .stack := by assumption)
    (hp15 : pcs .boot := by assumption) (hp16 : pcs .poison := by assumption) (hp17 : pcs .engs := by assumption) :
    OkO pcs b0 (execAnd e s) := by
  delta execAnd
  repeat' first
    | with_reducible assumption | extract_lets | intro _ | with_reducible apply okO_next
    | with_reducible apply okO_ite | with_reducible apply engDo_ok | with_reducible apply engDo_ok'
    | with_reducible apply binary_ok | with_reducible apply binary_ok' | rfl | exact ⟨rfl, rfl⟩ | split
    | dsimp +zetaDelta -zeta only

theorem execOr_ok {pcs : Piece → Prop} {b0 : State} (e : EngId) (s : State) (hok : Ok pcs b0 s)
    (hp0 : pcs .free := by assumption) (hp1 : pcs .regs := by assumption) (hp2 : pcs .mem := by assumption)
    (hp3 : pcs .host := by assumption) (hp4 : pcs .lanes := by assumption) (hp5 : pcs .pins := by assumption)
    (hp6 : pcs .tx := by assumption) (hp7 : pcs .objs := by assumption) (hp8 : pcs .routes := by assumption)
    (hp9 : pcs .col := by assumption) (hp10 : pcs .firn := by assumption) (hp11 : pcs .rings := by assumption)
    (hp12 : pcs .irq := by assumption) (hp13 : pcs .mor := by assumption) (hp14 : pcs .stack := by assumption)
    (hp15 : pcs .boot := by assumption) (hp16 : pcs .poison := by assumption) (hp17 : pcs .engs := by assumption) :
    OkO pcs b0 (execOr e s) := by
  delta execOr
  repeat' first
    | with_reducible assumption | extract_lets | intro _ | with_reducible apply okO_next
    | with_reducible apply okO_ite | with_reducible apply engDo_ok | with_reducible apply engDo_ok'
    | with_reducible apply binary_ok | with_reducible apply binary_ok' | rfl | exact ⟨rfl, rfl⟩ | split
    | dsimp +zetaDelta -zeta only

theorem execXor_ok {pcs : Piece → Prop} {b0 : State} (e : EngId) (s : State) (hok : Ok pcs b0 s)
    (hp0 : pcs .free := by assumption) (hp1 : pcs .regs := by assumption) (hp2 : pcs .mem := by assumption)
    (hp3 : pcs .host := by assumption) (hp4 : pcs .lanes := by assumption) (hp5 : pcs .pins := by assumption)
    (hp6 : pcs .tx := by assumption) (hp7 : pcs .objs := by assumption) (hp8 : pcs .routes := by assumption)
    (hp9 : pcs .col := by assumption) (hp10 : pcs .firn := by assumption) (hp11 : pcs .rings := by assumption)
    (hp12 : pcs .irq := by assumption) (hp13 : pcs .mor := by assumption) (hp14 : pcs .stack := by assumption)
    (hp15 : pcs .boot := by assumption) (hp16 : pcs .poison := by assumption) (hp17 : pcs .engs := by assumption) :
    OkO pcs b0 (execXor e s) := by
  delta execXor
  repeat' first
    | with_reducible assumption | extract_lets | intro _ | with_reducible apply okO_next
    | with_reducible apply okO_ite | with_reducible apply engDo_ok | with_reducible apply engDo_ok'
    | with_reducible apply binary_ok | with_reducible apply binary_ok' | rfl | exact ⟨rfl, rfl⟩ | split
    | dsimp +zetaDelta -zeta only

theorem execNot_ok {pcs : Piece → Prop} {b0 : State} (e : EngId) (s : State) (hok : Ok pcs b0 s)
    (hp0 : pcs .free := by assumption) (hp1 : pcs .regs := by assumption) (hp2 : pcs .mem := by assumption)
    (hp3 : pcs .host := by assumption) (hp4 : pcs .lanes := by assumption) (hp5 : pcs .pins := by assumption)
    (hp6 : pcs .tx := by assumption) (hp7 : pcs .objs := by assumption) (hp8 : pcs .routes := by assumption)
    (hp9 : pcs .col := by assumption) (hp10 : pcs .firn := by assumption) (hp11 : pcs .rings := by assumption)
    (hp12 : pcs .irq := by assumption) (hp13 : pcs .mor := by assumption) (hp14 : pcs .stack := by assumption)
    (hp15 : pcs .boot := by assumption) (hp16 : pcs .poison := by assumption) (hp17 : pcs .engs := by assumption) :
    OkO pcs b0 (execNot e s) := by
  delta execNot
  repeat' first
    | with_reducible assumption | extract_lets | intro _ | with_reducible apply okO_next
    | with_reducible apply okO_ite | with_reducible apply engDo_ok | with_reducible apply engDo_ok'
    | with_reducible apply unary_ok | with_reducible apply unary_ok' | rfl | exact ⟨rfl, rfl⟩ | split
    | dsimp +zetaDelta -zeta only

theorem execShl_ok {pcs : Piece → Prop} {b0 : State} (e : EngId) (s : State) (hok : Ok pcs b0 s)
    (hp0 : pcs .free := by assumption) (hp1 : pcs .regs := by assumption) (hp2 : pcs .mem := by assumption)
    (hp3 : pcs .host := by assumption) (hp4 : pcs .lanes := by assumption) (hp5 : pcs .pins := by assumption)
    (hp6 : pcs .tx := by assumption) (hp7 : pcs .objs := by assumption) (hp8 : pcs .routes := by assumption)
    (hp9 : pcs .col := by assumption) (hp10 : pcs .firn := by assumption) (hp11 : pcs .rings := by assumption)
    (hp12 : pcs .irq := by assumption) (hp13 : pcs .mor := by assumption) (hp14 : pcs .stack := by assumption)
    (hp15 : pcs .boot := by assumption) (hp16 : pcs .poison := by assumption) (hp17 : pcs .engs := by assumption) :
    OkO pcs b0 (execShl e s) := by
  delta execShl
  repeat' first
    | with_reducible assumption | extract_lets | intro _ | with_reducible apply okO_next
    | with_reducible apply okO_ite | with_reducible apply engDo_ok | with_reducible apply engDo_ok'
    | with_reducible apply binary_ok | with_reducible apply binary_ok' | rfl | exact ⟨rfl, rfl⟩ | split
    | dsimp +zetaDelta -zeta only

theorem execShr_ok {pcs : Piece → Prop} {b0 : State} (e : EngId) (s : State) (hok : Ok pcs b0 s)
    (hp0 : pcs .free := by assumption) (hp1 : pcs .regs := by assumption) (hp2 : pcs .mem := by assumption)
    (hp3 : pcs .host := by assumption) (hp4 : pcs .lanes := by assumption) (hp5 : pcs .pins := by assumption)
    (hp6 : pcs .tx := by assumption) (hp7 : pcs .objs := by assumption) (hp8 : pcs .routes := by assumption)
    (hp9 : pcs .col := by assumption) (hp10 : pcs .firn := by assumption) (hp11 : pcs .rings := by assumption)
    (hp12 : pcs .irq := by assumption) (hp13 : pcs .mor := by assumption) (hp14 : pcs .stack := by assumption)
    (hp15 : pcs .boot := by assumption) (hp16 : pcs .poison := by assumption) (hp17 : pcs .engs := by assumption) :
    OkO pcs b0 (execShr e s) := by
  delta execShr
  repeat' first
    | with_reducible assumption | extract_lets | intro _ | with_reducible apply okO_next
    | with_reducible apply okO_ite | with_reducible apply engDo_ok | with_reducible apply engDo_ok'
    | with_reducible apply binary_ok | with_reducible apply binary_ok' | rfl | exact ⟨rfl, rfl⟩ | split
    | dsimp +zetaDelta -zeta only

theorem execSar_ok {pcs : Piece → Prop} {b0 : State} (e : EngId) (s : State) (hok : Ok pcs b0 s)
    (hp0 : pcs .free := by assumption) (hp1 : pcs .regs := by assumption) (hp2 : pcs .mem := by assumption)
    (hp3 : pcs .host := by assumption) (hp4 : pcs .lanes := by assumption) (hp5 : pcs .pins := by assumption)
    (hp6 : pcs .tx := by assumption) (hp7 : pcs .objs := by assumption) (hp8 : pcs .routes := by assumption)
    (hp9 : pcs .col := by assumption) (hp10 : pcs .firn := by assumption) (hp11 : pcs .rings := by assumption)
    (hp12 : pcs .irq := by assumption) (hp13 : pcs .mor := by assumption) (hp14 : pcs .stack := by assumption)
    (hp15 : pcs .boot := by assumption) (hp16 : pcs .poison := by assumption) (hp17 : pcs .engs := by assumption) :
    OkO pcs b0 (execSar e s) := by
  delta execSar
  repeat' first
    | with_reducible assumption | extract_lets | intro _ | with_reducible apply okO_next
    | with_reducible apply okO_ite | with_reducible apply engDo_ok | with_reducible apply engDo_ok'
    | with_reducible apply binary_ok | with_reducible apply binary_ok' | rfl | exact ⟨rfl, rfl⟩ | split
    | dsimp +zetaDelta -zeta only

theorem execRol_ok {pcs : Piece → Prop} {b0 : State} (e : EngId) (s : State) (hok : Ok pcs b0 s)
    (hp0 : pcs .free := by assumption) (hp1 : pcs .regs := by assumption) (hp2 : pcs .mem := by assumption)
    (hp3 : pcs .host := by assumption) (hp4 : pcs .lanes := by assumption) (hp5 : pcs .pins := by assumption)
    (hp6 : pcs .tx := by assumption) (hp7 : pcs .objs := by assumption) (hp8 : pcs .routes := by assumption)
    (hp9 : pcs .col := by assumption) (hp10 : pcs .firn := by assumption) (hp11 : pcs .rings := by assumption)
    (hp12 : pcs .irq := by assumption) (hp13 : pcs .mor := by assumption) (hp14 : pcs .stack := by assumption)
    (hp15 : pcs .boot := by assumption) (hp16 : pcs .poison := by assumption) (hp17 : pcs .engs := by assumption) :
    OkO pcs b0 (execRol e s) := by
  delta execRol
  repeat' first
    | with_reducible assumption | extract_lets | intro _ | with_reducible apply okO_next
    | with_reducible apply okO_ite | with_reducible apply engDo_ok | with_reducible apply engDo_ok'
    | with_reducible apply binary_ok | with_reducible apply binary_ok' | rfl | exact ⟨rfl, rfl⟩ | split
    | dsimp +zetaDelta -zeta only

theorem execRor_ok {pcs : Piece → Prop} {b0 : State} (e : EngId) (s : State) (hok : Ok pcs b0 s)
    (hp0 : pcs .free := by assumption) (hp1 : pcs .regs := by assumption) (hp2 : pcs .mem := by assumption)
    (hp3 : pcs .host := by assumption) (hp4 : pcs .lanes := by assumption) (hp5 : pcs .pins := by assumption)
    (hp6 : pcs .tx := by assumption) (hp7 : pcs .objs := by assumption) (hp8 : pcs .routes := by assumption)
    (hp9 : pcs .col := by assumption) (hp10 : pcs .firn := by assumption) (hp11 : pcs .rings := by assumption)
    (hp12 : pcs .irq := by assumption) (hp13 : pcs .mor := by assumption) (hp14 : pcs .stack := by assumption)
    (hp15 : pcs .boot := by assumption) (hp16 : pcs .poison := by assumption) (hp17 : pcs .engs := by assumption) :
    OkO pcs b0 (execRor e s) := by
  delta execRor
  repeat' first
    | with_reducible assumption | extract_lets | intro _ | with_reducible apply okO_next
    | with_reducible apply okO_ite | with_reducible apply engDo_ok | with_reducible apply engDo_ok'
    | with_reducible apply binary_ok | with_reducible apply binary_ok' | rfl | exact ⟨rfl, rfl⟩ | split
    | dsimp +zetaDelta -zeta only

theorem execShi_ok {pcs : Piece → Prop} {b0 : State} (e : EngId) (k : BitVec 2) (n : BitVec 6) (s : State)
    (hok : Ok pcs b0 s) (hp0 : pcs .free := by assumption) (hp1 : pcs .regs := by assumption)
    (hp2 : pcs .mem := by assumption) (hp3 : pcs .host := by assumption) (hp4 : pcs .lanes := by assumption)
    (hp5 : pcs .pins := by assumption) (hp6 : pcs .tx := by assumption) (hp7 : pcs .objs := by assumption)
    (hp8 : pcs .routes := by assumption) (hp9 : pcs .col := by assumption) (hp10 : pcs .firn := by assumption)
    (hp11 : pcs .rings := by assumption) (hp12 : pcs .irq := by assumption) (hp13 : pcs .mor := by assumption)
    (hp14 : pcs .stack := by assumption) (hp15 : pcs .boot := by assumption) (hp16 : pcs .poison := by assumption)
    (hp17 : pcs .engs := by assumption) :
    OkO pcs b0 (execShi e k n s) := by
  delta execShi
  repeat' first
    | with_reducible assumption | extract_lets | intro _ | with_reducible apply okO_next
    | with_reducible apply okO_ite | with_reducible apply engDo_ok | with_reducible apply engDo_ok'
    | with_reducible apply unary_ok | with_reducible apply unary_ok' | rfl | exact ⟨rfl, rfl⟩ | split
    | dsimp +zetaDelta -zeta only

theorem compare_ok {pcs : Piece → Prop} {b0 : State} (s : State) (e : Nat) (hok : Ok pcs b0 s)
    (hp0 : pcs .engs := by assumption) :
    OkE pcs b0 (compare s e) := by
  unfold compare
  dsimp only
  split
  · next b a os h =>
    refine okE_ok (State.setEng_ok _ _ _ hok ⟨?_, (hok.fits e).rs, (hok.fits e).saved⟩)
    have := (hok.fits e).os; rw [h] at this; simp only [List.length_cons] at this; dsimp only; omega
  · exact okE_fault

theorem execCmp_ok {pcs : Piece → Prop} {b0 : State} (e : EngId) (s : State) (hok : Ok pcs b0 s)
    (hp0 : pcs .free := by assumption) (hp1 : pcs .regs := by assumption) (hp2 : pcs .mem := by assumption)
    (hp3 : pcs .host := by assumption) (hp4 : pcs .lanes := by assumption) (hp5 : pcs .pins := by assumption)
    (hp6 : pcs .tx := by assumption) (hp7 : pcs .objs := by assumption) (hp8 : pcs .routes := by assumption)
    (hp9 : pcs .col := by assumption) (hp10 : pcs .firn := by assumption) (hp11 : pcs .rings := by assumption)
    (hp12 : pcs .irq := by assumption) (hp13 : pcs .mor := by assumption) (hp14 : pcs .stack := by assumption)
    (hp15 : pcs .boot := by assumption) (hp16 : pcs .poison := by assumption) (hp17 : pcs .engs := by assumption) :
    OkO pcs b0 (execCmp e s) := by
  delta execCmp
  repeat' first
    | with_reducible assumption | extract_lets | intro _ | with_reducible apply okO_next
    | with_reducible apply okO_ite | with_reducible apply engDo_ok | with_reducible apply engDo_ok'
    | with_reducible apply compare_ok | with_reducible apply compare_ok' | rfl | exact ⟨rfl, rfl⟩ | split
    | dsimp +zetaDelta -zeta only

theorem execTst_ok {pcs : Piece → Prop} {b0 : State} (e : EngId) (s : State) (hok : Ok pcs b0 s)
    (hp0 : pcs .free := by assumption) (hp1 : pcs .regs := by assumption) (hp2 : pcs .mem := by assumption)
    (hp3 : pcs .host := by assumption) (hp4 : pcs .lanes := by assumption) (hp5 : pcs .pins := by assumption)
    (hp6 : pcs .tx := by assumption) (hp7 : pcs .objs := by assumption) (hp8 : pcs .routes := by assumption)
    (hp9 : pcs .col := by assumption) (hp10 : pcs .firn := by assumption) (hp11 : pcs .rings := by assumption)
    (hp12 : pcs .irq := by assumption) (hp13 : pcs .mor := by assumption) (hp14 : pcs .stack := by assumption)
    (hp15 : pcs .boot := by assumption) (hp16 : pcs .poison := by assumption) (hp17 : pcs .engs := by assumption) :
    OkO pcs b0 (execTst e s) := by
  delta execTst
  repeat' first
    | with_reducible assumption | extract_lets | intro _ | with_reducible apply okO_next
    | with_reducible apply okO_ite | with_reducible apply engDo_ok | with_reducible apply engDo_ok'
    | with_reducible apply unary_ok | with_reducible apply unary_ok' | rfl | exact ⟨rfl, rfl⟩ | split
    | dsimp +zetaDelta -zeta only

theorem execClz_ok {pcs : Piece → Prop} {b0 : State} (e : EngId) (s : State) (hok : Ok pcs b0 s)
    (hp0 : pcs .free := by assumption) (hp1 : pcs .regs := by assumption) (hp2 : pcs .mem := by assumption)
    (hp3 : pcs .host := by assumption) (hp4 : pcs .lanes := by assumption) (hp5 : pcs .pins := by assumption)
    (hp6 : pcs .tx := by assumption) (hp7 : pcs .objs := by assumption) (hp8 : pcs .routes := by assumption)
    (hp9 : pcs .col := by assumption) (hp10 : pcs .firn := by assumption) (hp11 : pcs .rings := by assumption)
    (hp12 : pcs .irq := by assumption) (hp13 : pcs .mor := by assumption) (hp14 : pcs .stack := by assumption)
    (hp15 : pcs .boot := by assumption) (hp16 : pcs .poison := by assumption) (hp17 : pcs .engs := by assumption) :
    OkO pcs b0 (execClz e s) := by
  delta execClz
  repeat' first
    | with_reducible assumption | extract_lets | intro _ | with_reducible apply okO_next
    | with_reducible apply okO_ite | with_reducible apply engDo_ok | with_reducible apply engDo_ok'
    | with_reducible apply unary_ok | with_reducible apply unary_ok' | rfl | exact ⟨rfl, rfl⟩ | split
    | dsimp +zetaDelta -zeta only

theorem execBswap_ok {pcs : Piece → Prop} {b0 : State} (e : EngId) (s : State) (hok : Ok pcs b0 s)
    (hp0 : pcs .free := by assumption) (hp1 : pcs .regs := by assumption) (hp2 : pcs .mem := by assumption)
    (hp3 : pcs .host := by assumption) (hp4 : pcs .lanes := by assumption) (hp5 : pcs .pins := by assumption)
    (hp6 : pcs .tx := by assumption) (hp7 : pcs .objs := by assumption) (hp8 : pcs .routes := by assumption)
    (hp9 : pcs .col := by assumption) (hp10 : pcs .firn := by assumption) (hp11 : pcs .rings := by assumption)
    (hp12 : pcs .irq := by assumption) (hp13 : pcs .mor := by assumption) (hp14 : pcs .stack := by assumption)
    (hp15 : pcs .boot := by assumption) (hp16 : pcs .poison := by assumption) (hp17 : pcs .engs := by assumption) :
    OkO pcs b0 (execBswap e s) := by
  delta execBswap
  repeat' first
    | with_reducible assumption | extract_lets | intro _ | with_reducible apply okO_next
    | with_reducible apply okO_ite | with_reducible apply engDo_ok | with_reducible apply engDo_ok'
    | with_reducible apply unary_ok | with_reducible apply unary_ok' | rfl | exact ⟨rfl, rfl⟩ | split
    | dsimp +zetaDelta -zeta only

theorem execExt_ok {pcs : Piece → Prop} {b0 : State} (e : EngId) (lsb : BitVec 5) (w : BitVec 4) (s : State)
    (hok : Ok pcs b0 s) (hp0 : pcs .free := by assumption) (hp1 : pcs .regs := by assumption)
    (hp2 : pcs .mem := by assumption) (hp3 : pcs .host := by assumption) (hp4 : pcs .lanes := by assumption)
    (hp5 : pcs .pins := by assumption) (hp6 : pcs .tx := by assumption) (hp7 : pcs .objs := by assumption)
    (hp8 : pcs .routes := by assumption) (hp9 : pcs .col := by assumption) (hp10 : pcs .firn := by assumption)
    (hp11 : pcs .rings := by assumption) (hp12 : pcs .irq := by assumption) (hp13 : pcs .mor := by assumption)
    (hp14 : pcs .stack := by assumption) (hp15 : pcs .boot := by assumption) (hp16 : pcs .poison := by assumption)
    (hp17 : pcs .engs := by assumption) :
    OkO pcs b0 (execExt e lsb w s) := by
  delta execExt
  repeat' first
    | with_reducible assumption | extract_lets | intro _ | with_reducible apply okO_next
    | with_reducible apply okO_ite | with_reducible apply engDo_ok | with_reducible apply engDo_ok'
    | with_reducible apply unary_ok | with_reducible apply unary_ok' | rfl | exact ⟨rfl, rfl⟩ | split
    | dsimp +zetaDelta -zeta only
end Sys2Proof.Machine
end

