-- ==== Sys2Proof/Laws/OkEngMem.lean ====
section
/-! SUPPORT. The engine loads and stores: every operation of Machine/EngMem.lean keeps the queue and a sane state, and changes no
piece but the ones it names. -/
namespace Sys2Proof.Machine
set_option Elab.async false

theorem Eng.bump_fits {g : Eng} (pb inc : Bool) (sz : Nat) (h : g.Fits) : (g.bump pb inc sz).Fits := by
  refine Eng.Fits.mk' ?_ h
  unfold Eng.bump Eng.setPtr
  refine ⟨?_, ?_, ?_⟩ <;> (repeat' split) <;> rfl

theorem Eng.setPtr_fits {g : Eng} (pb : Bool) (v : Word) (h : g.Fits) : (g.setPtr pb v).Fits := by
  refine Eng.Fits.mk' ?_ h
  unfold Eng.setPtr
  refine ⟨?_, ?_, ?_⟩ <;> (repeat' split) <;> rfl

theorem Eng.popx_fits {g : Eng} (k : Nat) (v : Word) (h : g.Fits) : (g.popx k v).Fits := by
  refine Eng.Fits.mk' ?_ h
  unfold Eng.popx
  refine ⟨?_, ?_, ?_⟩ <;> (repeat' split) <;> rfl


theorem execLd_ok {pcs : Piece → Prop} {b0 : State} (e : EngId) (s : State) (hok : Ok pcs b0 s)
    (hp0 : pcs .free := by assumption) (hp1 : pcs .time := by assumption) (hp2 : pcs .regs := by assumption)
    (hp3 : pcs .mem := by assumption) (hp4 : pcs .host := by assumption) (hp5 : pcs .lanes := by assumption)
    (hp6 : pcs .pins := by assumption) (hp7 : pcs .tx := by assumption) (hp8 : pcs .objs := by assumption)
    (hp9 : pcs .routes := by assumption) (hp10 : pcs .col := by assumption) (hp11 : pcs .firn := by assumption)
    (hp12 : pcs .rings := by assumption) (hp13 : pcs .irq := by assumption) (hp14 : pcs .mor := by assumption)
    (hp15 : pcs .stack := by assumption) (hp16 : pcs .snow := by assumption) (hp17 : pcs .boot := by assumption)
    (hp18 : pcs .poison := by assumption) (hp19 : pcs .engs := by assumption) :
    OkO pcs b0 (execLd e s) := by
  delta execLd
  repeat' first
    | with_reducible assumption | extract_lets | intro _ | with_reducible apply okO_next
    | with_reducible apply okO_ite | with_reducible apply engDo_ok | with_reducible apply engDo_ok'
    | with_reducible apply loadPush_ok | with_reducible apply loadPush_ok' | rfl | exact ⟨rfl, rfl⟩ | split
    | dsimp +zetaDelta -zeta only

theorem execSt_ok {pcs : Piece → Prop} {b0 : State} (e : EngId) (s : State) (hok : Ok pcs b0 s)
    (hp0 : pcs .free := by assumption) (hp1 : pcs .time := by assumption) (hp2 : pcs .regs := by assumption)
    (hp3 : pcs .mem := by assumption) (hp4 : pcs .host := by assumption) (hp5 : pcs .lanes := by assumption)
    (hp6 : pcs .pins := by assumption) (hp7 : pcs .tx := by assumption) (hp8 : pcs .objs := by assumption)
    (hp9 : pcs .filters := by assumption) (hp10 : pcs .routes := by assumption) (hp11 : pcs .col := by assumption)
    (hp12 : pcs .firn := by assumption) (hp13 : pcs .rings := by assumption) (hp14 : pcs .irq := by assumption)
    (hp15 : pcs .mor := by assumption) (hp16 : pcs .stack := by assumption) (hp17 : pcs .eths := by assumption)
    (hp18 : pcs .snow := by assumption) (hp19 : pcs .power := by assumption) (hp20 : pcs .boot := by assumption)
    (hp21 : pcs .poison := by assumption) (hp22 : pcs .engs := by assumption) :
    OkO pcs b0 (execSt e s) := by
  delta execSt
  repeat' first
    | with_reducible assumption | extract_lets | intro _ | with_reducible apply okO_next
    | with_reducible apply okO_ite | with_reducible apply engDo_ok | with_reducible apply engDo_ok'
    | with_reducible apply storePop_ok | with_reducible apply storePop_ok' | rfl | exact ⟨rfl, rfl⟩ | split
    | dsimp +zetaDelta -zeta only

theorem loadPtr_ok {pcs : Piece → Prop} {b0 : State} (s : State) (e : Nat) (sz : Nat) (inc : Bool) (sx : Bool)
    (pb : Bool) (hok : Ok pcs b0 s) (hp0 : pcs .free := by assumption) (hp1 : pcs .time := by assumption)
    (hp2 : pcs .regs := by assumption) (hp3 : pcs .lanes := by assumption) (hp4 : pcs .pins := by assumption)
    (hp5 : pcs .irq := by assumption) (hp6 : pcs .snow := by assumption) (hp7 : pcs .engs := by assumption) :
    OkE pcs b0 (loadPtr s e sz inc sx pb) := by
  unfold loadPtr
  dsimp only
  split
  · exact okE_fault
  split
  · exact okE_fault
  next h =>
  split
  · exact okE_fault
  · next v c t ht =>
    refine okE_ok (State.modEng_ok _ _ _ (State.engLoad_ok _ _ _ _ _ hok ht) fun x hx => ⟨?_, (Eng.bump_fits pb inc sz hx).rs, (Eng.bump_fits pb inc sz hx).saved⟩)
    simp only [List.length_cons]
    omega

theorem storePtr_ok {pcs : Piece → Prop} {b0 : State} (s : State) (e : Nat) (sz : Nat) (inc : Bool) (pb : Bool)
    (hok : Ok pcs b0 s) (hp0 : pcs .free := by assumption) (hp1 : pcs .time := by assumption)
    (hp2 : pcs .regs := by assumption) (hp3 : pcs .mem := by assumption) (hp4 : pcs .host := by assumption)
    (hp5 : pcs .lanes := by assumption) (hp6 : pcs .pins := by assumption) (hp7 : pcs .tx := by assumption)
    (hp8 : pcs .objs := by assumption) (hp9 : pcs .filters := by assumption) (hp10 : pcs .routes := by assumption)
    (hp11 : pcs .col := by assumption) (hp12 : pcs .firn := by assumption) (hp13 : pcs .rings := by assumption)
    (hp14 : pcs .irq := by assumption) (hp15 : pcs .mor := by assumption) (hp16 : pcs .stack := by assumption)
    (hp17 : pcs .eths := by assumption) (hp18 : pcs .snow := by assumption) (hp19 : pcs .power := by assumption)
    (hp20 : pcs .boot := by assumption) (hp21 : pcs .poison := by assumption) (hp22 : pcs .engs := by assumption) :
    OkE pcs b0 (storePtr s e sz inc pb) := by
  unfold storePtr
  dsimp only
  split
  · exact okE_fault
  split
  · exact okE_fault
  next a os h =>
  split
  · exact okE_fault
  · next c t ht =>
    exact okE_ok (State.modEng_ok _ _ _ (State.engPut_ok _ _ _ _ _ _ hok ht) fun x hx =>
      ⟨(hok.fits e).pop h, (Eng.bump_fits pb inc sz hx).rs, (Eng.bump_fits pb inc sz hx).saved⟩)

theorem execLdp_ok {pcs : Piece → Prop} {b0 : State} (e : EngId) (sz : BitVec 2) (inc : Bool) (sx : Bool)
    (pb : Bool) (s : State) (hok : Ok pcs b0 s) (hp0 : pcs .free := by assumption)
    (hp1 : pcs .time := by assumption) (hp2 : pcs .regs := by assumption) (hp3 : pcs .mem := by assumption)
    (hp4 : pcs .host := by assumption) (hp5 : pcs .lanes := by assumption) (hp6 : pcs .pins := by assumption)
    (hp7 : pcs .tx := by assumption) (hp8 : pcs .objs := by assumption) (hp9 : pcs .routes := by assumption)
    (hp10 : pcs .col := by assumption) (hp11 : pcs .firn := by assumption) (hp12 : pcs .rings := by assumption)
    (hp13 : pcs .irq := by assumption) (hp14 : pcs .mor := by assumption) (hp15 : pcs .stack := by assumption)
    (hp16 : pcs .snow := by assumption) (hp17 : pcs .boot := by assumption) (hp18 : pcs .poison := by assumption)
    (hp19 : pcs .engs := by assumption) :
    OkO pcs b0 (execLdp e sz inc sx pb s) := by
  delta execLdp
  repeat' first
    | with_reducible assumption | extract_lets | intro _ | with_reducible apply okO_next
    | with_reducible apply okO_ite | with_reducible apply engDo_ok | with_reducible apply engDo_ok'
    | with_reducible apply loadPtr_ok | with_reducible apply loadPtr_ok' | rfl | exact ⟨rfl, rfl⟩ | split
    | dsimp +zetaDelta -zeta only

theorem execStp_ok {pcs : Piece → Prop} {b0 : State} (e : EngId) (sz : BitVec 2) (inc : Bool) (sx : Bool)
    (pb : Bool) (s : State) (hok : Ok pcs b0 s) (hp0 : pcs .free := by assumption)
    (hp1 : pcs .time := by assumption) (hp2 : pcs .regs := by assumption) (hp3 : pcs .mem := by assumption)
    (hp4 : pcs .host := by assumption) (hp5 : pcs .lanes := by assumption) (hp6 : pcs .pins := by assumption)
    (hp7 : pcs .tx := by assumption) (hp8 : pcs .objs := by assumption) (hp9 : pcs .filters := by assumption)
    (hp10 : pcs .routes := by assumption) (hp11 : pcs .col := by assumption) (hp12 : pcs .firn := by assumption)
    (hp13 : pcs .rings := by assumption) (hp14 : pcs .irq := by assumption) (hp15 : pcs .mor := by assumption)
    (hp16 : pcs .stack := by assumption) (hp17 : pcs .eths := by assumption) (hp18 : pcs .snow := by assumption)
    (hp19 : pcs .power := by assumption) (hp20 : pcs .boot := by assumption) (hp21 : pcs .poison := by assumption)
    (hp22 : pcs .engs := by assumption) :
    OkO pcs b0 (execStp e sz inc sx pb s) := by
  delta execStp
  repeat' first
    | with_reducible assumption | extract_lets | intro _ | with_reducible apply okO_next
    | with_reducible apply okO_ite | with_reducible apply engDo_ok | with_reducible apply engDo_ok'
    | with_reducible apply storePtr_ok | with_reducible apply storePtr_ok' | rfl | exact ⟨rfl, rfl⟩ | split
    | dsimp +zetaDelta -zeta only

theorem popReg_ok {pcs : Piece → Prop} {b0 : State} (s : State) (e : Nat) (k : Nat) (hok : Ok pcs b0 s)
    (hp0 : pcs .engs := by assumption) :
    OkE pcs b0 (popReg s e k) := by
  unfold popReg
  dsimp only
  split
  · exact okE_fault
  · next a os h => exact okE_ok (State.setEng_ok _ _ _ hok (Eng.popx_fits _ _ ⟨(hok.fits e).pop h, (hok.fits e).rs, (hok.fits e).saved⟩))

theorem execPopx_ok {pcs : Piece → Prop} {b0 : State} (e : EngId) (k : BitVec 2) (s : State) (hok : Ok pcs b0 s)
    (hp0 : pcs .free := by assumption) (hp1 : pcs .regs := by assumption) (hp2 : pcs .mem := by assumption)
    (hp3 : pcs .host := by assumption) (hp4 : pcs .lanes := by assumption) (hp5 : pcs .pins := by assumption)
    (hp6 : pcs .tx := by assumption) (hp7 : pcs .objs := by assumption) (hp8 : pcs .routes := by assumption)
    (hp9 : pcs .col := by assumption) (hp10 : pcs .firn := by assumption) (hp11 : pcs .rings := by assumption)
    (hp12 : pcs .irq := by assumption) (hp13 : pcs .mor := by assumption) (hp14 : pcs .stack := by assumption)
    (hp15 : pcs .boot := by assumption) (hp16 : pcs .poison := by assumption) (hp17 : pcs .engs := by assumption) :
    OkO pcs b0 (execPopx e k s) := by
  delta execPopx
  repeat' first
    | with_reducible assumption | extract_lets | intro _ | with_reducible apply okO_next
    | with_reducible apply okO_ite | with_reducible apply engDo_ok | with_reducible apply engDo_ok'
    | with_reducible apply popReg_ok | with_reducible apply popReg_ok' | rfl | exact ⟨rfl, rfl⟩ | split
    | dsimp +zetaDelta -zeta only

theorem execPushx_ok {pcs : Piece → Prop} {b0 : State} (e : EngId) (k : BitVec 2) (s : State) (hok : Ok pcs b0 s)
    (hp0 : pcs .free := by assumption) (hp1 : pcs .regs := by assumption) (hp2 : pcs .mem := by assumption)
    (hp3 : pcs .host := by assumption) (hp4 : pcs .lanes := by assumption) (hp5 : pcs .pins := by assumption)
    (hp6 : pcs .tx := by assumption) (hp7 : pcs .objs := by assumption) (hp8 : pcs .routes := by assumption)
    (hp9 : pcs .col := by assumption) (hp10 : pcs .firn := by assumption) (hp11 : pcs .rings := by assumption)
    (hp12 : pcs .irq := by assumption) (hp13 : pcs .mor := by assumption) (hp14 : pcs .stack := by assumption)
    (hp15 : pcs .boot := by assumption) (hp16 : pcs .poison := by assumption) (hp17 : pcs .engs := by assumption) :
    OkO pcs b0 (execPushx e k s) := by
  delta execPushx
  repeat' first
    | with_reducible assumption | extract_lets | intro _ | with_reducible apply okO_next
    | with_reducible apply okO_ite | with_reducible apply engDo_ok | with_reducible apply engDo_ok'
    | with_reducible apply pushOne_ok | with_reducible apply pushOne_ok' | rfl | exact ⟨rfl, rfl⟩ | split
    | dsimp +zetaDelta -zeta only

theorem amoDo_ok {pcs : Piece → Prop} {b0 : State} (s : State) (e : Nat) (k : Nat) (hok : Ok pcs b0 s)
    (hp0 : pcs .free := by assumption) (hp1 : pcs .time := by assumption) (hp2 : pcs .regs := by assumption)
    (hp3 : pcs .mem := by assumption) (hp4 : pcs .host := by assumption) (hp5 : pcs .lanes := by assumption)
    (hp6 : pcs .pins := by assumption) (hp7 : pcs .tx := by assumption) (hp8 : pcs .objs := by assumption)
    (hp9 : pcs .filters := by assumption) (hp10 : pcs .routes := by assumption) (hp11 : pcs .col := by assumption)
    (hp12 : pcs .firn := by assumption) (hp13 : pcs .rings := by assumption) (hp14 : pcs .irq := by assumption)
    (hp15 : pcs .mor := by assumption) (hp16 : pcs .stack := by assumption) (hp17 : pcs .eths := by assumption)
    (hp18 : pcs .snow := by assumption) (hp19 : pcs .power := by assumption) (hp20 : pcs .boot := by assumption)
    (hp21 : pcs .poison := by assumption) (hp22 : pcs .engs := by assumption) :
    OkE pcs b0 (amoDo s e k) := by
  unfold amoDo
  split
  · next a x os h =>
    split
    · exact okE_fault
    split
    · exact okE_fault
    split
    · exact okE_fault
    next v c t ht =>
    split
    · exact okE_fault
    · next c t ht' =>
      refine okE_ok (State.modEng_ok _ _ _ (State.engPut_ok _ _ _ _ _ _ (State.engLoad_ok _ _ _ _ _ hok ht) ht') fun y hy => ⟨?_, hy.rs, hy.saved⟩)
      have := (hok.fits e).os; rw [h] at this; simp only [List.length_cons] at this ⊢; omega
  · exact okE_fault

theorem execAmo_ok {pcs : Piece → Prop} {b0 : State} (e : EngId) (k : BitVec 2) (s : State) (hok : Ok pcs b0 s)
    (hp0 : pcs .free := by assumption) (hp1 : pcs .time := by assumption) (hp2 : pcs .regs := by assumption)
    (hp3 : pcs .mem := by assumption) (hp4 : pcs .host := by assumption) (hp5 : pcs .lanes := by assumption)
    (hp6 : pcs .pins := by assumption) (hp7 : pcs .tx := by assumption) (hp8 : pcs .objs := by assumption)
    (hp9 : pcs .filters := by assumption) (hp10 : pcs .routes := by assumption) (hp11 : pcs .col := by assumption)
    (hp12 : pcs .firn := by assumption) (hp13 : pcs .rings := by assumption) (hp14 : pcs .irq := by assumption)
    (hp15 : pcs .mor := by assumption) (hp16 : pcs .stack := by assumption) (hp17 : pcs .eths := by assumption)
    (hp18 : pcs .snow := by assumption) (hp19 : pcs .power := by assumption) (hp20 : pcs .boot := by assumption)
    (hp21 : pcs .poison := by assumption) (hp22 : pcs .engs := by assumption) :
    OkO pcs b0 (execAmo e k s) := by
  delta execAmo
  repeat' first
    | with_reducible assumption | extract_lets | intro _ | with_reducible apply okO_next
    | with_reducible apply okO_ite | with_reducible apply engDo_ok | with_reducible apply engDo_ok'
    | with_reducible apply amoDo_ok | with_reducible apply amoDo_ok' | rfl | exact ⟨rfl, rfl⟩ | split
    | dsimp +zetaDelta -zeta only

theorem execAddp_ok {pcs : Piece → Prop} {b0 : State} (e : EngId) (pb : Bool) (v : BitVec 8) (s : State)
    (hok : Ok pcs b0 s) (hp0 : pcs .free := by assumption) (hp1 : pcs .regs := by assumption)
    (hp2 : pcs .mem := by assumption) (hp3 : pcs .host := by assumption) (hp4 : pcs .lanes := by assumption)
    (hp5 : pcs .pins := by assumption) (hp6 : pcs .tx := by assumption) (hp7 : pcs .objs := by assumption)
    (hp8 : pcs .routes := by assumption) (hp9 : pcs .col := by assumption) (hp10 : pcs .firn := by assumption)
    (hp11 : pcs .rings := by assumption) (hp12 : pcs .irq := by assumption) (hp13 : pcs .mor := by assumption)
    (hp14 : pcs .stack := by assumption) (hp15 : pcs .boot := by assumption) (hp16 : pcs .poison := by assumption)
    (hp17 : pcs .engs := by assumption) :
    OkO pcs b0 (execAddp e pb v s) :=
  engDo_ok _ _ _ _ hok fun _ h => plain_ok _ _ _ h fun _ hx => Eng.setPtr_fits _ _ hx

theorem execSetrc_ok {pcs : Piece → Prop} {b0 : State} (e : EngId) (v : BitVec 9) (s : State) (hok : Ok pcs b0 s)
    (hp0 : pcs .free := by assumption) (hp1 : pcs .regs := by assumption) (hp2 : pcs .mem := by assumption)
    (hp3 : pcs .host := by assumption) (hp4 : pcs .lanes := by assumption) (hp5 : pcs .pins := by assumption)
    (hp6 : pcs .tx := by assumption) (hp7 : pcs .objs := by assumption) (hp8 : pcs .routes := by assumption)
    (hp9 : pcs .col := by assumption) (hp10 : pcs .firn := by assumption) (hp11 : pcs .rings := by assumption)
    (hp12 : pcs .irq := by assumption) (hp13 : pcs .mor := by assumption) (hp14 : pcs .stack := by assumption)
    (hp15 : pcs .boot := by assumption) (hp16 : pcs .poison := by assumption) (hp17 : pcs .engs := by assumption) :
    OkO pcs b0 (execSetrc e v s) := by
  delta execSetrc
  repeat' first
    | with_reducible assumption | extract_lets | intro _ | with_reducible apply okO_next
    | with_reducible apply okO_ite | with_reducible apply engDo_ok | with_reducible apply engDo_ok'
    | with_reducible apply plain_ok | with_reducible apply plain_ok' | rfl | exact ⟨rfl, rfl⟩
    | (apply Eng.Fits.of (by assumption) <;> rfl) | (apply Ok.fits_of (by assumption) <;> rfl) | split
    | dsimp +zetaDelta -zeta only
end Sys2Proof.Machine
end

