-- ==== Sys2Proof/Laws/OkEngCtl.lean ====
section
/-! SUPPORT. The engine control transfers: every operation of Machine/EngCtl.lean keeps the queue and a sane state, and changes no
piece but the ones it names. -/
namespace Sys2Proof.Machine
set_option Elab.async false

theorem execRep_ok {pcs : Piece → Prop} {b0 : State} (e : EngId) (s : State) (hok : Ok pcs b0 s)
    (hp0 : pcs .free := by assumption) (hp1 : pcs .regs := by assumption) (hp2 : pcs .mem := by assumption)
    (hp3 : pcs .host := by assumption) (hp4 : pcs .lanes := by assumption) (hp5 : pcs .pins := by assumption)
    (hp6 : pcs .tx := by assumption) (hp7 : pcs .objs := by assumption) (hp8 : pcs .routes := by assumption)
    (hp9 : pcs .col := by assumption) (hp10 : pcs .firn := by assumption) (hp11 : pcs .rings := by assumption)
    (hp12 : pcs .irq := by assumption) (hp13 : pcs .mor := by assumption) (hp14 : pcs .stack := by assumption)
    (hp15 : pcs .boot := by assumption) (hp16 : pcs .poison := by assumption) (hp17 : pcs .engs := by assumption) :
    OkO pcs b0 (execRep e s) := by
  delta execRep
  repeat' first
    | with_reducible assumption | extract_lets | intro _ | with_reducible apply okO_next
    | with_reducible apply okO_ite | with_reducible apply engDo_ok | with_reducible apply engDo_ok'
    | with_reducible apply repPop_ok | with_reducible apply repPop_ok' | rfl | exact ⟨rfl, rfl⟩ | split
    | dsimp +zetaDelta -zeta only

theorem withTarget_ok {pcs : Piece → Prop} {b0 : State} (s : State) (e : Nat) (f : State → Nat → EngEnd) (hok :
    Ok pcs b0 s)
    (hf : ∀ s n, Ok pcs b0 s → OkE pcs b0 (f s n)) (hp0 : pcs .engs := by assumption) : OkE pcs b0 (withTarget s e f) := by
  unfold withTarget
  dsimp only
  split
  · exact okE_fault
  · next a os h => exact hf _ _ (State.setEng_ok _ _ _ hok ⟨(hok.fits e).pop h, (hok.fits e).rs, (hok.fits e).saved⟩)


theorem execCalls_ok {pcs : Piece → Prop} {b0 : State} (e : EngId) (s : State) (hok : Ok pcs b0 s)
    (hp0 : pcs .free := by assumption) (hp1 : pcs .regs := by assumption) (hp2 : pcs .mem := by assumption)
    (hp3 : pcs .host := by assumption) (hp4 : pcs .lanes := by assumption) (hp5 : pcs .pins := by assumption)
    (hp6 : pcs .tx := by assumption) (hp7 : pcs .objs := by assumption) (hp8 : pcs .routes := by assumption)
    (hp9 : pcs .col := by assumption) (hp10 : pcs .firn := by assumption) (hp11 : pcs .rings := by assumption)
    (hp12 : pcs .irq := by assumption) (hp13 : pcs .mor := by assumption) (hp14 : pcs .stack := by assumption)
    (hp15 : pcs .boot := by assumption) (hp16 : pcs .poison := by assumption) (hp17 : pcs .engs := by assumption) :
    OkO pcs b0 (execCalls e s) := by
  delta execCalls
  repeat' first
    | with_reducible assumption | extract_lets | intro _ | with_reducible apply okO_next
    | with_reducible apply okO_ite | with_reducible apply engDo_ok | with_reducible apply engDo_ok'
    | with_reducible apply withTarget_ok | with_reducible apply withTarget_ok' | with_reducible apply callTo_ok
    | with_reducible apply callTo_ok' | rfl | exact ⟨rfl, rfl⟩ | split | dsimp +zetaDelta -zeta only

theorem execJmps_ok {pcs : Piece → Prop} {b0 : State} (e : EngId) (s : State) (hok : Ok pcs b0 s)
    (hp0 : pcs .free := by assumption) (hp1 : pcs .regs := by assumption) (hp2 : pcs .mem := by assumption)
    (hp3 : pcs .host := by assumption) (hp4 : pcs .lanes := by assumption) (hp5 : pcs .pins := by assumption)
    (hp6 : pcs .tx := by assumption) (hp7 : pcs .objs := by assumption) (hp8 : pcs .routes := by assumption)
    (hp9 : pcs .col := by assumption) (hp10 : pcs .firn := by assumption) (hp11 : pcs .rings := by assumption)
    (hp12 : pcs .irq := by assumption) (hp13 : pcs .mor := by assumption) (hp14 : pcs .stack := by assumption)
    (hp15 : pcs .boot := by assumption) (hp16 : pcs .poison := by assumption) (hp17 : pcs .engs := by assumption) :
    OkO pcs b0 (execJmps e s) := by
  delta execJmps
  repeat' first
    | with_reducible assumption | extract_lets | intro _ | with_reducible apply okO_next
    | with_reducible apply okO_ite | with_reducible apply engDo_ok | with_reducible apply engDo_ok'
    | with_reducible apply withTarget_ok | with_reducible apply withTarget_ok' | with_reducible apply jumpIf_ok
    | with_reducible apply jumpIf_ok' | rfl | exact ⟨rfl, rfl⟩ | split | dsimp +zetaDelta -zeta only

theorem execBz_ok {pcs : Piece → Prop} {b0 : State} (e : EngId) (v : BitVec 9) (s : State) (hok : Ok pcs b0 s)
    (hp0 : pcs .free := by assumption) (hp1 : pcs .regs := by assumption) (hp2 : pcs .mem := by assumption)
    (hp3 : pcs .host := by assumption) (hp4 : pcs .lanes := by assumption) (hp5 : pcs .pins := by assumption)
    (hp6 : pcs .tx := by assumption) (hp7 : pcs .objs := by assumption) (hp8 : pcs .routes := by assumption)
    (hp9 : pcs .col := by assumption) (hp10 : pcs .firn := by assumption) (hp11 : pcs .rings := by assumption)
    (hp12 : pcs .irq := by assumption) (hp13 : pcs .mor := by assumption) (hp14 : pcs .stack := by assumption)
    (hp15 : pcs .boot := by assumption) (hp16 : pcs .poison := by assumption) (hp17 : pcs .engs := by assumption) :
    OkO pcs b0 (execBz e v s) := by
  delta execBz
  repeat' first
    | with_reducible assumption | extract_lets | intro _ | with_reducible apply okO_next
    | with_reducible apply okO_ite | with_reducible apply engDo_ok | with_reducible apply engDo_ok'
    | with_reducible apply popJump_ok | with_reducible apply popJump_ok' | rfl | exact ⟨rfl, rfl⟩ | split
    | dsimp +zetaDelta -zeta only

theorem execBnz_ok {pcs : Piece → Prop} {b0 : State} (e : EngId) (v : BitVec 9) (s : State) (hok : Ok pcs b0 s)
    (hp0 : pcs .free := by assumption) (hp1 : pcs .regs := by assumption) (hp2 : pcs .mem := by assumption)
    (hp3 : pcs .host := by assumption) (hp4 : pcs .lanes := by assumption) (hp5 : pcs .pins := by assumption)
    (hp6 : pcs .tx := by assumption) (hp7 : pcs .objs := by assumption) (hp8 : pcs .routes := by assumption)
    (hp9 : pcs .col := by assumption) (hp10 : pcs .firn := by assumption) (hp11 : pcs .rings := by assumption)
    (hp12 : pcs .irq := by assumption) (hp13 : pcs .mor := by assumption) (hp14 : pcs .stack := by assumption)
    (hp15 : pcs .boot := by assumption) (hp16 : pcs .poison := by assumption) (hp17 : pcs .engs := by assumption) :
    OkO pcs b0 (execBnz e v s) := by
  delta execBnz
  repeat' first
    | with_reducible assumption | extract_lets | intro _ | with_reducible apply okO_next
    | with_reducible apply okO_ite | with_reducible apply engDo_ok | with_reducible apply engDo_ok'
    | with_reducible apply popJump_ok | with_reducible apply popJump_ok' | rfl | exact ⟨rfl, rfl⟩ | split
    | dsimp +zetaDelta -zeta only

theorem execFlag_ok {pcs : Piece → Prop} {b0 : State} (e : EngId) (set : Bool) (m : BitVec 7) (s : State)
    (hok : Ok pcs b0 s) (hp0 : pcs .free := by assumption) (hp1 : pcs .regs := by assumption)
    (hp2 : pcs .mem := by assumption) (hp3 : pcs .host := by assumption) (hp4 : pcs .lanes := by assumption)
    (hp5 : pcs .pins := by assumption) (hp6 : pcs .tx := by assumption) (hp7 : pcs .objs := by assumption)
    (hp8 : pcs .routes := by assumption) (hp9 : pcs .col := by assumption) (hp10 : pcs .firn := by assumption)
    (hp11 : pcs .rings := by assumption) (hp12 : pcs .irq := by assumption) (hp13 : pcs .mor := by assumption)
    (hp14 : pcs .stack := by assumption) (hp15 : pcs .boot := by assumption) (hp16 : pcs .poison := by assumption)
    (hp17 : pcs .engs := by assumption) :
    OkO pcs b0 (execFlag e set m s) := by
  delta execFlag
  repeat' first
    | with_reducible assumption | extract_lets | intro _ | with_reducible apply okO_next
    | with_reducible apply okO_ite | with_reducible apply ok_ite | with_reducible apply engDo_ok
    | with_reducible apply engDo_ok' | with_reducible apply plain_ok | with_reducible apply plain_ok' | rfl
    | exact ⟨rfl, rfl⟩ | (apply Eng.Fits.of (by assumption) <;> rfl) | (apply Ok.fits_of (by assumption) <;> rfl)
    | split | dsimp +zetaDelta -zeta only

theorem execIen_ok {pcs : Piece → Prop} {b0 : State} (e : EngId) (v : Bool) (s : State) (hok : Ok pcs b0 s)
    (hp0 : pcs .free := by assumption) (hp1 : pcs .regs := by assumption) (hp2 : pcs .mem := by assumption)
    (hp3 : pcs .host := by assumption) (hp4 : pcs .lanes := by assumption) (hp5 : pcs .pins := by assumption)
    (hp6 : pcs .tx := by assumption) (hp7 : pcs .objs := by assumption) (hp8 : pcs .routes := by assumption)
    (hp9 : pcs .col := by assumption) (hp10 : pcs .firn := by assumption) (hp11 : pcs .rings := by assumption)
    (hp12 : pcs .irq := by assumption) (hp13 : pcs .mor := by assumption) (hp14 : pcs .stack := by assumption)
    (hp15 : pcs .boot := by assumption) (hp16 : pcs .poison := by assumption) (hp17 : pcs .engs := by assumption) :
    OkO pcs b0 (execIen e v s) := by
  delta execIen
  repeat' first
    | with_reducible assumption | extract_lets | intro _ | with_reducible apply okO_next
    | with_reducible apply okO_ite | with_reducible apply engDo_ok | with_reducible apply engDo_ok'
    | with_reducible apply plain_ok | with_reducible apply plain_ok' | rfl | exact ⟨rfl, rfl⟩
    | (apply Eng.Fits.of (by assumption) <;> rfl) | (apply Ok.fits_of (by assumption) <;> rfl) | split
    | dsimp +zetaDelta -zeta only

theorem execSetil_ok {pcs : Piece → Prop} {b0 : State} (e : EngId) (v : BitVec 4) (s : State) (hok : Ok pcs b0 s)
    (hp0 : pcs .free := by assumption) (hp1 : pcs .regs := by assumption) (hp2 : pcs .mem := by assumption)
    (hp3 : pcs .host := by assumption) (hp4 : pcs .lanes := by assumption) (hp5 : pcs .pins := by assumption)
    (hp6 : pcs .tx := by assumption) (hp7 : pcs .objs := by assumption) (hp8 : pcs .routes := by assumption)
    (hp9 : pcs .col := by assumption) (hp10 : pcs .firn := by assumption) (hp11 : pcs .rings := by assumption)
    (hp12 : pcs .irq := by assumption) (hp13 : pcs .mor := by assumption) (hp14 : pcs .stack := by assumption)
    (hp15 : pcs .boot := by assumption) (hp16 : pcs .poison := by assumption) (hp17 : pcs .engs := by assumption) :
    OkO pcs b0 (execSetil e v s) := by
  delta execSetil
  repeat' first
    | with_reducible assumption | extract_lets | intro _ | with_reducible apply okO_next
    | with_reducible apply okO_ite | with_reducible apply engDo_ok | with_reducible apply engDo_ok'
    | with_reducible apply plain_ok | with_reducible apply plain_ok' | rfl | exact ⟨rfl, rfl⟩
    | (apply Eng.Fits.of (by assumption) <;> rfl) | (apply Ok.fits_of (by assumption) <;> rfl) | split
    | dsimp +zetaDelta -zeta only

theorem execBcc_ok {pcs : Piece → Prop} {b0 : State} (e : EngId) (c : BitVec 4) (v : BitVec 5) (s : State)
    (hok : Ok pcs b0 s) (hp0 : pcs .free := by assumption) (hp1 : pcs .regs := by assumption)
    (hp2 : pcs .mem := by assumption) (hp3 : pcs .host := by assumption) (hp4 : pcs .lanes := by assumption)
    (hp5 : pcs .pins := by assumption) (hp6 : pcs .tx := by assumption) (hp7 : pcs .objs := by assumption)
    (hp8 : pcs .routes := by assumption) (hp9 : pcs .col := by assumption) (hp10 : pcs .firn := by assumption)
    (hp11 : pcs .rings := by assumption) (hp12 : pcs .irq := by assumption) (hp13 : pcs .mor := by assumption)
    (hp14 : pcs .stack := by assumption) (hp15 : pcs .boot := by assumption) (hp16 : pcs .poison := by assumption)
    (hp17 : pcs .engs := by assumption) :
    OkO pcs b0 (execBcc e c v s) := by
  delta execBcc
  repeat' first
    | with_reducible assumption | extract_lets | intro _ | with_reducible apply okO_next
    | with_reducible apply okO_ite | with_reducible apply engDo_ok | with_reducible apply engDo_ok'
    | with_reducible apply jumpIf_ok | with_reducible apply jumpIf_ok' | rfl | exact ⟨rfl, rfl⟩ | split
    | dsimp +zetaDelta -zeta only

theorem retDo_ok {pcs : Piece → Prop} {b0 : State} (s : State) (e : Nat) (hok : Ok pcs b0 s)
    (hp0 : pcs .regs := by assumption) (hp1 : pcs .engs := by assumption) :
    OkE pcs b0 (retDo s e) := by
  delta retDo
  repeat' first
    | with_reducible assumption | extract_lets | intro _ | exact okE_fault | with_reducible apply okE_ok
    | with_reducible apply okE_ite | with_reducible apply ok_ite | (refine State.rsPop_ok _ _ _ ?_ (by assumption))
    | rfl | exact ⟨rfl, rfl⟩ | split | dsimp +zetaDelta -zeta only

theorem execRet_ok {pcs : Piece → Prop} {b0 : State} (e : EngId) (s : State) (hok : Ok pcs b0 s)
    (hp0 : pcs .free := by assumption) (hp1 : pcs .regs := by assumption) (hp2 : pcs .mem := by assumption)
    (hp3 : pcs .host := by assumption) (hp4 : pcs .lanes := by assumption) (hp5 : pcs .pins := by assumption)
    (hp6 : pcs .tx := by assumption) (hp7 : pcs .objs := by assumption) (hp8 : pcs .routes := by assumption)
    (hp9 : pcs .col := by assumption) (hp10 : pcs .firn := by assumption) (hp11 : pcs .rings := by assumption)
    (hp12 : pcs .irq := by assumption) (hp13 : pcs .mor := by assumption) (hp14 : pcs .stack := by assumption)
    (hp15 : pcs .boot := by assumption) (hp16 : pcs .poison := by assumption) (hp17 : pcs .engs := by assumption) :
    OkO pcs b0 (execRet e s) := by
  delta execRet
  repeat' first
    | with_reducible assumption | extract_lets | intro _ | with_reducible apply okO_next
    | with_reducible apply okO_ite | with_reducible apply engDo_ok | with_reducible apply engDo_ok'
    | with_reducible apply retDo_ok | with_reducible apply retDo_ok' | rfl | exact ⟨rfl, rfl⟩ | split
    | dsimp +zetaDelta -zeta only

theorem retiDo_ok {pcs : Piece → Prop} {b0 : State} (s : State) (e : Nat) (hok : Ok pcs b0 s)
    (hp0 : pcs .regs := by assumption) (hp1 : pcs .irq := by assumption) (hp2 : pcs .engs := by assumption) :
    OkE pcs b0 (retiDo s e) := by
  unfold retiDo
  split
  · exact okE_fault
  · next n t h => exact okE_ok (State.engReti_ok _ _ _ hok h)

theorem execReti_ok {pcs : Piece → Prop} {b0 : State} (e : EngId) (s : State) (hok : Ok pcs b0 s)
    (hp0 : pcs .free := by assumption) (hp1 : pcs .regs := by assumption) (hp2 : pcs .mem := by assumption)
    (hp3 : pcs .host := by assumption) (hp4 : pcs .lanes := by assumption) (hp5 : pcs .pins := by assumption)
    (hp6 : pcs .tx := by assumption) (hp7 : pcs .objs := by assumption) (hp8 : pcs .routes := by assumption)
    (hp9 : pcs .col := by assumption) (hp10 : pcs .firn := by assumption) (hp11 : pcs .rings := by assumption)
    (hp12 : pcs .irq := by assumption) (hp13 : pcs .mor := by assumption) (hp14 : pcs .stack := by assumption)
    (hp15 : pcs .boot := by assumption) (hp16 : pcs .poison := by assumption) (hp17 : pcs .engs := by assumption) :
    OkO pcs b0 (execReti e s) := by
  delta execReti
  repeat' first
    | with_reducible assumption | extract_lets | intro _ | with_reducible apply okO_next
    | with_reducible apply okO_ite | with_reducible apply engDo_ok | with_reducible apply engDo_ok'
    | with_reducible apply retiDo_ok | with_reducible apply retiDo_ok' | rfl | exact ⟨rfl, rfl⟩ | split
    | dsimp +zetaDelta -zeta only

theorem waitDo_ok {pcs : Piece → Prop} {b0 : State} (s : State) (e : Nat) (hok : Ok pcs b0 s)
    (hp0 : pcs .irq := by assumption) (hp1 : pcs .engs := by assumption) :
    OkE pcs b0 (waitDo s e) := by
  delta waitDo
  repeat' first
    | with_reducible assumption | extract_lets | intro _ | exact okE_fault | with_reducible apply okE_ok
    | with_reducible apply okE_ite | with_reducible apply State.modEng_ok | with_reducible apply State.modTgt_ok
    | with_reducible apply State.wakeEng_ok | rfl | exact ⟨rfl, rfl⟩ | (apply Eng.Fits.of (by assumption) <;> rfl)
    | (apply Ok.fits_of (by assumption) <;> rfl) | split | dsimp +zetaDelta -zeta only

theorem execWait_ok {pcs : Piece → Prop} {b0 : State} (e : EngId) (s : State) (hok : Ok pcs b0 s)
    (hp0 : pcs .free := by assumption) (hp1 : pcs .regs := by assumption) (hp2 : pcs .mem := by assumption)
    (hp3 : pcs .host := by assumption) (hp4 : pcs .lanes := by assumption) (hp5 : pcs .pins := by assumption)
    (hp6 : pcs .tx := by assumption) (hp7 : pcs .objs := by assumption) (hp8 : pcs .routes := by assumption)
    (hp9 : pcs .col := by assumption) (hp10 : pcs .firn := by assumption) (hp11 : pcs .rings := by assumption)
    (hp12 : pcs .irq := by assumption) (hp13 : pcs .mor := by assumption) (hp14 : pcs .stack := by assumption)
    (hp15 : pcs .boot := by assumption) (hp16 : pcs .poison := by assumption) (hp17 : pcs .engs := by assumption) :
    OkO pcs b0 (execWait e s) := by
  delta execWait
  repeat' first
    | with_reducible assumption | extract_lets | intro _ | with_reducible apply okO_next
    | with_reducible apply okO_ite | with_reducible apply engDo_ok | with_reducible apply engDo_ok'
    | with_reducible apply waitDo_ok | with_reducible apply waitDo_ok' | rfl | exact ⟨rfl, rfl⟩ | split
    | dsimp +zetaDelta -zeta only

theorem execFence_ok {pcs : Piece → Prop} {b0 : State} (e : EngId) (s : State) (hok : Ok pcs b0 s)
    (hp0 : pcs .free := by assumption) (hp1 : pcs .regs := by assumption) (hp2 : pcs .mem := by assumption)
    (hp3 : pcs .host := by assumption) (hp4 : pcs .lanes := by assumption) (hp5 : pcs .pins := by assumption)
    (hp6 : pcs .tx := by assumption) (hp7 : pcs .objs := by assumption) (hp8 : pcs .routes := by assumption)
    (hp9 : pcs .col := by assumption) (hp10 : pcs .firn := by assumption) (hp11 : pcs .rings := by assumption)
    (hp12 : pcs .irq := by assumption) (hp13 : pcs .mor := by assumption) (hp14 : pcs .stack := by assumption)
    (hp15 : pcs .boot := by assumption) (hp16 : pcs .poison := by assumption) (hp17 : pcs .engs := by assumption) :
    OkO pcs b0 (execFence e s) := by
  delta execFence
  repeat' first
    | with_reducible assumption | extract_lets | intro _ | with_reducible apply okO_next
    | with_reducible apply okO_ite | with_reducible apply engDo_ok | with_reducible apply engDo_ok'
    | with_reducible apply plain_ok | with_reducible apply plain_ok' | rfl | exact ⟨rfl, rfl⟩
    | (apply Eng.Fits.of (by assumption) <;> rfl) | (apply Ok.fits_of (by assumption) <;> rfl) | split
    | dsimp +zetaDelta -zeta only

theorem execSwi_ok {pcs : Piece → Prop} {b0 : State} (e : EngId) (code : BitVec 8) (s : State) (hok : Ok pcs b0 s)
    (hp0 : pcs .free := by assumption) (hp1 : pcs .regs := by assumption) (hp2 : pcs .mem := by assumption)
    (hp3 : pcs .host := by assumption) (hp4 : pcs .lanes := by assumption) (hp5 : pcs .pins := by assumption)
    (hp6 : pcs .tx := by assumption) (hp7 : pcs .objs := by assumption) (hp8 : pcs .routes := by assumption)
    (hp9 : pcs .col := by assumption) (hp10 : pcs .firn := by assumption) (hp11 : pcs .rings := by assumption)
    (hp12 : pcs .irq := by assumption) (hp13 : pcs .mor := by assumption) (hp14 : pcs .stack := by assumption)
    (hp15 : pcs .boot := by assumption) (hp16 : pcs .poison := by assumption) (hp17 : pcs .engs := by assumption) :
    OkO pcs b0 (execSwi e code s) :=
  engDo_ok _ _ _ _ hok fun _ h => okE_ok h

theorem execIllegalOpcode_ok {pcs : Piece → Prop} {b0 : State} (e : EngId) (s : State) (hok : Ok pcs b0 s)
    (hp0 : pcs .free := by assumption) (hp1 : pcs .regs := by assumption) (hp2 : pcs .mem := by assumption)
    (hp3 : pcs .host := by assumption) (hp4 : pcs .lanes := by assumption) (hp5 : pcs .pins := by assumption)
    (hp6 : pcs .tx := by assumption) (hp7 : pcs .objs := by assumption) (hp8 : pcs .routes := by assumption)
    (hp9 : pcs .col := by assumption) (hp10 : pcs .firn := by assumption) (hp11 : pcs .rings := by assumption)
    (hp12 : pcs .irq := by assumption) (hp13 : pcs .mor := by assumption) (hp14 : pcs .stack := by assumption)
    (hp15 : pcs .boot := by assumption) (hp16 : pcs .poison := by assumption) (hp17 : pcs .engs := by assumption) :
    OkO pcs b0 (execIllegalOpcode e s) :=
  engDo_ok _ _ _ _ hok fun _ _ => okE_fault

theorem execInterruptEntry_ok {pcs : Piece → Prop} {b0 : State} (e : EngId) (s : State) (hok : Ok pcs b0 s)
    (hp0 : pcs .free := by assumption) (hp1 : pcs .regs := by assumption) (hp2 : pcs .mem := by assumption)
    (hp3 : pcs .host := by assumption) (hp4 : pcs .lanes := by assumption) (hp5 : pcs .pins := by assumption)
    (hp6 : pcs .tx := by assumption) (hp7 : pcs .objs := by assumption) (hp8 : pcs .routes := by assumption)
    (hp9 : pcs .col := by assumption) (hp10 : pcs .firn := by assumption) (hp11 : pcs .rings := by assumption)
    (hp12 : pcs .irq := by assumption) (hp13 : pcs .mor := by assumption) (hp14 : pcs .stack := by assumption)
    (hp15 : pcs .poison := by assumption) (hp16 : pcs .engs := by assumption) :
    OkO pcs b0 (execInterruptEntry e s) := by
  delta execInterruptEntry
  repeat' first
    | with_reducible assumption | extract_lets | intro _ | with_reducible apply okO_next
    | with_reducible apply okO_ite | with_reducible apply State.engEntry_ok | rfl | exact ⟨rfl, rfl⟩ | split
    | dsimp +zetaDelta -zeta only

theorem execTickHookCall_ok {pcs : Piece → Prop} {b0 : State} (q : QuadId) (_h : Unit) (s : State)
    (hok : Ok pcs b0 s) (hp0 : pcs .regs := by assumption) (hp1 : pcs .mem := by assumption)
    (hp2 : pcs .boot := by assumption) (hp3 : pcs .poison := by assumption) (hp4 : pcs .engs := by assumption) :
    OkO pcs b0 (execTickHookCall q _h s) := by
  delta execTickHookCall
  repeat' first
    | with_reducible assumption | extract_lets | intro _ | with_reducible apply okO_next
    | with_reducible apply okO_ite | with_reducible apply ok_ite | with_reducible apply State.tick_ok
    | with_reducible apply State.modBoot_ok | with_reducible apply State.satAdd_ok
    | with_reducible apply State.hookCall_ok | rfl | exact ⟨rfl, rfl⟩ | split | dsimp +zetaDelta -zeta only
end Sys2Proof.Machine
end

