-- ==== Sys2Proof/Laws/OkCirque.lean ====
section
/-! SUPPORT. Claim and complete: every operation of Machine/Cirque.lean keeps the queue and a sane state, and changes no
piece but the ones it names. -/
namespace Sys2Proof.Machine
set_option Elab.async false

theorem execCirqueDoorbell_ok {pcs : Piece → Prop} {b0 : State} (w : Agent) (v : Word) (s : State)
    (hok : Ok pcs b0 s) (hp0 : pcs .regs := by assumption) (hp1 : pcs .irq := by assumption) :
    OkO pcs b0 (execCirqueDoorbell w v s) := by
  delta execCirqueDoorbell
  repeat' first
    | with_reducible assumption | extract_lets | intro _ | with_reducible apply okO_next
    | with_reducible apply okO_ite | with_reducible apply ok_ite | with_reducible apply State.doorbellWrite_ok
    | split | dsimp +zetaDelta -zeta only

theorem execCirqueCommit_ok {pcs : Piece → Prop} {b0 : State} (t : TargetId) (s : State) (hok : Ok pcs b0 s)
    (hp0 : pcs .free := by assumption) (hp1 : pcs .regs := by assumption) (hp2 : pcs .mem := by assumption)
    (hp3 : pcs .host := by assumption) (hp4 : pcs .lanes := by assumption) (hp5 : pcs .pins := by assumption)
    (hp6 : pcs .tx := by assumption) (hp7 : pcs .objs := by assumption) (hp8 : pcs .routes := by assumption)
    (hp9 : pcs .col := by assumption) (hp10 : pcs .firn := by assumption) (hp11 : pcs .rings := by assumption)
    (hp12 : pcs .irq := by assumption) (hp13 : pcs .mor := by assumption) (hp14 : pcs .stack := by assumption)
    (hp15 : pcs .poison := by assumption) (hp16 : pcs .engs := by assumption) :
    OkO pcs b0 (execCirqueCommit t s) := by
  delta execCirqueCommit
  repeat' first
    | with_reducible assumption | extract_lets | intro _ | with_reducible apply okO_next
    | with_reducible apply okO_ite | with_reducible apply ok_ite | with_reducible apply State.commitHost_ok
    | with_reducible apply State.engEntry_ok | split | dsimp +zetaDelta -zeta only

theorem execModTimeExpiry_ok {pcs : Piece → Prop} {b0 : State} (t : TargetId) (s : State) (hok : Ok pcs b0 s)
    (hp0 : pcs .irq := by assumption) :
    OkO pcs b0 (execModTimeExpiry t s) := by
  delta execModTimeExpiry
  repeat' first
    | with_reducible assumption | extract_lets | intro _ | with_reducible apply okO_next
    | with_reducible apply okO_ite | with_reducible apply ok_ite | with_reducible apply State.modTgt_ok | split
    | dsimp +zetaDelta -zeta only

theorem execCirqueClaim_ok {pcs : Piece → Prop} {b0 : State} (r : Agent) (t : TargetId) (s : State)
    (hok : Ok pcs b0 s) (hp0 : pcs .free := by assumption) (hp1 : pcs .irq := by assumption) :
    OkO pcs b0 (execCirqueClaim r t s) := by
  delta execCirqueClaim
  repeat' first
    | with_reducible assumption | extract_lets | intro _ | with_reducible apply okO_next
    | with_reducible apply okO_ite | with_reducible apply ok_ite | with_reducible apply State.claim_ok
    | with_reducible apply State.claim_ok' | with_reducible apply State.withReadData_ok
    | (refine ok2_eq (by with_reducible assumption) ?_) | split | dsimp +zetaDelta -zeta only

theorem execCirqueComplete_ok {pcs : Piece → Prop} {b0 : State} (w : Agent) (t : TargetId) (v : Word) (s : State)
    (hok : Ok pcs b0 s) (hp0 : pcs .regs := by assumption) (hp1 : pcs .irq := by assumption) :
    OkO pcs b0 (execCirqueComplete w t v s) := by
  delta execCirqueComplete
  repeat' first
    | with_reducible assumption | extract_lets | intro _ | with_reducible apply okO_next
    | with_reducible apply okO_ite | with_reducible apply ok_ite | with_reducible apply State.completeWrite_ok
    | split | dsimp +zetaDelta -zeta only

theorem execCirqueSrcWrite_ok {pcs : Piece → Prop} {b0 : State} (w : Agent) (n : SrcId) (v : Word) (s : State)
    (hok : Ok pcs b0 s) (hp0 : pcs .regs := by assumption) (hp1 : pcs .irq := by assumption) :
    OkO pcs b0 (execCirqueSrcWrite w n v s) := by
  delta execCirqueSrcWrite
  repeat' first
    | with_reducible assumption | extract_lets | intro _ | with_reducible apply okO_next
    | with_reducible apply okO_ite | with_reducible apply ok_ite | with_reducible apply State.srcWrite_ok | split
    | dsimp +zetaDelta -zeta only

theorem execSourceClr_ok {pcs : Piece → Prop} {b0 : State} (w : Agent) (n : SrcId) (s : State) (hok : Ok pcs b0 s)
    (hp0 : pcs .regs := by assumption) (hp1 : pcs .irq := by assumption) :
    OkO pcs b0 (execSourceClr w n s) := by
  delta execSourceClr
  repeat' first
    | with_reducible assumption | extract_lets | intro _ | with_reducible apply okO_next
    | with_reducible apply okO_ite | with_reducible apply ok_ite | with_reducible apply State.srcWrite_ok | split
    | dsimp +zetaDelta -zeta only

theorem execIdleWrite_ok {pcs : Piece → Prop} {b0 : State} (f : Fn) (t : TargetId) (s : State) (hok : Ok pcs b0 s)
    (hp0 : pcs .regs := by assumption) (hp1 : pcs .irq := by assumption) :
    OkO pcs b0 (execIdleWrite f t s) := by
  delta execIdleWrite
  repeat' first
    | with_reducible assumption | extract_lets | intro _ | with_reducible apply okO_next
    | with_reducible apply okO_ite | with_reducible apply ok_ite | with_reducible apply State.idleWrite_ok | split
    | dsimp +zetaDelta -zeta only

theorem execMsixVectorUnblock_ok {pcs : Piece → Prop} {b0 : State} (f : Fn) (v : Fin 16) (how : Unblock) (s : State)
    (hok : Ok pcs b0 s) (hp0 : pcs .regs := by assumption) (hp1 : pcs .rings := by assumption) :
    OkO pcs b0 (execMsixVectorUnblock f v how s) := by
  delta execMsixVectorUnblock
  repeat' first
    | with_reducible assumption | extract_lets | intro _ | with_reducible apply okO_next
    | with_reducible apply okO_ite | with_reducible apply ok_ite | with_reducible apply State.setB_ok
    | with_reducible apply State.modFunc_ok | split | dsimp +zetaDelta -zeta only
end Sys2Proof.Machine
end

