-- ==== Sys2Proof/Laws/OkScrub.lean ====
section
/-! SUPPORT. The scrubber: every operation of Machine/Scrub.lean keeps the queue and a sane state, and changes no
piece but the ones it names. -/
namespace Sys2Proof.Machine
set_option Elab.async false

theorem State.dropPart_ok {pcs : Piece → Prop} {b0 : State} (s : State) (p : Nat) (x : VoqItem) (hok : Ok pcs b0 s)
    (hp0 : pcs .free := by assumption) (hp1 : pcs .regs := by assumption) (hp2 : pcs .mem := by assumption)
    (hp3 : pcs .host := by assumption) (hp4 : pcs .tx := by assumption) (hp5 : pcs .col := by assumption)
    (hp6 : pcs .firn := by assumption) (hp7 : pcs .rings := by assumption) (hp8 : pcs .irq := by assumption)
    (hp9 : pcs .mor := by assumption) (hp10 : pcs .poison := by assumption) :
    Ok pcs b0 (State.dropPart s p x) := by
  delta State.dropPart
  repeat' first
    | with_reducible assumption | extract_lets | intro _ | with_reducible apply ok_ite
    | with_reducible apply State.satAdd_ok | with_reducible apply State.morDrop_ok
    | with_reducible apply State.releaseEntry_ok | with_reducible apply State.cqRelease_ok
    | with_reducible apply State.ethRelease_ok | with_reducible apply State.withFetched_ok
    | with_reducible apply State.fetchedCpl_ok | with_reducible apply State.releaseAt_ok
    | with_reducible apply State.withMor_ok | with_reducible apply ok_foldl | with_reducible apply ok2_foldl
    | with_reducible apply ok_foldl2 | with_reducible apply ok_ite2 | with_reducible apply ok1_foldl
    | with_reducible apply ok_foldl1 | with_reducible apply ok_ite1 | split | dsimp +zetaDelta -zeta only

theorem State.voqDrop_ok {pcs : Piece → Prop} {b0 : State} (s : State) (k : Nat) (hok : Ok pcs b0 s)
    (hp0 : pcs .free := by assumption) (hp1 : pcs .regs := by assumption) (hp2 : pcs .mem := by assumption)
    (hp3 : pcs .host := by assumption) (hp4 : pcs .tx := by assumption) (hp5 : pcs .col := by assumption)
    (hp6 : pcs .firn := by assumption) (hp7 : pcs .rings := by assumption) (hp8 : pcs .irq := by assumption)
    (hp9 : pcs .mor := by assumption) (hp10 : pcs .poison := by assumption) :
    Ok pcs b0 (State.voqDrop s k) := by
  delta State.voqDrop
  repeat' first
    | with_reducible assumption | extract_lets | intro _ | with_reducible apply State.setVoq_ok
    | with_reducible apply State.dropPart_ok | split | dsimp +zetaDelta -zeta only

theorem State.queueError_ok {pcs : Piece → Prop} {b0 : State} (s : State) (hok : Ok pcs b0 s)
    (hp0 : pcs .free := by assumption) (hp1 : pcs .regs := by assumption) (hp2 : pcs .mem := by assumption)
    (hp3 : pcs .host := by assumption) (hp4 : pcs .tx := by assumption) (hp5 : pcs .col := by assumption)
    (hp6 : pcs .firn := by assumption) (hp7 : pcs .rings := by assumption) (hp8 : pcs .irq := by assumption)
    (hp9 : pcs .mor := by assumption) (hp10 : pcs .poison := by assumption) :
    Ok pcs b0 (State.queueError s) := by
  delta State.queueError
  repeat' first
    | with_reducible assumption | extract_lets | intro _ | with_reducible apply State.drawWord_ok
    | with_reducible apply State.drawWord_ok' | with_reducible apply State.voqDrop_ok
    | (refine ok2_eq (by with_reducible assumption) ?_) | split | dsimp +zetaDelta -zeta only

theorem execScrubRead_ok {pcs : Piece → Prop} {b0 : State} (x : ScrubRead) (s : State) (hok : Ok pcs b0 s)
    (hp0 : pcs .free := by assumption) (hp1 : pcs .regs := by assumption) (hp2 : pcs .mem := by assumption)
    (hp3 : pcs .host := by assumption) (hp4 : pcs .tx := by assumption) (hp5 : pcs .col := by assumption)
    (hp6 : pcs .firn := by assumption) (hp7 : pcs .rings := by assumption) (hp8 : pcs .irq := by assumption)
    (hp9 : pcs .mor := by assumption) (hp10 : pcs .boot := by assumption) (hp11 : pcs .poison := by assumption) :
    OkO pcs b0 (execScrubRead x s) := by
  delta execScrubRead
  repeat' first
    | with_reducible assumption | extract_lets | intro _ | with_reducible apply okO_next
    | with_reducible apply okO_ite | with_reducible apply ok_ite | with_reducible apply State.eccCorrected_ok
    | with_reducible apply State.eccUncorrectable_ok | with_reducible apply State.queueError_ok
    | with_reducible apply State.scrubPass_ok | split | dsimp +zetaDelta -zeta only
end Sys2Proof.Machine
end

