-- ==== Sys2Proof/WellFormed.lean ====
section
/-! DEFINITION. Which commands are well formed: what the device can be given at all. The meanings do not rest on it. -/
namespace Sys2Proof

/-- OPCODE of a descriptor (R383, R399). -/
def Words8.code (d : Words8) : Nat := (d.w0.extractLsb' 0 8).toNat

/-- The code in word 1 [3:0] of BLOCK_START, BLOCK_STOP, REC_CTRL and STACK_CTRL (R399). -/
def Words8.sub (d : Words8) : Nat := (d.w1.extractLsb' 0 4).toNat

/-- Payload lengths of an FD frame (R105). -/
def fdLength (n : Nat) : Bool := decide (n ≤ 8) || [12, 16, 20, 24, 32, 48, 64].contains n

/-- An 11-bit ID where the format has one (R104 to R106). -/
def Frame.idFits (fr : Frame) : Bool :=
  match fr.fmt with
  | .cb | .fb | .xl => decide (fr.id.toNat < 2048)
  | .ce | .fe => true

/-- Payload bytes that a frame carries (R104 to R106, R112). -/
def Frame.payload (fr : Frame) : Nat :=
  match fr.fmt with
  | .cb | .ce => if fr.rtr then 0 else min fr.len 8
  | _ => fr.len

/-- The length field and the fields that the format has (R104 to R106). -/
def Frame.shape (fr : Frame) : Bool :=
  match fr.fmt with
  | .cb | .ce => decide (fr.len < 16) && !fr.brs && !fr.esi && !fr.sec
  | .fb | .fe => fdLength fr.len && !fr.rtr && !fr.sec
  | .xl => decide (1 ≤ fr.len ∧ fr.len ≤ 2048) && !fr.rtr && !fr.brs && !fr.esi

/-- A frame as a bus can show it. -/
def Frame.wf (fr : Frame) : Bool := fr.idFits && fr.shape && decide (fr.data.length = fr.payload)

/-- Targets 36 to 63 do not exist (R419). -/
def targetExists (t : TargetId) : Bool := decide (t.val < 36) || decide (64 ≤ t.val)

/-- Units of a memory with ECC: one for each engine, PE or lane, one in all of the others (R696). -/
def eccUnits (m : Nat) : Nat :=
  if m < 2 then 36 else if m = 2 then 32 else if m < 6 then 128 else 1

/-- A scrubber read of a memory that exists. -/
def ScrubRead.wf (x : ScrubRead) : Bool := decide (x.unit < eccUnits x.mem.val)

/-- A received Ethernet frame has its two addresses and its EtherType. -/
def EthFrame.wf (fr : EthFrame) : Bool := decide (14 ≤ fr.bytes.length)

/-- A PTP message has 16 bits of sequence number. -/
def PtpIn.wf (x : PtpIn) : Bool := decide (x.seq < 65536)

/-- The structural check of a command: an admin or I/O command carries its opcode, a frame is one of its format, a run of
records has a length that its command allows, a target exists, every bank has a VIO. -/
def Instr.wf : Instr → Bool
  | .adminNop _ d => decide (d.code = 0)
  | .adminOpcodeUnknown _ d => !(decide (d.code = 0) || decide (0x40 ≤ d.code ∧ d.code ≤ 0x58))
  | .funcEnable _ d => decide (d.code = 0x40)
  | .ringCreateCq _ d => decide (d.code = 0x41)
  | .ringCreateSq _ d => decide (d.code = 0x42)
  | .ringDeleteSq _ d => decide (d.code = 0x43) && !(d.w1.getLsbD 8)
  | .ringDeleteSqCommit _ => true
  | .ringDeleteCq _ d => decide (d.code = 0x43) && d.w1.getLsbD 8
  | .adoptRings _ d => decide (d.code = 0x44)
  | .laneStart _ d => decide (d.code = 0x45)
  | .laneStop _ d => decide (d.d.code = 0x46)
  | .laneSuspend _ d => decide (d.code = 0x47)
  | .laneResume _ d => decide (d.code = 0x48)
  | .busoffRecover _ d => decide (d.code = 0x49)
  | .busBind _ d => decide (d.d.code = 0x4A)
  | .txCancel _ d => decide (d.code = 0x4B)
  | .txAbort _ d => decide (d.code = 0x4C)
  | .fltLoad _ d => decide (d.code = 0x4D)
  | .fltLoadTransferDone _ els => decide (els.length ≤ 16384)
  | .fltLoadCommit _ => true
  | .rtLoad _ d => decide (d.code = 0x4E)
  | .rtLoadCommit recs => decide (1 ≤ recs.length ∧ recs.length ≤ 4096)
  | .polLoad _ d => decide (d.code = 0x4F)
  | .polLoadCommit recs => decide (1 ≤ recs.length ∧ recs.length ≤ 4096)
  | .powerMode _ d => decide (d.code = 0x50)
  | .powerModeSettleEnd => true
  | .pmbusWriteNack => true
  | .pwrGoodFallDuringMove => true
  | .tbStep _ d => decide (d.code = 0x51)
  | .portEnable _ d => decide (d.code = 0x52)
  | .portDisable _ d => decide (d.code = 0x53)
  | .blockStartMoraine _ d => decide (d.code = 0x54) && (decide (d.sub = 0) || decide (4 ≤ d.sub))
  | .blockStopMoraine _ d => decide (d.code = 0x55) && (decide (d.sub = 0) || decide (4 ≤ d.sub))
  | .blockStartTimeBases _ d => decide (d.code = 0x54) && decide (d.sub = 1)
  | .blockStopTimeBases _ d => decide (d.code = 0x55) && decide (d.sub = 1)
  | .blockStartStack _ d => decide (d.code = 0x54) && decide (d.sub = 2)
  | .blockStopStack _ d => decide (d.code = 0x55) && decide (d.sub = 2)
  | .blockStartSnowline _ d => decide (d.code = 0x54) && decide (d.sub = 3)
  | .blockStopSnowline _ d => decide (d.code = 0x55) && decide (d.sub = 3)
  | .arm _ d => decide (d.code = 0x56) && decide (d.sub = 0)
  | .trigger _ d => decide (d.code = 0x56) && decide (d.sub = 1)
  | .freeze _ d => decide (d.code = 0x56) && decide (d.sub = 2)
  | .dump _ d => decide (d.code = 0x56) && decide (d.sub = 3)
  | .dumpDone => true
  | .hringRestart _ d => decide (d.code = 0x56) && decide (d.sub = 4)
  | .clear _ d => decide (d.code = 0x56) && decide (d.sub = 5)
  | .recStatus _ d => decide (d.code = 0x56) && decide (6 ≤ d.sub)
  | .routePush _ d recs => decide (d.code = 0x57) && decide (d.sub = 0) && decide (1 ≤ recs.length ∧ recs.length ≤ 4096)
  | .epochCommit _ d => decide (d.code = 0x57) && decide (d.sub = 1)
  | .epochCommitDone => true
  | .handover _ d => decide (d.code = 0x57) && decide (d.sub = 2)
  | .stackStatus _ d => decide (d.code = 0x57) && decide (3 ≤ d.sub)
  | .imageLoad _ d => decide (d.code = 0x58)
  | .imageLoadCommit _ => true
  | .sqTailDoorbell _ _ _ => true
  | .cqHeadDoorbell _ _ _ => true
  | .adminSqTailDoorbell _ _ => true
  | .adminCqHeadDoorbell _ _ => true
  | .tx _ d => decide (d.d.code = 1)
  | .txPayloadReadDone _ data => decide (data.length ≤ 2048)
  | .waitingAdmissionGrant _ => true
  | .ethTx _ d => decide (d.code = 2)
  | .ethTxStart _ => true
  | .ethFrameTxEnd _ => true
  | .rxbuf _ d => decide (d.code = 3)
  | .ioNop _ d => !(decide (1 ≤ d.code ∧ d.code ≤ 3))
  | .rxCompletionWrite _ => true
  | .flr _ => true
  | .funcLinkLoss _ => true
  | .objectWord0Read _ _ _ => true
  | .objectRelease _ _ _ => true
  | .objectWrite _ _ _ _ _ _ => true
  | .objLockTimeout _ _ => true
  | .periodicRelease _ _ => true
  | .deadlineExpiry _ _ => true
  | .holdExpiry _ => true
  | .trailMsExpiry _ _ => true
  | .txSof _ _ => true
  | .arbLost _ => true
  | .txSuccess _ _ => true
  | .txError _ _ => true
  | .rxError _ _ => true
  | .protocolException _ _ => true
  | .overloadFrame _ _ => true
  | .frameValid _ fr _ _ => fr.wf
  | .filterDecision _ fr _ _ _ _ => fr.wf
  | .cutThroughLookup _ fr _ => fr.wf
  | .ctKillArrival _ => true
  | .ctKillWindowEnd => true
  | .colSlot => true
  | .stuckDominant _ _ => true
  | .lctlSettleExpiry _ => true
  | .selfTestFaultFound _ => true
  | .selfTestWindowEnd _ => true
  | .stuckFaultEnd _ => true
  | .integrationComplete _ => true
  | .rejoinAfterIdle _ => true
  | .recoveryComplete _ => true
  | .boCountAge _ => true
  | .seekFrameEnd _ fr _ => fr.wf
  | .seekDwellExpiry _ => true
  | .seekTimeout _ => true
  | .declaredTimingApply _ => true
  | .guardWindowEnd _ _ => true
  | .quarantineLift _ _ _ => true
  | .vlogClear _ _ => true
  | .dupEntryExpiry _ => true
  | .quadModeWrite _ _ _ => true
  | .quadGateWrite _ _ _ => true
  | .quadGatedDone _ => true
  | .quadUngateDone _ => true
  | .sweepCompare _ => true
  | .ethLinkDown _ => true
  | .ethLinkUp _ _ => true
  | .portHoldExpiry _ => true
  | .ethFrameRx _ fr => fr.wf
  | .stackDataRx _ fr => fr.wf
  | .heartbeatRx _ fr => fr.wf
  | .routePushRx _ fr => fr.wf
  | .epochCommitRx _ fr => fr.wf
  | .epochAckRx _ fr => fr.wf
  | .nakRx _ fr => fr.wf
  | .handoverRx _ fr => fr.wf
  | .epochActivation => true
  | .heartbeatTimer => true
  | .masterListenEnd => true
  | .masterLost => true
  | .broadcastSeqForget _ => true
  | .syncTxTimer => true
  | .syncRx _ seq _ => seq.wf
  | .followUpRx _ seq _ _ => seq.wf
  | .delayReqRx _ _ seq _ => seq.wf
  | .delayRespRx _ seq _ => seq.wf
  | .cirqueDoorbell _ _ => true
  | .cirqueCommit t => targetExists t
  | .modTimeExpiry t => targetExists t
  | .cirqueClaim _ t => targetExists t
  | .cirqueComplete _ t _ => targetExists t
  | .cirqueSrcWrite _ _ _ => true
  | .sourceClr _ _ => true
  | .idleWrite _ t => targetExists t
  | .msixVectorUnblock _ _ _ => true
  | .tbSlewWrite _ _ _ => true
  | .slewDone _ => true
  | .tbTimeCapture _ _ => true
  | .tbSet _ _ _ => true
  | .syncRelease _ => true
  | .morRecordWrite => true
  | .postWindowEnd => true
  | .morHeaderWrite => true
  | .morHheadWrite _ _ => true
  | .wupDetected _ => true
  | .swFrameEnd _ fr _ => fr.wf
  | .wakePin _ => true
  | .gpioWake _ => true
  | .perstWake _ _ => true
  | .rtcAlarm => true
  | .vaonPowerUp => true
  | .pwrGoodRise => true
  | .pgTimeout => true
  | .resetDelayEnd => true
  | .mainResetRelease x => decide (x.vio.length = 8)
  | .bootMailboxGo _ _ => true
  | .imageReadDone _ => true
  | .bootDone => true
  | .sysReset => true
  | .deviceResetKey _ => true
  | .standbyKey _ => true
  | .standbyRailsOff => true
  | .thermalStepDown _ => true
  | .tjAlarmCross _ => true
  | .thermalShutdown _ => true
  | .thermalRelease _ => true
  | .scrubRead x => x.wf
  | .tickHookCall _ _ => true
  | .interruptEntry _ => true
  | .lnop _ => true
  | .lit _ _ => true
  | .litu _ _ => true
  | .sethi _ _ => true
  | .addi _ _ => true
  | .cmpi _ _ => true
  | .lda _ _ => true
  | .sta _ _ => true
  | .jz _ _ => true
  | .jnz _ _ => true
  | .call _ _ => true
  | .repLong _ => true
  | .jcc _ _ _ => true
  | .nop _ => true
  | .dup _ => true
  | .drop _ => true
  | .swap _ => true
  | .over _ => true
  | .rot _ => true
  | .pick _ _ => true
  | .slit _ _ => true
  | .add _ => true
  | .sub _ => true
  | .adc _ => true
  | .sbc _ => true
  | .adds _ => true
  | .subs _ => true
  | .mul _ => true
  | .mulh _ _ => true
  | .div _ => true
  | .divu _ => true
  | .neg _ => true
  | .abs _ => true
  | .and _ => true
  | .or _ => true
  | .xor _ => true
  | .not _ => true
  | .shl _ => true
  | .shr _ => true
  | .sar _ => true
  | .rol _ => true
  | .ror _ => true
  | .shi _ _ _ => true
  | .cmp _ => true
  | .tst _ => true
  | .ld _ => true
  | .st _ => true
  | .ldp _ _ _ _ _ => true
  | .stp _ _ _ _ _ => true
  | .popx _ _ => true
  | .pushx _ _ => true
  | .amo _ _ => true
  | .rep _ => true
  | .clz _ => true
  | .bswap _ => true
  | .ext _ _ _ => true
  | .calls _ => true
  | .jmps _ => true
  | .bz _ _ => true
  | .bnz _ _ => true
  | .addp _ _ _ => true
  | .setrc _ _ => true
  | .flag _ _ _ => true
  | .ien _ _ => true
  | .setil _ _ => true
  | .bcc _ _ _ => true
  | .ret _ => true
  | .reti _ => true
  | .wait _ => true
  | .fence _ => true
  | .swi _ _ => true
  | .illegalOpcode _ => true
  | .br _ _ _ _ => true
  | .await _ _ _ _ _ => true
  | .shin _ _ _ _ => true
  | .shout _ _ _ _ => true
  | .push _ _ _ => true
  | .pushN _ _ _ => true
  | .pull _ _ _ => true
  | .pullN _ _ _ => true
  | .setx _ _ _ => true
  | .drive _ _ _ => true
  | .crcReset _ _ _ => true
  | .stuffDyn _ _ => true
  | .stuffFixedFd _ _ => true
  | .stuffFixedXl _ _ => true
  | .stuffOff _ _ => true
  | .crcSend _ _ _ => true
  | .crcCheck _ _ _ _ => true
  | .phaseData _ _ => true
  | .phaseNominal _ _ => true
  | .errClear _ _ => true
  | .tdcStart _ _ => true
  | .sig _ _ _ => true
  | .copy _ _ _ => true
  | .pinNop _ _ => true
  | .pinReservedOp _ => true
  | .switchAtEnd _ _ => true
  | .switchNow _ _ => true
  | .switchWithdraw _ _ => true
  | .peprogWrite _ _ _ _ => true
  | .registerWrite _ _ _ _ => true
  | .rcFieldRead _ _ => true
  | .pcieLinkUp _ => true
  | .tjAlarmRearm _ => true
  | .pwrEnNHoldEnd => true

/-- The bus frames that a command carries. -/
def Instr.frames : Instr → List Frame
  | .frameValid _ fr _ _ => [fr]
  | .filterDecision _ fr _ _ _ _ => [fr]
  | .cutThroughLookup _ fr _ => [fr]
  | .seekFrameEnd _ fr _ => [fr]
  | .swFrameEnd _ fr _ => [fr]
  | _ => []

/-- The Cirque targets that a command names. -/
def Instr.targets : Instr → List TargetId
  | .cirqueCommit t => [t]
  | .modTimeExpiry t => [t]
  | .cirqueClaim _ t => [t]
  | .cirqueComplete _ t _ => [t]
  | .idleWrite _ t => [t]
  | _ => []

end Sys2Proof
end

