-- ==== Sys2Proof/Laws/PerInstr.lean ====
section
/-! SUPPORT. What the check of WellFormed.lean gives, command by command: a well-formed command carries no frame of more
than 2,048 bytes (R106) and names no target that does not exist (R419). -/
namespace Sys2Proof
set_option Elab.async false

theorem Frame.data_le {fr : Frame} (h : fr.wf = true) : fr.data.length ≤ 2048 := by
  simp only [Frame.wf, Bool.and_eq_true, decide_eq_true_eq] at h
  obtain ⟨⟨-, hs⟩, hd⟩ := h
  rw [hd]
  unfold Frame.payload
  unfold Frame.shape fdLength at hs
  cases hf : fr.fmt <;> rw [hf] at hs <;> simp at hs ⊢ <;> (try split) <;> omega

theorem targetExists_iff {t : TargetId} (h : targetExists t = true) : t.val < 36 ∨ 64 ≤ t.val := by
  simpa [targetExists] using h

/-- A well-formed command's frames and targets are of this device. -/
def Laws.WellFormed.Statement (i : Instr) : Prop :=
  i.wf = true → (∀ fr ∈ i.frames, fr.data.length ≤ 2048) ∧ (∀ t ∈ i.targets, t.val < 36 ∨ 64 ≤ t.val)

theorem Laws.WellFormed.plain {i : Instr} (hf : i.frames = []) (ht : i.targets = []) : Laws.WellFormed.Statement i :=
  fun _ => ⟨by rw [hf]; exact fun _ h => absurd h (List.not_mem_nil), by rw [ht]; exact fun _ h => absurd h (List.not_mem_nil)⟩

theorem Laws.WellFormed.framed {i : Instr} {fr : Frame} (hw : i.wf = fr.wf) (hf : i.frames = [fr]) (ht : i.targets = []) :
    Laws.WellFormed.Statement i :=
  fun h => ⟨by rw [hf]; exact fun _ hm => by rw [List.mem_singleton.1 hm]; exact Frame.data_le (hw ▸ h),
    by rw [ht]; exact fun _ h => absurd h (List.not_mem_nil)⟩

theorem Laws.WellFormed.aimed {i : Instr} {t : TargetId} (hw : i.wf = targetExists t) (hf : i.frames = []) (ht : i.targets = [t]) :
    Laws.WellFormed.Statement i :=
  fun h => ⟨by rw [hf]; exact fun _ h => absurd h (List.not_mem_nil),
    by rw [ht]; exact fun _ hm => by rw [List.mem_singleton.1 hm]; exact targetExists_iff (hw ▸ h)⟩

theorem Laws.WellFormed.adminNop (f : Fn) (d : Words8) : Laws.WellFormed.Statement (.adminNop f d) := Laws.WellFormed.plain rfl rfl
theorem Laws.WellFormed.adminOpcodeUnknown (f : Fn) (d : Words8) : Laws.WellFormed.Statement (.adminOpcodeUnknown f d) := Laws.WellFormed.plain rfl rfl
theorem Laws.WellFormed.funcEnable (f : Fn) (d : Words8) : Laws.WellFormed.Statement (.funcEnable f d) := Laws.WellFormed.plain rfl rfl
theorem Laws.WellFormed.ringCreateCq (f : Fn) (d : Words8) : Laws.WellFormed.Statement (.ringCreateCq f d) := Laws.WellFormed.plain rfl rfl
theorem Laws.WellFormed.ringCreateSq (f : Fn) (d : Words8) : Laws.WellFormed.Statement (.ringCreateSq f d) := Laws.WellFormed.plain rfl rfl
theorem Laws.WellFormed.ringDeleteSq (f : Fn) (d : Words8) : Laws.WellFormed.Statement (.ringDeleteSq f d) := Laws.WellFormed.plain rfl rfl
theorem Laws.WellFormed.ringDeleteSqCommit (n : RingId) : Laws.WellFormed.Statement (.ringDeleteSqCommit n) := Laws.WellFormed.plain rfl rfl
theorem Laws.WellFormed.ringDeleteCq (f : Fn) (d : Words8) : Laws.WellFormed.Statement (.ringDeleteCq f d) := Laws.WellFormed.plain rfl rfl
theorem Laws.WellFormed.adoptRings (f : Fn) (d : Words8) : Laws.WellFormed.Statement (.adoptRings f d) := Laws.WellFormed.plain rfl rfl
theorem Laws.WellFormed.laneStart (f : Fn) (d : Words8) : Laws.WellFormed.Statement (.laneStart f d) := Laws.WellFormed.plain rfl rfl
theorem Laws.WellFormed.laneStop (f : Fn) (d : StopDesc) : Laws.WellFormed.Statement (.laneStop f d) := Laws.WellFormed.plain rfl rfl
theorem Laws.WellFormed.laneSuspend (f : Fn) (d : Words8) : Laws.WellFormed.Statement (.laneSuspend f d) := Laws.WellFormed.plain rfl rfl
theorem Laws.WellFormed.laneResume (f : Fn) (d : Words8) : Laws.WellFormed.Statement (.laneResume f d) := Laws.WellFormed.plain rfl rfl
theorem Laws.WellFormed.busoffRecover (f : Fn) (d : Words8) : Laws.WellFormed.Statement (.busoffRecover f d) := Laws.WellFormed.plain rfl rfl
theorem Laws.WellFormed.busBind (f : Fn) (d : StopDesc) : Laws.WellFormed.Statement (.busBind f d) := Laws.WellFormed.plain rfl rfl
theorem Laws.WellFormed.txCancel (f : Fn) (d : Words8) : Laws.WellFormed.Statement (.txCancel f d) := Laws.WellFormed.plain rfl rfl
theorem Laws.WellFormed.txAbort (f : Fn) (d : Words8) : Laws.WellFormed.Statement (.txAbort f d) := Laws.WellFormed.plain rfl rfl
theorem Laws.WellFormed.fltLoad (f : Fn) (d : Words8) : Laws.WellFormed.Statement (.fltLoad f d) := Laws.WellFormed.plain rfl rfl
theorem Laws.WellFormed.fltLoadTransferDone (b : LaneId) (els : List Rec4) : Laws.WellFormed.Statement (.fltLoadTransferDone b els) := Laws.WellFormed.plain rfl rfl
theorem Laws.WellFormed.fltLoadCommit (b : FltCommit) : Laws.WellFormed.Statement (.fltLoadCommit b) := Laws.WellFormed.plain rfl rfl
theorem Laws.WellFormed.rtLoad (f : Fn) (d : Words8) : Laws.WellFormed.Statement (.rtLoad f d) := Laws.WellFormed.plain rfl rfl
theorem Laws.WellFormed.rtLoadCommit (recs : List Rec4) : Laws.WellFormed.Statement (.rtLoadCommit recs) := Laws.WellFormed.plain rfl rfl
theorem Laws.WellFormed.polLoad (f : Fn) (d : Words8) : Laws.WellFormed.Statement (.polLoad f d) := Laws.WellFormed.plain rfl rfl
theorem Laws.WellFormed.polLoadCommit (recs : List (BitVec 64)) : Laws.WellFormed.Statement (.polLoadCommit recs) := Laws.WellFormed.plain rfl rfl
theorem Laws.WellFormed.powerMode (f : Fn) (d : Words8) : Laws.WellFormed.Statement (.powerMode f d) := Laws.WellFormed.plain rfl rfl
theorem Laws.WellFormed.powerModeSettleEnd : Laws.WellFormed.Statement (.powerModeSettleEnd) := Laws.WellFormed.plain rfl rfl
theorem Laws.WellFormed.pmbusWriteNack : Laws.WellFormed.Statement (.pmbusWriteNack) := Laws.WellFormed.plain rfl rfl
theorem Laws.WellFormed.pwrGoodFallDuringMove : Laws.WellFormed.Statement (.pwrGoodFallDuringMove) := Laws.WellFormed.plain rfl rfl
theorem Laws.WellFormed.tbStep (f : Fn) (d : Words8) : Laws.WellFormed.Statement (.tbStep f d) := Laws.WellFormed.plain rfl rfl
theorem Laws.WellFormed.portEnable (f : Fn) (d : Words8) : Laws.WellFormed.Statement (.portEnable f d) := Laws.WellFormed.plain rfl rfl
theorem Laws.WellFormed.portDisable (f : Fn) (d : Words8) : Laws.WellFormed.Statement (.portDisable f d) := Laws.WellFormed.plain rfl rfl
theorem Laws.WellFormed.blockStartMoraine (f : Fn) (d : Words8) : Laws.WellFormed.Statement (.blockStartMoraine f d) := Laws.WellFormed.plain rfl rfl
theorem Laws.WellFormed.blockStopMoraine (f : Fn) (d : Words8) : Laws.WellFormed.Statement (.blockStopMoraine f d) := Laws.WellFormed.plain rfl rfl
theorem Laws.WellFormed.blockStartTimeBases (f : Fn) (d : Words8) : Laws.WellFormed.Statement (.blockStartTimeBases f d) := Laws.WellFormed.plain rfl rfl
theorem Laws.WellFormed.blockStopTimeBases (f : Fn) (d : Words8) : Laws.WellFormed.Statement (.blockStopTimeBases f d) := Laws.WellFormed.plain rfl rfl
theorem Laws.WellFormed.blockStartStack (f : Fn) (d : Words8) : Laws.WellFormed.Statement (.blockStartStack f d) := Laws.WellFormed.plain rfl rfl
theorem Laws.WellFormed.blockStopStack (f : Fn) (d : Words8) : Laws.WellFormed.Statement (.blockStopStack f d) := Laws.WellFormed.plain rfl rfl
theorem Laws.WellFormed.blockStartSnowline (f : Fn) (d : Words8) : Laws.WellFormed.Statement (.blockStartSnowline f d) := Laws.WellFormed.plain rfl rfl
theorem Laws.WellFormed.blockStopSnowline (f : Fn) (d : Words8) : Laws.WellFormed.Statement (.blockStopSnowline f d) := Laws.WellFormed.plain rfl rfl
theorem Laws.WellFormed.arm (f : Fn) (d : Words8) : Laws.WellFormed.Statement (.arm f d) := Laws.WellFormed.plain rfl rfl
theorem Laws.WellFormed.trigger (f : Fn) (d : Words8) : Laws.WellFormed.Statement (.trigger f d) := Laws.WellFormed.plain rfl rfl
theorem Laws.WellFormed.freeze (f : Fn) (d : Words8) : Laws.WellFormed.Statement (.freeze f d) := Laws.WellFormed.plain rfl rfl
theorem Laws.WellFormed.dump (f : Fn) (d : Words8) : Laws.WellFormed.Statement (.dump f d) := Laws.WellFormed.plain rfl rfl
theorem Laws.WellFormed.dumpDone : Laws.WellFormed.Statement (.dumpDone) := Laws.WellFormed.plain rfl rfl
theorem Laws.WellFormed.hringRestart (f : Fn) (d : Words8) : Laws.WellFormed.Statement (.hringRestart f d) := Laws.WellFormed.plain rfl rfl
theorem Laws.WellFormed.clear (f : Fn) (d : Words8) : Laws.WellFormed.Statement (.clear f d) := Laws.WellFormed.plain rfl rfl
theorem Laws.WellFormed.recStatus (f : Fn) (d : Words8) : Laws.WellFormed.Statement (.recStatus f d) := Laws.WellFormed.plain rfl rfl
theorem Laws.WellFormed.routePush (f : Fn) (d : Words8) (recs : List Rec4) : Laws.WellFormed.Statement (.routePush f d recs) := Laws.WellFormed.plain rfl rfl
theorem Laws.WellFormed.epochCommit (f : Fn) (d : Words8) : Laws.WellFormed.Statement (.epochCommit f d) := Laws.WellFormed.plain rfl rfl
theorem Laws.WellFormed.epochCommitDone : Laws.WellFormed.Statement (.epochCommitDone) := Laws.WellFormed.plain rfl rfl
theorem Laws.WellFormed.handover (f : Fn) (d : Words8) : Laws.WellFormed.Statement (.handover f d) := Laws.WellFormed.plain rfl rfl
theorem Laws.WellFormed.stackStatus (f : Fn) (d : Words8) : Laws.WellFormed.Statement (.stackStatus f d) := Laws.WellFormed.plain rfl rfl
theorem Laws.WellFormed.imageLoad (f : Fn) (d : Words8) : Laws.WellFormed.Statement (.imageLoad f d) := Laws.WellFormed.plain rfl rfl
theorem Laws.WellFormed.imageLoadCommit (img : List Byte) : Laws.WellFormed.Statement (.imageLoadCommit img) := Laws.WellFormed.plain rfl rfl
theorem Laws.WellFormed.sqTailDoorbell (f : Fn) (n : RingId) (v : Word) : Laws.WellFormed.Statement (.sqTailDoorbell f n v) := Laws.WellFormed.plain rfl rfl
theorem Laws.WellFormed.cqHeadDoorbell (f : Fn) (n : RingId) (v : Word) : Laws.WellFormed.Statement (.cqHeadDoorbell f n v) := Laws.WellFormed.plain rfl rfl
theorem Laws.WellFormed.adminSqTailDoorbell (f : Fn) (v : Word) : Laws.WellFormed.Statement (.adminSqTailDoorbell f v) := Laws.WellFormed.plain rfl rfl
theorem Laws.WellFormed.adminCqHeadDoorbell (f : Fn) (v : Word) : Laws.WellFormed.Statement (.adminCqHeadDoorbell f v) := Laws.WellFormed.plain rfl rfl
theorem Laws.WellFormed.tx (n : RingId) (d : TxFetch) : Laws.WellFormed.Statement (.tx n d) := Laws.WellFormed.plain rfl rfl
theorem Laws.WellFormed.txPayloadReadDone (n : RingId) (data : List Byte) : Laws.WellFormed.Statement (.txPayloadReadDone n data) := Laws.WellFormed.plain rfl rfl
theorem Laws.WellFormed.waitingAdmissionGrant (p : ColPort) : Laws.WellFormed.Statement (.waitingAdmissionGrant p) := Laws.WellFormed.plain rfl rfl
theorem Laws.WellFormed.ethTx (n : RingId) (d : Words8) : Laws.WellFormed.Statement (.ethTx n d) := Laws.WellFormed.plain rfl rfl
theorem Laws.WellFormed.ethTxStart (e : PortId) : Laws.WellFormed.Statement (.ethTxStart e) := Laws.WellFormed.plain rfl rfl
theorem Laws.WellFormed.ethFrameTxEnd (e : PortId) : Laws.WellFormed.Statement (.ethFrameTxEnd e) := Laws.WellFormed.plain rfl rfl
theorem Laws.WellFormed.rxbuf (n : RingId) (d : Words8) : Laws.WellFormed.Statement (.rxbuf n d) := Laws.WellFormed.plain rfl rfl
theorem Laws.WellFormed.ioNop (n : RingId) (d : Words8) : Laws.WellFormed.Statement (.ioNop n d) := Laws.WellFormed.plain rfl rfl
theorem Laws.WellFormed.rxCompletionWrite (n : RingId) : Laws.WellFormed.Statement (.rxCompletionWrite n) := Laws.WellFormed.plain rfl rfl
theorem Laws.WellFormed.flr (f : Fn) : Laws.WellFormed.Statement (.flr f) := Laws.WellFormed.plain rfl rfl
theorem Laws.WellFormed.funcLinkLoss (f : Fn) : Laws.WellFormed.Statement (.funcLinkLoss f) := Laws.WellFormed.plain rfl rfl
theorem Laws.WellFormed.objectWord0Read (f : Fn) (q : QuadId) (o : ObjId) : Laws.WellFormed.Statement (.objectWord0Read f q o) := Laws.WellFormed.plain rfl rfl
theorem Laws.WellFormed.objectRelease (f : Fn) (q : QuadId) (o : ObjId) : Laws.WellFormed.Statement (.objectRelease f q o) := Laws.WellFormed.plain rfl rfl
theorem Laws.WellFormed.objectWrite (f : Fn) (q : QuadId) (o : ObjId) (w : Fin 32) (v : Word) (be : BitVec 4) : Laws.WellFormed.Statement (.objectWrite f q o w v be) := Laws.WellFormed.plain rfl rfl
theorem Laws.WellFormed.objLockTimeout (q : QuadId) (o : ObjId) : Laws.WellFormed.Statement (.objLockTimeout q o) := Laws.WellFormed.plain rfl rfl
theorem Laws.WellFormed.periodicRelease (q : QuadId) (o : ObjId) : Laws.WellFormed.Statement (.periodicRelease q o) := Laws.WellFormed.plain rfl rfl
theorem Laws.WellFormed.deadlineExpiry (dst : Fin 132) (ent : Nat) : Laws.WellFormed.Statement (.deadlineExpiry dst ent) := Laws.WellFormed.plain rfl rfl
theorem Laws.WellFormed.holdExpiry (l : LaneId) : Laws.WellFormed.Statement (.holdExpiry l) := Laws.WellFormed.plain rfl rfl
theorem Laws.WellFormed.trailMsExpiry (l : LaneId) (ent : Nat) : Laws.WellFormed.Statement (.trailMsExpiry l ent) := Laws.WellFormed.plain rfl rfl
theorem Laws.WellFormed.txSof (l : LaneId) (joined : Option Edge) : Laws.WellFormed.Statement (.txSof l joined) := Laws.WellFormed.plain rfl rfl
theorem Laws.WellFormed.arbLost (l : LaneId) : Laws.WellFormed.Statement (.arbLost l) := Laws.WellFormed.plain rfl rfl
theorem Laws.WellFormed.txSuccess (l : LaneId) (loop : Option Nat) : Laws.WellFormed.Statement (.txSuccess l loop) := Laws.WellFormed.plain rfl rfl
theorem Laws.WellFormed.txError (l : LaneId) (x : TxErr) : Laws.WellFormed.Statement (.txError l x) := Laws.WellFormed.plain rfl rfl
theorem Laws.WellFormed.rxError (l : LaneId) (x : RxErr) : Laws.WellFormed.Statement (.rxError l x) := Laws.WellFormed.plain rfl rfl
theorem Laws.WellFormed.protocolException (l : LaneId) (x : RxErr) : Laws.WellFormed.Statement (.protocolException l x) := Laws.WellFormed.plain rfl rfl
theorem Laws.WellFormed.overloadFrame (l : LaneId) (x : Ovld) : Laws.WellFormed.Statement (.overloadFrame l x) := Laws.WellFormed.plain rfl rfl
theorem Laws.WellFormed.frameValid (l : LaneId) (fr : Frame) (sof : Sof) (h : Unit) : Laws.WellFormed.Statement (.frameValid l fr sof h) := Laws.WellFormed.framed rfl rfl rfl
theorem Laws.WellFormed.filterDecision (l : LaneId) (fr : Frame) (sof : Sof) (late : Bool) (parity : WalkErr) (h : Unit) : Laws.WellFormed.Statement (.filterDecision l fr sof late parity h) := Laws.WellFormed.framed rfl rfl rfl
theorem Laws.WellFormed.cutThroughLookup (l : LaneId) (fr : Frame) (sof : Bool) : Laws.WellFormed.Statement (.cutThroughLookup l fr sof) := Laws.WellFormed.framed rfl rfl rfl
theorem Laws.WellFormed.ctKillArrival (l : KillSeen) : Laws.WellFormed.Statement (.ctKillArrival l) := Laws.WellFormed.plain rfl rfl
theorem Laws.WellFormed.ctKillWindowEnd : Laws.WellFormed.Statement (.ctKillWindowEnd) := Laws.WellFormed.plain rfl rfl
theorem Laws.WellFormed.colSlot : Laws.WellFormed.Statement (.colSlot) := Laws.WellFormed.plain rfl rfl
theorem Laws.WellFormed.stuckDominant (l : LaneId) (x : StuckSeen) : Laws.WellFormed.Statement (.stuckDominant l x) := Laws.WellFormed.plain rfl rfl
theorem Laws.WellFormed.lctlSettleExpiry (l : LaneId) : Laws.WellFormed.Statement (.lctlSettleExpiry l) := Laws.WellFormed.plain rfl rfl
theorem Laws.WellFormed.selfTestFaultFound (l : LaneId) : Laws.WellFormed.Statement (.selfTestFaultFound l) := Laws.WellFormed.plain rfl rfl
theorem Laws.WellFormed.selfTestWindowEnd (l : LaneId) : Laws.WellFormed.Statement (.selfTestWindowEnd l) := Laws.WellFormed.plain rfl rfl
theorem Laws.WellFormed.stuckFaultEnd (l : LaneId) : Laws.WellFormed.Statement (.stuckFaultEnd l) := Laws.WellFormed.plain rfl rfl
theorem Laws.WellFormed.integrationComplete (l : LaneId) : Laws.WellFormed.Statement (.integrationComplete l) := Laws.WellFormed.plain rfl rfl
theorem Laws.WellFormed.rejoinAfterIdle (l : LaneId) : Laws.WellFormed.Statement (.rejoinAfterIdle l) := Laws.WellFormed.plain rfl rfl
theorem Laws.WellFormed.recoveryComplete (l : LaneId) : Laws.WellFormed.Statement (.recoveryComplete l) := Laws.WellFormed.plain rfl rfl
theorem Laws.WellFormed.boCountAge (l : LaneId) : Laws.WellFormed.Statement (.boCountAge l) := Laws.WellFormed.plain rfl rfl
theorem Laws.WellFormed.seekFrameEnd (l : LaneId) (fr : Frame) (good : Bool) : Laws.WellFormed.Statement (.seekFrameEnd l fr good) := Laws.WellFormed.framed rfl rfl rfl
theorem Laws.WellFormed.seekDwellExpiry (l : LaneId) : Laws.WellFormed.Statement (.seekDwellExpiry l) := Laws.WellFormed.plain rfl rfl
theorem Laws.WellFormed.seekTimeout (l : LaneId) : Laws.WellFormed.Statement (.seekTimeout l) := Laws.WellFormed.plain rfl rfl
theorem Laws.WellFormed.declaredTimingApply (l : LaneId) : Laws.WellFormed.Statement (.declaredTimingApply l) := Laws.WellFormed.plain rfl rfl
theorem Laws.WellFormed.guardWindowEnd (l : LaneId) (g : Fin 16) : Laws.WellFormed.Statement (.guardWindowEnd l g) := Laws.WellFormed.plain rfl rfl
theorem Laws.WellFormed.quarantineLift (f : Fn) (l : LaneId) (g : Fin 16) : Laws.WellFormed.Statement (.quarantineLift f l g) := Laws.WellFormed.plain rfl rfl
theorem Laws.WellFormed.vlogClear (f : Fn) (l : LaneId) : Laws.WellFormed.Statement (.vlogClear f l) := Laws.WellFormed.plain rfl rfl
theorem Laws.WellFormed.dupEntryExpiry (l : DupSeen) : Laws.WellFormed.Statement (.dupEntryExpiry l) := Laws.WellFormed.plain rfl rfl
theorem Laws.WellFormed.quadModeWrite (f : Fn) (q : QuadId) (mode : BitVec 2) : Laws.WellFormed.Statement (.quadModeWrite f q mode) := Laws.WellFormed.plain rfl rfl
theorem Laws.WellFormed.quadGateWrite (f : Fn) (q : QuadId) (gate : Bool) : Laws.WellFormed.Statement (.quadGateWrite f q gate) := Laws.WellFormed.plain rfl rfl
theorem Laws.WellFormed.quadGatedDone (q : QuadId) : Laws.WellFormed.Statement (.quadGatedDone q) := Laws.WellFormed.plain rfl rfl
theorem Laws.WellFormed.quadUngateDone (q : QuadId) : Laws.WellFormed.Statement (.quadUngateDone q) := Laws.WellFormed.plain rfl rfl
theorem Laws.WellFormed.sweepCompare (c : CellId) : Laws.WellFormed.Statement (.sweepCompare c) := Laws.WellFormed.plain rfl rfl
theorem Laws.WellFormed.ethLinkDown (e : PortId) : Laws.WellFormed.Statement (.ethLinkDown e) := Laws.WellFormed.plain rfl rfl
theorem Laws.WellFormed.ethLinkUp (e : PortId) (speed : BitVec 2) : Laws.WellFormed.Statement (.ethLinkUp e speed) := Laws.WellFormed.plain rfl rfl
theorem Laws.WellFormed.portHoldExpiry (e : PortId) : Laws.WellFormed.Statement (.portHoldExpiry e) := Laws.WellFormed.plain rfl rfl
theorem Laws.WellFormed.ethFrameRx (e : PortId) (fr : EthFrame) : Laws.WellFormed.Statement (.ethFrameRx e fr) := Laws.WellFormed.plain rfl rfl
theorem Laws.WellFormed.stackDataRx (e : PortId) (bytes : EthFrame) : Laws.WellFormed.Statement (.stackDataRx e bytes) := Laws.WellFormed.plain rfl rfl
theorem Laws.WellFormed.heartbeatRx (e : PortId) (bytes : EthFrame) : Laws.WellFormed.Statement (.heartbeatRx e bytes) := Laws.WellFormed.plain rfl rfl
theorem Laws.WellFormed.routePushRx (e : PortId) (bytes : EthFrame) : Laws.WellFormed.Statement (.routePushRx e bytes) := Laws.WellFormed.plain rfl rfl
theorem Laws.WellFormed.epochCommitRx (e : PortId) (bytes : EthFrame) : Laws.WellFormed.Statement (.epochCommitRx e bytes) := Laws.WellFormed.plain rfl rfl
theorem Laws.WellFormed.epochAckRx (e : PortId) (bytes : EthFrame) : Laws.WellFormed.Statement (.epochAckRx e bytes) := Laws.WellFormed.plain rfl rfl
theorem Laws.WellFormed.nakRx (e : PortId) (bytes : EthFrame) : Laws.WellFormed.Statement (.nakRx e bytes) := Laws.WellFormed.plain rfl rfl
theorem Laws.WellFormed.handoverRx (e : PortId) (bytes : EthFrame) : Laws.WellFormed.Statement (.handoverRx e bytes) := Laws.WellFormed.plain rfl rfl
theorem Laws.WellFormed.epochActivation : Laws.WellFormed.Statement (.epochActivation) := Laws.WellFormed.plain rfl rfl
theorem Laws.WellFormed.heartbeatTimer : Laws.WellFormed.Statement (.heartbeatTimer) := Laws.WellFormed.plain rfl rfl
theorem Laws.WellFormed.masterListenEnd : Laws.WellFormed.Statement (.masterListenEnd) := Laws.WellFormed.plain rfl rfl
theorem Laws.WellFormed.masterLost : Laws.WellFormed.Statement (.masterLost) := Laws.WellFormed.plain rfl rfl
theorem Laws.WellFormed.broadcastSeqForget (backup : Bool) : Laws.WellFormed.Statement (.broadcastSeqForget backup) := Laws.WellFormed.plain rfl rfl
theorem Laws.WellFormed.syncTxTimer : Laws.WellFormed.Statement (.syncTxTimer) := Laws.WellFormed.plain rfl rfl
theorem Laws.WellFormed.syncRx (e : PortId) (seq : PtpIn) (ingress : Nat) : Laws.WellFormed.Statement (.syncRx e seq ingress) := Laws.WellFormed.plain rfl rfl
theorem Laws.WellFormed.followUpRx (e : PortId) (seq : PtpIn) (origin : Nat) (corr : Int) : Laws.WellFormed.Statement (.followUpRx e seq origin corr) := Laws.WellFormed.plain rfl rfl
theorem Laws.WellFormed.delayReqRx (e : PortId) (src : Nat) (seq : PtpIn) (ingress : Nat) : Laws.WellFormed.Statement (.delayReqRx e src seq ingress) := Laws.WellFormed.plain rfl rfl
theorem Laws.WellFormed.delayRespRx (e : PortId) (seq : PtpIn) (recv : Nat) : Laws.WellFormed.Statement (.delayRespRx e seq recv) := Laws.WellFormed.plain rfl rfl
theorem Laws.WellFormed.cirqueDoorbell (w : Agent) (v : Word) : Laws.WellFormed.Statement (.cirqueDoorbell w v) := Laws.WellFormed.plain rfl rfl
theorem Laws.WellFormed.cirqueCommit (t : TargetId) : Laws.WellFormed.Statement (.cirqueCommit t) := Laws.WellFormed.aimed rfl rfl rfl
theorem Laws.WellFormed.modTimeExpiry (t : TargetId) : Laws.WellFormed.Statement (.modTimeExpiry t) := Laws.WellFormed.aimed rfl rfl rfl
theorem Laws.WellFormed.cirqueClaim (r : Agent) (t : TargetId) : Laws.WellFormed.Statement (.cirqueClaim r t) := Laws.WellFormed.aimed rfl rfl rfl
theorem Laws.WellFormed.cirqueComplete (w : Agent) (t : TargetId) (v : Word) : Laws.WellFormed.Statement (.cirqueComplete w t v) := Laws.WellFormed.aimed rfl rfl rfl
theorem Laws.WellFormed.cirqueSrcWrite (w : Agent) (n : SrcId) (v : Word) : Laws.WellFormed.Statement (.cirqueSrcWrite w n v) := Laws.WellFormed.plain rfl rfl
theorem Laws.WellFormed.sourceClr (w : Agent) (n : SrcId) : Laws.WellFormed.Statement (.sourceClr w n) := Laws.WellFormed.plain rfl rfl
theorem Laws.WellFormed.idleWrite (f : Fn) (t : TargetId) : Laws.WellFormed.Statement (.idleWrite f t) := Laws.WellFormed.aimed rfl rfl rfl
theorem Laws.WellFormed.msixVectorUnblock (f : Fn) (v : Fin 16) (how : Unblock) : Laws.WellFormed.Statement (.msixVectorUnblock f v how) := Laws.WellFormed.plain rfl rfl
theorem Laws.WellFormed.tbSlewWrite (w : Agent) (n : TbId) (v : BitVec 64) : Laws.WellFormed.Statement (.tbSlewWrite w n v) := Laws.WellFormed.plain rfl rfl
theorem Laws.WellFormed.slewDone (n : TbId) : Laws.WellFormed.Statement (.slewDone n) := Laws.WellFormed.plain rfl rfl
theorem Laws.WellFormed.tbTimeCapture (r : Agent) (n : TbId) : Laws.WellFormed.Statement (.tbTimeCapture r n) := Laws.WellFormed.plain rfl rfl
theorem Laws.WellFormed.tbSet (w : Agent) (n : TbId) (v : Word) : Laws.WellFormed.Statement (.tbSet w n v) := Laws.WellFormed.plain rfl rfl
theorem Laws.WellFormed.syncRelease (c : Fin 16) : Laws.WellFormed.Statement (.syncRelease c) := Laws.WellFormed.plain rfl rfl
theorem Laws.WellFormed.morRecordWrite : Laws.WellFormed.Statement (.morRecordWrite) := Laws.WellFormed.plain rfl rfl
theorem Laws.WellFormed.postWindowEnd : Laws.WellFormed.Statement (.postWindowEnd) := Laws.WellFormed.plain rfl rfl
theorem Laws.WellFormed.morHeaderWrite : Laws.WellFormed.Statement (.morHeaderWrite) := Laws.WellFormed.plain rfl rfl
theorem Laws.WellFormed.morHheadWrite (f : Fn) (v : Word) : Laws.WellFormed.Statement (.morHheadWrite f v) := Laws.WellFormed.plain rfl rfl
theorem Laws.WellFormed.wupDetected (n : Fin 16) : Laws.WellFormed.Statement (.wupDetected n) := Laws.WellFormed.plain rfl rfl
theorem Laws.WellFormed.swFrameEnd (n : Fin 16) (fr : Frame) (good : Bool) : Laws.WellFormed.Statement (.swFrameEnd n fr good) := Laws.WellFormed.framed rfl rfl rfl
theorem Laws.WellFormed.wakePin (i : Fin 2) : Laws.WellFormed.Statement (.wakePin i) := Laws.WellFormed.plain rfl rfl
theorem Laws.WellFormed.gpioWake (i : Fin 4) : Laws.WellFormed.Statement (.gpioWake i) := Laws.WellFormed.plain rfl rfl
theorem Laws.WellFormed.perstWake (f : Fn) (deassert : Bool) : Laws.WellFormed.Statement (.perstWake f deassert) := Laws.WellFormed.plain rfl rfl
theorem Laws.WellFormed.rtcAlarm : Laws.WellFormed.Statement (.rtcAlarm) := Laws.WellFormed.plain rfl rfl
theorem Laws.WellFormed.vaonPowerUp : Laws.WellFormed.Statement (.vaonPowerUp) := Laws.WellFormed.plain rfl rfl
theorem Laws.WellFormed.pwrGoodRise : Laws.WellFormed.Statement (.pwrGoodRise) := Laws.WellFormed.plain rfl rfl
theorem Laws.WellFormed.pgTimeout : Laws.WellFormed.Statement (.pgTimeout) := Laws.WellFormed.plain rfl rfl
theorem Laws.WellFormed.resetDelayEnd : Laws.WellFormed.Statement (.resetDelayEnd) := Laws.WellFormed.plain rfl rfl
theorem Laws.WellFormed.mainResetRelease (p : Straps) : Laws.WellFormed.Statement (.mainResetRelease p) := Laws.WellFormed.plain rfl rfl
theorem Laws.WellFormed.bootMailboxGo (f : Fn) (v : Word) : Laws.WellFormed.Statement (.bootMailboxGo f v) := Laws.WellFormed.plain rfl rfl
theorem Laws.WellFormed.imageReadDone (img : Option (List Byte)) : Laws.WellFormed.Statement (.imageReadDone img) := Laws.WellFormed.plain rfl rfl
theorem Laws.WellFormed.bootDone : Laws.WellFormed.Statement (.bootDone) := Laws.WellFormed.plain rfl rfl
theorem Laws.WellFormed.sysReset : Laws.WellFormed.Statement (.sysReset) := Laws.WellFormed.plain rfl rfl
theorem Laws.WellFormed.deviceResetKey (w : Agent) : Laws.WellFormed.Statement (.deviceResetKey w) := Laws.WellFormed.plain rfl rfl
theorem Laws.WellFormed.standbyKey (w : Agent) : Laws.WellFormed.Statement (.standbyKey w) := Laws.WellFormed.plain rfl rfl
theorem Laws.WellFormed.standbyRailsOff : Laws.WellFormed.Statement (.standbyRailsOff) := Laws.WellFormed.plain rfl rfl
theorem Laws.WellFormed.thermalStepDown (tj : BitVec 9) : Laws.WellFormed.Statement (.thermalStepDown tj) := Laws.WellFormed.plain rfl rfl
theorem Laws.WellFormed.tjAlarmCross (tj : BitVec 9) : Laws.WellFormed.Statement (.tjAlarmCross tj) := Laws.WellFormed.plain rfl rfl
theorem Laws.WellFormed.thermalShutdown (tj : BitVec 9) : Laws.WellFormed.Statement (.thermalShutdown tj) := Laws.WellFormed.plain rfl rfl
theorem Laws.WellFormed.thermalRelease (tj : BitVec 9) : Laws.WellFormed.Statement (.thermalRelease tj) := Laws.WellFormed.plain rfl rfl
theorem Laws.WellFormed.scrubRead (x : ScrubRead) : Laws.WellFormed.Statement (.scrubRead x) := Laws.WellFormed.plain rfl rfl
theorem Laws.WellFormed.tickHookCall (q : QuadId) (h : Unit) : Laws.WellFormed.Statement (.tickHookCall q h) := Laws.WellFormed.plain rfl rfl
theorem Laws.WellFormed.interruptEntry (e : EngId) : Laws.WellFormed.Statement (.interruptEntry e) := Laws.WellFormed.plain rfl rfl
theorem Laws.WellFormed.lnop (e : EngId) : Laws.WellFormed.Statement (.lnop e) := Laws.WellFormed.plain rfl rfl
theorem Laws.WellFormed.lit (e : EngId) (v : BitVec 24) : Laws.WellFormed.Statement (.lit e v) := Laws.WellFormed.plain rfl rfl
theorem Laws.WellFormed.litu (e : EngId) (v : BitVec 24) : Laws.WellFormed.Statement (.litu e v) := Laws.WellFormed.plain rfl rfl
theorem Laws.WellFormed.sethi (e : EngId) (v : BitVec 8) : Laws.WellFormed.Statement (.sethi e v) := Laws.WellFormed.plain rfl rfl
theorem Laws.WellFormed.addi (e : EngId) (v : BitVec 24) : Laws.WellFormed.Statement (.addi e v) := Laws.WellFormed.plain rfl rfl
theorem Laws.WellFormed.cmpi (e : EngId) (v : BitVec 24) : Laws.WellFormed.Statement (.cmpi e v) := Laws.WellFormed.plain rfl rfl
theorem Laws.WellFormed.lda (e : EngId) (v : BitVec 24) : Laws.WellFormed.Statement (.lda e v) := Laws.WellFormed.plain rfl rfl
theorem Laws.WellFormed.sta (e : EngId) (v : BitVec 24) : Laws.WellFormed.Statement (.sta e v) := Laws.WellFormed.plain rfl rfl
theorem Laws.WellFormed.jz (e : EngId) (v : BitVec 24) : Laws.WellFormed.Statement (.jz e v) := Laws.WellFormed.plain rfl rfl
theorem Laws.WellFormed.jnz (e : EngId) (v : BitVec 24) : Laws.WellFormed.Statement (.jnz e v) := Laws.WellFormed.plain rfl rfl
theorem Laws.WellFormed.call (e : EngId) (v : BitVec 24) : Laws.WellFormed.Statement (.call e v) := Laws.WellFormed.plain rfl rfl
theorem Laws.WellFormed.repLong (e : EngId) : Laws.WellFormed.Statement (.repLong e) := Laws.WellFormed.plain rfl rfl
theorem Laws.WellFormed.jcc (e : EngId) (c : BitVec 4) (v : BitVec 24) : Laws.WellFormed.Statement (.jcc e c v) := Laws.WellFormed.plain rfl rfl
theorem Laws.WellFormed.nop (e : EngId) : Laws.WellFormed.Statement (.nop e) := Laws.WellFormed.plain rfl rfl
theorem Laws.WellFormed.dup (e : EngId) : Laws.WellFormed.Statement (.dup e) := Laws.WellFormed.plain rfl rfl
theorem Laws.WellFormed.drop (e : EngId) : Laws.WellFormed.Statement (.drop e) := Laws.WellFormed.plain rfl rfl
theorem Laws.WellFormed.swap (e : EngId) : Laws.WellFormed.Statement (.swap e) := Laws.WellFormed.plain rfl rfl
theorem Laws.WellFormed.over (e : EngId) : Laws.WellFormed.Statement (.over e) := Laws.WellFormed.plain rfl rfl
theorem Laws.WellFormed.rot (e : EngId) : Laws.WellFormed.Statement (.rot e) := Laws.WellFormed.plain rfl rfl
theorem Laws.WellFormed.pick (e : EngId) (n : BitVec 4) : Laws.WellFormed.Statement (.pick e n) := Laws.WellFormed.plain rfl rfl
theorem Laws.WellFormed.slit (e : EngId) (v : BitVec 9) : Laws.WellFormed.Statement (.slit e v) := Laws.WellFormed.plain rfl rfl
theorem Laws.WellFormed.add (e : EngId) : Laws.WellFormed.Statement (.add e) := Laws.WellFormed.plain rfl rfl
theorem Laws.WellFormed.sub (e : EngId) : Laws.WellFormed.Statement (.sub e) := Laws.WellFormed.plain rfl rfl
theorem Laws.WellFormed.adc (e : EngId) : Laws.WellFormed.Statement (.adc e) := Laws.WellFormed.plain rfl rfl
theorem Laws.WellFormed.sbc (e : EngId) : Laws.WellFormed.Statement (.sbc e) := Laws.WellFormed.plain rfl rfl
theorem Laws.WellFormed.adds (e : EngId) : Laws.WellFormed.Statement (.adds e) := Laws.WellFormed.plain rfl rfl
theorem Laws.WellFormed.subs (e : EngId) : Laws.WellFormed.Statement (.subs e) := Laws.WellFormed.plain rfl rfl
theorem Laws.WellFormed.mul (e : EngId) : Laws.WellFormed.Statement (.mul e) := Laws.WellFormed.plain rfl rfl
theorem Laws.WellFormed.mulh (e : EngId) (u : Bool) : Laws.WellFormed.Statement (.mulh e u) := Laws.WellFormed.plain rfl rfl
theorem Laws.WellFormed.div (e : EngId) : Laws.WellFormed.Statement (.div e) := Laws.WellFormed.plain rfl rfl
theorem Laws.WellFormed.divu (e : EngId) : Laws.WellFormed.Statement (.divu e) := Laws.WellFormed.plain rfl rfl
theorem Laws.WellFormed.neg (e : EngId) : Laws.WellFormed.Statement (.neg e) := Laws.WellFormed.plain rfl rfl
theorem Laws.WellFormed.abs (e : EngId) : Laws.WellFormed.Statement (.abs e) := Laws.WellFormed.plain rfl rfl
theorem Laws.WellFormed.and (e : EngId) : Laws.WellFormed.Statement (.and e) := Laws.WellFormed.plain rfl rfl
theorem Laws.WellFormed.or (e : EngId) : Laws.WellFormed.Statement (.or e) := Laws.WellFormed.plain rfl rfl
theorem Laws.WellFormed.xor (e : EngId) : Laws.WellFormed.Statement (.xor e) := Laws.WellFormed.plain rfl rfl
theorem Laws.WellFormed.not (e : EngId) : Laws.WellFormed.Statement (.not e) := Laws.WellFormed.plain rfl rfl
theorem Laws.WellFormed.shl (e : EngId) : Laws.WellFormed.Statement (.shl e) := Laws.WellFormed.plain rfl rfl
theorem Laws.WellFormed.shr (e : EngId) : Laws.WellFormed.Statement (.shr e) := Laws.WellFormed.plain rfl rfl
theorem Laws.WellFormed.sar (e : EngId) : Laws.WellFormed.Statement (.sar e) := Laws.WellFormed.plain rfl rfl
theorem Laws.WellFormed.rol (e : EngId) : Laws.WellFormed.Statement (.rol e) := Laws.WellFormed.plain rfl rfl
theorem Laws.WellFormed.ror (e : EngId) : Laws.WellFormed.Statement (.ror e) := Laws.WellFormed.plain rfl rfl
theorem Laws.WellFormed.shi (e : EngId) (k : BitVec 2) (n : BitVec 6) : Laws.WellFormed.Statement (.shi e k n) := Laws.WellFormed.plain rfl rfl
theorem Laws.WellFormed.cmp (e : EngId) : Laws.WellFormed.Statement (.cmp e) := Laws.WellFormed.plain rfl rfl
theorem Laws.WellFormed.tst (e : EngId) : Laws.WellFormed.Statement (.tst e) := Laws.WellFormed.plain rfl rfl
theorem Laws.WellFormed.ld (e : EngId) : Laws.WellFormed.Statement (.ld e) := Laws.WellFormed.plain rfl rfl
theorem Laws.WellFormed.st (e : EngId) : Laws.WellFormed.Statement (.st e) := Laws.WellFormed.plain rfl rfl
theorem Laws.WellFormed.ldp (e : EngId) (sz : BitVec 2) (inc : Bool) (sx : Bool) (pb : Bool) : Laws.WellFormed.Statement (.ldp e sz inc sx pb) := Laws.WellFormed.plain rfl rfl
theorem Laws.WellFormed.stp (e : EngId) (sz : BitVec 2) (inc : Bool) (sx : Bool) (pb : Bool) : Laws.WellFormed.Statement (.stp e sz inc sx pb) := Laws.WellFormed.plain rfl rfl
theorem Laws.WellFormed.popx (e : EngId) (k : BitVec 2) : Laws.WellFormed.Statement (.popx e k) := Laws.WellFormed.plain rfl rfl
theorem Laws.WellFormed.pushx (e : EngId) (k : BitVec 2) : Laws.WellFormed.Statement (.pushx e k) := Laws.WellFormed.plain rfl rfl
theorem Laws.WellFormed.amo (e : EngId) (k : BitVec 2) : Laws.WellFormed.Statement (.amo e k) := Laws.WellFormed.plain rfl rfl
theorem Laws.WellFormed.rep (e : EngId) : Laws.WellFormed.Statement (.rep e) := Laws.WellFormed.plain rfl rfl
theorem Laws.WellFormed.clz (e : EngId) : Laws.WellFormed.Statement (.clz e) := Laws.WellFormed.plain rfl rfl
theorem Laws.WellFormed.bswap (e : EngId) : Laws.WellFormed.Statement (.bswap e) := Laws.WellFormed.plain rfl rfl
theorem Laws.WellFormed.ext (e : EngId) (lsb : BitVec 5) (w : BitVec 4) : Laws.WellFormed.Statement (.ext e lsb w) := Laws.WellFormed.plain rfl rfl
theorem Laws.WellFormed.calls (e : EngId) : Laws.WellFormed.Statement (.calls e) := Laws.WellFormed.plain rfl rfl
theorem Laws.WellFormed.jmps (e : EngId) : Laws.WellFormed.Statement (.jmps e) := Laws.WellFormed.plain rfl rfl
theorem Laws.WellFormed.bz (e : EngId) (v : BitVec 9) : Laws.WellFormed.Statement (.bz e v) := Laws.WellFormed.plain rfl rfl
theorem Laws.WellFormed.bnz (e : EngId) (v : BitVec 9) : Laws.WellFormed.Statement (.bnz e v) := Laws.WellFormed.plain rfl rfl
theorem Laws.WellFormed.addp (e : EngId) (pb : Bool) (v : BitVec 8) : Laws.WellFormed.Statement (.addp e pb v) := Laws.WellFormed.plain rfl rfl
theorem Laws.WellFormed.setrc (e : EngId) (v : BitVec 9) : Laws.WellFormed.Statement (.setrc e v) := Laws.WellFormed.plain rfl rfl
theorem Laws.WellFormed.flag (e : EngId) (set : Bool) (m : BitVec 7) : Laws.WellFormed.Statement (.flag e set m) := Laws.WellFormed.plain rfl rfl
theorem Laws.WellFormed.ien (e : EngId) (v : Bool) : Laws.WellFormed.Statement (.ien e v) := Laws.WellFormed.plain rfl rfl
theorem Laws.WellFormed.setil (e : EngId) (v : BitVec 4) : Laws.WellFormed.Statement (.setil e v) := Laws.WellFormed.plain rfl rfl
theorem Laws.WellFormed.bcc (e : EngId) (c : BitVec 4) (v : BitVec 5) : Laws.WellFormed.Statement (.bcc e c v) := Laws.WellFormed.plain rfl rfl
theorem Laws.WellFormed.ret (e : EngId) : Laws.WellFormed.Statement (.ret e) := Laws.WellFormed.plain rfl rfl
theorem Laws.WellFormed.reti (e : EngId) : Laws.WellFormed.Statement (.reti e) := Laws.WellFormed.plain rfl rfl
theorem Laws.WellFormed.wait (e : EngId) : Laws.WellFormed.Statement (.wait e) := Laws.WellFormed.plain rfl rfl
theorem Laws.WellFormed.fence (e : EngId) : Laws.WellFormed.Statement (.fence e) := Laws.WellFormed.plain rfl rfl
theorem Laws.WellFormed.swi (e : EngId) (code : BitVec 8) : Laws.WellFormed.Statement (.swi e code) := Laws.WellFormed.plain rfl rfl
theorem Laws.WellFormed.illegalOpcode (e : EngId) : Laws.WellFormed.Statement (.illegalOpcode e) := Laws.WellFormed.plain rfl rfl
theorem Laws.WellFormed.br (l : LaneId) (dl : PinArg) (c : BitVec 3) (a : BitVec 5) : Laws.WellFormed.Statement (.br l dl c a) := Laws.WellFormed.plain rfl rfl
theorem Laws.WellFormed.await (l : LaneId) (dl : PinArg) (lv : Bool) (i : BitVec 4) (pulse : Bool) : Laws.WellFormed.Statement (.await l dl lv i pulse) := Laws.WellFormed.plain rfl rfl
theorem Laws.WellFormed.shin (l : LaneId) (dl : PinArg) (k : BitVec 3) (n : BitVec 5) : Laws.WellFormed.Statement (.shin l dl k n) := Laws.WellFormed.plain rfl rfl
theorem Laws.WellFormed.shout (l : LaneId) (dl : PinArg) (k : BitVec 3) (n : BitVec 5) : Laws.WellFormed.Statement (.shout l dl k n) := Laws.WellFormed.plain rfl rfl
theorem Laws.WellFormed.push (l : LaneId) (dl : PinArg) (thr : Bool) : Laws.WellFormed.Statement (.push l dl thr) := Laws.WellFormed.plain rfl rfl
theorem Laws.WellFormed.pushN (l : LaneId) (dl : PinArg) (thr : Bool) : Laws.WellFormed.Statement (.pushN l dl thr) := Laws.WellFormed.plain rfl rfl
theorem Laws.WellFormed.pull (l : LaneId) (dl : PinArg) (thr : Bool) : Laws.WellFormed.Statement (.pull l dl thr) := Laws.WellFormed.plain rfl rfl
theorem Laws.WellFormed.pullN (l : LaneId) (dl : PinArg) (thr : Bool) : Laws.WellFormed.Statement (.pullN l dl thr) := Laws.WellFormed.plain rfl rfl
theorem Laws.WellFormed.setx (l : LaneId) (dl : PinArg) (v : BitVec 8) : Laws.WellFormed.Statement (.setx l dl v) := Laws.WellFormed.plain rfl rfl
theorem Laws.WellFormed.drive (l : LaneId) (dl : PinArg) (k : BitVec 2) : Laws.WellFormed.Statement (.drive l dl k) := Laws.WellFormed.plain rfl rfl
theorem Laws.WellFormed.crcReset (l : LaneId) (dl : PinArg) (k : BitVec 3) : Laws.WellFormed.Statement (.crcReset l dl k) := Laws.WellFormed.plain rfl rfl
theorem Laws.WellFormed.stuffDyn (l : LaneId) (dl : PinArg) : Laws.WellFormed.Statement (.stuffDyn l dl) := Laws.WellFormed.plain rfl rfl
theorem Laws.WellFormed.stuffFixedFd (l : LaneId) (dl : PinArg) : Laws.WellFormed.Statement (.stuffFixedFd l dl) := Laws.WellFormed.plain rfl rfl
theorem Laws.WellFormed.stuffFixedXl (l : LaneId) (dl : PinArg) : Laws.WellFormed.Statement (.stuffFixedXl l dl) := Laws.WellFormed.plain rfl rfl
theorem Laws.WellFormed.stuffOff (l : LaneId) (dl : PinArg) : Laws.WellFormed.Statement (.stuffOff l dl) := Laws.WellFormed.plain rfl rfl
theorem Laws.WellFormed.crcSend (l : LaneId) (dl : PinArg) (k : BitVec 3) : Laws.WellFormed.Statement (.crcSend l dl k) := Laws.WellFormed.plain rfl rfl
theorem Laws.WellFormed.crcCheck (l : LaneId) (dl : PinArg) (k : BitVec 3) (bad : Unit) : Laws.WellFormed.Statement (.crcCheck l dl k bad) := Laws.WellFormed.plain rfl rfl
theorem Laws.WellFormed.phaseData (l : LaneId) (dl : PinArg) : Laws.WellFormed.Statement (.phaseData l dl) := Laws.WellFormed.plain rfl rfl
theorem Laws.WellFormed.phaseNominal (l : LaneId) (dl : PinArg) : Laws.WellFormed.Statement (.phaseNominal l dl) := Laws.WellFormed.plain rfl rfl
theorem Laws.WellFormed.errClear (l : LaneId) (dl : PinArg) : Laws.WellFormed.Statement (.errClear l dl) := Laws.WellFormed.plain rfl rfl
theorem Laws.WellFormed.tdcStart (l : LaneId) (dl : PinArg) : Laws.WellFormed.Statement (.tdcStart l dl) := Laws.WellFormed.plain rfl rfl
theorem Laws.WellFormed.sig (l : LaneId) (dl : PinArg) (v : BitVec 3) : Laws.WellFormed.Statement (.sig l dl v) := Laws.WellFormed.plain rfl rfl
theorem Laws.WellFormed.copy (l : LaneId) (dl : PinArg) (k : BitVec 4) : Laws.WellFormed.Statement (.copy l dl k) := Laws.WellFormed.plain rfl rfl
theorem Laws.WellFormed.pinNop (l : LaneId) (dl : PinArg) : Laws.WellFormed.Statement (.pinNop l dl) := Laws.WellFormed.plain rfl rfl
theorem Laws.WellFormed.pinReservedOp (l : LaneId) : Laws.WellFormed.Statement (.pinReservedOp l) := Laws.WellFormed.plain rfl rfl
theorem Laws.WellFormed.switchAtEnd (w : Agent) (l : LaneId) : Laws.WellFormed.Statement (.switchAtEnd w l) := Laws.WellFormed.plain rfl rfl
theorem Laws.WellFormed.switchNow (w : Agent) (l : LaneId) : Laws.WellFormed.Statement (.switchNow w l) := Laws.WellFormed.plain rfl rfl
theorem Laws.WellFormed.switchWithdraw (w : Agent) (l : LaneId) : Laws.WellFormed.Statement (.switchWithdraw w l) := Laws.WellFormed.plain rfl rfl
theorem Laws.WellFormed.peprogWrite (w : Agent) (l : LaneId) (k : Fin 32) (v : Word) : Laws.WellFormed.Statement (.peprogWrite w l k v) := Laws.WellFormed.plain rfl rfl
theorem Laws.WellFormed.registerWrite (w : Agent) (a : WordIx) (v : Word) (be : BitVec 4) : Laws.WellFormed.Statement (.registerWrite w a v be) := Laws.WellFormed.plain rfl rfl
theorem Laws.WellFormed.rcFieldRead (r : Agent) (a : ReadAt) : Laws.WellFormed.Statement (.rcFieldRead r a) := Laws.WellFormed.plain rfl rfl
theorem Laws.WellFormed.pcieLinkUp (f : Fn) : Laws.WellFormed.Statement (.pcieLinkUp f) := Laws.WellFormed.plain rfl rfl
theorem Laws.WellFormed.tjAlarmRearm (tj : BitVec 9) : Laws.WellFormed.Statement (.tjAlarmRearm tj) := Laws.WellFormed.plain rfl rfl
theorem Laws.WellFormed.pwrEnNHoldEnd : Laws.WellFormed.Statement (.pwrEnNHoldEnd) := Laws.WellFormed.plain rfl rfl

end Sys2Proof
end

