-- ==== Sys2Proof/Laws/Sane.lean ====
section
/-! SUPPORT. A check that a small state is sane, for witnesses on states written out. -/
namespace Sys2Proof.Machine

set_option Elab.async false

theorem Tab.get_all {α : Type} {d : Nat → α} {P : α → Prop} {t : Tab α} (hd : ∀ k, P (d k)) (h : ∀ e ∈ t, P e.2) (k : Nat) :
    P (Tab.get d t k) := by
  induction t with
  | nil => exact hd k
  | cons e t ih =>
    obtain ⟨a, b⟩ := e
    unfold Tab.get
    split
    · exact h (a, b) (List.mem_cons_self)
    · exact ih fun x hx => h x (List.mem_cons_of_mem _ hx)

/-- The decidable form of `Sane`. -/
def State.saneB (s : State) : Bool :=
  Tab.wf memReset s.mem && Tab.wf regReset s.regs && Tab.wf (fun _ => {}) s.tbs && Tab.wf (fun _ => {}) s.lanes &&
  Tab.wf (fun _ => {}) s.pins && Tab.wf (fun _ => []) s.buses && Tab.wf (fun _ => {}) s.objs &&
  Tab.wf (fun _ => none) s.fltLoads && Tab.wf (fun _ => 0) s.routeGen && Tab.wf (fun _ => 0) s.kills &&
  Tab.wf (fun _ => []) s.voqs && Tab.wf (fun _ => []) s.ctqs && Tab.wf (fun _ => {}) s.ptrs && Tab.wf (fun _ => {}) s.cells &&
  Tab.wf (fun _ => {}) s.frames && Tab.wf (fun _ => 0) s.charged && Tab.wf (fun _ => 0) s.avg &&
  Tab.wf (fun _ => 0xACE1#16) s.lfsr && Tab.wf (fun _ => {}) s.buckets && Tab.wf (fun _ => 0) s.cqHeld &&
  Tab.wf (fun _ => 0) s.chargeSeen && Tab.wf (fun _ => {}) s.sqs && Tab.wf (fun _ => {}) s.cqs && Tab.wf (fun _ => {}) s.funcs &&
  Tab.wf (fun _ => {}) s.srcs && Tab.wf (fun _ => {}) s.tgts && Tab.wf (fun _ => {}) s.eths && Tab.wf (fun _ => {}) s.engs &&
  Tab.wf (fun _ => 0) s.bdq && Tab.wf (fun _ => (0, 0)) s.tbCap && Tab.wf (fun _ => 0) s.txTurn && Tab.wf (fun _ => {}) s.caches &&
  s.tbs.all (fun e => decide (e.2.val < tbWrap)) && s.engs.all (fun e => decide (e.2.os.length ≤ 16) && decide (e.2.rsd ≤ 8) &&
    e.2.saves.all fun x => decide (x.os.length ≤ 16) && decide (x.rsd ≤ 8))

theorem sane_of_check {s : State} (h : s.saneB = true) : Sane s := by
  simp only [State.saneB, Bool.and_eq_true, List.all_eq_true, decide_eq_true_eq] at h
  obtain ⟨⟨⟨⟨⟨⟨⟨⟨⟨⟨⟨⟨⟨⟨⟨⟨⟨⟨⟨⟨⟨⟨⟨⟨⟨⟨⟨⟨⟨⟨⟨⟨⟨a1, a2⟩, a3⟩, a4⟩, a5⟩, a6⟩, a7⟩, a8⟩, a9⟩, a10⟩, a11⟩, a12⟩, a13⟩, a14⟩, a15⟩, a16⟩, a17⟩, a18⟩,
    a19⟩, a20⟩, a21⟩, a22⟩, a23⟩, a24⟩, a25⟩, a26⟩, a27⟩, a28⟩, a29⟩, a30⟩, a31⟩, a32⟩, t⟩, g⟩ := h
  refine ⟨⟨a1, a2, a3, a4, a5, a6, a31, a7, a8, a32, a9, a10, a11, a12, a13, a14, a15, a16, a17, a18, a19, a20, a21, a22, a23, a24,
    a25, a26, a27, a28, a29, a30⟩, fun n => ?_, fun e => ?_⟩
  · exact Tab.get_all (P := fun x : TimeBase => x.val < tbWrap) (fun _ => by decide) (fun e he => t e he) n
  · exact Tab.get_all (P := fun x : Eng => x.Fits) (fun _ => ⟨by decide, by decide, fun _ h => by cases h⟩)
      (fun e he => ⟨(g e he).1.1, (g e he).1.2, (g e he).2⟩) e

end Sys2Proof.Machine
end

