-- ==== Sys2Proof/Tests/Slice0.lean ====
section
/-! SUPPORT. Witnesses and tests: for every statement a concrete state and operands that meet its hypotheses, with a few fields of the
result; engine and pin instruction words written out from the encodings of chapters 14 and 15; an ill-formed term for each check of
WellFormed. Every state is made from the reset state by the model's own setters. Expected values are those of the rules that the
statements cite, worked out by hand. Where a field of the result goes through a free value (log 1), the theorem stops at the hypotheses. -/
namespace Sys2Proof.Tests

set_option Elab.async false
open Sys2Proof.Machine

/-! Helpers. -/

/-- What the command leaves. -/
def after (c : Instr) (s : State) : State :=
  match exec c s with
  | .next t => t
  | _ => s

/-- After boot: the main reset is released. -/
def on : State := { State.reset with boot := { mainOn := true, resetting := false } }

/-- Engine `e` runs as `g`, with word `w` at its PC. -/
def engAt (e : Nat) (w : Word) (g : Eng) : State :=
  (on.setEng e { g with stopped := false }).wr32 (engBase e + 4 * (g.pc / 4)) w

/-- A pair of a short instruction and NOP (R586). -/
def sh (op field : Nat) : Word := BitVec.ofNat 32 (0x80000000 + (op * 0x200 + field) * 0x10000)

/-- A long instruction (R586). -/
def lg (op operand : Nat) : Word := BitVec.ofNat 32 (op * 0x1000000 + operand)

/-- Engine 32 after the instruction. -/
def ran (c : Instr) (s : State) : Eng := (after c s).eng 32

/-! Engine instructions: the words stand at the PC as R586 and R593 lay them out. -/

theorem test_nop : let s := engAt 32 (sh 0 0) { os := [5] }
    let g := ran (.nop 32) s
    Executes s 32 (.nop) ∧ g.os = [5] ∧ g.pc = 1 := by decide

theorem test_lnop : let s := engAt 32 (lg 0 0) { os := [5] }
    let g := ran (.lnop 32) s
    Executes s 32 (.lnop) ∧ g.os = [5] ∧ g.pc = 4 := by decide

theorem test_lit : let s := engAt 32 (lg 1 0xFFFFFB) { }
    let g := ran (.lit 32 0xFFFFFB) s
    Executes s 32 (.lit 0xFFFFFB) ∧ g.os = [0xFFFFFFFB] := by decide

theorem test_litu : let s := engAt 32 (lg 2 0xFFFFFB) { }
    let g := ran (.litu 32 0xFFFFFB) s
    Executes s 32 (.litu 0xFFFFFB) ∧ g.os = [0xFFFFFB] := by decide

theorem test_sethi : let s := engAt 32 (lg 3 0xAB) { os := [0x11223344] }
    let g := ran (.sethi 32 0xAB) s
    Executes s 32 (.sethi 0xAB) ∧ g.os = [0xAB223344] := by decide

theorem test_addi : let s := engAt 32 (lg 4 0xFFFFFF) { os := [0x80000000] }
    let g := ran (.addi 32 0xFFFFFF) s
    Executes s 32 (.addi 0xFFFFFF) ∧ g.os = [0x7FFFFFFF] ∧ g.v = true ∧ g.c = true := by decide

theorem test_cmpi : let s := engAt 32 (lg 5 7) { os := [6] }
    let g := ran (.cmpi 32 7) s
    Executes s 32 (.cmpi 7) ∧ g.os = [6] ∧ g.n = true ∧ g.c = false := by decide

theorem test_jz_taken : let s := engAt 32 (lg 8 0x20) { os := [0, 9] }
    let g := ran (.jz 32 0x20) s
    Executes s 32 (.jz 0x20) ∧ g.os = [9] ∧ g.pc = 0x80 := by decide

theorem test_jz_past : let s := engAt 32 (lg 8 0x20) { os := [1, 9] }
    let g := ran (.jz 32 0x20) s
    Executes s 32 (.jz 0x20) ∧ g.os = [9] ∧ g.pc = 4 := by decide

theorem test_jnz_taken : let s := engAt 32 (lg 9 6143) { os := [1] }
    let g := ran (.jnz 32 6143) s
    Executes s 32 (.jnz 6143) ∧ g.pc = 24572 := by decide

theorem test_jnz_past : let s := engAt 32 (lg 9 6143) { os := [0] }
    let g := ran (.jnz 32 6143) s
    Executes s 32 (.jnz 6143) ∧ g.pc = 4 := by decide

theorem test_call : let s := engAt 32 (lg 10 0x20) { }
    let g := ran (.call 32 0x20) s
    Executes s 32 (.call 0x20) ∧ g.pc = 0x80 ∧ g.rsd = 1 ∧ g.rs 0 = 4 := by decide

theorem test_call_full : let s := engAt 32 (lg 10 0x20) { rsd := 8, rsPtr := 3 }
    let g := ran (.call 32 0x20) s
    Executes s 32 (.call 0x20) ∧ g.pc = 0x80 ∧ g.rsd = 8 ∧ g.rss = 1 := by decide

theorem test_rep_long : let s := engAt 32 (lg 11 0) { os := [0x12345] }
    let g := ran (.repLong 32) s
    Executes s 32 (.repLong) ∧ g.rc = 0xFFFF ∧ g.rpt = true ∧ g.pc = 4 := by decide

theorem test_rep_long_none : let s := engAt 32 (lg 11 0) { os := [0] }
    let g := ran (.repLong 32) s
    Executes s 32 (.repLong) ∧ g.rpt = false ∧ g.pc = 8 := by decide

theorem test_jcc_taken : let s := engAt 32 (lg 0x1D 0x20) { n := true }
    let g := ran (.jcc 32 13 0x20) s
    Executes s 32 (.jcc 13 0x20) ∧ g.pc = 0x80 := by decide

theorem test_jcc_past : let s := engAt 32 (lg 0x1F 0x20) { n := true }
    let g := ran (.jcc 32 15 0x20) s
    Executes s 32 (.jcc 15 0x20) ∧ g.pc = 4 := by decide

theorem test_dup : let s := engAt 32 (sh 1 0) { os := [5] }
    let g := ran (.dup 32) s
    Executes s 32 (.dup) ∧ g.os = [5, 5] := by decide

theorem test_drop : let s := engAt 32 (sh 2 0) { os := [5, 6] }
    let g := ran (.drop 32) s
    Executes s 32 (.drop) ∧ g.os = [6] := by decide

theorem test_swap : let s := engAt 32 (sh 3 0) { os := [5, 6] }
    let g := ran (.swap 32) s
    Executes s 32 (.swap) ∧ g.os = [6, 5] := by decide

theorem test_over : let s := engAt 32 (sh 4 0) { os := [5, 6] }
    let g := ran (.over 32) s
    Executes s 32 (.over) ∧ g.os = [6, 5, 6] := by decide

theorem test_rot : let s := engAt 32 (sh 5 0) { os := [3, 2, 1] }
    let g := ran (.rot 32) s
    Executes s 32 (.rot) ∧ g.os = [1, 3, 2] := by decide

theorem test_pick : let s := engAt 32 (sh 6 2) { os := [3, 2, 1] }
    let g := ran (.pick 32 2) s
    Executes s 32 (.pick 2) ∧ g.os = [1, 3, 2, 1] := by decide

theorem test_slit : let s := engAt 32 (sh 7 0x1FF) { }
    let g := ran (.slit 32 0x1FF) s
    Executes s 32 (.slit 0x1FF) ∧ g.os = [0xFFFFFFFF] := by decide

theorem test_add : let s := engAt 32 (sh 8 0) { os := [2, 0xFFFFFFFF, 7] }
    let g := ran (.add 32) s
    Executes s 32 (.add) ∧ g.os = [1, 7] ∧ g.c = true ∧ g.v = false := by decide

theorem test_sub : let s := engAt 32 (sh 9 0) { os := [1, 0x80000000] }
    let g := ran (.sub 32) s
    Executes s 32 (.sub) ∧ g.os = [0x7FFFFFFF] ∧ g.c = true ∧ g.v = true ∧ g.sv = true := by decide

theorem test_adc : let s := engAt 32 (sh 10 0) { os := [0, 0xFFFFFFFF], c := true }
    let g := ran (.adc 32) s
    Executes s 32 (.adc) ∧ g.os = [0] ∧ g.c = true ∧ g.z = true := by decide

theorem test_sbc : let s := engAt 32 (sh 11 0) { os := [0, 0] }
    let g := ran (.sbc 32) s
    Executes s 32 (.sbc) ∧ g.os = [0xFFFFFFFF] ∧ g.c = false := by decide

theorem test_adds : let s := engAt 32 (sh 12 0) { os := [1, 0x7FFFFFFF], c := true }
    let g := ran (.adds 32) s
    Executes s 32 (.adds) ∧ g.os = [0x7FFFFFFF] ∧ g.v = true ∧ g.c = true := by decide

theorem test_subs : let s := engAt 32 (sh 13 0) { os := [1, 0x80000000] }
    let g := ran (.subs 32) s
    Executes s 32 (.subs) ∧ g.os = [0x80000000] ∧ g.v = true ∧ g.n = true := by decide

theorem test_mul : let s := engAt 32 (sh 14 0) { os := [0x10000, 0x10000] }
    let g := ran (.mul 32) s
    Executes s 32 (.mul) ∧ g.os = [0] ∧ g.v = true ∧ g.z = true := by decide

theorem test_mulh_signed : let s := engAt 32 (sh 15 0) { os := [0xFFFFFFFF, 2] }
    let g := ran (.mulh 32 false) s
    Executes s 32 (.mulh false) ∧ g.os = [0xFFFFFFFF] := by decide

theorem test_mulh_unsigned : let s := engAt 32 (sh 15 1) { os := [0xFFFFFFFF, 2] }
    let g := ran (.mulh 32 true) s
    Executes s 32 (.mulh true) ∧ g.os = [1] := by decide

theorem test_div : let s := engAt 32 (sh 16 0) { os := [2, 0xFFFFFFF9] }
    let g := ran (.div 32) s
    Executes s 32 (.div) ∧ g.os = [0xFFFFFFFF, 0xFFFFFFFD] ∧ g.n = true := by decide

theorem test_div_edge : let s := engAt 32 (sh 16 0) { os := [0xFFFFFFFF, 0x80000000] }
    let g := ran (.div 32) s
    Executes s 32 (.div) ∧ g.os = [0, 0x80000000] ∧ g.v = true := by decide

theorem test_div_zero : let s := engAt 32 (sh 16 0) { os := [0, 9] }
    let g := ran (.div 32) s
    Executes s 32 (.div) ∧ g.os = [9, 0] ∧ g.dz = true ∧ g.z = true ∧ g.pc = 1 := by decide

theorem test_divu : let s := engAt 32 (sh 17 0) { os := [2, 0xFFFFFFF9] }
    let g := ran (.divu 32) s
    Executes s 32 (.divu) ∧ g.os = [1, 0x7FFFFFFC] := by decide

theorem test_divu_trap : let s := engAt 32 (sh 17 0) { os := [0, 9], dzt := true }
    let g := ran (.divu 32) s
    Executes s 32 (.divu) ∧ g.os = [9, 0] ∧ g.trp = true ∧ g.pc = 32 := by decide

theorem test_neg : let s := engAt 32 (sh 18 0) { os := [0x80000000] }
    let g := ran (.neg 32) s
    Executes s 32 (.neg) ∧ g.os = [0x80000000] ∧ g.v = true ∧ g.c = false := by decide

theorem test_abs : let s := engAt 32 (sh 19 0) { os := [0xFFFFFFFB] }
    let g := ran (.abs 32) s
    Executes s 32 (.abs) ∧ g.os = [5] ∧ g.n = false := by decide

theorem test_and : let s := engAt 32 (sh 20 0) { os := [0x0F, 0x3C] }
    let g := ran (.and 32) s
    Executes s 32 (.and) ∧ g.os = [0x0C] := by decide

theorem test_or : let s := engAt 32 (sh 21 0) { os := [0x0F, 0x3C] }
    let g := ran (.or 32) s
    Executes s 32 (.or) ∧ g.os = [0x3F] := by decide

theorem test_xor : let s := engAt 32 (sh 22 0) { os := [0x0F, 0x3C] }
    let g := ran (.xor 32) s
    Executes s 32 (.xor) ∧ g.os = [0x33] := by decide

theorem test_not : let s := engAt 32 (sh 23 0) { os := [0xFFFFFFFF], c := true }
    let g := ran (.not 32) s
    Executes s 32 (.not) ∧ g.os = [0] ∧ g.z = true ∧ g.c = true := by decide

theorem test_shl : let s := engAt 32 (sh 24 0) { os := [32, 1] }
    let g := ran (.shl 32) s
    Executes s 32 (.shl) ∧ g.os = [0] ∧ g.c = true := by decide

theorem test_shr : let s := engAt 32 (sh 25 0) { os := [33, 0xFFFFFFFF], c := true }
    let g := ran (.shr 32) s
    Executes s 32 (.shr) ∧ g.os = [0] ∧ g.c = false := by decide

theorem test_sar : let s := engAt 32 (sh 26 0) { os := [40, 0x80000000] }
    let g := ran (.sar 32) s
    Executes s 32 (.sar) ∧ g.os = [0xFFFFFFFF] ∧ g.c = true := by decide

theorem test_rol : let s := engAt 32 (sh 27 0) { os := [33, 0x80000000] }
    let g := ran (.rol 32) s
    Executes s 32 (.rol) ∧ g.os = [1] ∧ g.c = true := by decide

theorem test_ror : let s := engAt 32 (sh 28 0) { os := [1, 1] }
    let g := ran (.ror 32) s
    Executes s 32 (.ror) ∧ g.os = [0x80000000] ∧ g.c = true := by decide

theorem test_shi_shl : let s := engAt 32 (sh 29 4) { os := [0xF0000001] }
    let g := ran (.shi 32 0 4) s
    Executes s 32 (.shi 0 4) ∧ g.os = [0x10] ∧ g.c = true := by decide

theorem test_shi_ror : let s := engAt 32 (sh 29 0x184) { os := [1] }
    let g := ran (.shi 32 3 4) s
    Executes s 32 (.shi 3 4) ∧ g.os = [0x10000000] ∧ g.c = false := by decide

theorem test_cmp : let s := engAt 32 (sh 30 0) { os := [1, 0, 7] }
    let g := ran (.cmp 32) s
    Executes s 32 (.cmp) ∧ g.os = [7] ∧ g.n = true ∧ g.c = false := by decide

theorem test_tst : let s := engAt 32 (sh 31 0) { os := [0] }
    let g := ran (.tst 32) s
    Executes s 32 (.tst) ∧ g.os = [0] ∧ g.z = true := by decide

theorem test_popx_rc : let s := engAt 32 (sh 36 2) { os := [0x12345] }
    let g := ran (.popx 32 2) s
    Executes s 32 (.popx 2) ∧ g.rc = 0xFFFF ∧ g.os = [] := by decide

theorem test_popx_st : let s := engAt 32 (sh 36 3) { os := [0xFFFFFFFF] }
    let g := ran (.popx 32 3) s
    Executes s 32 (.popx 3) ∧ g.dzt = true ∧ g.v = true ∧ g.ie = false := by decide

theorem test_pushx_pb : let s := engAt 32 (sh 37 1) { pb := 9 }
    let g := ran (.pushx 32 1) s
    Executes s 32 (.pushx 1) ∧ g.os = [9] := by decide

theorem test_rep : let s := engAt 32 (sh 39 0) { os := [2] }
    let g := ran (.rep 32) s
    Executes s 32 (.rep) ∧ g.rc = 2 ∧ g.rpt = true ∧ g.target = 1 := by decide

theorem test_clz : let s := engAt 32 (sh 40 0) { os := [0x00010000] }
    let g := ran (.clz 32) s
    Executes s 32 (.clz) ∧ g.os = [15] := by decide

theorem test_bswap : let s := engAt 32 (sh 41 0) { os := [0x11223344] }
    let g := ran (.bswap 32) s
    Executes s 32 (.bswap) ∧ g.os = [0x44332211] := by decide

theorem test_ext : let s := engAt 32 (sh 42 0x1C7) { os := [0xF1234567] }
    let g := ran (.ext 32 28 7) s
    Executes s 32 (.ext 28 7) ∧ g.os = [0xF] := by decide

theorem test_calls : let s := engAt 32 (sh 43 0) { os := [0x20] }
    let g := ran (.calls 32) s
    Executes s 32 (.calls) ∧ g.pc = 0x80 ∧ g.rs 0 = 1 := by decide

theorem test_jmps : let s := engAt 32 (sh 44 0) { os := [6143] }
    let g := ran (.jmps 32) s
    Executes s 32 (.jmps) ∧ g.pc = 24572 := by decide

theorem test_bz : let s := engAt 32 (sh 45 0x1FF) { os := [0], pc := 8 }
    let g := ran (.bz 32 0x1FF) s
    Executes s 32 (.bz 0x1FF) ∧ g.pc = 8 := by decide

theorem test_bnz : let s := engAt 32 (sh 46 0x0FF) { os := [1], pc := 8 }
    let g := ran (.bnz 32 0x0FF) s
    Executes s 32 (.bnz 0x0FF) ∧ g.pc = 1032 := by decide

theorem test_addp : let s := engAt 32 (sh 48 0x1FF) { pb := 0 }
    let g := ran (.addp 32 true 0xFF) s
    Executes s 32 (.addp true 0xFF) ∧ g.pb = 0xFFFFFFFF := by decide

theorem test_setrc : let s := engAt 32 (sh 49 511) { }
    let g := ran (.setrc 32 511) s
    Executes s 32 (.setrc 511) ∧ g.rc = 511 := by decide

theorem test_flag : let s := engAt 32 (sh 50 0x141) { }
    let g := ran (.flag 32 true 0x41) s
    Executes s 32 (.flag true 0x41) ∧ g.dzt = true ∧ g.v = true := by decide

theorem test_ien : let s := engAt 32 (sh 51 1) { }
    let g := ran (.ien 32 true) s
    Executes s 32 (.ien true) ∧ g.ie = true := by decide

theorem test_setil : let s := engAt 32 (sh 52 15) { }
    let g := ran (.setil 32 15) s
    Executes s 32 (.setil 15) ∧ g.il = 15 := by decide

theorem test_bcc : let s := engAt 32 (sh 53 0x010) { z := true, pc := 160 }
    let g := ran (.bcc 32 0 0x10) s
    Executes s 32 (.bcc 0 0x10) ∧ g.pc = 100 := by decide

theorem test_bcc_past : let s := engAt 32 (sh 53 0x030) { z := true, pc := 160 }
    let g := ran (.bcc 32 1 0x10) s
    Executes s 32 (.bcc 1 0x10) ∧ g.pc = 161 := by decide

theorem test_ret : let s := engAt 32 (sh 54 0) { rsd := 1, rsPtr := 1, rsSlots := [(0, 0x81)] }
    let g := ran (.ret 32) s
    Executes s 32 (.ret) ∧ g.pc = 0x81 ∧ g.rsd = 0 := by decide

theorem test_wait : let s := engAt 32 (sh 56 0) { }
    let g := ran (.wait 32) s
    Executes s 32 (.wait) ∧ g.waiting = true := by decide

theorem test_fence : let s := engAt 32 (sh 57 0) { stale := [(9, 1)] }
    let g := ran (.fence 32) s
    Executes s 32 (.fence) ∧ g.stale = [] := by decide

theorem test_swi : let s := engAt 32 (sh 58 0x7F) { }
    let g := ran (.swi 32 0x7F) s
    Executes s 32 (.swi 0x7F) ∧ g.trp = true ∧ g.pc = 52 := by decide

theorem test_illegal : let s := engAt 32 (lg 0x20 0) { }
    let g := ran (.illegalOpcode 32) s
    Executes s 32 (.illegal) ∧ g.trp = true ∧ g.pc = 4 := by decide

theorem test_ld : let s := engAt 32 (sh 32 0) { os := [0x02008000] }
    let g := ran (.ld 32) s
    Executes s 32 (.ld) ∧ g.os = [0] := by decide

theorem test_lda : let s := engAt 32 (lg 6 0) { }
    let g := ran (.lda 32 0) s
    Executes s 32 (.lda 0) ∧ g.trp = false ∧ g.os.length = 1 := by decide

/-! Loads and stores. Own data memory stands at 0x0200_8000 of the engine's space (R578). -/

/-- A word 0x8899AABB at byte 0 of engine 32's data memory. -/
def withWord (s : State) : State := s.wr32 (dataAt 32 0) 0x8899AABB

theorem test_ld_word : let s := withWord (engAt 32 (sh 32 0) { os := [0x02008000] })
    let p := Place.own true 0
    Executes s 32 .ld ∧ (s.access 32 0x02008000 2).toOption = some p ∧ s.placeBad 32 p = false ∧
    p.cell 32 = some (dataAt 32 0, some (1, 32, 0)) ∧ (ran (.ld 32) s).os = [0x8899AABB] := by decide

theorem test_lda_word : let s := withWord (engAt 32 (lg 6 0x802000) { })
    Executes s 32 (.lda 0x802000) ∧ (s.access 32 (4 * 0x802000) 2).toOption = some (.own true 0) ∧
    (ran (.lda 32 0x802000) s).os = [0x8899AABB] := by decide

theorem test_ldp_byte : let s := withWord (engAt 32 (sh 34 0x0C) { pa := 0x02008003 })
    Executes s 32 (.ldp 0 true true false) ∧ (s.access 32 0x02008003 0).toOption = some (.own true 3) ∧
    (ran (.ldp 32 0 true true false) s).os = [0xFFFFFF88] ∧ (ran (.ldp 32 0 true true false) s).pa = 0x02008004 := by decide

theorem test_ldp_word : let s := withWord (engAt 32 (sh 34 0x1A) { pb := 0x02008000 })
    Executes s 32 (.ldp 2 false true true) ∧ (s.access 32 0x02008000 2).toOption = some (.own true 0) ∧
    (ran (.ldp 32 2 false true true) s).os = [0x8899AABB] := by decide

theorem test_ld_register : let s := engAt 32 (sh 32 0) { os := [0x0000001C] }
    Executes s 32 .ld ∧ (s.access 32 0x1C 2).toOption = some (.reg 0x1C) ∧ s.placeBad 32 (.reg 0x1C) = false ∧
    (ran (.ld 32) s).os.length = 1 := by decide

theorem test_st : let s := engAt 32 (sh 33 0) { os := [0x02008000, 0x11223344, 5] }
    Executes s 32 .st ∧ (s.access 32 0x02008000 2).toOption = some (.own true 0) ∧ (after (.st 32) s).rd8 (dataAt 32 0) = 0x44 ∧
    (ran (.st 32) s).os = [5] := by decide

theorem test_sta : let s := engAt 32 (lg 7 0x802FFF) { os := [7] }
    Executes s 32 (.sta 0x802FFF) ∧ (s.access 32 (4 * 0x802FFF) 2).toOption = some (.own true 0x3FFC) ∧
    (after (.sta 32 0x802FFF) s).rd32 (dataAt 32 0x3FFC) = 7 := by decide

theorem test_stp_a : let s := engAt 32 (sh 35 0x04) { pa := 0x02008001, os := [0x1FF] }
    Executes s 32 (.stp 0 true false false) ∧ (s.access 32 0x02008001 0).toOption = some (.own true 1) ∧
    (after (.stp 32 0 true false false) s).rd32 (dataAt 32 0) = 0xFF00 := by decide

theorem test_stp_b : let s := engAt 32 (sh 35 0x11) { pb := 0x02008002, os := [0x12345] }
    Executes s 32 (.stp 1 false false true) ∧ (s.access 32 0x02008002 1).toOption = some (.own true 2) ∧
    (after (.stp 32 1 false false true) s).rd32 (dataAt 32 0) = 0x23450000 := by decide

theorem test_amo_add : let s := withWord (engAt 32 (sh 38 1) { os := [0x02008000, 1] })
    Executes s 32 (.amo 1) ∧ (Place.own true 0).amoOk = true ∧ (ran (.amo 32 1) s).os = [0x8899AABB] ∧
    (after (.amo 32 1) s).rd32 (dataAt 32 0) = 0x8899AABC := by decide

theorem test_amo_or : let s := withWord (engAt 32 (sh 38 3) { os := [0x02008000, 0x44] })
    Executes s 32 (.amo 3) ∧ (after (.amo 32 3) s).rd32 (dataAt 32 0) = 0x8899AAFF := by decide

theorem test_ld_misaligned : let s := engAt 32 (sh 32 0) { os := [0x02008002] }
    (ran (.ld 32) s).trp = true ∧ (after (.ld 32) s).f (F.ENG_TRAPINFO.CAUSE 32) = 9 := by decide

/-! Traps, halts, repeats, entries -/

/-- A full operand stack. -/
def full : List Word := [0, 1, 2, 3, 4, 5, 6, 7, 8, 9, 10, 11, 12, 13, 14, 15]

theorem test_trap_entry : let s := engAt 32 (sh 58 5) { }
    (s.eng 32).trp = false ∧ s.entryFits 32 = true ∧ s.msp 32 ≤ 0x4000 ∧ Executes s 32 (.swi 5) ∧
    (after (.swi 32 5) s).rd32 (dataAt 32 (s.msp 32 - 8)) = 1 ∧
    (after (.swi 32 5) s).f (F.ENG_TRAPINFO.SWI_CODE 32) = 5 := by decide

theorem test_underflow : let s (w : Word) := engAt 32 w { }
    (s (sh 8 0)).entryFits 32 = true ∧ Executes (s (sh 8 0)) 32 .add ∧ Executes (s (sh 2 0)) 32 .drop ∧
    Executes (s (sh 32 0)) 32 .ld ∧ Executes (s (sh 44 0)) 32 .jmps ∧
    (after (.add 32) (s (sh 8 0))).f (F.ENG_TRAPINFO.CAUSE 32) = 4 := by decide

theorem test_overflow : let s (w : Word) := engAt 32 w { os := full }
    Executes (s (lg 1 0)) 32 (.lit 0) ∧ Executes (s (sh 1 0)) 32 .dup ∧ Executes (s (sh 37 0)) 32 (.pushx 0) ∧
    (s 0).entryFits 32 = true ∧ (after (.dup 32) (s (sh 1 0))).f (F.ENG_TRAPINFO.CAUSE 32) = 3 := by decide

theorem test_call_beyond : let s := engAt 32 (lg 10 6144) { }
    Executes s 32 (.call 6144) ∧ s.entryFits 32 = true ∧ (after (.call 32 6144) s).f (F.ENG_TRAPINFO.CAUSE 32) = 12 := by decide

theorem test_rep_barred : let s := (engAt 32 (sh 39 0 ||| 0xD800) { os := [1] })
    Executes s 32 .rep ∧ s.repBarred 32 = true ∧ s.entryFits 32 = true ∧
    (after (.rep 32) s).f (F.ENG_TRAPINFO.CAUSE 32) = 2 := by decide

theorem test_div_trap : let s := engAt 32 (sh 16 0) { os := [0, 9], dzt := true }
    Executes s 32 .div ∧ s.entryFits 32 = true ∧ (ran (.div 32) s).os = [9, 0] ∧
    (after (.div 32) s).f (F.ENG_TRAPINFO.CAUSE 32) = 8 := by decide

theorem test_halt_double : let s := engAt 32 (sh 58 5) { trp := true }
    Executes s 32 (.swi 5) ∧ (ran (.swi 32 5) s).halted = true ∧ (ran (.swi 32 5) s).haltCause = 16 := by decide

theorem test_halt_no_room : let s := (engAt 32 (lg 0x3F 0) { }).setF (F.ENG_MSP.MSP 32) 1
    Executes s 32 .illegal ∧ (s.eng 32).trp = false ∧ s.entryFits 32 = false ∧
    (ran (.illegalOpcode 32) s).haltCause = 17 := by decide

theorem test_repeat_goes_on : let s := engAt 32 (lg 0 0) { rpt := true, rc := 2, pc := 8, target := 8 }
    Executes s 32 .lnop ∧ (ran (.lnop 32) s).rc = 1 ∧ (ran (.lnop 32) s).pc = 8 := by decide

theorem test_repeat_ends : let s := engAt 32 (lg 0 0) { rpt := true, rc := 1, pc := 8, target := 8 }
    Executes s 32 .lnop ∧ (ran (.lnop 32) s).rpt = false ∧ (ran (.lnop 32) s).pc = 12 := by decide

theorem test_repeat_written : let s := engAt 32 (lg 0 0) { rpt := true, rc := 7, pc := 8, target := 8, rcWritten := true }
    Executes s 32 .lnop ∧ (ran (.lnop 32) s).rc = 7 := by decide

theorem test_rep_allowed : let s := engAt 32 (lg 11 0) { os := [3] }
    Executes s 32 .repLong ∧ (s.eng 32).rpt = false ∧ s.repBarred 32 = false ∧ (ran (.repLong 32) s).rc = 3 := by decide

theorem test_call_spills : let s := engAt 32 (lg 10 0x20) { rsd := 8, rsPtr := 3, rsSlots := [(3, 0x44)] }
    Executes s 32 (.call 0x20) ∧ s.f (F.ENG_CTRL.RSMODE 32) = 0 ∧ s.msFits 32 = true ∧ s.msp 32 ≤ 0x4000 ∧
    (after (.call 32 0x20) s).rd32 (dataAt 32 (s.msp 32 - 4)) = 0x44 := by decide

theorem test_call_wraps : let s := (engAt 32 (lg 10 0x20) { rsd := 8, rsPtr := 7 }).setF (F.ENG_CTRL.RSMODE 32) 2
    Executes s 32 (.call 0x20) ∧ s.f (F.ENG_CTRL.RSMODE 32) = 2 ∧ (ran (.call 32 0x20) s).rs 7 = 4 ∧
    (ran (.call 32 0x20) s).rsd = 8 := by decide

theorem test_ret_refills : let s := ((engAt 32 (sh 54 0) { rss := 1 }).setF (F.ENG_MSP.MSP 32) 0xFFF).wr32 (dataAt 32 0x3FFC) 0x40
    Executes s 32 .ret ∧ s.msBad 32 0 = false ∧ (ran (.ret 32) s).pc = 0x40 ∧ (ran (.ret 32) s).rss = 0 ∧
    (after (.ret 32) s).msp 32 = 0x4000 := by decide

/-- Source 9 of priority 5 is on offer to engine 32, which runs with interrupts enabled. -/
def offered : State := (engAt 32 (lg 0 0) { ie := true, il := 4 }).setSrc 9 { en := true, count := 2, prio := 5, target := 32 }

theorem test_interrupt_entry :
    offered.boot.mainOn = true ∧ offered.engUp 32 = true ∧ offered.atBoundary 32 = true ∧ offered.entryFits 32 = true ∧
    offered.offered 32 = some (9, 5) ∧ offered.modReady 32 5 = true ∧ (ran (.interruptEntry 32) offered).pc = 84 ∧
    ((after (.interruptEntry 32) offered).src 9).count = 0 := by decide

theorem test_interrupt_abandoned : let s := engAt 32 (lg 0 0) { ie := true, waiting := true }
    s.atBoundary 32 = true ∧ s.offered 32 = none ∧ (after (.interruptEntry 32) s).f (F.ENG_IRQCNT.SPURIOUS 32) = 1 := by decide

theorem test_reti : let t := (engAt 32 (sh 55 0) { frames := [{ trap := true, rss := 0 }], trp := true }).setF (F.ENG_MSP.MSP 32) 0xFFE
    let s := t.wr32 (dataAt 32 0x3FF8) 0x40
    Executes s 32 .reti ∧ s.msBad 32 0 = false ∧ s.msBad 32 1 = false ∧ s.msp 32 + 8 ≤ 0x4000 ∧
    (ran (.reti 32) s).pc = 0x40 ∧ (ran (.reti 32) s).trp = false := by decide

theorem test_reti_completes : let s := ((((engAt 32 (sh 55 0) { frames := [{ trap := false, rss := 0 }], il := 5 }).setF (F.ENG_MSP.MSP 32) 0xFFE).setReg
      (0x20C040 + 32 * 0x10000 + 20) 9).setSrc 9 { en := true, active := true, prio := 5, target := 32, at_ := 32 })
    Executes s 32 .reti ∧ bitsOf (s.reg (0x20C040 + 32 * 0x10000 + 4 * (s.eng 32).il.toNat)) 0 11 = 9 ∧
    ((after (.reti 32) s).src 9).active = false := by decide

theorem test_reti_refills : let t := (engAt 32 (sh 55 0) { frames := [{ trap := true, rss := 0 }], trp := true, rss := 1 }).setF (F.ENG_MSP.MSP 32) 0xFFD
    let s := (t.wr32 (dataAt 32 0x3FF4) 0x44).wr32 (dataAt 32 0x3FF8) 0x41 |>.wr32 (dataAt 32 0x3FFC) 0x2000
    Executes s 32 .reti ∧ (∀ k < 3, s.msBad 32 k = false) ∧ s.msp 32 + 12 ≤ 0x4000 ∧ s.chainOffer 32 { trap := true, rss := 0 } 0x2000 = none ∧
    (ran (.reti 32) s).pc = 0x41 ∧ (ran (.reti 32) s).ie = true ∧ (ran (.reti 32) s).rss = 0 := by decide

/-- Engine 32 returns from source 9 of level 5 to level 1, with source 10 of priority 4 waiting. -/
def chaining : State :=
  let t := (((engAt 32 (sh 55 0) { frames := [{ trap := false, rss := 0 }], il := 5 }).setF (F.ENG_MSP.MSP 32) 0xFFE).setReg
    (0x20C040 + 32 * 0x10000 + 20) 9).setSrc 9 { en := true, active := true, prio := 5, target := 32, at_ := 32 }
  (t.setSrc 10 { en := true, count := 3, prio := 4, target := 32 }).wr32 (dataAt 32 0x3FFC) 0x2200

theorem test_reti_tail_chains : Executes chaining 32 .reti ∧ (∀ k < 2, chaining.msBad 32 k = false) ∧
    chaining.chainOffer 32 { trap := false, rss := 0 } 0x2200 = some (10, 4) ∧ (ran (.reti 32) chaining).pc = 80 ∧
    ((after (.reti 32) chaining).src 9).active = false ∧ ((after (.reti 32) chaining).src 10).active = true ∧
    (after (.reti 32) chaining).f (F.ENG_IRQCNT.TAILCHAIN 32) = 1 := by decide

/-- PE 0 in Berzu's WAIT, with TICK_EN and a tick due. -/
def ticking : State := engAt 0 (lg 0 0) { hook := 4, home := true, waiting := true, ie := true, rsPtr := 3 }

theorem test_tick_hook : let s := ticking
    let t := after (.tickHookCall 0 ()) s
    s.boot.mainOn = true ∧ s.engUp 0 = true ∧ (s.hookHdr 0).getLsbD 2 = true ∧ s.tickDue 0 ≤ s.now ∧
    t.f (F.ENG_HOOKCNT.CALLS 0) = 1 ∧ t.tickDue 0 = 32000 ∧ (t.eng 0).pc = 16396 ∧ (t.eng 0).os = [0] ∧
    (after (.tickHookCall 0 ()) t).f (F.ENG_HOOKCNT.TICK_MISSED 0) = 0 := by decide

theorem test_tick_missed : let s := ticking.modEng 0 fun g => { g with calls := [.tick 7], back := some (0, {}) }
    (s.eng 0).calls.any HookCall.isTick = true ∧ s.tickDue 0 ≤ s.now ∧
    (after (.tickHookCall 0 ()) s).f (F.ENG_HOOKCNT.TICK_MISSED 0) = 1 := by decide

theorem test_tick_waits : let s := ticking.modEng 0 fun g => { g with home := false }
    (s.eng 0).calls.any HookCall.isTick = false ∧ (s.eng 0).home = false ∧
    ((after (.tickHookCall 0 ()) s).eng 0).calls = [.tick 0] := by decide

/-- The tick hook has run to its RET at word 4,099: Berzu is back in its WAIT. -/
theorem test_tick_returns : let t := (after (.tickHookCall 0 ()) ticking).wr32 (engBase 0 + 4 * 4099) (sh 54 0)
    let u := (t.modEng 0 fun g => { g with os := [] })
    Executes u 0 .ret ∧ ((after (.ret 0) u).eng 0).waiting = true ∧ ((after (.ret 0) u).eng 0).calls = [] ∧
    ((after (.ret 0) u).eng 0).pc = 0 := by decide

/-- The tick hook meets SWI: its call ends with FAULT, and the engine is back in Berzu's WAIT (R626). -/
def hookSwi : State :=
  let t := (after (.tickHookCall 0 ()) ticking).wr32 (engBase 0 + 4 * 4099) (sh 58 5)
  (t.setF (F.ENG_MSP.MSP 0) 0x1000).modEng 0 fun g => { g with back := some (0, { msp := 0x4000, rsPtr := 3 }) }

theorem test_hook_fault : let s := hookSwi
    Executes s 0 (.swi 5) ∧ (s.eng 0).trp = false ∧ s.entryFits 0 = true ∧ s.msp 0 ≤ 0x4000 ∧ inHookArea 0 (s.eng 0).pc = true ∧
    (s.eng 0).calls = [.tick 0] ∧ (s.eng 0).back = some (0, { msp := 0x4000, rsPtr := 3 }) ∧ (s.eng 0).frames = [] ∧
    (after (.swi 0 5) s).f (F.ENG_HOOKCNT.FAULT 0) = 1 ∧ ((after (.swi 0 5) s).eng 0).waiting = true := by decide

theorem test_halt_pe : let s := engAt 0 (sh 58 5) { trp := true }
    Executes s 0 (.swi 5) ∧ (s.eng 0).calls = [] ∧ s.held = [] ∧ (∀ k < 4, (s.lane k).pend = none) ∧
    (∀ k < 4, s.laneSt k = St.off) ∧ ((after (.swi 0 5) s).src 976).count = 1 := by decide

/-- A load of word 0 of an object shows the lock; reserved words of an object read 0 (R47, R167, R168). -/
theorem test_ld_object : let s := (engAt 32 (sh 32 0) { os := [0x04000000] }).setObj 0 { lock := some ⟨1, 5, [], []⟩ }
    Executes s 32 .ld ∧ (s.access 32 0x04000000 2).toOption.isSome = true ∧
    (ran (.ld 32) s).os.map (fun w => w.getLsbD 19) = [true] := by decide

theorem test_st_reserved : let s := engAt 32 (sh 33 0) { os := [0x04000060, 5] }
    Executes s 32 .st ∧ (after (.st 32) s).rd32 0x04000060 = 0 := by decide

theorem test_amo_object : let s := (engAt 32 (sh 38 1) { os := [0x04000000, 1] }).setObj 0 { lock := some ⟨1, 5, [], []⟩ }
    Executes s 32 (.amo 1) ∧ (s.access 32 0x04000000 2).toOption.map (fun p => (p.amoOk, s.placeBad 32 p)) = some (true, false) ∧
    (ran (.amo 32 1) s).os = [0xC0000] := by decide

theorem test_wait_offer : let s := (engAt 32 (sh 56 0) { }).setSrc 9 { en := true, count := 1, prio := 5, target := 32 }
    Executes s 32 .wait ∧ (s.offered 32).isSome = true ∧ ((after (.wait 32) s).tgt 32).woke = true := by decide

theorem test_sta_hole : let s := engAt 0 (lg 7 0x804220) { os := [7] }
    Executes s 0 (.sta 0x804220) ∧ (s.access 0 0x02010880 2).toOption.isSome = true ∧ (after (.sta 0 0x804220) s).mem = s.mem ∧
    ((after (.sta 0 0x804220) s).eng 0).os = [] := by decide

theorem test_sta_register : let s := engAt 32 (lg 7 7) { os := [7] }
    Executes s 32 (.sta 7) ∧ (s.access 32 0x1C 2).toOption = some (.reg 0x1C) ∧ (ran (.sta 32 7) s).os = [] := by decide

/-! Pin engines. The engine of lane 5 executes the word given, at address 0 of bank 0 (R641). -/

/-- The pin engine of lane 5 runs as `p`, with word `w` at its PC. -/
def pinOf (w : BitVec 16) (p : PinEng) : State :=
  (on.setReg (0x100300 + 5 * 0x800) (w.setWidth 32)).setPin 5 { p with running := true }

theorem test_br_always : let s := pinOf 0x0007 { }
    let p := (after (.br 5 ⟨0, []⟩ 0 7) s).pin 5
    s.pinAt 5 0x0007 ∧ p.pc = 7 := by decide

theorem test_br_x_holds : let s := pinOf 0x0327 { x := 2 }
    let p := (after (.br 5 ⟨3, []⟩ 1 7) s).pin 5
    s.pinAt 5 0x0327 ∧ p.pc = 7 ∧ p.x = 1 ∧ p.busyUntil = 4 := by decide

theorem test_br_x_ends : let s := pinOf 0x0327 { x := 0 }
    let p := (after (.br 5 ⟨3, []⟩ 1 7) s).pin 5
    s.pinAt 5 0x0327 ∧ p.pc = 1 ∧ p.x = 0 := by decide

theorem test_br_txq : let s := pinOf 0x0087 { txq := [1] }
    let p := (after (.br 5 ⟨0, []⟩ 4 7) s).pin 5
    s.pinAt 5 0x0087 ∧ p.pc = 7 := by decide

theorem test_await_pulse : let s := pinOf 0x1003 { }
    let p := (after (.await 5 ⟨0, []⟩ false 3 true) s).pin 5
    s.pinAt 5 0x1003 ∧ p.pc = 1 := by decide

theorem test_await_stalls : let s := pinOf 0x1003 { }
    let p := (after (.await 5 ⟨0, []⟩ false 3 false) s).pin 5
    s.pinAt 5 0x1003 ∧ p.pc = 0 ∧ p.stalled = true := by decide

theorem test_await_dtxbit : let s := pinOf 0x1005 { codec := { txBit := some true } }
    let p := (after (.await 5 ⟨0, [.bit true true]⟩ false 5 true) s).pin 5
    s.pinAt 5 0x1005 ∧ p.codec.txBit = none := by decide

theorem test_await_level : let s := pinOf 0x101A { codec := { err := true } }
    let p := (after (.await 5 ⟨0, []⟩ true 10 false) s).pin 5
    s.pinAt 5 0x101A ∧ p.pc = 1 := by decide

theorem test_setx : let s := pinOf 0x61AB { }
    let p := (after (.setx 5 ⟨1, []⟩ 0xAB) s).pin 5
    s.pinAt 5 0x61AB ∧ p.x = 0xAB ∧ p.busyUntil = 2 := by decide

theorem test_drive : let s := pinOf 0x7001 { }
    let p := (after (.drive 5 ⟨0, []⟩ 1) s).pin 5
    s.pinAt 5 0x7001 ∧ p.drive = .dominant := by decide

theorem test_drive_three : let s := pinOf 0x7003 { drive := .recessive }
    let p := (after (.drive 5 ⟨0, []⟩ 3) s).pin 5
    s.pinAt 5 0x7003 ∧ p.drive = .codec := by decide

theorem test_sig : let s := pinOf 0x9007 { events := [1] }
    let p := (after (.sig 5 ⟨0, []⟩ 7) s).pin 5
    s.pinAt 5 0x9007 ∧ p.events = [1] ∧ p.crossing = [some 7] := by decide

theorem test_copy_in : let s := pinOf 0xA000 { inSh := 0x1FF }
    let p := (after (.copy 5 ⟨0, []⟩ 0) s).pin 5
    s.pinAt 5 0xA000 ∧ p.x = 0xFF := by decide

theorem test_copy_out : let s := pinOf 0xA001 { outSh := 0xAB000000 }
    let p := (after (.copy 5 ⟨0, []⟩ 1) s).pin 5
    s.pinAt 5 0xA001 ∧ p.x = 0xAB := by decide

theorem test_copy_clear_in : let s := pinOf 0xA002 { inSh := 3, inCnt := 2 }
    let p := (after (.copy 5 ⟨0, []⟩ 2) s).pin 5
    s.pinAt 5 0xA002 ∧ p.inSh = 0 ∧ p.inCnt = 0 := by decide

theorem test_copy_clear_out : let s := pinOf 0xA003 { outSh := 3, outCnt := 2 }
    let p := (after (.copy 5 ⟨0, []⟩ 3) s).pin 5
    s.pinAt 5 0xA003 ∧ p.outSh = 0 ∧ p.outCnt = 0 := by decide

theorem test_copy_count : let s := pinOf 0xA004 { inCnt := 32 }
    let p := (after (.copy 5 ⟨0, []⟩ 4) s).pin 5
    s.pinAt 5 0xA004 ∧ p.x = 32 := by decide

theorem test_pin_nop : let s := pinOf 0xFF00 { }
    let p := (after (.pinNop 5 ⟨15, []⟩) s).pin 5
    s.pinAt 5 0xFF00 ∧ p.pc = 1 ∧ p.busyUntil = 16 := by decide

theorem test_pin_reserved : let s := pinOf 0xB000 { }
    let p := (after (.pinReservedOp 5) s).pin 5
    s.pinAt 5 0xB000 ∧ p.pc = 1 := by decide

theorem test_shin_zeros : let s := pinOf 0x2041 { inSh := 3, inCnt := 2 }
    let p := (after (.shin 5 ⟨0, []⟩ 2 1) s).pin 5
    s.pinAt 5 0x2041 ∧ p.inSh = 12 ∧ p.inCnt = 4 := by decide

theorem test_shin_x : let s := pinOf 0x2087 { x := 0xA5 }
    let p := (after (.shin 5 ⟨0, []⟩ 4 7) s).pin 5
    s.pinAt 5 0x2087 ∧ p.inSh = 0xA5 ∧ p.inCnt = 8 := by decide

theorem test_shout_codec : let s := pinOf 0x3007 { outSh := 0x80000000 }
    let p := (after (.shout 5 ⟨0, []⟩ 0 7) s).pin 5
    s.pinAt 5 0x3007 ∧ p.codec.txBit = some true ∧ p.outCnt = 1 := by decide

theorem test_shout_pin : let s := pinOf 0x3020 { outSh := 0x80000000 }
    let p := (after (.shout 5 ⟨0, []⟩ 1 0) s).pin 5
    s.pinAt 5 0x3020 ∧ p.drive = .pin true := by decide

theorem test_shout_none : let s := pinOf 0x3043 { outSh := 0x10000000, outCnt := 31 }
    let p := (after (.shout 5 ⟨0, []⟩ 2 3) s).pin 5
    s.pinAt 5 0x3043 ∧ p.outSh = 0 ∧ p.outCnt = 32 := by decide

theorem test_shout_x : let s := pinOf 0x3067 { outSh := 0xAB000000 }
    let p := (after (.shout 5 ⟨0, []⟩ 3 7) s).pin 5
    s.pinAt 5 0x3067 ∧ p.x = 0xAB := by decide

theorem test_shout_in : let s := pinOf 0x3083 { outSh := 0xA0000000 }
    let p := (after (.shout 5 ⟨0, []⟩ 4 3) s).pin 5
    s.pinAt 5 0x3083 ∧ p.inSh = 0xA ∧ p.inCnt = 4 := by decide

theorem test_push : let s := pinOf 0x4000 { inSh := 9, inCnt := 4 }
    let p := (after (.push 5 ⟨0, []⟩ false) s).pin 5
    s.pinAt 5 0x4000 ∧ p.rxq = [9] ∧ p.inCnt = 0 := by decide

theorem test_push_full : let s := pinOf 0x4000 { rxq := [1, 2, 3, 4, 5, 6, 7, 8] }
    let p := (after (.push 5 ⟨0, []⟩ false) s).pin 5
    s.pinAt 5 0x4000 ∧ p.stalled = true := by decide

theorem test_push_below : let s := pinOf 0x4002 { inSh := 9, inCnt := 4 }
    let p := (after (.push 5 ⟨0, []⟩ true) s).pin 5
    s.pinAt 5 0x4002 ∧ p.rxq = [] ∧ p.pc = 1 := by decide

theorem test_pushN : let s := pinOf 0x4001 { inSh := 9 }
    let p := (after (.pushN 5 ⟨0, []⟩ false) s).pin 5
    s.pinAt 5 0x4001 ∧ p.rxq = [9] := by decide

theorem test_pushN_full : let s := pinOf 0x4001 { rxq := [1, 2, 3, 4, 5, 6, 7, 8], inCnt := 4 }
    let p := (after (.pushN 5 ⟨0, []⟩ false) s).pin 5
    s.pinAt 5 0x4001 ∧ p.inCnt = 0 ∧ p.rxq.length = 8 := by decide

theorem test_pushN_below : let s := pinOf 0x4003 { inCnt := 4 }
    let p := (after (.pushN 5 ⟨0, []⟩ true) s).pin 5
    s.pinAt 5 0x4003 ∧ p.inCnt = 4 ∧ p.pc = 1 := by decide

theorem test_pull : let s := pinOf 0x5000 { txq := [7, 8] }
    let p := (after (.pull 5 ⟨0, []⟩ false) s).pin 5
    s.pinAt 5 0x5000 ∧ p.outSh = 7 ∧ p.txq = [8] := by decide

theorem test_pull_empty : let s := pinOf 0x5000 { }
    let p := (after (.pull 5 ⟨0, []⟩ false) s).pin 5
    s.pinAt 5 0x5000 ∧ p.stalled = true := by decide

theorem test_pull_below : let s := pinOf 0x5002 { txq := [7] }
    let p := (after (.pull 5 ⟨0, []⟩ true) s).pin 5
    s.pinAt 5 0x5002 ∧ p.txq = [7] ∧ p.pc = 1 := by decide

theorem test_pullN : let s := pinOf 0x5001 { txq := [7, 8], outCnt := 3 }
    let p := (after (.pullN 5 ⟨0, []⟩ false) s).pin 5
    s.pinAt 5 0x5001 ∧ p.outSh = 7 ∧ p.outCnt = 0 := by decide

theorem test_pullN_empty : let s := pinOf 0x5001 { outSh := 4 }
    let p := (after (.pullN 5 ⟨0, []⟩ false) s).pin 5
    s.pinAt 5 0x5001 ∧ p.outSh = 4 ∧ p.pc = 1 := by decide

theorem test_pullN_below : let s := pinOf 0x5003 { txq := [7] }
    let p := (after (.pullN 5 ⟨0, []⟩ true) s).pin 5
    s.pinAt 5 0x5003 ∧ p.txq = [7] ∧ p.pc = 1 := by decide

theorem test_crcReset : let s := pinOf 0x8070 { }
    let p := (after (.crcReset 5 ⟨0, []⟩ 7) s).pin 5
    s.pinAt 5 0x8070 ∧ p.codec.cmds = [.crcReset 0] := by decide

theorem test_stuffDyn : let s := pinOf 0x8001 { }
    let p := (after (.stuffDyn 5 ⟨0, []⟩) s).pin 5
    s.pinAt 5 0x8001 ∧ p.codec.cmds = [.stuff 1] := by decide

theorem test_stuffFixedFd : let s := pinOf 0x8002 { }
    let p := (after (.stuffFixedFd 5 ⟨0, []⟩) s).pin 5
    s.pinAt 5 0x8002 ∧ p.codec.cmds = [.stuff 2] := by decide

theorem test_stuffFixedXl : let s := pinOf 0x8003 { }
    let p := (after (.stuffFixedXl 5 ⟨0, []⟩) s).pin 5
    s.pinAt 5 0x8003 ∧ p.codec.cmds = [.stuff 3] := by decide

theorem test_stuffOff : let s := pinOf 0x8004 { }
    let p := (after (.stuffOff 5 ⟨0, []⟩) s).pin 5
    s.pinAt 5 0x8004 ∧ p.codec.cmds = [.stuff 4] := by decide

theorem test_crcSend : let s := pinOf 0x8055 { }
    let p := (after (.crcSend 5 ⟨0, []⟩ 5) s).pin 5
    s.pinAt 5 0x8055 ∧ p.codec.cmds = [.crcSend 5] := by decide

theorem test_crcCheck : let s := pinOf 0x8016 { }
    let p := (after (.crcCheck 5 ⟨0, []⟩ 1 ()) s).pin 5
    s.pinAt 5 0x8016 ∧ p.codec.cmds = [.crcCheck 1] ∧ p.codec.err = false := by decide

theorem test_phaseData : let s := pinOf 0x8007 { }
    let p := (after (.phaseData 5 ⟨0, []⟩) s).pin 5
    s.pinAt 5 0x8007 ∧ p.codec.cmds = [.data true] ∧ p.codec.data = false := by decide

theorem test_phaseNominal : let s := pinOf 0x8008 { codec := { data := true } }
    let p := (after (.phaseNominal 5 ⟨0, []⟩) s).pin 5
    s.pinAt 5 0x8008 ∧ p.codec.cmds = [.data false] ∧ p.codec.data = true := by decide

theorem test_errClear : let s := pinOf 0x8009 { codec := { err := true } }
    let p := (after (.errClear 5 ⟨0, []⟩) s).pin 5
    s.pinAt 5 0x8009 ∧ p.codec.cmds = [.errClear] ∧ p.codec.err = true := by decide

theorem test_tdcStart : let s := pinOf 0x800A { }
    let p := (after (.tdcStart 5 ⟨0, []⟩) s).pin 5
    s.pinAt 5 0x800A ∧ p.codec.cmds = [.tdcStart] := by decide

/-- Lane 5's registers PACK_MODE, PACK_THR, UNPACK_MODE and UNPACK_THR. -/
def packing (s : State) (pm pt um ut : Nat) : State :=
  (((s.setF (F.LANE_PECTRL.PACK_MODE 5) pm).setF (F.LANE_PECTRL.PACK_THR 5) pt).setF (F.LANE_PECTRL.UNPACK_MODE 5) um).setF
    (F.LANE_PECTRL.UNPACK_THR 5) ut

theorem test_shin_packs : let s := packing (pinOf 0x2061 { inSh := 5, inCnt := 30 }) 1 31 0 0
    s.pinAt 5 0x2061 ∧ ((after (.shin 5 ⟨0, []⟩ 3 1) s).pin 5).rxq = [23] ∧ ((after (.shin 5 ⟨0, []⟩ 3 1) s).pin 5).inCnt = 0 := by decide

theorem test_shin_stalls : let s := packing (pinOf 0x2061 { inSh := 5, inCnt := 30, rxq := [1, 2, 3, 4, 5, 6, 7, 8] }) 1 31 0 0
    s.pinAt 5 0x2061 ∧ ((after (.shin 5 ⟨0, []⟩ 3 1) s).pin 5).stalled = true ∧ ((after (.shin 5 ⟨0, []⟩ 3 1) s).pin 5).inSh = 5 := by decide

theorem test_shin_overflows : let s := packing (pinOf 0x2061 { inCnt := 30, rxq := [1, 2, 3, 4, 5, 6, 7, 8] }) 2 31 0 0
    s.pinAt 5 0x2061 ∧ (after (.shin 5 ⟨0, []⟩ 3 1) s).f (F.LANE_PESTAT.N_OVERFLOW 5) = 1 ∧
    ((after (.shin 5 ⟨0, []⟩ 3 1) s).pin 5).inCnt = 0 := by decide

theorem test_shout_refills : let s := packing (pinOf 0x3040 { outCnt := 32, txq := [0xC0000000] }) 0 0 1 31
    s.pinAt 5 0x3040 ∧ ((after (.shout 5 ⟨0, []⟩ 2 0) s).pin 5).outSh = 0x80000000 ∧
    ((after (.shout 5 ⟨0, []⟩ 2 0) s).pin 5).outCnt = 1 := by decide

theorem test_shout_starves : let s := packing (pinOf 0x3040 { outCnt := 32 }) 0 0 1 31
    s.pinAt 5 0x3040 ∧ ((after (.shout 5 ⟨0, []⟩ 2 0) s).pin 5).stalled = true := by decide

theorem test_shout_underruns : let s := packing (pinOf 0x3040 { outCnt := 32 }) 0 0 2 31
    s.pinAt 5 0x3040 ∧ (after (.shout 5 ⟨0, []⟩ 2 0) s).f (F.LANE_PESTAT.N_UNDERRUN 5) = 1 := by decide

/-- The input of lane 5 has no VIO. -/
def noVio (s : State) : State := s.withPower { s.power with vioLow := [0] }

theorem test_br_dark : let s := noVio (pinOf 0x0047 { })
    s.pinAt 5 0x0047 ∧ s.dark 5 = true ∧ ((after (.br 5 ⟨0, []⟩ 2 7) s).pin 5).pc = 1 := by decide

theorem test_await_dark : let s := noVio (pinOf 0x1016 { })
    s.pinAt 5 0x1016 ∧ ((after (.await 5 ⟨0, []⟩ true 6 true) s).pin 5).stalled = true ∧
    ((after (.await 5 ⟨0, []⟩ false 6 false) (noVio (pinOf 0x1006 { }))).pin 5).pc = 1 := by decide

theorem test_shin_dark : let s := noVio (pinOf 0x2023 { inSh := 7 })
    s.pinAt 5 0x2023 ∧ ((after (.shin 5 ⟨0, []⟩ 1 3) s).pin 5).inSh = 112 := by decide

theorem test_br_txq_written : let s := pinOf 0x0087 { }
    s.pinAt 5 0x0087 ∧ ((after (.br 5 ⟨0, [.wrote 9]⟩ 4 7) s).pin 5).pc = 7 ∧
    ((after (.br 5 ⟨0, [.wrote 9]⟩ 4 7) s).pin 5).txq = [9] := by decide

theorem test_push_taken : let s := pinOf 0x4000 { inSh := 9, rxq := [1, 2, 3, 4, 5, 6, 7, 8], arrived := 1 }
    s.pinAt 5 0x4000 ∧ ((after (.push 5 ⟨0, [.took]⟩ false) s).pin 5).rxq = [2, 3, 4, 5, 6, 7, 8, 9] := by decide

theorem test_await_bit_late : let s := pinOf 0x1005 { }
    s.pinAt 5 0x1005 ∧ (after (.await 5 ⟨0, [.bit true true]⟩ false 5 true) s).fb (F.LANE_PESTAT.BIT_LATE 5) = true := by decide

theorem test_pin_poisoned : let s := (pinOf 0xF100 { }).withPoison [(5 * 256 + 5, 0)]
    s.pinBad 5 (s.runBank 5) (s.pin 5).pc = true ∧ (s.pinWord 5 (s.runBank 5) 0).extractLsb' 8 4 = 1 ∧
    ((after (.pinReservedOp 5) s).pin 5).busyUntil = 2 ∧
    (after (.pinReservedOp 5) s).fb (F.LANE_PESTAT.ILLEGAL_OP 5) = true := by decide

theorem test_pin_busy : let s := pinOf 0xFF00 { busyUntil := 9 }
    s.now < (s.pin 5).busyUntil ∧ after (.pinNop 5 ⟨15, []⟩) s = s := by decide

/-- Engine 1, of lane 5's quad, runs. -/
def quadUp (s : State) : State := s.setEng 1 { stopped := false }

theorem test_switch_now : let s := quadUp (pinOf 0xFF00 { pc := 3, busyUntil := 9 })
    Sane s ∧ s.mayWrite (.engine 1) = true ∧ s.now < (s.pin 5).busyUntil ∧
    (after (.switchNow (.engine 1) 5) s).runBank 5 = 1 ∧ ((after (.switchNow (.engine 1) 5) s).pin 5).busyUntil = 0 :=
  ⟨sane_of_check (by decide), by decide⟩

theorem test_switch_at_end : let s := quadUp (pinOf 0xFF00 { })
    s.mayWrite (.engine 1) = true ∧ (s.pin 5).ended = false ∧
    (after (.switchAtEnd (.engine 1) 5) s).fb (F.LANE_PEBANK.SW_PEND 5) = true := by decide

theorem test_switch_withdraw : let s := (quadUp (pinOf 0xFF00 { })).setB (F.LANE_PEBANK.SW_PEND 5) true
    s.mayWrite (.engine 1) = true ∧ (after (.switchWithdraw (.engine 1) 5) s).fb (F.LANE_PEBANK.SW_PEND 5) = false := by decide

theorem test_switch_due : let s := (quadUp (pinOf 0xFF00 { ended := true })).setB (F.LANE_PEBANK.SW_PEND 5) true
    s.mayWrite (.engine 1) = true ∧ (s.pin 5).running = true ∧ (s.pin 5).busyUntil ≤ s.now ∧
    (after (.switchWithdraw (.engine 1) 5) s).runBank 5 = 1 := by decide

theorem test_switch_refused : let s := ((pinOf 0xFF00 { }).setEng 2 { stopped := false }).setF (F.LANE_STATE.STATE 5) St.active
    s.mayWrite (.engine 2) = true ∧ s.laneSt 5 ≠ St.off ∧
    (after (.switchNow (.engine 2) 5) s).runBank 5 = 0 := by decide

theorem test_peprog_idle_bank : let s := (quadUp (pinOf 0xFF00 { })).withPoison [(5 * 256 + 5, 31)]
    s.mayWrite (.engine 1) = true ∧ s.runBank 5 = 0 ∧ (after (.peprogWrite (.engine 1) 5 31 7) s).reg (0x100300 + 5 * 0x800 + 124) = 7 ∧
    (after (.peprogWrite (.engine 1) 5 31 7) s).poison = [] := by decide

theorem test_peprog_running_bank : let s := quadUp (pinOf 0xFF00 { })
    s.mayWrite (.engine 1) = true ∧ (s.pin 5).running = true ∧
    (after (.peprogWrite (.engine 1) 5 0 7) s).fb (F.LANE_PEBANK.PROG_WR_ACTIVE 5) = true ∧
    (after (.peprogWrite (.engine 1) 5 0 7) s).pinWord 5 0 0 = 0xFF00 := by decide

/-! What happens at the engine comes before the instruction (R642 to R646, R648, R650, R658). -/

theorem test_codec_boundary : let s := pinOf 0xF000 { codec := { cmds := [.data true, .stuff 1] } }
    let p := (after (.pinNop 5 ⟨0, [.bit true false]⟩) s).pin 5
    s.pinAt 5 0xF000 ∧ p.codec.data = true ∧ p.codec.stuff = 1 ∧ p.codec.cmds = [] := by decide

theorem test_codec_boundary_first : let s := pinOf 0x00C7 { codec := { cmds := [.data true] } }
    s.pinAt 5 0x00C7 ∧ ((after (.br 5 ⟨0, []⟩ 6 7) s).pin 5).pc = 1 ∧ ((after (.br 5 ⟨0, [.bit true false]⟩ 6 7) s).pin 5).pc = 7 := by decide

theorem test_codec_stuff_error : let s := pinOf 0xF000 { codec := { stuff := 1 } }
    let six : List PinSeen := [.sample false false, .sample false false, .sample false false, .sample false false, .sample false false,
      .sample false false]
    let p := (after (.pinNop 5 ⟨0, six⟩) s).pin 5
    s.pinAt 5 0xF000 ∧ p.codec.err = true ∧ p.rxd = false ∧ p.idle = 0 := by decide

theorem test_codec_stuff_bit : let s := pinOf 0xF000 { codec := { stuff := 1 } }
    let six : List PinSeen := [.sample false false, .sample false false, .sample false false, .sample false false, .sample false false,
      .sample true false]
    let p := (after (.pinNop 5 ⟨0, six⟩) s).pin 5
    s.pinAt 5 0xF000 ∧ p.codec.err = false ∧ p.rxd = true ∧ p.dbit = false ∧ p.codec.run = 1 := by decide

theorem test_codec_takes_crc_first : let s := pinOf 0xF000 { codec := { crcOut := [false], txBit := some true } }
    let p := (after (.pinNop 5 ⟨0, [.bit true true]⟩) s).pin 5
    s.pinAt 5 0xF000 ∧ p.codec.crcOut = [] ∧ p.codec.txBit = some true := by decide

theorem test_codec_late_unawaited : let s := pinOf 0xF000 { }
    s.pinAt 5 0xF000 ∧ (after (.pinNop 5 ⟨0, [.bit true true]⟩) s).fb (F.LANE_PESTAT.BIT_LATE 5) = true := by decide

theorem test_await_needs_its_pulse : let s := pinOf 0x1000 { }
    s.pinAt 5 0x1000 ∧ ((after (.await 5 ⟨0, [.sample true false]⟩ false 0 true) s).pin 5).pc = 1 ∧
    ((after (.await 5 ⟨0, []⟩ false 0 true) s).pin 5).stalled = true := by decide

theorem test_await_idle : let s := pinOf 0x1016 { idle := 10 }
    s.pinAt 5 0x1016 ∧ ((after (.await 5 ⟨0, [.sample true false]⟩ true 6 false) s).pin 5).pc = 1 ∧
    ((after (.await 5 ⟨0, []⟩ true 6 false) s).pin 5).stalled = true := by decide

theorem test_rxdr_last_sample : let s := pinOf 0x0047 { }
    s.pinAt 5 0x0047 ∧ ((after (.br 5 ⟨0, [.sample true false, .sample false false]⟩ 2 7) s).pin 5).pc = 1 ∧
    ((after (.br 5 ⟨0, [.sample false false, .sample true false]⟩ 2 7) s).pin 5).pc = 7 := by decide

theorem test_shin_sample : let s := pinOf 0x2020 { inSh := 1 }
    s.pinAt 5 0x2020 ∧ ((after (.shin 5 ⟨0, [.sample false false]⟩ 1 0) s).pin 5).inSh = 2 := by decide

theorem test_cross_in_order : let s := pinOf 0xF000 { rxq := [9], crossing := [none, some 3] }
    s.pinAt 5 0xF000 ∧ ((after (.pinNop 5 ⟨0, [.crossed]⟩) s).pin 5).events = [] ∧
    ((after (.pinNop 5 ⟨0, [.crossed]⟩) s).pin 5).arrived = 1 ∧
    ((after (.pinNop 5 ⟨0, [.took]⟩) s).pin 5).rxq = [9] ∧
    ((after (.pinNop 5 ⟨0, [.crossed, .crossed, .took, .heard]⟩) s).pin 5).rxq = [] ∧
    ((after (.pinNop 5 ⟨0, [.crossed, .crossed]⟩) s).pin 5).events = [3] := by decide

theorem test_txq_ninth_word : let s := pinOf 0xF000 { txq := [1, 2, 3, 4, 5, 6, 7, 8] }
    s.pinAt 5 0xF000 ∧ ((after (.pinNop 5 ⟨0, [.wrote 9]⟩) s).pin 5).txq = [1, 2, 3, 4, 5, 6, 7, 8] := by decide

theorem test_tap_shifts : let s := pinOf 0xF000 { }
    s.pinAt 5 0xF000 ∧ (after (.pinNop 5 ⟨0, [.sample true false, .sample false false, .sample true false]⟩) s).reg (0x1002A4 + 5 * 0x800) = 5 := by
  decide

theorem test_tap_frozen : let s := (pinOf 0xF000 { }).setB (F.LANE_PECTRL.TAP_FROZEN 5) true
    s.pinAt 5 0xF000 ∧ (after (.pinNop 5 ⟨0, [.sample true false]⟩) s).reg (0x1002A4 + 5 * 0x800) = 0 := by decide

/-! Hosts. Both functions have their link up, boot is done, SE3 runs, and function 0's admin rings hold one command (R374, R376). -/

/-- Boot is done, SE3 runs, and an admin command of function 0 waits. -/
def host : State :=
  let s := (on.setB F.GLB_BOOT.BOOT_DONE true).setEng 35 { stopped := false }
  ((s.setFunc 0 { link := true, aTail := 1, busMaster := true, msixEn := true }).setFunc 1 { link := true }).setB
    (F.HOST_CTRL.ADMIN_EN 0) true

/-- An admin descriptor. -/
def adm (op w1 : Nat) : Words8 := ⟨BitVec.ofNat 32 op, BitVec.ofNat 32 w1, 0, 0, 0, 0, 0, 0x77⟩

/-- STATUS of the admin completion that the command writes at the start of function 0's admin CQ (R391). -/
def status (c : Instr) (s : State) : Nat := bitsOf ((after c s).hostWord 0 0) 0 8

theorem test_admin_nop : Taken host 0 (adm 0 0) 0 ∧ host.hostOpen 0 = true ∧
    (after (.adminNop 0 (adm 0 0)) host).hostWord 0 0 = 0xD00 ∧
    (after (.adminNop 0 (adm 0 0)) host).hostWord 0 28 = 0x77 ∧ ((after (.adminNop 0 (adm 0 0)) host).func 0).cTail = 1 := by decide

theorem test_admin_unknown : Taken host 0 (adm 0x3F 0) 0x3F ∧
    status (.adminOpcodeUnknown 0 (adm 0x3F 0)) host = 0x30 := by decide

theorem test_admin_waits : let s := host.setFunc 0 { link := true }
    s.adminReady 0 = false ∧ after (.adminNop 0 (adm 0 0)) s = s := by decide

theorem test_admin_other_opcode : (adm 0x45 0).op ≠ 0x46 ∧ after (.laneStop 0 ⟨adm 0x45 0, none⟩) host = host := by decide

theorem test_func_enable : Taken host 0 (adm 0x40 0) 0x40 ∧ host.fb (F.HOST_CTRL.ENABLED 0) = false ∧
    (after (.funcEnable 0 (adm 0x40 0)) host).fb (F.HOST_CTRL.PARTNER_ENABLED 1) = true := by decide

theorem test_func_enable_refused : let s := host.setB (F.HOST_CTRL.ENABLED 0) true
    Taken s 0 (adm 0x40 0) 0x40 ∧ status (.funcEnable 0 (adm 0x40 0)) s = 0x30 := by decide

theorem test_sq_tail : let s := host.setSq 5 { owner := some 0, size := 4 }
    (s.sq 5).owner = some 0 ∧ s.hostOpen 0 = true ∧ ((after (.sqTailDoorbell 0 5 16) s).sq 5).tail = 0 ∧
    (after (.sqTailDoorbell 0 5 16) s).clampCount 0 = 1 ∧ ((after (.sqTailDoorbell 0 5 15) s).sq 5).tail = 15 := by decide

theorem test_sq_tail_ignored : let s := host.setSq 5 { owner := some 1, size := 4 }
    (s.sq 5).owner ≠ some 0 ∧ (after (.sqTailDoorbell 0 5 1) s).clampCount 0 = 1 := by decide

theorem test_sq_tail_low : let s := host.setSq 5 { owner := some 0, size := 4, low := 2, tail := 5 }
    (s.sq 5).owner = some 0 ∧ (s.sq 5).waiting = 5 ∧ ((after (.sqTailDoorbell 0 5 1) s).src 133).count = 1 ∧
    ((after (.sqTailDoorbell 0 5 3) s).src 133).count = 0 := by decide

/-- CQ 5 of function 0 holds three completions. -/
def threeDone : State := host.setCq 5 { owner := some 0, backed := true, size := 4, head := 14, tail := 1 }

theorem test_cq_head : (threeDone.cq 5).backed = true ∧ ((after (.cqHeadDoorbell 0 5 0) threeDone).cq 5).head = 0 ∧
    (after (.cqHeadDoorbell 0 5 0) threeDone).clampCount 0 = 0 := by decide

theorem test_cq_head_beyond : ((after (.cqHeadDoorbell 0 5 2) threeDone).cq 5).head = 1 ∧
    (after (.cqHeadDoorbell 0 5 18) threeDone).clampCount 0 = 1 := by decide

theorem test_cq_head_ignored : (threeDone.cq 6).owner ≠ some 0 ∧
    (after (.cqHeadDoorbell 0 6 0) threeDone).clampCount 0 = 1 := by decide

theorem test_admin_tail : ((after (.adminSqTailDoorbell 0 3) host).func 0).aTail = 3 := by decide

theorem test_admin_head : let s := host.setFunc 0 { link := true, cTail := 3 }
    ((after (.adminCqHeadDoorbell 0 3) s).func 0).cHead = 3 ∧ (after (.adminCqHeadDoorbell 0 3) s).clampCount 0 = 0 ∧
    ((after (.adminCqHeadDoorbell 0 4) s).func 0).cHead = 3 ∧ (after (.adminCqHeadDoorbell 0 4) s).clampCount 0 = 1 := by decide

/-! Cirque. -/

/-- Source 9 is enabled at vector 2 of function 0, target 66, with three events. -/
def vec : State := (host.setB (F.MSIX.MASK 0 2) false).setSrc 9 { en := true, prio := 3, target := 66, count := 3 }

theorem test_cirque_doorbell : let s := on.setEng 32 { stopped := false }
    s.mayWrite (.engine 32) = true ∧ ((after (.cirqueDoorbell (.engine 32) 9) s).src 9).count = 1 := by decide

theorem test_cirque_doorbell_host : host.mayWrite (.host 0) = true ∧ 1024 ≤ fieldOf (1024#32) 0 11 ∧
    ((after (.cirqueDoorbell (.host 0) 1024) host).src 1024).count = 1 := by decide

theorem test_cirque_commit : vec.boot.mainOn = true ∧ isHostTarget 66 = true ∧ vec.offer 66 = some (9, 3) ∧
    vec.vecBlocked 66 = false ∧ vec.modReady 66 3 = true ∧ ((after (.cirqueCommit 66) vec).src 9).delivered = true := by decide

theorem test_cirque_message : let s := (vec.setF (F.MSIX.ADDR 0 2) 0x40).setF (F.MSIX.DATA 0 2) 0x55
    s.offer 66 = some (9, 3) ∧ s.vecBlocked 66 = false ∧ (after (.cirqueCommit 66) s).hostWord 0 0x100 = 0x55 := by decide

theorem test_cirque_commit_engine : offered.offered 32 = some (9, 5) ∧
    ((after (.cirqueCommit 32) offered).eng 32).pc = 84 := by decide

theorem test_cirque_claim : let s := after (.cirqueCommit 66) vec
    s.mayRead (.host 0) = true ∧ mayUse (.host 0) 66 = true ∧ s.deliveredAt 66 = some 9 ∧
    (after (.cirqueClaim (.host 0) 66) s).readData = 0x80030009 ∧
    ((after (.cirqueClaim (.host 0) 66) s).src 9).active = true := by decide

theorem test_cirque_claim_selected : vec.deliveredAt 66 = none ∧ vec.select 66 = some (9, 3) ∧
    (after (.cirqueClaim (.host 0) 66) vec).readData = 0x80030009 := by decide

theorem test_cirque_claim_none : host.deliveredAt 66 = none ∧ host.select 66 = none ∧
    (after (.cirqueClaim (.host 0) 66) host).readData = 0 := by decide

theorem test_cirque_claim_foreign : vec.mayRead (.host 1) = true ∧ mayUse (.host 1) 66 = false ∧
    ((after (.cirqueClaim (.host 1) 66) vec).src 9).active = false := by decide

theorem test_cirque_complete : let s := host.setSrc 9 { en := true, active := true, prio := 3, target := 66, at_ := 66 }
    mayUse (.host 0) 66 = true ∧ s.mayWrite (.host 0) = true ∧
    ((after (.cirqueComplete (.host 0) 66 9) s).src 9).active = false := by decide

theorem test_cirque_complete_bad : vec.mayWrite (.host 0) = true ∧ (vec.src 9).active = false ∧
    (after (.cirqueComplete (.host 0) 66 9) vec).f (F.CIRQUE_TCNT.BAD_COMPLETE 66) = 1 ∧
    (after (.cirqueComplete (.host 0) 66 9) vec).clampCount 0 = 1 := by decide

theorem test_mod_time : let s := (host.setTgt 66 { commit := some 0 }).withNow 999999
    (s.tgt 66).commit.isSome = true ∧ s.modTimeOver 66 = true ∧ (after (.modTimeExpiry 66) s).modReady 66 0 = true := by decide

theorem test_src_write : host.mayWrite (.host 0) = true ∧
    ((after (.cirqueSrcWrite (.host 0) 9 0x80005024) host).src 9).target = 35 ∧
    ((after (.cirqueSrcWrite (.host 0) 9 0x80005024) host).src 9).prio = 5 ∧
    ((after (.cirqueSrcWrite (.host 0) 9 0x8000507F) host).src 9).target = 95 := by decide

theorem test_source_clr : (vec.src 9).active = false ∧ (vec.src 9).delivered = false ∧ 64 ≤ (vec.src 9).target ∧
    (after (.sourceClr (.host 0) 9) vec).src 9 = { en := true, prio := 3, target := 66 } := by decide

theorem test_idle : host.hostOpen 0 = true ∧ mayUse (.host 0) 66 = true ∧
    ((after (.idleWrite 0 66) host).tgt 66).idle = true := by decide

theorem test_unblock : let s := host.setB (F.MSIX.MASK 0 2) true
    s.vecBlocked 66 = true ∧ (s.func 0).msixEn = true ∧ (s.func 0).msixMask = false ∧ (s.func 0).busMaster = true ∧
    (after (.msixVectorUnblock 0 2 .entry) s).vecBlocked 66 = false := by decide

/-! I/O rings. -/

/-- A ring descriptor: ring 5, size code 4, at 0x8000. -/
def ring (op w1 : Nat) : Words8 := ⟨BitVec.ofNat 32 op, BitVec.ofNat 32 w1, 0x8000, 0, 0, 0, 0, 0x77⟩

theorem test_create_cq : let d := ring 0x41 0x00040005
    Sane host ∧ Taken host 0 d 0x41 ∧ fieldOf d.w1 0 7 = 5 ∧ (host.cq 5).home = none ∧
    (after (.ringCreateCq 0 d) host).cq 5 = { owner := some 0, backed := true, base := 0x8000, size := 4 } :=
  ⟨sane_of_check (by decide), by decide⟩

theorem test_create_cq_refused : let d := ring 0x41 0x00040005
    let s := host.setCq 5 { owner := some 1 }
    (s.cq 5).home = some 1 ∧ status (.ringCreateCq 0 d) s = 0x30 ∧ (threeDone.cq 5).home = some 0 ∧
    status (.ringCreateCq 0 d) threeDone = 0x30 := by decide

theorem test_create_sq : let d := ring 0x42 0x00040505
    Taken threeDone 0 d 0x42 ∧ (threeDone.sq 5).deleting = none ∧ (threeDone.sq 5).owner = none ∧ fieldOf d.w1 8 7 = 5 ∧
    (threeDone.cq 5).owner = some 0 ∧ (after (.ringCreateSq 0 d) threeDone).sq 5 = { owner := some 0, base := 0x8000, size := 4, cq := 5 } := by
  decide

/-- SQ 5 of a function, on CQ 5. -/
def ownSq (f : Nat) : State := threeDone.setSq 5 { owner := some f, size := 4, cq := 5 }

theorem test_create_sq_refused : let d := ring 0x42 0x00040505
    status (.ringCreateSq 0 d) (ownSq 1) = 0x30 ∧ status (.ringCreateSq 0 d) (ownSq 0) = 0x30 ∧
    status (.ringCreateSq 0 d) host = 0x30 := by decide

theorem test_delete_sq : let d := ring 0x43 5
    let t := after (.ringDeleteSq 0 d) (ownSq 0)
    Taken (ownSq 0) 0 d 0x43 ∧ d.w1.getLsbD 8 = false ∧ (ownSq 0).sqEntries 5 = [] ∧
    (∀ e < 4, ((ownSq 0).eth e).queue = [] ∧ ((ownSq 0).eth e).wire = none) ∧
    (t.sq 5).deleting = some ⟨0, 0x77⟩ ∧ t.sqDrained 5 = true ∧ t.held = [] ∧ (after (.ringDeleteSqCommit 5) t).sq 5 = {} := by decide

theorem test_delete_sq_refused : status (.ringDeleteSq 0 (ring 0x43 5)) (ownSq 1) = 0x30 := by decide

theorem test_sq_command_held : let s := (ownSq 0).modSq 5 fun q => { q with deleting := some ⟨0, 1⟩ }
    (s.sq 5).deleting.isSome = true ∧ (after (.ringCreateSq 0 (ring 0x42 0x00040505)) s).held = [⟨0, ring 0x42 0x00040505⟩] ∧
    (after (.ringDeleteSq 0 (ring 0x43 5)) s).held = [⟨0, ring 0x43 5⟩] := by decide

theorem test_delete_cq : let d := ring 0x43 0x105
    Taken threeDone 0 d 0x43 ∧ d.w1.getLsbD 8 = true ∧ (∀ k < 128, (threeDone.sq k).owner = none ∨ (threeDone.sq k).cq ≠ 5) ∧
    ((after (.ringDeleteCq 0 d) threeDone).cq 5).owner = none := by decide

theorem test_delete_cq_refused : let d := ring 0x43 0x105
    status (.ringDeleteCq 0 d) host = 0x30 ∧ ((ownSq 0).sq 5).owner.isSome = true ∧ status (.ringDeleteCq 0 d) (ownSq 0) = 0x30 := by decide

theorem test_adopt : let d := ring 0x44 0x0105
    let s := host.setCq 6 { orphan := some 1 }
    Taken s 0 d 0x44 ∧ fieldOf d.w1 8 7 = 1 ∧ (s.cq (5 + 1)).orphan.isSome = true ∧
    ((after (.adoptRings 0 d) s).cq 6).owner = some 0 ∧ status (.adoptRings 0 d) host = 0x30 ∧
    (∀ j, 5 ≤ j → j ≤ 6 → j < 128 → (host.cq j).orphan = none) := by
  refine ⟨by decide, by decide, by decide, by decide, by decide, fun j a b _ => ?_⟩
  have : j = 5 ∨ j = 6 := by omega
  rcases this with rfl | rfl <;> decide

/-! Time bases. -/

/-- TB_STEP of base 3 by `ns` nanoseconds, with a key or without. -/
def stepBy (ns : Nat) (key : Word) : Words8 := ⟨0x51, 3, BitVec.ofNat 32 ns, BitVec.ofNat 32 (ns / 2 ^ 32), key, 0, 0, 0x77⟩

/-- The step limit of base 3 is 1000 ns. -/
def limited : State := host.setF (F.TB_STEPLIM.STEP_LIMIT 3) 1000

theorem test_tb_step_refused : let d := stepBy 1001 0
    Sane limited ∧ Taken limited 0 d 0x51 ∧ fieldOf d.w1 0 3 = 3 ∧
    limited.f (F.TB_STEPLIM.STEP_LIMIT 3) < (signed 64 (pair64 d.w2 d.w3)).natAbs ∧ d.w4 ≠ 0x464F5243 ∧
    (after (.tbStep 0 d) limited).fb (F.TB_STAT.STEP_REFUSED 3) = true ∧ ((after (.tbStep 0 d) limited).tb 3).val = 0 :=
  ⟨sane_of_check (by decide), by decide⟩

theorem test_tb_step_forced : let d := stepBy 1001 0x464F5243
    (after (.tbStep 0 d) limited).fb (F.TB_STAT.FORCED 3) = true ∧
    ((after (.tbStep 0 d) limited).tb 3).val = 1001 * 16777216 ∧ (after (.tbStep 0 d) limited).hostWord 0 8 = 1 := by decide

set_option maxRecDepth 10000 in
theorem test_tb_step_back : let d := stepBy (2 ^ 64 - 1000) 0
    signed 64 (pair64 d.w2 d.w3) = -1000 ∧ ¬ limited.f (F.TB_STEPLIM.STEP_LIMIT 3) < (signed 64 (pair64 d.w2 d.w3)).natAbs ∧
    ((after (.tbStep 0 d) limited).tb 3).val = 281474976710656 * 1000000000 * 16777216 - 1000 * 16777216 := by decide

theorem test_tb_slew : host.mayWrite (.host 0) = true ∧
    (after (.tbSlewWrite (.host 0) 3 (0x7D1 * 2 ^ 32 + 5)) host).f (F.TB_SLEW.RATE 3) = 2000 ∧
    (after (.tbSlewWrite (.host 0) 3 (0x7D1 * 2 ^ 32 + 5)) host).clampCount 0 = 1 ∧
    ((after (.tbSlewWrite (.host 0) 3 (0x7D1 * 2 ^ 32 + 5)) host).tb 3).slewRem = 5 * 16777216 := by decide

theorem test_slew_done : let s := host.setB (F.TB_SLEW.ACTIVE 3) true
    s.fb (F.TB_SLEW.ACTIVE 3) = true ∧ (s.tb 3).slewRem = 0 ∧ (after (.slewDone 3) s).fb (F.TB_STAT.SLEW_DONE 3) = true ∧
    ((after (.slewDone 3) s).src 843).count = 1 := by decide

theorem test_slew_goes_on : let s := (host.setB (F.TB_SLEW.ACTIVE 3) true).setTb 3 { slewRem := 1 }
    (s.tb 3).slewRem ≠ 0 ∧ after (.slewDone 3) s = s := by decide

theorem test_tb_capture : let s := host.setTb 3 { val := (5 * 1000000000 + 999999999) * 16777216 + 256 }
    s.mayRead (.host 1) = true ∧ (after (.tbTimeCapture (.host 1) 3) s).readData = 999999999 * 65536 + 1 ∧
    (after (.tbTimeCapture (.host 1) 3) s).capWord (.host 1) 1 = 0x00053B9A := by decide

theorem test_tb_capture_before_step : let s := after (.tbStep 0 (stepBy 500 0)) limited
    (s.tb 3).val = 500 * 16777216 ∧ s.readVal 3 = 0 ∧ (after (.tbTimeCapture (.host 0) 3) s).readData = 0 := by decide

/-- Words 1 and 2 of TB_SET of base 3 are written: 5 s and the upper half of the nanoseconds. -/
def half : State := (host.setReg (0x40034 + 3 * 0x100) 0x0005FFFF).setReg (0x40038 + 3 * 0x100) 0

theorem test_tb_set : half.mayWrite (.host 0) = true ∧ half.timeUp = false := by decide

theorem test_tb_set_clamps : (after (.tbSet (.host 0) 3 0xFFFF8000) half).clampCount 0 = 1 := by decide

theorem test_tb_set_value : ((after (.tbSet (.host 0) 3 0xFFFF8000) half).tb 3).val =
    (5 * 1000000000 + 999999999) * 16777216 + 0x8000 * 256 := by decide

theorem test_tb_set_ignored : let s := host.withTimeUp true
    s.timeUp = true ∧ (after (.tbSet (.host 0) 3 7) s).clampCount 0 = 1 := by decide

set_option maxRecDepth 20000 in
theorem test_block_start_time : TakenSub host 0 (adm 0x54 1) 0x54 1 ∧ (after (.blockStartTimeBases 0 (adm 0x54 1)) host).timeUp = true ∧
    (after (.blockStartTimeBases 0 (adm 0x54 1)) host).timeDist = true := by decide

theorem test_block_stop_time : let s := host.withTimeDist true
    TakenSub s 0 (adm 0x55 1) 0x55 1 ∧ (after (.blockStopTimeBases 0 (adm 0x55 1)) s).timeDist = false := by decide

/-- Channel 2 sends on lane 9, whose lane is in operation; base 0 has passed one multiple of its period of 1 ms. -/
def channel : State :=
  let s := ((host.withTimeDist true).setB (F.TB_BDIST.EN 2) true).setF (F.TB_BDIST.LANE 2) 9
  (((s.setF (F.TB_BDIST.PERIOD 2) 1).setF (F.LANE_STATE.STATE 9) St.active).setTb 0 { val := 1500000 * 16777216 })

theorem test_sync_release : Sane channel ∧ channel.timeDist = true ∧ channel.fb (F.TB_BDIST.EN 2) = true ∧
    channel.bdMultiple 2 ≠ channel.bd 2 ∧ channel.bdLane 2 = 9 ∧ channel.cond 9 ≠ .down ∧
    ((after (.syncRelease 2) channel).bus 9).length = 1 ∧ (after (.syncRelease 2) channel).f (F.TB_BDSTAT.SEQ 2) = 1 :=
  ⟨sane_of_check (by decide), by decide⟩

theorem test_sync_replaced : let s := (after (.syncRelease 2) channel).setTb 0 { val := 2500000 * 16777216 }
    s.bdMultiple 2 ≠ s.bd 2 ∧ ((s.bus 9).map Entry.src) = [.sync 2] ∧ ((s.bus 9).map Entry.fid) = [none] ∧
    ((after (.syncRelease 2) s).bus 9).length = 1 ∧ (after (.syncRelease 2) s).f (F.TB_BDSTAT.SYNC_LOST 2) = 1 := by decide

theorem test_sync_not_due : let s := channel.setTb 0 { val := 999999 * 16777216 }
    s.bdMultiple 2 = s.bd 2 ∧ after (.syncRelease 2) s = s := by decide

theorem test_tick : let s := ((on.setTb 1 { val := 7, slewRem := 100 }).setB (F.TB_SLEW.ACTIVE 1) true).setF (F.TB_SLEW.RATE 1) 1
    s.pending = [] ∧ s.boot.mainOn = true ∧ (s.tick.tb 0).val = 52428800 ∧ (s.tick.tb 1).val = 7 + 52428800 + 52 ∧
    (s.tick.tb 1).slewRem = 48 ∧ s.tick.now = 1 := by decide

theorem test_tick_rtc : let s := ((State.reset.withSnow { rtcPhase := 78120 }).setF F.SNOW_ALARM.ALARM 1).setB F.SNOW_CTRL.RTC_EN true
    Sane s ∧ 78125 ≤ s.snow.rtcPhase + 8 ∧ s.tick.snow.rtcPhase = 3 ∧ s.tick.f F.SNOW_RTC.TICKS = 1 ∧ s.tick.snow.alarm = true :=
  ⟨sane_of_check (by decide), by decide⟩

/-! I/O descriptors. SQ 5 of function 0 on CQ 5 holds one descriptor. -/

/-- SQ 5 and CQ 5 of function 0. -/
def io : State :=
  (host.setCq 5 { owner := some 0, backed := true, base := 0x10000, size := 4 }).setSq 5 { owner := some 0, base := 0x8000, size := 4, cq := 5, tail := 1 }

/-- A descriptor with words 0, 1, 2 and 4. -/
def desc (w0 w1 w2 w4 : Nat) : Words8 := ⟨BitVec.ofNat 32 w0, BitVec.ofNat 32 w1, BitVec.ofNat 32 w2, 0, BitVec.ofNat 32 w4, 0, 0, 0x55⟩

theorem test_io_nop : Fetchable io 5 0 ∧ (desc 0 0 0 0).op = 0 ∧
    (after (.ioNop 5 (desc 0 0 0 0)) io).hostWord 0 0x10000 = 0xE00 ∧ ((after (.ioNop 5 (desc 0 0 0 0)) io).cq 5).tail = 1 := by decide

theorem test_io_unknown : (desc 63 0 0 0).op = 63 ∧ (after (.ioNop 5 (desc 63 0 0 0)) io).clampCount 0 = 1 := by decide

theorem test_rxbuf : let d := desc 0x00050003 300 0 0x1000
    d.op = 3 ∧ fieldOf d.w0 16 7 = 5 ∧ (io.cq 5).backed = true ∧ ((after (.rxbuf 5 d) io).cq 5).posted.length = 256 ∧
    (after (.rxbuf 5 d) io).clampCount 0 = 1 := by
  refine ⟨by decide, by decide, by decide, ?_, ?_⟩ <;> decide +kernel

theorem test_rxbuf_foreign : let d := desc 0x00060003 1 0 0x1000
    (io.cq 6).owner ≠ some 0 ∧ (after (.rxbuf 5 d) io).hostWord 0 0x10008 = 0 ∧
    bitsOf ((after (.rxbuf 5 d) io).hostWord 0 0x10000) 8 3 = 4 := by decide

theorem test_eth_tx : let d := desc 0x00010002 0 10 0x1000
    d.op = 2 ∧ io.ethQueued 1 < 64 ∧ io.admissionWaits 0 33 = false ∧ (io.eth 1).holdOver = false ∧
    (after (.ethTx 5 d) io).fetched.map Fetched.len = [14] := by decide

theorem test_eth_tx_held : let s := io.setEth 1 { holdOver := true }
    (s.eth 1).holdOver = true ∧
    bitsOf ((after (.ethTx 5 (desc 0x00010002 0 10 0x1000)) s).hostWord 0 0x10000) 0 8 = 0x14 := by decide

/-- Lane 9 is in operation. -/
def bus9 : State := io.setF (F.LANE_STATE.STATE 9) St.active

/-- A TX descriptor for bus 9: base frame 0x123, two bytes, inline or in host memory. -/
def txd (inline : Bool) : Words8 := desc (0x00090001 + inline.toNat * 1024) 0x20000123 2 0x1122

theorem test_tx_inline : let y := (bus9.txTake 5 (txd true)).1
    Fetchable bus9 5 0 ∧ (txd true).op = 1 ∧ bus9.txBus (txd true) = 9 ∧ bus9.outstanding 9 < bus9.f (F.LANE_HOLD.TXO_DEPTH 9) ∧
    bus9.admissionWaits 0 2 = false ∧ y.data = some [0x22, 0x11] ∧ y.eth = none ∧ y.lanes = [9] ∧
    bus9.fitsWaiting 2 2 (cellsFor 2) = true ∧ bus9.cond 9 ≠ .down := by decide

theorem test_tx_room : RoomFor bus9 (bus9.txTake 5 (txd true)).1 [0x22, 0x11] ∧ (bus9.eng 2).halted = false := ⟨by unfold RoomFor; decide, by decide⟩

/-- The descriptor crosses Col. -/
def txOnWay : State := after (.tx 5 ⟨txd true, []⟩) bus9

theorem test_tx_crosses : txOnWay.voqs.map Prod.fst = [((36 + 0) * 40 + 2) * 4 + 2] ∧ txOnWay.ctqs = [] ∧
    txOnWay.fetched.map Fetched.fid = [some 0] ∧ txOnWay.fetched.map Fetched.data = [some [0x22, 0x11]] ∧ txOnWay.bus 9 = [] := by decide

theorem test_tx_crossed : ((after .colSlot txOnWay).bus 9).length = 1 ∧ (after .colSlot txOnWay).fetched = [] ∧
    (after .colSlot txOnWay).cond 9 ≠ .down := by decide

theorem test_tx_halted : let s := bus9.setEng 2 { halted := true }
    Fetchable s 5 0 ∧ (s.eng (s.txBus (txd false) / 4)).halted = true ∧
    bitsOf ((after (.tx 5 ⟨txd false, []⟩) s).hostWord 0 0x10000) 0 8 = 0x14 := by decide

theorem test_tx_payload_wanted : (bus9.txTake 5 (txd false)).1.data = none ∧
    (after (.tx 5 ⟨txd false, []⟩) bus9).fetched.map Fetched.len = [2] ∧ ((after (.tx 5 ⟨txd false, []⟩) bus9).cq 5).reserved = 1 := by decide

theorem test_tx_turn : let s := bus9.setSq 4 { owner := some 0, base := 0x9000, size := 4, cq := 5, tail := 1 }
    s.isTurn 9 5 [4] = false ∧ after (.tx 5 ⟨txd true, [4]⟩) s = s ∧ s.isTurn 9 4 [5] = true ∧
    (after (.tx 4 ⟨txd true, [5]⟩) s).turn 9 = 5 ∧ (after (.tx 4 ⟨txd true, [5]⟩) s).isTurn 9 5 [4] = true := by decide

/-- The descriptor waits for its payload. -/
def reading : State := after (.tx 5 ⟨txd false, []⟩) bus9

theorem test_payload_done : reading.fetched = [(bus9.txTake 5 (txd false)).1] ∧
    RoomFor reading (bus9.txTake 5 (txd false)).1 [1, 2] ∧ reading.admissionWaits 0 2 = false ∧
    (after (.txPayloadReadDone 5 [1, 2]) reading).fetched.map Fetched.fid = [some 0] :=
  ⟨by decide, by unfold RoomFor; decide, by decide⟩

/-- Two descriptors: the first, of another SQ, has its payload and waits for admission. -/
def behind : State := reading.withFetched (reading.fetched ++ [{ (bus9.txTake 5 (txd false)).1 with sq := 6, data := some [3, 4] }])

theorem test_payload_behind : (∃ z ∈ behind.fetched.tail, z.data.isSome = true ∧ z.f = 0 ∧ z.port = 2) ∧
    (after (.txPayloadReadDone 5 [1, 2]) behind).fetched.map Fetched.data = [some [3, 4], some [1, 2]] := by
  refine ⟨⟨{ (bus9.txTake 5 (txd false)).1 with sq := 6, data := some [3, 4] }, ?_, ?_⟩, ?_⟩ <;> decide

theorem test_grant : let s := reading.withFetched [{ (bus9.txTake 5 (txd false)).1 with data := some [3, 4] }]
    ((s.fetched.map Fetched.bus) = [9]) ∧ (s.fetched.map Fetched.fid = [none]) ∧
    (after (.waitingAdmissionGrant 2) s).fetched.map Fetched.fid = [some 0] := by decide

/-- A payload of Ethernet port 1 has one cell left to cross. -/
def ethLast : State :=
  let x : Fetched := { (bus9.txTake 5 (txd true)).1 with eth := some 1, fid := some 4, dl := some 5 }
  (io.withFetched [x]).setVoq (((36 + 0) * 40 + 33) * 4 + 2) [{ fid := 4, left := 1, tc := 2, what := .desc }]

theorem test_eth_entered : ethLast.voqs.length = 1 ∧ (ethLast.eth 1).holdOver = false ∧
    ((after .colSlot ethLast).eth 1).queue.map Egress.fid = [some 4] ∧
    ((after .colSlot ethLast).eth 1).queue.map (fun g => g.deadline.isSome) = [true] := by decide

/-- A received frame in CQ 5. -/
def rxItem (n : Nat) : RxItem :=
  { fid := 0, eth := false, bus := 9, laneB := false, w1 := 0x123, w2 := 0, af := 0, stamp := ⟨0, 0⟩, xl := false,
    inl := decide (n ≤ 8), data := List.replicate n 7 }

/-- CQ 5 with received frames and buffers. -/
def rxd (held : List RxItem) (posted : List Buf) : State :=
  io.setCq 5 { owner := some 0, backed := true, base := 0x10000, size := 4, held := held, posted := posted, drops := 3 }

theorem test_rx_inline : let s := rxd [rxItem 8] []
    (s.cq 5).held = [rxItem 8] ∧ s.framePoisoned 0 = false ∧ (s.cq 5).freeSlots ≠ 0 ∧
    (after (.rxCompletionWrite 5) s).hostWord 0 0x10000 = 0x00095920 ∧
    (after (.rxCompletionWrite 5) s).hostWord 0 0x1001C = 0x07070707 := by decide

theorem test_rx_buffer : let s := rxd [rxItem 12] [⟨0x4000, 0x99⟩]
    (s.cq 5).posted = [⟨0x4000, 0x99⟩] ∧ 0x4000 + 12 ≤ 0x10000 ∧ 12 ≤ 64 * 2 ^ (s.cq 5).bufsz ∧
    (after (.rxCompletionWrite 5) s).hostByte 0 0x400B = 7 ∧ (after (.rxCompletionWrite 5) s).hostWord 0 0x1001C = 0x99 ∧
    (after (.rxCompletionWrite 5) s).hostWord 0 0x10018 = 0x00030001 := by decide

theorem test_rx_stays : let s := rxd [rxItem 12] []
    (s.cq 5).posted.length * (64 * 2 ^ (s.cq 5).bufsz) < (rxItem 12).data.length ∧ after (.rxCompletionWrite 5) s = s := by decide

theorem test_rx_behind : let w : Awaiting := ⟨(bus9.txTake 5 (txd true)).1.fr, ⟨0, 0⟩, false, 0, 3, none⟩
    let s := (rxd [{ rxItem 8 with seq := 4 }] []).setLane 9 { wait := [w] }
    s.framePoisoned 0 = false ∧ (s.cq 5).freeSlots ≠ 0 ∧ s.cqBehind 5 4 = true ∧ after (.rxCompletionWrite 5) s = s := by decide

theorem test_rx_fetch_first :
    let s := io.setCq 5 { owner := some 0, backed := true, base := 0x10000, size := 4, held := [rxItem 8], reserved := 14, freed := some 0 }
    s.sqReady 5 = true ∧ (s.cq 5).freeSlots = 1 ∧ s.fetchFirst 5 = true ∧ after (.rxCompletionWrite 5) s = s := by decide

/-! The reset of a function, and entries taken back. -/

theorem test_flr : let s := io.setF F.MOR_CTRL.HFUNC 0
    Sane s ∧ s.held = [] ∧ ((after (.flr 0) s).cq 5).orphan = some 0 ∧ (after (.flr 0) s).sq 5 = {} ∧
    (after (.flr 0) s).f (F.HOST_FUNCCNT.RESETS 0) = 1 ∧ (after (.flr 0) s).fb F.MOR_STAT.HOST_LOST = true :=
  ⟨sane_of_check (by decide), by decide +kernel⟩

theorem test_link_loss : ((after (.funcLinkLoss 0) io).func 0).link = false ∧ ((after (.funcLinkLoss 0) io).src 1022).count = 1 := by decide +kernel

theorem test_link_up : let s := on
    s.boot.mainOn = true ∧ ((after (.pcieLinkUp 1) s).func 1).link = true := by decide

/-- Entry 3 of bus 9 is of SQ 5 with tag 0x55, in an attempt or not. -/
def entry5 (fly : Bool) : Entry :=
  { id := 3, src := .desc 5 0 0x55 false, fr := (bus9.txTake 5 (txd true)).1.fr, sel := [9], copies := [{ lane := 9, inFlight := fly }],
    deadline := some ⟨none, 100⟩ }

/-- It waits in the order of bus 9; the clock stands at `t`. -/
def queued (fly : Bool) (t : Nat) : State :=
  ((bus9.setCq 5 { owner := some 0, backed := true, base := 0x10000, size := 4, reserved := 1 }).setBus 9 [entry5 fly]).withNow t

/-- TX_CANCEL or TX_ABORT on SQ 5. -/
def takeBack (op : Nat) : Words8 := desc op 5 0x55 0

theorem test_cancel : let s := queued false 0
    Sane s ∧ Taken s 0 (takeBack 0x4B) 0x4B ∧ (s.sq 5).owner = some 0 ∧ s.sqEntries 5 = [(9, entry5 false)] ∧ s.fetched = [] ∧
    (∀ k < 4, (s.eth k).queue = [] ∧ (s.eth k).wire = none) ∧ (entry5 false).inFlight = false ∧
    (after (.txCancel 0 (takeBack 0x4B)) s).bus 9 = [] ∧ bitsOf ((after (.txCancel 0 (takeBack 0x4B)) s).hostWord 0 0x10000) 0 8 = 0x12 :=
  ⟨sane_of_check (by decide), by decide⟩

theorem test_cancel_in_flight : (entry5 true).inFlight = true ∧
    ((after (.txCancel 0 (takeBack 0x4B)) (queued true 0)).bus 9).map Entry.mark = [.cancel] := by decide

theorem test_cancel_refused : bus9.sqEntries 5 = [] ∧ status (.txCancel 0 (takeBack 0x4B)) bus9 = 0x30 ∧ (host.sq 5).owner ≠ some 0 ∧
    status (.txCancel 0 (takeBack 0x4B)) host = 0x30 ∧ status (.txAbort 0 (takeBack 0x4C)) host = 0x30 := by decide

theorem test_abort : (after (.txAbort 0 (takeBack 0x4C)) (queued false 0)).bus 9 = [] ∧
    (after (.txAbort 0 (takeBack 0x4C)) (queued false 0)).hostWord 0 8 = 1 := by decide

theorem test_abort_in_flight : ((after (.txAbort 0 (takeBack 0x4C)) (queued true 0)).bus 9).map Entry.mark = [.abort] ∧
    (after (.txAbort 0 (takeBack 0x4C)) (queued true 0)).hostWord 0 8 = 1 := by decide

theorem test_abort_nothing : status (.txAbort 0 (takeBack 0x4C)) bus9 = 0 ∧ (after (.txAbort 0 (takeBack 0x4C)) bus9).hostWord 0 8 = 0 := by decide +kernel

theorem test_deadline : let s := queued false 100
    s.entry 9 3 = some (entry5 false) ∧ s.ranOut? (entry5 false).deadline = true ∧ (after (.deadlineExpiry 9 3) s).bus 9 = [] ∧
    (after (.deadlineExpiry 9 3) s).f (F.LANE_TXO.N_EXPIRED 9) = 1 := by decide

theorem test_cancel_too_late : let s := queued false 100
    s.ranOut? (entry5 false).deadline = true ∧ status (.txCancel 0 (takeBack 0x4B)) s = 0x30 ∧
    (after (.txCancel 0 (takeBack 0x4B)) s).bus 9 = [] ∧ (after (.txAbort 0 (takeBack 0x4C)) s).hostWord 0 8 = 0 ∧
    (after (.txAbort 0 (takeBack 0x4C)) s).bus 9 = [] ∧
    bitsOf ((after (.txCancel 0 (takeBack 0x4B)) s).hostWord 0 0x10000) 0 8 =
      bitsOf ((after (.deadlineExpiry 9 3) s).hostWord 0 0x10000) 0 8 := by decide +kernel

theorem test_deadline_in_flight : ((after (.deadlineExpiry 9 3) (queued true 100)).bus 9).map Entry.expired = [true] := by decide

theorem test_deadline_not_yet : let s := queued false 99
    s.ranOut? (entry5 false).deadline = false ∧ after (.deadlineExpiry 9 3) s = s := by decide

/-- A trailing copy on lane 9 of a pair of lanes 8 and 9. -/
def trailing : State :=
  let c : Copy := { lane := 9, trail := true, trailDue := some ⟨none, 50⟩ }
  ((bus9.setF (F.QUAD_CTRL.MODE 2) 2).setBus 8 [{ entry5 false with sel := [8, 9], done := true, copies := [c] }]).withNow 50

theorem test_trail_lost : Sane trailing ∧ trailing.busOf 9 = 8 ∧ trailing.ranOut? (some ⟨none, 50⟩) = true ∧
    (after (.trailMsExpiry 9 3) trailing).f (F.LANE_PAIRTX.TRAIL_LOST 8) = 1 ∧ (after (.trailMsExpiry 9 3) trailing).bus 8 = [] :=
  ⟨sane_of_check (by decide), by decide⟩

/-! Lanes. -/

/-- Lane 9 in a state with a hold cause, beside the rest `x`; engine 2 and bank voltage 2 are up. -/
def lane9 (st cause : Nat) (x : Lane) : State :=
  ((((io.setReg 0x58 0xFFFFFFFF).setEng 2 { stopped := false }).setF (F.LANE_STATE.STATE 9) st).setF (F.LANE_STATE.HOLD_CAUSE 9) cause).setLane 9 x

theorem test_lane_start : let s := lane9 St.off 0 {}
    Taken s 0 (adm 0x45 9) 0x45 ∧ (s.lane 9).pend = none ∧ s.laneSt 9 = St.off ∧ s.startRefused 9 = false ∧
    (after (.laneStart 0 (adm 0x45 9)) s).laneSt 9 = St.init ∧ ((after (.laneStart 0 (adm 0x45 9)) s).pin 9).running = true := by decide +kernel

theorem test_lane_start_refused : let s := lane9 St.active 0 {}
    s.laneSt 9 ≠ St.off ∧ status (.laneStart 0 (adm 0x45 9)) s = 0x30 := by decide +kernel

theorem test_lane_stop : let s := (lane9 St.active 0 {}).setF (F.LANE_ECNT.TEC 9) 5
    Taken s 0 (adm 0x46 9) 0x46 ∧ (s.lane 9).att = none ∧ s.laneSt 9 ≠ St.off := by decide +kernel

/-- An attempt of lane 9 for entry 3 of bus 9. -/
def att9 : Attempt := ⟨9, 3, ⟨1, 2⟩, false⟩

theorem test_lane_stop_waits : let s := lane9 St.active 0 { att := some att9 }
    (s.lane 9).att.isSome = true ∧ ((after (.laneStop 0 ⟨adm 0x46 9, none⟩) s).lane 9).pend = some ⟨.stop, some ⟨0, 0x77⟩⟩ ∧
    ((after (.laneSuspend 0 (adm 0x47 9)) s).lane 9).pend = some ⟨.suspend, some ⟨0, 0x77⟩⟩ := by decide +kernel

/-- Lane 9 receives a frame that cut through to bus 12. -/
def past9 : CtRx := ⟨0, 0, 12, 3, 4, none⟩

theorem test_lane_stop_past : let s := lane9 St.active 0 { att := some att9, ct := some past9 }
    ((after (.laneStop 0 ⟨adm 0x46 9, some ⟨.cb, 1, false, false, false, false, 0, 0, 0, 0, []⟩⟩) s).lane 9).ct.map (fun x => x.checked.isSome) =
      some true ∧
    ((after (.laneStop 0 ⟨adm 0x46 9, none⟩) s).lane 9).ct = some past9 := by decide +kernel

theorem test_lane_stop_refused : status (.laneStop 0 ⟨adm 0x46 9, none⟩) (lane9 St.off 0 {}) = 0x30 := by decide +kernel

theorem test_lane_suspend : let s := lane9 St.restricted 0 {}
    s.laneSt 9 = St.restricted ∧ (after (.laneSuspend 0 (adm 0x47 9)) s).heldByHost 9 St.restricted := by decide +kernel

theorem test_lane_suspend_refused : let s := lane9 St.listen 0 {}
    s.laneSt 9 ≠ St.active ∧ s.laneSt 9 ≠ St.restricted ∧ status (.laneSuspend 0 (adm 0x47 9)) s = 0x30 := by decide +kernel

theorem test_lane_resume : let s := (lane9 St.hold Hc.host {}).setF (F.LANE_STATE.PREV_STATE 9) St.active
    s.heldByHost 9 St.active ∧ (after (.laneResume 0 (adm 0x48 9)) s).laneSt 9 = St.active := by decide +kernel

theorem test_lane_resume_listen : let s := lane9 St.listen 0 { listen91 := true }
    s.hostRet 9 = 0 ∧ (s.lane 9).listen91 = true ∧ (after (.laneResume 0 (adm 0x48 9)) s).laneSt 9 = opState (s.opmode 9) := by decide +kernel

theorem test_lane_resume_refused : let s := lane9 St.active 0 {}
    s.hostHold 9 = false ∧ ¬(s.laneSt 9 = St.listen ∧ (s.lane 9).listen91 = true) ∧ status (.laneResume 0 (adm 0x48 9)) s = 0x30 := by decide +kernel

theorem test_busoff_recover : let s := lane9 St.hold Hc.busoff {}
    s.isIn 9 St.hold Hc.busoff ∧ (after (.busoffRecover 0 (adm 0x49 9)) s).laneSt 9 = St.recovery := by decide +kernel

theorem test_busoff_recover_refused : let s := lane9 St.active 0 {}
    ¬ s.isIn 9 St.hold Hc.busoff ∧ status (.busoffRecover 0 (adm 0x49 9)) s = 0x30 := by decide +kernel

theorem test_bus_bind : let s := (lane9 St.active 0 {}).setB (F.LANE_RATE.SEEK_BIND 9) false
    s.fb (F.LANE_RATE.SEEK_BIND 9) = false ∧ (after (.busBind 0 ⟨adm 0x4A 0x709, none⟩) s).f (F.LANE_TS_MODE.TB 9) = 7 := by decide +kernel

theorem test_bus_bind_seeks : let s := (lane9 St.active 0 {}).setB (F.LANE_RATE.SEEK_BIND 9) true
    (after (.busBind 0 ⟨adm 0x4A 0x709, none⟩) s).laneSt 9 = St.seek ∧
    (((after (.busBind 0 ⟨adm 0x4A 0x709, none⟩) s).lane 9).seek.map Seek.cause) = some .bind := by decide +kernel

theorem test_bus_bind_waits :
    let s := ((lane9 St.active 0 { att := some att9 }).setBus 9 [entry5 true]).setB (F.LANE_RATE.SEEK_BIND 9) true
    let t := after (.busBind 0 ⟨adm 0x4A 0x709, none⟩) s
    (t.lane 9).att = some att9 ∧ (t.lane 9).pend = some ⟨.bind 7, some ⟨0, 0x77⟩⟩ ∧ t.laneSt 9 = St.active ∧
    (after (.arbLost 9) t).laneSt 9 = St.seek ∧ (after (.arbLost 9) t).f (F.LANE_TS_MODE.TB 9) = 7 ∧
    ((after (.arbLost 9) t).bus 9).map Entry.inFlight = [false] := by decide +kernel

theorem test_lane_command_held : let s := lane9 St.active 0 { pend := some ⟨.stop, none⟩ }
    (s.lane 9).pend.isSome = true ∧ (after (.laneStart 0 (adm 0x45 9)) s).held = [⟨0, adm 0x45 9⟩] := by decide +kernel

theorem test_integration : let s := lane9 St.init 0 {}
    (s.lane 9).settle = none ∧ (after (.integrationComplete 9) s).laneSt 9 = opState (s.opmode 9) := by decide +kernel

theorem test_integration_seeks : let s := (lane9 St.init 0 {}).setB (F.LANE_RATE.SEEK_START 9) true
    (after (.integrationComplete 9) s).laneSt 9 = St.seek := by decide +kernel

theorem test_rejoin : let s := lane9 St.active 0 { waitIdle := true, seek := some { cause := .bind, dwell := 1, timeout := 2 } }
    ((after (.rejoinAfterIdle 9) s).lane 9).waitIdle = false ∧ (((after (.rejoinAfterIdle 9) s).lane 9).seek.map Seek.ready) = some true := by decide +kernel

theorem test_recovery : let s := (lane9 St.recovery 0 {}).setF (F.LANE_ECNT.TEC 9) 256
    (s.lane 9).seekDue = false ∧ s.hostRet 9 = 0 ∧ (after (.recoveryComplete 9) s).laneSt 9 = St.active ∧
    (after (.recoveryComplete 9) s).tec 9 = 0 := by decide +kernel

theorem test_recovery_else : let s := lane9 St.recovery 0 { seekDue := true }
    let t := (lane9 St.recovery 0 {}).setHostRet 9 St.active
    (after (.recoveryComplete 9) s).laneSt 9 = St.seek ∧ (after (.recoveryComplete 9) t).heldByHost 9 St.active := by decide +kernel

theorem test_bo_count : let s := lane9 St.active 0 { busoffs := [0, 1, 2, 3, 4] }
    (after (.boCountAge 9) s).f (F.LANE_RATE.BO_COUNT 9) = 3 := by decide +kernel

/-- An error in a reception. -/
def rxe : RxErr := ⟨.stuff, 0, 0, 0, none, false, false, 0, ⟨0, 0, 0⟩, false⟩

theorem test_stuck : let s := lane9 St.active 0 {}
    s.detectsStuck 9 = true ∧ (after (.stuckDominant 9 ⟨rxe, false, none⟩) s).isIn 9 St.hold Hc.stuck ∧
    (after (.stuckDominant 9 ⟨rxe, false, none⟩) s).f (F.LANE_STATE.PREV_STATE 9) = St.active := by decide +kernel

theorem test_stuck_dark : (after (.stuckDominant 9 ⟨rxe, true, none⟩) (lane9 St.active 0 {})).dark 9 = true ∧
    (after (.stuckDominant 9 ⟨rxe, true, none⟩) (lane9 St.active 0 {})).dark 0 = true ∧
    (after (.stuckDominant 9 ⟨rxe, true, none⟩) (lane9 St.active 0 {})).dark 16 = false ∧
    (after (.stuckDominant 9 ⟨rxe, false, none⟩) (lane9 St.active 0 {})).dark 9 = false := by decide +kernel

theorem test_settle_standby : let s := lane9 St.hold Hc.stuck { settle := some 0, stuck := .standby }
    ((after (.lctlSettleExpiry 9) s).lane 9).stuck = .window := by decide +kernel

theorem test_settle_normal : let s := lane9 St.hold Hc.stuck { settle := some 0, stuck := .normal }
    ((after (.lctlSettleExpiry 9) s).lane 9).stuck = .external ∧ (after (.lctlSettleExpiry 9) s).fb (F.LANE_STATE.STUCK_EXT 9) = true := by decide +kernel

theorem test_settle_none : let s := lane9 St.init 0 { settle := some 0 }
    ((after (.lctlSettleExpiry 9) s).lane 9).settle = none ∧ (after (.lctlSettleExpiry 9) s).regs = s.regs := by decide +kernel

theorem test_self_test : let s := lane9 St.hold Hc.stuck { stuck := .window, window := 0 }
    (s.lane 9).stuck = .window ∧ ((after (.selfTestWindowEnd 9) s).lane 9).stuck = .normal := by decide +kernel

theorem test_fault_end : let s := (lane9 St.hold Hc.stuck { stuck := .external }).setF (F.LANE_STATE.PREV_STATE 9) St.active
    (after (.stuckFaultEnd 9) s).laneSt 9 = St.active := by decide +kernel

theorem test_fault_end_else : let s := (lane9 St.hold Hc.stuck { stuck := .external }).setF (F.LANE_STATE.PREV_STATE 9) St.init
    let t := ((lane9 St.hold Hc.stuck { stuck := .external }).setPrev 9 St.hold Hc.host).setHostRet 9 St.active
    (after (.stuckFaultEnd 9) s).laneSt 9 = opState (s.opmode 9) ∧ t.f (F.LANE_STATE.PREV_CAUSE 9) = Hc.host ∧
    (after (.stuckFaultEnd 9) t).heldByHost 9 St.active := by decide +kernel

/-! Seeks and timers. -/

/-- A seek in progress at candidate 1 of 3. -/
def seeking (k : Seek) : State :=
  ((lane9 St.seek 0 { seek := some k }).setF (F.LANE_RATE.NCAND 9) 3).setF (F.LANE_RATE.CUR_IDX 9) 1

/-- A seek for a binding, its candidate ready. -/
def seekB : Seek := { cause := .bind, ready := true, dwell := 0, timeout := 0 }

/-- A base data frame. -/
def fr1 : Frame := ⟨.cb, 0x123, false, false, false, false, 0, 0, 0, 2, [1, 2]⟩

theorem test_seek_error : (after (.seekFrameEnd 9 fr1 false) (seeking seekB)).f (F.LANE_RATE.CUR_IDX 9) = 2 ∧
    (after (.seekDwellExpiry 9) (seeking seekB)).f (F.LANE_RATE.CUR_IDX 9) = 2 := by decide +kernel

theorem test_seek_last : let s := (seeking seekB).setF (F.LANE_RATE.CUR_IDX 9) 3
    (after (.seekFrameEnd 9 fr1 false) s).f (F.LANE_RATE.CUR_IDX 9) = 0 := by decide +kernel

theorem test_seek_first : (((after (.seekFrameEnd 9 fr1 true) (seeking seekB)).lane 9).seek.map Seek.count) = some 1 := by decide +kernel

theorem test_seek_second : let s := seeking { seekB with count := 1 }
    s.groupDiffers 9 1 = false ∧ (after (.seekFrameEnd 9 fr1 true) s).fb (F.LANE_RATE.DECLARED 9) = true ∧
    (after (.seekFrameEnd 9 fr1 true) s).f (F.LANE_RATE.DECL_IDX 9) = 1 := by decide +kernel

theorem test_seek_timeout : (after (.seekTimeout 9) (seeking seekB)).fb (F.LANE_RATE.TIMED_OUT 9) = true ∧
    (((after (.seekTimeout 9) (seeking seekB)).lane 9).seek.map Seek.timedOut) = some true := by decide +kernel

theorem test_seek_timeout_again : let s := seeking { seekB with timedOut := true }
    (after (.seekTimeout 9) s).regs = s.regs ∧
    (((after (.seekTimeout 9) s).lane 9).seek.map Seek.timeout) = some (s.f (F.LANE_RATE.TIMEOUT 9) * 320000) := by decide +kernel

theorem test_seek_timeout_group : let s := seeking { seekB with group := true }
    s.rateGroup 9 1 = [0, 1, 2, 3] ∧ (after (.seekTimeout 9) s).fb (F.LANE_RATE.DATA_UNVERIFIED 9) = true ∧
    (after (.seekTimeout 9) s).fb (F.LANE_RATE.DECLARED 9) = true ∧
    (after (.seekTimeout 9) s).f (F.LANE_RATE.DECL_IDX 9) = 0 := by decide +kernel

theorem test_declared_start : let s := seeking { seekB with cause := .start, declared := some 1 }
    s.laneSt 9 = St.seek ∧ s.hostRet 9 = 0 ∧ (after (.declaredTimingApply 9) s).laneSt 9 = opState (s.opmode 9) := by decide +kernel

theorem test_declared_same : let s := seeking { seekB with declared := some 1 }
    let t := ((s.setReg (rcandOff 9 1) (s.reg (nbtOff 9))).setReg (rcandOff 9 1 + 4) (s.reg (dbtFdOff 9))).setReg (rcandOff 9 1 + 8) (s.reg (dbtXlOff 9))
    t.candBits 9 1 = t.forceBits 9 ∧ (after (.declaredTimingApply 9) t).laneSt 9 = opState (s.opmode 9) := by decide +kernel

theorem test_declared_differs : let s := (seeking { seekB with declared := some 1 }).setReg (rcandOff 9 1) 0x00010203
    s.candBits 9 1 ≠ s.forceBits 9 ∧ s.fb (F.LANE_RATE.ADOPT 9) = false ∧
    (after (.declaredTimingApply 9) s).isIn 9 St.listen Hc.none ∧ (after (.declaredTimingApply 9) s).fb (F.LANE_RATE.MISMATCH 9) = true := by decide +kernel

theorem test_guard : let s := ((lane9 St.active 0 { guards := [(4, { count := 2, due := some ⟨none, 0⟩ })] }).setF (F.LANE_RGUARD.MAXCNT 9 4) 1).setB (F.LANE_RGUARD.QUARANTINED 9 4) true
    s.ranOut ⟨none, 0⟩ = true ∧ s.f (F.LANE_RGUARD.MAXCNT 9 4) < 2 ∧
    (after (.guardWindowEnd 9 4) s).fb (F.LANE_RGUARD.QUARANTINED 9 4) = true ∧
    (after (.quarantineLift 0 9 4) s).fb (F.LANE_RGUARD.QUARANTINED 9 4) = false := by decide +kernel

theorem test_guard_next : let t := lane9 St.active 0 { guards := [(4, { next := 1, due := some ⟨none, 0⟩ })] }
    let s := (t.setF (F.LANE_RGUARD.MAXCNT 9 4) 1).setB (F.LANE_RGUARD.QUARANTINED 9 4) true
    (Tab.get (fun _ => {}) ((after (.guardWindowEnd 9 4) s).lane 9).guards 4).count = 1 ∧
    (after (.guardWindowEnd 9 4) s).fb (F.LANE_RGUARD.QUARANTINED 9 4) = false := by decide +kernel

theorem test_vlog_clear : let s := (io.setReg (vlogOff 9 0) 7).setF (F.LANE_VLOG.COUNT 9) 5
    s.hostOpen 0 = true ∧ (after (.vlogClear 0 9) s).f (F.LANE_VLOG.COUNT 9) = 0 ∧ (after (.vlogClear 0 9) s).reg (vlogOff 9 0) = 0 := by decide +kernel

theorem test_hold_expiry : let s := ((lane9 St.hold Hc.busoff { hold := some ⟨none, 0⟩ }).setB (F.LANE_HOLD.HELD 9) true).withNow 1
    s.overrun? (s.lane 9).hold = true ∧ (after (.holdExpiry 9) s).fb (F.LANE_HOLD.EXPIRED 9) = true ∧
    ((after (.holdExpiry 9) s).lane 9).holdOver = true := by decide +kernel

theorem test_hold_expiry_lt : let s := (lane9 St.hold Hc.busoff { hold := some ⟨none, 0⟩ }).setB (F.LANE_HOLD.HELD 9) true
    s.ranOut? (s.lane 9).hold = true ∧ s.overrun? (s.lane 9).hold = false ∧ after (.holdExpiry 9) s = s := by decide +kernel

theorem test_dup_expiry : let s := io.setLane 8 { open_ := [⟨.cb, 1, false, 0, 0, false, 0, 0, 0, 0, ⟨none, 0⟩⟩] }
    s.ranOut ⟨none, 0⟩ = true ∧ ((after (.dupEntryExpiry ⟨8, none⟩) s).lane 8).open_ = [] ∧
    (after (.dupEntryExpiry ⟨8, none⟩) s).f (F.LANE_PAIRRX.SINGLE_A 8) = 1 := by decide +kernel

theorem test_dup_stays : let e : OpenEnt := ⟨.cb, 1, false, 0, 0, false, 0, 0, 0, 0, ⟨none, 0⟩⟩
    let s := (io.setLane 8 { open_ := [e] }).setF (F.LANE_PAIRCFG.DUP_WIN 8) 5
    s.ranOut e.due = true ∧ s.staysOpen 8 (some 9) e = true ∧ s.staysOpen 8 none e = false ∧
    after (.dupEntryExpiry ⟨8, some 9⟩) s = s := by decide +kernel

/-! Attempts and errors. -/

/-- Entry 3 waits on bus 9 and lane 9 may start it. -/
def ready9 : State := (lane9 St.active 0 {}).setBus 9 [entry5 false]

theorem test_sof : ready9.canStart 9 none = true ∧ ready9.offerable 9 (entry5 false) = true ∧ ready9.busOf 9 = 9 ∧
    ready9.lbPoisoned 9 = false ∧ (((after (.txSof 9 none) ready9).bus 9).map Entry.attempts) = [1] ∧
    (((after (.txSof 9 none) ready9).lane 9).att.map Attempt.ent) = some 3 := by decide +kernel

theorem test_sof_none : let s := lane9 St.active 0 {}
    s.canStart 9 none = true ∧ s.bus 9 = [] ∧ after (.txSof 9 none) s = s := by decide +kernel

theorem test_sof_esi : let e : Entry := { entry5 false with fr := { (entry5 false).fr with fmt := .fb } }
    let s := ((lane9 St.active 0 {}).setBus 9 [e]).setF (F.LANE_STATE.ESTATE 9) 1
    s.estate 9 = 1 ∧ s.canStart 9 none = true ∧ s.offerable 9 e = true ∧
    (((after (.txSof 9 none) s).lane 9).att.map Attempt.esi) = some true ∧
    (((after (.txSof 9 none) (s.setF (F.LANE_STATE.ESTATE 9) 0)).lane 9).att.map Attempt.esi) = some false := by decide +kernel

theorem test_sof_too_late : let s := ready9.withNow 100
    s.ranOut? (entry5 false).deadline = true ∧ (after (.txSof 9 none) s).bus 9 = [] ∧
    ((after (.txSof 9 none) s).lane 9).att = none := by decide +kernel

/-- Lane 9 sends an entry. -/
def sending (e : Entry) : State :=
  let s := (lane9 St.active 0 { att := some att9 }).setBus 9 [e]
  s.setCq 5 { owner := some 0, backed := true, base := 0x10000, size := 4, reserved := 1 }

theorem test_arb_lost : let s := sending (entry5 true)
    (s.lane 9).att = some att9 ∧ s.entry 9 3 = some (entry5 true) ∧ s.killPending att9 = false ∧
    ((after (.arbLost 9) s).lane 9).att = none ∧ (((after (.arbLost 9) s).bus 9).map Entry.inFlight) = [false] := by decide +kernel

theorem test_arb_lost_one_shot : let s := sending { entry5 true with oneShot := true }
    (after (.arbLost 9) s).bus 9 = [] ∧ bitsOf ((after (.arbLost 9) s).hostWord 0 0x10000) 0 8 = 0x10 := by decide +kernel

theorem test_tx_success : let s := (sending (entry5 true)).setF (F.LANE_ECNT.TEC 9) 9
    (after (.txSuccess 9 none) s).tec 9 = 8 ∧ (after (.txSuccess 9 none) s).bus 9 = [] ∧
    (after (.txSuccess 9 none) s).hostWord 0 0x1001C = 0x55 := by decide +kernel

/-- Bus 8 is a pair; both copies of entry 3 are in flight. -/
def pairSend : State :=
  let e : Entry := { entry5 true with sel := [8, 9], copies := [{ lane := 8, inFlight := true }, { lane := 9, inFlight := true }] }
  let s := ((lane9 St.active 0 {}).setF (F.QUAD_CTRL.MODE 2) 2).setF (F.LANE_STATE.STATE 8) St.active
  ((s.setBus 8 [e]).setLane 8 { att := some ⟨8, 3, ⟨1, 2⟩, false⟩ }).setCq 5 { owner := some 0, backed := true, base := 0x10000, size := 4, reserved := 1 }

theorem test_pair_success : pairSend.busOf 8 = 8 ∧ pairSend.trailsOn 8 9 = [] ∧
    (((after (.txSuccess 8 none) pairSend).bus 8).map Entry.done) = [true] ∧
    (after (.txSuccess 8 none) pairSend).hostWord 0 0x1001C = 0x55 := by decide +kernel

/-- A bit error in the data, with a bit error in the lane's own flag and one dominant run after it. -/
def txe : TxErr := ⟨.bit, 0, 0, 0, true, false, false, [(2, 0)], 1, none⟩

theorem test_tx_error : let s := sending (entry5 true)
    (after (.txError 9 txe) s).tec 9 = 24 ∧ (((after (.txError 9 txe) s).bus 9).map Entry.inFlight) = [false] ∧
    ((after (.txError 9 txe) s).lane 9).att = none := by decide +kernel

theorem test_tx_error_busoff : let s := (sending (entry5 true)).setF (F.LANE_ECNT.TEC 9) 248
    s.estate 9 ≠ 2 ∧ (after (.txError 9 txe) s).tec 9 = 256 ∧ (after (.txError 9 txe) s).estate 9 = 2 ∧
    (after (.txError 9 txe) s).laneSt 9 = St.recovery := by decide +kernel

theorem test_rx_error : let s := lane9 St.active 0 {}
    s.hears 9 = true ∧ s.signals 9 = true ∧ (after (.rxError 9 { rxe with ownFlag := true, firstDom := true, domRuns := 2 }) s).recCnt 9 = 32 ∧
    (after (.rxError 9 rxe) s).f (F.LANE_ETALLY.RX_ERR 9) = 1 := by decide +kernel

theorem test_rx_error_silent : let s := lane9 St.listen 0 {}
    s.hears 9 = true ∧ s.signals 9 = false ∧ (after (.rxError 9 rxe) s).recCnt 9 = 0 ∧ ((after (.rxError 9 rxe) s).lane 9).waitIdle = true := by decide +kernel

theorem test_protocol_exception : let s := (lane9 St.active 0 {}).setB (F.LANE_MODE.PEX 9) true
    s.hears 9 = true ∧ ((after (.protocolException 9 rxe) s).lane 9).waitIdle = true ∧
    (after (.protocolException 9 rxe) s).f (F.LANE_ETALLY.RX_ERR 9) = 0 := by decide +kernel

theorem test_overload : let s := lane9 St.active 0 {}
    s.receives 9 = true ∧ (after (.overloadFrame 9 ⟨true, true, true, [(1, 0)], 1⟩) s).tec 9 = 16 ∧
    (after (.overloadFrame 9 ⟨true, true, false, [(1, 0)], 1⟩) s).recCnt 9 = 16 ∧
    (after (.overloadFrame 9 ⟨false, true, false, [], 0⟩) s).f (F.LANE_ETALLY.OVLD_RX 9) = 1 := by decide +kernel

theorem test_overload_unheard : let s := lane9 St.active 0 { waitIdle := true }
    s.hears 9 = false ∧ after (.overloadFrame 9 ⟨true, true, true, [(1, 0)], 1⟩) s = s := by decide +kernel

/-- A cut-through entry with a kill. -/
def killed (fly : Bool) : Entry :=
  { id := 3, src := .routed 0, fr := fr1, sel := [9], copies := [{ lane := 9, inFlight := fly }], ct := some ⟨0, 0, 8, false, [], true⟩ }

/-- Lane 9 with a cut-through entry whose kill has arrived. -/
def killedOn (fly : Bool) : State := (lane9 St.active 0 { att := if fly then some att9 else none }).setBus 9 [killed fly]

theorem test_kill_waiting : let s := killedOn false
    (s.bus 9).map Entry.id = [3] ∧ ((killed false).ct.map CtTx.kill) = some true ∧ ((killed false).copyOn 9).map Copy.xlKill = some false ∧
    (s.lane 9).att = none ∧ (after (.ctKillArrival ⟨9, false, none, [], 0⟩) s).bus 9 = [] := by decide +kernel

theorem test_kill_in_flight : let s := killedOn true
    (s.lane 9).att = some att9 ∧ att9.ent = (killed true).id ∧ (s.lane 9).pend = none ∧
    ((after (.ctKillArrival ⟨9, false, none, [], 0⟩) s).lane 9).att = none ∧ (after (.ctKillArrival ⟨9, false, none, [], 0⟩) s).tec 9 = 8 := by decide +kernel

theorem test_kill_in_arbitration : after (.ctKillArrival ⟨9, true, none, [], 0⟩) (killedOn true) = killedOn true := by decide +kernel

/-- An XL attempt goes on under the kill. -/
def xlKilled : State :=
  (lane9 St.active 0 { att := some att9 }).setBus 9 [{ killed true with
    fr := ⟨.xl, 0x123, false, false, false, false, 0, 0, 0, 2, [1, 2]⟩, copies := [{ lane := 9, inFlight := true, xlKill := true }] }]

theorem test_xl_kill_error : xlKilled.killPending att9 = true ∧ (after (.txError 9 { txe with ty := .ack }) xlKilled).tec 9 = 0 ∧
    (after (.txError 9 { txe with ty := .ack }) xlKilled).bus 9 = [] ∧
    (after (.txError 9 txe) xlKilled).tec 9 = 8 ∧ (after (.txError 9 txe) xlKilled).f (F.LANE_ETALLY.TX_ERR 9) = 1 := by decide +kernel

theorem test_line_buffer_error : let s := (sending (entry5 true)).withPoison [(777, 0)]
    (s.bus 9 = [entry5 true]) ∧ (entry5 true).ct = none ∧ s.lbPoisoned 9 = true ∧
    (after (.ctKillArrival ⟨9, false, none, [], 0⟩) s).tec 9 = 8 ∧ ((after (.ctKillArrival ⟨9, false, none, [], 0⟩) s).lane 9).att = none ∧
    (((after (.ctKillArrival ⟨9, false, none, [], 0⟩) s).bus 9).filter fun e => (e.copyOn 9).isSome) = [] := by decide +kernel

/-! Received frames. -/

/-- A filter decision with an action and an argument. -/
def dec9 (action arg : Nat) : Decision := ⟨action, arg, false, 0, false, 0, false, true, false, none, none⟩

/-- Lane 9 hears a frame of which its filter has decided. -/
def heard9 (d : Option Decision) : State := lane9 St.active 0 { dec := d }


/-- A valid frame of lane 9 that no guard matches. -/
abbrev Clear (s : State) : Prop :=
  s.hears 9 = true ∧ s.fmtOn 9 .cb = true ∧ s.lbPoisoned 9 = false ∧ (∀ g < 16, s.guardMatches 9 g fr1 = false) ∧ (s.lane 9).ct = none

/-- A valid frame with a decision, neither metered nor recorded. -/
abbrev Judged (s : State) (d : Decision) : Prop :=
  Clear s ∧ s.isPair (s.busOf 9) = false ∧ s.mor.capture = false ∧ (s.lane 9).dec = some d ∧ d.looked = none ∧
  d.custom = false ∧ d.late = false ∧ s.fb (F.FIRN_IPOL.EN (s.busOf 9)) = false

theorem test_valid : let s := (heard9 none).setF (F.LANE_ECNT.REC 9) 130
    Clear s ∧ (s.lane 9).dec = none ∧ s.isPair (s.busOf 9) = false ∧ s.signals 9 = true ∧
    (after (.frameValid 9 fr1 ⟨0, 0, 0⟩ ()) s).recCnt 9 = 120 ∧
    ((after (.frameValid 9 fr1 ⟨0, 0, 0⟩ ()) s).lane 9).wait.length = 1 ∧ (after (.frameValid 9 fr1 ⟨0, 0, 0⟩ ()) s).f (F.LANE_FLTCNT.LATE 9) = 1 := by
  decide +kernel

theorem test_quarantined : let s := (((heard9 none).setF (F.LANE_RGUARD.KIND 9 3) 1).setF (F.LANE_RGUARD.ID 9 3) 0x123).setB (F.LANE_RGUARD.QUARANTINED 9 3) true
    s.hears 9 = true ∧ s.guardMatches 9 3 fr1 = true ∧ (after (.frameValid 9 fr1 ⟨0, 0, 0⟩ ()) s).f (F.LANE_ETALLY.RG_DROP 9) = 1 := by decide +kernel

theorem test_reject : let s := heard9 (some (dec9 3 0))
    Judged s (dec9 3 0) ∧ (after (.frameValid 9 fr1 ⟨0, 0, 0⟩ ()) s).f (F.LANE_FLTCNT.REJECTED 9) = 1 := by decide +kernel

/-- Object 5 of quad 2 is an enabled receive object of lane 9, bound to no key. -/
def rxObj : State := (heard9 (some (dec9 1 5))).wr32 (objAddr 2 5 0) 0x90000000

theorem test_object : Judged rxObj (dec9 1 5) ∧ (rxObj.objWord 2 5 0).getLsbD 31 = true ∧ (rxObj.objWord 2 5 0).getLsbD 30 = false ∧
    rxObj.objBus 2 5 = 9 ∧ (rxObj.obj (objIx 2 5)).lock = none ∧
    (after (.frameValid 9 fr1 ⟨0, 0, 0⟩ ()) rxObj).objWord 2 5 8 = 0x0201 ∧ (after (.frameValid 9 fr1 ⟨0, 0, 0⟩ ()) rxObj).objWord 2 5 31 = 1 := by decide +kernel

theorem test_ring : let s := heard9 (some (dec9 0 5))
    Judged s (dec9 0 5) ∧ (dec9 0 5).colour = 0 ∧ (s.cq 5).home = some 0 ∧ s.heldOf 5 + cellsFor 2 ≤ s.f (F.FIRN_RQUOTA.QUOTA 5) ∧
    s.chg (4 * 36 + 2) + cellsFor 2 ≤ s.gLimit 36 2 ∧ s.fits 36 (cellsFor 2) = true ∧ (after (.frameValid 9 fr1 ⟨0, 0, 0⟩ ()) s).heldOf 5 = 1 := by decide +kernel

/-- The one element of the list of bus 9 admits every base frame, for CQ 5. -/
def listed (cached : Bool) : State :=
  let s := ((heard9 none).setF (F.LANE_FLTCFG.LIST_LEN 9) 1).setB (F.LANE_FLTCFG.CACHED 9) cached
  if cached then s.setCache 9 ⟨[⟨0x3F000005, 0, 0, 0x7FF⟩], []⟩
  else s.setRec4 (elemAddr ((heard9 none).halfBase 9 0)) ⟨0x3F000005, 0, 0, 0x7FF⟩

/-- What lane 9 decides of `fr1`. -/
def decided (s : State) : Option Nat :=
  ((after (.filterDecision 9 fr1 ⟨0, 0, 0⟩ false ⟨false, []⟩ ()) s).lane 9).dec.map Decision.arg

theorem test_decides : let s := listed true
    let x : Rec4 := ⟨0x3F000005, 0, 0, 0x7FF⟩
    s.hears 9 = true ∧ s.fmtOn 9 .cb = true ∧ (s.lane 9).hold = none ∧ (s.lane 9).wait = [] ∧ (s.lane 9).dec = none ∧
    s.fb (F.LANE_FLTCFG.SORTED 9) = false ∧ ((s.fltList 9).elems).head? = some (some x) ∧ elemKind x ≠ 7 ∧ elemAction x ≠ 5 ∧
    elemTest x fr1 = true ∧ elemAdmits x fr1 = true ∧ decided s = some 5 := by decide +kernel

theorem test_decides_in_memory : ((listed false).fltList 9).elems = [some ⟨0x3F000005, 0, 0, 0x7FF⟩] ∧
    decided (listed false) = some 5 := by decide +kernel

theorem test_decides_unreadable :
    let s := ((listed false).withPoison [(256 * 6, 4 * (listed false).halfBase 9 0)]).setF (F.LANE_FLTCFG.DEF_ARG 9) 77
    (s.fltList 9).elems = [none] ∧ decided s = some 77 := by decide +kernel

theorem test_default : let s := (heard9 none).setF (F.LANE_FLTCFG.DEF_ARG 9) 77
    s.fmtOn 9 .cb = true ∧ (s.lane 9).wait = [] ∧ s.f (F.LANE_FLTCFG.LIST_LEN 9) = 0 ∧
    ((after (.filterDecision 9 fr1 ⟨0, 0, 0⟩ false ⟨false, []⟩ ()) s).lane 9).dec.map Decision.arg = some 77 := by decide +kernel

theorem test_duplicate : let s := lane9 St.active 0 { wait := [⟨fr1, ⟨0, 0⟩, true, 0, 0, none⟩] }
    (s.lane 9).wait = [⟨fr1, ⟨0, 0⟩, true, 0, 0, none⟩] ∧ ((after (.filterDecision 9 fr1 ⟨0, 0, 0⟩ false ⟨false, []⟩ ()) s).lane 9).wait = [] := by decide +kernel

theorem test_last_heard : let s := lane9 St.recovery 0 { boAt := some (0, none) }
    let t := lane9 St.recovery 0 {}
    s.fmtOn 9 .cb = true ∧ s.hears 9 = false ∧ s.lastHeard 9 = some none ∧ t.lastHeard 9 = none ∧
    ((after (.frameValid 9 fr1 ⟨0, 0, 0⟩ ()) s).lane 9).boAt = none ∧ after (.frameValid 9 fr1 ⟨0, 0, 0⟩ ()) t = t := by decide +kernel

/-! Col and Firn. -/

/-- A route decision for entry 7. -/
def routed9 : Decision := ⟨2, 7, false, 0, false, 0, false, true, false, none, none⟩

/-- An FD frame of 64 bytes. -/
def fr64 : Frame := ⟨.fb, 0x123, false, true, false, false, 0, 0, 0, 64, List.replicate 64 9⟩

/-- Route 7 is a bus route with cut-through to bus 12; lane 9 receives a frame decided for it. -/
def cutThrough (st : Nat) : State := (((heard9 (some routed9)).setF F.COL_CTRL.CT_MIN 64).wr32 (routeWord 7 0) 0x4200000C).setF (F.LANE_STATE.STATE 12) st

/-- The frame is considered for cut-through. -/
abbrev Considered (s : State) : Prop :=
  s.hears 9 = true ∧ (s.lane 9).dec = some routed9 ∧ routed9.action = 2 ∧ routed9.cachedWalk = true ∧ routed9.looked = none ∧
  (s.lane 9).ct = none ∧ rtType (s.routeEnt 7) = 1 ∧ rtCtEn (s.routeEnt 7) = true ∧ fr64.fmt.fd = true ∧
  s.fb (F.FIRN_IPOL.EN 9) = false ∧ rtPol (s.routeEnt 7) = false ∧ rtKind (s.routeEnt 7) = 0 ∧ s.isBus 12 = true ∧
  rtDest (s.routeEnt 7) % 128 = 12 ∧ s.busOf 9 = 9

theorem test_ct_fails : Considered (cutThrough St.off) ∧ (cutThrough St.off).ctAllowed 9 12 fr64 ((cutThrough St.off).routeEnt 7) = false ∧
    (after (.cutThroughLookup 9 fr64 false) (cutThrough St.off)).f F.COL_CTSTAT.CT_CLAMPED = 1 := by decide +kernel

theorem test_ct : let s := cutThrough St.active
    Considered s ∧ s.ctAllowed 9 12 fr64 (s.routeEnt 7) = true ∧
    s.chg (4 * 3 + rtTc (s.routeEnt 7)) + cellsFor 64 ≤ s.gLimit 3 (rtTc (s.routeEnt 7)) ∧ s.fits 3 (cellsFor 64) = true ∧
    (((after (.cutThroughLookup 9 fr64 false) s).bus 12).map Entry.id) = [0] := by decide +kernel

theorem test_kill_window : let s := ((host.setEng 32 { stopped := false }).setKillsOf 7 1000).withKillDue (some 0)
    s.killDue = some 0 ∧ s.engUp 32 = true ∧ s.kills = [(7, 1000)] ∧ s.f F.COL_CTRL.CT_KILL_LIMIT < 1000 ∧
    (after .ctKillWindowEnd s).rd32 (routeWord 7 3) = 0x80000000 := by decide +kernel

/-- Input 6 holds a frame of two cells for port 36. -/
def crossing (left : Nat) : State := io.setVoq ((6 * 40 + 36) * 4 + 2) [⟨0, left, 2, .rings [(5, rxItem 8)]⟩]

theorem test_slot_idle : io.voqs = [] ∧ io.ctqs = [] ∧ after .colSlot io = io := by decide +kernel

theorem test_slot : (crossing 2).voqs = [((6 * 40 + 36) * 4 + 2, [⟨0, 2, 2, .rings [(5, rxItem 8)]⟩])] ∧ (crossing 2).ctqs = [] ∧
    ((after .colSlot (crossing 2)).voq ((6 * 40 + 36) * 4 + 2)).map VoqItem.left = [1] := by decide +kernel

theorem test_slot_last : ((crossing 1).cq 5).home = some 0 ∧ (after .colSlot (crossing 1)).voqs = [] ∧
    ((after .colSlot (crossing 1)).cq 5).held = [rxItem 8] := by decide +kernel

theorem test_slot_order : let s := (crossing 1).modCq 5 fun c => { c with held := [{ rxItem 8 with seq := 2 }] }
    ((after .colSlot s).cq 5).held.map RxItem.seq = [0, 2] := by decide +kernel

theorem test_slot_eth : let g : Egress := { tc := 2, fid := some 0, deadline := none, mark := .none, attempts := 0, kind := .other [] }
    let s := io.setVoq ((6 * 40 + 33) * 4 + 2) [⟨0, 1, 2, .eth [g]⟩]
    s.ctqs = [] ∧ s.ethShut 1 g = false ∧ ((after .colSlot s).eth 1).queue = [g] := by decide +kernel

/-- Cell 9, which the sweep has come to, is counted and held by no frame; two passes have gone. -/
def leaking (seen : Option (Nat × Nat)) : State := (((io.withSweepAt 9).setB F.FIRN_CTRL.SWEEP_EN true).setF F.FIRN_SWEEP.PASS 2).setCell 9 { cnt := 1, free := false, seen := seen }

theorem test_sweep_clean : let s := (leaking none).setCell 9 { seen := some (1, 1) }
    s.fb F.FIRN_CTRL.SWEEP_EN = true ∧ (s.cell 9).touched ≠ some 2 ∧ leakKind (s.cell 9) (s.holdsOf 9) = none ∧
    ((after (.sweepCompare 9) s).cell 9).seen = none := by decide +kernel

theorem test_sweep_notes : let s := leaking none
    leakKind (s.cell 9) (s.holdsOf 9) = some 1 ∧ (s.cell 9).seen ≠ some (1, 1) ∧ ((after (.sweepCompare 9) s).cell 9).seen = some (1, 2) := by decide +kernel

theorem test_sweep_leak : let s := (leaking (some (1, 1))).setB F.FIRN_CTRL.AUTO_RECLAIM true
    (s.cell 9).seen = some (1, 2 - 1) ∧ (after (.sweepCompare 9) s).f F.FIRN_SWEEP.LEAKS = 1 ∧ ((after (.sweepCompare 9) s).cell 9).free = true := by decide +kernel

theorem test_sweep_wraps : let s := (leaking (some (1, 4194303))).setF F.FIRN_SWEEP.PASS 0
    (s.cell 9).seen = some (1, 4194303) ∧ (after (.sweepCompare 9) s).f F.FIRN_SWEEP.LEAKS = 1 ∧
    after (.sweepCompare 8) s = s := by decide +kernel

/-! Loads of lists and tables. -/

/-- FLT_LOAD of `n` elements for bus 9. -/
def fltCmd (n w1 : Nat) : Words8 := desc 0x4D w1 0x1000 n

theorem test_flt_load : let s := heard9 none
    Taken s 0 (fltCmd 1 9) 0x4D ∧ s.clampBus 9 = 9 ∧ s.flt 9 = none ∧ s.fltOverlaps 9 = false ∧ ¬ 64 * (s.f (F.LANE_FLTCFG.FBLOCKS 9) + 1) < 1 ∧
    ((after (.fltLoad 0 (fltCmd 1 9)) s).flt 9).map FltLoad.count = some 1 := by decide +kernel

/-- A load in progress on bus 9. -/
def load9 (x : FltLoad) : State := (heard9 none).setFlt 9 (some x)

/-- One element, of a linear or a sorted list. -/
def one9 (sorted : Bool) : FltLoad := ⟨some ⟨0, 0x77⟩, 1, sorted, true, 0, 5, false, false, 0⟩

theorem test_flt_load_refused : status (.fltLoad 0 (fltCmd 32767 9)) (heard9 none) = 0x30 ∧ ((load9 (one9 false)).flt 9).isSome = true ∧
    status (.fltLoad 0 (fltCmd 1 9)) (load9 (one9 false)) = 0x31 := by decide +kernel

theorem test_flt_load_overlap : let s := (heard9 none).setF (F.LANE_FLTCFG.FBASE 9) 0
    s.fltOverlaps 9 = true ∧ status (.fltLoad 0 (fltCmd 1 9)) s = 0x30 := by decide +kernel

theorem test_flt_arrives : let s := load9 (one9 false)
    s.flt 9 = some (one9 false) ∧
    ((after (.fltLoadTransferDone 9 [⟨0x3F0F0000, 0, 1, 2⟩]) s).rd32 (elemAddr (s.halfBase 9 1))) = 0x3F030000 := by decide +kernel

theorem test_flt_form : let s := load9 (one9 true)
    sortedOk [(elemClamp ⟨0x40000000, 0, 1, 2⟩).1] = false ∧ s.flt 9 = some (one9 true) ∧
    (after (.fltLoadTransferDone 9 [⟨0x40000000, 0, 1, 2⟩]) s).flt 9 = none := by decide +kernel

theorem test_flt_commit : let s := load9 { one9 false with transferred := true, clamps := 2 }
    s.walkRuns 9 = false ∧ (after (.fltLoadCommit ⟨9, false⟩) s).f (F.LANE_FLTCFG.ACTIVE_HALF 9) = 1 ∧ (after (.fltLoadCommit ⟨9, false⟩) s).clampCount 0 = 2 ∧
    (after (.fltLoadCommit ⟨9, false⟩) s).f (F.LANE_FLTCFG.DEF_ARG 9) = 5 := by decide +kernel

theorem test_flt_commit_swaps : let x : Rec4 := ⟨0x3F000005, 0, 0, 0x7FF⟩
    let s := (((load9 { one9 false with transferred := true }).setCache 9 ⟨[], [x]⟩).setF (F.LANE_STATE.STATE 9) St.off).modLane 9 fun y =>
      { y with wait := [⟨fr1, ⟨0, 0⟩, false, 0, 0, none⟩] }
    s.walkRuns 9 = false ∧ (after (.fltLoadCommit ⟨9, false⟩) s).cache 9 = ⟨[x], []⟩ ∧
    (((after (.fltLoadCommit ⟨9, false⟩) s).lane 9).wait.map fun w => w.old.isSome) = [true] ∧
    after (.fltLoadCommit ⟨9, true⟩) s = s := by decide +kernel

theorem test_flt_broken : let s := load9 { one9 false with transferred := true, broken := true }
    status (.fltLoadCommit ⟨9, false⟩) s = 0x30 ∧ (after (.fltLoadCommit ⟨9, false⟩) (load9 (one9 false))) = load9 (one9 false) := by decide +kernel

/-- RT_LOAD or POL_LOAD of `n` entries from 7. -/
def runCmd (op n : Nat) : Words8 := desc op 7 0x1000 n

/-- A load of one item from `n`. -/
def run1 (n : Nat) (g : Bool) : RunLoad := ⟨⟨0, 0x77⟩, n, 1, g⟩

/-- SE0 runs. -/
def colUp : State := io.setEng 32 { stopped := false }

theorem test_rt_load : Taken colUp 0 (runCmd 0x4E 1) 0x4E ∧ colUp.rtLoad = none ∧
    (after (.rtLoad 0 (runCmd 0x4E 1)) colUp).rtLoad = some (run1 7 false |> fun r => { r with ref := ⟨0, 0x55⟩ }) ∧
    status (.rtLoad 0 { runCmd 0x4E 2 with w1 := 0xFFFF }) colUp = 0x30 ∧
    status (.rtLoad 0 (runCmd 0x4E 1)) (colUp.withRtLoad (some (run1 7 false))) = 0x31 := by decide +kernel

theorem test_pol_load : Taken colUp 0 (runCmd 0x4F 1) 0x4F ∧ colUp.polLoad = none ∧
    ((after (.polLoad 0 (runCmd 0x4F 1)) colUp).polLoad.map RunLoad.first) = some 7 ∧
    status (.polLoad 0 (runCmd 0x4F 4096)) colUp = 0x30 ∧
    status (.polLoad 0 (runCmd 0x4F 1)) (colUp.withPolLoad (some (run1 7 false))) = 0x31 := by decide +kernel

theorem test_rt_commit : let s := colUp.withRtLoad (some (run1 7 false))
    s.engUp 32 = true ∧ fieldOf (0x40200014#32) 30 2 = 1 ∧
    (after (.rtLoadCommit [⟨0x40200014, 0xFFFFFFFF, 0xFFFFFFFF, 9⟩]) s).rec4 (routeWord 7 0) = ⟨0x40000014, 0x1FFFFFFF, 0xFFF0FFFF, 0⟩ ∧
    (after (.rtLoadCommit [⟨0x40200014, 0, 0, 9⟩]) s).gen 7 = 1 := by decide +kernel

theorem test_group_commit : let s := colUp.withRtLoad (some (run1 7 true))
    (after (.rtLoadCommit [⟨0xFFFFFFFF, 0, 0, 0⟩]) s).reg (0x58000 + 4 * 7) = 0x803FFFFF := by decide +kernel

theorem test_pol_commit : let s := colUp.withPolLoad (some (run1 7 false))
    (after (.polLoadCommit [0]) s).f (F.FIRN_POL.PIR 7) = 1 ∧ (after (.polLoadCommit [0]) s).f (F.FIRN_POL.CBS 7) = 33 := by decide +kernel

/-! Objects. -/

/-- Object 5 of quad 2, its word 0 and its lock. -/
def objS (w0 : Word) (k : Option ObjLock) (h : Option Shadow) : State := (io.wr32 (objAddr 2 5 0) w0).setObj (objIx 2 5) { lock := k, shadow := h }

/-- A lock of function `f` with staged words. -/
def lock5 (f : Nat) (w0 : Word) (st : Tab Word) : ObjLock := { f := f, due := 0, words := w0 :: List.replicate 23 0, staged := st }

theorem test_lock : let s := objS 0x80000000 none none
    Sane s ∧ s.hostOpen 1 = true ∧ s.poisoned 2 2 (32 * 5) = false ∧ (s.obj (objIx 2 5)).lock = none ∧
    (((after (.objectWord0Read 1 2 5) s).obj (objIx 2 5)).lock.map ObjLock.f) = some 1 ∧
    (after (.objectWord0Read 1 2 5) s).readData = 0x800C0000 := ⟨sane_of_check (by decide), by decide +kernel⟩

theorem test_lock_busy : let s := objS 0x80000000 (some (lock5 0 0 [])) none
    Sane s ∧ (s.obj (objIx 2 5)).lock = some (lock5 0 0 []) ∧ (after (.objectWord0Read 1 2 5) s).readData = 0x800A0000 :=
  ⟨sane_of_check (by decide), by decide +kernel⟩

theorem test_stage : let s := objS 0 (some (lock5 0 0 [])) none
    Sane s ∧ (lock5 0 0 []).shut 3 = false ∧ ((after (.objectWrite 0 2 5 3 7 15) s).obj (objIx 2 5)).lock = some (lock5 0 0 [(3, 7)]) ∧
    ((after (.objectWrite 0 2 5 0 0x40000007 15) s).obj (objIx 2 5)).lock = some (lock5 0 0 [(0, 0x40000000)]) ∧
    (after (.objectWrite 0 2 5 3 7 15) s).objWord 2 5 3 = 0 := ⟨sane_of_check (by decide), by decide +kernel⟩

theorem test_stage_refused : let s := objS 0 (some (lock5 0 0 [])) none
    (lock5 0 0 []).shut 24 = true ∧ (after (.objectWrite 0 2 5 24 7 15) s).clampCount 0 = 1 ∧
    (after (.objectWrite 1 2 5 3 7 15) s).clampCount 1 = 1 ∧ (after (.objectWrite 0 2 5 3 7 3) s).clampCount 0 = 1 ∧
    (after (.objectWrite 0 2 5 3 7 15) (objS 0 none none)).clampCount 0 = 1 := by decide +kernel

/-- A frame that waits in the shadow. -/
def shadow5 : Shadow := ⟨fr1, ⟨5, 6⟩⟩

theorem test_release_shadow : let s := objS 0x80000000 (some (lock5 0 0 [])) (some shadow5)
    Sane s ∧ (s.obj (objIx 2 5)).shadow = some shadow5 ∧ s.poisoned 2 2 (32 * 5 + 31) = false ∧ (after (.objectRelease 0 2 5) s).objWord 2 5 8 = 0x0201 ∧
    (after (.objectRelease 0 2 5) s).objWord 2 5 31 = 1 ∧ (after (.objectRelease 0 2 5) s).readData = 0 ∧
    ((after (.objectRelease 0 2 5) s).obj (objIx 2 5)).lock = none := ⟨sane_of_check (by decide), by decide +kernel⟩

theorem test_release_none : let s := objS 0x80000000 none none
    (s.obj (objIx 2 5)).lock = none ∧ (after (.objectRelease 0 2 5) s).objs = s.objs := by decide +kernel

theorem test_lock_timeout : let s := objS 0x80000000 (some (lock5 0 0 [])) none
    (lock5 0 0 []).due ≤ s.now ∧ (after (.objLockTimeout 2 5) s).objWord 2 5 0 = 0x80100000 ∧
    ((after (.objLockTimeout 2 5) s).obj (objIx 2 5)).lock = none := by decide +kernel

theorem test_lock_not_over : let s := objS 0 (some { lock5 0 0 [] with due := 1 }) none
    s.now < 1 ∧ after (.objLockTimeout 2 5) s = s := by decide +kernel

theorem test_publish : let s := objS 0x40000000 (some (lock5 0 0x40000000 [(8, 7)])) none
    (s.objWord 2 5 0).getLsbD 30 = true ∧ (s.objWord 2 5 0).getLsbD 31 = false ∧ s.objEntry 2 5 = none ∧
    (after (.objectRelease 0 2 5) s).objWord 2 5 8 = 7 ∧ (after (.objectRelease 0 2 5) s).objWord 2 5 31 = 1 := by decide +kernel

theorem test_publish_legal : let t := after (.objectRelease 0 2 5) (objS 0x40000000 (some (lock5 0 0x40000000 [(8, 7)])) none)
    fieldOf (t.objWord 2 5 1) 29 3 = 1 ∧ fieldOf (t.objWord 2 5 6) 12 20 = 100 := by decide +kernel

/-- An enabled send object of lane 9, in operation. -/
def sendObj (k : Option ObjLock) (x : Option Timer) : State :=
  ((objS 0xD0000000 k none).modObj (objIx 2 5) fun y => { y with next := x }).setF (F.LANE_STATE.STATE 9) St.active

theorem test_tx_req : let s := sendObj (some (lock5 0 0xD0000000 [(0, 0xD1000000)])) none
    s.clampObjLane 2 (fieldOf 0xD0000000#32 28 2) = fieldOf 0xD0000000#32 28 2 ∧ s.objPoisoned 2 5 = false ∧ s.lanesOf (s.objBus 2 5) = [9] ∧
    s.cond 9 ≠ .down ∧ ((after (.objectRelease 0 2 5) s).bus 9).length = 1 ∧ ((after (.objectRelease 0 2 5) s).objWord 2 5 0).getLsbD 24 = true := by
  decide +kernel

theorem test_periodic : let s := sendObj none (some ⟨none, 0⟩)
    Sane s ∧ (s.obj (objIx 2 5)).next = some ⟨none, 0⟩ ∧ s.ranOut ⟨none, 0⟩ = true ∧ s.objEntry 2 5 = none ∧
    ((after (.periodicRelease 2 5) s).bus 9).length = 1 := ⟨sane_of_check (by decide), by decide +kernel⟩

/-- An instance waits in the order of bus 9. -/
def waitObj : Entry := { id := 3, src := .obj 5, fr := fr1, sel := [9], copies := [{ lane := 9 }] }

theorem test_missed : let s := (sendObj none (some ⟨none, 0⟩)).setBus 9 [waitObj]
    s.objEntry 2 5 = some (9, waitObj) ∧ waitObj.inFlight = false ∧
    fieldOf ((after (.periodicRelease 2 5) s).objWord 2 5 7) 16 8 = 1 ∧ ((after (.periodicRelease 2 5) s).bus 9).length = 1 := by decide +kernel

theorem test_periodic_not_yet : let s := sendObj none (some ⟨none, 1⟩)
    s.ranOut ⟨none, 1⟩ = false ∧ after (.periodicRelease 2 5) s = s := by decide +kernel

theorem test_quad_mode : (∀ n < 4, io.laneSt (4 * 2 + n) = St.off) ∧ io.hostOpen 0 = true ∧
    (after (.quadGateWrite 0 2 true) io).fb (F.QUAD_CTRL.GATE 2) = true := by decide +kernel

theorem test_quad_mode_ignored : bus9.laneSt 9 ≠ St.off ∧ (after (.quadModeWrite 0 2 1) bus9).quadMode 2 = 0 ∧
    (after (.quadModeWrite 0 2 1) bus9).clampCount 0 = 1 ∧ (after (.quadGateWrite 0 2 true) bus9).clampCount 0 = 1 := by decide +kernel

theorem test_gated : let s := io.setB (F.QUAD_CTRL.GATE 2) true
    s.fb (F.QUAD_CTRL.GATE 2) = true ∧ (after (.quadGatedDone 2) s).fb (F.QUAD_CTRL.GATED 2) = true := by decide +kernel

theorem test_ungated : let s := io.setB (F.QUAD_CTRL.GATED 2) true
    s.fb (F.QUAD_CTRL.GATED 2) = true ∧ s.fb (F.QUAD_CTRL.GATE 2) = false ∧
    (after (.quadUngateDone 2) s).fb (F.QUAD_CTRL.GATED 2) = false ∧ ((after (.quadUngateDone 2) s).src 895).count = 1 := by decide +kernel

theorem test_ungate_caches : let s := (((listed false).setB (F.LANE_FLTCFG.CACHED 9) true).setB (F.QUAD_CTRL.GATED 2) true)
    s.fb (F.QUAD_CTRL.GATED 2) = true ∧ s.fb (F.QUAD_CTRL.GATE 2) = false ∧
    ((after (.quadUngateDone 2) s).cache 9).active = [⟨0x3F000005, 0, 0, 0x7FF⟩] := by decide +kernel

/-! Ethernet ports. -/

/-- PORT_ENABLE or PORT_DISABLE of port 1. -/
def portCmd (op : Nat) : Words8 := adm op 1

/-- Port 1 with what it holds; enabled, its link up or down. -/
def port1 (link : Bool) (x : EthPort) : State :=
  ((io.setB (F.ETH_STAT.ENABLED 1) true).setB (F.ETH_STAT.LINK 1) link).setEth 1 x

/-- An egress entry. -/
def eg (k : EgKind) : Egress := ⟨1, none, none, .none, 0, k⟩

/-- A frame on the wire. -/
def wire9 (k : EgKind) : OnWire := ⟨{ eg k with attempts := 1 }, ⟨5, 6⟩, [1, 2]⟩

theorem test_port_enable : Sane io ∧ Taken io 0 (portCmd 0x52) 0x52 ∧ (io.eth 1).pendDis = none ∧ io.fb (F.ETH_STAT.ENABLED 1) = false ∧
    (after (.portEnable 0 (portCmd 0x52)) io).fb (F.ETH_STAT.ENABLED 1) = true ∧
    status (.portEnable 0 (portCmd 0x52)) (port1 true {}) = 0x30 := ⟨sane_of_check (by decide), by decide +kernel⟩

theorem test_port_disable : let s := port1 true {}
    Sane s ∧ (s.eth 1).wire = none ∧ (s.eth 1).queue = [] ∧ s.fb (F.ETH_STAT.LINK 1) = true := ⟨sane_of_check (by decide), by decide +kernel⟩

theorem test_port_disable_waits : let s := port1 true { wire := some (wire9 (.other [])) }
    (s.eth 1).wire.isSome = true ∧ (s.eth 1).pendDis = none ∧
    (((after (.portDisable 0 (portCmd 0x53)) s).eth 1).pendDis) = some (some ⟨0, 0x77⟩) := by decide +kernel

theorem test_port_command_held : let s := port1 true { pendDis := some none }
    (s.eth 1).pendDis ≠ none ∧ (after (.portEnable 0 (portCmd 0x52)) s).held = [⟨0, portCmd 0x52⟩] ∧
    (after (.portDisable 0 (portCmd 0x53)) s).held = [⟨0, portCmd 0x53⟩] := by decide +kernel

/-- Device 4 is reached by port 1, or by port 2, whose link is up. -/
def alt4 : State :=
  ((((port1 true {}).setF (F.STACK_PATH.PRIMARY 4) 1).setB (F.STACK_PATH.ALT_VALID 4) true).setF (F.STACK_PATH.ALT 4) 2).setB (F.ETH_STAT.LINK 2) true

theorem test_link_down : Sane alt4 ∧ alt4.fb (F.ETH_STAT.LINK 1) = true ∧ alt4.f (F.STACK_PATH.PRIMARY 4) = 1 ∧ alt4.fb (F.STACK_PATH.ALT_VALID 4) = true ∧
    alt4.fb (F.ETH_STAT.LINK (alt4.f (F.STACK_PATH.ALT 4))) = true ∧ alt4.f (F.STACK_PATH.ALT 4) ≠ 1 ∧ (alt4.eth 1).queue = [] :=
  ⟨sane_of_check (by decide), by decide +kernel⟩

theorem test_link_is_down : let s := port1 false {}
    s.fb (F.ETH_STAT.LINK 1) = false ∧ after (.ethLinkDown 1) s = s := by decide +kernel

theorem test_link_comes_up : let s := port1 false { holdOver := true }
    s.fb (F.ETH_STAT.ENABLED 1) = true ∧ s.fb (F.ETH_STAT.LINK 1) = false ∧ (after (.ethLinkUp 1 2) s).fb (F.ETH_STAT.LINK 1) = true ∧
    ((after (.ethLinkUp 1 2) s).eth 1).holdOver = false ∧ ((after (.ethLinkUp 1 2) s).src 871).count = 1 ∧
    after (.ethLinkUp 1 2) io = io := by decide +kernel

theorem test_port_hold : let s := port1 false { hold := some ⟨none, 0⟩ }
    s.ranOut? (s.eth 1).hold = true ∧ ((after (.portHoldExpiry 1) s).eth 1).holdOver = true ∧ (after (.portHoldExpiry 1) s).fb (F.FIRN_PHOLD.EXPIRED 1) = true ∧
    s.ranOut? (some ⟨none, 1⟩) = false ∧ after (.portHoldExpiry 1) io = io := by decide +kernel

theorem test_link_up_too_late : let s := port1 false { hold := some ⟨none, 0⟩, queue := [eg (.other [])] }
    s.ranOut? (s.eth 1).hold = true ∧ ((after (.ethLinkUp 1 2) s).eth 1).queue = [] ∧
    (after (.ethLinkUp 1 2) s).fb (F.FIRN_PHOLD.EXPIRED 1) = true ∧ (after (.ethLinkUp 1 2) s).fb (F.ETH_STAT.LINK 1) = true := by decide +kernel

/-- A descriptor of SQ 5 for port 1. -/
def ethX : Fetched := { ((after (.ethTx 5 (desc 0x00010002 0 10 0x1000)) io).fetched.headD (bus9.txTake 5 (txd true)).1) with data := some [1, 2, 3] }

/-- Its CQ has room for it. -/
def ethQ (k : EgKind) (hold : Option Timer) : State :=
  (port1 true { queue := [eg k], hold := hold }).setCq 5 { owner := some 0, backed := true, base := 0x10000, size := 4, reserved := 1 }

theorem test_port_hold_desc : let s := ethQ (.desc ethX) (some ⟨none, 0⟩)
    Sane s ∧ (s.eth 1).queue = [eg (.desc ethX)] ∧ (eg (.desc ethX)).fid = none ∧
    bitsOf ((after (.portHoldExpiry 1) s).hostWord 0 0x10000) 0 8 = 0x14 := ⟨sane_of_check (by decide), by decide +kernel⟩

theorem test_port_hold_expired : let s := (ethQ (.desc ethX) (some ⟨none, 0⟩)).modEth 1 fun y =>
      { y with queue := [{ eg (.desc ethX) with deadline := some ⟨none, 0⟩ }] }
    bitsOf ((after (.portHoldExpiry 1) s).hostWord 0 0x10000) 0 8 = 0x13 := by decide +kernel

theorem test_port_hold_ptp : let s := (ethQ (.ptp [1] 0 2 true) (some ⟨none, 0⟩)).setFrame 3 { cells := [8, 9], holds := [(33, 2)] }
    let s := s.modEth 1 fun y => { y with queue := [{ eg (.ptp [1] 0 2 true) with fid := some 3 }] }
    s.ranOut? (s.eth 1).hold = true ∧ (s.frame 3).cells.length = 2 ∧ (after (.portHoldExpiry 1) s).f F.TB_TCSTAT.TC_DROP = 1 ∧
    (after (.portHoldExpiry 1) s).f (F.FIRN_PHOLD.PH_FREED 1) = 2 := by decide +kernel

theorem test_eth_sends : let s := ethQ (.desc ethX) none
    s.nextOnPort 1 [] (eg (.desc ethX)) [] ∧ s.fb (F.ETH_STAT.ENABLED 1) = true ∧ s.fb (F.ETH_STAT.LINK 1) = true ∧ (s.eth 1).wire = none ∧
    ((after (.ethTxStart 1) s).eth 1).queue = [] ∧ (((after (.ethTxStart 1) s).eth 1).wire.map OnWire.bytes).map List.length = some 60 := by decide +kernel

theorem test_eth_order : let s := port1 true { queue := [{ eg (.other [1]) with tc := 0 }, eg (.other [2]), eg (.other [3])] }
    s.nextOnPort 1 [{ eg (.other [1]) with tc := 0 }] (eg (.other [2])) [eg (.other [3])] ∧
    ((after (.ethTxStart 1) s).eth 1).queue = [{ eg (.other [1]) with tc := 0 }, eg (.other [3])] := by decide +kernel

/-- A stack frame of this device. -/
def so4 : StackOut := ⟨4 * 128, false, 2, true, 0, 3, 0, 15, 1, 0, []⟩

theorem test_eth_stack : let s := ethQ (.stack so4) none
    s.nextOnPort 1 [] (eg (.stack so4)) [] ∧ ((((after (.ethTxStart 1) s).eth 1).wire.map OnWire.bytes).map List.length) = some 60 := by decide +kernel

/-- A PTP Sync over Layer 2, with 50 bytes of message. -/
def ptpL2 : List Byte := List.replicate 12 0 ++ [0x88, 0xF7] ++ List.replicate 50 0

/-- The same over IPv4, UDP port 319. -/
def ptpIp : List Byte := List.replicate 12 0 ++ [0x08, 0x00, 0x45] ++ List.replicate 8 0 ++ [17] ++ List.replicate 10 0 ++ [0, 0, 0x01, 0x3F, 0, 52, 7, 7] ++ List.replicate 44 0

theorem test_eth_ptp : let s := ethQ (.ptp ptpL2 0 2 true) none
    s.nextOnPort 1 [] (eg (.ptp ptpL2 0 2 true)) [] ∧ ((ptpAt ptpL2).map fun a => (a.off, a.kind)) = some (14, 0) ∧
    (after (.ethTxStart 1) s).f F.TB_TCSTAT.TC_FWD = 1 := by decide +kernel

theorem test_eth_ptp_ip : let s := ethQ (.ptp ptpIp 0 2 true) none
    s.nextOnPort 1 [] (eg (.ptp ptpIp 0 2 true)) [] ∧ ((ptpAt ptpIp).map fun a => (a.off, a.kind, a.udp)) = some (42, 1, 34) := by decide +kernel

theorem test_eth_poisoned : let s := ((ethQ (.other [1]) none).modEth 1 fun y => { y with queue := [{ eg (.other [1]) with fid := some 3 }] }).setFrame 3 { cells := [8] }
    let s := s.withPoison [(256 * 3 + 2, 8)]
    s.nextOnPort 1 [] { eg (.other [1]) with fid := some 3 } [] := by decide +kernel

theorem test_eth_idle : let s := port1 true {}
    (s.eth 1).queue = [] ∧ after (.ethTxStart 1) s = s ∧ (s.eth 1).wire = none ∧ after (.ethFrameTxEnd 1) s = s ∧ after (.ethTxStart 1) io = io := by decide +kernel

/-- A frame is on the wire of port 1. -/
def onWire (k : EgKind) : State :=
  (port1 true { wire := some (wire9 k) }).setCq 5 { owner := some 0, backed := true, base := 0x10000, size := 4, reserved := 1 }

theorem test_eth_end : let s := onWire (.desc ethX)
    (s.eth 1).wire = some (wire9 (.desc ethX)) ∧ (wire9 (.desc ethX)).eg.fid = none ∧ (s.eth 1).pendDis = none ∧ s.mor.capture = false ∧
    ((after (.ethFrameTxEnd 1) s).eth 1).wire = none ∧ bitsOf ((after (.ethFrameTxEnd 1) s).hostWord 0 0x10000) 0 8 = 0 ∧
    ((after (.ethFrameTxEnd 1) s).cq 5).tail = 1 := by decide +kernel

theorem test_eth_end_other : let s := onWire (.other [1])
    (wire9 (.other [1])).eg.kind = .other [1] ∧ ((after (.ethFrameTxEnd 1) s).eth 1).wire = none := by decide +kernel

/-- A received frame. -/
def rxF (ok : Bool) (bs : List Byte) : EthFrame := ⟨bs, 0, 0, ok⟩

/-- Port 1 as it receives: wanted frames go to CQ `q`. -/
def rxPort (en : Bool) (q : Nat) : State := (((port1 true {}).setB (F.ETH_CFG.RX_EN 1) en).setB (F.ETH_CFG.PROMISC 1) true).setF (F.ETH_CFG.RX_CQ 1) q

theorem test_eth_rx_bad : let s := rxPort true 5
    Sane s ∧ 14 ≤ ptpL2.length ∧ ptpL2.length ≤ 9614 ∧ s.isStackFrame 1 ptpL2 = false ∧
    (after (.ethFrameRx 1 (rxF false ptpL2)) s).f (F.ETH_STAT.RX_BADFCS 1) = 1 := ⟨sane_of_check (by decide), by decide +kernel⟩

theorem test_eth_rx_unwanted : let s := rxPort false 5
    s.mor.capture = false ∧ s.fb (F.FIRN_IPOL.EN (128 + 1)) = false ∧ s.ethRxWanted 1 ptpL2 = false ∧ s.ptpPorts 1 ptpL2 = [] ∧
    (after (.ethFrameRx 1 (rxF true ptpL2)) s).f (F.ETH_STAT.RX_FILT 1) = 1 := by decide +kernel

theorem test_eth_rx_no_cq : let s := (rxPort true 6).setCq 6 { deleted := true }
    s.ethRxWanted 1 ptpL2 = true ∧ s.ptpPorts 1 ptpL2 = [] ∧ (s.cq 6).home = none ∧ ((after (.ethFrameRx 1 (rxF true ptpL2)) s).cq 6).drops = 1 := by decide +kernel

theorem test_eth_rx : let s := rxPort true 5
    s.ethRxWanted 1 ptpL2 = true ∧ (s.cq 5).home = some 0 ∧ s.chg (4 * 36 + 2) + cellsFor 64 ≤ s.gLimit 36 2 ∧ s.fits 36 (cellsFor 64) = true ∧
    s.heldOf 5 + cellsFor 64 ≤ s.f (F.FIRN_RQUOTA.QUOTA 5) ∧
    ((after (.ethFrameRx 1 (rxF true ptpL2)) s).voq (((32 + 1) * 40 + 36) * 4 + 2)).map VoqItem.left = [2] := by decide +kernel

theorem test_eth_rx_ptp : let s := ((rxPort false 5).setB (F.TB_TCCFG.TC_EN 1) true).setF (F.TB_TCCFG.FWD 1) 4 |>.withTimeDist true
    s.ethRxWanted 1 ptpL2 = false ∧ s.ptpPorts 1 ptpL2 = [2] ∧ (s.eth 2).holdOver = false ∧
    s.chg (4 * (32 + 2) + s.f (F.TB_TCCFG.CLASS 1)) + cellsFor 64 ≤ s.gLimit (32 + 2) (s.f (F.TB_TCCFG.CLASS 1)) ∧ s.fits (32 + 2) (cellsFor 64) = true ∧
    ((after (.ethFrameRx 1 (rxF true ptpL2)) s).voq (((32 + 1) * 40 + 34) * 4 + s.f (F.TB_TCCFG.CLASS 1))).map VoqItem.left = [2] := by decide +kernel

/-! The recorder. -/

/-- The recorder `x`, SE2 running. -/
def recS (x : Moraine) : State := (io.setEng 34 { stopped := false }).withMor x

/-- A command of the recorder. -/
def rcmd (op sub : Nat) : Words8 := ⟨BitVec.ofNat 32 op, BitVec.ofNat 32 sub, 0x5000, 0, 2, 1, 0, 0x77⟩

theorem test_rec_start : let s := recS { trigOff := 9, write := 7 }
    Sane s ∧ TakenSub s 0 (rcmd 0x54 0) 0x54 0 ∧ s.mor.started = false ∧ s.morKept = false ∧ s.dringOver = false ∧
    (after (.blockStartMoraine 0 (rcmd 0x54 0)) s).mor.capture = true ∧ (after (.blockStartMoraine 0 (rcmd 0x54 0)) s).mor.write = 0 :=
  ⟨sane_of_check (by decide), by decide +kernel⟩

theorem test_rec_start_kept : let s := (recS { kept := some (0, 3) }).setF F.MOR_DRING.SIZE 3
    let s := (s.setF F.MOR_DRING.BASE 0).wr32 dramBase 0x40
    s.morKept = true ∧ s.dringOver = false ∧ (after (.blockStartMoraine 0 (rcmd 0x54 0)) s).mor.write = 0x40 := by decide +kernel

theorem test_rec_start_again : let s := recS { started := true, write := 7 }
    s.mor.started = true ∧ (after (.blockStartMoraine 0 (rcmd 0x54 0)) s).mor.write = 7 := by decide +kernel

theorem test_rec_start_code : TakenSub (recS {}) 0 (rcmd 0x54 4) 0x54 4 ∧ (after (.blockStartMoraine 0 (rcmd 0x54 4)) (recS {})).clampCount 0 = 1 := by decide +kernel

theorem test_rec_start_reduced : let s := ((recS {}).setF F.MOR_DRING.BASE 4).setF F.MOR_DRING.SIZE 16384
    s.mor.started = false ∧ s.dringOver = true ∧
    (after (.blockStartMoraine 0 (rcmd 0x54 0)) s).f F.MOR_DRING.SIZE = s.dramLimit - 4 := by decide +kernel

theorem test_rec_stop : let s := recS { started := true, capture := true, write := 7 }
    TakenSub s 0 (rcmd 0x55 0) 0x55 0 ∧ s.fb F.MOR_CTRL.DEST = false ∧ (after (.blockStopMoraine 0 (rcmd 0x55 0)) s).mor.capture = false ∧
    (after (.blockStopMoraine 0 (rcmd 0x55 0)) s).rd32 (dramBase + s.f F.MOR_DRING.BASE * 1048576) = 7 := by decide +kernel

/-- Mode 1, and perhaps armed. -/
def armedS (a : Bool) (x : Moraine) : State := ((recS x).setB F.MOR_CTRL.MODE true).setB F.MOR_STAT.ARMED a

theorem test_arm : TakenSub (armedS false {}) 0 (rcmd 0x56 0) 0x56 0 ∧ (armedS false {}).mor.postDue = none ∧
    (after (.arm 0 (rcmd 0x56 0)) (armedS false {})).fb F.MOR_STAT.ARMED = true := by decide +kernel

theorem test_arm_refused : (recS {}).fb F.MOR_CTRL.MODE = false ∧ status (.arm 0 (rcmd 0x56 0)) (recS {}) = 0x30 := by decide +kernel

theorem test_trigger : let s := armedS true { write := 7 }
    TakenSub s 0 (rcmd 0x56 1) 0x56 1 ∧ s.fb F.MOR_STAT.ARMED = true ∧ (after (.trigger 0 (rcmd 0x56 1)) s).mor.trigOff = 7 ∧
    (after (.trigger 0 (rcmd 0x56 1)) s).mor.postDue.isSome = true ∧ ((after (.trigger 0 (rcmd 0x56 1)) s).src 848).count = 1 ∧
    status (.trigger 0 (rcmd 0x56 1)) (armedS false {}) = 0x30 := by decide +kernel

/-- The recorder is frozen. -/
def frozenS (x : Moraine) : State := (recS x).setB F.MOR_STAT.FROZEN true

theorem test_freeze : TakenSub (recS {}) 0 (rcmd 0x56 2) 0x56 2 ∧ (recS {}).fb F.MOR_STAT.FROZEN = false ∧ (recS {}).mor.queue = [] ∧
    (after (.freeze 0 (rcmd 0x56 2)) (recS {})).fb F.MOR_STAT.FROZEN = true ∧ status (.freeze 0 (rcmd 0x56 2)) (frozenS {}) = 0x30 := by decide +kernel

theorem test_dump : TakenSub (recS {}) 0 (rcmd 0x56 3) 0x56 3 ∧ 2 + 1 ≤ (recS {}).morUnits ∧
    (after (.dump 0 (rcmd 0x56 3)) (recS {})).mor.dump = [(⟨0, 0x77⟩, 0x5000, 2, 1)] ∧
    status (.dump 0 (rcmd 0x56 3)) ((recS {}).setB F.MOR_CTRL.DEST true) = 0x30 ∧
    status (.dump 0 { rcmd 0x56 3 with w4 := 0xFFFFFFFF }) (recS {}) = 0x30 := by decide +kernel

theorem test_dump_done : let s := (recS { dump := [(⟨0, 0x77⟩, 0x5000, 2, 1)] }).wr32 (dramBase + (recS {}).f F.MOR_DRING.BASE * 1048576 + 4096 + 64) 0x12345678
    s.mor.dump = [(⟨0, 0x77⟩, 0x5000, 2, 1)] ∧ (after .dumpDone s).hostByte 0 0x5003 = 0x12 ∧ (after .dumpDone s).hostByte 0 0x5020 = 0 ∧
    (after .dumpDone (recS {})) = recS {} := by decide +kernel

theorem test_hring : TakenSub (recS {}) 0 (rcmd 0x56 4) 0x56 4 ∧ (recS {}).f F.MOR_CTRL.HFUNC = 0 ∧
    (after (.hringRestart 0 (rcmd 0x56 4)) (recS { write := 7 })).mor.write = 0 ∧
    status (.hringRestart 0 (rcmd 0x56 4)) ((recS {}).setF F.MOR_CTRL.HFUNC 1) = 0x30 := by decide +kernel

theorem test_clear : (after (.clear 0 (rcmd 0x56 5)) (frozenS { recs := [⟨0, 1, 0⟩] })).mor.recs = [] ∧
    (frozenS {}).fb F.MOR_STAT.FROZEN = true ∧ status (.clear 0 (rcmd 0x56 5)) (recS {}) = 0x30 := by decide +kernel

theorem test_rec_status : (after (.recStatus 0 (rcmd 0x56 7)) (recS { write := 9 })).hostWord 0 8 = 9 ∧
    (after (.recStatus 0 (rcmd 0x56 7)) (recS { write := 9 })).clampCount 0 = 1 := by decide +kernel

/-- A candidate of port 1 with two bytes. -/
def cand : Cand := ⟨3, 1, 0, ⟨5, 6⟩, 7, 0, 2, [1, 2], 0, 0, 0⟩

/-- It is the oldest one in the queue. -/
def recNow (x : Moraine) : State := recS { x with capture := true, started := true, queue := [(4, cand)] }

theorem test_cand_sent : let s := (onWire (.other [])).withMor { capture := true }
    let s := s.setF F.MOR_CTRL.ETHCAP 0x20
    Sane s ∧ (s.eth 1).wire = some (wire9 (.other [])) ∧ s.ethCap 1 / 2 % 2 = 1 ∧
    s.chg 152 + cellsFor (payLen (s.ethCap 1 / 4) 2) ≤ s.gLimit 38 0 ∧ s.fits 38 (cellsFor (payLen (s.ethCap 1 / 4) 2)) = true ∧
    ((after (.ethFrameTxEnd 1) s).voq (((32 + 1) * 40 + 38) * 4)).map VoqItem.left = [1] ∧
    ((after (.ethFrameTxEnd 1) (s.setChg 152 100000)).mor.queue) = [] ∧ (after (.ethFrameTxEnd 1) (s.setChg 152 100000)).mor.lost = 1 :=
  ⟨sane_of_check (by decide), by decide +kernel⟩

theorem test_cand_crosses : let s := (recS { capture := true }).setVoq ((33 * 40 + 38) * 4) [⟨4, 1, 0, .mor cand⟩]
    s.ctqs = [] ∧ (after .colSlot s).mor.queue = [(4, cand)] := by decide +kernel

theorem test_record : let s := recNow {}
    s.fb F.MOR_STAT.FROZEN = false ∧ s.mor.queue = [(4, cand)] ∧ s.engUp 34 = true ∧ s.morBlocked (s.morNeed cand) = false ∧
    0 + morRecUnits 2 ≤ s.morUnits ∧ (after .morRecordWrite s).mor.write = 2 ∧
    (after .morRecordWrite s).rd32 (dramBase + s.f F.MOR_DRING.BASE * 1048576 + 4096 + 32) = 0x0201 ∧
    (after .morRecordWrite s).rd32 (dramBase + s.f F.MOR_DRING.BASE * 1048576 + 4096 + 20) = 0x00020002 := by decide +kernel

theorem test_record_fires : let s := (((((recNow {}).setB F.MOR_STAT.ARMED true).setB (F.MOR_TRIG.EN 2) true).setF (F.MOR_TRIG.SKIND 2) 3).setB
      (F.MOR_TRIG.ANY_NUM 2) true).setB (F.MOR_TRIG.ANY_STATUS 2) true
    s.morFires cand 2 = true ∧ (after .morRecordWrite s).fb F.MOR_STAT.TRIGGERED = true ∧ ((after .morRecordWrite s).src 848).count = 1 := by decide +kernel

theorem test_record_loss : let s := recNow { lost := 5 }
    0 < s.mor.lost ∧ s.morBlocked (s.morNeed cand) = false ∧ 0 + 1 + morRecUnits 2 ≤ s.morUnits ∧
    (after .morRecordWrite s).mor.lost = 0 ∧
    ((after .morRecordWrite s).src 850).count = 1 := by decide +kernel

/-- A ring in the memory of function 0. -/
def hostRing (x : Moraine) : State := (((recNow x).setB F.MOR_CTRL.DEST true).setF F.MOR_HRING.BASE 0x10).setF F.MOR_HTADDR.ADDR 0x100

theorem test_record_host : let s := hostRing {}
    s.fb F.MOR_STAT.HOST_LOST = false ∧ s.morHostFits [morRecUnits 2] = true ∧ s.f F.MOR_HTADDR.ADDR * 8 + 8 ≤ s.f F.MOR_HRING.BASE * 4096 ∧
    0 + morRecUnits 2 ≤ s.morUnits ∧ (after .morRecordWrite s).hostWord 0 0x800 = 2 ∧ (after .morRecordWrite s).hostWord 0 0x10020 = 0x0201 := by decide +kernel

theorem test_record_lost : let s := (hostRing {}).setB F.MOR_STAT.HOST_LOST true
    (after .morRecordWrite s).f F.MOR_LOSS.LOST_FULL = 1 ∧ (after .morRecordWrite s).mor.lost = 1 := by decide +kernel

theorem test_record_blocked : let s := recNow { recs := [⟨0, 4, 7⟩], postDue := some 9, trigTime := some 7 }
    s.morBlocked (s.morNeed cand) = true ∧ (after .morRecordWrite s).fb F.MOR_STAT.POST_SHORT = true ∧
    (after .morRecordWrite s).fb F.MOR_STAT.FROZEN = true := by decide +kernel

theorem test_record_window_over : let s := recNow { recs := [⟨0, 4, 7⟩], postDue := some 0, trigTime := some 7 }
    s.morBlocked (s.morNeed cand) = true ∧ s.postOver = true ∧ (after .morRecordWrite s).fb F.MOR_STAT.POST_SHORT = false ∧
    (after .morRecordWrite s).fb F.MOR_STAT.FROZEN = true := by decide +kernel

theorem test_record_sampled : let s := (recS { queue := [(4, { cand with skind := 0, snum := 9 })] }).setF (F.MOR_LCAP.SAMPLE_N 9) 3
    ¬ s.f (F.MOR_LCAP.SAMPLE_N 9) < (s.lane 9).smpRx + 1 ∧ ((after .morRecordWrite s).lane 9).smpRx = 1 ∧ (after .morRecordWrite s).mem = s.mem := by decide +kernel

theorem test_record_none : after .morRecordWrite (recS {}) = recS {} ∧ (recS {}).mor.queue = [] := by decide +kernel

theorem test_post_end : let s := recS { postDue := some 0 }
    s.mor.postDue = some 0 ∧ 0 ≤ s.baseVal (s.f F.MOR_CTRL.TB) ∧ (after .postWindowEnd s).fb F.MOR_STAT.FROZEN = true ∧
    after .postWindowEnd (recS { postDue := some 1 }) = recS { postDue := some 1 } := by decide +kernel

theorem test_header : let s := recS { headerDue := some 0, write := 7 }
    s.mor.headerDue = some 0 ∧ s.engUp 34 = true ∧ (after .morHeaderWrite s).rd32 (dramBase + s.f F.MOR_DRING.BASE * 1048576) = 7 ∧
    after .morHeaderWrite (recS { headerDue := some 1 }) = recS { headerDue := some 1 } := by decide +kernel

theorem test_hhead : let s := hostRing { write := 5 }
    s.hostOpen 0 = true ∧ 3 < s.morUnits ∧ (3 + s.morUnits - 0) % s.morUnits ≤ (5 + s.morUnits - 0) % s.morUnits ∧
    (after (.morHheadWrite 0 3) s).f F.MOR_HHEAD.HEAD = 3 ∧ (after (.morHheadWrite 0 6) s).f F.MOR_HHEAD.HEAD = 5 ∧
    (after (.morHheadWrite 0 6) s).clampCount 0 = 1 := by decide +kernel

/-! Stacks. Device 3; device 1 is the master and device 2 the backup. -/

/-- Device 3 in a role, SE0 and SE1 running, port 1 up with stack frames. -/
def noPath (role : Nat) (y : Stack) : State :=
  let s := (((port1 true {}).setEng 32 { stopped := false }).setEng 33 { stopped := false }).setF F.STACK_ID.DEV_ID 3
  ((((s.setF F.STACK_ID.MASTER_ID 1).setF F.STACK_ID.BACKUP_ID 2).setF F.STACK_STATE.ROLE role).setB (F.STACK_PORTCFG.STACK_EN 1) true).withStack y

/-- Device 1 is reached by port 1. -/
def stk (role : Nat) (y : Stack) : State := ((noPath role y).setB (F.STACK_PATH.VALID 1) true).setF (F.STACK_PATH.PRIMARY 1) 1

/-- The device started. -/
def run0 : Stack := { started := true }

/-- A stack command: code, words 2, 3, 5 and 6. -/
def scmd (op sub w2 w3 w5 w6 : Nat) : Words8 :=
  ⟨BitVec.ofNat 32 op, BitVec.ofNat 32 sub, BitVec.ofNat 32 w2, BitVec.ofNat 32 w3, 0, BitVec.ofNat 32 w5, BitVec.ofNat 32 w6, 0x77⟩

theorem test_stack_start : let s := stk 1 {}
    Sane s ∧ TakenSub s 0 (scmd 0x54 2 0 0 0 0) 0x54 2 ∧ s.f F.STACK_ID.STRAP_ROLE = 0 ∧ s.devId = 3 ∧
    (after (.blockStartStack 0 (scmd 0x54 2 0 0 0 0)) s).stack.missDue.isSome = true ∧
    (after (.blockStartStack 0 (scmd 0x54 2 0 0 0 0)) s).f F.STACK_STATE.ROLE = 0 := ⟨sane_of_check (by decide +kernel), by decide +kernel⟩

theorem test_stack_start_master : let s := ((stk 1 {}).setF F.STACK_ID.STRAP_ROLE 1).setF F.STACK_ID.DEV_ID 1
    s.f F.STACK_ID.STRAP_ROLE = 1 ∧ s.devId = 1 ∧ (after (.blockStartStack 0 (scmd 0x54 2 0 0 0 0)) s).stack.listenDue.isSome = true := by decide +kernel

theorem test_stack_start_refused : let s := (stk 1 {}).setF F.STACK_ID.BACKUP_ID 1
    s.f F.STACK_ID.MASTER_ID = s.f F.STACK_ID.BACKUP_ID ∧ status (.blockStartStack 0 (scmd 0x54 2 0 0 0 0)) s = 0x30 ∧
    status (.blockStartStack 0 (scmd 0x54 2 0 0 0 0)) (stk 1 run0) = 0 ∧ (stk 1 run0).stack.started = true := by decide +kernel

theorem test_stack_stop : let s := (stk 3 run0).setEth 1 { queue := [eg (.stack so4), eg (.other [1])] }
    TakenSub s 0 (scmd 0x55 2 0 0 0 0) 0x55 2 ∧ (after (.blockStopStack 0 (scmd 0x55 2 0 0 0 0)) s).f F.STACK_STATE.ROLE = 0 ∧
    ((after (.blockStopStack 0 (scmd 0x55 2 0 0 0 0)) s).eth 1).queue = [eg (.other [1])] := by decide +kernel

/-- A route entry. -/
def rec1 : Rec4 := ⟨0x40200014, 0xFFFFFFFF, 0xFFFFFFFF, 9⟩

/-- ROUTE_PUSH of one entry, number 7, to device `dev` for epoch 5. -/
def pushC (dev : Nat) : Words8 := scmd 0x57 0 (dev + 7 * 65536) 0 1 5

theorem test_push_refused : let s := stk 0 run0
    TakenSub s 0 (pushC 3) 0x57 0 ∧ [rec1].length = max 1 (min 4096 (fieldOf (pushC 3).w5 0 13)) ∧ s.actingMaster = false ∧
    status (.routePush 0 (pushC 3) [rec1]) s = 0x30 := by decide +kernel

theorem test_push_range : let d := scmd 0x57 0 (3 + 4096 * 65536 + 0x8000) 0 1 5
    (stk 3 run0).actingMaster = true ∧ d.w2.getLsbD 15 = true ∧ 4096 < fieldOf d.w2 16 16 + 1 ∧
    status (.routePush 0 d [rec1]) (stk 3 run0) = 0x30 := by decide +kernel

theorem test_push_own : let s := stk 3 run0
    s.actingMaster = true ∧ s.devId = 3 ∧ s.engUp 32 = true ∧ s.stack.stagedEpoch < 5 ∧ s.stack.stagedFids = [] ∧ s.seWait = [] ∧
    s.fitsWaiting 39 3 (cellsFor 16) = true ∧ (after (.routePush 0 (pushC 3) [rec1]) s).stack.staged = [(false, 7, rec1)] ∧
    (after (.routePush 0 (pushC 3) [rec1]) s).stack.pushedTo 3 = 1 := by decide +kernel

theorem test_push_away : let s := stk 3 run0
    (pushC 1).w2.getLsbD 14 = false ∧ s.pathTo 1 1 ∧ s.portTakes 1 (12 + 16 * 1) ∧
    ((after (.routePush 0 (pushC 1) [rec1]) s).voq ((39 * 40 + 33) * 4 + 3)).map VoqItem.tc = [3] := by decide +kernel

/-- EPOCH_COMMIT for epoch 5. -/
def commitC : Words8 := scmd 0x57 1 5 200 0 0

theorem test_commit_refused : status (.epochCommit 0 commitC) (stk 0 run0) = 0x30 ∧
    status (.epochCommit 0 commitC) (stk 3 { run0 with cmd := some ⟨⟨0, 1⟩, 5, 0, [], [], []⟩ }) = 0x31 := by decide +kernel

theorem test_commit : let s := noPath 3 run0
    TakenSub s 0 commitC 0x57 1 ∧ s.actingMaster = true ∧ s.f F.STACK_STATE.EPOCH < 5 ∧ s.stack.cmd = none ∧ s.reachable = [] ∧
    (after (.epochCommit 0 commitC) s).stack.act.isSome = true ∧
    ((after (.epochCommit 0 commitC) s).stack.cmd.map EpochCmd.addressees) = some [3] := by decide +kernel

theorem test_commit_incomplete : let s := noPath 3 { run0 with stagedEpoch := 5, staged := [(false, 7, rec1)] }
    s.stack.pushEpoch ≠ 5 ∧ (after (.epochCommit 0 commitC) s).stack.staged = [] ∧ ((after (.epochCommit 0 commitC) s).src 867).count = 1 := by decide +kernel

theorem test_commit_sends : let s := stk 3 run0
    s.reachable = [1] ∧ s.pathTo 1 1 ∧ s.portTakes 1 18 ∧ ((after (.epochCommit 0 commitC) s).voq ((39 * 40 + 33) * 4 + 3)).map VoqItem.tc = [3] := by decide +kernel

/-- A command that runs. -/
def cmd5 : EpochCmd := { ref := ⟨0, 0x77⟩, epoch := 5, due := 0, addressees := [3, 1] }

theorem test_commit_done : let s := stk 3 { run0 with cmd := some { cmd5 with applied := [3] } }
    (cmd5).due ≤ s.baseVal 0 ∧ (after .epochCommitDone s).hostWord 0 8 = 1 ∧ (after .epochCommitDone s).hostWord 0 16 = 1 ∧
    (after .epochCommitDone s).stack.cmd = none ∧ after .epochCommitDone (stk 3 { run0 with cmd := some { cmd5 with due := 1 } }) =
      stk 3 { run0 with cmd := some { cmd5 with due := 1 } } := by decide +kernel

/-- A commit whose time has come. -/
def act5 (k : Option Nat) : Activation := ⟨5, 1, 0, 0, k⟩

theorem test_activation : let s := stk 3 { run0 with act := some (act5 none), stagedEpoch := 5, staged := [(false, 7, rec1)] }
    activationAt 0 0 ≤ s.baseVal 0 ∧ s.engUp 32 = true ∧ s.stack.stagedFids = [] ∧ rtType rec1 = 1 ∧
    (after .epochActivation s).rec4 (routeWord 7 0) = ⟨0x40000014, 0x1FFFFFFF, 0xFFF0FFFF, 0⟩ ∧
    (after .epochActivation s).f F.STACK_STATE.EPOCH = 5 ∧ ((after .epochActivation s).src 866).count = 1 := by decide +kernel

theorem test_activation_own : let s := stk 3 { run0 with act := some (act5 none), cmd := some cmd5 }
    cmd5.epoch = (act5 none).epoch ∧ ((after .epochActivation s).stack.cmd.map EpochCmd.applied) = some [3] := by decide +kernel

theorem test_activation_ack : let s := stk 0 { run0 with act := some (act5 (some 1)) }
    s.pathTo 1 1 ∧ s.portTakes 1 5 ∧ ((after .epochActivation s).voq ((39 * 40 + 33) * 4 + 3)).map VoqItem.tc = [3] := by decide +kernel

theorem test_activation_early : let s := stk 0 { run0 with act := some ⟨5, 1, 1, 0, none⟩ }
    s.baseVal 0 < activationAt 1 0 ∧ after .epochActivation s = s := by decide +kernel

theorem test_handover : let s := stk 3 { run0 with masterStandby := true }
    TakenSub s 0 (scmd 0x57 2 0 0 0 0) 0x57 2 ∧ s.pathTo 1 1 ∧ s.portTakes 1 4 ∧ s.f F.STACK_ID.MASTER_ID = 1 ∧
    ((after (.handover 0 (scmd 0x57 2 0 0 0 0)) s).voq ((39 * 40 + 33) * 4 + 3)).map VoqItem.tc = [3] ∧
    status (.handover 0 (scmd 0x57 2 0 0 0 0)) (stk 3 run0) = 0x30 := by decide +kernel

theorem test_stack_status : let s := (stk 3 run0).setF F.STACK_STATE.EPOCH 9
    (after (.stackStatus 0 (scmd 0x57 4 0 0 0 0)) s).hostWord 0 8 = 9 ∧ (after (.stackStatus 0 (scmd 0x57 4 0 0 0 0)) s).clampCount 0 = 1 := by decide +kernel

/-! Roles. -/

theorem test_heartbeat : let s := stk 3 { run0 with hbDue := some ⟨none, 0⟩ }
    Sane s ∧ s.ranOut ⟨none, 0⟩ = true ∧ s.onlyPort 1 ∧ s.portTakes 1 8 ∧ ((after .heartbeatTimer s).voq ((39 * 40 + 33) * 4 + 3)).map VoqItem.tc = [3] ∧
    after .heartbeatTimer (stk 3 { run0 with hbDue := some ⟨none, 1⟩ }) = stk 3 { run0 with hbDue := some ⟨none, 1⟩ } :=
  ⟨sane_of_check (by decide +kernel), by decide +kernel⟩

/-- The listening time of a configured master. -/
def listens (heard : Bool) (n : Nat) : State := stk 1 { run0 with listenDue := some ⟨none, n⟩, promotedHeard := heard }

theorem test_listen_end : (listens false 0).ranOut ⟨none, 0⟩ = true ∧ (listens false 0).portTakes 1 8 ∧
    (after .masterListenEnd (listens false 0)).f F.STACK_STATE.ROLE = 1 ∧ (after .masterListenEnd (listens false 0)).fb F.STACK_STATE.STANDBY = false ∧
    (after .masterListenEnd (listens true 0)).fb F.STACK_STATE.STANDBY = true ∧ after .masterListenEnd (listens true 1) = listens true 1 := by decide +kernel

/-- The master has not been heard. -/
def misses (role n : Nat) : State := (stk role { run0 with missDue := some ⟨none, n⟩ }).withNow 1

theorem test_master_lost : (misses 2 0).overrun ⟨none, 0⟩ = true ∧ (misses 0 1).ranOut ⟨none, 1⟩ = true ∧ (after .masterLost (misses 2 0)).f F.STACK_STATE.ROLE = 3 ∧
    ((after .masterLost (misses 2 0)).src 865).count = 1 ∧ (after .masterLost (misses 0 0)).f F.STACK_STATE.ROLE = 0 ∧
    (after .masterLost (misses 0 0)).f F.STACK_CNT.HB_MISSED = 1 ∧ after .masterLost (misses 0 1) = misses 0 1 := by decide +kernel

theorem test_seq_forget : (after (.broadcastSeqForget false) (stk 0 { run0 with keptM := some (7, ⟨none, 0⟩) })).stack.keptM = none ∧
    (after (.broadcastSeqForget true) (stk 0 { run0 with keptB := some (7, ⟨none, 0⟩) })).stack.keptB = none ∧
    (after (.broadcastSeqForget false) (stk 0 { run0 with keptM := some (7, ⟨none, 1⟩) })).stack.keptM = some (7, ⟨none, 1⟩) := by decide +kernel

/-- A stack frame from device 1. -/
def sfr (ty dst : Nat) (all : Bool) (hop : Nat) (pay : List Byte) : EthFrame :=
  rxF true (List.replicate 12 0 ++ [0x88, 0xB5] ++ stackHeader ⟨dst, all, ty, true, 128, 3, 0, hop, 7, 0, pay⟩ ++ pay)

/-- A heartbeat for epoch `n` of the stack. -/
def hb (n role : Nat) : EthFrame := sfr 2 0 true 1 (beBytes 4 n ++ [BitVec.ofNat 8 role, 0, 0, 0])

theorem test_heartbeat_rx : let s := stk 3 run0
    s.accepts 1 (hb 4 0) 2 ∧ devOf (stackParse (hb 4 0).bytes).src = 1 ∧ (after (.heartbeatRx 1 (hb 4 0)) s).f F.STACK_STATE.ROLE = 2 ∧
    (after (.heartbeatRx 1 (hb 4 0)) s).fb F.STACK_STATE.EPOCH_BEHIND = true ∧ ((after (.heartbeatRx 1 (hb 4 0)) s).src 864).count = 1 ∧
    (after (.heartbeatRx 1 (hb 0 2)) s).stack.masterStandby = true ∧ (after (.heartbeatRx 1 (hb 0 2)) s).f F.STACK_STATE.ROLE = 3 := by decide +kernel

theorem test_heartbeat_rx_promoted : let s := listens false 5
    s.accepts 1 (hb 0 1) 2 ∧ s.stack.listenDue.isSome = true ∧ byteAt (stackParse (hb 0 1).bytes).payload 4 % 2 = 1 ∧
    (after (.heartbeatRx 1 (hb 0 1)) s).stack.promotedHeard = true := by decide +kernel

/-- HANDOVER to device 3, with epoch 6. -/
def hand : EthFrame := sfr 7 (3 * 128) false 1 (beBytes 4 6)

theorem test_handover_rx : let s := (stk 1 run0).setB F.STACK_STATE.STANDBY true
    s.accepts 1 hand 7 ∧ (s.crossed (stackParse hand.bytes).len).portTakes 1 8 ∧ (after (.handoverRx 1 hand) s).f F.STACK_STATE.EPOCH = 6 ∧ (after (.handoverRx 1 hand) s).fb F.STACK_STATE.STANDBY = false ∧
    (after (.handoverRx 1 hand) (stk 0 run0)).f F.STACK_STATE.EPOCH = 0 := by decide +kernel

/-- A NAK to device 3. -/
def nak : EthFrame := sfr 6 (3 * 128) false 1 [8, 3, 0, 0, 0, 0, 0, 1]

theorem test_nak_rx : let s := stk 0 run0
    s.accepts 1 nak 6 ∧ (after (.nakRx 1 nak) s).f F.STACK_CNT.NAK_RCVD = 1 ∧ ((after (.nakRx 1 nak) s).src 869).count = 1 := by decide +kernel

/-- The configured master that leads keeps CUR_MASTER on itself when a promoted device is heard (R554). -/
theorem test_heartbeat_of_promoted : let s := ((stk 1 run0).setF F.STACK_ID.DEV_ID 1).setF F.STACK_STATE.CUR_MASTER 1
    let h := rxF true (List.replicate 12 0 ++ [0x88, 0xB5] ++ stackHeader ⟨0, true, 2, true, 2 * 128, 3, 0, 1, 7, 0, [0, 0, 0, 0, 1, 0, 0, 0]⟩ ++
      [0, 0, 0, 0, 1, 0, 0, 0])
    s.accepts 1 h 2 ∧ devOf (stackParse h.bytes).src = 2 ∧ s.stack.masterDue = none ∧
    (after (.heartbeatRx 1 h) s).f F.STACK_STATE.CUR_MASTER = 1 := by decide +kernel

theorem test_heartbeat_masters : let s := (stk 0 run0).setF F.STACK_STATE.CUR_MASTER 2
    s.accepts 1 (hb 0 0) 2 ∧ (after (.heartbeatRx 1 (hb 0 0)) s).f F.STACK_STATE.CUR_MASTER = 1 ∧
    (after (.heartbeatRx 1 (hb 0 0)) s).stack.missDue.isSome = true := by decide +kernel

/-! Frames. -/

/-- A bus frame for bus 9 of this device. -/
def dataF (dst hop : Nat) : EthFrame := sfr 1 dst false hop ([0x20, 0, 0x01, 0x23, 0, 2, 0, 0, 0, 0, 0, 0] ++ beBytes 4 5 ++ beBytes 4 6 ++ [1, 2])

theorem test_data_rx : let s := stk 0 run0
    let x := stackParse (dataF (3 * 128 + 9) 1).bytes
    s.accepts 1 (dataF (3 * 128 + 9) 1) 1 ∧ x.all = false ∧ recordFormat x.payload = some .cb ∧ x.colour = 0 ∧
    s.chg (4 * 2 + 3) + cellsFor 2 ≤ s.gLimit 2 3 ∧ s.fits 2 (cellsFor 2) = true ∧
    ((after (.stackDataRx 1 (dataF (3 * 128 + 9) 1)) s).voq (((32 + 1) * 40 + 2) * 4 + 3)).map VoqItem.left = [1] := by decide +kernel

/-- A pushed run of one entry for epoch 5. -/
def pushF : EthFrame := sfr 3 (3 * 128) false 1 (pushPayload 5 false 7 [rec1])

theorem test_push_rx : let s := stk 0 run0
    s.accepts 1 pushF 3 ∧ s.engUp 32 = true ∧ s.stack.stagedEpoch < 5 ∧ s.seWait = [] ∧ (s.crossed (stackParse pushF.bytes).len).fitsWaiting 39 3 (cellsFor 16) = true ∧
    (after (.routePushRx 1 pushF) s).stack.staged = [(false, 7, rec1)] := by decide +kernel

/-- No cell is free: a control frame for the service engines is dropped at P39 (R331). -/
theorem test_control_dropped : let s := ((stk 1 run0).setB F.STACK_STATE.STANDBY true).setChg (4 * 39 + 3) 262144
    s.reaches 1 hand 7 ∧ (stackParse hand.bytes).all = false ∧ s.fits 39 (cellsFor (stackParse hand.bytes).len) = false ∧
    (after (.handoverRx 1 hand) s).stack = s.stack ∧ (after (.handoverRx 1 hand) s).eths = s.eths ∧
    (after (.handoverRx 1 hand) s).fb F.STACK_STATE.STANDBY = true := by decide +kernel

/-- A commit of epoch 5 with one entry. -/
def commitF : EthFrame := sfr 4 (3 * 128) false 1 (beBytes 4 5 ++ beBytes 4 1 ++ beBytes 6 2 ++ beBytes 4 3)

theorem test_commit_rx : let s := stk 0 { run0 with stagedEpoch := 5, staged := [(false, 7, rec1)] }
    s.accepts 1 commitF 4 ∧ beAt (stackParse commitF.bytes).payload 4 4 = 1 ∧
    (after (.epochCommitRx 1 commitF) s).stack.act = some ⟨5, 1, 2, 3, some 1⟩ := by decide +kernel

theorem test_commit_rx_incomplete : let s := stk 0 run0
    s.accepts 1 commitF 4 ∧ s.pathTo 1 1 ∧ (s.crossed (stackParse commitF.bytes).len).portTakes 1 5 ∧ ((after (.epochCommitRx 1 commitF) s).src 867).count = 1 ∧
    ((after (.epochCommitRx 1 commitF) s).voq ((39 * 40 + 33) * 4 + 3)).map VoqItem.tc = [3] := by decide +kernel

/-- EPOCH_ACK of device 1: applied. -/
def ackF : EthFrame := sfr 5 (3 * 128) false 1 (beBytes 4 5 ++ [0])

theorem test_ack_rx : let s := stk 3 { run0 with cmd := some cmd5 }
    s.accepts 1 ackF 5 ∧ ((after (.epochAckRx 1 ackF) s).stack.cmd.map EpochCmd.applied) = some [1] ∧
    ((after (.epochAckRx 1 ackF) (stk 3 { run0 with cmd := some { cmd5 with incomplete := [1] } })).stack.cmd.map EpochCmd.applied) = some [] := by decide +kernel

/-- A frame that claims a hop limit of 0. -/
def badF : EthFrame := sfr 2 0 true 0 [0, 0, 0, 0, 0, 0, 0, 0]

/-- A frame of type 9. -/
def type9 : EthFrame := sfr 9 (3 * 128) false 1 []

theorem test_violation : let s := stk 0 run0
    s.arrives 1 badF 2 ∧ s.stackFault badF.bytes (stackParse badF.bytes) = some 4 ∧ nakDueFor 4 = false ∧
    ((after (.heartbeatRx 1 badF) s).src 868).count = 1 ∧ (after (.heartbeatRx 1 badF) s).f (F.STACK_VLOG.CAUSE 0) = 4 := by decide +kernel

theorem test_violation_nak : let s := stk 0 run0
    s.arrives 1 type9 9 ∧ s.stackFault type9.bytes (stackParse type9.bytes) = some 2 ∧ nakDueFor 2 = true ∧ s.stack.nakDue = none ∧ s.pathTo 1 1 ∧ s.portTakes 1 8 ∧
    (after (.stackDataRx 1 type9) s).f F.STACK_CNT.NAK_SENT = 1 ∧ ((after (.stackDataRx 1 type9) s).voq ((39 * 40 + 33) * 4 + 3)).map VoqItem.tc = [3] := by decide +kernel

theorem test_violation_quiet : let s := stk 0 { run0 with nakDue := some ⟨none, 5⟩ }
    s.ranOut ⟨none, 5⟩ = false ∧ (after (.stackDataRx 1 type9) s).f F.STACK_CNT.NAK_SUPPRESSED = 1 ∧ (after (.stackDataRx 1 type9) s).eths = s.eths := by decide +kernel

/-- A NAK finds no path to the sender: none goes, and the time between NAKs does not start. -/
theorem test_violation_lost : let s := noPath 0 run0
    s.arrives 1 type9 9 ∧ s.stackFault type9.bytes (stackParse type9.bytes) = some 2 ∧ nakDueFor 2 = true ∧ (s.pathPort 1).1 = none ∧
    (after (.stackDataRx 1 type9) s).voqs = s.voqs ∧ (after (.stackDataRx 1 type9) s).stack.nakDue = none := by decide +kernel

/-- Device 4 is behind port 2; both ports relay. -/
def relays : State :=
  (((((stk 0 run0).setB (F.STACK_PATH.VALID 4) true).setF (F.STACK_PATH.PRIMARY 4) 2).setB (F.STACK_PORTCFG.RELAY 1) true).setB (F.STACK_PORTCFG.RELAY 2) true)

theorem test_relay : relays.arrives 1 (dataF (4 * 128) 2) 1 ∧ relays.stackFault (dataF (4 * 128) 2).bytes (stackParse (dataF (4 * 128) 2).bytes) = none ∧
    relays.fb (F.FIRN_IPOL.EN (128 + 1)) = false ∧ relays.pathTo 4 2 ∧ (relays.eth 2).holdOver = false ∧
    relays.chg (4 * 34 + 3) + cellsFor 22 ≤ relays.gLimit 34 3 ∧ relays.fits 34 (cellsFor 22) = true ∧
    (after (.stackDataRx 1 (dataF (4 * 128) 2)) relays).f F.STACK_CNT.RELAYED = 1 ∧
    ((after (.stackDataRx 1 (dataF (4 * 128) 2)) relays).voq (((32 + 1) * 40 + 34) * 4 + 3)).map VoqItem.left = [1] := by decide +kernel

theorem test_relay_ends : (stackParse (dataF (4 * 128) 1).bytes).hop = 1 ∧ (after (.stackDataRx 1 (dataF (4 * 128) 1)) relays).f F.STACK_CNT.HOP_DROP = 1 ∧
    relays.fb (F.STACK_PATH.VALID 5) = false ∧ (after (.stackDataRx 1 (dataF (5 * 128) 2)) relays).f (F.STACK_VLOG.CAUSE 0) = 9 := by decide +kernel

/-- A stack frame with a bad FCS (R574). -/
theorem test_stack_bad_fcs : let s := stk 0 run0
    let h : EthFrame := { hb 4 0 with fcsOk := false }
    s.ethTakes 1 h = true ∧ s.isStackFrame 1 h.bytes = true ∧ (after (.heartbeatRx 1 h) s).f (F.ETH_STAT.RX_BADFCS 1) = 1 ∧
    (after (.heartbeatRx 1 h) s).stack = s.stack := by decide +kernel

/-! Stack time. -/

/-- A message for SE1 with a sequence number, whose frame is green. -/
def ptpIn (n : Nat) : PtpIn := ⟨n, ptpL2, 0⟩

/-- The service runs. -/
def timed (role : Nat) (y : Stack) : State := ((stk role y).setB F.STACK_TIMECFG.TIME_EN true).setF F.STACK_STATE.CUR_MASTER 1

theorem test_sync_tx : let s := timed 3 { run0 with syncDue := some ⟨none, 0⟩ }
    Sane s ∧ s.ranOut ⟨none, 0⟩ = true ∧ s.engUp 33 = true ∧ s.onlyPort 1 ∧ s.portTakes 1 58 ∧
    ((after .syncTxTimer s).voq ((39 * 40 + 33) * 4 + 3)).map VoqItem.tc = [3] ∧ (after .syncTxTimer s).stack.syncSeq = 1 ∧
    after .syncTxTimer (timed 3 { run0 with syncDue := some ⟨none, 1⟩ }) = timed 3 { run0 with syncDue := some ⟨none, 1⟩ } :=
  ⟨sane_of_check (by decide +kernel), by decide +kernel⟩

theorem test_follow_up_tx : let s := (timed 3 run0).setEth 1 { wire := some (wire9 (.sync 6 [])) }
    (s.eth 1).wire = some (wire9 (.sync 6 [])) ∧ (wire9 (.sync 6 [])).eg.fid = none ∧ s.actingMaster = true ∧ s.portTakes 1 58 ∧
    ((after (.ethFrameTxEnd 1) s).voq ((39 * 40 + 33) * 4 + 3)).map VoqItem.tc = [3] := by decide +kernel

theorem test_delay_req_sent : let s := (timed 0 { run0 with reqSeq := 6 }).setEth 1 { wire := some (wire9 (.delayReq 6 [])) }
    (wire9 (.delayReq 6 [])).eg.kind = .delayReq 6 [] ∧ (after (.ethFrameTxEnd 1) s).stack.reqOut = some ((5 * 1000000000 + 6) * 65536) := by decide +kernel

theorem test_delay_req_rx : let s := timed 3 run0
    s.timeRuns 1 = true ∧ s.roomAt39 64 ∧ (s.crossed 64).portTakes 1 68 ∧ ((after (.delayReqRx 1 9 (ptpIn 6) 0) s).voq ((39 * 40 + 33) * 4 + 3)).map VoqItem.tc = [3] ∧
    after (.delayReqRx 1 9 (ptpIn 6) 0) (timed 0 run0) = timed 0 run0 := by decide +kernel

theorem test_sync_rx : let s := timed 0 run0
    s.actingMaster = false ∧ s.masterPort = some 1 ∧ s.roomAt39 64 ∧ (s.crossed 64).portTakes 1 58 ∧ (after (.syncRx 1 (ptpIn 6) 65536) s).stack.syncIn.isSome = true ∧
    ((after (.syncRx 1 (ptpIn 6) 65536) s).voq ((39 * 40 + 33) * 4 + 3)).map VoqItem.tc = [3] ∧ after (.syncRx 1 (ptpIn 6) 0) (timed 3 run0) = timed 3 run0 := by decide +kernel

/-- No cell is free: a message for SE1 is dropped at P39 (R331). -/
theorem test_ptp_dropped : let s := (timed 0 run0).setChg (4 * 39 + 3) 262144
    s.mor.capture = false ∧ s.fits 39 (cellsFor 64) = false ∧ (after (.syncRx 1 (ptpIn 6) 65536) s).stack = s.stack ∧
    (after (.syncRx 1 (ptpIn 6) 65536) s).voqs = s.voqs := by decide +kernel

theorem test_follow_up_rx : let s := timed 0 { run0 with syncIn := some (6, 500 * 65536), good := 7 }
    s.timeRuns 1 = true ∧ s.masterPort = some 1 ∧ s.stack.syncIn = some (6, 500 * 65536) ∧ s.roomAt39 64 ∧ (after (.followUpRx 1 (ptpIn 5) 400 0) s).stack = s.stack := by decide +kernel

theorem test_follow_up_step : let s := (timed 0 { run0 with syncIn := some (6, 5000 * 65536) }).setF (F.TB_STEPLIM.STEP_LIMIT 0) 4999
    1000 * 65536 < (5000 * 65536 - ((0 * 65536 : Nat) : Int) - 0 - s.stack.delay).natAbs ∧ s.f (F.TB_STEPLIM.STEP_LIMIT 0) < (ns16 (5000 * 65536)).natAbs := by decide +kernel

/-- A step that is refused leaves the rate too (R473 step 4). -/
theorem test_follow_up_refused : let s := (timed 0 { run0 with syncIn := some (6, 5000 * 65536) }).setF (F.TB_STEPLIM.STEP_LIMIT 0) 4999
    s.timeRuns 1 = true ∧ s.masterPort = some 1 ∧ (after (.followUpRx 1 (ptpIn 6) 0 0) s).stack.syncIn = none ∧
    (after (.followUpRx 1 (ptpIn 6) 0 0) s).f (F.TB_INCR.INCR 0) = s.f (F.TB_INCR.INCR 0) := by decide +kernel

theorem test_delay_resp_rx : let s := timed 0 { run0 with diff := some 100, reqOut := some 0, reqSeq := 6 }
    s.stack.diff = some 100 ∧ s.stack.reqOut = some 0 ∧ (after (.delayRespRx 1 (ptpIn 6) 2) s).stack.delay = 65586 ∧ (after (.delayRespRx 1 (ptpIn 5) 2) s).stack = s.stack ∧ s.timeRuns 1 = true ∧ s.roomAt39 64 := by decide +kernel

/-! Snowline. -/

/-- Snowline armed, in phase `p`, watching with the bits of SNOW_CTRL's first word `en`. -/
def snowS (p : SnowPhase) (en : Word) (x : Snow) : State := ((io.setReg 0xC0000 en).setB F.SNOW_CTRL.ARMED true).withSnow { x with phase := p }

/-- A command of Snowline's block. -/
def scode (op : Nat) : Words8 := adm op 3

theorem test_snow_start : Sane io ∧ TakenSub io 0 (scode 0x54) 0x54 3 ∧ (after (.blockStartSnowline 0 (scode 0x54)) io).fb F.SNOW_CTRL.ARMED = true ∧
    (after (.blockStopSnowline 0 (scode 0x55)) (snowS .main 0 {})).fb F.SNOW_CTRL.ARMED = false := ⟨sane_of_check (by decide), by decide +kernel⟩

/-- Lane 2 is watched, for patterns too; standby. -/
def watch2 (x : Snow) : State :=
  (((snowS .standby 0x00040000 x).setB (F.SNOW_LANE.SW_EN 2) true).setB (F.SNOW_LANE.WUP_EN 2) true).setF (F.SNOW_LANE.ERRLIM 2) 1

theorem test_wup : Sane (watch2 {}) ∧ (watch2 {}).snow.phase ≠ .main ∧ (watch2 {}).fb F.SNOW_CTRL.ARMED = true ∧
    ((watch2 {}).reg 0xC0000).getLsbD (16 + 2) = true ∧ (watch2 {}).fb (F.SNOW_LANE.WUP_EN 2) = true ∧
    (after (.wupDetected 2) (watch2 {})).snow.phase = .waitPg ∧ ((after (.wupDetected 2) (watch2 {})).reg 0xC0008).getLsbD 2 = true ∧
    (after (.wupDetected 2) (watch2 {})).f (lcode 2) = 1 := ⟨sane_of_check (by decide), by decide +kernel⟩

theorem test_sw_error : let s := watch2 { frameErr := [(2, 1)] }
    s.frameErr 2 + 1 = s.f (F.SNOW_LANE.ERRLIM 2) + 1 ∧ (after (.swFrameEnd 2 fr1 false) s).f (lcode 2) = 2 ∧
    (after (.swFrameEnd 2 fr1 false) (watch2 {})).frameErr 2 = 1 ∧ (after (.swFrameEnd 2 fr1 false) (watch2 {})).snow.phase = .standby := by decide +kernel

theorem test_sw_fast : let s := (watch2 {}).setB (F.SNOW_LANE.FD_PASSIVE 2) true
    s.fb (F.SNOW_LANE.FD_PASSIVE 2) = true ∧ after (.swFrameEnd 2 fr64 true) s = s ∧ (s.setB (F.SNOW_LANE.FD_PASSIVE 2) false).fb (F.SNOW_LANE.FD_PASSIVE 2) = false ∧
    (after (.swFrameEnd 2 fr64 true) (s.setB (F.SNOW_LANE.FD_PASSIVE 2) false)).frameErr 2 = 1 := by decide +kernel

/-- Pattern 3 of lane 2 matches the ID 0x123. -/
def pat3 : State := (((watch2 { frameErr := [(2, 1)] }).setF (F.SNOW_LANE.PAT_EN 2) 8).setF (F.SNOW_SWPAT.ID 2 3) 0x123).setF (F.SNOW_SWPAT.ID_MASK 2 3) 0x7FF

theorem test_sw_match : pat3.patternMatch 2 3 fr1 = true ∧ (∀ k < 3, pat3.patternMatch 2 k fr1 = false) ∧
    (after (.swFrameEnd 2 fr1 true) pat3).f (lcode 2) = 11 ∧ (after (.swFrameEnd 2 fr1 true) pat3).frameErr 2 = 0 := by decide +kernel

/-- A wake-up pattern and a pattern match in one instant: the match's code stays, with one cause bit (R450). -/
theorem test_sw_code : let s := after (.wupDetected 2) (pat3.setB (F.SNOW_LANE.WUP_EN 2) true)
    s.f (lcode 2) = 1 ∧ s.snow.codeAt.lookup 2 = some s.now ∧ (after (.swFrameEnd 2 fr1 true) s).f (lcode 2) = 11 ∧
    (after (.swFrameEnd 2 fr1 true) (s.withSnow { s.snow with codeAt := [] })).f (lcode 2) = 1 := by decide +kernel

/-- Two causes in one instant: FIRST is the lower bit, whichever came first (R450). -/
theorem test_first_cause : let s := ((snowS .standby 0x100 {}).setReg 0xC0008 0).setB F.SNOW_CTRL.WAKE1_EN true
    (after (.gpioWake 1) s).f F.SNOW_CAUSE.FIRST = 22 ∧ (after (.wakePin 1) (after (.gpioWake 1) s)).f F.SNOW_CAUSE.FIRST = 17 ∧
    (after (.gpioWake 1) (after (.wakePin 1) s)).f F.SNOW_CAUSE.FIRST = 17 ∧
    (after (.wakePin 1) { after (.gpioWake 1) s with now := 1 }).f F.SNOW_CAUSE.FIRST = 22 := by decide +kernel

theorem test_sw_no_match : let s := watch2 { frameErr := [(2, 1)] }
    (∀ k < 8, s.patternMatch 2 k fr1 = false) ∧ (after (.swFrameEnd 2 fr1 true) s).frameErr 2 = 0 ∧ (after (.swFrameEnd 2 fr1 true) s).snow.phase = .standby := by
  decide +kernel

theorem test_wake_pin : let s := (snowS .standby 0 {}).setB F.SNOW_CTRL.WAKE1_EN true
    s.fb F.SNOW_CTRL.WAKE1_EN = true ∧ ((after (.wakePin 1) s).reg 0xC0008).getLsbD 17 = true ∧
    after (.wakePin 0) (snowS .standby 0 {}) = (snowS .standby 0 {}).setLevel 26 false := by decide +kernel

theorem test_wake_pin_main : let s := (snowS .main 0 {}).setB F.SNOW_CTRL.WAKE1_EN true
    s.snow.phase = .main ∧ ((after (.wakePin 1) s).src 881).count = 1 ∧ (after (.wakePin 1) s).snow.phase = .main := by decide +kernel

theorem test_wake_power_down : let s := (snowS .powerDown 0 {}).setB F.SNOW_CTRL.WAKE1_EN true
    (after (.wakePin 1) s).snow.wakeWaits = true ∧ (after (.wakePin 1) s).snow.phase = .powerDown := by decide +kernel

theorem test_wake_power_down_source : let s := (snowS .powerDown 0 {}).setB F.SNOW_CTRL.WAKE1_EN true
    s.fb F.GLB_BOOT.BOOT_DONE = true ∧ (after (.wakePin 1) s).snow.woken = true ∧ ((after (.wakePin 1) s).src 881).count = 1 := by decide +kernel

theorem test_wake_in_sequence : let s := (snowS .waitReset 0 { due := 5 }).setB F.SNOW_CTRL.WAKE1_EN true
    (after (.wakePin 1) s).snow.phase = .waitReset ∧ (after (.wakePin 1) s).snow.due = 5 := by decide +kernel

theorem test_gpio_wake : let s := snowS .standby 0x100 {}
    (s.reg 0xC0000).getLsbD (7 + 1) = true ∧ ((after (.gpioWake 1) s).reg 0xC0008).getLsbD 22 = true ∧
    (after (.gpioWake 1) s).snow.lvls.lookup 29 = some (s.fb ⟨0xC0000, 4, 1⟩, s.now) ∧
    after (.gpioWake 2) s = s.setLevel 30 ((s.reg 0xC0000).getLsbD 5) := by decide +kernel

theorem test_perst_wake : let s := (snowS .standby 0 {}).setB F.SNOW_CTRL.PERST1_EN true
    ((after (.perstWake 1 true) s).reg 0xC0008).getLsbD 19 = true ∧ ((after (.perstWake 1 false) (s.setB F.SNOW_CTRL.PERST_ANY true)).reg 0xC0008).getLsbD 19 = true ∧
    after (.perstWake 0 true) s = s ∧
    after (.perstWake 1 true) ((snowS .powerDown 0 {}).setB F.SNOW_CTRL.PERST1_EN true) = (snowS .powerDown 0 {}).setB F.SNOW_CTRL.PERST1_EN true := by decide +kernel

theorem test_rtc_alarm : let s := snowS .standby 0 { alarm := true }
    s.snow.alarm = true ∧ ((after .rtcAlarm s).reg 0xC0008).getLsbD 20 = true ∧ after .rtcAlarm (snowS .standby 0 {}) = snowS .standby 0 {} := by decide +kernel

theorem test_pwr_good : let s := snowS .waitPg 0 { due := 5 }
    Sane s ∧ s.snow.phase = .waitPg ∧ s.now ≤ s.snow.due ∧ (after .pwrGoodRise s).snow.phase = .waitReset ∧
    after .pwrGoodRise (snowS .main 0 {}) = (snowS .main 0 {}).setLevel 25 true := ⟨sane_of_check (by decide), by decide +kernel⟩

theorem test_pg_timeout : let s := snowS .waitPg 0 {}
    s.snow.due ≤ s.now ∧ (after .pgTimeout s).fb F.SNOW_CAUSE.PG_FAIL = true ∧ (after .pgTimeout s).snow.phase = .holdOff ∧
    after .pgTimeout (snowS .waitPg 0 { due := 5 }) = snowS .waitPg 0 { due := 5 } := by decide +kernel

theorem test_hold_off : (after .pwrEnNHoldEnd (snowS .holdOff 0 { wakeWaits := true })).snow.phase = .waitPg ∧
    (after .pwrEnNHoldEnd (snowS .holdOff 0 {})).snow.phase = .standby ∧
    after .pwrEnNHoldEnd (snowS .holdOff 0 { due := 5 }) = snowS .holdOff 0 { due := 5 } := by decide +kernel

theorem test_reset_delay : let s := snowS .waitReset 0 { woken := true }
    (after .resetDelayEnd s).snow.phase = .main ∧ (after .resetDelayEnd s).fb F.GLB_RSTCAUSE.WAKE = true ∧
    (after .resetDelayEnd s).boot.resetting = false ∧ after .resetDelayEnd (snowS .waitReset 0 { due := 5 }) = snowS .waitReset 0 { due := 5 } := by decide +kernel

/-- SNOW_STAT shows the level a pin has shown or taken in this lt, and PWR_GOOD as what its events gave (R457, log 109). -/
theorem test_levels : let s := (snowS .standby 0 {}).setLevel 26 false
    (s.pinLevel 26).1 = false ∧ ((s.setLevel 26 true).pinLevel 26).1 = true ∧ ((s.setLevel 25 true).pinLevel 26).1 = false := by decide +kernel

/-! Power. -/

/-- Mode `m`, with a move perhaps. -/
def pwr (m : Nat) (x : Option Move) : State := (io.setF F.PWR_STAT.MODE m).withPower { move := x }

/-- A move of POWER_MODE. -/
def mv : Move := { ref := some ⟨0, 0x77⟩, settle := 0 }

theorem test_power_mode : let s := (pwr 0 none).setF F.PWR_STAT.TJ 20
    Taken s 0 (adm 0x50 1) 0x50 ∧ s.f F.PWR_STAT.MODE ≠ min 2 (fieldOf (adm 0x50 1).w1 0 2) ∧ s.power.move = none ∧
    (after (.powerMode 0 (adm 0x50 1)) s).fb F.PWR_STAT.MOVING = true ∧ (after (.powerMode 0 (adm 0x50 1)) s).f F.PWR_STAT.TARGET = 1 ∧
    (after (.powerMode 0 (adm 0x50 3)) s).clampCount 0 = 0 ∧
    ((after (.powerMode 0 (adm 0x50 3)) s).power.move.map Move.clamps) = some 1 := by decide +kernel

theorem test_power_mode_ends_at_once : let s := pwr 1 none
    s.f F.PWR_STAT.MODE = 1 ∧ (after (.powerMode 0 (adm 0x50 1)) s).hostWord 0 28 = 0x77 ∧ status (.powerMode 0 (adm 0x50 1)) s = 0 ∧
    status (.powerMode 0 (adm 0x50 1)) (pwr 0 (some mv)) = 0x31 := by decide +kernel

theorem test_power_mode_hot : let s := ((pwr 1 none).setF F.PWR_STAT.TJ 100).setF F.PWR_CTRL.TJ_STEP 105
    (s.f F.PWR_CTRL.TJ_STEP : Int) - 10 < degC (s.f F.PWR_STAT.TJ) ∧ status (.powerMode 0 (adm 0x50 2)) s = 0x30 := by decide +kernel

/-- A hot device refuses SURGE, in SURGE already and while a move runs too (R36, R37). -/
theorem test_power_mode_hotter : let hot (m : Nat) (x : Option Move) := ((pwr m x).setF F.PWR_STAT.TJ 100).setF F.PWR_CTRL.TJ_STEP 105
    status (.powerMode 0 (adm 0x50 2)) (hot 2 none) = 0x30 ∧ status (.powerMode 0 (adm 0x50 2)) (hot 1 (some mv)) = 0x30 ∧
    status (.powerMode 0 (adm 0x50 1)) (hot 1 none) = 0 := by decide +kernel

/-- The clamp of code 3 counts where the command ends DONE (R8). -/
theorem test_settle_clamped : let s := (pwr 0 (some { mv with clamps := 1 })).setF F.PWR_STAT.TARGET 2
    (after .powerModeSettleEnd s).clampCount 0 = s.clampCount 0 + 1 ∧
    (after .powerModeSettleEnd (s.withPower { move := some { mv with clamps := 1, back := true } })).clampCount 0 = s.clampCount 0 := by decide +kernel

theorem test_settle : let s := (pwr 0 (some mv)).setF F.PWR_STAT.TARGET 1
    mv.settle ≤ s.now ∧ (after .powerModeSettleEnd s).f F.PWR_STAT.MODE = 1 ∧ ((after .powerModeSettleEnd s).src 887).count = 1 ∧
    after .powerModeSettleEnd (pwr 0 (some { mv with settle := 5 })) = pwr 0 (some { mv with settle := 5 }) := by decide +kernel

theorem test_settle_step_down : let s := (pwr 2 (some { mv with ref := none, stepDown := true })).setF F.PWR_STAT.TARGET 1
    (after .powerModeSettleEnd s).fb F.PWR_STAT.STEPPED_DOWN = true ∧ ((after .powerModeSettleEnd s).src 892).count = 1 := by decide +kernel

theorem test_settle_back : let s := pwr 1 (some { mv with back := true })
    s.power.move = some { mv with back := true } ∧ status .powerModeSettleEnd s = 0x30 ∧ (after .powerModeSettleEnd s).f F.PWR_STAT.MODE = 1 := by decide +kernel

theorem test_nack : (pwr 1 (some mv)).fb F.PWR_CTRL.VCTRL = false ∧ ((after .pmbusWriteNack (pwr 1 (some mv))).power.move.map Move.nacks) = some 1 ∧
    (after .pmbusWriteNack (pwr 1 (some { mv with nacks := 2 }))).fb F.PWR_STAT.VFAULT = true ∧
    status .pmbusWriteNack (pwr 1 (some { mv with nacks := 2 })) = 0x30 := by decide +kernel

theorem test_pg_fall : (after .pwrGoodFallDuringMove (pwr 1 (some mv))).fb F.PWR_STAT.VFAULT = true ∧
    ((after .pwrGoodFallDuringMove (pwr 1 (some { mv with ref := none }))).src 889).count = 1 := by decide +kernel

theorem test_step_down : let s := ((pwr 1 (some mv)).setF F.PWR_STAT.TARGET 2).setF F.PWR_CTRL.TJ_STEP 105
    (s.f F.PWR_CTRL.TJ_STEP : Int) ≤ degC 105 ∧ ((after (.thermalStepDown 105) s).power.move.map Move.back) = some true ∧
    (after (.thermalStepDown 105) ((pwr 2 none).setF F.PWR_CTRL.TJ_STEP 105)).f F.PWR_STAT.TARGET = 1 ∧
    (after (.thermalStepDown 105) ((pwr 1 none).setF F.PWR_CTRL.TJ_STEP 105)).power.move = none ∧
    (after (.thermalStepDown 105) s).f F.PWR_STAT.TJ = 105 := by decide +kernel

/-- A move out of SURGE that runs serves as the step-down. -/
theorem test_step_down_runs : let s := ((pwr 2 (some mv)).setF F.PWR_STAT.TARGET 1).setF F.PWR_CTRL.TJ_STEP 105
    ((after (.thermalStepDown 105) s).power.move.map Move.stepDown) = some true ∧
    ((after (.thermalStepDown 105) (((pwr 1 (some { mv with nacks := 2 })).setF F.PWR_STAT.TARGET 2).setF F.PWR_CTRL.TJ_STEP 105)).power.move.map Move.nacks) = some 0 := by
  decide +kernel

theorem test_alarm : let s := (pwr 1 none).setF F.PWR_CTRL.TJ_ALARM 115
    (s.f F.PWR_CTRL.TJ_ALARM : Int) ≤ degC 115 ∧ ((after (.tjAlarmCross 115) s).src 888).count = 1 ∧
    ((after (.tjAlarmCross 116) (after (.tjAlarmCross 115) s)).src 888).count = 1 ∧ degC 109 < (s.f F.PWR_CTRL.TJ_ALARM : Int) - 5 ∧
    (after (.tjAlarmRearm 109) (after (.tjAlarmCross 115) s)).power.alarmed = false := by decide +kernel

/-! Boot and reset. -/

/-- Before the release of the main reset. -/
def dark : State := (State.reset.withBoot { resetting := false }).withSnow { phase := .main }

/-- Every bank at 3.3 V. -/
def powered : List Nat := List.replicate 8 3300

theorem test_release : Sane dark ∧ dark.snow.phase = .main ∧ dark.boot.resetting = false ∧ dark.boot.mainOn = false ∧
    (after (.mainResetRelease ⟨1, 2, powered⟩) dark).f F.GLB_BOOT.STATE = 1 ∧ (after (.mainResetRelease ⟨0, 2, powered⟩) dark).f F.GLB_BOOT.STATE = 2 ∧
    ((after (.mainResetRelease ⟨1, 2, powered⟩) dark).func 1).link = true ∧ after (.mainResetRelease ⟨1, 2, powered⟩) State.reset = State.reset :=
  ⟨sane_of_check (by decide), by decide +kernel⟩

/-- Bank voltages at the limits of R715 to R717: bank 1 has lost its VIO. -/
def voltages : List Nat := [2301, 999, 1000, 1299, 1300, 2300, 3300, 1800]

theorem test_release_low : let t := after (.mainResetRelease ⟨1, 2, voltages⟩) dark
    t.dark 16 = true ∧ t.dark 31 = true ∧ t.dark 15 = false ∧ t.dark 32 = false ∧ t.reg 0x58 = 0b0110010100000010 ∧
    t.txdPin 16 = .highZ ∧ t.lctlPin 16 = none ∧ t.txdPin 0 = .recessive ∧ t.lctlPin 0 = some true := by decide +kernel

/-- The ROM in a state, with a source. -/
def rom (src st : Nat) : State := ((after (.mainResetRelease ⟨0, 0, powered⟩) dark).setF F.GLB_BOOT.STRAP_SRC src).setF F.GLB_BOOT.STATE st

theorem test_mailbox : (rom 1 1).mayRead (.host 0) = true ∧ (rom 1 1).fb F.GLB_BOOT.BOOT_DONE = false ∧ (rom 1 1).f F.GLB_BOOT.STRAP_SRC = 0 + 1 ∧
    (after (.bootMailboxGo 0 0x80000001) (rom 1 1)).f F.GLB_BOOT.STATE = 2 ∧ (after (.bootMailboxGo 0 0x80000001) (rom 1 1)).f F.GLB_BOOTLEN.LEN = 208 ∧
    (after (.bootMailboxGo 1 0x80000001) (rom 1 1)).f F.GLB_BOOT.STATE = 1 := by decide +kernel

theorem test_image_none : (rom 0 2).boot.mainOn = true ∧ (after (.imageReadDone none) (rom 0 2)).f F.GLB_BOOT.FAIL_CAUSE = 8 ∧
    (after (.imageReadDone none) (rom 0 2)).boot.attempt = 1 ∧ (after (.imageReadDone none) (rom 1 2)).f F.GLB_BOOT.STATE = 1 ∧
    (after (.imageReadDone none) (after (.imageReadDone none) (rom 0 2))).f F.GLB_BOOT.STATE = 5 ∧ after (.imageReadDone none) (rom 1 1) = rom 1 1 := by
  decide +kernel

/-- The image read is VERIFYING until the next command that follows it (log 110). -/
def checks (src : Nat) (bs : List Byte) : State := after (.imageReadDone (some bs)) (rom src 2)

theorem test_image_bad : (checks 0 [1]).f F.GLB_BOOT.STATE = 3 ∧ (checks 0 [1]).boot.verifying = some [1] ∧ verify [1] none = 1 ∧
    (after .bootDone (checks 0 [1])).f F.GLB_BOOT.FAIL_CAUSE = 1 ∧ (after .bootDone (checks 0 [1])).boot.attempt = 1 ∧
    (checks 0 [1]).verifyEnd.f F.GLB_BOOT.STATE = 2 := by decide +kernel

/-- Through the mailbox the ROM reads LEN bytes; from the resume source what its descriptor gives, without one nothing (R669, R691). -/
theorem test_image_short : (rom 1 2).f F.GLB_BOOTLEN.LEN = 208 ∧ (rom 1 2).bootRead [1] = none ∧
    (checks 1 [1]).f F.GLB_BOOT.FAIL_CAUSE = 8 ∧ ((rom 1 2).bootRead (List.replicate 209 0)).map List.length = some 208 ∧
    (rom 3 2).bootRead [1] = none ∧ ((rom 3 2).modBoot fun b => { b with resume := some 1 }).bootRead [1, 2] = some [1] := by decide +kernel

/-- An image without segments for SE0 to SE3, its security version the highest there is. -/
def image : List Byte := leBytes 4 0x425A5255 ++ leBytes 4 1 ++ leBytes 4 208 ++ leBytes 4 7 ++ leBytes 4 0xFFFFFFFF ++ leBytes 4 0 ++ leBytes 4 15 ++ List.replicate 180 0

/-- Which key hash the chip holds is not known (log 13): where the key and the signature hold, the image is valid. -/
theorem test_image_valid (h : keyOk image = true) (g : signatureOk image = true) : verify image none = 0 := by
  have a : (imgWord image 0 == 0x425A5255 && imgWord image 4 == 1) = true := by decide +kernel
  have b : lengthOk image = true := by decide +kernel
  have c : imgWord image 0x10 = 4294967295 := by decide +kernel
  have d : (segments image).all (segOk (imgWord image 0x14) 15) = true := by decide +kernel
  have e : imgWord image 0x18 = 15 := by decide +kernel
  have n : ¬ 4294967295 < Config.otpMinSecver := by decide
  simp only [verify, a, b, h, g, c, d, e, n, Bool.not_true, Bool.false_eq_true, if_false, if_true]

/-- The image runs, SE3 among its engines. -/
def booted : State := (rom 0 4).setEng 35 { stopped := false }

theorem test_boot_done : booted.f F.GLB_BOOT.STATE = 4 ∧ booted.fb F.GLB_BOOT.BOOT_DONE = false ∧ booted.engUp 35 = true ∧
    (∀ l < 128, (booted.eng (l / 4)).stopped = true) ∧ (after .bootDone booted).fb F.GLB_BOOT.BOOT_DONE = true ∧ after .bootDone (rom 0 2) = rom 0 2 := by decide +kernel

/-- The main domain runs. -/
def mainUp : State := io.withSnow { phase := .main }

theorem test_sys_reset : Sane mainUp ∧ mainUp.snow.phase = .main ∧ (after .sysReset mainUp).reg 0x30 = (mainUp.reg 0x30 ||| 2) ∧
    (after .sysReset mainUp).fb F.GLB_BOOT.BOOT_DONE = false ∧ after .sysReset io = io := ⟨sane_of_check (by decide), by decide +kernel⟩

theorem test_reset_key : mainUp.mayRead (.host 0) = true ∧ mainUp.boot.mainOn = true ∧
    (after (.deviceResetKey (.host 0)) mainUp).reg 0x30 = (mainUp.reg 0x30 ||| 4) := by decide +kernel

theorem test_reset_key_engine : let s := mainUp.withBoot { mainOn := false, resetting := false }
    s.mayRead (.engine 35) = true ∧ s.boot.mainOn = false ∧ after (.deviceResetKey (.engine 35)) s = s := by decide +kernel

theorem test_thermal : 135 ≤ degC 135 ∧ (after (.thermalShutdown 135) mainUp).boot.resetting = true ∧
    after (.thermalShutdown 134) mainUp = mainUp ∧ (after (.thermalRelease 99) (after (.thermalShutdown 135) mainUp)).boot.resetting = false ∧
    after (.thermalRelease 100) mainUp = mainUp := by decide +kernel

theorem test_thermal_release : (State.reset.withSnow { phase := .main }).boot.resetting = true ∧
    (after (.thermalRelease 99) (State.reset.withSnow { phase := .main })).f F.PWR_STAT.TJ = 99 ∧ after (.thermalRelease 99) mainUp = mainUp := by decide +kernel

/-- A lock that a device reset ends leaves LOCK_EXPIRED (R179). -/
theorem test_reset_lock : let s := mainUp.setObj 5 { lock := some ⟨0, 5, [], []⟩ }
    (s.obj 5).lock.isSome = true ∧ (after .sysReset s).rd8 (objAddr 0 5 0 + 2) = 0x10 ∧ ((after .sysReset s).obj 5).lock = none := by decide +kernel

theorem test_standby : (∀ l < 128, mainUp.laneSt l = St.off) ∧ mainUp.framesOut = false ∧
    (after (.standbyKey (.host 0)) mainUp).snow.phase = .powerDown ∧ after (.standbyKey (.host 0)) io = io := by decide +kernel

/-- Lane 9 and port 1 send. -/
def sendingAll : State := (((mainUp.setF (F.LANE_STATE.STATE 9) St.active).setLane 9 { att := some att9 }).setB (F.ETH_STAT.ENABLED 1) true).setEth 1 { wire := some (wire9 (.other [])) }

theorem test_standby_waits : (∀ l < 128, sendingAll.laneSt l ≠ St.off → (sendingAll.lane l).att.isSome = true ∧ (sendingAll.lane l).pend = none) ∧
    (∀ e < 4, sendingAll.fb (F.ETH_STAT.ENABLED e) = true → (sendingAll.eth e).wire.isSome = true ∧ (sendingAll.eth e).pendDis = none) ∧
    ((after (.standbyKey (.host 0)) sendingAll).lane 9).pend = some ⟨.stop, none⟩ ∧ ((after (.standbyKey (.host 0)) sendingAll).eth 1).pendDis = some none := by
  decide +kernel

/-- The rails are about to go off. -/
def down : State := io.withSnow { phase := .powerDown }

theorem test_rails_off : down.framesOut = false ∧ (∀ l < 128, down.laneSt l = St.off) ∧ (∀ e < 4, down.fb (F.ETH_STAT.ENABLED e) = false) ∧
    down.mor.started = false ∧ (after .standbyRailsOff down).snow.phase = .holdOff ∧ (after .standbyRailsOff down).fb F.GLB_BOOT.BOOT_DONE = false ∧
    after .standbyRailsOff io = io := by decide +kernel

/-- IMAGE_LOAD for the engines of masks. -/
def imgC (pe se : Nat) : Words8 := ⟨0x58, BitVec.ofNat 32 pe, BitVec.ofNat 32 se, 0, 0, 0, 0, 0x77⟩

theorem test_image_load : Sane io ∧ Taken io 0 (imgC 4 0) 0x58 ∧ io.boot.image = none ∧ (∀ k < 4, io.laneSt (4 * 2 + k) = St.off) ∧
    ((after (.imageLoad 0 (imgC 4 0)) io).boot.image.map ImageCmd.peMask) = some 4 := ⟨sane_of_check (by decide), by decide +kernel⟩

theorem test_image_load_refused : status (.imageLoad 0 (imgC 0 8)) io = 0x30 ∧ status (.imageLoad 0 (imgC 4 0)) bus9 = 0x30 ∧
    status (.imageLoad 0 (imgC 0 1)) colUp = 0x30 ∧ colUp.engUp 32 = true := by decide +kernel

/-- An IMAGE_LOAD of SE0 is in progress. -/
def loading (se : Nat) : State := io.withBoot { io.boot with image := some ⟨⟨0, 0x77⟩, 0, se, 0x5000, 300⟩ }

theorem test_image_fails : (loading 1).boot.image = some ⟨⟨0, 0x77⟩, 0, 1, 0x5000, 300⟩ ∧ status (.imageLoadCommit []) (loading 1) = 0x30 ∧
    (after (.imageLoadCommit []) (loading 1)).f F.GLB_BOOT.FAIL_CAUSE = 8 ∧
    (after (.imageLoadCommit (List.replicate 299 0)) (loading 1)).f F.GLB_BOOT.FAIL_CAUSE = 8 ∧
    (after (.imageLoadCommit (List.replicate 300 0)) (loading 1)).f F.GLB_BOOT.FAIL_CAUSE = 1 ∧ after (.imageLoadCommit []) io = io := by decide +kernel

/-- As above, for the masks of the command. -/
theorem test_image_loads (h : keyOk image = true) (g : signatureOk image = true) :
    verify image (some (0, 15)) = 0 := by
  have a : (imgWord image 0 == 0x425A5255 && imgWord image 4 == 1) = true := by decide +kernel
  have b : lengthOk image = true := by decide +kernel
  have c : imgWord image 0x10 = 4294967295 := by decide +kernel
  have d : (segments image).all (segOk 0 15) = true := by decide +kernel
  have e : imgWord image 0x14 = 0 := by decide +kernel
  have x : imgWord image 0x18 = 15 := by decide +kernel
  have n : ¬ 4294967295 < Config.otpMinSecver := by decide
  simp only [verify, a, b, h, g, c, d, e, x, n, Bool.not_true, Bool.false_eq_true, if_false, if_true]

/-! Registers. -/

/-- The fields of the register at `a`, and whether the agent's block is in its set-up state. -/
def fieldsAt (a : Nat) : List RegField := ((regRow a).map RegRow.fields).getD []

/-- The block of the register at `a` is in its set-up state for function 0. -/
def setupAt (s : State) (a : Nat) : Bool := ((regRow a).map fun r => s.inSetup (.host 0) r.blk (r.i a)).getD false

theorem test_write_byte : Sane io ∧ io.mayWrite (.host 0) = true ∧ (after (.registerWrite (.host 0) 0x4000 5 3) io).clampCount 0 = 1 ∧
    (after (.registerWrite (.engine 35) 0x4000 5 3) io) = io := ⟨sane_of_check (by decide), by decide +kernel⟩

theorem test_write_rwc : setupAt io 0x10000 = true ∧ ⟨17, 7, .rwc, 120, 85, 125, false⟩ ∈ fieldsAt 0x10000 ∧ ⟨31, 1, .rw, 0, 0, 1, false⟩ ∈ fieldsAt 0x10000 ∧
    (after (.registerWrite (.host 0) 0x4000 0x80FFFFFF 15) io).f F.PWR_CTRL.TJ_STEP = 125 ∧
    (after (.registerWrite (.host 0) 0x4000 0x80000000 15) io).f F.PWR_CTRL.TJ_STEP = 85 ∧
    (after (.registerWrite (.host 0) 0x4000 0x80000000 15) io).fb F.PWR_CTRL.VCTRL = true := by decide +kernel

theorem test_write_w1c : let s := io.setReg 0x10010 0x06000000
    ⟨26, 1, .w1c, 0, 0, 1, true⟩ ∈ fieldsAt 0x10010 ∧ ⟨30, 2, .ro, 0, 0, 3, false⟩ ∈ fieldsAt 0x10010 ∧ ⟨9, 9, .rc, 0, 0, 511, true⟩ ∈ fieldsAt 0x10010 ∧
    (after (.registerWrite (.host 0) 0x4004 0xC4000000 15) s).reg 0x10010 = 0x02000000 := by decide +kernel

theorem test_write_shut : let s := port1 true {}
    setupAt s 0xB0100 = false ∧ ⟨14, 1, .rw, 0, 0, 1, false⟩ ∈ fieldsAt 0xB0100 ∧ s.fb (F.ETH_CFG.PROMISC 1) = false ∧
    (after (.registerWrite (.host 0) 0x2C040 0x4000 15) s).fb (F.ETH_CFG.PROMISC 1) = false := by decide +kernel

theorem test_write_engine_memory : (io.eng 0).stopped = true ∧ (after (.registerWrite (.host 0) 0x80001 7 15) io).rd32 0x200004 = 7 ∧
    (after (.registerWrite (.host 0) 0x80001 7 15) (io.setEng 0 { stopped := false })).clampCount 0 = 1 ∧
    (after (.registerWrite (.engine 35) 0x82000 7 15) io).rd32 0x208000 = 7 := by decide +kernel

theorem test_write_list : (after (.registerWrite (.host 0) 0x200000 7 15) io).clampCount 0 = 1 ∧ io.mayWrite (.engine 35) = true ∧
    (after (.registerWrite (.engine 35) 0x200000 7 15) io).rd32 0x800000 = 7 := by decide +kernel

theorem test_hole : engMemOf 0x1F0000 = none ∧ listMemOf 0x1F0000 = none ∧ regRow 0x1F0000 = none ∧ hostBlockOf 0x1F0000 = none ∧
    after (.registerWrite (.host 0) 0x7C000 7 15) io = io ∧ (after (.rcFieldRead (.host 0) (.bar0 0x7C000)) (io.withReadData 9)).readData = 0 := by decide +kernel

theorem test_no_access : State.reset.mayRead (.host 0) = false ∧ State.reset.mayWrite (.host 0) = false ∧
    after (.registerWrite (.host 0) 0x4000 7 15) State.reset = State.reset ∧ after (.rcFieldRead (.host 0) (.bar0 0x4000)) State.reset = State.reset := by decide +kernel

theorem test_read_rc : let s := io.setReg 0x10010 0x02000A03
    s.mayRead (.host 0) = true ∧ (after (.rcFieldRead (.host 0) (.bar0 0x4004)) s).readData = 0x02000A03 ∧ (after (.rcFieldRead (.host 0) (.bar0 0x4004)) s).reg 0x10010 = 0x02000603 := by
  decide +kernel

theorem test_read_memory : let s := io.wr32 0x208010 77
    s.poisoned 1 0 4 = false ∧ (after (.rcFieldRead (.host 0) (.bar0 0x82004)) s).readData = 77 := by decide +kernel

/-- A doorbell reads what was last written, and BAR4 an object's words (R44, R45). -/
theorem test_read_bar24 : io.mayRead (.host 0) = true ∧ io.hostOpen 0 = true ∧
    (after (.rcFieldRead (.host 0) (.doorbell (.sqTail 5))) (io.modSq 5 fun q => { q with db := 3 })).readData = 3 ∧
    (after (.rcFieldRead (.host 0) (.object 2 7 0)) (io.wr32 (objAddr 2 7 1) 9)).readData = 9 := by decide +kernel

/-- Scrubbing is on. -/
def scrubs : State := (io.setB F.GLB_ECCCTRL.SCRUB_EN true).setF F.GLB_ECCCTRL.CE_LIMIT 0

theorem test_scrub_corrected : scrubs.boot.mainOn = true ∧ scrubs.fb F.GLB_ECCCTRL.SCRUB_EN = true ∧
    (after (.scrubRead ⟨2, 3, 0x44, 0, .corrected, true⟩) scrubs).f F.GLB_ECCSTAT.CE = 1 ∧ ((after (.scrubRead ⟨2, 3, 0x44, 0, .corrected, true⟩) scrubs).src 890).count = 1 ∧
    (after (.scrubRead ⟨2, 3, 0x44, 0, .corrected, true⟩) scrubs).f F.GLB_ECCSTAT.LOG_HEAD = 1 := by decide +kernel

theorem test_scrub_uncorrectable : (after (.scrubRead ⟨2, 3, 0x44, 0, .uncorrectable, true⟩) scrubs).poisoned 2 3 0x44 = true ∧
    ((after (.scrubRead ⟨2, 3, 0x44, 0, .uncorrectable, true⟩) scrubs).src 891).count = 1 := by decide +kernel

theorem test_scrub_pass : let s := scrubs.withNow (scrubs.f F.GLB_ECCCTRL.SCRUB_MS * 320000)
    (after (.scrubRead ⟨2, 3, 0, 0, .passEnd, true⟩) s).f F.GLB_ECCSTAT.SCRUB_PASS = 1 ∧
    ((after (.scrubRead ⟨2, 3, 0, 0, .passEnd, true⟩) s).src 893).count = 1 ∧ (after (.scrubRead ⟨2, 3, 0, 0, .passEnd, true⟩) s).boot.passAt = s.now ∧
    after (.scrubRead ⟨2, 3, 0, 0, .passEnd, true⟩) (s.withNow (s.now - 1)) = s.withNow (s.now - 1) ∧ after (.scrubRead ⟨2, 3, 0, 0, .clean, true⟩) scrubs = scrubs := by decide +kernel

/-- An error that an access finds: BY_SCRUB 0, also with scrubbing off. -/
theorem test_ecc_found : let s := io.setB F.GLB_ECCCTRL.SCRUB_EN false
    s.boot.mainOn = true ∧ s.fb F.GLB_ECCCTRL.SCRUB_EN = false ∧
    (after (.scrubRead ⟨2, 3, 0x44, 0, .uncorrectable, false⟩) s).poisoned 2 3 0x44 = true ∧
    ((after (.scrubRead ⟨2, 3, 0x44, 0, .uncorrectable, false⟩) s).reg 0x104).getLsbD 22 = false ∧
    ((after (.scrubRead ⟨2, 3, 0x44, 0, .uncorrectable, true⟩) scrubs).reg 0x104).getLsbD 22 = true ∧
    after (.scrubRead ⟨2, 3, 0, 0, .passEnd, false⟩) s = s ∧ after (.scrubRead ⟨2, 3, 0, 0, .corrected, true⟩) s = s := by decide +kernel

/-- A frame for bus 9 waits at P2's output; its cells are held there once. -/
def queued9 : State := ((on.setFrame 7 { cells := [3], holds := [(2, 1)] }).setVoq ((0 * 40 + 2) * 4 + 1) [⟨7, 1, 1, .buses [9] fr1 ⟨0, 0⟩⟩])

/-- The queue memories lose it: its output counts it in EG_DROP, and its hold ends (R696, R297). -/
theorem test_queue_error : let t := queued9.voqDrop ((0 * 40 + 2) * 4 + 1)
    t.voq ((0 * 40 + 2) * 4 + 1) = [] ∧ t.f (F.COL_PORTSTAT.EG_DROP 2) = 1 ∧ (t.frame 7).holds = [] := by decide +kernel

theorem test_queue_scrub : (after (.scrubRead ⟨9, 0, 0x44, 0, .uncorrectable, true⟩) (queued9.setB F.GLB_ECCCTRL.SCRUB_EN true)).voqs = queued9.voqs := by decide +kernel

/-! The queue. -/

theorem test_step_front : step { io with pending := [.lctlSettleExpiry 9, .boCountAge 9] } = exec (.lctlSettleExpiry 9) { io with pending := [.boCountAge 9] } := by
  rfl

theorem test_step_idle : io.pending = [] ∧ (match step io with | .next t => t.now | _ => 0) = 1 := by decide +kernel

theorem test_no_word : decodeTableWord 16 0xFFFF = none ∧ (State.reset.withFetchWord 16 0xFFFF) = State.reset := by decide +kernel

/-! Ill-formed commands: a term for each check of WellFormed, beside a well-formed one. -/

theorem test_wf_frames : fr1.wf = true ∧ fr64.wf = true ∧ { fr1 with id := 0x800 }.wf = false ∧ { fr1 with len := 16 }.wf = false ∧
    { fr1 with brs := true }.wf = false ∧ { fr1 with esi := true }.wf = false ∧ { fr1 with sec := true }.wf = false ∧ { fr1 with data := [1] }.wf = false ∧
    { fr1 with rtr := true }.wf = false ∧ { fr64 with len := 9, data := List.replicate 9 0 }.wf = false ∧ { fr64 with rtr := true }.wf = false ∧
    { fr1 with fmt := .xl, len := 0, data := [] }.wf = false ∧ { fr1 with fmt := .xl, len := 2049, data := [] }.wf = false ∧
    { fr1 with fmt := .xl, brs := true }.wf = false := by decide +kernel

/-- The frame with an 11-bit ID that is too large. -/
def fr0 : Frame := { fr1 with id := 0x800 }

theorem test_wf_events : ∀ c ∈ [Instr.frameValid 9 fr0 ⟨0, 0, 0⟩ (), .filterDecision 9 fr0 ⟨0, 0, 0⟩ false ⟨false, []⟩ (), .cutThroughLookup 9 fr0 false, .seekFrameEnd 9 fr0 true,
    .swFrameEnd 2 fr0 true, .ethFrameRx 1 (rxF true [1]), .syncRx 1 (ptpIn 65536) 0, .followUpRx 1 (ptpIn 65536) 0 0, .delayReqRx 1 0 (ptpIn 65536) 0, .delayRespRx 1 (ptpIn 65536) 0,
    .cirqueCommit 40, .modTimeExpiry 40, .cirqueClaim (.host 0) 40, .cirqueComplete (.host 0) 63 0, .idleWrite 0 36, .scrubRead ⟨2, 32, 0, 0, .clean, true⟩,
    .scrubRead ⟨0, 36, 0, 0, .clean, true⟩, .scrubRead ⟨3, 128, 0, 0, .clean, true⟩, .scrubRead ⟨6, 1, 0, 0, .clean, true⟩, .mainResetRelease ⟨0, 0, []⟩, .heartbeatRx 1 (rxF true [1]), .rtLoadCommit [], .polLoadCommit [],
    .routePush 0 (pushC 3) [], .ioNop 5 (desc 3 0 0 0)], c.wf = false := by decide +kernel

theorem test_wf_lengths : (Instr.txPayloadReadDone 5 (List.replicate 2049 0)).wf = false ∧ (Instr.rtLoadCommit (List.replicate 4097 rec1)).wf = false ∧
    (Instr.polLoadCommit (List.replicate 4097 0)).wf = false := by decide +kernel

/-- A code that is that of no command named here. -/
def none0 : Words8 := adm 0x3E 9

theorem test_wf_codes : ∀ c ∈ [Instr.adminNop 0 none0, .adminOpcodeUnknown 0 (adm 0 0), .adminOpcodeUnknown 0 (adm 0x58 0), .funcEnable 0 none0, .ringCreateCq 0 none0,
    .ringCreateSq 0 none0, .ringDeleteSq 0 none0, .ringDeleteSq 0 (adm 0x43 0x100), .ringDeleteCq 0 (adm 0x43 0), .adoptRings 0 none0, .laneStart 0 none0,
    .laneStop 0 ⟨none0, none⟩, .laneSuspend 0 none0, .laneResume 0 none0, .busoffRecover 0 none0, .busBind 0 ⟨none0, none⟩, .txCancel 0 none0, .txAbort 0 none0,
    .fltLoad 0 none0, .rtLoad 0 none0, .polLoad 0 none0, .powerMode 0 none0, .tbStep 0 none0, .portEnable 0 none0, .portDisable 0 none0], c.wf = false := by
  decide +kernel

theorem test_wf_codes2 : ∀ c ∈ [Instr.blockStartMoraine 0 (adm 0x54 1), .blockStopMoraine 0 (adm 0x55 3), .blockStartTimeBases 0 (adm 0x54 0), .blockStopTimeBases 0 (adm 0x55 0),
    .blockStartStack 0 (adm 0x54 0), .blockStopStack 0 (adm 0x55 0), .blockStartSnowline 0 (adm 0x54 0), .blockStopSnowline 0 (adm 0x55 0), .arm 0 (adm 0x56 1),
    .trigger 0 (adm 0x56 0), .freeze 0 (adm 0x56 0), .dump 0 (adm 0x56 0), .hringRestart 0 (adm 0x56 0), .clear 0 (adm 0x56 0), .recStatus 0 (adm 0x56 5),
    .routePush 0 (adm 0x57 1) [rec1], .epochCommit 0 (adm 0x57 0), .handover 0 (adm 0x57 0), .stackStatus 0 (adm 0x57 2), .imageLoad 0 none0, .tx 5 ⟨none0, []⟩,
    .ethTx 5 none0, .rxbuf 5 none0], c.wf = false := by decide +kernel

theorem test_wf_holds : ∀ c ∈ [Instr.adminNop 0 (adm 0 0), .laneStart 0 (adm 0x45 9), .frameValid 9 fr1 ⟨0, 0, 0⟩ (), .blockStartMoraine 0 (adm 0x54 4), .recStatus 0 (adm 0x56 7),
    .routePush 0 (adm 0x57 0) [rec1], .cirqueCommit 64, .ioNop 5 none0, .boCountAge 9], c.wf = true := by decide +kernel

/-! The verification of an image: the standards' own values (SHA-256 of "abc"; twice the base point of P-256). -/

theorem test_sha256 : sha256 [0x61, 0x62, 0x63] = 0xba7816bf8f01cfea414140de5dae2223b00361a396177a9cb410ff61f20015ad := by decide +kernel

theorem test_ec_double : ecAdd (some (p256Gx, p256Gy)) (some (p256Gx, p256Gy)) =
    some (0x7cf27b188d034f7e8a52380304b51ac3c08969e277f21b35a60b48fc47669978, 0x07775510db8ed040293d9ac69f7430dbba7dade63ce982299e04b79d227873d1) := by decide +kernel

theorem test_ec_curve : ecValid p256Gx p256Gy = true ∧ ecValid p256Gx (p256Gy + 1) = false ∧
    ecAdd (some (p256Gx, p256Gy)) (some (p256Gx, p256P - p256Gy)) = none := by decide +kernel

theorem test_wf_list (els : List Rec4) (h : 16384 < els.length) : (Instr.fltLoadTransferDone 9 els).wf = false := by
  have n : ¬ els.length ≤ 16384 := by omega
  simp [Instr.wf, n]

end Sys2Proof.Tests
end

section
/-! Every command keeps the queue and a sane state, and changes no piece that changesOf does not name. -/
namespace Sys2Proof.Machine
open Sys2Proof

/-- A step with a command at the front of the queue is that command's effect on the queue's rest. -/
theorem step_of_pending {s : State} {c : Instr} {rest : List Instr} (h : s.pending = c :: rest) :
    step s = exec c { s with pending := rest } := by
  rw [step, h]

theorem step_push (s : State) (c : Instr) : step (s.push c) = exec c s := step_of_pending rfl

/-- Settles O1: the match of `step` on the queue. -/
theorem stepRunsTheCommand : Obligations.StepRunsTheCommand :=
  ⟨fun _ _ _ h => step_of_pending h, step_push⟩

/-- The effect of every command, command by command: the lemma about its meaning names the pieces which that meaning can
change, and that each of them is in the command's list is computed. The last case is that of OVER, whose name is a token of
Mathlib and cannot head a case. -/
theorem exec_ok (c : Instr) (s : State) (hs : Sane s) : OkO (fun k => (changesOf c).contains k) s (exec c s) := by
  have hok : Ok (fun k => (changesOf c).contains k) s s := ok_refl hs
  cases c with
  | adminNop => apply execAdminNop_ok <;> trivial
  | adminOpcodeUnknown => apply execAdminOpcodeUnknown_ok <;> trivial
  | funcEnable => apply execFuncEnable_ok <;> trivial
  | ringCreateCq => apply execRingCreateCq_ok <;> trivial
  | ringCreateSq => apply execRingCreateSq_ok <;> trivial
  | ringDeleteSq => apply execRingDeleteSq_ok <;> trivial
  | ringDeleteSqCommit => apply execRingDeleteSqCommit_ok <;> trivial
  | ringDeleteCq => apply execRingDeleteCq_ok <;> trivial
  | adoptRings => apply execAdoptRings_ok <;> trivial
  | laneStart => apply execLaneStart_ok <;> trivial
  | laneStop => apply execLaneStop_ok <;> trivial
  | laneSuspend => apply execLaneSuspend_ok <;> trivial
  | laneResume => apply execLaneResume_ok <;> trivial
  | busoffRecover => apply execBusoffRecover_ok <;> trivial
  | busBind => apply execBusBind_ok <;> trivial
  | txCancel => apply execTxCancel_ok <;> trivial
  | txAbort => apply execTxAbort_ok <;> trivial
  | fltLoad => apply execFltLoad_ok <;> trivial
  | fltLoadTransferDone => apply execFltLoadTransferDone_ok <;> trivial
  | fltLoadCommit => apply execFltLoadCommit_ok <;> trivial
  | rtLoad => apply execRtLoad_ok <;> trivial
  | rtLoadCommit => apply execRtLoadCommit_ok <;> trivial
  | polLoad => apply execPolLoad_ok <;> trivial
  | polLoadCommit => apply execPolLoadCommit_ok <;> trivial
  | powerMode => apply execPowerMode_ok <;> trivial
  | powerModeSettleEnd => apply execPowerModeSettleEnd_ok <;> trivial
  | pmbusWriteNack => apply execPmbusWriteNack_ok <;> trivial
  | pwrGoodFallDuringMove => apply execPwrGoodFallDuringMove_ok <;> trivial
  | tbStep => apply execTbStep_ok <;> trivial
  | portEnable => apply execPortEnable_ok <;> trivial
  | portDisable => apply execPortDisable_ok <;> trivial
  | blockStartMoraine => apply execBlockStartMoraine_ok <;> trivial
  | blockStopMoraine => apply execBlockStopMoraine_ok <;> trivial
  | blockStartTimeBases => apply execBlockStartTimeBases_ok <;> trivial
  | blockStopTimeBases => apply execBlockStopTimeBases_ok <;> trivial
  | blockStartStack => apply execBlockStartStack_ok <;> trivial
  | blockStopStack => apply execBlockStopStack_ok <;> trivial
  | blockStartSnowline => apply execBlockStartSnowline_ok <;> trivial
  | blockStopSnowline => apply execBlockStopSnowline_ok <;> trivial
  | arm => apply execArm_ok <;> trivial
  | trigger => apply execTrigger_ok <;> trivial
  | freeze => apply execFreeze_ok <;> trivial
  | dump => apply execDump_ok <;> trivial
  | dumpDone => apply execDumpDone_ok <;> trivial
  | hringRestart => apply execHringRestart_ok <;> trivial
  | clear => apply execClear_ok <;> trivial
  | recStatus => apply execRecStatus_ok <;> trivial
  | routePush => apply execRoutePush_ok <;> trivial
  | epochCommit => apply execEpochCommit_ok <;> trivial
  | epochCommitDone => apply execEpochCommitDone_ok <;> trivial
  | handover => apply execHandover_ok <;> trivial
  | stackStatus => apply execStackStatus_ok <;> trivial
  | imageLoad => apply execImageLoad_ok <;> trivial
  | imageLoadCommit => apply execImageLoadCommit_ok <;> trivial
  | sqTailDoorbell => apply execSqTailDoorbell_ok <;> trivial
  | cqHeadDoorbell => apply execCqHeadDoorbell_ok <;> trivial
  | adminSqTailDoorbell => apply execAdminSqTailDoorbell_ok <;> trivial
  | adminCqHeadDoorbell => apply execAdminCqHeadDoorbell_ok <;> trivial
  | tx => apply execTx_ok <;> trivial
  | txPayloadReadDone => apply execTxPayloadReadDone_ok <;> trivial
  | waitingAdmissionGrant => apply execWaitingAdmissionGrant_ok <;> trivial
  | ethTx => apply execEthTx_ok <;> trivial
  | ethTxStart => apply execEthTxStart_ok <;> trivial
  | ethFrameTxEnd => apply execEthFrameTxEnd_ok <;> trivial
  | rxbuf => apply execRxbuf_ok <;> trivial
  | ioNop => apply execIoNop_ok <;> trivial
  | rxCompletionWrite => apply execRxCompletionWrite_ok <;> trivial
  | flr => apply execFlr_ok <;> trivial
  | funcLinkLoss => apply execFuncLinkLoss_ok <;> trivial
  | objectWord0Read => apply execObjectWord0Read_ok <;> trivial
  | objectRelease => apply execObjectRelease_ok <;> trivial
  | objectWrite => apply execObjectWrite_ok <;> trivial
  | objLockTimeout => apply execObjLockTimeout_ok <;> trivial
  | periodicRelease => apply execPeriodicRelease_ok <;> trivial
  | deadlineExpiry => apply execDeadlineExpiry_ok <;> trivial
  | holdExpiry => apply execHoldExpiry_ok <;> trivial
  | trailMsExpiry => apply execTrailMsExpiry_ok <;> trivial
  | txSof => apply execTxSof_ok <;> trivial
  | arbLost => apply execArbLost_ok <;> trivial
  | txSuccess => apply execTxSuccess_ok <;> trivial
  | txError => apply execTxError_ok <;> trivial
  | rxError => apply execRxError_ok <;> trivial
  | protocolException => apply execProtocolException_ok <;> trivial
  | overloadFrame => apply execOverloadFrame_ok <;> trivial
  | frameValid => apply execFrameValid_ok <;> trivial
  | filterDecision => apply execFilterDecision_ok <;> trivial
  | cutThroughLookup => apply execCutThroughLookup_ok <;> trivial
  | ctKillArrival => apply execCtKillArrival_ok <;> trivial
  | ctKillWindowEnd => apply execCtKillWindowEnd_ok <;> trivial
  | colSlot => apply execColSlot_ok <;> trivial
  | stuckDominant => apply execStuckDominant_ok <;> trivial
  | lctlSettleExpiry => apply execLctlSettleExpiry_ok <;> trivial
  | selfTestFaultFound => apply execSelfTestFaultFound_ok <;> trivial
  | selfTestWindowEnd => apply execSelfTestWindowEnd_ok <;> trivial
  | stuckFaultEnd => apply execStuckFaultEnd_ok <;> trivial
  | integrationComplete => apply execIntegrationComplete_ok <;> trivial
  | rejoinAfterIdle => apply execRejoinAfterIdle_ok <;> trivial
  | recoveryComplete => apply execRecoveryComplete_ok <;> trivial
  | boCountAge => apply execBoCountAge_ok <;> trivial
  | seekFrameEnd => apply execSeekFrameEnd_ok <;> trivial
  | seekDwellExpiry => apply execSeekDwellExpiry_ok <;> trivial
  | seekTimeout => apply execSeekTimeout_ok <;> trivial
  | declaredTimingApply => apply execDeclaredTimingApply_ok <;> trivial
  | guardWindowEnd => apply execGuardWindowEnd_ok <;> trivial
  | quarantineLift => apply execQuarantineLift_ok <;> trivial
  | vlogClear => apply execVlogClear_ok <;> trivial
  | dupEntryExpiry => apply execDupEntryExpiry_ok <;> trivial
  | quadModeWrite => apply execQuadModeWrite_ok <;> trivial
  | quadGateWrite => apply execQuadGateWrite_ok <;> trivial
  | quadGatedDone => apply execQuadGatedDone_ok <;> trivial
  | quadUngateDone => apply execQuadUngateDone_ok <;> trivial
  | sweepCompare => apply execSweepCompare_ok <;> trivial
  | ethLinkDown => apply execEthLinkDown_ok <;> trivial
  | ethLinkUp => apply execEthLinkUp_ok <;> trivial
  | portHoldExpiry => apply execPortHoldExpiry_ok <;> trivial
  | ethFrameRx => apply execEthFrameRx_ok <;> trivial
  | stackDataRx => apply execStackDataRx_ok <;> trivial
  | heartbeatRx => apply execHeartbeatRx_ok <;> trivial
  | routePushRx => apply execRoutePushRx_ok <;> trivial
  | epochCommitRx => apply execEpochCommitRx_ok <;> trivial
  | epochAckRx => apply execEpochAckRx_ok <;> trivial
  | nakRx => apply execNakRx_ok <;> trivial
  | handoverRx => apply execHandoverRx_ok <;> trivial
  | epochActivation => apply execEpochActivation_ok <;> trivial
  | heartbeatTimer => apply execHeartbeatTimer_ok <;> trivial
  | masterListenEnd => apply execMasterListenEnd_ok <;> trivial
  | masterLost => apply execMasterLost_ok <;> trivial
  | broadcastSeqForget => apply execBroadcastSeqForget_ok <;> trivial
  | syncTxTimer => apply execSyncTxTimer_ok <;> trivial
  | syncRx => apply execSyncRx_ok <;> trivial
  | followUpRx => apply execFollowUpRx_ok <;> trivial
  | delayReqRx => apply execDelayReqRx_ok <;> trivial
  | delayRespRx => apply execDelayRespRx_ok <;> trivial
  | cirqueDoorbell => apply execCirqueDoorbell_ok <;> trivial
  | cirqueCommit => apply execCirqueCommit_ok <;> trivial
  | modTimeExpiry => apply execModTimeExpiry_ok <;> trivial
  | cirqueClaim => apply execCirqueClaim_ok <;> trivial
  | cirqueComplete => apply execCirqueComplete_ok <;> trivial
  | cirqueSrcWrite => apply execCirqueSrcWrite_ok <;> trivial
  | sourceClr => apply execSourceClr_ok <;> trivial
  | idleWrite => apply execIdleWrite_ok <;> trivial
  | msixVectorUnblock => apply execMsixVectorUnblock_ok <;> trivial
  | tbSlewWrite => apply execTbSlewWrite_ok <;> trivial
  | slewDone => apply execSlewDone_ok <;> trivial
  | tbTimeCapture => apply execTbTimeCapture_ok <;> trivial
  | tbSet => apply execTbSet_ok <;> trivial
  | syncRelease => apply execSyncRelease_ok <;> trivial
  | morRecordWrite => apply execMorRecordWrite_ok <;> trivial
  | postWindowEnd => apply execPostWindowEnd_ok <;> trivial
  | morHeaderWrite => apply execMorHeaderWrite_ok <;> trivial
  | morHheadWrite => apply execMorHheadWrite_ok <;> trivial
  | wupDetected => apply execWupDetected_ok <;> trivial
  | swFrameEnd => apply execSwFrameEnd_ok <;> trivial
  | wakePin => apply execWakePin_ok <;> trivial
  | gpioWake => apply execGpioWake_ok <;> trivial
  | perstWake => apply execPerstWake_ok <;> trivial
  | rtcAlarm => apply execRtcAlarm_ok <;> trivial
  | vaonPowerUp => apply execVaonPowerUp_ok <;> trivial
  | pwrGoodRise => apply execPwrGoodRise_ok <;> trivial
  | pgTimeout => apply execPgTimeout_ok <;> trivial
  | resetDelayEnd => apply execResetDelayEnd_ok <;> trivial
  | mainResetRelease => apply execMainResetRelease_ok <;> trivial
  | bootMailboxGo => apply execBootMailboxGo_ok <;> trivial
  | imageReadDone => apply execImageReadDone_ok <;> trivial
  | bootDone => apply execBootDone_ok <;> trivial
  | sysReset => apply execSysReset_ok <;> trivial
  | deviceResetKey => apply execDeviceResetKey_ok <;> trivial
  | standbyKey => apply execStandbyKey_ok <;> trivial
  | standbyRailsOff => apply execStandbyRailsOff_ok <;> trivial
  | thermalStepDown => apply execThermalStepDown_ok <;> trivial
  | tjAlarmCross => apply execTjAlarmCross_ok <;> trivial
  | thermalShutdown => apply execThermalShutdown_ok <;> trivial
  | thermalRelease => apply execThermalRelease_ok <;> trivial
  | scrubRead => apply execScrubRead_ok <;> trivial
  | tickHookCall => apply execTickHookCall_ok <;> trivial
  | interruptEntry => apply execInterruptEntry_ok <;> trivial
  | lnop => apply execLnop_ok <;> trivial
  | lit => apply execLit_ok <;> trivial
  | litu => apply execLitu_ok <;> trivial
  | sethi => apply execSethi_ok <;> trivial
  | addi => apply execAddi_ok <;> trivial
  | cmpi => apply execCmpi_ok <;> trivial
  | lda => apply execLda_ok <;> trivial
  | sta => apply execSta_ok <;> trivial
  | jz => apply execJz_ok <;> trivial
  | jnz => apply execJnz_ok <;> trivial
  | call => apply execCall_ok <;> trivial
  | repLong => apply execRepLong_ok <;> trivial
  | jcc => apply execJcc_ok <;> trivial
  | nop => apply execNop_ok <;> trivial
  | dup => apply execDup_ok <;> trivial
  | drop => apply execDrop_ok <;> trivial
  | swap => apply execSwap_ok <;> trivial
  | rot => apply execRot_ok <;> trivial
  | pick => apply execPick_ok <;> trivial
  | slit => apply execSlit_ok <;> trivial
  | add => apply execAdd_ok <;> trivial
  | sub => apply execSub_ok <;> trivial
  | adc => apply execAdc_ok <;> trivial
  | sbc => apply execSbc_ok <;> trivial
  | adds => apply execAdds_ok <;> trivial
  | subs => apply execSubs_ok <;> trivial
  | mul => apply execMul_ok <;> trivial
  | mulh => apply execMulh_ok <;> trivial
  | div => apply execDiv_ok <;> trivial
  | divu => apply execDivu_ok <;> trivial
  | neg => apply execNeg_ok <;> trivial
  | abs => apply execAbs_ok <;> trivial
  | and => apply execAnd_ok <;> trivial
  | or => apply execOr_ok <;> trivial
  | xor => apply execXor_ok <;> trivial
  | not => apply execNot_ok <;> trivial
  | shl => apply execShl_ok <;> trivial
  | shr => apply execShr_ok <;> trivial
  | sar => apply execSar_ok <;> trivial
  | rol => apply execRol_ok <;> trivial
  | ror => apply execRor_ok <;> trivial
  | shi => apply execShi_ok <;> trivial
  | cmp => apply execCmp_ok <;> trivial
  | tst => apply execTst_ok <;> trivial
  | ld => apply execLd_ok <;> trivial
  | st => apply execSt_ok <;> trivial
  | ldp => apply execLdp_ok <;> trivial
  | stp => apply execStp_ok <;> trivial
  | popx => apply execPopx_ok <;> trivial
  | pushx => apply execPushx_ok <;> trivial
  | amo => apply execAmo_ok <;> trivial
  | rep => apply execRep_ok <;> trivial
  | clz => apply execClz_ok <;> trivial
  | bswap => apply execBswap_ok <;> trivial
  | ext => apply execExt_ok <;> trivial
  | calls => apply execCalls_ok <;> trivial
  | jmps => apply execJmps_ok <;> trivial
  | bz => apply execBz_ok <;> trivial
  | bnz => apply execBnz_ok <;> trivial
  | addp => apply execAddp_ok <;> trivial
  | setrc => apply execSetrc_ok <;> trivial
  | flag => apply execFlag_ok <;> trivial
  | ien => apply execIen_ok <;> trivial
  | setil => apply execSetil_ok <;> trivial
  | bcc => apply execBcc_ok <;> trivial
  | ret => apply execRet_ok <;> trivial
  | reti => apply execReti_ok <;> trivial
  | wait => apply execWait_ok <;> trivial
  | fence => apply execFence_ok <;> trivial
  | swi => apply execSwi_ok <;> trivial
  | illegalOpcode => apply execIllegalOpcode_ok <;> trivial
  | br => apply execBr_ok <;> trivial
  | await => apply execAwait_ok <;> trivial
  | shin => apply execShin_ok <;> trivial
  | shout => apply execShout_ok <;> trivial
  | push => apply execPush_ok <;> trivial
  | pushN => apply execPushN_ok <;> trivial
  | pull => apply execPull_ok <;> trivial
  | pullN => apply execPullN_ok <;> trivial
  | setx => apply execSetx_ok <;> trivial
  | drive => apply execDrive_ok <;> trivial
  | crcReset => apply execCrcReset_ok <;> trivial
  | stuffDyn => apply execStuffDyn_ok <;> trivial
  | stuffFixedFd => apply execStuffFixedFd_ok <;> trivial
  | stuffFixedXl => apply execStuffFixedXl_ok <;> trivial
  | stuffOff => apply execStuffOff_ok <;> trivial
  | crcSend => apply execCrcSend_ok <;> trivial
  | crcCheck => apply execCrcCheck_ok <;> trivial
  | phaseData => apply execPhaseData_ok <;> trivial
  | phaseNominal => apply execPhaseNominal_ok <;> trivial
  | errClear => apply execErrClear_ok <;> trivial
  | tdcStart => apply execTdcStart_ok <;> trivial
  | sig => apply execSig_ok <;> trivial
  | copy => apply execCopy_ok <;> trivial
  | pinNop => apply execPinNop_ok <;> trivial
  | pinReservedOp => apply execPinReservedOp_ok <;> trivial
  | switchAtEnd => apply execSwitchAtEnd_ok <;> trivial
  | switchNow => apply execSwitchNow_ok <;> trivial
  | switchWithdraw => apply execSwitchWithdraw_ok <;> trivial
  | peprogWrite => apply execPeprogWrite_ok <;> trivial
  | registerWrite => apply execRegisterWrite_ok <;> trivial
  | rcFieldRead => apply execRcFieldRead_ok <;> trivial
  | pcieLinkUp => apply execPcieLinkUp_ok <;> trivial
  | tjAlarmRearm => apply execTjAlarmRearm_ok <;> trivial
  | pwrEnNHoldEnd => apply execPwrEnNHoldEnd_ok <;> trivial
  | _ => apply execOver_ok <;> trivial

/-- Settles O5: what every meaning can change, as its lemma gives it, lies in the list of the command. -/
theorem everyCommandHasItsFrame : Obligations.EveryCommandHasItsFrame := by
  intro c s hs
  obtain ⟨t, ht, hok⟩ := exec_ok c s hs
  exact ⟨t, ht, hok.pending, fun p hp => hok.frame p fun hc => hp (List.contains_iff_mem.1 hc)⟩

end Sys2Proof.Machine
end

section
/-! Fields of a register as a write or a read of one word finds them. -/
namespace Sys2Proof.Machine
open Sys2Proof

/-! Bits of a word -/

theorem bitsOf_zero (v : Word) (lsb : Nat) : bitsOf v lsb 0 = 0 := by
  have := bitsOf_lt v lsb 0
  omega

/-- A field put back as it was leaves its word as it was. -/
theorem putBits_bitsOf (v : Word) (lsb w : Nat) : putBits v lsb w (bitsOf v lsb w) = v := by
  apply BitVec.eq_of_getLsbD_eq
  intro i hi
  rw [putBits_getLsbD _ _ _ _ _ hi]
  split
  next h => rw [bitsOf_testBit, show lsb + (i - lsb) = i by omega]; simp; omega
  next => rfl

/-! Parts of fields -/

/-- The fields share no bit of their register. -/
abbrev RegField.Apart (f g : RegField) : Prop := f.lsb + f.w ≤ g.lsb ∨ g.lsb + g.w ≤ f.lsb

/-- The value of a field's part in word `k`. -/
def RegField.bits (f : RegField) (k : Nat) (v : Word) : Nat := bitsOf v (f.part k).1 (f.part k).2

/-- The word with that part replaced. -/
def RegField.put (f : RegField) (k : Nat) (v : Word) (x : Nat) : Word := putBits v (f.part k).1 (f.part k).2 x

theorem RegField.bits_lt (f : RegField) (k : Nat) (v : Word) : f.bits k v < 2 ^ (f.part k).2 := bitsOf_lt _ _ _

theorem RegField.put_bits (f : RegField) (k : Nat) (v : Word) : f.put k v (f.bits k v) = v := putBits_bitsOf _ _ _

theorem RegField.part_le (f : RegField) (k : Nat) (h : 0 < (f.part k).2) : (f.part k).1 + (f.part k).2 ≤ 32 := by
  unfold RegField.part at *
  omega

theorem RegField.bits_put_same (f : RegField) (k : Nat) (v : Word) (x : Nat) :
    f.bits k (f.put k v x) = x % 2 ^ (f.part k).2 := by
  unfold RegField.bits RegField.put
  by_cases h : 0 < (f.part k).2
  · exact bitsOf_putBits_same _ _ _ _ (f.part_le k h)
  · rw [show (f.part k).2 = 0 by omega, bitsOf_zero]; omega

theorem RegField.bits_put_other {f g : RegField} (h : f.Apart g) (k : Nat) (v : Word) (x : Nat) :
    g.bits k (f.put k v x) = g.bits k v := by
  unfold RegField.bits RegField.put
  by_cases hg : 0 < (g.part k).2
  · apply bitsOf_putBits_other
    unfold RegField.Apart at h
    unfold RegField.part at *
    omega
  · rw [show (g.part k).2 = 0 by omega, bitsOf_zero, bitsOf_zero]

theorem RegField.bits_foldl_put_other {x : RegField} (k : Nat) (g : RegField → Nat → Nat) {fs : List RegField} (v : Word)
    (h : ∀ f ∈ fs, f.Apart x) : x.bits k (fs.foldl (fun v f => f.put k v (g f (f.bits k v))) v) = x.bits k v := by
  induction fs generalizing v with
  | nil => rfl
  | cons f fs ih =>
    rw [List.foldl_cons, ih _ fun y hy => h y (List.mem_cons_of_mem _ hy), bits_put_other (h f List.mem_cons_self)]

/-- Where the fields of a list that share no bits are put in turn, each ends as its own turn leaves it. -/
theorem RegField.bits_foldl_put {fs : List RegField} (hd : fs.Pairwise RegField.Apart) {x : RegField} (hx : x ∈ fs)
    (k : Nat) (g : RegField → Nat → Nat) (v : Word) :
    x.bits k (fs.foldl (fun v f => f.put k v (g f (f.bits k v))) v) = g x (x.bits k v) % 2 ^ (x.part k).2 := by
  induction fs generalizing v with
  | nil => exact absurd hx List.not_mem_nil
  | cons f fs ih =>
    obtain ⟨hf, hfs⟩ := List.pairwise_cons.1 hd
    rw [List.foldl_cons]
    rcases List.mem_cons.1 hx with rfl | hx
    · rw [bits_foldl_put_other k g _ fun y hy => (hf y hy).symm, bits_put_same]
    · rw [ih hfs hx, bits_put_other (hf x hx)]

/-! The rows of the map -/

/-- A row whose fields share no bits, and whose ranges fit the fields. -/
abbrev RegRow.Tidy (r : RegRow) : Prop :=
  r.fields.Pairwise RegField.Apart ∧ ∀ f ∈ r.fields, f.lo < 2 ^ f.w ∧ f.hi < 2 ^ f.w

theorem forall_mem_ite {α : Type} {P : α → Prop} {c : Prop} [Decidable c] {xs ys : List α} (hx : ∀ x ∈ xs, P x)
    (hy : ∀ y ∈ ys, P y) : ∀ x ∈ if c then xs else ys, P x := by
  split <;> assumption

theorem regRows_tidy (a : Nat) : ∀ r ∈ regRows a, r.Tidy := by
  unfold regRows
  repeat' apply forall_mem_ite
  all_goals decide +kernel

theorem regRow_mem {a : Nat} {r : RegRow} (h : regRow a = some r) : r ∈ regRows a := List.mem_of_find?_eq_some h

theorem regRow_hits {a : Nat} {r : RegRow} (h : regRow a = some r) : r.hits a = true := by
  simpa using List.find?_some h

/-- Every row of the map is tidy. -/
theorem regRow_tidy {a : Nat} {r : RegRow} (h : regRow a = some r) : r.Tidy := regRows_tidy a r (regRow_mem h)

theorem RegRow.base_le {r : RegRow} {a : Nat} (h : r.hits a = true) : r.base ≤ a := by
  simp only [RegRow.hits, Bool.and_eq_true, decide_eq_true_eq] at h
  obtain ⟨⟨⟨hbase, -⟩, -⟩, -⟩ := h
  exact hbase

/-- Where the last register of a row ends. -/
def RegRow.top (r : RegRow) : Nat := r.base + (r.n1 - 1) * r.s1 + (r.n2 - 1) * r.s2 + r.bytes

theorem RegRow.lt_top {r : RegRow} {a : Nat} (h : r.hits a = true) : a < r.top := by
  simp only [RegRow.hits, Bool.and_eq_true, decide_eq_true_eq] at h
  obtain ⟨⟨⟨hb, hi⟩, hj⟩, hr⟩ := h
  have h1 := Nat.div_add_mod (a - r.base) r.s1
  have h2 := Nat.div_add_mod ((a - r.base) % r.s1) r.s2
  have hi' : r.s1 * ((a - r.base) / r.s1) ≤ (r.n1 - 1) * r.s1 := by
    rw [Nat.mul_comm]; exact Nat.mul_le_mul_right _ (Nat.le_sub_one_of_lt hi)
  have hj' : r.s2 * ((a - r.base) % r.s1 / r.s2) ≤ (r.n2 - 1) * r.s2 := by
    rw [Nat.mul_comm]; exact Nat.mul_le_mul_right _ (Nat.le_sub_one_of_lt hj)
  simp only [RegRow.rest] at hr
  unfold RegRow.top
  omega

/-- The blocks whose registers take a write by the types of their fields alone: power, stack without its paths, ports. -/
abbrev PlainBlock (a : Nat) : Prop := 0x10000 ≤ a ∧ a < 0x20000 ∨ 0x80000 ≤ a ∧ a < 0x88000 ∨ 0xB0000 ≤ a ∧ a < 0xC0000

/-- A row that holds an offset of these blocks begins in them. -/
theorem plainBlock_base {a : Nat} {r : RegRow} (ha : PlainBlock a) (h : regRow a = some r) : PlainBlock r.base := by
  have hm := regRow_mem h
  have hle := RegRow.base_le (regRow_hits h)
  have hlt := RegRow.lt_top (regRow_hits h)
  have hglb : ∀ r ∈ regsGlb, r.top ≤ 0x10000 ∨ 0x10000 ≤ r.base := by decide +kernel
  have hstack : ∀ r ∈ regsStack, 0x80000 ≤ r.base := by decide +kernel
  have heth : ∀ r ∈ regsEth, 0xB0000 ≤ r.base := by decide +kernel
  rcases ha with ha | ha | ha
  · rw [show regRows a = regsGlb by grind [regRows]] at hm
    have := hglb r hm
    omega
  · rw [show regRows a = regsStack by grind [regRows]] at hm
    have := hstack r hm
    omega
  · rw [show regRows a = regsEth by grind [regRows]] at hm
    have := heth r hm
    omega

/-! A write and a read of a word, field by field -/

/-- What a write of `new` leaves of a field's part in word `k`, which held `old` (R11, R737). -/
def RegField.after (f : RegField) (k : Nat) (setup : Bool) (new old : Nat) : Nat :=
  match f.ty with
  | .ro | .rc | .wo => old
  | .w1c => old - (old &&& new)
  | .rw => if setup || f.rt then new else old
  | .rwc => if setup || f.rt then (if (f.part k).2 = f.w then (clampTo f.lo f.hi new).1 else new) else old

theorem clampTo_fst (lo hi n : Nat) : (clampTo lo hi n).1 = if n < lo then lo else if hi < n then hi else n := by
  unfold clampTo
  split
  · rfl
  · split <;> rfl

theorem clampTo_lt {lo hi n m : Nat} (hl : lo < m) (hh : hi < m) (hn : n < m) : (clampTo lo hi n).1 < m := by
  rw [clampTo_fst]
  split
  · exact hl
  · split
    · exact hh
    · exact hn

theorem RegField.after_lt {f : RegField} {k : Nat} {setup : Bool} {new old : Nat} (hr : f.lo < 2 ^ f.w ∧ f.hi < 2 ^ f.w)
    (hn : new < 2 ^ (f.part k).2) (ho : old < 2 ^ (f.part k).2) : f.after k setup new old < 2 ^ (f.part k).2 := by
  unfold RegField.after
  split
  · exact ho
  · exact ho
  · exact ho
  · omega
  · split <;> assumption
  · split
    · split
      next hw => rw [hw] at hn ⊢; exact clampTo_lt hr.1 hr.2 hn
      next => exact hn
    · exact ho

/-- The write of one field puts its part alone. -/
theorem RegField.write_v (f : RegField) (k : Nat) (setup : Bool) (new : Word) (x : WordWrite) :
    (f.write k setup new x).v = f.put k x.v (f.after k setup (f.bits k new) (f.bits k x.v)) := by
  by_cases h0 : (f.part k).2 = 0
  · have hb : ∀ n, f.put k x.v n = f.put k x.v (f.bits k x.v) := by
      intro n; simp [RegField.put, putBits, h0]
    rw [hb, RegField.put_bits, RegField.write, if_pos h0]
  · have hkeep := (f.put_bits k x.v).symm
    simp only [RegField.write, if_neg h0, RegField.after]
    cases f.ty with
    | ro | rc | wo => exact hkeep
    | w1c => rfl
    | rw =>
      dsimp only
      split
      · rfl
      · exact hkeep
    | rwc =>
      dsimp only
      split
      · split <;> rfl
      · exact hkeep

theorem RegField.foldl_write_v (k : Nat) (setup : Bool) (new : Word) (fs : List RegField) (x : WordWrite) :
    (fs.foldl (fun x f => f.write k setup new x) x).v =
      fs.foldl (fun v f => f.put k v (f.after k setup (f.bits k new) (f.bits k v))) x.v := by
  induction fs generalizing x with
  | nil => rfl
  | cons f fs ih => rw [List.foldl_cons, List.foldl_cons, ih, write_v]

/-- After a read of a word its RC fields are 0 and its other fields as they were (R11). -/
theorem RegRow.bits_cleared {r : RegRow} (hr : r.Tidy) {x : RegField} (hx : x ∈ r.fields) (k : Nat) (v : Word) :
    x.bits k (r.cleared k v) = if x.ty = .rc then 0 else x.bits k v := by
  have hput : r.cleared k v = r.fields.foldl (fun v f => f.put k v ((fun f o => if f.ty = .rc then 0 else o) f (f.bits k v))) v := by
    unfold RegRow.cleared
    congr 1
    funext v f
    dsimp only
    split
    · rfl
    · exact (f.put_bits k v).symm
  rw [hput, RegField.bits_foldl_put hr.1 hx]
  split
  · exact Nat.zero_mod _
  · exact Nat.mod_eq_of_lt (x.bits_lt k v)

/-! Writes of an agent -/

/-- A clamp or an ignored write changes no register but the agent's CLAMP_COUNT, which is not in these blocks. -/
theorem State.reg_clamp_of_plainBlock (s : State) (f : Fn) (n : Nat) {a : Nat} (ha : PlainBlock a) :
    (s.clamp f.val n).reg a = s.reg a := by
  refine State.reg_satAdd_other _ _ _ _ (Nat.le_refl 32) ?_
  have := f.isLt
  simp only [F.HOST_CLAMP.CLAMP_COUNT]
  omega

theorem State.reg_clampsBy_of_plainBlock (s : State) (w : Agent) (n : Nat) {a : Nat} (ha : PlainBlock a) :
    (s.clampsBy w n).reg a = s.reg a := by
  cases w with
  | host f => exact s.reg_clamp_of_plainBlock f n ha
  | engine e => rfl

theorem State.clampBy_eq_clampsBy (s : State) (w : Agent) : s.clampBy w = s.clampsBy w 1 := by cases w <;> rfl

/-- Outside the set-up state a word without a field that can be written then stays as it is. -/
theorem RegField.after_of_not_live {f : RegField} (h : f.live = false) (k new old : Nat) : f.after k false new old = old := by
  unfold RegField.live at h
  unfold RegField.after
  cases hty : f.ty <;> simp_all

/-- What a write by field types leaves of a field. -/
theorem State.bits_fieldsWrite (s : State) (w : Agent) {r : RegRow} {a : Nat} (v : Word) (setup : Bool) (ha : PlainBlock a)
    (hr : r.Tidy) {x : RegField} (hx : x ∈ r.fields) :
    x.bits (r.rest a / 4) ((s.fieldsWrite w r a v setup).reg a) =
      x.after (r.rest a / 4) setup (x.bits (r.rest a / 4) v) (x.bits (r.rest a / 4) (s.reg a)) := by
  unfold State.fieldsWrite
  split
  next h =>
    simp only [Bool.and_eq_true, Bool.not_eq_true', List.any_eq_false] at h
    rw [State.clampBy_eq_clampsBy, State.reg_clampsBy_of_plainBlock _ _ _ ha, h.1,
      RegField.after_of_not_live (by simpa using h.2 x hx)]
  next =>
    rw [State.reg_clampsBy_of_plainBlock _ _ _ ha, State.reg_setReg_same, RegField.foldl_write_v,
      RegField.bits_foldl_put hr.1 hx _ fun f => f.after _ setup (f.bits _ v)]
    exact Nat.mod_eq_of_lt (RegField.after_lt (hr.2 x hx) (x.bits_lt _ v) (x.bits_lt _ _))

end Sys2Proof.Machine
end

section
/-! Where an offset of the map lies, and what an access there does. -/
namespace Sys2Proof.Machine
open Sys2Proof

/-! Where an offset lies -/

theorem engMemOf_none {a : Nat} (h : a < 0x200000 ∨ 0x440000 ≤ a) : engMemOf a = none := if_neg (by omega)

theorem listMemOf_none {a : Nat} (h : a < 0x800000) : listMemOf a = none := by
  rw [listMemOf, if_neg (by omega), if_neg (by omega)]

theorem hostBlockOf_none {a : Nat} (h : a < 0x90000 ∨ 0xB0000 ≤ a) : hostBlockOf a = none := by
  rw [hostBlockOf, if_neg (by omega), if_neg (by omega)]

/-- The offset lies in program or data memory of an engine (R41). -/
abbrev InEngMem (a : Nat) : Prop :=
  (0x200000 ≤ a ∧ a < 0x440000) ∧
    ((a - 0x200000) % 0x10000 < 0x6000 ∨ 0x8000 ≤ (a - 0x200000) % 0x10000 ∧ (a - 0x200000) % 0x10000 < 0xC000)

theorem engMemOf_of_inEngMem {a : Nat} (h : InEngMem a) :
    engMemOf a = some ((a - 0x200000) / 0x10000, !decide ((a - 0x200000) % 0x10000 < 0x6000),
      if (a - 0x200000) % 0x10000 < 0x6000 then (a - 0x200000) % 0x10000 else (a - 0x200000) % 0x10000 - 0x8000) := by
  obtain ⟨ha, ho⟩ := h
  rw [engMemOf, if_pos ha]
  by_cases hp : (a - 0x200000) % 0x10000 < 0x6000
  · simp [hp]
  · simp [hp, ho.resolve_left hp]

/-- The offset lies in filter or route memory (R40). -/
abbrev InLists (a : Nat) : Prop := 0x800000 ≤ a ∧ a < 0xA00000 ∨ 0xC00000 ≤ a ∧ a < 0xD00000

theorem listMemOf_of_inLists {a : Nat} (h : InLists a) : ∃ m o, listMemOf a = some (m, o) := by
  unfold listMemOf
  split
  · exact ⟨_, _, rfl⟩
  · rw [if_pos (by omega)]; exact ⟨_, _, rfl⟩

/-! Accesses in the blocks of plain registers -/

theorem State.glbWrite_of_power (s : State) (w : Agent) {r : RegRow} (a : Nat) (v : Word) (h : 0x10000 ≤ r.base) :
    s.glbWrite w r a v = s.plainWrite w r a v := by
  unfold State.glbWrite
  split <;> try omega
  rfl

theorem State.busWrite_of_plainBlock (s : State) (w : Agent) {a : Nat} {r : RegRow} (v : Word) (ha : PlainBlock a)
    (hr : regRow a = some r) : s.busWrite w a v = s.plainWrite w r a v := by
  have hb := plainBlock_base ha hr
  have hle := RegRow.base_le (regRow_hits hr)
  simp only [State.busWrite, engMemOf_none (a := a) (by omega), listMemOf_none (a := a) (by omega),
    hostBlockOf_none (a := a) (by omega), hr, State.regWrite]
  by_cases hp : a < 0x20000
  · rw [if_pos hp, State.glbWrite_of_power _ _ _ _ (by omega)]
  · rw [if_neg hp, if_neg (by omega), if_neg (by omega), if_neg (by omega), if_neg (by omega), if_neg (by omega),
      if_pos (by omega)]

theorem State.restShow_of_plainBlock (s : State) {r : RegRow} (a : Nat) (v : Word) (hb : PlainBlock r.base) :
    s.restShow r a v = v := by
  unfold State.restShow
  dsimp only
  split <;> try omega
  rfl

/-- A read there returns the word, clears its RC fields, and TJ_MAX takes TJ (R11, R710). -/
theorem State.busRead_of_plainBlock (s : State) (w : Agent) {a : Nat} {r : RegRow} (ha : PlainBlock a)
    (hr : regRow a = some r) :
    s.busRead w a = (s.reg a,
      if r.base = 0x10010 then (s.setReg a (r.cleared (r.rest a / 4) (s.reg a))).setF F.PWR_STAT.TJ_MAX (s.f F.PWR_STAT.TJ)
      else s.setReg a (r.cleared (r.rest a / 4) (s.reg a))) := by
  have hb := plainBlock_base ha hr
  simp only [State.busRead, engMemOf_none (a := a) (by omega), listMemOf_none (a := a) (by omega), hr]
  rw [if_neg (by omega), if_neg (by omega), if_neg (by omega), State.regRead]
  split <;> try omega
  case h_5 h => simp [h]
  case h_6 h =>
    dsimp only
    rw [if_neg h, if_neg (by omega), if_neg (by omega), s.restShow_of_plainBlock a _ hb]

/-! Accesses to the memories -/

/-- A store of an engine memory writes the word, whatever it does to the engine's fetches. -/
theorem State.engStore_mem (s : State) (e : Nat) (own d : Bool) (o a : Nat) (v : Word) :
    (s.engStore e own d o a v).mem = (s.wr32 a v).mem := by
  unfold State.engStore
  cases d <;> cases own <;> rfl

/-- Word `a` holds `v`, and no other byte of memory has changed. -/
def Stored (s t : State) (a : Nat) (v : Word) : Prop := t.rd32 a = v ∧ ∀ b, (b < a ∨ a + 4 ≤ b) → t.rd8 b = s.rd8 b

theorem stored_of_mem {s t : State} {a : Nat} {v : Word} (h : t.mem = (s.wr32 a v).mem) : Stored s t a v :=
  ⟨by rw [State.rd32_congr h, State.rd32_wr32_same], fun b hb => by rw [State.rd8_congr h, State.rd8_wr32_other _ _ _ _ hb]⟩

section
variable (s : State) {a : Nat} (v : Word)

theorem State.busWrite_engMem_host (f : Fn) (h : InEngMem a) :
    ∃ d o, s.busWrite (.host f) a v = if (s.eng ((a - 0x200000) / 0x10000)).stopped
      then s.engStore ((a - 0x200000) / 0x10000) false d o a v else s.clamp f 1 :=
  ⟨_, _, by simp only [State.busWrite, engMemOf_of_inEngMem h]; rfl⟩

theorem State.busWrite_engMem_engine (x : EngId) (h : InEngMem a) :
    ∃ e own d o, s.busWrite (.engine x) a v = s.engStore e own d o a v :=
  ⟨_, _, _, _, by simp only [State.busWrite, engMemOf_of_inEngMem h]; rfl⟩

theorem State.busWrite_lists_host (f : Fn) (h : InLists a) : s.busWrite (.host f) a v = s.clamp f 1 := by
  obtain ⟨m, o, hm⟩ := listMemOf_of_inLists h
  simp only [State.busWrite, engMemOf_none (a := a) (by omega), hm]

theorem State.busWrite_lists_engine (x : EngId) (h : InLists a) :
    ∃ m o, s.busWrite (.engine x) a v = (s.wr32 a v).heal m 0 o := by
  obtain ⟨m, o, hm⟩ := listMemOf_of_inLists h
  exact ⟨m, o / 4, by simp only [State.busWrite, engMemOf_none (a := a) (by omega), hm]⟩

theorem State.busWrite_hole (w : Agent) (he : engMemOf a = none) (hl : listMemOf a = none) (hr : regRow a = none)
    (hb : hostBlockOf a = none) : s.busWrite w a v = s := by
  simp only [State.busWrite, he, hl, hr, hb]

theorem State.busRead_engMem (w : Agent) (h : InEngMem a)
    (hp : s.poisoned (if (a - 0x200000) % 0x10000 < 0x6000 then 0 else 1) ((a - 0x200000) / 0x10000)
      ((if (a - 0x200000) % 0x10000 < 0x6000 then (a - 0x200000) % 0x10000 else (a - 0x200000) % 0x10000 - 0x8000) / 4) = false) :
    s.busRead w a = (s.rd32 a, s) := by
  rw [State.busRead, engMemOf_of_inEngMem h]
  dsimp only
  rw [if_neg]
  by_cases ho : (a - 0x200000) % 0x10000 < 0x6000 <;> simpa [ho] using hp

theorem State.busRead_hole (w : Agent) (he : engMemOf a = none) (hl : listMemOf a = none) (hr : regRow a = none)
    (h0 : a ≠ 0x99000) (h1 : a ≠ 0xA9000) : s.busRead w a = (0, s) := by
  simp only [State.busRead, he, hl, hr, if_neg h0, if_neg h1]

end

/-! The two commands -/

section
variable {s : State} {w : Agent}

theorem exec_registerWrite_whole (h : s.mayWrite w = true) (ix : WordIx) (v : Word) :
    exec (.registerWrite w ix v 15) s = .next (s.busWrite w (4 * ix.val) v) := by
  show execRegisterWrite w ix v 15 s = _
  simp [execRegisterWrite, State.mayWriteAt, h]

theorem exec_registerWrite_partial (h : s.mayWrite w = true) (ix : WordIx) (v : Word) {be : BitVec 4} (hb : be ≠ 15) :
    exec (.registerWrite w ix v be) s = .next (s.clampBy w) := by
  show execRegisterWrite w ix v be s = _
  simp [execRegisterWrite, State.mayWriteAt, h, show be ≠ 15#4 from hb]

theorem exec_registerWrite_shut (hr : s.mayRead w = false) (hw : s.mayWrite w = false) (ix : WordIx) (v : Word) (be : BitVec 4) :
    exec (.registerWrite w ix v be) s = .next s := by
  show execRegisterWrite w ix v be s = _
  simp [execRegisterWrite, State.mayWriteAt, hr, hw]

theorem exec_rcFieldRead (h : s.mayRead w = true) (x : ReadAt) :
    exec (.rcFieldRead w x) s = .next ((s.readAt w x).2.withReadData (s.readAt w x).1) := if_pos h

theorem exec_rcFieldRead_shut (h : s.mayRead w = false) (x : ReadAt) : exec (.rcFieldRead w x) s = .next s :=
  if_neg (by simp [h])

end

end Sys2Proof.Machine
end

section
/-! Register writes and reads. -/
namespace Sys2Proof.Machine
open Sys2Proof

/-! The cases of a field's type (R11) -/

section
variable {f : RegField} {k : Nat} {setup : Bool} {new old : Nat}

theorem RegField.after_kept (h : f.ty = .ro ∨ f.ty = .rc ∨ f.ty = .wo) : f.after k setup new old = old := by
  unfold RegField.after
  rcases h with h | h | h <;> rw [h]

theorem RegField.after_w1c (h : f.ty = .w1c) : f.after k setup new old = old - (old &&& new) := by
  unfold RegField.after
  rw [h]

theorem RegField.after_rw (h : f.ty = .rw) (ho : setup = true ∨ f.rt = true) : f.after k setup new old = new := by
  unfold RegField.after
  rw [h]
  exact if_pos (by simpa using ho)

theorem RegField.after_rwc (h : f.ty = .rwc) (ho : setup = true ∨ f.rt = true) (hw : (f.part k).2 = f.w) :
    f.after k setup new old = if new < f.lo then f.lo else if f.hi < new then f.hi else new := by
  unfold RegField.after
  rw [h]
  dsimp only
  rw [if_pos (by simpa using ho), if_pos hw, clampTo_fst]

theorem RegField.after_shut (h : f.ty = .rw ∨ f.ty = .rwc) (ho : ¬ (setup = true ∨ f.rt = true)) :
    f.after k setup new old = old := by
  unfold RegField.after
  rcases h with h | h <;> rw [h] <;> exact if_neg (by simpa using ho)

end

/-! A read of PWR_STAT (R710) -/

/-- TJ_MAX, the field of PWR_STAT that a read clears. -/
def tjMax : RegField := ⟨9, 9, .rc, 0, 0, 511, true⟩

theorem pwrStat_field {r : RegRow} (h : regRow 0x10010 = some r) {x : RegField} (hx : x ∈ r.fields) :
    x = tjMax ∨ x.ty ≠ .rc ∧ tjMax.Apart x := by
  have hall : ∀ r ∈ (regRow 0x10010).toList, ∀ x ∈ r.fields, x = tjMax ∨ x.ty ≠ .rc ∧ tjMax.Apart x := by decide +kernel
  exact hall r (by simp [h]) x hx

theorem pwrStat_base_iff {r : RegRow} {a : Nat} (h : regRow a = some r) (h4 : a % 4 = 0) : r.base = 0x10010 ↔ a = 0x10010 := by
  constructor
  · intro hb
    have htop : ∀ r ∈ regRows a, r.base = 0x10010 → r.top = 0x10014 := by
      unfold regRows
      repeat' apply forall_mem_ite
      all_goals decide +kernel
    have hle := RegRow.base_le (regRow_hits h)
    have hlt := RegRow.lt_top (regRow_hits h)
    rw [htop r (regRow_mem h) hb] at hlt
    omega
  · rintro rfl
    have hall : ∀ r ∈ (regRow 0x10010).toList, r.base = 0x10010 := by decide +kernel
    exact hall r (by simp [h])

theorem State.reg_setF_tjMax (s : State) (n : Nat) :
    (s.setF F.PWR_STAT.TJ_MAX n).reg 0x10010 = tjMax.put 0 (s.reg 0x10010) n := by
  rw [State.setF_small _ _ _ (by decide)]
  exact State.reg_setReg_same _ _ _

/-- What a read leaves of a field: an RC field is 0, or TJ for TJ_MAX. -/
theorem State.bits_busRead (s : State) (w : Agent) {a : Nat} {r : RegRow} (ha : PlainBlock a) (h4 : a % 4 = 0)
    (hr : regRow a = some r) {x : RegField} (hx : x ∈ r.fields) :
    x.bits (r.rest a / 4) ((s.busRead w a).2.reg a) =
      if x.ty = .rc then (if a = 0x10010 then s.f F.PWR_STAT.TJ else 0) else x.bits (r.rest a / 4) (s.reg a) := by
  have hclear := RegRow.bits_cleared (regRow_tidy hr) hx (r.rest a / 4) (s.reg a)
  rw [State.busRead_of_plainBlock s w ha hr]
  dsimp only
  by_cases hp : a = 0x10010
  · have hb := (pwrStat_base_iff hr h4).2 hp
    have hk : r.rest a / 4 = 0 := by simp [RegRow.rest, hb, hp]
    rw [hk] at hclear ⊢
    subst hp
    rw [if_pos hb, State.reg_setF_tjMax, State.reg_setReg_same, if_pos rfl]
    rcases pwrStat_field hr hx with rfl | ⟨hrc, hapart⟩
    · rw [RegField.bits_put_same, if_pos (show tjMax.ty = .rc from rfl)]
      exact Nat.mod_eq_of_lt (s.f_lt F.PWR_STAT.TJ (by decide))
    · rw [RegField.bits_put_other hapart, hclear, if_neg hrc, if_neg hrc]
  · rw [if_neg fun hb => hp ((pwrStat_base_iff hr h4).1 hb), State.reg_setReg_same, if_neg hp]
    exact hclear

/-! What the operations of an access leave alone -/

theorem Ok.onlyPieces {l : List Piece} {s t : State} (h : Ok (· ∈ l) s t) : OnlyPieces l s t := h.frame

theorem State.clampCount_clamp (s : State) (f n : Nat) : (s.clamp f n).clampCount f = s.clampCount' f n :=
  State.f_satAdd_same _ _ _ (Nat.le_refl 32)

theorem Agent.engine_of_not_host {w : Agent} (h : ∀ g, w ≠ .host g) : ∃ x, w = .engine x := by
  cases w with
  | host f => exact absurd rfl (h f)
  | engine x => exact ⟨x, rfl⟩

section
variable {s : State} (hs : Sane s)
include hs

theorem clamp_onlyPieces (f n : Nat) : OnlyPieces [.regs] s (s.clamp f n) :=
  (State.clamp_ok s f n (ok_refl hs) (by simp)).onlyPieces

theorem clampBy_onlyPieces (w : Agent) : OnlyPieces [.regs] s (s.clampBy w) :=
  (State.clampBy_ok s w (ok_refl hs) (by simp)).onlyPieces

theorem plainWrite_onlyPieces (w : Agent) (r : RegRow) (a : Nat) (v : Word) : OnlyPieces [.regs] s (s.plainWrite w r a v) :=
  (State.plainWrite_ok s w r a v (ok_refl hs) (by simp)).onlyPieces

theorem engStore_onlyPieces (e : Nat) (own d : Bool) (o a : Nat) (v : Word) :
    OnlyPieces [.mem, .poison, .engs] s (s.engStore e own d o a v) :=
  (State.engStore_ok s e own d o a v (ok_refl hs) (by simp) (by simp) (by simp)).onlyPieces

theorem listStore_onlyPieces (m o a : Nat) (v : Word) : OnlyPieces [.mem, .poison] s ((s.wr32 a v).heal m 0 o) :=
  (State.heal_ok _ m 0 o (State.wr32_ok s a v (ok_refl hs) (by simp)) (by simp)).onlyPieces

theorem withReadData_onlyPieces (v : Word) : OnlyPieces [.free] s (s.withReadData v) :=
  (State.withReadData_ok s v (ok_refl hs) (by simp)).onlyPieces

theorem busRead_onlyPieces (w : Agent) {a : Nat} {r : RegRow} (ha : PlainBlock a) (hr : regRow a = some r) (v : Word) :
    OnlyPieces [.free, .regs] s ((s.busRead w a).2.withReadData v) := by
  have hset := State.setReg_ok s a (r.cleared (r.rest a / 4) (s.reg a)) (ok_refl (w := (· ∈ [Piece.free, Piece.regs])) hs) (by simp)
  rw [State.busRead_of_plainBlock s w ha hr]
  exact (State.withReadData_ok _ v (ok_ite (State.setF_ok _ _ _ hset (by simp)) hset) (by simp)).onlyPieces

end

section
variable {s : State} {w : Agent} {ix : WordIx} {P : State → Prop}

theorem holds_write {v : Word} {t : State} (hw : s.mayWrite w = true) (hbus : s.busWrite w (4 * ix.val) v = t) (hP : P t) :
    Holds (.registerWrite w ix v 15) s P :=
  ⟨t, by rw [exec_registerWrite_whole hw, hbus], hP⟩

theorem holds_read {x : Word} {t : State} (hr : s.mayRead w = true) (hbus : s.busRead w (4 * ix.val) = (x, t))
    (hP : P (t.withReadData x)) : Holds (.rcFieldRead w (.bar0 ix)) s P :=
  ⟨_, by rw [exec_rcFieldRead hr, State.readAt, hbus], hP⟩

end

/-- Settles O6: whatever the access, where its word lies decides what `busWrite` or `busRead` does there. -/
theorem registerAccess : Obligations.RegisterAccess := by
  intro s w f ix v be r x d q o j hs
  refine ⟨?partialWrite, ?fields, ?memStopped, ?memRunning, ?memEngine, ?listsHost, ?listsEngine, ?holeWrite, ?shutWrite,
    ?fieldsRead, ?memRead, ?holeRead, ?doorbell, ?object, ?shutRead⟩
  case partialWrite =>
    intro hw hbe
    refine ⟨_, exec_registerWrite_partial hw ix v hbe, ?_, fun hne => ?_, clampBy_onlyPieces hs w⟩
    · rintro rfl
      exact s.clampCount_clamp f.val 1
    · obtain ⟨y, rfl⟩ := Agent.engine_of_not_host hne
      rfl
  case fields =>
    rintro hw ⟨hblk, hr, hx, -⟩
    have hbits := s.bits_fieldsWrite w v (s.inSetup w r.blk (r.i (4 * ix.val))) hblk (regRow_tidy hr) hx
    refine holds_write hw (s.busWrite_of_plainBlock w v hblk hr) ⟨?_, ?_, ?_, ?_, ?_, plainWrite_onlyPieces hs w r _ v⟩
    · exact fun h => hbits.trans (RegField.after_kept h)
    · exact fun h => hbits.trans (RegField.after_w1c h)
    · exact fun h ho => hbits.trans (RegField.after_rw h ho)
    · exact fun h ho hwh => hbits.trans (RegField.after_rwc h ho hwh)
    · exact fun h ho => hbits.trans (RegField.after_shut h ho)
  case memStopped =>
    rintro hw hm rfl hst
    obtain ⟨dt, ofs, hbus⟩ := s.busWrite_engMem_host v f hm
    exact holds_write hw (hbus.trans (if_pos hst))
      ⟨stored_of_mem (s.engStore_mem _ _ _ _ _ _), engStore_onlyPieces hs _ _ _ _ _ _⟩
  case memRunning =>
    rintro hw hm rfl hst
    obtain ⟨dt, ofs, hbus⟩ := s.busWrite_engMem_host v f hm
    exact holds_write hw (hbus.trans (if_neg (by simpa using hst)))
      ⟨fun _ => s.clampCount_clamp f.val 1, clamp_onlyPieces hs _ _⟩
  case memEngine =>
    intro hw hm hne
    obtain ⟨y, rfl⟩ := Agent.engine_of_not_host hne
    obtain ⟨e, own, dt, ofs, hbus⟩ := s.busWrite_engMem_engine v y hm
    exact holds_write hw hbus ⟨stored_of_mem (s.engStore_mem _ _ _ _ _ _), engStore_onlyPieces hs _ _ _ _ _ _⟩
  case listsHost =>
    rintro hw hl rfl
    exact holds_write hw (s.busWrite_lists_host v f hl) ⟨fun _ => s.clampCount_clamp f.val 1, clamp_onlyPieces hs _ _⟩
  case listsEngine =>
    intro hw hl hne
    obtain ⟨y, rfl⟩ := Agent.engine_of_not_host hne
    obtain ⟨m, ofs, hbus⟩ := s.busWrite_lists_engine v y hl
    exact holds_write hw hbus ⟨stored_of_mem rfl, listStore_onlyPieces hs _ _ _ _⟩
  case holeWrite =>
    rintro hw ⟨he, hl, hr, hb⟩
    exact (exec_registerWrite_whole hw ix v).trans (congrArg _ (s.busWrite_hole v w he hl hr hb))
  case shutWrite => exact fun hr hw => exec_registerWrite_shut hr hw ix v be
  case fieldsRead =>
    rintro hr ⟨hblk, hrow, hx, -⟩
    exact holds_read hr rfl ⟨congrArg Prod.fst (s.busRead_of_plainBlock w hblk hrow),
      s.bits_busRead w hblk (Nat.mul_mod_right 4 ix.val) hrow hx, busRead_onlyPieces hs w hblk hrow _⟩
  case memRead =>
    exact fun hr hm hp => holds_read hr (s.busRead_engMem w hm hp) ⟨rfl, withReadData_onlyPieces hs _⟩
  case holeRead =>
    rintro hr ⟨he, hl, hrow, -⟩ h0 h1
    exact holds_read hr (s.busRead_hole w he hl hrow h0 h1) ⟨rfl, withReadData_onlyPieces hs _⟩
  case doorbell => exact fun hr ho => ⟨_, exec_rcFieldRead hr _, if_pos ho, withReadData_onlyPieces hs _⟩
  case object => exact fun hr ho => ⟨_, exec_rcFieldRead hr _, if_pos ho, withReadData_onlyPieces hs _⟩
  case shutRead => exact fun hr => exec_rcFieldRead_shut hr _

end Sys2Proof.Machine
end

section
/-! A declared candidate whose words change before they are copied: a follow-up that has expired counts in SYNC_LOST of its
channel, and the model bounds no channel's number. -/
namespace Sys2Proof.Machine
open Sys2Proof

/-- The word of the register map at `a` once the command has taken effect. -/
def wordAfter (c : Instr) (s : State) (a : Nat) : Option Word :=
  match exec c s with
  | .next t => some (t.reg a)
  | .fault _ | .refused _ => none

theorem wordAfter_of_next {c : Instr} {s t : State} (h : exec c s = .next t) (a : Nat) : wordAfter c s a = some (t.reg a) := by
  simp [wordAfter, h]

/-- SYNC_LOST of a channel 24512, beyond the 16 of R487, would stand in the FD word of candidate 1 of lane 0 (R95). -/
theorem syncLost_off_eq_rcandOff : (F.TB_BDSTAT.SYNC_LOST 24512).off = rcandOff 0 1 + 4 := rfl

/-- A frame of 8 bytes, as a follow-up is. -/
def followUpFrame : Frame := ⟨.cb, 0x123, false, false, false, false, 0, 0, 0, 8, List.replicate 8 0⟩

/-- A follow-up of channel 24512 on lane 0, its deadline at lt 0. -/
def strayFollowUp : Entry :=
  { id := 0, src := .fup 24512, fr := followUpFrame, deadline := some ⟨none, 0⟩, sel := [0], copies := [{ lane := 0 }] }

/-- The seek of LANE_START that has declared candidate 1. -/
def startSeek : Seek := { cause := .start, dwell := 0, timeout := 0, declared := some 1 }

/-- Lane 0 in RATE_SEEK at lt 1 with candidate 1 of 2 declared; its hold and the follow-up's deadline ran out at lt 0. -/
def strayState : State :=
  (((((State.reset.withNow 1).setF (F.LANE_RATE.NCAND 0) 1).setReg (rcandOff 0 1 + 4) 0x013A1400).setF
    (F.LANE_STATE.STATE 0) St.seek).setLane 0 { seek := some startSeek, hold := some ⟨none, 0⟩ }).setBus 0 [strayFollowUp]

/-- The state has nothing else amiss: `Sane` does not exclude it. -/
theorem strayState_sane : Sane strayState := sane_of_check (by decide +kernel)

theorem strayState_laneSt : strayState.laneSt 0 = St.seek := by decide +kernel

/-- What the candidate's FD word gives as it stands. -/
theorem strayState_clampFd : (clampFd (strayState.reg (rcandOff 0 1 + 4))).1 = 0x013A1400 := by decide +kernel

/-- What is copied: the lane's step ends the hold first, with it the follow-up, and that has counted 1 in the word. -/
theorem strayState_wordAfter : wordAfter (.declaredTimingApply 0) strayState (dbtFdOff 0) = some 0x013A1401 := by decide +kernel

/-- Refutes O38: the clause on a declared timing, in a state where the order of lane 0 holds an expired follow-up of channel
24512. The expiry counts in SYNC_LOST of that channel, which is the FD word of the declared candidate
(`syncLost_off_eq_rcandOff`), before the word is copied: LANE_DBT takes 0x013A1401 for 0x013A1400. The statement takes every
state, and neither it nor `Sane` keeps the channel of an entry below 16. -/
theorem not_seeksAndTimers : ¬ Obligations.SeeksAndTimers := by
  intro h
  obtain ⟨-, -, -, -, -, -, -, declared, -⟩ := h strayState 0 followUpFrame 0 0 startSeek
  obtain ⟨t, ht, -, -, hfd, -⟩ := (declared 1 rfl strayState_laneSt rfl).1 (.inl rfl)
  have hword : t.reg (dbtFdOff 0) = 0x013A1401 :=
    Option.some.inj ((wordAfter_of_next ht _).symm.trans strayState_wordAfter)
  have hkept : t.reg (dbtFdOff 0) = 0x013A1400 := hfd.trans strayState_clampFd
  exact absurd (hword.symm.trans hkept) (by decide)

end Sys2Proof.Machine
end
